-- ==== Sys2Proof/Word.lean ====
section
/-!
DEFINITION. The word types of the machine and their plainest arithmetic: bytes, 64-bit scalars, 512-bit vectors, bit fields.
-/

set_option Elab.async false

namespace Sys2Proof

/-- One byte of memory. -/
abbrev Byte := BitVec 8

/-- One scalar: a register, a token payload, an instruction word (R9, R28). -/
abbrev Word := BitVec 64

/-- One vector register or vector token payload (R9). -/
abbrev Vec := BitVec 512

/-- Bits [hi:lo] of a number, as `name[hi:lo]` of R3's notation. -/
def bits (x hi lo : Nat) : Nat := x / 2 ^ lo % 2 ^ (hi + 1 - lo)

/-- Bit n of a number. -/
def bitAt (x n : Nat) : Bool := x.testBit n

/-- A number's low w bits read as two's complement. -/
def signed (x w : Nat) : Int :=
  let y := x % 2 ^ w
  if w = 0 then 0 else if 2 * y < 2 ^ w then (y : Int) else (y : Int) - (2 ^ w : Nat)

/-- An integer reduced into w bits, as a pattern. -/
def pattern (e : Int) (w : Nat) : Nat := (e % (2 ^ w : Nat)).toNat

/-- The smallest multiple of m that is at least x (m positive). -/
def roundUpTo (x m : Nat) : Nat := (x + m - 1) / m * m

/-- The list 0 .. n - 1 mapped; the model's fixed-count loops. -/
def tab {α : Type} (n : Nat) (f : Nat → α) : List α := (List.range n).map f

end Sys2Proof
end

