-- ==== Sys2Proof/Config.lean ====
section
/-!
DEFINITION. What the spec leaves open: free values, which nothing in Lean can evaluate (log 4, 10, 11, 13). Each is
applied to a fresh number, or to the operands it may depend on.
-/

namespace Sys2Proof.Config

/-- A fresh open number: every time the spec leaves a time or an order open, within bounds the user applies (R3, R417). -/
opaque freeNat : Nat → Nat

/-- The running firmware version (R77), which the spec does not give. -/
opaque firmware : Nat

/-- The two device signatures over a transcript (R415); key material never leaves the strongroom. -/
opaque signature : List Byte → List Byte

/-- The measurements an SPDM response carries (R415). -/
opaque measurements : List Byte

/-- The floor of 2^p times a transcendental function at an exact argument (function number, p, numerator, exponent of
two), used only where the model's own enclosure has not separated the rounding (log 13). -/
opaque transcendental : Nat → Nat → Int → Int → Int

end Sys2Proof.Config
end

