-- ==== Sys2Proof/Syntax.lean ====
section
/-!
DEFINITION. The syntax of the machine's steps: the fields of an instruction word (R28-R30) and one constructor per row
of the opcode table. A row is either a word of the Beloz instruction set or a step of one of the device's units
(file 95 of the spec lists them); a unit's step names the unit it belongs to by number:
`pg` a page (die * 512 + frame * 2 + 1 for an upper half), `pe`, `me`, `si` (stream 4 * ME + s), `ten`, `g` (graph
handle), `unit` (R90 code: 0-15 PE, 16-19 ME, 20-21 tenant, 32 + handle a SAF graph), `rt` (route), `t` (teller,
die * 2 + index), `cx`, `fid`, `rid`, `uid`, `mid`, `pk` (an outstanding instruction, request, update, message, packet),
`rg` (region instance), `ix` (tile-task or group entry index), `l` (link), `ptn` (partition).
-/

namespace Sys2Proof

/-- The guard of a word (R28), bits [63:35]; bit 34 is zero in every well-formed word (R31). -/
structure Guard where
  cx  : BitVec 2
  pm  : BitVec 8
  pv  : BitVec 8
  cr  : BitVec 4
  pk  : BitVec 1
  te  : BitVec 1
  tch : BitVec 2
  ttg : BitVec 3
  deriving DecidableEq, Repr

/-- The guard that tests nothing. -/
def Guard.free : Guard := ⟨0, 0, 0, 0, 0, 0, 0, 0⟩

/-- The fields of a Form R word besides OPC and FN (R29). -/
structure FormR where
  g  : Guard
  d  : BitVec 5
  a  : BitVec 5
  b  : BitVec 5
  pd : BitVec 3
  pu : BitVec 2
  ty : BitVec 4
  deriving DecidableEq, Repr

/-- The fields of a Form I word besides OPC and FN (R30). -/
structure FormI where
  g   : Guard
  d   : BitVec 5
  a   : BitVec 5
  imm : BitVec 14
  deriving DecidableEq, Repr

/-- The states of a virtual function under TDISP (R406, R415). -/
inductive Tdi where
  | unlocked | locked | run | error
  deriving DecidableEq, Repr

/-- The resources the strongroom gives a partition (R410). -/
structure PtnRes where
  /-- half-frames, die * 512 + frame * 2 + half (R7) -/
  halves  : List Nat
  /-- program banks, die * 2048 + vault * 32 + bank (R237) -/
  banks   : List Nat
  /-- copy engines, die * 3 + engine (R367) -/
  engines : List Nat
  /-- teller contexts, teller * 4 + context (R24) -/
  tctxs   : List Nat
  /-- the home teller (R409) -/
  home    : Nat
  /-- group entries, die * 1024 + entry (R256) -/
  groups  : List Nat
  /-- launch queues, (die * 16 + queue, priority) (R327, R390) -/
  queues  : List (Nat × Nat)
  /-- ASIDs of the 512 (R211); the first one is the ASID of the partition's teller contexts -/
  asids   : List Nat
  /-- key slot 0-15 (R213, R412) -/
  keySlot : Nat
  /-- HBM pages of 64 KiB, by physical address / 65536 (R413) -/
  hbm     : List Nat
  /-- bias grants, (link, umin, umax) (R376) -/
  links   : List (Nat × Nat × Nat)
  /-- router slots, die * 64 + slot (R411) -/
  slots   : List Nat
  deriving DecidableEq, Repr

/-- The steps of the machine: one constructor per row of spec/opcode_table.json. -/
inductive Instr where
  /-- PE_ARBITER_FIRE (R18): Each fc a PE's arbiter picks the first context after the pointer that has a ready slot and fires that context's lowest-numbered ready slot. -/
  | peArbiterFire (pg pe : Nat)
  /-- WRITE_BACK (R20): A fired instruction's results reach registers, predicates and out latches at the end of fc t+W-1. -/
  | writeBack (fid : Nat)
  /-- TOKEN_ADVANCE (R13): A token advances one latch along its route when the next latch is free or is being vacated. -/
  | tokenAdvance (pg rt : Nat)
  /-- ROUTER_PACKET_EGRESS (R340): A router packs waiting tokens into a RAW, RUN or ZSKIP packet and sends it once the ingress latches have room. -/
  | routerPacketEgress (pg rt : Nat)
  /-- ROUTER_PACKET_INGRESS (R421): A packet reaches the ingress of the consumer's router and is expanded into tokens at one per fc. -/
  | routerPacketIngress (pk : Nat)
  /-- ISECT_PRESENT (R15): The intersection unit presents matched heads, drops unmatched DATA, or raises RANGE on a non-ascending coordinate. -/
  | isectPresent (pg pe : Nat)
  /-- SNAP_PASS (R22): When SNAP stands at every bound in port, the element copies its state to its shadow and places SNAP on each bound out port. -/
  | snapPass (pg unit : Nat)
  /-- DRAIN_FORWARD (R22): When DRAIN stands at every bound in port and no write-back is outstanding, the element places DRAIN on each bound out port. -/
  | drainForward (pg unit : Nat)
  /-- DRAIN_ABSORB (R271): A DRAIN that reaches an element after it has forwarded DRAIN is dequeued and discarded. -/
  | drainAbsorb (pg pe port : Nat)
  /-- PULSE_APPLY (R23): At the end of an fc a control pulse in a port latch sets its bound predicate if that predicate is false and not pending. -/
  | pulseApply (pg pe port : Nat)
  /-- TELLER_ISSUE (R24): Each fc a teller takes the next context in rotation and evaluates the guard of the word at its PC. -/
  | tellerIssue (t : Nat)
  /-- TELLER_FETCH_LINE (R422): A 64-byte code line arrives in a teller context's fetch buffer. -/
  | tellerFetchLine (t cx line : Nat)
  /-- LATE_TRAP (R419): A fault found when a teller memory word is performed traps with EPC at the oldest unissued word and FPC at the faulting word. -/
  | lateTrap (fid : Nat)
  /-- MINT_LOAD (R44): The mint loads a page image, checks its words and consistency, and rejects it or places it into a frame. -/
  | mintLoad (rg page : Nat)
  /-- REGION_ARM (R331): The region arms when every page is loaded, entering its owner ranges into the die's owner directory. -/
  | regionArm (rg : Nat)
  /-- SHADOW_FILL_COMPLETE (R335): The mint finishes filling every frame's shadow bank with the pages of the next sequence step. -/
  | shadowFillComplete (rg : Nat)
  /-- SEQUENCE_SWAP (R335): After the step has drained and the shadow fill is complete, every frame of the task swaps banks and the next step's region is armed. -/
  | sequenceSwap (rg : Nat)
  /-- STREAM_HEADER_CAPTURE (R418): A shaped stream reads and captures its shape record's header when its descriptor takes effect. -/
  | streamHeaderCapture (pg si : Nat)
  /-- STREAM_ROW_ISSUE (R223): A load stream places its next header or row token into its out latch. -/
  | streamRowIssue (pg si : Nat)
  /-- STREAM_WINDOW_READ (R418): A shaped stream's read of a 64-entry boundary window arrives. -/
  | streamWindowRead (pg si : Nat)
  /-- LENGTH_MARKER_AT_HEAD (R228): A length marker that becomes the head of an element's in port raises LEN and the element withholds. -/
  | lengthMarkerAtHead (pg pe port : Nat)
  /-- POISON_MARKER_AT_HEAD (R240): A poison marker that becomes the head of an in port raises POISON and the element withholds. -/
  | poisonMarkerAtHead (pg pe port : Nat)
  /-- STORE_STREAM_TOKEN (R224): A store stream consumes a token, writing a row, setting its row counter from a header, or faulting on a marker. -/
  | storeStreamToken (pg si : Nat)
  /-- SHAPE_WINDOW_REFILL (R170): A shape cache window refill completes through the ME0 or ME2 port queue. -/
  | shapeWindowRefill (pg sx : Nat)
  /-- SHSET_WRITE_THROUGH (R173): The change made by SHSET is written through to the record in memory with release ordering. -/
  | shsetWriteThrough (pg sx : Nat)
  /-- TILE_QUEUE_PERFORM (R187): A tile instruction reaches the head of its tenant's queue and is performed. -/
  | tileQueuePerform (pg ten : Nat)
  /-- MMA_ENGINE_STEP (R180): The macro-op sequencer performs one engine step of an MMA. -/
  | mmaEngineStep (pg ten : Nat)
  /-- TENANT_FLUSH (R183): A VF reset, cancellation or fault stops a tenant's MMA at its next stated step and discards its queued entries. -/
  | tenantFlush (pg ten : Nat)
  /-- ARM_RECORD_WALK (R185): The graph sequencer takes the next arm record and sets the tenant's tile counter. -/
  | armRecordWalk (rg : Nat)
  /-- BANK_ACCESS (R218): A vault bank serves one 64-byte request from its round-robin of ports. -/
  | bankAccess (die bank : Nat)
  /-- HBM_ACCESS_COMPLETE (R417): An HBM read returns its data or an HBM write is performed. -/
  | hbmAccessComplete (rid : Nat)
  /-- TRANSLATION_WALK (R219): A page-table walk completes and loads the entry, or raises XLATE. -/
  | translationWalk (rid : Nat)
  /-- UPDATE_TOKEN_ARRIVE (R234): An atomic update token reaches its owner node and enters the update queue. -/
  | updateTokenArrive (uid : Nat)
  /-- OWNER_UPDATE_APPLY (R234): An owner node applies one queued update per fc as one indivisible access. -/
  | ownerUpdateApply (pg me : Nat)
  /-- ATOMIC_RESULT_RETURN (R234): The result or acknowledgement of an atomic reaches its issuer. -/
  | atomicResultReturn (fid : Nat)
  /-- INSTRUCTION_PERFORMED (R242): A memory, condition-waiting or engine-issuing instruction is performed after its condition or access completes, and writes back. -/
  | instructionPerformed (fid : Nat)
  /-- TILL_APPEND (R231): The network interface writes an arriving message into a till's slots and advances TAIL as a release. -/
  | tillAppend (mid : Nat)
  /-- SPAN_MESSAGE_ARRIVE (R379): A message from a peer arrives through a span port. -/
  | spanMessageArrive (port ptn till res : Nat) (bytes : List Byte)
  /-- UNCORRECTABLE_ERROR (R239): An uncorrectable memory error poisons its 64-byte block. -/
  | uncorrectableError (pa : Nat)
  /-- LATCH_PARITY_ERROR (R239): A latch parity error poisons the token that the latch held. -/
  | latchParityError (pg rt pos : Nat)
  /-- CORRECTED_ERROR (R238): A corrected soft error is counted in the die's error counters. -/
  | correctedError (die cls : Nat)
  /-- GRP_ENTRY_APPLY (R256): A group entry applies one arriving GRP operation and answers it. -/
  | grpEntryApply (die ix : Nat)
  /-- TCNT_APPLY (R260): The region controller applies one TCNT operation per fc in arrival order. -/
  | tcntApply (rg : Nat)
  /-- DRAIN_START (R270): When every sink has reported, the controller places DRAIN at load streams, source elements and back arcs, discarding back-arc tokens. -/
  | drainStart (rg : Nat)
  /-- ME_DRAIN_PASS (R271): DRAIN passes an ME once its streams have taken DRAIN and its queues are empty. -/
  | meDrainPass (pg me : Nat)
  /-- PAGE_DRAINED (R271): DRAIN has passed every element and ME of a page, which seals its escrow and releases its bank tokens. -/
  | pageDrained (pg : Nat)
  /-- REGION_COMPLETE (R272): Once every page has drained, the controller release-stores the completion word, posts the completion record and marks the region reusable. -/
  | regionComplete (rg : Nat)
  /-- QUIET_COUNT_EXPIRE (R274): The region's quiet count reaches 256 and the controller decides complete, STALL or DRAINSTALL. -/
  | quietCountExpire (rg : Nat)
  /-- STAT_COUNT_EMIT (R90): At a tile-closing token a unit emits count tokens for its nonzero classes and clears its counts. -/
  | statCountEmit (pg unit : Nat)
  /-- STAT_RECORD_WRITE (R90): When every configured source has delivered for a tile, the ME writes one 64-byte statistics record. -/
  | statRecordWrite (pg : Nat)
  /-- TILE_TASK_ISSUE (R312): The region controller issues the next tile-task index. -/
  | tileTaskIssue (rg : Nat)
  /-- TILE_TASK_SEAL (R315): A tile-task seals once every node's tile count exceeds its index and all its accesses are performed. -/
  | tileTaskSeal (rg ix : Nat)
  /-- ESCROW_RESERVE_STALL (R315): A store that finds the region's escrow reserve full stalls its tile-task by back-pressure. -/
  | escrowReserveStall (rg ix : Nat)
  /-- WRITE_THROUGH_START (R315): A stalled tile-task that becomes the oldest live key writes its escrow as one commit and stores directly from then on. -/
  | writeThroughStart (rg ix : Nat)
  /-- COMMIT_TILE_TASK (R316): The clearing unit writes a tile-task's escrowed lines to HBM in key order. -/
  | commitTileTask (rg ix : Nat)
  /-- RERUN_ISSUE (R317): A doomed tile-task that seals is issued again with fresh escrow and signature. -/
  | rerunIssue (rg ix : Nat)
  /-- CUT_SNAP_INJECT (R320): The controller injects SNAP at sources so that a sealed tile-task in a rollback-enabled region gets a cut. -/
  | cutSnapInject (rg : Nat)
  /-- SCHEDULER_CYCLE (R330): Each fc the die's scheduler orders the eligible heads, starts at most one task and reserves half-frames. -/
  | schedulerCycle (die : Nat)
  /-- PRIORITY_AGING (R329): A queue head's effective priority rises by one for each 1 ms period it waits. -/
  | priorityAging (die q : Nat)
  /-- STEAL_REQUEST_SERVE (R332): An instance's controller answers a steal request by splitting off the upper half of its range or by refusing. -/
  | stealRequestServe (rg : Nat)
  /-- SAF_SLICE (R348): A graph dequeues one slice and computes its nodes. -/
  | safSlice (pg g : Nat)
  /-- SAF_OUTPUT (R349): A slice's result token enters the out latch depth+1 fc after the slice was dequeued. -/
  | safOutput (pg g : Nat)
  /-- SAF_CTL_HANDLE (R351): The SAF re-issues headers with format f32, forwards other CTL tokens, or faults on poison and length markers. -/
  | safCtlHandle (pg g : Nat)
  /-- LINK_FIFO_APPLY (R377): A link applies its next turn request by choosing eligible groups to turn. -/
  | linkFifoApply (l : Nat)
  /-- GROUP_TURN_COMPLETE (R377): 40 ns after its last flit a turning group carries the other direction. -/
  | groupTurnComplete (l g : Nat)
  /-- LINK_HOLD_EXPIRE (R378): A link hold ends after 50 us. -/
  | linkHoldExpire (l : Nat)
  /-- LINK_FLIT_FAILURE (R395): A die-to-die flit fails its check after retries, and the waiting region withholds with LINK 0x001. -/
  | linkFlitFailure (rg : Nat)
  /-- COPY_COMMAND_EXECUTE (R371): A copy engine performs its next COPY, FILL or XF command row by row. -/
  | copyCommandExecute (die e : Nat)
  /-- NMC_COMMAND_EXECUTE (R373): A stack base die performs the next near-memory command block by block. -/
  | nmcCommandExecute (die ptn : Nat)
  /-- ENGINE_COMPLETION_POST (R368): An engine posts a command's completion record when the event queue has space. -/
  | engineCompletionPost (die q : Nat)
  /-- UNDO_LOG_LOW (R398): An ME's undo log falls below 64 free entries and the controller injects SNAP at every source stream. -/
  | undoLogLow (pg me : Nat)
  /-- PREEMPT_FREEZE (R400): A pre-empted region reaches a quiet fc and is frozen with its tokens in place. -/
  | preemptFreeze (rg : Nat)
  /-- PREEMPT_WATCHDOG_EXPIRE (R401): The pre-emption watchdog expires and the region is rolled back and frozen, or frozen as it stands. -/
  | preemptWatchdogExpire (rg : Nat)
  /-- VF_RESET (R405): A VF reset cancels its tasks, flushes its tenants and router slots, and leaves the other tenants running. -/
  | vfReset (ptn : Nat)
  /-- HYPERVISOR_VF_PREEMPT (R405): The strongroom pre-empts every task of a VF and saves its pages and teller contexts encrypted. -/
  | hypervisorVfPreempt (ptn : Nat)
  /-- HOST_MBX_WRITE (R408): A write to MBX queues its 8 bytes into the partition's host mailbox, or is dropped and sets MBXERR. -/
  | hostMbxWrite (ptn : Nat) (v : Word)
  /-- HOST_NOTIFY_READ (R408): A read of NOTIFY removes the oldest notify word or returns all ones. -/
  | hostNotifyRead (ptn : Nat)
  /-- MBXERR_CLEAR (R408): Writing 1 to MBXFREE bit 63 clears MBXERR. -/
  | mbxerrClear (ptn : Nat)
  /-- HOST_REGISTER_WRITE (R408): A host write to a register with no behaviour of its own. -/
  | hostRegisterWrite (ptn off : Nat) (v : Word)
  /-- PFCMD_REQUEST (R410): The hypervisor places a request in the PFCMD ring for the strongroom. -/
  | pfcmdRequest (req : List Word)
  /-- PARTITION_CREATE (R410): The strongroom creates a partition, chooses its home teller and grants its resources. -/
  | partitionCreate (ptn : Nat) (r : PtnRes)
  /-- PARTITION_RESIZE (R410): The strongroom changes the resources of a partition. -/
  | partitionResize (ptn : Nat) (r : PtnRes)
  /-- PARTITION_DESTROY (R410): The strongroom destroys a partition. -/
  | partitionDestroy (ptn : Nat)
  /-- CXL_MEM_ACCESS (R407): A host CXL.mem access reads or writes committed, expanded HBM state, subject to the key slot check. -/
  | cxlMemAccess (ptn pa len : Nat) (w : Option (List Byte))
  /-- SPDM_REQUEST (R415): The strongroom answers an SPDM request with dual-signed measurements. -/
  | spdmRequest (nonce : List Byte)
  /-- TDI_STATE_CHANGE (R415): A TDI leaves RUN or enters ERROR or CONFIG_UNLOCKED, closing debug and resetting as R405 states. -/
  | tdiStateChange (ptn : Nat) (st : Tdi)
  /-- DEBUG_POLICY_SUPPLY (R415): A tenant supplies a signed policy object that opens counter sets and debug functions. -/
  | debugPolicySupply (ptn sets : Nat) (signed : Bool)
  /-- MANIFEST_SIGN (R77): The strongroom signs a manifest, loads its RNG keys and writes the firmware version, or refuses. -/
  | manifestSign (ptn : Nat) (man : List Byte)
  /-- POWER_UP (R416): The anchor tests itself, sets anchor READY and the strongroom verifies the firmware. -/
  | powerUp
  /-- DIE_READY (R416): A die finishes calibration and stack training and sets its READY bit. -/
  | dieReady (die : Nat)
  /-- EARLY_SERVICE_START (R416): When the first die is ready, EARLY is set and that die serves at 470 MHz. -/
  | earlyServiceStart
  /-- PACKAGE_READY (R416): When every die is ready, package READY is set and early service ends at tile-task boundaries. -/
  | packageReady
  /-- POWER_CAP (R416): The counting house lowers the fabric clock of whole dies to cap power. -/
  | powerCap (die mhz : Nat)
  /-- WATCHDOG_SET (R401): The counting house sets a die's pre-emption watchdog between 10 us and 1 ms. -/
  | watchdogSet (die n : Nat)
  /-- CSR_CTL_WRITE (R390): Writing RUN=1 to CTLn starts a halted teller context at the given PC. -/
  | csrCtlWrite (t cx n : Nat) (v : Word)
  /-- CSR_ASIDHI_WRITE (R390): Writing ASIDHI commits both halves of the selected ASID table entry, or raises PRIV. -/
  | csrAsidhiWrite (t cx : Nat) (v : Word)
  /-- CSR_ASIDSEL_WRITE (R390): Writing ASIDSEL selects an ASID entry, or raises PRIV if the ASID is not the partition's. -/
  | csrAsidselWrite (t cx : Nat) (v : Word)
  /-- CSR_PTILL_WRITE (R390): Writing PTILL names the partition's till, or raises ALIGN. -/
  | csrPtillWrite (t cx : Nat) (v : Word)
  /-- ASSAY_OPERATION (R294): The pool's assay unit performs one summary-tree operation indivisibly. -/
  | assayOperation (die : Nat)
  /-- GROUP_ELIGIBLE (R377): A lane group chosen by a turn request becomes eligible 2 us after its last turn began and enters TURNING. -/
  | groupEligible (l g : Nat)
  /-- PEER_PERMIT_REQUEST (R252): A PRMT.GET or PRMT.RET from a peer device arrives through a span port and is granted or queued at the local till. -/
  | peerPermitRequest (port ptn till r : Nat) (get : Bool)
  /-- VF_RESTORE (R405): The strongroom restores a hypervisor-pre-empted VF's pages and teller contexts, and the guest's switch continues from its saved PCs. -/
  | vfRestore (ptn : Nat)
  /-- BAR2_WINDOW_ACCESS (R407): A host access through VF BAR2 reaches the partition's vault pages by its ASID 1 mapping, or through PF BAR2 reads zero. -/
  | bar2WindowAccess (ptn off len : Nat) (w : Option (List Byte))
  /-- NOP (R101): No effect beyond dequeuing its CR channels. -/
  | nop (o : FormR)
  /-- ADD.W (R102): Wrapping addition. -/
  | addW (o : FormR)
  /-- ADD.SS (R102): Signed saturating addition. -/
  | addSs (o : FormR)
  /-- ADD.SN (R102): Unsigned saturating addition. -/
  | addSn (o : FormR)
  /-- SUB.W (R102): Wrapping subtraction. -/
  | subW (o : FormR)
  /-- SUB.SS (R102): Signed saturating subtraction. -/
  | subSs (o : FormR)
  /-- SUB.SN (R102): Unsigned saturating subtraction. -/
  | subSn (o : FormR)
  /-- ADDI (R103): 64-bit add of a sign-extended immediate. -/
  | addi (o : FormI)
  /-- MUL.LO (R104): Low half of the product. -/
  | mulLo (o : FormR)
  /-- MUL.HS (R104): High half of the signed product. -/
  | mulHs (o : FormR)
  /-- MUL.HN (R104): High half of the unsigned product. -/
  | mulHn (o : FormR)
  /-- MAC.W (R105): Wrapping multiply-accumulate into D. -/
  | macW (o : FormR)
  /-- MAC.SS (R105): Signed saturating multiply-accumulate into D. -/
  | macSs (o : FormR)
  /-- DIV.QS (R106): Signed truncating quotient. -/
  | divQs (o : FormR)
  /-- DIV.QN (R106): Unsigned quotient. -/
  | divQn (o : FormR)
  /-- DIV.MS (R106): Signed remainder. -/
  | divMs (o : FormR)
  /-- DIV.MN (R106): Unsigned remainder. -/
  | divMn (o : FormR)
  /-- LOG.AND (R107): Bitwise AND. -/
  | logAnd (o : FormR)
  /-- LOG.OR (R107): Bitwise OR. -/
  | logOr (o : FormR)
  /-- LOG.XOR (R107): Bitwise XOR. -/
  | logXor (o : FormR)
  /-- LOG.ANDN (R107): A AND NOT B. -/
  | logAndn (o : FormR)
  /-- LOG.ORN (R107): A OR NOT B. -/
  | logOrn (o : FormR)
  /-- LOG.XNOR (R107): Bitwise XNOR. -/
  | logXnor (o : FormR)
  /-- SHF.SHL (R108): Shift left by a register amount. -/
  | shfShl (o : FormR)
  /-- SHF.SHR (R108): Logical shift right by a register amount. -/
  | shfShr (o : FormR)
  /-- SHF.SAR (R108): Arithmetic shift right by a register amount. -/
  | shfSar (o : FormR)
  /-- SHF.ROL (R108): Rotate left by a register amount. -/
  | shfRol (o : FormR)
  /-- SHFI.SHL (R108): 64-bit shift left by an immediate. -/
  | shfiShl (o : FormI)
  /-- SHFI.SHR (R108): 64-bit logical shift right by an immediate. -/
  | shfiShr (o : FormI)
  /-- SHFI.SAR (R108): 64-bit arithmetic shift right by an immediate. -/
  | shfiSar (o : FormI)
  /-- SHFI.ROL (R108): 64-bit rotate left by an immediate. -/
  | shfiRol (o : FormI)
  /-- MMX.MINS (R109): Signed minimum. -/
  | mmxMins (o : FormR)
  /-- MMX.MAXS (R109): Signed maximum. -/
  | mmxMaxs (o : FormR)
  /-- MMX.MINN (R109): Unsigned minimum. -/
  | mmxMinn (o : FormR)
  /-- MMX.MAXN (R109): Unsigned maximum. -/
  | mmxMaxn (o : FormR)
  /-- BIT.POPC (R110): Population count. -/
  | bitPopc (o : FormR)
  /-- BIT.CLZ (R110): Count of leading zeros. -/
  | bitClz (o : FormR)
  /-- BIT.CTZ (R110): Count of trailing zeros. -/
  | bitCtz (o : FormR)
  /-- BIT.BREV (R110): Bit reversal. -/
  | bitBrev (o : FormR)
  /-- BIT.BEXT (R110): Bit-field extract. -/
  | bitBext (o : FormR)
  /-- BIT.BINS (R110): Bit-field insert into D. -/
  | bitBins (o : FormR)
  /-- MOV.MOV (R111): Move. -/
  | movMov (o : FormR)
  /-- MOV.MOVK (R111): Masked merge into D. -/
  | movMovk (o : FormR)
  /-- MOV.SEL (R111): Select A or B by D. -/
  | movSel (o : FormR)
  /-- MOV.ABS (R111): Absolute value. -/
  | movAbs (o : FormR)
  /-- MOV.NEG (R111): Wrapping negation. -/
  | movNeg (o : FormR)
  /-- MOV.SEXT (R111): Sign extension to 64 bits. -/
  | movSext (o : FormR)
  /-- MOV.ZEXT (R111): Zero extension to 64 bits. -/
  | movZext (o : FormR)
  /-- LI (R112): Load a sign-extended immediate. -/
  | li (o : FormI)
  /-- LIS.SLn (R112): Replace one slice of D with an immediate. -/
  | lis (fn : BitVec 3) (o : FormI)
  /-- ADDR.SHn (R113): Base plus shifted index address. -/
  | addr (fn : BitVec 3) (o : FormR)
  /-- CMP.EQ (R114): Compare equal. -/
  | cmpEq (o : FormR)
  /-- CMP.NE (R114): Compare not equal. -/
  | cmpNe (o : FormR)
  /-- CMP.LT (R114): Signed less than. -/
  | cmpLt (o : FormR)
  /-- CMP.LE (R114): Signed less or equal. -/
  | cmpLe (o : FormR)
  /-- CMP.LTN (R114): Unsigned less than. -/
  | cmpLtn (o : FormR)
  /-- CMP.LEN (R114): Unsigned less or equal. -/
  | cmpLen (o : FormR)
  /-- CMP.TST (R114): Test for a common set bit. -/
  | cmpTst (o : FormR)
  /-- CMPI.EQ (R114): Immediate compare equal into a predicate. -/
  | cmpiEq (o : FormI)
  /-- CMPI.NE (R114): Immediate compare not equal into a predicate. -/
  | cmpiNe (o : FormI)
  /-- CMPI.LT (R114): Immediate signed less than into a predicate. -/
  | cmpiLt (o : FormI)
  /-- CMPI.LE (R114): Immediate signed less or equal into a predicate. -/
  | cmpiLe (o : FormI)
  /-- CMPI.LTN (R114): Immediate unsigned less than into a predicate. -/
  | cmpiLtn (o : FormI)
  /-- CMPI.LEN (R114): Immediate unsigned less or equal into a predicate. -/
  | cmpiLen (o : FormI)
  /-- CMPI.TST (R114): Immediate bit test into a predicate. -/
  | cmpiTst (o : FormI)
  /-- FCMP.EQ (R115): Floating compare equal. -/
  | fcmpEq (o : FormR)
  /-- FCMP.NE (R115): Floating compare not equal or unordered. -/
  | fcmpNe (o : FormR)
  /-- FCMP.LT (R115): Floating less than. -/
  | fcmpLt (o : FormR)
  /-- FCMP.LE (R115): Floating less or equal. -/
  | fcmpLe (o : FormR)
  /-- FCMP.UN (R115): Floating unordered. -/
  | fcmpUn (o : FormR)
  /-- FCMP.OR (R115): Floating ordered. -/
  | fcmpOr (o : FormR)
  /-- PSET.SET (R117): Set a predicate true. -/
  | psetSet (o : FormR)
  /-- PSET.CLR (R117): Set a predicate false. -/
  | psetClr (o : FormR)
  /-- PSET.CPY (R117): Copy a predicate. -/
  | psetCpy (o : FormR)
  /-- PSET.NOT (R117): Negate a predicate. -/
  | psetNot (o : FormR)
  /-- PSET.SIG (R117): Send one pulse into a control out port. -/
  | psetSig (o : FormR)
  /-- PLOG.AND (R118): Predicate AND. -/
  | plogAnd (o : FormR)
  /-- PLOG.OR (R118): Predicate OR. -/
  | plogOr (o : FormR)
  /-- PLOG.XOR (R118): Predicate XOR. -/
  | plogXor (o : FormR)
  /-- PLOG.ANDN (R118): Predicate A AND NOT B. -/
  | plogAndn (o : FormR)
  /-- PMOV.TOA (R119): Predicate to register. -/
  | pmovToa (o : FormR)
  /-- PMOV.FRA (R119): Register to predicate. -/
  | pmovFra (o : FormR)
  /-- SEND.D (R121): Send a value tagged DATA. -/
  | sendD (o : FormR)
  /-- SEND.EOR (R121): Send a value tagged EOR. -/
  | sendEor (o : FormR)
  /-- SEND.EOT (R121): Send a value tagged EOT. -/
  | sendEot (o : FormR)
  /-- SEND.EOS (R121): Send a value tagged EOS. -/
  | sendEos (o : FormR)
  /-- SEND.LVL (R121): Send a value tagged LVL. -/
  | sendLvl (o : FormR)
  /-- SEND.CTL (R121): Send a value tagged CTL. -/
  | sendCtl (o : FormR)
  /-- FWD (R122): Forward the head token unchanged. -/
  | fwd (o : FormR)
  /-- REPL (R123): Replicate a scalar into every lane of a vector token. -/
  | repl (o : FormR)
  /-- TAGR (R124): Send a value with a tag read from B. -/
  | tagr (o : FormR)
  /-- MRG.ARR (R126): Merge two inputs in arrival order. -/
  | mrgArr (o : FormR)
  /-- MRG.ROT (R126): Merge two inputs in strict turn. -/
  | mrgRot (o : FormR)
  /-- MARK.SNAP (R129): Take a shadow and emit SNAP at a source element. -/
  | markSnap (o : FormR)
  /-- DRAIN (R130): Emit DRAIN from a source element and stop it firing. -/
  | drain (o : FormR)
  /-- VADD (R140): Lane-wise addition. -/
  | vadd (o : FormR)
  /-- VSUB (R140): Lane-wise subtraction. -/
  | vsub (o : FormR)
  /-- VMUL (R140): Lane-wise multiplication. -/
  | vmul (o : FormR)
  /-- VFMA.FMA (R140): Fused A*B+D. -/
  | vfmaFma (o : FormR)
  /-- VFMA.FMS (R140): Fused A*B-D. -/
  | vfmaFms (o : FormR)
  /-- VFMA.FNMA (R140): Fused -(A*B)+D. -/
  | vfmaFnma (o : FormR)
  /-- VDIV.DIV (R141): Lane-wise division. -/
  | vdivDiv (o : FormR)
  /-- VDIV.RCP (R141): Lane-wise reciprocal. -/
  | vdivRcp (o : FormR)
  /-- VDIV.RSQ (R141): Lane-wise reciprocal square root. -/
  | vdivRsq (o : FormR)
  /-- VDIV.SQRT (R141): Lane-wise square root. -/
  | vdivSqrt (o : FormR)
  /-- VMMX.MIN (R142): Lane minimum, NaN propagating. -/
  | vmmxMin (o : FormR)
  /-- VMMX.MAX (R142): Lane maximum, NaN propagating. -/
  | vmmxMax (o : FormR)
  /-- VMMX.MINN (R142): Lane minimum ignoring a single NaN. -/
  | vmmxMinn (o : FormR)
  /-- VMMX.MAXN (R142): Lane maximum ignoring a single NaN. -/
  | vmmxMaxn (o : FormR)
  /-- VSGN.ABS (R143): Lane absolute value. -/
  | vsgnAbs (o : FormR)
  /-- VSGN.NEG (R143): Lane negation. -/
  | vsgnNeg (o : FormR)
  /-- VSGN.CSGN (R143): Copy the sign of B onto |A|. -/
  | vsgnCsgn (o : FormR)
  /-- VCMP (R144): Lane relation codes. -/
  | vcmp (o : FormR)
  /-- VSEL (R145): Lane select by D. -/
  | vsel (o : FormR)
  /-- VLOG (R145): Bitwise select over 512 bits. -/
  | vlog (o : FormR)
  /-- VSHF (R146): Lane shift by signed amounts. -/
  | vshf (o : FormR)
  /-- VCLMP (R146): Lane clamp between A and B. -/
  | vclmp (o : FormR)
  /-- VCVT.RNE (R147): Lane conversion, round to nearest even. -/
  | vcvtRne (o : FormR)
  /-- VCVT.RZ (R147): Lane conversion toward zero. -/
  | vcvtRz (o : FormR)
  /-- VCVT.RU (R147): Lane conversion upwards. -/
  | vcvtRu (o : FormR)
  /-- VCVT.RD (R147): Lane conversion downwards. -/
  | vcvtRd (o : FormR)
  /-- VCVT.RNA (R147): Lane conversion, ties away. -/
  | vcvtRna (o : FormR)
  /-- VTRN.EXP (R148): Lane e^x. -/
  | vtrnExp (o : FormR)
  /-- VTRN.EXP2 (R148): Lane 2^x. -/
  | vtrnExp2 (o : FormR)
  /-- VTRN.LOG (R148): Lane natural log. -/
  | vtrnLog (o : FormR)
  /-- VTRN.LOG2 (R148): Lane base-2 log. -/
  | vtrnLog2 (o : FormR)
  /-- VTRN.TANH (R148): Lane tanh. -/
  | vtrnTanh (o : FormR)
  /-- VTRN.SIGM (R148): Lane sigmoid. -/
  | vtrnSigm (o : FormR)
  /-- VDOT (R149): Exact dot product rounded once. -/
  | vdot (o : FormR)
  /-- VRED.SUM (R150): Tree sum of lanes. -/
  | vredSum (o : FormR)
  /-- VRED.MAX (R150): Tree maximum of lanes. -/
  | vredMax (o : FormR)
  /-- VRED.MIN (R150): Tree minimum of lanes. -/
  | vredMin (o : FormR)
  /-- VRED.AND (R150): Tree AND of lanes. -/
  | vredAnd (o : FormR)
  /-- VRED.OR (R150): Tree OR of lanes. -/
  | vredOr (o : FormR)
  /-- VACC.SUM (R151): Accumulate stream tokens by sum up to a closing level. -/
  | vaccSum (o : FormR)
  /-- VACC.MAX (R151): Accumulate stream tokens by maximum. -/
  | vaccMax (o : FormR)
  /-- VACC.MIN (R151): Accumulate stream tokens by minimum. -/
  | vaccMin (o : FormR)
  /-- VACC.CNT (R151): Count stream tokens up to a closing level. -/
  | vaccCnt (o : FormR)
  /-- VSCAN.ISUM (R153): Segmented inclusive lane sum. -/
  | vscanIsum (o : FormR)
  /-- VSCAN.XSUM (R153): Segmented exclusive lane sum. -/
  | vscanXsum (o : FormR)
  /-- VSCAN.IMAX (R153): Segmented inclusive lane maximum. -/
  | vscanImax (o : FormR)
  /-- VPRM.IDX (R154): Permute lanes by indices. -/
  | vprmIdx (o : FormR)
  /-- VPRM.ROT (R154): Rotate lanes. -/
  | vprmRot (o : FormR)
  /-- VPRM.BCL (R154): Broadcast one lane. -/
  | vprmBcl (o : FormR)
  /-- VPRM.PAIR (R154): Interleave lanes of A and B. -/
  | vprmPair (o : FormR)
  /-- VQNT (R156): Quantise f32 lanes to a narrow integer. -/
  | vqnt (o : FormR)
  /-- VDQ (R156): Dequantise integer lanes to f32. -/
  | vdq (o : FormR)
  /-- BPPK (R157): Pack i8 lanes into bit-plane blocks. -/
  | bppk (o : FormR)
  /-- BPUN (R157): Unpack the first m planes of bit-plane blocks. -/
  | bpun (o : FormR)
  /-- VNRM.STAT (R158): Accumulate exact mean and variance statistics per segment. -/
  | vnrmStat (o : FormR)
  /-- VNRM.APPLY (R159): Normalise lanes with a VNRM.STAT result. -/
  | vnrmApply (o : FormR)
  /-- VINS.INS (R155): Insert a scalar into one lane. -/
  | vinsIns (o : FormR)
  /-- VINS.EXT (R155): Extract one lane to a scalar. -/
  | vinsExt (o : FormR)
  /-- VIOTA (R155): Fill lanes with start + j*step. -/
  | viota (o : FormR)
  /-- VBMP.EXPD (R160): Expand bitmap bits to lane masks. -/
  | vbmpExpd (o : FormR)
  /-- VBMP.CNT (R160): Count the set bits of a bitmap. -/
  | vbmpCnt (o : FormR)
  /-- VBMP.SETB (R160): Set bitmap bits at indices. -/
  | vbmpSetb (o : FormR)
  /-- VMATCH (R161): Step the byte-string automaton over a text chunk. -/
  | vmatch (o : FormR)
  /-- VTOPK (R162): Merge 16 candidates into an 8-entry ranked list. -/
  | vtopk (o : FormR)
  /-- VRNG (R163): Counter-mode AES random lanes. -/
  | vrng (o : FormR)
  /-- VHEAD (R164): One or zero depending on whether a head precedes the row in its 16-row window. -/
  | vhead (o : FormR)
  /-- ZCFG.TY (R190): Set a tile register's type. -/
  | zcfgTy (o : FormR)
  /-- ZCFG.ROW (R190): Set a tile register's row count. -/
  | zcfgRow (o : FormR)
  /-- ZCFG.COL (R190): Set a tile register's column count. -/
  | zcfgCol (o : FormR)
  /-- ZCFG.ALL (R190): Set a tile register's type, rows and columns. -/
  | zcfgAll (o : FormR)
  /-- ZRD (R191): Emit a tile register's rows as vector tokens. -/
  | zrd (o : FormR)
  /-- ZLD (R192): Load one stream tile into a tile register. -/
  | zld (o : FormR)
  /-- ZST (R193): Store a tile register row by row. -/
  | zst (o : FormR)
  /-- ZFILL.ZERO (R194): Fill a tile with zeros. -/
  | zfillZero (o : FormR)
  /-- ZFILL.ONES (R194): Fill a tile with ones. -/
  | zfillOnes (o : FormR)
  /-- ZFILL.IDEN (R194): Fill a tile with the identity. -/
  | zfillIden (o : FormR)
  /-- ZFILL.TRIL (R194): Fill a tile lower triangular including the diagonal. -/
  | zfillTril (o : FormR)
  /-- ZFILL.TRLS (R194): Fill a tile strictly lower triangular. -/
  | zfillTrls (o : FormR)
  /-- ZFILL.TRIU (R194): Fill a tile upper triangular. -/
  | zfillTriu (o : FormR)
  /-- ZFILL.BCST (R194): Fill a tile with a broadcast scalar. -/
  | zfillBcst (o : FormR)
  /-- ZWLD (R195): Load a tile into the array as weights and latch its format. -/
  | zwld (o : FormR)
  /-- MMA.D (R196): Dense matrix product into a fresh accumulator. -/
  | mmaD (o : FormR)
  /-- MMA.R (R196): Ragged matrix product restricted to same-segment rows. -/
  | mmaR (o : FormR)
  /-- MMA.DT (R196): Dense matrix product accumulating into D. -/
  | mmaDt (o : FormR)
  /-- MMA.RT (R196): Ragged matrix product accumulating into D. -/
  | mmaRt (o : FormR)
  /-- ZTRN (R197): Transpose a tile. -/
  | ztrn (o : FormR)
  /-- ZADD.ADD (R197): Add two tiles. -/
  | zaddAdd (o : FormR)
  /-- ZADD.SCL (R197): Scale a tile by a scalar. -/
  | zaddScl (o : FormR)
  /-- ZCVT (R198): Convert a tile, optionally rescaling an i32 accumulator. -/
  | zcvt (o : FormR)
  /-- ZARM (R199): Add to the tenant's tile counter. -/
  | zarm (o : FormR)
  /-- ZSPLIT (R199): Change the row split between the two tenants. -/
  | zsplit (o : FormR)
  /-- ZSTAT (R200): Read a tenant counter or descriptor. -/
  | zstat (o : FormR)
  /-- ZWAIT (R199): Wait until earlier tile work of the tenant completes. -/
  | zwait (o : FormR)
  /-- ZMOV.TOV (R201): Move a tile row to a vector register. -/
  | zmovTov (o : FormR)
  /-- ZMOV.FRV (R201): Move a vector into a tile row. -/
  | zmovFrv (o : FormR)
  /-- SHBIND (R203): Capture a shape record into a shape register with acquire semantics. -/
  | shbind (o : FormR)
  /-- SHSET (R204): Change a field of the bound shape record. -/
  | shset (o : FormR)
  /-- SHGET (R205): Read a field of a shape record. -/
  | shget (o : FormR)
  /-- SHINV (R205): Unbind a shape register. -/
  | shinv (o : FormR)
  /-- SHSEG (R205): Find the segment holding a row. -/
  | shseg (o : FormR)
  /-- SHROW (R205): Read a segment's start and length. -/
  | shrow (o : FormR)
  /-- LD.PL (R244): Plain load. -/
  | ldPl (o : FormR)
  /-- LD.ACQ (R245): Acquire load. -/
  | ldAcq (o : FormR)
  /-- ST.PL (R244): Plain store. -/
  | stPl (o : FormR)
  /-- ST.REL (R245): Release store. -/
  | stRel (o : FormR)
  /-- VLD (R244): 64-byte vector load. -/
  | vld (o : FormR)
  /-- VST.PL (R244): Plain 64-byte vector store. -/
  | vstPl (o : FormR)
  /-- VST.MSK (R244): Masked vector store. -/
  | vstMsk (o : FormR)
  /-- VST.REL (R245): Release vector store. -/
  | vstRel (o : FormR)
  /-- SOPEN (R246): Read a descriptor into a stream and start it. -/
  | sopen (o : FormR)
  /-- SCTL.CLOSE (R246): Close a stream. -/
  | sctlClose (o : FormR)
  /-- SCTL.REWIND (R246): Rewind a stream to row 0. -/
  | sctlRewind (o : FormR)
  /-- SCTL.SKIP (R246): Skip rows of a stream. -/
  | sctlSkip (o : FormR)
  /-- GATH (R247): Gather lanes from indexed addresses. -/
  | gath (o : FormR)
  /-- SCAT.ST (R247): Scatter-store lanes to indexed addresses. -/
  | scatSt (o : FormR)
  /-- SCAT.ADD (R247): Scatter lanes as atomic add updates. -/
  | scatAdd (o : FormR)
  /-- LDR (R248): Ragged load of a shape record's rows with headers and companions. -/
  | ldr (o : FormR)
  /-- PREF (R249): Prefetch a translation. -/
  | pref (o : FormR)
  /-- XFORM (R250): Install an ME transform. -/
  | xform (o : FormR)
  /-- TILL.APP (R251): Append a one-slot message to a local till. -/
  | tillApp (o : FormR)
  /-- TILL.POLL (R251): Read the number of unconsumed slots. -/
  | tillPoll (o : FormR)
  /-- TILL.WAIT (R251): Wait for a number of slots, as an acquire. -/
  | tillWait (o : FormR)
  /-- TILL.ADV (R251): Advance HEAD as a release. -/
  | tillAdv (o : FormR)
  /-- PRMT.GET (R252): Reserve slots of a till. -/
  | prmtGet (o : FormR)
  /-- PRMT.RET (R252): Return reserved slots. -/
  | prmtRet (o : FormR)
  /-- BANK.GIVE (R254): Release a bank token with a tag. -/
  | bankGive (o : FormR)
  /-- BANK.TAKE (R254): Take a free bank token of a tag. -/
  | bankTake (o : FormR)
  /-- BANK.QRY (R254): Query the page's held banks of a vault. -/
  | bankQry (o : FormR)
  /-- EV.POST (R253): Post a record to a die's event queue. -/
  | evPost (o : FormR)
  /-- EV.POP (R253): Remove the head event record. -/
  | evPop (o : FormR)
  /-- EV.WAIT (R253): Wait for and remove an event record. -/
  | evWait (o : FormR)
  /-- EV.PEEK (R253): Read the head event record without removing it. -/
  | evPeek (o : FormR)
  /-- AUPD.ADD (R255): Atomic add without result. -/
  | aupdAdd (o : FormR)
  /-- AUPD.MIN (R255): Atomic minimum without result. -/
  | aupdMin (o : FormR)
  /-- AUPD.MAX (R255): Atomic maximum without result. -/
  | aupdMax (o : FormR)
  /-- AUPD.OR (R255): Atomic OR without result. -/
  | aupdOr (o : FormR)
  /-- AUPD.AND (R255): Atomic AND without result. -/
  | aupdAnd (o : FormR)
  /-- AUPD.XOR (R255): Atomic XOR without result. -/
  | aupdXor (o : FormR)
  /-- AUPD.SWP (R255): Atomic swap without result. -/
  | aupdSwp (o : FormR)
  /-- AFET.ADD (R255): Atomic fetch and add. -/
  | afetAdd (o : FormR)
  /-- AFET.MIN (R255): Atomic fetch and minimum. -/
  | afetMin (o : FormR)
  /-- AFET.MAX (R255): Atomic fetch and maximum. -/
  | afetMax (o : FormR)
  /-- AFET.OR (R255): Atomic fetch and OR. -/
  | afetOr (o : FormR)
  /-- AFET.AND (R255): Atomic fetch and AND. -/
  | afetAnd (o : FormR)
  /-- AFET.XOR (R255): Atomic fetch and XOR. -/
  | afetXor (o : FormR)
  /-- AFET.SWP (R255): Atomic fetch and swap. -/
  | afetSwp (o : FormR)
  /-- ACAS (R255): Atomic compare and swap. -/
  | acas (o : FormR)
  /-- ATAS (R255): Atomic test and set of one bit. -/
  | atas (o : FormR)
  /-- AFADD (R255): Atomic floating add. -/
  | afadd (o : FormR)
  /-- GRP.JOIN (R257): Join a group. -/
  | grpJoin (o : FormR)
  /-- GRP.LEAVE (R257): Leave a group, withdrawing arrivals. -/
  | grpLeave (o : FormR)
  /-- GRP.ARRIVE (R257): Arrive at a barrier as a release. -/
  | grpArrive (o : FormR)
  /-- GRP.WAIT (R257): Wait for a barrier generation change. -/
  | grpWait (o : FormR)
  /-- GRP.BAR (R257): Arrive and wait for the barrier to complete. -/
  | grpBar (o : FormR)
  /-- GRP.QRY (R257): Read members, arrivals and generation. -/
  | grpQry (o : FormR)
  /-- FENCE.CTX (R258): Fence at context scope. -/
  | fenceCtx (o : FormR)
  /-- FENCE.PAGE (R258): Fence at page scope. -/
  | fencePage (o : FormR)
  /-- FENCE.RGN (R258): Fence at region scope. -/
  | fenceRgn (o : FormR)
  /-- FENCE.DIE (R258): Fence at die scope. -/
  | fenceDie (o : FormR)
  /-- FENCE.DEV (R258): Fence at device scope. -/
  | fenceDev (o : FormR)
  /-- FENCE.SYS (R258): Fence visible to host and peers. -/
  | fenceSys (o : FormR)
  /-- QFENCE (R259): Wait for commands of selected engine queues. -/
  | qfence (o : FormR)
  /-- TCNT.ADD (R260): Add to an in-flight counter. -/
  | tcntAdd (o : FormR)
  /-- TCNT.SUB (R260): Subtract from an in-flight counter. -/
  | tcntSub (o : FormR)
  /-- TCNT.RD (R260): Read an in-flight counter. -/
  | tcntRd (o : FormR)
  /-- TCNT.WZ (R260): Wait until an in-flight counter is zero. -/
  | tcntWz (o : FormR)
  /-- SM.INS (R302): Insert a token into a summary tree. -/
  | smIns (o : FormR)
  /-- SM.SEAL (R303): Seal the open leaf. -/
  | smSeal (o : FormR)
  /-- SM.MRG (R303): Perform at most one merge. -/
  | smMrg (o : FormR)
  /-- SM.SPL (R304): Split a sealed leaf. -/
  | smSpl (o : FormR)
  /-- SM.FORK (R305): Fork a tree at a position. -/
  | smFork (o : FormR)
  /-- SM.EVCT (R306): Evict a node keeping its summary. -/
  | smEvct (o : FormR)
  /-- SM.FREE (R306): Free a tree. -/
  | smFree (o : FormR)
  /-- SMBND (R307): Take the next frontier node and bound it. -/
  | smbnd (o : FormR)
  /-- SMDSC (R308): Decide whether a bounded node needs expansion. -/
  | smdsc (o : FormR)
  /-- SMACC.NODE (R309): Accumulate a node's summary. -/
  | smaccNode (o : FormR)
  /-- SMACC.LEAF (R309): Accumulate a leaf token by token. -/
  | smaccLeaf (o : FormR)
  /-- SMACC.FIN (R309): Finish the descent output and status word. -/
  | smaccFin (o : FormR)
  /-- AG.LOAD (R355): Load an adder graph into the page's SAF. -/
  | agLoad (o : FormR)
  /-- AG.BIND (R356): Replace a graph's lane bindings. -/
  | agBind (o : FormR)
  /-- AG.UNLD (R357): Unload a graph. -/
  | agUnld (o : FormR)
  /-- AG.QRY (R357): Query a graph or free SAF capacity. -/
  | agQry (o : FormR)
  /-- TASK.LNCH (R359): Launch a task record as a release. -/
  | taskLnch (o : FormR)
  /-- TASK.SEQ (R360): Request the next sequence step. -/
  | taskSeq (o : FormR)
  /-- TASK.CNCL (R360): Cancel every task of a cancellation group. -/
  | taskCncl (o : FormR)
  /-- TASK.QRY (R361): Query a task's state. -/
  | taskQry (o : FormR)
  /-- TASK.PRIO (R360): Move a queued record to another priority. -/
  | taskPrio (o : FormR)
  /-- RANGE.GET (R362): Take the next index of a persistent range. -/
  | rangeGet (o : FormR)
  /-- RANGE.STEAL (R362): Ask another instance for work. -/
  | rangeSteal (o : FormR)
  /-- RANGE.SPLIT (R362): Give half the range to another instance. -/
  | rangeSplit (o : FormR)
  /-- RANGE.DONE (R362): Stop handing out indices locally. -/
  | rangeDone (o : FormR)
  /-- LINK.TURN (R384): Request a lane-group turn. -/
  | linkTurn (o : FormR)
  /-- LINK.QRY (R384): Read a link's split word. -/
  | linkQry (o : FormR)
  /-- LINK.HOLD (R384): Take or release a link hold. -/
  | linkHold (o : FormR)
  /-- STAT.EMIT (R385): Add to a class count of the tile in progress. -/
  | statEmit (o : FormR)
  /-- STAT.CFG (R385): Configure statistics collection for a task. -/
  | statCfg (o : FormR)
  /-- STAT.RD (R385): Read a counter. -/
  | statRd (o : FormR)
  /-- RGN.PREEMPT (R386): Pre-empt a task's regions. -/
  | rgnPreempt (o : FormR)
  /-- RGN.RESUME (R386): Arm a pre-empted task's regions again. -/
  | rgnResume (o : FormR)
  /-- RGN.ROLLBACK (R399): Restore the last complete cut. -/
  | rgnRollback (o : FormR)
  /-- RGN.QUIESCE (R386): Wait for a quiescence decision or completion. -/
  | rgnQuiesce (o : FormR)
  /-- RGN.ASID (R386): Replace a pre-empted task's ASID. -/
  | rgnAsid (o : FormR)
  /-- CPY.CPY (R387): Queue a COPY command. -/
  | cpyCpy (o : FormR)
  /-- CPY.XF (R387): Queue a transforming copy command. -/
  | cpyXf (o : FormR)
  /-- CPY.FILL (R387): Queue a FILL command. -/
  | cpyFill (o : FormR)
  /-- CPY.STAT (R387): Read a copy engine's queue word. -/
  | cpyStat (o : FormR)
  /-- NMC.ISSUE (R387): Queue a near-memory command as a release. -/
  | nmcIssue (o : FormR)
  /-- NMC.FENCE (R387): Wait for earlier near-memory commands, as an acquire. -/
  | nmcFence (o : FormR)
  /-- NMC.STAT (R387): Read the near-memory queue word. -/
  | nmcStat (o : FormR)
  /-- BR.BR (R132): PC-relative branch. -/
  | brBr (o : FormI)
  /-- BR.CALL (R132): PC-relative call with link. -/
  | brCall (o : FormI)
  /-- JR.JR (R133): Register jump with link. -/
  | jrJr (o : FormR)
  /-- JR.RET (R133): Return through a register. -/
  | jrRet (o : FormR)
  /-- JR.HALT (R133): Halt the teller context. -/
  | jrHalt (o : FormR)
  /-- SYS.TRAP (R388): Trap with class TRAP. -/
  | sysTrap (o : FormR)
  /-- SYS.ERET (R388): Return from a trap. -/
  | sysEret (o : FormR)
  /-- SYS.CSRR (R388): Read a control register. -/
  | sysCsrr (o : FormR)
  /-- SYS.CSRW (R388): Write a control register that has no behaviour of its own. -/
  | sysCsrw (o : FormR)
  /-- SYS.MBX (R388): Take or peek at the oldest fault mailbox record of the partition. -/
  | sysMbx (o : FormR)
  /-- SYS.PGSV (R403): Save a frozen page into a 128 KiB save area. -/
  | sysPgsv (o : FormR)
  /-- SYS.PGRS (R388): Restore a saved page into a frame. -/
  | sysPgrs (o : FormR)
  /-- SYS.TLBI (R388): Invalidate translations of an ASID. -/
  | sysTlbi (o : FormR)
  deriving DecidableEq, Repr

end Sys2Proof
end

