-- ==== Sys2Proof/Decode.lean ====
section
/-!
DEFINITION. Reading and writing instruction words: the fields of R28-R30, the opcode map of R40, the encoder, what each
instruction takes in its fields, and the defects of R42.
-/

namespace Sys2Proof

/-! ## Fields -/

/-- Bits [lo+len-1:lo] of a word. -/
def field (w : Word) (lo len : Nat) : BitVec len := w.extractLsb' lo len

/-- OPC, bits [33:27] (R29, R30). -/
def opcOf (w : Word) : Nat := (field w 27 7).toNat

/-- FN, bits [26:24] (R29, R30). -/
def fnOf (w : Word) : Nat := (field w 24 3).toNat

/-- The guard fields of R28. -/
def guardOf (w : Word) : Guard :=
  ⟨field w 62 2, field w 54 8, field w 46 8, field w 42 4, field w 41 1, field w 40 1, field w 38 2, field w 35 3⟩

/-- The Form R fields of R29. -/
def formROf (w : Word) : FormR :=
  ⟨guardOf w, field w 19 5, field w 14 5, field w 9 5, field w 6 3, field w 4 2, field w 0 4⟩

/-- The Form I fields of R30. -/
def formIOf (w : Word) : FormI :=
  ⟨guardOf w, field w 19 5, field w 14 5, field w 0 14⟩

/-- The 30 guard bits with the reserved bit 34 zero. -/
def guardBits (g : Guard) : BitVec 30 :=
  g.cx ++ g.pm ++ g.pv ++ g.cr ++ g.pk ++ g.te ++ g.tch ++ g.ttg ++ (0#1)

/-- A Form R word from its fields (R28, R29). -/
def packR (opc : BitVec 7) (fn : BitVec 3) (o : FormR) : Word :=
  guardBits o.g ++ opc ++ fn ++ o.d ++ o.a ++ o.b ++ o.pd ++ o.pu ++ o.ty

/-- A Form I word from its fields (R28, R30). -/
def packI (opc : BitVec 7) (fn : BitVec 3) (o : FormI) : Word :=
  guardBits o.g ++ opc ++ fn ++ o.d ++ o.a ++ o.imm

/-! ## The opcode map -/

/-- How a row of the map builds its instruction: the form is the opcode's alone (R30). -/
inductive MkInstr where
  | r (f : FormR → Instr)
  | i (f : FormI → Instr)

/-- One row of the opcode map. -/
structure OpRow where
  opc : Nat
  fn  : Nat
  build : MkInstr

/-! The rows are `noncomputable` only because the runtime cannot build a value of a constructor numbered above 244; the
kernel evaluates them. -/

/-- Rows of the opcode map, part 0. -/
noncomputable def opRows0 : List OpRow :=
  [
   ⟨0x00, 0, .r Instr.nop⟩, ⟨0x01, 0, .r Instr.addW⟩,
   ⟨0x01, 1, .r Instr.addSs⟩, ⟨0x01, 2, .r Instr.addSn⟩,
   ⟨0x02, 0, .r Instr.subW⟩, ⟨0x02, 1, .r Instr.subSs⟩,
   ⟨0x02, 2, .r Instr.subSn⟩, ⟨0x03, 0, .i Instr.addi⟩,
   ⟨0x04, 0, .r Instr.mulLo⟩, ⟨0x04, 1, .r Instr.mulHs⟩,
   ⟨0x04, 2, .r Instr.mulHn⟩, ⟨0x05, 0, .r Instr.macW⟩,
   ⟨0x05, 1, .r Instr.macSs⟩, ⟨0x06, 0, .r Instr.divQs⟩,
   ⟨0x06, 1, .r Instr.divQn⟩, ⟨0x06, 2, .r Instr.divMs⟩,
   ⟨0x06, 3, .r Instr.divMn⟩, ⟨0x07, 0, .r Instr.logAnd⟩,
   ⟨0x07, 1, .r Instr.logOr⟩, ⟨0x07, 2, .r Instr.logXor⟩,
   ⟨0x07, 3, .r Instr.logAndn⟩, ⟨0x07, 4, .r Instr.logOrn⟩,
   ⟨0x07, 5, .r Instr.logXnor⟩, ⟨0x08, 0, .r Instr.shfShl⟩,
   ⟨0x08, 1, .r Instr.shfShr⟩, ⟨0x08, 2, .r Instr.shfSar⟩,
   ⟨0x08, 3, .r Instr.shfRol⟩, ⟨0x09, 0, .i Instr.shfiShl⟩,
   ⟨0x09, 1, .i Instr.shfiShr⟩, ⟨0x09, 2, .i Instr.shfiSar⟩,
   ⟨0x09, 3, .i Instr.shfiRol⟩, ⟨0x0A, 0, .r Instr.mmxMins⟩,
   ⟨0x0A, 1, .r Instr.mmxMaxs⟩, ⟨0x0A, 2, .r Instr.mmxMinn⟩,
   ⟨0x0A, 3, .r Instr.mmxMaxn⟩, ⟨0x0B, 0, .r Instr.bitPopc⟩,
   ⟨0x0B, 1, .r Instr.bitClz⟩, ⟨0x0B, 2, .r Instr.bitCtz⟩,
   ⟨0x0B, 3, .r Instr.bitBrev⟩, ⟨0x0B, 4, .r Instr.bitBext⟩]

/-- Rows of the opcode map, part 1. -/
noncomputable def opRows1 : List OpRow :=
  [
   ⟨0x0B, 5, .r Instr.bitBins⟩, ⟨0x0C, 0, .r Instr.movMov⟩,
   ⟨0x0C, 1, .r Instr.movMovk⟩, ⟨0x0C, 2, .r Instr.movSel⟩,
   ⟨0x0C, 3, .r Instr.movAbs⟩, ⟨0x0C, 4, .r Instr.movNeg⟩,
   ⟨0x0C, 5, .r Instr.movSext⟩, ⟨0x0C, 6, .r Instr.movZext⟩,
   ⟨0x0D, 0, .i Instr.li⟩, ⟨0x0E, 0, .i (Instr.lis 0)⟩,
   ⟨0x0E, 1, .i (Instr.lis 1)⟩, ⟨0x0E, 2, .i (Instr.lis 2)⟩,
   ⟨0x0E, 3, .i (Instr.lis 3)⟩, ⟨0x0E, 4, .i (Instr.lis 4)⟩,
   ⟨0x0F, 0, .r (Instr.addr 0)⟩, ⟨0x0F, 1, .r (Instr.addr 1)⟩,
   ⟨0x0F, 2, .r (Instr.addr 2)⟩, ⟨0x0F, 3, .r (Instr.addr 3)⟩,
   ⟨0x0F, 4, .r (Instr.addr 4)⟩, ⟨0x0F, 5, .r (Instr.addr 5)⟩,
   ⟨0x0F, 6, .r (Instr.addr 6)⟩, ⟨0x0F, 7, .r (Instr.addr 7)⟩,
   ⟨0x10, 0, .r Instr.cmpEq⟩, ⟨0x10, 1, .r Instr.cmpNe⟩,
   ⟨0x10, 2, .r Instr.cmpLt⟩, ⟨0x10, 3, .r Instr.cmpLe⟩,
   ⟨0x10, 4, .r Instr.cmpLtn⟩, ⟨0x10, 5, .r Instr.cmpLen⟩,
   ⟨0x10, 6, .r Instr.cmpTst⟩, ⟨0x11, 0, .i Instr.cmpiEq⟩,
   ⟨0x11, 1, .i Instr.cmpiNe⟩, ⟨0x11, 2, .i Instr.cmpiLt⟩,
   ⟨0x11, 3, .i Instr.cmpiLe⟩, ⟨0x11, 4, .i Instr.cmpiLtn⟩,
   ⟨0x11, 5, .i Instr.cmpiLen⟩, ⟨0x11, 6, .i Instr.cmpiTst⟩,
   ⟨0x12, 0, .r Instr.fcmpEq⟩, ⟨0x12, 1, .r Instr.fcmpNe⟩,
   ⟨0x12, 2, .r Instr.fcmpLt⟩, ⟨0x12, 3, .r Instr.fcmpLe⟩]

/-- Rows of the opcode map, part 2. -/
noncomputable def opRows2 : List OpRow :=
  [
   ⟨0x12, 4, .r Instr.fcmpUn⟩, ⟨0x12, 5, .r Instr.fcmpOr⟩,
   ⟨0x13, 0, .r Instr.psetSet⟩, ⟨0x13, 1, .r Instr.psetClr⟩,
   ⟨0x13, 2, .r Instr.psetCpy⟩, ⟨0x13, 3, .r Instr.psetNot⟩,
   ⟨0x13, 4, .r Instr.psetSig⟩, ⟨0x14, 0, .r Instr.plogAnd⟩,
   ⟨0x14, 1, .r Instr.plogOr⟩, ⟨0x14, 2, .r Instr.plogXor⟩,
   ⟨0x14, 3, .r Instr.plogAndn⟩, ⟨0x15, 0, .r Instr.pmovToa⟩,
   ⟨0x15, 1, .r Instr.pmovFra⟩, ⟨0x18, 0, .r Instr.sendD⟩,
   ⟨0x18, 1, .r Instr.sendEor⟩, ⟨0x18, 2, .r Instr.sendEot⟩,
   ⟨0x18, 3, .r Instr.sendEos⟩, ⟨0x18, 4, .r Instr.sendLvl⟩,
   ⟨0x18, 5, .r Instr.sendCtl⟩, ⟨0x19, 0, .r Instr.fwd⟩,
   ⟨0x1A, 0, .r Instr.repl⟩, ⟨0x1B, 0, .r Instr.tagr⟩,
   ⟨0x1C, 0, .r Instr.mrgArr⟩, ⟨0x1C, 1, .r Instr.mrgRot⟩,
   ⟨0x1D, 0, .r Instr.markSnap⟩, ⟨0x1E, 0, .r Instr.drain⟩,
   ⟨0x20, 0, .r Instr.vadd⟩, ⟨0x21, 0, .r Instr.vsub⟩,
   ⟨0x22, 0, .r Instr.vmul⟩, ⟨0x23, 0, .r Instr.vfmaFma⟩,
   ⟨0x23, 1, .r Instr.vfmaFms⟩, ⟨0x23, 2, .r Instr.vfmaFnma⟩,
   ⟨0x24, 0, .r Instr.vdivDiv⟩, ⟨0x24, 1, .r Instr.vdivRcp⟩,
   ⟨0x24, 2, .r Instr.vdivRsq⟩, ⟨0x24, 3, .r Instr.vdivSqrt⟩,
   ⟨0x25, 0, .r Instr.vmmxMin⟩, ⟨0x25, 1, .r Instr.vmmxMax⟩,
   ⟨0x25, 2, .r Instr.vmmxMinn⟩, ⟨0x25, 3, .r Instr.vmmxMaxn⟩]

/-- Rows of the opcode map, part 3. -/
noncomputable def opRows3 : List OpRow :=
  [
   ⟨0x26, 0, .r Instr.vsgnAbs⟩, ⟨0x26, 1, .r Instr.vsgnNeg⟩,
   ⟨0x26, 2, .r Instr.vsgnCsgn⟩, ⟨0x27, 0, .r Instr.vcmp⟩,
   ⟨0x28, 0, .r Instr.vsel⟩, ⟨0x29, 0, .r Instr.vcvtRne⟩,
   ⟨0x29, 1, .r Instr.vcvtRz⟩, ⟨0x29, 2, .r Instr.vcvtRu⟩,
   ⟨0x29, 3, .r Instr.vcvtRd⟩, ⟨0x29, 4, .r Instr.vcvtRna⟩,
   ⟨0x2A, 0, .r Instr.vtrnExp⟩, ⟨0x2A, 1, .r Instr.vtrnExp2⟩,
   ⟨0x2A, 2, .r Instr.vtrnLog⟩, ⟨0x2A, 3, .r Instr.vtrnLog2⟩,
   ⟨0x2A, 4, .r Instr.vtrnTanh⟩, ⟨0x2A, 5, .r Instr.vtrnSigm⟩,
   ⟨0x2B, 0, .r Instr.vdot⟩, ⟨0x2C, 0, .r Instr.vredSum⟩,
   ⟨0x2C, 1, .r Instr.vredMax⟩, ⟨0x2C, 2, .r Instr.vredMin⟩,
   ⟨0x2C, 3, .r Instr.vredAnd⟩, ⟨0x2C, 4, .r Instr.vredOr⟩,
   ⟨0x2D, 0, .r Instr.vaccSum⟩, ⟨0x2D, 1, .r Instr.vaccMax⟩,
   ⟨0x2D, 2, .r Instr.vaccMin⟩, ⟨0x2D, 3, .r Instr.vaccCnt⟩,
   ⟨0x2E, 0, .r Instr.vscanIsum⟩, ⟨0x2E, 1, .r Instr.vscanXsum⟩,
   ⟨0x2E, 2, .r Instr.vscanImax⟩, ⟨0x2F, 0, .r Instr.vprmIdx⟩,
   ⟨0x2F, 1, .r Instr.vprmRot⟩, ⟨0x2F, 2, .r Instr.vprmBcl⟩,
   ⟨0x2F, 3, .r Instr.vprmPair⟩, ⟨0x30, 0, .r Instr.vlog⟩,
   ⟨0x31, 0, .r Instr.vshf⟩, ⟨0x32, 0, .r Instr.vclmp⟩,
   ⟨0x33, 0, .r Instr.vqnt⟩, ⟨0x34, 0, .r Instr.vdq⟩,
   ⟨0x35, 0, .r Instr.bppk⟩, ⟨0x36, 0, .r Instr.bpun⟩]

/-- Rows of the opcode map, part 4. -/
noncomputable def opRows4 : List OpRow :=
  [
   ⟨0x37, 0, .r Instr.vnrmStat⟩, ⟨0x37, 1, .r Instr.vnrmApply⟩,
   ⟨0x38, 0, .r Instr.vinsIns⟩, ⟨0x38, 1, .r Instr.vinsExt⟩,
   ⟨0x39, 0, .r Instr.viota⟩, ⟨0x3A, 0, .r Instr.vbmpExpd⟩,
   ⟨0x3A, 1, .r Instr.vbmpCnt⟩, ⟨0x3A, 2, .r Instr.vbmpSetb⟩,
   ⟨0x3B, 0, .r Instr.vmatch⟩, ⟨0x3C, 0, .r Instr.vtopk⟩,
   ⟨0x3D, 0, .r Instr.vrng⟩, ⟨0x3E, 0, .r Instr.vhead⟩,
   ⟨0x40, 0, .r Instr.zcfgTy⟩, ⟨0x40, 1, .r Instr.zcfgRow⟩,
   ⟨0x40, 2, .r Instr.zcfgCol⟩, ⟨0x40, 3, .r Instr.zcfgAll⟩,
   ⟨0x41, 0, .r Instr.zrd⟩, ⟨0x42, 0, .r Instr.zld⟩,
   ⟨0x43, 0, .r Instr.zst⟩, ⟨0x44, 0, .r Instr.zfillZero⟩,
   ⟨0x44, 1, .r Instr.zfillOnes⟩, ⟨0x44, 2, .r Instr.zfillIden⟩,
   ⟨0x44, 3, .r Instr.zfillTril⟩, ⟨0x44, 4, .r Instr.zfillTrls⟩,
   ⟨0x44, 5, .r Instr.zfillTriu⟩, ⟨0x44, 6, .r Instr.zfillBcst⟩,
   ⟨0x45, 0, .r Instr.zwld⟩, ⟨0x46, 0, .r Instr.mmaD⟩,
   ⟨0x46, 1, .r Instr.mmaR⟩, ⟨0x46, 2, .r Instr.mmaDt⟩,
   ⟨0x46, 3, .r Instr.mmaRt⟩, ⟨0x47, 0, .r Instr.ztrn⟩,
   ⟨0x48, 0, .r Instr.zaddAdd⟩, ⟨0x48, 1, .r Instr.zaddScl⟩,
   ⟨0x49, 0, .r Instr.zcvt⟩, ⟨0x4A, 0, .r Instr.zarm⟩,
   ⟨0x4B, 0, .r Instr.zsplit⟩, ⟨0x4C, 0, .r Instr.zstat⟩,
   ⟨0x4D, 0, .r Instr.zwait⟩, ⟨0x4E, 0, .r Instr.zmovTov⟩]

/-- Rows of the opcode map, part 5. -/
noncomputable def opRows5 : List OpRow :=
  [
   ⟨0x4E, 1, .r Instr.zmovFrv⟩, ⟨0x50, 0, .r Instr.shbind⟩,
   ⟨0x51, 0, .r Instr.shset⟩, ⟨0x52, 0, .r Instr.shget⟩,
   ⟨0x53, 0, .r Instr.shinv⟩, ⟨0x54, 0, .r Instr.shseg⟩,
   ⟨0x55, 0, .r Instr.shrow⟩, ⟨0x58, 0, .r Instr.ldPl⟩,
   ⟨0x58, 1, .r Instr.ldAcq⟩, ⟨0x59, 0, .r Instr.stPl⟩,
   ⟨0x59, 1, .r Instr.stRel⟩, ⟨0x5A, 0, .r Instr.vld⟩,
   ⟨0x5B, 0, .r Instr.vstPl⟩, ⟨0x5B, 1, .r Instr.vstMsk⟩,
   ⟨0x5B, 2, .r Instr.vstRel⟩, ⟨0x5C, 0, .r Instr.sopen⟩,
   ⟨0x5D, 0, .r Instr.sctlClose⟩, ⟨0x5D, 1, .r Instr.sctlRewind⟩,
   ⟨0x5D, 2, .r Instr.sctlSkip⟩, ⟨0x5E, 0, .r Instr.gath⟩,
   ⟨0x5F, 0, .r Instr.scatSt⟩, ⟨0x5F, 1, .r Instr.scatAdd⟩,
   ⟨0x60, 0, .r Instr.ldr⟩, ⟨0x61, 0, .r Instr.pref⟩,
   ⟨0x62, 0, .r Instr.tillApp⟩, ⟨0x62, 1, .r Instr.tillPoll⟩,
   ⟨0x62, 2, .r Instr.tillWait⟩, ⟨0x62, 3, .r Instr.tillAdv⟩,
   ⟨0x63, 0, .r Instr.prmtGet⟩, ⟨0x63, 1, .r Instr.prmtRet⟩,
   ⟨0x64, 0, .r Instr.xform⟩, ⟨0x65, 0, .r Instr.bankGive⟩,
   ⟨0x65, 1, .r Instr.bankTake⟩, ⟨0x65, 2, .r Instr.bankQry⟩,
   ⟨0x66, 0, .r Instr.evPost⟩, ⟨0x66, 1, .r Instr.evPop⟩,
   ⟨0x66, 2, .r Instr.evWait⟩, ⟨0x66, 3, .r Instr.evPeek⟩,
   ⟨0x68, 0, .r Instr.aupdAdd⟩, ⟨0x68, 1, .r Instr.aupdMin⟩]

/-- Rows of the opcode map, part 6. -/
noncomputable def opRows6 : List OpRow :=
  [
   ⟨0x68, 2, .r Instr.aupdMax⟩, ⟨0x68, 3, .r Instr.aupdOr⟩,
   ⟨0x68, 4, .r Instr.aupdAnd⟩, ⟨0x68, 5, .r Instr.aupdXor⟩,
   ⟨0x68, 6, .r Instr.aupdSwp⟩, ⟨0x69, 0, .r Instr.afetAdd⟩,
   ⟨0x69, 1, .r Instr.afetMin⟩, ⟨0x69, 2, .r Instr.afetMax⟩,
   ⟨0x69, 3, .r Instr.afetOr⟩, ⟨0x69, 4, .r Instr.afetAnd⟩,
   ⟨0x69, 5, .r Instr.afetXor⟩, ⟨0x69, 6, .r Instr.afetSwp⟩,
   ⟨0x6A, 0, .r Instr.acas⟩, ⟨0x6B, 0, .r Instr.atas⟩,
   ⟨0x6C, 0, .r Instr.afadd⟩, ⟨0x6D, 0, .r Instr.linkTurn⟩,
   ⟨0x6D, 1, .r Instr.linkQry⟩, ⟨0x6D, 2, .r Instr.linkHold⟩,
   ⟨0x6E, 0, .r Instr.statEmit⟩, ⟨0x6E, 1, .r Instr.statCfg⟩,
   ⟨0x6E, 2, .r Instr.statRd⟩, ⟨0x6F, 0, .r Instr.rgnPreempt⟩,
   ⟨0x6F, 1, .r Instr.rgnResume⟩, ⟨0x6F, 2, .r Instr.rgnRollback⟩,
   ⟨0x6F, 3, .r Instr.rgnQuiesce⟩, ⟨0x6F, 4, .r Instr.rgnAsid⟩,
   ⟨0x70, 0, .r Instr.grpJoin⟩, ⟨0x70, 1, .r Instr.grpLeave⟩,
   ⟨0x70, 2, .r Instr.grpArrive⟩, ⟨0x70, 3, .r Instr.grpWait⟩,
   ⟨0x70, 4, .r Instr.grpBar⟩, ⟨0x70, 5, .r Instr.grpQry⟩,
   ⟨0x71, 0, .r Instr.fenceCtx⟩, ⟨0x71, 1, .r Instr.fencePage⟩,
   ⟨0x71, 2, .r Instr.fenceRgn⟩, ⟨0x71, 3, .r Instr.fenceDie⟩,
   ⟨0x71, 4, .r Instr.fenceDev⟩, ⟨0x71, 5, .r Instr.fenceSys⟩,
   ⟨0x72, 0, .r Instr.qfence⟩, ⟨0x73, 0, .r Instr.tcntAdd⟩]

/-- Rows of the opcode map, part 7. -/
noncomputable def opRows7 : List OpRow :=
  [
   ⟨0x73, 1, .r Instr.tcntSub⟩, ⟨0x73, 2, .r Instr.tcntRd⟩,
   ⟨0x73, 3, .r Instr.tcntWz⟩, ⟨0x74, 0, .r Instr.smIns⟩,
   ⟨0x74, 1, .r Instr.smSeal⟩, ⟨0x74, 2, .r Instr.smMrg⟩,
   ⟨0x74, 3, .r Instr.smSpl⟩, ⟨0x74, 4, .r Instr.smFork⟩,
   ⟨0x74, 5, .r Instr.smEvct⟩, ⟨0x74, 6, .r Instr.smFree⟩,
   ⟨0x75, 0, .r Instr.smbnd⟩, ⟨0x76, 0, .r Instr.smdsc⟩,
   ⟨0x77, 0, .r Instr.smaccNode⟩, ⟨0x77, 1, .r Instr.smaccLeaf⟩,
   ⟨0x77, 2, .r Instr.smaccFin⟩, ⟨0x78, 0, .r Instr.agLoad⟩,
   ⟨0x78, 1, .r Instr.agBind⟩, ⟨0x78, 2, .r Instr.agUnld⟩,
   ⟨0x78, 3, .r Instr.agQry⟩, ⟨0x79, 0, .r Instr.taskLnch⟩,
   ⟨0x79, 1, .r Instr.taskSeq⟩, ⟨0x79, 2, .r Instr.taskCncl⟩,
   ⟨0x79, 3, .r Instr.taskQry⟩, ⟨0x79, 4, .r Instr.taskPrio⟩,
   ⟨0x7A, 0, .r Instr.rangeGet⟩, ⟨0x7A, 1, .r Instr.rangeSteal⟩,
   ⟨0x7A, 2, .r Instr.rangeSplit⟩, ⟨0x7A, 3, .r Instr.rangeDone⟩,
   ⟨0x7B, 0, .r Instr.cpyCpy⟩, ⟨0x7B, 1, .r Instr.cpyXf⟩,
   ⟨0x7B, 2, .r Instr.cpyFill⟩, ⟨0x7B, 3, .r Instr.cpyStat⟩,
   ⟨0x7C, 0, .r Instr.nmcIssue⟩, ⟨0x7C, 1, .r Instr.nmcFence⟩,
   ⟨0x7C, 2, .r Instr.nmcStat⟩, ⟨0x7D, 0, .i Instr.brBr⟩,
   ⟨0x7D, 1, .i Instr.brCall⟩, ⟨0x7E, 0, .r Instr.jrJr⟩,
   ⟨0x7E, 1, .r Instr.jrRet⟩, ⟨0x7E, 2, .r Instr.jrHalt⟩]

/-- Rows of the opcode map, part 8. -/
noncomputable def opRows8 : List OpRow :=
  [
   ⟨0x7F, 0, .r Instr.sysTrap⟩, ⟨0x7F, 1, .r Instr.sysEret⟩,
   ⟨0x7F, 2, .r Instr.sysCsrr⟩, ⟨0x7F, 3, .r Instr.sysCsrw⟩,
   ⟨0x7F, 4, .r Instr.sysMbx⟩, ⟨0x7F, 5, .r Instr.sysPgsv⟩,
   ⟨0x7F, 6, .r Instr.sysPgrs⟩, ⟨0x7F, 7, .r Instr.sysTlbi⟩]

/-- The opcode map of R40: OPC, FN and the instruction; a pair that is not here is reserved or unassigned. -/
noncomputable def opRows : List OpRow :=
  opRows0 ++ opRows1 ++ opRows2 ++ opRows3 ++ opRows4 ++ opRows5 ++ opRows6 ++ opRows7 ++ opRows8

/-- How many variants the map lists for an OPC, 1 where it lists none (R38, R40); 0 for a reserved OPC. -/
def fnCount (opc : Nat) : Nat :=
  ([1, 3, 3, 1, 3, 2, 4, 6, 4, 4, 4, 6, 7, 1, 5, 8,
    7, 7, 6, 5, 4, 2, 0, 0, 6, 1, 1, 1, 2, 1, 1, 0,
    1, 1, 1, 3, 4, 4, 3, 1, 1, 5, 6, 1, 5, 4, 3, 4,
    1, 1, 1, 1, 1, 1, 1, 2, 2, 1, 3, 1, 1, 1, 1, 0,
    4, 1, 1, 1, 7, 1, 4, 1, 2, 1, 1, 1, 1, 1, 2, 0,
    1, 1, 1, 1, 1, 1, 0, 0, 2, 2, 1, 3, 1, 3, 1, 2,
    1, 1, 4, 2, 1, 3, 4, 0, 7, 7, 1, 1, 1, 3, 3, 5,
    6, 6, 1, 4, 7, 1, 1, 3, 4, 5, 4, 4, 3, 2, 3, 8] : List Nat).getD opc 0

/-- The eight reserved opcodes of R40. -/
def reservedOpc : List Nat := [0x16, 0x17, 0x1F, 0x3F, 0x4F, 0x56, 0x57, 0x67]

/-- The row of an OPC and FN. -/
def findRow (opc fn : Nat) : List OpRow → Option OpRow
  | [] => none
  | r :: rs => if r.opc = opc ∧ r.fn = fn then some r else findRow opc fn rs

/-! ## Decoding -/

/-- Why a word is no instruction, before its operands are looked at (R42 defects 1, 2 and the bit 34 part of 4). -/
inductive Reject where
  | reservedOpc | unassignedFn | reservedBit
  deriving DecidableEq, Repr

/-- The instruction of a 64-bit word, or the reason there is none. -/
noncomputable def decode (w : Word) : Except Reject Instr :=
  if reservedOpc.contains (opcOf w) then .error .reservedOpc
  else match findRow (opcOf w) (fnOf w) opRows with
    | none => .error .unassignedFn
    | some r =>
      if w.getLsbD 34 then .error .reservedBit
      else match r.build with
        | .r f => .ok (f (formROf w))
        | .i f => .ok (f (formIOf w))

/-- A word from eight bytes, lowest address first: words are little-endian (R45). Missing bytes read as zero. -/
def wordOfBytes (bs : List Byte) : Word :=
  BitVec.ofNat 64 ((bs.take 8).foldr (fun b acc => b.toNat + 256 * acc) 0)

/-- The eight bytes of a word, lowest address first (R45). -/
def bytesOfWord (w : Word) : List Byte := tab 8 fun i => BitVec.ofNat 8 (w.toNat / 256 ^ i)

/-- Decoding total on any bytes: the instruction of the first eight and the rest. -/
noncomputable def decodeBytes (bs : List Byte) : Except Reject (Instr × List Byte) :=
  (decode (wordOfBytes bs)).map fun i => (i, bs.drop 8)

/-- The instruction read from an instruction whose bits are `w`, laid out as the hardware stores it. -/
noncomputable def decodeTableWord (nbits w : Nat) : Option Instr :=
  (decode (wordOfBytes (bytesOfWord (BitVec.ofNat 64 (w % 2 ^ nbits))))).toOption

/-! ## Encoding -/

/-- The fields of a word by form. -/
inductive Fields where
  | r (o : FormR)
  | i (o : FormI)
  deriving DecidableEq, Repr

/-- OPC, FN and fields of an instruction that is a word; a unit's step has none (R40). -/
def Instr.code? : Instr → Option (Nat × BitVec 3 × Fields)
  | .nop o => some (0x00, 0, .r o)
  | .addW o => some (0x01, 0, .r o)
  | .addSs o => some (0x01, 1, .r o)
  | .addSn o => some (0x01, 2, .r o)
  | .subW o => some (0x02, 0, .r o)
  | .subSs o => some (0x02, 1, .r o)
  | .subSn o => some (0x02, 2, .r o)
  | .addi o => some (0x03, 0, .i o)
  | .mulLo o => some (0x04, 0, .r o)
  | .mulHs o => some (0x04, 1, .r o)
  | .mulHn o => some (0x04, 2, .r o)
  | .macW o => some (0x05, 0, .r o)
  | .macSs o => some (0x05, 1, .r o)
  | .divQs o => some (0x06, 0, .r o)
  | .divQn o => some (0x06, 1, .r o)
  | .divMs o => some (0x06, 2, .r o)
  | .divMn o => some (0x06, 3, .r o)
  | .logAnd o => some (0x07, 0, .r o)
  | .logOr o => some (0x07, 1, .r o)
  | .logXor o => some (0x07, 2, .r o)
  | .logAndn o => some (0x07, 3, .r o)
  | .logOrn o => some (0x07, 4, .r o)
  | .logXnor o => some (0x07, 5, .r o)
  | .shfShl o => some (0x08, 0, .r o)
  | .shfShr o => some (0x08, 1, .r o)
  | .shfSar o => some (0x08, 2, .r o)
  | .shfRol o => some (0x08, 3, .r o)
  | .shfiShl o => some (0x09, 0, .i o)
  | .shfiShr o => some (0x09, 1, .i o)
  | .shfiSar o => some (0x09, 2, .i o)
  | .shfiRol o => some (0x09, 3, .i o)
  | .mmxMins o => some (0x0A, 0, .r o)
  | .mmxMaxs o => some (0x0A, 1, .r o)
  | .mmxMinn o => some (0x0A, 2, .r o)
  | .mmxMaxn o => some (0x0A, 3, .r o)
  | .bitPopc o => some (0x0B, 0, .r o)
  | .bitClz o => some (0x0B, 1, .r o)
  | .bitCtz o => some (0x0B, 2, .r o)
  | .bitBrev o => some (0x0B, 3, .r o)
  | .bitBext o => some (0x0B, 4, .r o)
  | .bitBins o => some (0x0B, 5, .r o)
  | .movMov o => some (0x0C, 0, .r o)
  | .movMovk o => some (0x0C, 1, .r o)
  | .movSel o => some (0x0C, 2, .r o)
  | .movAbs o => some (0x0C, 3, .r o)
  | .movNeg o => some (0x0C, 4, .r o)
  | .movSext o => some (0x0C, 5, .r o)
  | .movZext o => some (0x0C, 6, .r o)
  | .li o => some (0x0D, 0, .i o)
  | .lis fn o => if fn.toNat < 5 then some (0x0E, fn, .i o) else none
  | .addr fn o => some (0x0F, fn, .r o)
  | .cmpEq o => some (0x10, 0, .r o)
  | .cmpNe o => some (0x10, 1, .r o)
  | .cmpLt o => some (0x10, 2, .r o)
  | .cmpLe o => some (0x10, 3, .r o)
  | .cmpLtn o => some (0x10, 4, .r o)
  | .cmpLen o => some (0x10, 5, .r o)
  | .cmpTst o => some (0x10, 6, .r o)
  | .cmpiEq o => some (0x11, 0, .i o)
  | .cmpiNe o => some (0x11, 1, .i o)
  | .cmpiLt o => some (0x11, 2, .i o)
  | .cmpiLe o => some (0x11, 3, .i o)
  | .cmpiLtn o => some (0x11, 4, .i o)
  | .cmpiLen o => some (0x11, 5, .i o)
  | .cmpiTst o => some (0x11, 6, .i o)
  | .fcmpEq o => some (0x12, 0, .r o)
  | .fcmpNe o => some (0x12, 1, .r o)
  | .fcmpLt o => some (0x12, 2, .r o)
  | .fcmpLe o => some (0x12, 3, .r o)
  | .fcmpUn o => some (0x12, 4, .r o)
  | .fcmpOr o => some (0x12, 5, .r o)
  | .psetSet o => some (0x13, 0, .r o)
  | .psetClr o => some (0x13, 1, .r o)
  | .psetCpy o => some (0x13, 2, .r o)
  | .psetNot o => some (0x13, 3, .r o)
  | .psetSig o => some (0x13, 4, .r o)
  | .plogAnd o => some (0x14, 0, .r o)
  | .plogOr o => some (0x14, 1, .r o)
  | .plogXor o => some (0x14, 2, .r o)
  | .plogAndn o => some (0x14, 3, .r o)
  | .pmovToa o => some (0x15, 0, .r o)
  | .pmovFra o => some (0x15, 1, .r o)
  | .sendD o => some (0x18, 0, .r o)
  | .sendEor o => some (0x18, 1, .r o)
  | .sendEot o => some (0x18, 2, .r o)
  | .sendEos o => some (0x18, 3, .r o)
  | .sendLvl o => some (0x18, 4, .r o)
  | .sendCtl o => some (0x18, 5, .r o)
  | .fwd o => some (0x19, 0, .r o)
  | .repl o => some (0x1A, 0, .r o)
  | .tagr o => some (0x1B, 0, .r o)
  | .mrgArr o => some (0x1C, 0, .r o)
  | .mrgRot o => some (0x1C, 1, .r o)
  | .markSnap o => some (0x1D, 0, .r o)
  | .drain o => some (0x1E, 0, .r o)
  | .vadd o => some (0x20, 0, .r o)
  | .vsub o => some (0x21, 0, .r o)
  | .vmul o => some (0x22, 0, .r o)
  | .vfmaFma o => some (0x23, 0, .r o)
  | .vfmaFms o => some (0x23, 1, .r o)
  | .vfmaFnma o => some (0x23, 2, .r o)
  | .vdivDiv o => some (0x24, 0, .r o)
  | .vdivRcp o => some (0x24, 1, .r o)
  | .vdivRsq o => some (0x24, 2, .r o)
  | .vdivSqrt o => some (0x24, 3, .r o)
  | .vmmxMin o => some (0x25, 0, .r o)
  | .vmmxMax o => some (0x25, 1, .r o)
  | .vmmxMinn o => some (0x25, 2, .r o)
  | .vmmxMaxn o => some (0x25, 3, .r o)
  | .vsgnAbs o => some (0x26, 0, .r o)
  | .vsgnNeg o => some (0x26, 1, .r o)
  | .vsgnCsgn o => some (0x26, 2, .r o)
  | .vcmp o => some (0x27, 0, .r o)
  | .vsel o => some (0x28, 0, .r o)
  | .vcvtRne o => some (0x29, 0, .r o)
  | .vcvtRz o => some (0x29, 1, .r o)
  | .vcvtRu o => some (0x29, 2, .r o)
  | .vcvtRd o => some (0x29, 3, .r o)
  | .vcvtRna o => some (0x29, 4, .r o)
  | .vtrnExp o => some (0x2A, 0, .r o)
  | .vtrnExp2 o => some (0x2A, 1, .r o)
  | .vtrnLog o => some (0x2A, 2, .r o)
  | .vtrnLog2 o => some (0x2A, 3, .r o)
  | .vtrnTanh o => some (0x2A, 4, .r o)
  | .vtrnSigm o => some (0x2A, 5, .r o)
  | .vdot o => some (0x2B, 0, .r o)
  | .vredSum o => some (0x2C, 0, .r o)
  | .vredMax o => some (0x2C, 1, .r o)
  | .vredMin o => some (0x2C, 2, .r o)
  | .vredAnd o => some (0x2C, 3, .r o)
  | .vredOr o => some (0x2C, 4, .r o)
  | .vaccSum o => some (0x2D, 0, .r o)
  | .vaccMax o => some (0x2D, 1, .r o)
  | .vaccMin o => some (0x2D, 2, .r o)
  | .vaccCnt o => some (0x2D, 3, .r o)
  | .vscanIsum o => some (0x2E, 0, .r o)
  | .vscanXsum o => some (0x2E, 1, .r o)
  | .vscanImax o => some (0x2E, 2, .r o)
  | .vprmIdx o => some (0x2F, 0, .r o)
  | .vprmRot o => some (0x2F, 1, .r o)
  | .vprmBcl o => some (0x2F, 2, .r o)
  | .vprmPair o => some (0x2F, 3, .r o)
  | .vlog o => some (0x30, 0, .r o)
  | .vshf o => some (0x31, 0, .r o)
  | .vclmp o => some (0x32, 0, .r o)
  | .vqnt o => some (0x33, 0, .r o)
  | .vdq o => some (0x34, 0, .r o)
  | .bppk o => some (0x35, 0, .r o)
  | .bpun o => some (0x36, 0, .r o)
  | .vnrmStat o => some (0x37, 0, .r o)
  | .vnrmApply o => some (0x37, 1, .r o)
  | .vinsIns o => some (0x38, 0, .r o)
  | .vinsExt o => some (0x38, 1, .r o)
  | .viota o => some (0x39, 0, .r o)
  | .vbmpExpd o => some (0x3A, 0, .r o)
  | .vbmpCnt o => some (0x3A, 1, .r o)
  | .vbmpSetb o => some (0x3A, 2, .r o)
  | .vmatch o => some (0x3B, 0, .r o)
  | .vtopk o => some (0x3C, 0, .r o)
  | .vrng o => some (0x3D, 0, .r o)
  | .vhead o => some (0x3E, 0, .r o)
  | .zcfgTy o => some (0x40, 0, .r o)
  | .zcfgRow o => some (0x40, 1, .r o)
  | .zcfgCol o => some (0x40, 2, .r o)
  | .zcfgAll o => some (0x40, 3, .r o)
  | .zrd o => some (0x41, 0, .r o)
  | .zld o => some (0x42, 0, .r o)
  | .zst o => some (0x43, 0, .r o)
  | .zfillZero o => some (0x44, 0, .r o)
  | .zfillOnes o => some (0x44, 1, .r o)
  | .zfillIden o => some (0x44, 2, .r o)
  | .zfillTril o => some (0x44, 3, .r o)
  | .zfillTrls o => some (0x44, 4, .r o)
  | .zfillTriu o => some (0x44, 5, .r o)
  | .zfillBcst o => some (0x44, 6, .r o)
  | .zwld o => some (0x45, 0, .r o)
  | .mmaD o => some (0x46, 0, .r o)
  | .mmaR o => some (0x46, 1, .r o)
  | .mmaDt o => some (0x46, 2, .r o)
  | .mmaRt o => some (0x46, 3, .r o)
  | .ztrn o => some (0x47, 0, .r o)
  | .zaddAdd o => some (0x48, 0, .r o)
  | .zaddScl o => some (0x48, 1, .r o)
  | .zcvt o => some (0x49, 0, .r o)
  | .zarm o => some (0x4A, 0, .r o)
  | .zsplit o => some (0x4B, 0, .r o)
  | .zstat o => some (0x4C, 0, .r o)
  | .zwait o => some (0x4D, 0, .r o)
  | .zmovTov o => some (0x4E, 0, .r o)
  | .zmovFrv o => some (0x4E, 1, .r o)
  | .shbind o => some (0x50, 0, .r o)
  | .shset o => some (0x51, 0, .r o)
  | .shget o => some (0x52, 0, .r o)
  | .shinv o => some (0x53, 0, .r o)
  | .shseg o => some (0x54, 0, .r o)
  | .shrow o => some (0x55, 0, .r o)
  | .ldPl o => some (0x58, 0, .r o)
  | .ldAcq o => some (0x58, 1, .r o)
  | .stPl o => some (0x59, 0, .r o)
  | .stRel o => some (0x59, 1, .r o)
  | .vld o => some (0x5A, 0, .r o)
  | .vstPl o => some (0x5B, 0, .r o)
  | .vstMsk o => some (0x5B, 1, .r o)
  | .vstRel o => some (0x5B, 2, .r o)
  | .sopen o => some (0x5C, 0, .r o)
  | .sctlClose o => some (0x5D, 0, .r o)
  | .sctlRewind o => some (0x5D, 1, .r o)
  | .sctlSkip o => some (0x5D, 2, .r o)
  | .gath o => some (0x5E, 0, .r o)
  | .scatSt o => some (0x5F, 0, .r o)
  | .scatAdd o => some (0x5F, 1, .r o)
  | .ldr o => some (0x60, 0, .r o)
  | .pref o => some (0x61, 0, .r o)
  | .tillApp o => some (0x62, 0, .r o)
  | .tillPoll o => some (0x62, 1, .r o)
  | .tillWait o => some (0x62, 2, .r o)
  | .tillAdv o => some (0x62, 3, .r o)
  | .prmtGet o => some (0x63, 0, .r o)
  | .prmtRet o => some (0x63, 1, .r o)
  | .xform o => some (0x64, 0, .r o)
  | .bankGive o => some (0x65, 0, .r o)
  | .bankTake o => some (0x65, 1, .r o)
  | .bankQry o => some (0x65, 2, .r o)
  | .evPost o => some (0x66, 0, .r o)
  | .evPop o => some (0x66, 1, .r o)
  | .evWait o => some (0x66, 2, .r o)
  | .evPeek o => some (0x66, 3, .r o)
  | .aupdAdd o => some (0x68, 0, .r o)
  | .aupdMin o => some (0x68, 1, .r o)
  | .aupdMax o => some (0x68, 2, .r o)
  | .aupdOr o => some (0x68, 3, .r o)
  | .aupdAnd o => some (0x68, 4, .r o)
  | .aupdXor o => some (0x68, 5, .r o)
  | .aupdSwp o => some (0x68, 6, .r o)
  | .afetAdd o => some (0x69, 0, .r o)
  | .afetMin o => some (0x69, 1, .r o)
  | .afetMax o => some (0x69, 2, .r o)
  | .afetOr o => some (0x69, 3, .r o)
  | .afetAnd o => some (0x69, 4, .r o)
  | .afetXor o => some (0x69, 5, .r o)
  | .afetSwp o => some (0x69, 6, .r o)
  | .acas o => some (0x6A, 0, .r o)
  | .atas o => some (0x6B, 0, .r o)
  | .afadd o => some (0x6C, 0, .r o)
  | .linkTurn o => some (0x6D, 0, .r o)
  | .linkQry o => some (0x6D, 1, .r o)
  | .linkHold o => some (0x6D, 2, .r o)
  | .statEmit o => some (0x6E, 0, .r o)
  | .statCfg o => some (0x6E, 1, .r o)
  | .statRd o => some (0x6E, 2, .r o)
  | .rgnPreempt o => some (0x6F, 0, .r o)
  | .rgnResume o => some (0x6F, 1, .r o)
  | .rgnRollback o => some (0x6F, 2, .r o)
  | .rgnQuiesce o => some (0x6F, 3, .r o)
  | .rgnAsid o => some (0x6F, 4, .r o)
  | .grpJoin o => some (0x70, 0, .r o)
  | .grpLeave o => some (0x70, 1, .r o)
  | .grpArrive o => some (0x70, 2, .r o)
  | .grpWait o => some (0x70, 3, .r o)
  | .grpBar o => some (0x70, 4, .r o)
  | .grpQry o => some (0x70, 5, .r o)
  | .fenceCtx o => some (0x71, 0, .r o)
  | .fencePage o => some (0x71, 1, .r o)
  | .fenceRgn o => some (0x71, 2, .r o)
  | .fenceDie o => some (0x71, 3, .r o)
  | .fenceDev o => some (0x71, 4, .r o)
  | .fenceSys o => some (0x71, 5, .r o)
  | .qfence o => some (0x72, 0, .r o)
  | .tcntAdd o => some (0x73, 0, .r o)
  | .tcntSub o => some (0x73, 1, .r o)
  | .tcntRd o => some (0x73, 2, .r o)
  | .tcntWz o => some (0x73, 3, .r o)
  | .smIns o => some (0x74, 0, .r o)
  | .smSeal o => some (0x74, 1, .r o)
  | .smMrg o => some (0x74, 2, .r o)
  | .smSpl o => some (0x74, 3, .r o)
  | .smFork o => some (0x74, 4, .r o)
  | .smEvct o => some (0x74, 5, .r o)
  | .smFree o => some (0x74, 6, .r o)
  | .smbnd o => some (0x75, 0, .r o)
  | .smdsc o => some (0x76, 0, .r o)
  | .smaccNode o => some (0x77, 0, .r o)
  | .smaccLeaf o => some (0x77, 1, .r o)
  | .smaccFin o => some (0x77, 2, .r o)
  | .agLoad o => some (0x78, 0, .r o)
  | .agBind o => some (0x78, 1, .r o)
  | .agUnld o => some (0x78, 2, .r o)
  | .agQry o => some (0x78, 3, .r o)
  | .taskLnch o => some (0x79, 0, .r o)
  | .taskSeq o => some (0x79, 1, .r o)
  | .taskCncl o => some (0x79, 2, .r o)
  | .taskQry o => some (0x79, 3, .r o)
  | .taskPrio o => some (0x79, 4, .r o)
  | .rangeGet o => some (0x7A, 0, .r o)
  | .rangeSteal o => some (0x7A, 1, .r o)
  | .rangeSplit o => some (0x7A, 2, .r o)
  | .rangeDone o => some (0x7A, 3, .r o)
  | .cpyCpy o => some (0x7B, 0, .r o)
  | .cpyXf o => some (0x7B, 1, .r o)
  | .cpyFill o => some (0x7B, 2, .r o)
  | .cpyStat o => some (0x7B, 3, .r o)
  | .nmcIssue o => some (0x7C, 0, .r o)
  | .nmcFence o => some (0x7C, 1, .r o)
  | .nmcStat o => some (0x7C, 2, .r o)
  | .brBr o => some (0x7D, 0, .i o)
  | .brCall o => some (0x7D, 1, .i o)
  | .jrJr o => some (0x7E, 0, .r o)
  | .jrRet o => some (0x7E, 1, .r o)
  | .jrHalt o => some (0x7E, 2, .r o)
  | .sysTrap o => some (0x7F, 0, .r o)
  | .sysEret o => some (0x7F, 1, .r o)
  | .sysCsrr o => some (0x7F, 2, .r o)
  | .sysCsrw o => some (0x7F, 3, .r o)
  | .sysMbx o => some (0x7F, 4, .r o)
  | .sysPgsv o => some (0x7F, 5, .r o)
  | .sysPgrs o => some (0x7F, 6, .r o)
  | .sysTlbi o => some (0x7F, 7, .r o)
  | _ => none

/-- The word of an instruction, written from the encoding tables of R28-R30 and R40; none for a unit's step. -/
def encode (i : Instr) : Option Word :=
  i.code?.map fun (opc, fn, f) =>
    match f with
    | .r o => packR (BitVec.ofNat 7 opc) fn o
    | .i o => packI (BitVec.ofNat 7 opc) fn o

/-! ## What an instruction takes in its fields -/

/-- The kind of thing a D, A or B field names (R33, R34, R97, R98, R137, R188). -/
inductive OpK where
  /-- not used: zero (R31) -/
  | no
  /-- scalar destination: `a`, `out`, `zr` -/
  | sdst
  /-- scalar source -/
  | ssrc
  /-- scalar register, read and written -/
  | sreg
  /-- register or `zr`, written -/
  | srz
  /-- vector destination -/
  | vdst
  /-- vector source -/
  | vsrc
  /-- vector register, read and written -/
  | vreg
  /-- vector register, read -/
  | vro
  /-- vector register, written -/
  | vwo
  /-- `zr` or a vector register, read -/
  | vcv
  /-- any source that a port's network allows -/
  | asrc
  /-- an out port of either network -/
  | oport
  /-- an in port of either network -/
  | iport
  /-- a vector out port -/
  | vout
  /-- a vector in port -/
  | vinp
  /-- a control out port -/
  | cout
  /-- an index below n, at least m -/
  | idx (m n : Nat)
  /-- predicate index, written -/
  | pw
  /-- predicate index, read -/
  | pr
  /-- tile register, written -/
  | zw
  /-- tile register, read -/
  | zr'
  /-- tile register, read and written -/
  | zrw
  /-- shape register, read -/
  | sr
  /-- shape register, written -/
  | sw
  /-- a stream: vector in port or `zr` (R188) -/
  | strm
  deriving DecidableEq, Repr

/-- Where a word may run (R40). -/
inductive Runs where
  | e | t | et
  deriving DecidableEq, Repr

/-- What an instruction's entry says of its fields. -/
structure WSpec where
  /-- accepted TY codes as a mask; meaningful only when `ign` is false -/
  tys : Nat := 0
  /-- the instruction ignores TY -/
  ign : Bool := false
  d : OpK := .no
  a : OpK := .no
  b : OpK := .no
  /-- PU must be zero (R37, R101, R129, R133) -/
  noPu : Bool := false
  runs : Runs := .et
  /-- minimum level super, decidable at load (R40) -/
  sup : Bool := false
  deriving DecidableEq, Repr

/-- TY sets: 0-7, 0-3, 4-7, 0-7 and bit, 8-11, 0-11, 0-11 and bit, none but 0. -/
def tyInt : Nat := 0x00FF
def tyS : Nat := 0x000F
def tyN : Nat := 0x00F0
def tyIntB : Nat := 0x40FF
def tyF : Nat := 0x0F00
def tyAll : Nat := 0x0FFF
def tyAllB : Nat := 0x4FFF
def ty0 : Nat := 0x0001

/-- The field use of scalar, predicate, channel and branch words (file 06). -/
def wspecScalar (opc fn : Nat) : WSpec :=
  match opc with
  | 0x01 | 0x02 => { tys := if fn = 0 then tyInt else if fn = 1 then tyS else tyN, d := .sdst, a := .ssrc, b := .ssrc }
  | 0x03 => { ign := true, d := .sdst, a := .ssrc }
  | 0x04 => { tys := if fn = 0 then tyInt else if fn = 1 then tyS else tyN, d := .sdst, a := .ssrc, b := .ssrc }
  | 0x05 => { tys := if fn = 0 then tyInt else tyS, d := .sreg, a := .ssrc, b := .ssrc }
  | 0x06 => { tys := if fn % 2 = 0 then tyS else tyN, d := .sdst, a := .ssrc, b := .ssrc }
  | 0x07 => { tys := tyIntB, d := .sdst, a := .ssrc, b := .ssrc }
  | 0x08 => { tys := tyInt, d := .sdst, a := .ssrc, b := .ssrc }
  | 0x09 => { ign := true, d := .sdst, a := .ssrc }
  | 0x0A => { tys := if fn < 2 then tyS else tyN, d := .sdst, a := .ssrc, b := .ssrc }
  | 0x0B => { tys := tyInt, d := if fn = 5 then .sreg else .sdst, a := .ssrc, b := if fn < 4 then .no else .ssrc }
  | 0x0C => { tys := if fn = 3 then tyS else tyInt, d := if fn = 1 ∨ fn = 2 then .sreg else .sdst, a := .ssrc
              b := if fn = 1 ∨ fn = 2 then .ssrc else .no }
  | 0x0D => { ign := true, d := .sdst }
  | 0x0E => { ign := true, d := .sreg }
  | 0x0F => { tys := tyInt, d := .sdst, a := .ssrc, b := .ssrc }
  | 0x10 => { tys := if fn = 2 ∨ fn = 3 then tyS else if fn = 4 ∨ fn = 5 then tyN else tyInt
              d := .sdst, a := .ssrc, b := .ssrc }
  | 0x11 => { ign := true, d := .pw, a := .ssrc }
  | 0x12 => { tys := tyF, d := .sdst, a := .ssrc, b := .ssrc }
  | 0x13 => if fn = 4 then { ign := true, d := .cout, noPu := true, runs := .e }
            else { ign := true, d := .pw, a := if fn < 2 then .no else .pr, noPu := true }
  | 0x14 => { ign := true, d := .pw, a := .pr, b := .pr, noPu := true }
  | 0x15 => if fn = 0 then { ign := true, d := .sdst, a := .pr } else { ign := true, d := .pw, a := .ssrc, noPu := true }
  | 0x18 => { tys := tyAllB, d := .oport, a := .asrc }
  | 0x19 => { ign := true, d := .oport, a := .iport }
  | 0x1A => { tys := tyAllB, d := .vout, a := .ssrc, runs := .e }
  | 0x1B => { tys := tyAllB, d := .oport, a := .asrc, b := .ssrc }
  | 0x1C => { ign := true, d := .oport, a := .iport, b := .iport, runs := .e }
  | 0x1D | 0x1E => { ign := true, noPu := true, runs := .e }
  | 0x7D => { ign := true, d := if fn = 0 then .no else .srz, runs := .t }
  | 0x7E => { ign := true, d := if fn = 1 then .no else .srz, a := if fn = 2 then .no else .ssrc, noPu := true, runs := .t }
  | _ => { ign := true, noPu := true }

/-- The field use of vector words (file 07). -/
def wspecVector (opc fn : Nat) : WSpec :=
  match opc with
  | 0x20 | 0x21 | 0x22 => { tys := tyAll, d := .vdst, a := .vsrc, b := .vsrc }
  | 0x23 => { tys := tyAll, d := .vreg, a := .vsrc, b := .vsrc }
  | 0x24 => { tys := tyF, d := .vdst, a := .vsrc, b := if fn = 0 then .vsrc else .no }
  | 0x25 => { tys := if fn < 2 then tyAll else tyF, d := .vdst, a := .vsrc, b := .vsrc }
  | 0x26 => { tys := if fn = 2 then tyF else 0x0F0F, d := .vdst, a := .vsrc, b := if fn = 2 then .vsrc else .no }
  | 0x27 => { tys := tyAll, d := .vdst, a := .vsrc, b := .vsrc }
  | 0x28 => { tys := tyAllB, d := .vreg, a := .vsrc, b := .vsrc }
  | 0x29 => { tys := tyAll, d := .vdst, a := .vsrc, b := .idx 0 12 }
  | 0x2A => { tys := tyF, d := .vdst, a := .vsrc }
  | 0x2B => { tys := 0x0F33, d := .sdst, a := .vsrc, b := .vsrc }
  | 0x2C => { tys := if fn < 3 then tyAll else tyInt, d := .sdst, a := .vsrc }
  | 0x2D => { tys := if fn = 3 then 0x00C0 else 0x0CCC, d := .vout, a := .vinp, b := .idx 1 5 }
  | 0x2E => { tys := tyAll, d := .vdst, a := .vsrc, b := .vsrc }
  | 0x2F => { tys := tyAllB, d := .vdst, a := .vsrc, b := if fn = 0 ∨ fn = 3 then .vsrc else .ssrc }
  | 0x30 => { tys := tyIntB, d := .vreg, a := .vsrc, b := .vsrc }
  | 0x31 => { tys := tyInt, d := .vdst, a := .vsrc, b := .vsrc }
  | 0x32 => { tys := tyAll, d := .vreg, a := .vsrc, b := .vsrc }
  | 0x33 => { tys := 0x0033, d := .vdst, a := .vsrc, b := .ssrc }
  | 0x34 => { tys := 0x0077, d := .vdst, a := .vsrc, b := .ssrc }
  | 0x35 | 0x36 => { tys := ty0, d := .vdst, a := .vsrc, b := .ssrc }
  | 0x37 => if fn = 0 then { tys := 0x0700, d := .vout, a := .vinp, b := .ssrc }
            else { tys := 0x0700, d := .vdst, a := .vsrc, b := .vro }
  | 0x38 => if fn = 0 then { tys := tyAll, d := .vreg, a := .ssrc, b := .ssrc }
            else { tys := tyAll, d := .sdst, a := .vsrc, b := .ssrc }
  | 0x39 => { tys := tyInt, d := .vdst, a := .ssrc, b := .ssrc }
  | 0x3A => if fn = 0 then { tys := tyInt, d := .vdst, a := .vsrc, b := .ssrc }
            else if fn = 1 then { tys := 0x4000, d := .sdst, a := .vsrc }
            else { tys := tyInt, d := .vreg, a := .vsrc, b := .ssrc }
  | 0x3B => { tys := 0x0010, d := .sreg, a := .vsrc, b := .vsrc }
  | 0x3C => { tys := 0x0400, d := .vreg, a := .vsrc, b := .ssrc }
  | 0x3D => { tys := 0x0440, d := .vdst, a := .ssrc, b := .ssrc }
  | _ => { tys := tyAll, d := .vdst, a := .ssrc, b := .sr, runs := .e }

/-- The field use of tile and shape words (file 09, R189, R202). -/
def wspecTile (opc fn : Nat) : WSpec :=
  match opc with
  | 0x40 => { tys := 0x1FFF, d := .zrw, a := .ssrc, runs := .e }
  | 0x41 => { tys := tyAll, d := .vout, a := .zr', runs := .e }
  | 0x42 => { tys := tyAll, d := .zw, a := .strm, b := .ssrc, runs := .e }
  | 0x43 => { tys := tyAll, d := .zr', a := .ssrc, b := .ssrc, runs := .e }
  | 0x44 => { tys := tyAll, d := .zw, a := if fn = 6 then .ssrc else .no, runs := .e }
  | 0x45 => { tys := 0x1F11, d := .zr', runs := .e }
  | 0x46 => { tys := 0x1F11, d := if fn < 2 then .zw else .zrw, a := .strm, b := if fn % 2 = 1 then .sr else .no, runs := .e }
  | 0x47 => { tys := ty0, d := .zw, a := .zr', runs := .e }
  | 0x48 => { tys := tyAll, d := .zw, a := .zr', b := if fn = 0 then .zr' else .ssrc, runs := .e }
  | 0x49 => { tys := tyAll, d := .zw, a := .zr', b := .vcv, runs := .e }
  | 0x4A | 0x4B => { tys := ty0, a := .ssrc, runs := .e }
  | 0x4C => { tys := ty0, d := .sdst, a := .idx 0 16, runs := .e }
  | 0x4D => { tys := ty0, runs := .e }
  | 0x4E => if fn = 0 then { tys := tyAll, d := .vwo, a := .zr', b := .ssrc, runs := .e }
            else { tys := tyAll, d := .zrw, a := .vsrc, b := .ssrc, runs := .e }
  | 0x50 => { ign := true, d := .sw, a := .ssrc, runs := .e }
  | 0x51 => { ign := true, d := .sw, a := .ssrc, b := .ssrc, runs := .e }
  | 0x52 => { ign := true, d := .sdst, a := .sr, b := .ssrc, runs := .e }
  | 0x53 => { ign := true, d := .sw, runs := .e }
  | _ => { ign := true, d := .sdst, a := .sr, b := .ssrc, runs := .e }

/-- The field use of memory, stream, atomic and synchronisation words (file 12). -/
def wspecMem (opc fn : Nat) : WSpec :=
  match opc with
  | 0x58 => { tys := tyAll, d := .sdst, a := .ssrc, b := .ssrc }
  | 0x59 => { tys := tyAll, d := .ssrc, a := .ssrc, b := .ssrc }
  | 0x5A => { tys := tyAll, d := .vdst, a := .ssrc, b := .ssrc }
  | 0x5B => { tys := tyAll, d := .vsrc, a := .ssrc, b := .ssrc }
  | 0x5C => { ign := true, d := .idx 0 16, a := .ssrc, runs := .e }
  | 0x5D => { ign := true, d := .idx 0 16, a := if fn = 2 then .ssrc else .no, runs := .e }
  | 0x5E => { tys := tyAll, d := .vdst, a := .ssrc, b := .vsrc, runs := .e }
  | 0x5F => { tys := if fn = 0 then tyAll else 0x0FCC, d := .vsrc, a := .ssrc, b := .vsrc, runs := .e }
  | 0x60 => { tys := tyAll, d := .vout, a := .ssrc, b := .sr, runs := .e }
  | 0x61 => { ign := true, a := .ssrc, b := .ssrc }
  | 0x62 => if fn = 0 then { ign := true, d := .vsrc, a := .ssrc, b := .ssrc }
            else if fn = 1 then { ign := true, d := .sdst, a := .ssrc }
            else if fn = 2 then { ign := true, d := .sdst, a := .ssrc, b := .ssrc }
            else { ign := true, a := .ssrc, b := .ssrc }
  | 0x63 => { ign := true, d := .sdst, a := .ssrc, b := .ssrc }
  | 0x64 => { ign := true, d := .idx 0 8, a := .ssrc, runs := .e }
  | 0x65 => if fn = 2 then { ign := true, d := .sdst, a := .ssrc, runs := .e }
            else { ign := true, a := .ssrc, b := .ssrc, runs := .e }
  | 0x66 => if fn = 0 then { ign := true, d := .vsrc, a := .ssrc } else { ign := true, d := .vdst }
  | 0x68 => { tys := tyInt, a := .ssrc, b := .ssrc }
  | 0x69 => { tys := tyInt, d := .sdst, a := .ssrc, b := .ssrc }
  | 0x6A => { tys := tyInt, d := .sreg, a := .ssrc, b := .ssrc }
  | 0x6B => { tys := 0x4000, d := .sdst, a := .ssrc, b := .ssrc }
  | 0x6C => { tys := tyF, d := .sdst, a := .ssrc, b := .ssrc }
  | 0x70 => { ign := true, d := .sdst, a := .ssrc, b := if fn = 3 then .ssrc else .no }
  | 0x71 => { ign := true }
  | 0x72 => { ign := true, a := .ssrc }
  | _ => { tys := 0x0008, d := .sdst, a := .ssrc, b := if fn < 2 then .ssrc else .no }

/-- The field use of summary, shift-add, task, range, engine, link, statistics, region and system words (files 16, 21, 24). -/
def wspecSys (opc fn : Nat) : WSpec :=
  match opc with
  | 0x74 => { tys := if fn = 0 then 0x0100 else ty0, d := .sdst, a := .ssrc
              b := if fn = 0 ∨ fn = 3 ∨ fn = 4 ∨ fn = 5 then .ssrc else .no, runs := .e }
  | 0x75 => { tys := ty0, d := .vdst, a := .ssrc, runs := .e }
  | 0x76 => { tys := ty0, d := .sdst, a := .ssrc, b := .vsrc, runs := .e }
  | 0x77 => { tys := ty0, d := .sdst, a := .ssrc, b := if fn < 2 then .vsrc else .no, runs := .e }
  | 0x78 => { ign := true, d := .sdst, a := .ssrc, b := if fn < 2 then .ssrc else .no, runs := .e }
  | 0x79 => { ign := true, d := .sdst, a := .ssrc, b := if fn = 1 ∨ fn = 4 then .ssrc else .no, runs := .t, sup := true }
  | 0x7A => { ign := true, d := .sdst, a := if fn = 1 ∨ fn = 2 then .ssrc else .no, runs := .e }
  | 0x6D => { ign := true, d := .sdst, a := .ssrc, b := if fn = 1 then .no else .ssrc }
  | 0x6E => { ign := true, d := .sdst, a := .ssrc, b := if fn = 2 then .no else .ssrc, sup := decide (fn = 1) }
  | 0x6F => { ign := true, d := .sdst, a := .ssrc, b := if fn = 4 then .ssrc else .no, runs := .t, sup := true }
  | 0x7B => if fn = 3 then { ign := true, d := .sdst, b := .ssrc } else { ign := true, d := .sdst, a := .ssrc, b := .ssrc }
  | 0x7C => if fn = 0 then { ign := true, d := .sdst, a := .ssrc }
            else if fn = 1 then { ign := true } else { ign := true, d := .sdst }
  | _ => match fn with
    | 0 => { ign := true, a := .ssrc, runs := .t }
    | 1 => { ign := true, runs := .t, sup := true }
    | 2 => { ign := true, d := .sdst, a := .ssrc, runs := .t, sup := true }
    | 3 => { ign := true, d := .sdst, a := .ssrc, b := .ssrc, runs := .t, sup := true }
    | 4 => { ign := true, d := .vdst, a := .ssrc, runs := .t, sup := true }
    | 7 => { ign := true, a := .ssrc, b := .ssrc, runs := .t, sup := true }
    | _ => { ign := true, d := .sdst, a := .ssrc, b := .ssrc, runs := .t, sup := true }

/-- What the instruction of an OPC and FN takes in its fields. -/
def wspec (opc fn : Nat) : WSpec :=
  if opc < 0x20 ∨ opc = 0x7D ∨ opc = 0x7E then wspecScalar opc fn
  else if opc < 0x3F then wspecVector opc fn
  else if opc < 0x56 then wspecTile opc fn
  else if opc < 0x6D ∨ (0x70 ≤ opc ∧ opc < 0x74) then wspecMem opc fn
  else wspecSys opc fn

/-! ## Defects (R42) -/

/-- The two kinds of agent a word can run on (R40). -/
inductive AgentKind where
  | elem | teller
  deriving DecidableEq, Repr

/-- True of opcodes whose words are Form I (R40). -/
def isFormI (opc : Nat) : Bool := [0x03, 0x09, 0x0D, 0x0E, 0x11, 0x7D].contains opc

/-- An index kind, where the field is a number and not an operand code (R34). -/
def OpK.indexBound : OpK → Option (Nat × Nat)
  | .idx m n => some (m, n)
  | .pw | .pr | .zw | .zr' | .zrw | .sr | .sw => some (0, 8)
  | .cout => some (16, 20)
  | _ => none

/-- Defect 5 of one field: an operand code 28-31 or an index outside its range. -/
def fieldReserved (k : OpK) (c : Nat) : Bool :=
  match k with
  | .no => false
  | _ => match k.indexBound with
    | some (m, n) => c < m || n ≤ c
    | none => 28 ≤ c

/-- Defect 6 of one field: an operand code in a role it cannot take (R33, R97, R98, R137). A port is no vector operand of a
word that tellers run too (R137); a word for elements only is judged as in an element, and found by defect 7. -/
def fieldRole (k : OpK) (ag : AgentKind) (el : Bool) (c : Nat) : Bool :=
  let isA := c < 8 || (ag == .teller && 20 ≤ c && c < 26)
  let isV := 8 ≤ c && c < 12
  let isIn := 12 ≤ c && c < 16
  let isOut := 16 ≤ c && c < 20
  let isK := ag == .elem && 20 ≤ c && c < 26
  let src := isA || isIn || isK || c == 26 || c == 27
  match k with
  | .sdst => !(isA || isOut || c == 26)
  | .ssrc => !src
  | .sreg => !isA
  | .srz => !(isA || c == 26)
  | .vdst => !(isV || (isOut && el) || c == 26)
  | .vsrc => !(isV || (isIn && el) || c == 26)
  | .vreg | .vro | .vwo => !isV
  | .vcv => !(isV || c == 26)
  | .asrc => !(src || (isV && el))
  | .oport => !isOut
  | .iport => !isIn
  | .vout => !(isOut && el)
  | .vinp => !(isIn && el)
  | .strm => !(isIn || c == 26)
  | _ => false

/-- Defect 7 of one field in a teller: `out0`, `out1` or `out2` named as an operand (R26, R27). -/
def fieldLacks (k : OpK) (ag : AgentKind) (c : Nat) : Bool :=
  ag == .teller && k.indexBound.isNone && k != .no && 16 ≤ c && c < 19

/-- The fields that an index or code stands in, with their kinds. -/
def opFields (sp : WSpec) (w : Word) : List (OpK × Nat) :=
  let d := (sp.d, (field w 19 5).toNat)
  let a := (sp.a, (field w 14 5).toNat)
  if isFormI (opcOf w) then [d, a] else [d, a, (sp.b, (field w 9 5).toNat)]

/-- The rules of R31 on the guard. -/
def guardBad (g : Guard) : Bool :=
  (g.pv &&& ~~~g.pm) != 0 ||
  (g.te == 0 && (g.tch != 0 || g.ttg != 0)) ||
  (g.te == 1 && (!g.cr.getLsbD g.tch.toNat || g.ttg == 5 || g.ttg == 6)) ||
  (g.cr == 0 && g.pk == 1)

/-- The channel bit of an in-port operand code. -/
def chanBit (c : Nat) : BitVec 4 := if 12 ≤ c ∧ c < 16 then BitVec.ofNat 4 (2 ^ (c - 12)) else 0

/-- The breaches particular to some words (R108, R112, R125, R188). `MRG` with A and B naming one channel breaks none, and
passes that channel's tokens (DEDUCED, log 131). -/
def specialBad (w : Word) : Bool :=
  let opc := opcOf w
  let g := guardOf w
  let imm := (field w 0 14).toNat
  let a := (field w 14 5).toNat
  let b := (field w 9 5).toNat
  if opc = 0x09 then 64 ≤ imm
  else if opc = 0x0E then fnOf w == 4 && 256 ≤ imm
  else if opc = 0x1C then g.pk == 1 || g.te == 1 || (g.cr &&& ~~~(chanBit a ||| chanBit b)) != 0
  else if opc = 0x42 ∨ opc = 0x46 then
    12 ≤ a && a < 16 && (g.pk == 0 || (g.cr &&& chanBit a) == 0)
  else false

/-- Defect 4: a field breaks R31 or the result-predicate rule of R37. -/
def fieldsBad (sp : WSpec) (w : Word) : Bool :=
  let g := guardOf w
  w.getLsbD 34 || guardBad g || specialBad w ||
  (opFields sp w).any (fun (k, c) => k == .no && c != 0) ||
  (!isFormI (opcOf w) &&
    (((field w 4 2) == 0 && (field w 6 3) != 0) || (sp.noPu && (field w 4 2) != 0) ||
     (sp.ign && (field w 0 4) != 0)))

/-- Defect 3: TY not accepted, or 15; a teller's SEND and TAGR accept TY 0-7 (R120). -/
def tyBad (sp : WSpec) (ag : AgentKind) (w : Word) : Bool :=
  let ty := (field w 0 4).toNat
  let narrow := ag == .teller && (opcOf w == 0x18 || opcOf w == 0x1B)
  !isFormI (opcOf w) && (ty == 15 || (!sp.ign && !(if narrow then tyInt else sp.tys).testBit ty))

/-- The first defect of a word in the order of R42, 0 when it has none. -/
def defect (ag : AgentKind) (w : Word) : Nat :=
  if reservedOpc.contains (opcOf w) then 1
  else if fnCount (opcOf w) ≤ fnOf w then 2
  else
    let sp := wspec (opcOf w) (fnOf w)
    let fs := opFields sp w
    if tyBad sp ag w then 3
    else if fieldsBad sp w then 4
    else if fs.any (fun (k, c) => fieldReserved k c) then 5
    else if fs.any (fun (k, c) => fieldRole k ag (ag == .elem || sp.runs == .e) c) then 6
    else if (sp.runs == .e && ag == .teller) || (sp.runs == .t && ag == .elem) ||
        fs.any (fun (k, c) => fieldLacks k ag c) then 7
    else if sp.sup && ag == .elem then 8
    else 0

end Sys2Proof
end

