-- ==== Sys2Proof/Machine/State.lean ====
section
/-!
DEFINITION. The state of the device: every piece of state the spec gives the machine, as plain data, and the state right
after reset. Numbers that name units are those of Sys2Proof/Syntax.lean.
-/

namespace Sys2Proof.Machine

/-! ## Stops -/

/-- Why the machine stops with a fault. No rule of the spec stops the machine (R392): its faults are data. -/
inductive Fault where
  /-- The model's own: an instruction word is run while no agent is firing it. No step of the machine reaches it; safe. -/
  | noAgent
  deriving DecidableEq, Repr

/-- Why a step has no meaning in the model. -/
inductive Refusal where
  /-- Raised by the dispatch for an instruction whose meaning is not written; safe. -/
  | notModelled (mnemonic : String)
  deriving DecidableEq, Repr

/-! ## Tokens and contexts -/

/-- A token on a network (R11): its tag 0-7 and payload; a scalar token uses the low 64 bits, a pulse none. -/
structure Tok where
  tag : Nat
  pay : Vec
  deriving DecidableEq, Repr

/-- A predicate: false, true or pending (R9). -/
inductive Tri where
  | ff | tt | pend
  deriving DecidableEq, Repr

/-- Who fires a word: a slot of an element context, or a teller context at a PC (R18, R24). -/
inductive Who where
  | elem (pg pe cx slot : Nat)
  | tel (t cx : Nat) (pc : Word)
  deriving DecidableEq, Repr

/-- A group membership of a context with its arrived flags: per barrier the generation it has arrived at, which counts as
arrived while it is the barrier's current one (R256, R257). -/
structure GMem where
  die : Nat
  ix  : Nat
  arr : List (Option Nat)
  deriving DecidableEq, Repr

/-- An element context's own state (R9, R392). -/
structure Ctx where
  a : List Word
  v : List Vec
  p : List Tri
  withheld : Bool
  groups : List GMem
  deriving DecidableEq, Repr

/-- A slot and its slot state: `MRG` last-taken bit (R126), `VACC` accumulator and count (R151) and companion progress
(R152), `VNRM.STAT` exact sums in units of 2^-149 and 2^-298 with whether an infinity, a signalling NaN, a NaN was met (R158). -/
structure Slot where
  word  : Word
  valid : Bool
  mrg   : Bool
  acc   : Vec
  cnt   : Word
  half  : Bool
  sumS  : Int
  sumQ  : Int
  sumC  : Nat
  inf    : Bool
  sig    : Bool
  nan    : Bool
  deriving DecidableEq, Repr

/-! ## Processing elements -/

/-- A port's declared format and network: 0 unbound, 1 scalar, 2 vector, 3 control (R70). -/
structure PortCfg where
  ty  : Nat
  net : Nat
  deriving DecidableEq, Repr

/-- The live state of an element, which a shadow copies (R9, R397). -/
structure PeLive where
  slots : List Slot
  ctxs  : List Ctx
  arb   : Nat
  /-- previous DATA coordinate of the current run at `in0` and `in1` (R15) -/
  isect : List (Option Nat)
  /-- the heads the intersection unit presents and nothing has dequeued yet: bit 0 `in0`, bit 1 `in1` (R15) -/
  isectUp : Nat
  /-- tokens tagged EOT or EOS dequeued from the tile port (R312) -/
  tiles : Nat
  /-- tiles whose event counts have been emitted (R90) -/
  told  : Nat
  /-- event counts of the tile in progress, classes 1-5 (R90) -/
  cnts  : List Nat
  deriving DecidableEq, Repr

/-- A shadow of an element: its interval, the state, tokens logged per back-arc port, ports whose log is closed, and
whether it is unusable (R396, R397). -/
structure Shadow where
  ival : Nat
  /-- fc at which it was taken -/
  taken : Nat
  live : PeLive
  logs : List (Nat × List Tok)
  shut : List Nat
  unusable : Bool
  deriving DecidableEq, Repr

/-- A processing element (R9, R70). -/
structure Pe where
  present : Bool
  ports : List PortCfg
  /-- per in port: context and predicate bound to it (R23, R70) -/
  pbind : List (Option (Nat × Nat))
  replicate : Bool
  isectOn : Bool
  k : List Word
  live : PeLive
  /-- SNAP and DRAIN owed to out ports: port and tag (R22) -/
  owed : List (Nat × Nat)
  /-- the context of the last `MARK.SNAP` or `DRAIN` fired and the first instruction after it: its markers publish (R265) -/
  markBy : Option (Nat × Nat)
  /-- DRAIN forwarded or received (R22, R271) -/
  drained : Bool
  /-- a `DRAIN` word has written back: no slot fires again (R130) -/
  ended : Bool
  /-- DRAIN delivered by the region controller and not yet forwarded (R22, R270) -/
  drainDue : Bool
  /-- SNAP delivered by the region controller to an element without in ports (R320, R398) -/
  snapDue : Bool
  ival : Nat
  shadows : List Shadow
  deriving DecidableEq, Repr

/-! ## Routes -/

/-- A route and its latches, index 0 nearest the out port (R13, R72, R421). -/
structure Route where
  /-- entry number in its network's table (R72); 256 and up for a route that only a stream's descriptor names -/
  ix : Nat
  net : Nat
  src : Nat
  dst : Nat
  viaRouter : Bool
  /-- logical edge entry (R72) and region edge number (R74) of a route through the router -/
  eidx : Nat
  edge : Option Nat
  path : Nat
  hops : Nat
  /-- format of the route or edge: TY and plane count (R93) -/
  ty : Nat
  pln : Nat
  latches : List (Option Tok)
  /-- an out latch reserved by a fired instruction (R20) -/
  rsv : Bool
  /-- the head has been dequeued in this fc; its latch frees when the route advances (R13) -/
  taken : Bool
  /-- the token in the out latch was placed in this fc, and moves or can be seen from the next fc on (R13, R20) -/
  fresh : Bool
  /-- fc at which the head became the head (R126) -/
  since : Nat
  /-- holds an initial token: a back arc (R268) -/
  back : Bool
  /-- tokens a rollback delivers ahead of anything new (R399 step 2) -/
  replay : List Tok
  /-- tokens in a row, from an occupied head on, that could not move in this fc: they do when the head still leaves (R13, R23) -/
  stuck : Nat
  deriving DecidableEq, Repr

/-! ## Translation and memory requests -/

/-- A translation entry: ASID, the page's VA and PA, its size and the leaf's bits (R213, R219). -/
structure Tlb where
  asid : Nat
  va   : Nat
  pa   : Nat
  size : Nat
  leaf : Nat
  deriving DecidableEq, Repr

/-- What a memory request is for. -/
inductive ReqFor where
  /-- an outstanding instruction's part `n` (R242) -/
  | flight (fid n : Nat)
  /-- a row of a load stream (R223), part `n` -/
  | row (pg si row n : Nat)
  /-- a store stream's bytes (R224) -/
  | store (pg si : Nat)
  /-- a teller's line fetch (R422) -/
  | line (t cx : Nat)
  /-- a read of a window refill, part `n` (R170) -/
  | refill (pg sx n : Nat)
  /-- a write-through of a `SHSET`, by its name (R173) -/
  | through (pg sx n : Nat)
  /-- a stream's read of its record's header (kind 0), of a boundary window (kind 1) or of a DECODE string (kind 2), part
  `n` (R227, R418) -/
  | aux (pg si kind n : Nat)
  /-- the access of an update at its owner, by the update's name (R234) -/
  | upd (pg me uid : Nat)
  /-- a `PREF`, which asks for a walk alone (R249) -/
  | pref (fid : Nat)
  deriving DecidableEq, Repr

/-- The port a request was issued at: an ME's port queue or a teller (R218, R241). -/
inductive Port where
  | me (pg me : Nat)
  | tel (t : Nat)
  deriving DecidableEq, Repr

/-- One access of an instruction: address, bytes, and the bytes and bit masks of a store. -/
structure Part where
  va : Nat
  len : Nat
  data : Option (List Byte × List Byte)
  deriving DecidableEq, Repr

/-- A memory request of at most 64 bytes inside one 64-byte unit (R218). -/
structure Req where
  rid  : Nat
  job  : ReqFor
  port : Port
  asid : Nat
  va   : Nat
  /-- translated key into memory: an HBM address, or 2^56 + a vault address; none while it waits for a walk -/
  pa   : Option Nat
  leaf : Nat
  len  : Nat
  /-- bytes and bit mask per byte of a store; none for a load -/
  data : Option (List Byte × List Byte)
  /-- earliest fc at which the access can be performed -/
  due  : Nat
  /-- tile-task attribution: region and index (R312) -/
  tt   : Option (Nat × Nat)
  /-- the memory node, for order inside it (R262) -/
  node : Nat
  /-- the issuing unit's interval number (R396, R398) -/
  ival : Nat
  /-- an owner performs it (R236) -/
  own : Bool
  /-- its walk runs; the die's walker runs at most 64 (R219) -/
  walking : Bool
  deriving DecidableEq, Repr

/-- What an outstanding instruction writes when it writes back. -/
structure Writes where
  a : List (Nat × Word)
  v : List (Nat × Vec)
  p : List (Nat × Bool)
  out : List (Nat × Tok)
  /-- control out ports that get a pulse (R117) -/
  sig : List Nat
  deriving DecidableEq, Repr

/-- No write at all. -/
def Writes.none : Writes := ⟨[], [], [], [], []⟩

/-- A shape record's header as captured (R167, R172). -/
structure ShapeHdr where
  ty : Nat
  strict : Bool
  width : Nat
  pitch : Nat
  rows : Nat
  segs : Nat
  pln : Nat
  deriving DecidableEq, Repr

/-- A register, predicate or latch that an instruction holds as outstanding (R16 condition 5, R20, R171, R178). -/
inductive Res where
  | a (n : Nat) | v (n : Nat) | p (n : Nat) | out (n : Nat) | sig (n : Nat) | z (n : Nat) | s (n : Nat)
  deriving DecidableEq, Repr

/-- A fired instruction that has not written back (R20, R243, R403). -/
structure Flight where
  fid : Nat
  who : Who
  word : Word
  born : Nat
  /-- the fc at whose end it writes back, once its results are known (R20) -/
  due : Option Nat
  /-- resources it writes -/
  holds : List Res
  /-- shape or tile registers it still reads (R171) -/
  reads : List Res
  wr : Writes
  /-- operands captured at firing: D, A and B as scalars and as vectors -/
  sd : Word
  sa : Word
  sb : Word
  vd : Vec
  va : Vec
  vb : Vec
  /-- the tag its result carries (R14) -/
  tag : Nat
  cap : Option (ShapeHdr × Nat × Nat × List Nat)
  asid : Nat
  ptn : Nat
  tt : Option (Nat × Nat)
  /-- the unit's interval number when it fired (R396) -/
  ival : Nat
  /-- its accesses, in the order they are issued (R242), and the port they are issued at (R241) -/
  plan : List Part
  port : Port
  /-- parts of memory read so far, by part number -/
  got : List (Nat × List Byte)
  /-- parts still outstanding -/
  left : Nat
  /-- progress of an instruction performed in several stages -/
  stage : Nat
  /-- earliest fc of the next stage -/
  after : Nat
  /-- other numbers an instruction keeps: old generation, tickets, rows emitted, commands waited for -/
  aux : List Nat
  /-- a token waiting for its latch (R248) -/
  emit : List Tok
  /-- accepted, for a teller's memory word (R419) -/
  accepted : Bool
  /-- a fault found when performed, for a teller's late trap: cause, detail, operand (R419) -/
  late : Option (Nat × Nat × Nat)
  deriving DecidableEq, Repr

/-! ## Memory elements -/

/-- A transform (R226): kind, packed width, c0, t0, c1, t1 and the copy engines' two formats (R371). -/
structure Xf where
  kind : Nat
  w : Nat
  c0 : Nat
  t0 : Nat
  c1 : Nat
  t1 : Nat
  sf : Nat
  df : Nat
  deriving DecidableEq, Repr

/-- A stream descriptor (R220). -/
structure SDesc where
  base : Nat
  shape : Nat
  xlen : Nat
  rows : Nat
  width : Nat
  pitch : Nat
  sfmt : Nat
  efmt : Nat
  boff : Nat
  tile : Nat
  flags : Nat
  endp : Nat
  deriving DecidableEq, Repr

/-- Where a stream stands: its next row, the tiles it has closed (R312), the row at which it goes on after a tile delivered
again (R317), and whether the header of the tile at hand has been sent; for a
store stream, whether it has taken EOS. -/
structure Cursor where
  row : Nat
  pos : Nat
  back : Option Nat
  hdr : Bool
  deriving DecidableEq, Repr

/-- An ME stream (R219-R228, R418). -/
structure Stream where
  desc : SDesc
  valid : Bool
  /-- header captured from the shape record (R418), and while it is being read the parts of it asked for -/
  cap : Option ShapeHdr
  hdrAt : Option Nat
  /-- boundary entries read in this pass, from entry 0, and while a window is being read the parts of it asked for (R418) -/
  win : List Nat
  winAt : Option Nat
  /-- parts read for the stream's own use and not yet taken: kind, part, bytes; none of a poisoned block (R227, R418) -/
  recs : List (Nat × Nat × List Byte)
  /-- DECODE: the next block of the string to ask for (R227) -/
  strAt : Nat
  /-- next row to deliver or to write, and next row to read (R223, R224) -/
  cur : Cursor
  ask : Cursor
  /-- rows requested so far; rows requested and not delivered: number, bytes by part, VA of a poisoned block -/
  seq : Nat
  buf : List (Nat × List (Nat × List Byte) × Option Nat)
  /-- accesses waiting for the port queue: tile count, row number, part number, access -/
  todo : List (Nat × Nat × Nat × Part)
  /-- DECODE: the delivered bytes, decoded length and case (R227, R228) -/
  dec : Option (List Byte × Nat × Nat)
  /-- stores not yet performed -/
  busy : Nat
  /-- the closing token has been delivered or taken -/
  eos : Bool
  /-- a sink of the armed region, and it has reported (R269) -/
  sink : Bool
  reported : Bool
  drained : Bool
  drainDue : Bool
  withheld : Bool
  /-- pattern counters (R226): they stand at their restart whenever no row is partly processed -/
  pat : Nat × Nat
  tlb : Option Tlb
  /-- event counts by tile, not yet told (R90) -/
  cnts : List (Nat × List Nat)
  /-- rows since the last SNAP, a SNAP owed, interval, and shadows: interval, cursor and counts (R396, R397) -/
  snapCnt : Nat
  snapDue : Bool
  ival : Nat
  shadows : List (Nat × Cursor × List (Nat × List Nat))
  deriving DecidableEq, Repr

/-- An update token for an owner node (R234, R255). -/
structure Upd where
  uid : Nat
  /-- issuing instruction and lane -/
  fid : Nat
  lane : Nat
  port : Nat
  /-- OPC and FN of the operation, TY -/
  op : Nat
  fn : Nat
  ty : Nat
  pa : Nat
  val : Word
  cmp : Word
  /-- arrival at the owner -/
  due : Nat
  back : Nat
  /-- its name among arrivals, given as it enters the owner's queue (R234, R252) -/
  arr : Nat
  deriving DecidableEq, Repr

/-- A memory element (R219-R237, R398). -/
structure Me where
  present : Bool
  streams : List Stream
  tlb : Option Tlb
  rd : Xf
  wr : Xf
  /-- owner range: base, length, enabled, armed (R233) -/
  ownBase : Nat
  ownLen : Nat
  ownOn : Bool
  armed : Bool
  ownq : List Upd
  /-- updates whose access is under way, oldest first, and the fc after the last one applied (R234) -/
  ownRun : List Upd
  ownFc : Nat
  /-- undo log, newest first: interval, fc, address, old 64-byte unit (R398) -/
  undo : List (Nat × Nat × Nat × List Byte)
  drained : Bool
  withheld : Bool
  ival : Nat
  /-- tiles whose counts have been emitted; events of updates at its owner since (R90) -/
  told : Nat
  cnts : List Nat
  deriving DecidableEq, Repr

/-! ## Matrix array, shapes and shift-add fabric -/

/-- A tile register's descriptor as its tenant sees it (R186). -/
structure ZDesc where
  ty : Nat
  pln : Nat
  rows : Nat
  cols : Nat
  ct : Nat
  deriving DecidableEq, Repr

/-- A queue entry of a tenant: its QSEQ, the outstanding instruction, and when it was queued (R179). -/
structure ZEnt where
  seq : Nat
  fid : Nat
  after : Nat
  deriving DecidableEq, Repr

/-- An `MMA` or `ZLD` in progress at the sequencer (R180, R181, R196). -/
structure ZRun where
  fid : Nat
  /-- header fields taken, if it has been -/
  hdr : Option Tok
  /-- rows received so far -/
  rows : List Vec
  /-- all rows received: tag of the closing token -/
  ct : Option Nat
  /-- engine steps done and in all -/
  step : Nat
  steps : Nat
  /-- accumulators: rows x columns of the destination, as patterns -/
  acc : List Word
  /-- stop asked for at the next stated step (R181, R183) -/
  stop : Bool
  deriving DecidableEq, Repr

/-- A tenant's shadow: its registers, weights and queue, with the `MMA` in progress, as they stood at a SNAP (R397). -/
structure TenShadow where
  ival : Nat
  desc : List ZDesc
  cells : List Word
  wts : List Word
  fmt : Option (Nat × Nat)
  left : Option Nat
  q : List ZEnt
  tiles : Nat
  flights : List Flight
  run : Option ZRun
  told : Nat
  cnts : List Nat
  deriving DecidableEq, Repr

/-- A tenant of the matrix array (R177-R185). -/
structure Tenant where
  drv : Option (Nat × Nat)
  desc : List ZDesc
  fmt : Option (Nat × Nat)
  left : Option Nat
  q : List ZEnt
  qseq : Nat
  last : Nat
  run : Option ZRun
  /-- STEPS, MMAS, WAITACT, WAITOTH, FAULTS (R184) -/
  ctr : List Nat
  withheld : Bool
  ival : Nat
  cnts : List Nat
  tiles : Nat
  told : Nat
  /-- shadows, the newest last (R397) -/
  shadows : List TenShadow
  /-- flush asked for (R183) -/
  flush : Bool
  /-- the fc after its last engine step: of two tenants with work the one that stepped earlier goes (R182) -/
  stepAt : Nat
  deriving DecidableEq, Repr

/-- The matrix array of a page (R6, R178). -/
structure Mtx where
  r0 : Nat
  /-- z0-z7, 256 cells each, row-major -/
  cells : List Word
  wts : List Word
  tens : List Tenant
  deriving DecidableEq, Repr

/-- A window refill on its way: window number, the instruction that needs it (the slot that stalls, or an outstanding one)
with its tile-task, the 64-byte reads asked for, the earliest fc of the next, and the parts that have arrived (R170). -/
structure Refill where
  win : Nat
  who : Who
  word : Word
  fid : Option Nat
  tt : Option (Nat × Nat)
  asked : Nat
  next : Nat
  got : List (Nat × List Byte)
  deriving DecidableEq, Repr

/-- A write-through owed to a record in memory: address, size, value, the fc from which it may be performed, its name,
before which every store of the page goes first, the `SHSET` that made it, and whether it is in the port queue (R173). -/
structure Through where
  va : Nat
  size : Nat
  val : Nat
  due : Nat
  name : Nat
  by_ : Flight
  sent : Bool
  deriving DecidableEq, Repr

/-- A shape cache entry (R169). -/
structure Shape where
  bound : Bool
  addr : Nat
  hdr : ShapeHdr
  win : Nat
  bnd : List Nat
  refill : Option Refill
  /-- entries a waiting instruction has read from a window already replaced: agent, outstanding instruction, index, value -/
  stash : List (Who × Option Nat × Nat × Nat)
  through : List Through
  deriving DecidableEq, Repr

/-- A resident adder graph (R342-R351). -/
structure Graph where
  handle : Nat
  first : Nat
  words : List Word
  /-- binding bytes of the 16 in and 16 out lanes (R347) -/
  inb : List Nat
  outb : List Nat
  bound : Bool
  /-- pipeline: the token leaving, and the fc at whose end it leaves (R349) -/
  pipe : List (Tok × Nat)
  withheld : Bool
  unloading : Bool
  ival : Nat
  drained : Bool
  /-- tiles closed, and event counts by tile, not yet told (R90) -/
  tiles : Nat
  cnts : List (Nat × List Nat)
  /-- both as they stood at the SNAPs passed: interval, tiles, counts -/
  marks : List (Nat × Nat × List (Nat × List Nat))
  deriving DecidableEq, Repr

/-- The shift-add fabric of a page. -/
structure Saf where
  graphs : List Graph
  vals : List Word
  told : Nat
  deriving DecidableEq, Repr

/-! ## Pages -/

/-- The counts a page's merge tree has gathered for a tile (R90): its place among the tiles issued, the classes 1-5 by unit,
and whether its record has been written. -/
structure TileStat where
  pos : Nat
  parts : List (Nat × List Nat)
  written : Bool
  deriving DecidableEq, Repr

/-- Statistics configuration of a page and the counts gathered by tile (R90, R385). -/
structure Stat where
  mask : Nat
  endp : Nat
  base : Nat
  nrec : Nat
  tiles : List TileStat
  deriving DecidableEq, Repr

/-- A page in a frame (R6, R7, R68-R75). -/
structure Page where
  kind : Nat
  pidx : Nat
  rg : Nat
  ptn : Nat
  asid : Nat
  det : Bool
  rollback : Bool
  /-- the configuration part of the image as loaded, bytes 0x0000-0x7FFF -/
  img : List Byte
  pes : List Pe
  mes : List Me
  mtx : Mtx
  shapes : List Shape
  saf : Saf
  routes : List Route
  snapEvery : Nat
  snapMask : Nat
  stat : Option Stat
  drained : Bool
  deriving DecidableEq, Repr

/-! ## Regions, tile-tasks and tasks -/

/-- States of an ordered tile-task (R315). -/
inductive TtState where
  | issued | sealed | doomed | stalled | writethru | committed | cancelled
  deriving DecidableEq, Repr

/-- An escrow line: block address, byte mask, bytes, snapshot interval (R313). -/
structure EscLine where
  pa : Nat
  mask : List Bool
  bytes : List Byte
  ival : Nat
  deriving DecidableEq, Repr

/-- A live tile-task (R311-R315). -/
structure TileTask where
  ix : Nat
  st : TtState
  lines : List EscLine
  /-- 2,048-bit read signature (R314) -/
  sig : Nat
  runs : Nat
  /-- the largest interval number of the region's units when it sealed (R320) -/
  close : Nat
  deriving DecidableEq, Repr

/-- What a region is doing. -/
inductive RgState where
  | loading | armed | stopping | frozen | done
  deriving DecidableEq, Repr

/-- A `TCNT` operation on its way to the region controller (R260). -/
structure TcOp where
  fid : Nat
  after : Nat
  deriving DecidableEq, Repr

/-- A region edge (R76). -/
structure Edge where
  num : Nat
  sp : Nat
  se : Nat
  dp : Nat
  de : Nat
  net : Nat
  ty : Nat
  pln : Nat
  init : Nat
  deriving DecidableEq, Repr

/-- An instance of a region running for a task. -/
structure Region where
  key : Nat
  die : Nat
  ptn : Nat
  lseq : Nat
  inst : Nat
  st : RgState
  desc : Nat
  det : Bool
  rollback : Bool
  edges : List Edge
  /-- page images: address, PKIND, partner (R76) -/
  imgs : List (Nat × Nat × Nat)
  /-- where each page is; none while it is not resident -/
  pages : List (Option Nat)
  loaded : Nat
  asid : Nat
  ts : Nat
  ordered : Bool
  lo : Nat
  hi : Nat
  /-- next tile to issue, tiles issued, tile-tasks live or queued for re-run -/
  next : Nat
  issued : List Nat
  tts : List TileTask
  rerun : List Nat
  escCap : Nat
  completed : Nat
  drain : Bool
  quiet : Nat
  /-- in this fc a slot has fired or a token or pulse has moved (R273) -/
  stirred : Bool
  swept : Bool
  fl : List Word
  tcq : List TcOp
  cut : Nat
  cutBad : Bool
  /-- pre-emption: fc it began and the instruction waiting for it (R400, R401) -/
  stopAt : Nat
  stopBy : Option Nat
  watchdog : Nat
  /-- outcome of the last quiet decision: 0 none, 1 stall, 2 drain stall; 3 frozen by the watchdog -/
  decided : Nat
  /-- persistent range (R332) -/
  persist : Bool
  cur : Nat
  lim : Nat
  /-- `RANGE` words and steal requests at this instance's controller, in arrival order: instruction and the instance that
  asks -/
  stealq : List (Nat × Nat)
  finished : Bool
  /-- kernel graph walk (R185): address, index, ended, faulted -/
  armAddr : Nat
  armIx : Nat
  armEnd : Bool
  armBad : Bool
  /-- the region withholds as a whole (R395 LINK) -/
  withheld : Bool
  deriving DecidableEq, Repr

/-- A task record (R325). -/
structure TaskRec where
  region : Nat
  graph : Nat
  ts : Nat
  lo : Nat
  hi : Nat
  asid : Nat
  prio : Nat
  persist : Bool
  backfill : Bool
  seq : Bool
  cgroup : Nat
  esc : Nat
  ndep : Nat
  copies : Nat
  deps : Nat
  deriving DecidableEq, Repr

/-- States of a task. -/
inductive TaskState where
  | queued | running | preempted | ended
  deriving DecidableEq, Repr

/-- A launched task (R325-R341). -/
structure Task where
  ptn : Nat
  lseq : Nat
  die : Nat
  /-- its record's address, the ASID that address is in, and the ASID its own addresses use (R325) -/
  addr : Nat
  recAsid : Nat
  asid : Nat
  issuer : Who
  /-- the launch queue it entered (R361) -/
  queue : Nat
  /-- statistics configurations by page index (R385) -/
  stats : List (Nat × Stat)
  trec : TaskRec
  st : TaskState
  /-- region keys of its instances -/
  rgs : List Nat
  /-- sequence: step addresses, running step, executions completed, request pending -/
  steps : List Nat
  step : Nat
  execs : Nat
  pending : Option Nat
  /-- frame half-keys by instance and page index (R331) -/
  frames : List Nat
  /-- shadow fill: step, pages filled, fc at which the page in hand is filled (R335) -/
  fill : Option (Nat × Nat × Nat)
  tiles : Nat
  status : Nat
  cancelled : Bool
  faulted : Bool
  /-- completion store made, record to post (R253, R272) -/
  owesRec : Bool
  deriving DecidableEq, Repr

/-! ## Tellers -/

/-- A teller context (R24-R26, R389, R390, R422). -/
structure TCtx where
  pc : Word
  a : List Word
  v : List Vec
  p : List Tri
  run : Bool
  tvec : Word
  epc : Word
  cause : Word
  tval : Word
  fpc : Word
  tstat : Word
  /-- buffered lines: line address and 64 bytes (R422) -/
  buf : List (Nat × List Byte)
  /-- line requests under way -/
  fetch : List Nat
  /-- lines whose fetch found a fault: line, cause, operand -/
  bad : List (Nat × Nat × Nat)
  /-- last word issued from this line -/
  line : Nat
  asidSel : Nat
  asidLo : Word
  asid : Nat
  ptn : Option Nat
  /-- words left of a record part-read at `in0` and `in1` (R26) -/
  rec0 : List Word
  rec1 : List Word
  /-- words delivered at `in3` from the slot at this HEAD of the partition's till (R26, R251; log 15) -/
  tillHead : Nat
  tillPos : Nat
  /-- the `out3` latch: reserved, and word held (R26, R409) -/
  out3 : Option Word
  out3rsv : Bool
  /-- earliest fc of the next issue (R131, R419) -/
  after : Nat
  /-- the memory word not yet accepted (R419) -/
  wait : Option Nat
  groups : List GMem
  deriving DecidableEq, Repr

/-- A teller (R24). -/
structure Teller where
  ctxs : List TCtx
  arb : Nat
  tlb : List Tlb
  deriving DecidableEq, Repr

/-! ## Fabric dies -/

/-- A group table entry (R256). -/
structure Grp where
  owner : Option Nat
  members : Nat
  arr : List Nat
  gen : List Nat
  /-- operations on their way or waiting, in arrival order: instruction, arrival fc -/
  q : List (Nat × Nat)
  deriving DecidableEq, Repr

/-- A bank token: the holding page, or the tag it was given (R254). -/
inductive BankTok where
  | held (pg : Nat)
  | free (tag : Nat)
  deriving DecidableEq, Repr

/-- A queued engine command (R367). -/
structure Cmd where
  qseq : Nat
  record : List Byte
  who : Who
  asid : Nat
  ptn : Nat
  fn : Nat
  tt : Option (Nat × Nat)
  /-- the issuing unit's interval number (R313) -/
  ival : Nat
  deriving DecidableEq, Repr

/-- A copy engine or near-memory queue (R367-R374). -/
structure Eng where
  ptn : Option Nat
  q : List Cmd
  qseq : Nat
  last : Nat
  /-- progress of the running command: row or block, blocks failed, first failed address, fault -/
  pos : Nat
  nfail : Nat
  first : Nat
  /-- the translations a near-memory command made when it started (R373) -/
  maps : List (Nat × Nat)
  /-- earliest fc of the next part -/
  after : Nat
  /-- a completion held back: destination die and record (R253) -/
  held : Option (Nat × List Byte)
  cmds : Nat
  bytes : Nat
  deriving DecidableEq, Repr

/-- A record in a launch queue: the task and the fc since which it has been head (R327, R329). -/
structure LqEnt where
  ptn : Nat
  lseq : Nat
  since : Nat
  /-- complete periods as head without starting (R329) -/
  aged : Nat
  deriving DecidableEq, Repr

/-- A fault record (R394) with the partition it is for; level firm records have none; and the fc it was raised in (R393). -/
structure FRec where
  bytes : List Byte
  ptn : Nat
  born : Nat
  deriving DecidableEq, Repr

/-- An operation queued at a die's assay unit (R294). -/
structure Assay where
  fid : Nat
  after : Nat
  deriving DecidableEq, Repr

/-- The per-die tables and units; index 8 is the anchor, of which only the mailbox is used. -/
structure Die where
  /-- ASID table entries as translations see them, and as last written (R211, R390) -/
  asids : List (Nat × BitVec 128)
  asidsNew : List (Nat × BitVec 128)
  groups : List (Nat × Grp)
  banks : List (Nat × BankTok)
  bankRR : List (Nat × Nat)
  /-- the fc after each bank's last access (R218) -/
  bankAt : List (Nat × Nat)
  mbx : List FRec
  mbxOvf : Word
  lost : Bool
  corr : List Nat
  lqBind : List Word
  lq : List (List LqEnt)
  rr : Nat
  engs : List Eng
  nmq : List (Nat × Eng)
  /-- event queues by partition, and the fc of each one's last append and last removal, plus one (R253) -/
  evq : List (Nat × List (List Byte))
  evIn : List (Nat × Nat)
  evOut : List (Nat × Nat)
  ptill : List (Nat × Word)
  watchdog : Nat
  mhz : Nat
  assay : List Assay
  /-- the mint's page in hand: region, page index, whether it fills a shadow bank, and the fc at whose end it is written
  (R335) -/
  mint : Option (Nat × Nat × Bool × Nat)
  /-- the links between neighbouring routers, 4 · frame + direction, with the fc from which each is free (R340) -/
  noc : List (Nat × Nat)
  deriving DecidableEq, Repr

/-! ## Links, partitions and the host -/

/-- A lane group: its direction, whether it turns, the fc its last turn began, and the fc at which that turn ends, 40 ns
after its last flit, whose moment is open (R376, R377; log 4). -/
structure LGroup where
  up : Bool
  turning : Bool
  began : Option Nat
  ends : Nat
  deriving DecidableEq, Repr

/-- A die-to-die link (R375-R378). -/
structure Link where
  u : Nat
  groups : List LGroup
  fifo : List (Nat × Nat)
  /-- the request being applied: partition, target, groups chosen -/
  cur : Option (Nat × Nat × List Nat)
  hold : Option (Nat × Nat)
  turned : Nat
  refused : Nat
  holdFc : Nat
  /-- 64-byte flits taken: by whether they go up, and fc, how many (R375) -/
  taken : List (Bool × Nat × Nat)
  deriving DecidableEq, Repr

/-- A partition (R406-R415). -/
structure Ptn where
  live : Bool
  res : PtnRes
  mbx : List Word
  mbxErr : Bool
  notify : List Word
  notVec : Nat
  /-- MSI-X vectors raised and not yet taken by the host -/
  msix : List Nat
  lseq : Nat
  floor : Nat
  /-- RNG keys by id, region hashes of the signed manifest (R77, R163, R328) -/
  keys : List (Nat × List Byte)
  hashes : List (List Byte)
  man : List Byte
  /-- counter sets opened by the tenant's policy (R415) -/
  debug : Nat
  tdi : Tdi
  /-- a hypervisor pre-emption (R405): 0 none, 1 its regions are stopping, 2 saved -/
  held : Nat
  /-- what the strongroom keeps of it: teller contexts (teller * 4 + context), their outstanding instructions and requests,
  and the places of the saved pages among the saves -/
  parked : List (Nat × TCtx)
  parkedFlights : List Flight
  parkedReqs : List Req
  parkedSaves : List Nat
  deriving DecidableEq, Repr

/-- A partition as it is created (R410, R415): nothing in its mailbox and FIFO, debug closed, its TDI unlocked. -/
def Ptn.fresh (res : PtnRes) : Ptn where
  live := true
  res := res
  mbx := []
  mbxErr := false
  notify := []
  notVec := 0
  msix := []
  lseq := 0
  floor := 0
  keys := []
  hashes := []
  man := []
  debug := 0
  tdi := .unlocked
  held := 0
  parked := []
  parkedFlights := []
  parkedReqs := []
  parkedSaves := []

/-- A packet between routers (R340, R421). -/
structure Packet where
  pk : Nat
  pg : Nat
  rt : Nat
  toks : List Tok
  due : Nat
  deriving DecidableEq, Repr

/-- A message on its way to a till (R231, R372): the die whose tables translate, the descriptor's address, the payload, the
reservation it carries, none for the till's oldest one, and the source code, which the spec leaves open (log 4). -/
structure Msg where
  mid : Nat
  die : Nat
  ptn : Nat
  asid : Nat
  till : Nat
  bytes : List Byte
  res : Option Nat
  src : Nat
  /-- the producer, whose messages keep their order (R231): an engine of a die, or 2^8 and a span port -/
  by_ : Nat
  due : Nat
  deriving DecidableEq, Repr

/-- What the device answers to the outside: a kind, a partition, bytes and a poison indication (R240, R408, R415). -/
structure HostOut where
  kind : Nat
  ptn : Nat
  bytes : List Byte
  poison : Bool
  deriving DecidableEq, Repr

/-- A page saved by `SYS.PGSV`, kept so that a restore of the same bytes resumes exactly (R402, R403; log 20). -/
structure SaveImg where
  bytes : List Byte
  page : Page
  flights : List Flight
  reqs : List Req
  rg : Nat
  deriving DecidableEq, Repr

/-- Bring-up (R408, R416). -/
structure Bring where
  ready : List Bool
  anchor : Bool
  package : Bool
  early : Bool
  /-- the strongroom's verification of every firmware image succeeded (log 6) -/
  fwOk : Bool
  deriving DecidableEq, Repr

/-! ## The device -/

/-- The whole device. -/
structure State where
  /-- FCOUNT: fabric cycles since reset (R390) -/
  fc : Nat
  /-- steps still to come in this fc (log 2) -/
  agenda : List Instr
  /-- outside events not yet arrived, with their fc (log 2) -/
  inputs : List (Nat × Instr)
  /-- the word an arbiter or a teller has just chosen (log 3) -/
  issue : Option (Who × Word)
  /-- fresh-value counter (log 4) -/
  free : Nat
  /-- fresh names of instructions, requests, updates, messages, packets (log 4) -/
  ids : Nat
  /-- HBM and vault bytes, canonical (log 5); a vault address has 2^56 added -/
  mem : List Host.Cell
  /-- poisoned 64-byte blocks, by memory address / 64, rising (R239) -/
  poison : List Nat
  /-- codes of HBM blocks that are not raw: block address / 64 and code (R229) -/
  codes : List (Nat × Nat)
  /-- 64-byte blocks each HBM stack has moved in this fc (R1) -/
  hbmUse : List (Nat × Nat)
  bring : Bring
  flights : List Flight
  reqs : List Req
  pages : List (Nat × Page)
  shadows : List (Nat × Page)
  regions : List (Nat × Region)
  tasks : List Task
  tellers : List Teller
  dies : List Die
  links : List Link
  ptns : List (Nat × Ptn)
  upds : List Upd
  packets : List Packet
  msgs : List Msg
  /-- reservations outstanding on a till, oldest first, by the descriptor's key in memory (R232) -/
  permits : List (Nat × List Nat)
  /-- permit requests of peers waiting at a till (R252): name, span port, partition, descriptor address, slots -/
  peerq : List (Nat × Nat × Nat × Nat × Nat)
  /-- messages sent through span ports: port, partition, till, bytes, and the poison indication (R240, R379) -/
  spanOut : List (Nat × Nat × Nat × List Byte × Bool)
  /-- when each span port has sent what it was given, in 1/11,200 fc (R1, R379) -/
  spanUse : List (Nat × Nat)
  hostOut : List HostOut
  /-- the hypervisor's request ring to the strongroom, oldest first (R408) -/
  pfcmd : List (List Word)
  saves : List SaveImg
  deriving DecidableEq, Repr

/-! ## Reset -/

/-- A teller context at reset: halted, every register zero (log 7). -/
def TCtx.reset : TCtx where
  pc := 0
  a := List.replicate 14 0
  v := List.replicate 4 0
  p := List.replicate 8 .ff
  run := false
  tvec := 0
  epc := 0
  cause := 0
  tval := 0
  fpc := 0
  tstat := 0
  buf := []
  fetch := []
  bad := []
  line := 0
  asidSel := 0
  asidLo := 0
  asid := 0
  ptn := none
  rec0 := []
  rec1 := []
  tillHead := 0
  tillPos := 0
  out3 := none
  out3rsv := false
  after := 0
  wait := none
  groups := []

/-- A teller at reset: the rotation starts at context 0 (R9's pointer value; log 7). -/
def Teller.reset : Teller := ⟨List.replicate 4 TCtx.reset, 3, []⟩

/-- An engine with nothing queued. -/
def Eng.idle : Eng := ⟨none, [], 0, 0, 0, 0, 0, [], 0, none, 0, 0⟩

/-- A die at reset (log 8). -/
def Die.reset : Die where
  asids := []
  asidsNew := []
  groups := []
  banks := []
  bankRR := []
  bankAt := []
  mbx := []
  mbxOvf := 0
  lost := false
  corr := List.replicate 3 0
  lqBind := List.replicate 16 0
  lq := List.replicate 16 []
  rr := 0
  engs := List.replicate 3 Eng.idle
  nmq := []
  evq := []
  evIn := []
  evOut := []
  ptill := []
  watchdog := 94000
  mhz := 940
  assay := []
  mint := none
  noc := []

/-- A link at reset: u is 8 and groups 0 to 7 carry up traffic (R376). -/
def Link.reset : Link where
  u := 8
  groups := tab 16 fun g => ⟨decide (g < 8), false, none, 0⟩
  fifo := []
  cur := none
  hold := none
  turned := 0
  refused := 0
  holdFc := 0
  taken := []

/-- The device right after reset. -/
def State.reset : State where
  fc := 0
  agenda := []
  inputs := []
  issue := none
  free := 0
  ids := 0
  mem := []
  poison := []
  codes := []
  hbmUse := []
  bring := ⟨List.replicate 8 false, false, false, false, true⟩
  flights := []
  reqs := []
  pages := []
  shadows := []
  regions := []
  tasks := []
  tellers := List.replicate 18 Teller.reset
  dies := List.replicate 9 Die.reset
  links := List.replicate 12 Link.reset
  ptns := []
  upds := []
  packets := []
  msgs := []
  permits := []
  peerq := []
  spanOut := []
  spanUse := []
  hostOut := []
  pfcmd := []
  saves := []

end Sys2Proof.Machine
end

