-- ==== Sys2Proof/Machine/Ops.lean ====
section
/-!
DEFINITION. The named operations over the state: keyed lists, memory and poison, pages and their parts, routes, tokens,
outstanding instructions, fault records, and taking a trap or withholding with the return from it.
-/

namespace Sys2Proof.Machine

/-- What every meaning answers. -/
abbrev Out := Host.Outcome State Fault Refusal

/-! ## Keyed lists -/

/-- The value at a key. -/
def alGet {α : Type} (k : Nat) : List (Nat × α) → Option α
  | [] => none
  | (j, v) :: l => if j = k then some v else alGet k l

/-- The list with a key's value replaced, or the pair added at the end. -/
def alSet {α : Type} (k : Nat) (v : α) : List (Nat × α) → List (Nat × α)
  | [] => [(k, v)]
  | (j, w) :: l => if j = k then (j, v) :: l else (j, w) :: alSet k v l

/-- The list with a key's value mapped, if it is there. -/
def alMod {α : Type} (k : Nat) (f : α → α) : List (Nat × α) → List (Nat × α)
  | [] => []
  | (j, w) :: l => if j = k then (j, f w) :: l else (j, w) :: alMod k f l

/-- The list without a key. -/
def alDel {α : Type} (k : Nat) (l : List (Nat × α)) : List (Nat × α) := l.filter fun p => p.1 != k

/-! ## Memory

A cell's key is an HBM physical address (R215), or 2^56 plus a vault physical address (R216). An unlisted cell reads
zero (R416 step 4 for HBM; log 5 for vaults). -/

/-- Where vault addresses begin among the keys of memory. -/
def vaultKey : Nat := 2 ^ 56

/-- The byte at a key. -/
def memGet (k : Nat) : List Host.Cell → Byte
  | [] => 0
  | (j, b) :: l => if j = k then b else memGet k l

/-- Memory with one byte written, in canonical form: keys rising, zero bytes unlisted. -/
def memPut (k : Nat) (b : Byte) : List Host.Cell → List Host.Cell
  | [] => if b = 0 then [] else [(k, b)]
  | (j, c) :: l =>
    if j < k then (j, c) :: memPut k b l
    else if j = k then (if b = 0 then l else (j, b) :: l)
    else if b = 0 then (j, c) :: l else (k, b) :: (j, c) :: l

/-- Bytes at consecutive keys. -/
def memRead (m : List Host.Cell) (k n : Nat) : List Byte := tab n fun i => memGet (k + i) m

/-- Memory with bytes written at consecutive keys. -/
def memWrite (m : List Host.Cell) (k : Nat) : List Byte → List Host.Cell
  | [] => m
  | b :: bs => memWrite (memPut k b m) (k + 1) bs

/-- Every key of a list is at least k and its byte is not zero, and keys rise. -/
def memOrdered (k : Nat) : List Host.Cell → Bool
  | [] => true
  | (j, b) :: l => decide (k ≤ j) && (b != 0) && memOrdered (j + 1) l

/-- The canonical form of memory. -/
def Memory.wf (m : List Host.Cell) : Bool := memOrdered 0 m

/-- A little-endian number from bytes (R221, R241). -/
def leNat : List Byte → Nat
  | [] => 0
  | b :: bs => b.toNat + 256 * leNat bs

/-- The n low bytes of a number, little-endian. -/
def leBytes (n x : Nat) : List Byte := tab n fun i => BitVec.ofNat 8 (x / 256 ^ i)

/-- A little-endian number read from memory. -/
def memNat (m : List Host.Cell) (k n : Nat) : Nat := leNat (memRead m k n)

/-- A field of a record held as bytes. -/
def recNat (bs : List Byte) (off n : Nat) : Nat := leNat ((bs.drop off).take n)

/-- Bytes with the bytes at an offset replaced. -/
def putBytes (bs : List Byte) (off : Nat) (new : List Byte) : List Byte :=
  bs.take off ++ new ++ bs.drop (off + new.length)

/-- The bytes of a vector and back (R35: lane 0 lowest). -/
def vecBytes (v : Vec) : List Byte := leBytes 64 v.toNat

/-- A vector from bytes, missing bytes zero. -/
def bytesVec (bs : List Byte) : Vec := BitVec.ofNat 512 (leNat (bs.take 64))

/-! ## Poison (R239) -/

/-- A rising list with a number added. -/
def addSorted (x : Nat) : List Nat → List Nat
  | [] => [x]
  | y :: l => if y < x then y :: addSorted x l else if y = x then y :: l else x :: y :: l

/-- The block holding a key is poisoned. -/
def State.poisoned (s : State) (k : Nat) : Bool := s.poison.contains (k / 64)

/-- The first poisoned block of a range, as its key. -/
def State.poisonIn (s : State) (k n : Nat) : Option Nat :=
  ((tab ((k + n + 63) / 64 - k / 64) fun i => k / 64 + i).find? fun b => s.poison.contains b).map (· * 64)

/-- The code of a 64-byte block: 1 zero, 2 one 8-byte word repeated, 3 upper half zero, 0 raw (R229). -/
def blockCode (bs : List Byte) : Nat :=
  if bs.all (· == 0) then 1
  else if (List.range 64).all fun i => bs.getD i 0 == bs.getD (i % 8) 0 then 2
  else if (bs.drop 32).all (· == 0) then 3 else 0

/-- Codes with one block's replaced; raw blocks, and blocks nothing has written, are not listed. -/
def setCode (b c : Nat) (l : List (Nat × Nat)) : List (Nat × Nat) :=
  let l := alDel b l
  if c = 0 then l else (l.filter fun x => decide (x.1 < b)) ++ [(b, c)] ++ l.filter fun x => decide (b < x.1)

/-- The codes after bytes have been written into memory `m` at a key. -/
def recode (m : List Host.Cell) (k : Nat) (bs : List Byte) (l : List (Nat × Nat)) : List (Nat × Nat) :=
  (List.range ((k + bs.length + 63) / 64 - k / 64)).foldl (fun l i =>
    let b := k / 64 + i
    let new := if k ≤ 64 * b ∧ 64 * b + 64 ≤ k + bs.length then (bs.drop (64 * b - k)).take 64 else memRead m (64 * b) 64
    setCode b (blockCode new) l) l

/-- Bytes written to memory; a block written whole loses its poison, and the code of an HBM block follows its contents; the
code means something on a page with CMP alone (R229; log 128). -/
def State.store (s : State) (k : Nat) (bs : List Byte) : State :=
  let first := (k + 63) / 64
  let last := (k + bs.length) / 64
  let m := memWrite s.mem k bs
  { s with mem := m, poison := s.poison.filter fun b => !(decide (first ≤ b) && decide (b < last))
           codes := if k < vaultKey then recode m k bs s.codes else s.codes }

/-- A masked store of bytes: those with a clear mask bit keep their old value. -/
def State.storeMasked (s : State) (k : Nat) (mask : List Bool) (bs : List Byte) : State :=
  let old := memRead s.mem k bs.length
  s.store k (tab bs.length fun i => if mask.getD i false then bs.getD i 0 else old.getD i 0)

/-! ## Fresh values -/

/-- A fresh open number (log 4). -/
def State.fresh (s : State) : Nat × State := (Config.freeNat s.free, { s with free := s.free + 1 })

/-- A fresh name. -/
def State.newId (s : State) : Nat × State := (s.ids, { s with ids := s.ids + 1 })

/-! ## Parts of the state -/

/-- The die of a page key. -/
def dieOfPage (pg : Nat) : Nat := pg / 512

/-- The frame of a page key. -/
def frameOfPage (pg : Nat) : Nat := pg / 2 % 256

/-- The die of a teller; 8 is the anchor. -/
def dieOfTeller (t : Nat) : Nat := t / 2

/-- The port of an agent (R241). -/
def Who.port : Who → Port
  | .elem pg pe _ _ => .me pg (pe / 4)
  | .tel t _ _ => .tel t

/-- The die an agent is on. -/
def Who.die : Who → Nat
  | .elem pg _ _ _ => dieOfPage pg
  | .tel t _ _ => dieOfTeller t

/-- The agent is an element context. -/
def Who.isElem : Who → Bool
  | .elem .. => true
  | .tel .. => false

/-- The page of an element. -/
def Who.page : Who → Nat
  | .elem pg _ _ _ => pg
  | .tel .. => 0

/-- Two firings belong to one context. -/
def Who.sameCtx : Who → Who → Bool
  | .elem pg pe cx _, .elem pg' pe' cx' _ => pg == pg' && pe == pe' && cx == cx'
  | .tel t cx _, .tel t' cx' _ => t == t' && cx == cx'
  | _, _ => false

/-- A number naming an agent's memory node (R262). -/
def Who.node : Who → Nat
  | .elem pg pe cx _ => (pg * 16 + pe) * 4 + cx
  | .tel t cx _ => 2 ^ 20 + t * 4 + cx

def State.page? (s : State) (pg : Nat) : Option Page := alGet pg s.pages

def State.modPage (s : State) (pg : Nat) (f : Page → Page) : State := { s with pages := alMod pg f s.pages }

def State.region? (s : State) (rg : Nat) : Option Region := alGet rg s.regions

def State.modRegion (s : State) (rg : Nat) (f : Region → Region) : State := { s with regions := alMod rg f s.regions }

def State.ptn? (s : State) (p : Nat) : Option Ptn := alGet p s.ptns

def State.modPtn (s : State) (p : Nat) (f : Ptn → Ptn) : State := { s with ptns := alMod p f s.ptns }

/-- A partition is pre-empted by the hypervisor (R405). -/
def State.heldPtn (s : State) (p : Nat) : Bool := ((s.ptn? p).map fun q => q.held != 0).getD false

def State.modDie (s : State) (d : Nat) (f : Die → Die) : State := { s with dies := s.dies.modify d f }

def State.die (s : State) (d : Nat) : Die := s.dies.getD d Die.reset

def State.modLink (s : State) (l : Nat) (f : Link → Link) : State := { s with links := s.links.modify l f }

def State.link (s : State) (l : Nat) : Link := s.links.getD l Link.reset

def State.modPe (s : State) (pg pe : Nat) (f : Pe → Pe) : State :=
  s.modPage pg fun p => { p with pes := p.pes.modify pe f }

def State.pe? (s : State) (pg pe : Nat) : Option Pe := (s.page? pg).bind fun p => p.pes[pe]?

def State.modLive (s : State) (pg pe : Nat) (f : PeLive → PeLive) : State :=
  s.modPe pg pe fun e => { e with live := f e.live }

def State.modCtx (s : State) (pg pe cx : Nat) (f : Ctx → Ctx) : State :=
  s.modLive pg pe fun l => { l with ctxs := l.ctxs.modify cx f }

def State.ctx? (s : State) (pg pe cx : Nat) : Option Ctx := (s.pe? pg pe).bind fun e => e.live.ctxs[cx]?

def State.modSlot (s : State) (pg pe n : Nat) (f : Slot → Slot) : State :=
  s.modLive pg pe fun l => { l with slots := l.slots.modify n f }

def State.modMe (s : State) (pg me : Nat) (f : Me → Me) : State :=
  s.modPage pg fun p => { p with mes := p.mes.modify me f }

def State.me? (s : State) (pg me : Nat) : Option Me := (s.page? pg).bind fun p => p.mes[me]?

def State.modStream (s : State) (pg si : Nat) (f : Stream → Stream) : State :=
  s.modMe pg (si / 4) fun m => { m with streams := m.streams.modify (si % 4) f }

def State.stream? (s : State) (pg si : Nat) : Option Stream := (s.me? pg (si / 4)).bind fun m => m.streams[si % 4]?

def State.modTen (s : State) (pg ten : Nat) (f : Tenant → Tenant) : State :=
  s.modPage pg fun p => { p with mtx := { p.mtx with tens := p.mtx.tens.modify ten f } }

def State.ten? (s : State) (pg ten : Nat) : Option Tenant := (s.page? pg).bind fun p => p.mtx.tens[ten]?

def State.modGraph (s : State) (pg h : Nat) (f : Graph → Graph) : State :=
  s.modPage pg fun p => { p with saf := { p.saf with
    graphs := p.saf.graphs.map fun g => if g.handle = h then f g else g } }

def State.graph? (s : State) (pg h : Nat) : Option Graph :=
  (s.page? pg).bind fun p => p.saf.graphs.find? fun g => g.handle = h

def State.tctx? (s : State) (t cx : Nat) : Option TCtx := (s.tellers[t]?).bind fun l => l.ctxs[cx]?

def State.modTeller (s : State) (t : Nat) (f : Teller → Teller) : State := { s with tellers := s.tellers.modify t f }

def State.modTctx (s : State) (t cx : Nat) (f : TCtx → TCtx) : State :=
  s.modTeller t fun l => { l with ctxs := l.ctxs.modify cx f }

def State.task? (s : State) (ptn lseq : Nat) : Option Task :=
  s.tasks.find? fun k => k.ptn = ptn ∧ k.lseq = lseq

def State.modTask (s : State) (ptn lseq : Nat) (f : Task → Task) : State :=
  { s with tasks := s.tasks.map fun k => if k.ptn = ptn ∧ k.lseq = lseq then f k else k }

/-- The flight of a name. -/
def State.flight? (s : State) (fid : Nat) : Option Flight := s.flights.find? fun f => f.fid = fid

def State.modFlight (s : State) (fid : Nat) (g : Flight → Flight) : State :=
  { s with flights := s.flights.map fun f => if f.fid = fid then g f else f }

/-- A flight ends: it is outstanding no more, and its reads are forgotten; stores it has issued stand (R247). -/
def State.dropFlight (s : State) (fid : Nat) : State :=
  { s with flights := s.flights.filter fun f => f.fid != fid
           reqs := s.reqs.filter fun r => match r.job with
             | .flight i _ => i != fid || r.data.isSome
             | _ => true }

/-- The region a page belongs to. -/
def State.regionOf (s : State) (pg : Nat) : Option Region := (s.page? pg).bind fun p => s.region? p.rg

/-- A unit may pass SNAP: it would not reach interval cut + 2 (R396). -/
def State.snapMay (s : State) (pg ival : Nat) : Bool :=
  match s.regionOf pg with
  | some r => decide (ival + 1 < r.cut + 2)
  | none => false

/-- Something of the page's region has moved in this fc (R273). -/
def State.stir (s : State) (pg : Nat) : State :=
  match s.page? pg with
  | some p => s.modRegion p.rg fun r => { r with stirred := true }
  | none => s

/-- The page's region runs: armed, or stopping for a pre-emption (R400), and not withheld as a whole (R395). -/
def State.running (s : State) (pg : Nat) : Bool :=
  match s.regionOf pg with
  | some r => (r.st == .armed || r.st == .stopping) && !r.withheld
  | none => false

/-- Partition and ASID of an agent. -/
def State.ptnOf (s : State) : Who → Nat
  | .elem pg _ _ _ => ((s.page? pg).map (·.ptn)).getD 0xFF
  | .tel t cx _ => ((s.tctx? t cx).bind (·.ptn)).getD 0xFF

def State.asidOf (s : State) : Who → Nat
  | .elem pg _ _ _ => ((s.page? pg).map (·.asid)).getD 0
  | .tel t cx _ => ((s.tctx? t cx).map (·.asid)).getD 0

/-- The task handle a page runs for. -/
def State.taskOfRegion (s : State) (r : Region) : Option Task := s.task? r.ptn r.lseq

/-! ## Routes and ports (R12, R13, R72) -/

/-- Endpoint codes of R72. -/
def epPe (pe port : Nat) : Nat := pe * 256 + port
def epMe (me st : Nat) : Nat := 2 ^ 14 + me * 256 + st
def epSaf (port : Nat) : Nat := 2 * 2 ^ 14 + port
def epMtx (port : Nat) : Nat := 3 * 2 ^ 14 + port

/-- The token at a route's head that stood there when this fc began and that nothing has dequeued since. -/
def Route.head (r : Route) : Option Tok :=
  if r.taken || (r.fresh && r.latches.length == 1) then none else (r.latches.getLast?).join

/-- The head is dequeued (R13). -/
def Route.take (r : Route) : Route := { r with taken := true }

/-- Every latch of a route may take a new token at the out port (R16 condition 4). -/
def Route.outFree (r : Route) : Bool := !r.rsv && (r.latches.head?).join.isNone

/-- A token placed in the out latch. -/
def Route.put (fc : Nat) (t : Tok) (r : Route) : Route :=
  { r with latches := r.latches.set 0 (some t), rsv := false, fresh := true
           since := if r.latches.length = 1 then fc + 1 else r.since }

/-- The first route that ends at an in endpoint. -/
def Page.inRoute (p : Page) (ep : Nat) : Option Route := p.routes.find? fun r => r.dst = ep ∧ r.net ≠ 3

/-- The token at an in endpoint's head. -/
def Page.headAt (p : Page) (ep : Nat) : Option Tok := (p.inRoute ep).bind Route.head

/-- Some route ends at the endpoint with its head taken from it. -/
def Page.takeAt (p : Page) (ep : Nat) : Page :=
  { p with routes := p.routes.map fun r => if r.dst = ep ∧ r.net ≠ 3 then r.take else r }

/-- The out latch of every route from an endpoint, of the data networks or the control network, is free. -/
def Page.outFree (p : Page) (ctl : Bool) (ep : Nat) : Bool :=
  p.routes.all fun r => r.src != ep || ((r.net == 3) != ctl) || r.outFree

/-- The out latches of an endpoint reserved (R20). -/
def Page.reserve (p : Page) (ctl : Bool) (ep : Nat) : Page :=
  { p with routes := p.routes.map fun r => if r.src = ep ∧ (r.net == 3) = ctl then { r with rsv := true } else r }

/-- The reservation given back, nothing placed. -/
def Page.release (p : Page) (ep : Nat) : Page :=
  { p with routes := p.routes.map fun r => if r.src = ep then { r with rsv := false } else r }

/-- A token placed in the out latch of every route from an endpoint; with no route it is discarded (log 14). -/
def Page.putAt (p : Page) (fc : Nat) (ctl : Bool) (ep : Nat) (t : Tok) : Page :=
  { p with routes := p.routes.map fun r => if r.src = ep ∧ (r.net == 3) = ctl then r.put fc t else r }

/-- Tag numbers of R11. -/
def tagData : Nat := 0
def tagEor : Nat := 1
def tagEot : Nat := 2
def tagEos : Nat := 3
def tagLvl : Nat := 4
def tagSnap : Nat := 5
def tagDrain : Nat := 6
def tagCtl : Nat := 7

/-- A marker the fabric inserts. -/
def marker (tag : Nat) : Tok := ⟨tag, 0⟩

/-- A CTL token's KIND (R222). -/
def Tok.kind (t : Tok) : Nat := bits t.pay.toNat 63 56

/-- The token is a stream header (R222). -/
def Tok.isHeader (t : Tok) : Bool := t.tag == tagCtl && t.kind == 1

/-! ## Tile-task attribution (R312) -/

/-- The tile index that a tile count names in a region. -/
def Region.tileOf (r : Region) (c : Nat) : Nat :=
  min (r.issued.getD c (r.issued.getLast?.getD r.lo)) (r.hi - 1)

/-- The tile port of an element: its lowest-numbered bound scalar or vector in port. -/
def Pe.tilePort (e : Pe) : Option Nat :=
  (List.range 4).find? fun i => match e.ports[i]? with
    | some c => c.net == 1 || c.net == 2
    | none => false

/-- The tile-task an element's access belongs to. -/
def State.ttElem (s : State) (pg pe : Nat) : Option (Nat × Nat) :=
  match s.regionOf pg, s.pe? pg pe with
  | some r, some e =>
    some (r.key, if e.tilePort.isSome then r.tileOf e.live.tiles else min (r.issued.getLast?.getD r.lo) (r.hi - 1))
  | _, _ => none

/-- The tile-task an agent's access belongs to; a teller's belongs to none. -/
def State.ttOf (s : State) : Who → Option (Nat × Nat)
  | .elem pg pe _ _ => s.ttElem pg pe
  | .tel .. => none

/-- The timestamp of a tile-task: all ones for a free task or none (R311, R394). -/
def State.tsOf (s : State) (tt : Option (Nat × Nat)) : Nat :=
  match tt.bind fun (rg, i) => (s.region? rg).map fun r => (r, i) with
  | some (r, i) => if r.ordered then r.ts + i else 2 ^ 64 - 1
  | none => 2 ^ 64 - 1

/-! ## Faults: the record, the mailbox, withholding and trapping -/

/-- Fault classes of R395. -/
def clsIllegal : Nat := 1
def clsBadcfg : Nat := 2
def clsXlate : Nat := 3
def clsPoison : Nat := 4
def clsBound : Nat := 5
def clsShape : Nat := 6
def clsCap : Nat := 7
def clsRange : Nat := 8
def clsLen : Nat := 9
def clsFmt : Nat := 10
def clsDeadlock : Nat := 11
def clsAtomic : Nat := 12
def clsTree : Nat := 13
def clsLink : Nat := 14
def clsNmc : Nat := 15
def clsWatch : Nat := 16
def clsPriv : Nat := 17
def clsAlign : Nat := 18
def clsTrap : Nat := 31

/-- A fault as a rule names it: class, code, detail field and operand value. -/
structure FaultInfo where
  cls : Nat
  code : Nat
  detail : Nat := 0
  opnd : Nat := 0
  deriving DecidableEq, Repr

/-- CAUSE (R389, R394). -/
def FaultInfo.cause (f : FaultInfo) : Nat := f.cls * 2048 + f.code

/-- Where a record comes from: the fields of R394 that name its source. -/
structure Origin where
  die : Nat
  /-- source kind 0-8 -/
  kind : Nat
  /-- 0 full page, 1 lower half, 2 upper half -/
  half : Nat := 0
  async : Bool := false
  frame : Nat := 0
  page : Nat := 0
  elem : Nat := 0
  slotcx : Nat := 0x80
  asid : Nat := 0
  ptn : Nat := 0xFF
  queue : Nat := 0xFF
  ts : Nat := 2 ^ 64 - 1
  intv : Nat := 0
  qseq : Nat := 0
  deriving DecidableEq, Repr

/-- The 64 bytes of a fault record without its LOST bit (R394). -/
def faultBytes (o : Origin) (f : FaultInfo) (opnd : List Byte) : List Byte :=
  leBytes 2 f.cause ++ leBytes 1 o.die ++ leBytes 1 (o.kind + 16 * o.half + (if o.async then 64 else 0)) ++
  leBytes 1 o.frame ++ leBytes 1 o.page ++ leBytes 1 o.elem ++ leBytes 1 o.slotcx ++ leBytes 2 o.asid ++
  leBytes 1 o.ptn ++ leBytes 1 o.queue ++ leBytes 4 f.detail ++ leBytes 8 o.ts ++ leBytes 4 o.intv ++
  leBytes 4 o.qseq ++ (opnd ++ List.replicate 32 0).take 32

/-- The source of a record: frame, then element. -/
def FRec.source (r : FRec) : Nat := (r.bytes.getD 4 0).toNat * 256 + (r.bytes.getD 6 0).toNat

/-- A record placed behind those of earlier fc and those of this fc with no greater source (R393). -/
def mailIn (r : FRec) : List FRec → List FRec
  | [] => [r]
  | q :: l => if q.born = r.born ∧ r.source < q.source then r :: q :: l else q :: mailIn r l

/-- A record enters a die's mailbox, or is dropped and counted when the mailbox is full (R393); `taken` records have been taken at `in1` and
not yet removed. -/
def Die.mail (d : Die) (fc ptn taken : Nat) (bs : List Byte) : Die :=
  if 64 ≤ d.mbx.length + taken then { d with mbxOvf := d.mbxOvf + 1, lost := true }
  else
    let b3 := if d.lost then bs.getD 3 0 ||| 0x80 else bs.getD 3 0
    { d with mbx := mailIn ⟨bs.set 3 b3, ptn, fc⟩ d.mbx, lost := false }

/-- Mailbox records that contexts of a die are part way through reading at `in1` (R393). -/
def State.mbxTaken (s : State) (d : Nat) : Nat :=
  (((s.tellers.drop (2 * d)).take 2).flatMap fun t => t.ctxs.filter fun c => c.rec1 != []).length

/-- A fault record written to a die's mailbox with explicit operand bytes. -/
def State.mailBytes (s : State) (o : Origin) (f : FaultInfo) (opnd : List Byte) : State :=
  s.modDie o.die fun d => d.mail s.fc o.ptn (s.mbxTaken o.die) (faultBytes o f opnd)

/-- A synchronous record: the operand value, then the instruction word (R394). -/
def State.mail (s : State) (o : Origin) (f : FaultInfo) (w : Word) : State :=
  s.mailBytes o f (leBytes 8 f.opnd ++ leBytes 8 w.toNat)

/-- The origin common to every unit of a page. -/
def State.originPage (s : State) (pg kind unit : Nat) : Origin :=
  match s.page? pg with
  | some p => { die := dieOfPage pg, kind := kind, half := p.kind, frame := frameOfPage pg, page := p.pidx, elem := unit
                asid := p.asid, ptn := p.ptn }
  | none => { die := dieOfPage pg, kind := kind, frame := frameOfPage pg, elem := unit }

/-- The origin of an agent's own fault. -/
def State.originWho (s : State) (w : Who) : Origin :=
  match w with
  | .elem pg pe cx slot =>
    { s.originPage pg 0 pe with slotcx := slot + 16 * cx, ts := s.tsOf (s.ttElem pg pe)
                                intv := ((s.pe? pg pe).map (·.ival)).getD 0 }
  | .tel t cx _ =>
    { die := dieOfTeller t, kind := 4, frame := t % 2, slotcx := 0x80 + 16 * cx, asid := s.asidOf w, ptn := s.ptnOf w }

/-- A predicate of an agent written. -/
def State.setPred (s : State) (w : Who) (n : Nat) (v : Tri) : State :=
  match w with
  | .elem pg pe cx _ => s.modCtx pg pe cx fun c => { c with p := c.p.set n v }
  | .tel t cx _ => s.modTctx t cx fun c => { c with p := c.p.set n v }

/-- The fields of a word that name its predicate update; none with PU zero, and for Form I the update is `CMPI`'s (R37,
R114). -/
def pdOf (w : Word) : Option Nat :=
  if isFormI (opcOf w) then none
  else if (field w 4 2) = 0 then none else some (field w 6 3).toNat

/-- The predicates a word writes: PD, and those that are its result (R37). -/
def predDsts (w : Word) : List Nat :=
  (pdOf w).toList ++ (opFields (wspec (opcOf w) (fnOf w)) w).filterMap fun f => if f.1 = .pw then some f.2 else none

/-- A teller context traps (R389, R419): EPC, FPC, CAUSE, TVAL, INTRAP, LATE and the pc, or halts with a record when
INTRAP is 1 or TVEC is 0. -/
def State.trap (s : State) (t cx : Nat) (f : FaultInfo) (epc fpc : Word) (late : Bool) (w : Word) : State :=
  match s.tctx? t cx with
  | none => s
  | some c =>
    if c.tstat.getLsbD 0 ∨ c.tvec = 0 then
      (s.modTctx t cx fun c => { c with run := false }).mail (s.originWho (.tel t cx fpc)) f w
    else s.modTctx t cx fun c =>
      { c with epc := epc, fpc := fpc, cause := BitVec.ofNat 64 f.cause, tval := BitVec.ofNat 64 f.opnd
               tstat := (c.tstat &&& ~~~3#64) ||| (if late then 3#64 else 1#64)
               pc := c.tvec, line := 0, wait := none }

/-- `SYS.ERET`: the pc becomes EPC and INTRAP 0 (R388). -/
def State.trapReturn (s : State) (t cx : Nat) : State :=
  s.modTctx t cx fun c => { c with pc := c.epc, tstat := c.tstat &&& ~~~1#64 }

/-- An agent takes a fault: an element context withholds and a record is written (R392, R393); a teller context traps at
the word's PC (R389). In the element the predicates it would have written stay pending (R37). -/
def State.raise (s : State) (w : Who) (word : Word) (f : FaultInfo) : State :=
  match w with
  | .elem pg pe cx _ =>
    let s := s.mail (s.originWho w) f word
    let s := s.modCtx pg pe cx fun c => { c with withheld := true }
    (predDsts word).foldl (fun s n => s.setPred w n .pend) s
  | .tel t cx pc => s.trap t cx f pc pc false word

/-- A fault found when an instruction is performed, after it has fired: the flight ends, nothing of it is written; an
element context withholds, a teller context traps late (R392, R419). -/
def State.raiseFlight (s : State) (x : Flight) (f : FaultInfo) : State :=
  let s := s.dropFlight x.fid
  match x.who with
  | .elem pg pe cx _ =>
    let s := s.mail (s.originWho x.who) f x.word
    let s := s.modPage pg fun p => x.holds.foldl (fun p r => match r with
      | .out n => p.release (epPe pe n)
      | _ => p) p
    s.modCtx pg pe cx fun c => { c with withheld := true }
  | .tel t cx pc =>
    let s := s.modTctx t cx fun c => { c with out3rsv := c.out3rsv && !x.holds.contains (.out 3) }
    if x.accepted then s.trap t cx f (((s.tctx? t cx).map (·.pc)).getD 0) pc true x.word
    else s.trap t cx f pc pc false x.word

/-- Event counts of an agent's unit raised: class 1-5 and how many (R89, R90). Tellers keep no counts (R385). -/
def addCnts (old : List Nat) (ev : List Nat) : List Nat := tab 5 fun i => min (2 ^ 32 - 1) (old.getD i 0 + ev.getD i 0)

/-- Counts kept by tile with those of one more event; a tile none is counted for has no entry (R90). -/
def countTile (tile : Nat) (ev : List Nat) (l : List (Nat × List Nat)) : List (Nat × List Nat) :=
  if ev.all (· == 0) then l else alSet tile (addCnts ((alGet tile l).getD []) ev) l

/-- The counts of a tile. -/
def cntsOf (tile : Nat) (l : List (Nat × List Nat)) : List Nat := addCnts ((alGet tile l).getD []) []

def State.count (s : State) (w : Who) (ev : List Nat) : State :=
  match w with
  | .elem pg pe _ _ => s.modLive pg pe fun l => { l with cnts := addCnts l.cnts ev }
  | .tel .. => s

end Sys2Proof.Machine
end

