-- ==== Sys2Proof/Machine/Flags.lean ====
section
/-!
DEFINITION. Types, ranges and the predicate update: widths of TY (R35), fits, wrap and clamp (R80, R97), the extension of
results (R98), and what a predicate update writes (R36).
-/

namespace Sys2Proof.Machine

/-- The width of a TY code in bits (R35; a `bpi` port carries 32-bit plane words and `sfx` 16-bit lanes, R122). -/
def tyWidth (ty : Nat) : Nat :=
  ([8, 16, 32, 64, 8, 16, 32, 64, 16, 16, 32, 64, 32, 16, 1, 64] : List Nat).getD ty 64

/-- A signed integer type. -/
def tySigned (ty : Nat) : Bool := ty < 4

/-- A floating type. -/
def tyFloat (ty : Nat) : Bool := 8 ≤ ty && ty < 12

/-- Lanes of a vector at a type (R136). -/
def tyLanes (ty : Nat) : Nat := 512 / tyWidth ty

/-- The least and greatest integers of a type. -/
def tyMin (ty : Nat) : Int := if tySigned ty then -(2 ^ (tyWidth ty - 1) : Nat) else 0
def tyMax (ty : Nat) : Int :=
  if tySigned ty then (2 ^ (tyWidth ty - 1) : Nat) - 1 else (2 ^ tyWidth ty : Nat) - 1

/-- fits(e, TY) of R97. -/
def fits (ty : Nat) (e : Int) : Bool := decide (tyMin ty ≤ e) && decide (e ≤ tyMax ty)

/-- A w-bit pattern read at a type. -/
def readTy (ty x : Nat) : Int := if tySigned ty then signed x (tyWidth ty) else (x % 2 ^ tyWidth ty : Nat)

/-- wrap(e, TY) of R97. -/
def wrapTy (ty : Nat) (e : Int) : Int := readTy ty (pattern e (tyWidth ty))

/-- clamp(e, TY) of R97. -/
def clampTy (ty : Nat) (e : Int) : Int := max (tyMin ty) (min (tyMax ty) e)

/-- The 64-bit register value of a result at a type: sign- or zero-extended (R80, R98). -/
def extTy (ty : Nat) (r : Int) : Word := BitVec.ofInt 64 (readTy ty (pattern r (tyWidth ty)))

/-- Event counts: class c once or more (R89). -/
def event (c n : Nat) : List Nat := tab 5 fun i => if i + 1 = c then n else 0
def evInvalid : List Nat := event 1 1
def evOverflow : List Nat := event 2 1
def evUnderflow : List Nat := event 3 1
def evDivZero : List Nat := event 4 1
def evSat : List Nat := event 5 1
def noEvents : List Nat := []

/-- The predicate update of a Form R word: the value of PD, none with PU = 00 (R36). -/
def puValue (pu : BitVec 2) (outcome flag : Bool) : Option Bool :=
  match pu with
  | 0 => none
  | 1 => some outcome
  | 2 => some (!outcome)
  | _ => some flag

end Sys2Proof.Machine
end

