-- ==== Sys2Proof/Machine/Translate.lean ====
section
/-!
DEFINITION. Address translation (R211-R216): the walk of the four levels as a function, the checks of an access, and the
latency of the way to a vault (R217, R375).
-/

namespace Sys2Proof.Machine

/-- XLATE codes of R214. -/
def xNomap : Nat := 1
def xNowrite : Nat := 2
def xNoexec : Nat := 3
def xBadpte : Nat := 4
def xVarange : Nat := 5
def xKey : Nat := 6
def xBadpa : Nat := 7
def xNoord : Nat := 8

/-- An access kind, as far as a leaf's permissions go. -/
inductive Acc where
  | load | store | fetch
  deriving DecidableEq, Repr

/-- An HBM physical range exists (R215). -/
def hbmOk (pa size : Nat) : Bool :=
  bits pa 41 37 < 24 && pa < 2 ^ 42 && decide (bits pa 36 0 + size ≤ 0x1800000000)

/-- A vault page exists: inside one vault, clear of the escrow rows, not 1 GiB (R216). -/
def vaultOk (pa size : Nat) : Bool :=
  decide (pa < 2 ^ 31) && decide (size < 2 ^ 30) && decide (pa % 2 ^ 22 + size ≤ 0x380000)

/-- The size of the page a leaf of level 2, 1 or 0 maps (R212). -/
def leafSize (level : Nat) : Nat := if level = 2 then 2 ^ 30 else if level = 1 then 2 ^ 21 else 2 ^ 16

/-- A leaf entry checked (R213, R214). -/
def checkLeaf (e level pkey : Nat) (firm : Bool) : Option Nat :=
  let size := leafSize level
  let pa := bits e 55 16 * 2 ^ 16
  if bits e 58 56 ≠ 0 ∨ bits e 15 12 ≠ 0 ∨ bits e 5 2 ≠ 0 ∨ pa % size ≠ 0 ∨ (bitAt e 9 ∧ bitAt e 8) then some xBadpte
  else if bits e 63 59 ≠ (if firm then 16 else pkey) then some xKey
  else if bitAt e 8 then (if vaultOk pa size then none else some xBadpa)
  else (if hbmOk pa size then none else some xBadpa)

/-- One walk from a table of the given level down; fuel is the level plus one. -/
def walkFrom (m : List Host.Cell) (pkey rbits va : Nat) : Nat → Nat → Except Nat (Nat × Nat)
  | 0, _ => .error xBadpte
  | level + 1, table =>
    let ix := if level = 3 then bits va (38 + rbits) 39 else if level = 2 then bits va 38 30
      else if level = 1 then bits va 29 21 else bits va 20 16
    let e := memNat m (table + 8 * ix) 8
    if !bitAt e 0 then .error xNomap
    else if bitAt e 1 then
      if level = 3 then .error xBadpte
      else match checkLeaf e level pkey false with
        | some c => .error c
        | none => .ok (e, leafSize level)
    else if level = 0 ∨ e % 256 ≠ 1 ∨ bits e 63 56 ≠ 0 then .error xBadpte
    else walkFrom m pkey rbits va level (bits e 55 8 * 256)

/-- The addresses of the entries a walk reads, one for each level it visits: it ends at a leaf or at an entry that stops it
(R219, R249). -/
def walkReadsFrom (m : List Host.Cell) (rbits va : Nat) : Nat → Nat → List Nat
  | 0, _ => []
  | level + 1, table =>
    let ix := if level = 3 then bits va (38 + rbits) 39 else if level = 2 then bits va 38 30
      else if level = 1 then bits va 29 21 else bits va 20 16
    let e := memNat m (table + 8 * ix) 8
    if !bitAt e 0 ∨ bitAt e 1 ∨ level = 0 ∨ e % 256 ≠ 1 ∨ bits e 63 56 ≠ 0 then [table + 8 * ix]
    else (table + 8 * ix) :: walkReadsFrom m rbits va level (bits e 55 8 * 256)

/-- The addresses of the entries that the walk of a VA reads; none for a VA out of range or an entry of the ASID table that is
not live. -/
def State.walkReads (s : State) (die asid va : Nat) : List Nat :=
  let e := ((alGet asid (s.die die).asids).getD 0).toNat
  let rbits := bits e 119 112
  if va ≥ 2 ^ 56 ∨ !bitAt e 0 ∨ va ≥ 2 ^ (39 + rbits) then []
  else walkReadsFrom s.mem rbits va 4 (bits e 103 56 * 256)

/-- The translation of a VA in an ASID by a die's ASID table (R211-R214), or the XLATE code. An entry that is not live
maps nothing (log 16). -/
def State.walk (s : State) (die asid va : Nat) : Except Nat Tlb :=
  let e := ((alGet asid (s.die die).asids).getD 0).toNat
  let rbits := bits e 119 112
  if va ≥ 2 ^ 56 then .error xVarange
  else if !bitAt e 0 then .error xNomap
  else if va ≥ 2 ^ (39 + rbits) then .error xVarange
  else match walkFrom s.mem (bits e 108 104) rbits va 4 (bits e 103 56 * 256) with
    | .error c => .error c
    | .ok (leaf, size) =>
      .ok ⟨asid, va / size * size, bits leaf 55 16 * 2 ^ 16 + (if bitAt leaf 8 then vaultKey else 0), size, leaf⟩

/-- The key in memory of a VA by an entry that covers it. -/
def Tlb.key (t : Tlb) (va : Nat) : Nat := t.pa + (va - t.va)

/-- An entry covers a VA of an ASID. -/
def Tlb.covers (t : Tlb) (asid va : Nat) : Bool := t.asid == asid && decide (t.va ≤ va) && decide (va < t.va + t.size)

/-- What a leaf forbids an access (R213, R214). -/
def Tlb.forbids (t : Tlb) : Acc → Option Nat
  | .load => none
  | .store => if bitAt t.leaf 7 then none else some xNowrite
  | .fetch => if bitAt t.leaf 6 then none else some xNoexec

/-- Leaf bits. -/
def leafOwn (leaf : Nat) : Bool := bitAt leaf 11
def leafOrd (leaf : Nat) : Bool := bitAt leaf 10
def leafCmp (leaf : Nat) : Bool := bitAt leaf 9
def leafVlt (leaf : Nat) : Bool := bitAt leaf 8

/-- The bytes of a VA range read page by page; the XLATE code and the VA where a page faults. -/
def State.readVa (s : State) (die asid : Nat) : Nat → Nat → List Byte → Except (Nat × Nat) (List Byte)
  | _, 0, acc => .ok acc.reverse
  | va, n + 1, acc => match s.walk die asid va with
    | .error c => .error (c, va)
    | .ok t => s.readVa die asid (va + 1) n (memGet (t.key va) s.mem :: acc)

/-! ## Distances (R217, R375) -/

/-- The vault beneath a frame. -/
def vaultOfFrame (f : Nat) : Nat := 8 * (f / 16 / 2) + f % 16 / 2

/-- |a - b|. -/
def absDiff (a b : Nat) : Nat := (a - b) + (b - a)

/-- Manhattan distance of two vaults on the 8 x 8 grid. -/
def vaultDist (u v : Nat) : Nat := absDiff (u / 8) (v / 8) + absDiff (u % 8) (v % 8)

/-- Links crossed from a die (8: the anchor, entering through die 1 or 6 by teller index) to a fabric die. -/
def linkHops (die entry dst : Nat) : Nat :=
  let e := if die = 8 then entry else die
  (if die = 8 then 1 else 0) + absDiff (e / 4) (dst / 4) + absDiff (e % 4) (dst % 4)

/-- The links from a fabric die to another with their directions: along the row, then along the column (R375). -/
def fabricPath (a b : Nat) : List (Nat × Bool) :=
  let r := a / 4
  let c := a % 4
  let d := b % 4
  (if c < d then (List.range (d - c)).map fun i => (3 * r + c + i, true)
   else (List.range (c - d)).map fun i => (3 * r + (c - 1 - i), false)) ++
  (if r = b / 4 then [] else [(6 + d, decide (r < b / 4))])

/-- The links from a die (8: the anchor, by its entry die) to a fabric die, and back. -/
def linkPath (die entry dst : Nat) : List (Nat × Bool) :=
  if die = 8 then (if entry = 1 then 10 else 11, false) :: fabricPath entry dst else fabricPath die dst

def linkBack (die entry dst : Nat) : List (Nat × Bool) :=
  if die = 8 then fabricPath dst entry ++ [(if entry = 1 then 10 else 11, true)] else fabricPath dst die

/-- Where an agent's accesses start: die, entry die of the anchor, vault position, base cost (R217). -/
def Who.access : Who → Nat × Nat × Nat × Nat
  | .elem pg _ _ _ => (dieOfPage pg, dieOfPage pg, vaultOfFrame (frameOfPage pg), 14)
  | .tel t _ _ =>
    if t < 16 then (t / 2, t / 2, if t % 2 = 0 then 24 else 39, 16)
    else (8, if t % 2 = 0 then 1 else 6, 24, 16)

/-- The die and vault of a vault key (R216). -/
def keyDie (k : Nat) : Nat := bits (k - vaultKey) 30 28
def keyVault (k : Nat) : Nat := bits (k - vaultKey) 27 22
def keyBank (k : Nat) : Nat := bits k 10 6

/-- The die of an HBM key: stacks 3d to 3d + 2 (R215). -/
def hbmDie (k : Nat) : Nat := bits k 41 37 / 3

/-- fc from issue to data for a vault key, without a walk (R217). -/
def vaultLatency (from_ : Nat × Nat × Nat × Nat) (k : Nat) : Nat :=
  let (die, entry, v, base) := from_
  base + 3 * vaultDist v (keyVault k) + 2 * 28 * linkHops die entry (keyDie k)

/-- fc from issue for an HBM key: open within R417's bounds, plus the links. -/
def hbmLatency (from_ : Nat × Nat × Nat × Nat) (k : Nat) (store : Bool) (x : Nat) : Nat :=
  let (die, entry, _, _) := from_
  (if store then 120 else 150) + x % 111 + 2 * 28 * linkHops die entry (hbmDie k)

end Sys2Proof.Machine
end

