-- ==== Sys2Proof/Machine/Operands.lean ====
section
/-!
DEFINITION. Operands: what each operand code reads and writes in an element and in a teller (R10, R26, R33, R97, R98,
R137), the heads of a teller's ports, and the tag of a result (R14).
-/

namespace Sys2Proof.Machine

/-- `cid` (R10). -/
def cidOf : Who → Word
  | .elem pg pe cx _ =>
    BitVec.ofNat 64 (dieOfPage pg * 2 ^ 28 + frameOfPage pg * 2 ^ 20 + pe * 2 ^ 15 + cx * 2 ^ 13)
  | .tel t cx _ => BitVec.ofNat 64 (dieOfTeller t * 2 ^ 28 + t % 2 * 2 ^ 20 + 2 ^ 19 + cx * 2 ^ 13)

/-! ## The ports of a teller (R26) -/

/-- The words of a record, 8 bytes each. -/
def recWords (bs : List Byte) : List Word := tab (bs.length / 8) fun i => BitVec.ofNat 64 (recNat bs (8 * i) 8)

/-- The next token of words that arrive as consecutive tokens: DATA, the last one EOR. -/
def wordTok : List Word → Option Tok
  | [] => none
  | [w] => some ⟨tagEor, w.setWidth 512⟩
  | w :: _ => some ⟨tagData, w.setWidth 512⟩

/-- The oldest event record of a partition on a die. -/
def State.evHead (s : State) (d p : Nat) : Option (List Byte) := (alGet p (s.die d).evq).bind List.head?

/-- The oldest mailbox record of a partition on a die (R393). -/
def State.mbxHead (s : State) (d p : Nat) : Option FRec := (s.die d).mbx.find? fun r => r.ptn == p

/-- The slot words at HEAD of the till whose descriptor PTILL names: HEAD and the words (R230, R251, R390). Where
the descriptor or the slot is not mapped or is poisoned, or NSLOT is 0, the port shows no token (DESIGN CHOICE, log 145). -/
def State.tillSlot (s : State) (t asid p : Nat) : Option (Nat × List Word) :=
  let d := dieOfTeller t
  let addr := ((alGet p (s.die d).ptill).getD 0).toNat
  if addr = 0 then none
  else match s.readVa d asid addr 64 [] with
    | .error _ => none
    | .ok r =>
      let head := recNat r 0x10 8
      let size := recNat r 8 4
      if head ≥ recNat r 0x18 8 ∨ recNat r 0xC 4 = 0 then none
      else match s.readVa d asid (recNat r 0 8 + head % recNat r 0xC 4 * size) size [] with
        | .error _ => none
        | .ok bs => some (head, recWords bs)

/-- The token at a teller context's in port. -/
def State.telHead (s : State) (t cx port : Nat) : Option Tok :=
  match s.tctx? t cx with
  | none => none
  | some c => match c.ptn with
    | none => none
    | some p =>
      let d := dieOfTeller t
      match port with
      | 0 => if c.rec0 ≠ [] then wordTok c.rec0
        else if (alGet p (s.die d).evOut).getD 0 ≤ s.fc then (s.evHead d p).bind fun r => wordTok (recWords r) else none
      | 1 => if c.rec1 ≠ [] then wordTok c.rec1 else (s.mbxHead d p).bind fun r => wordTok (recWords r.bytes)
      | 2 => match s.ptn? p with
        | some q => if q.res.home = t then q.mbx.head?.map fun w => ⟨tagData, w.setWidth 512⟩ else none
        | none => none
      | _ => (s.tillSlot t c.asid p).bind fun (h, ws) =>
        wordTok (if h = c.tillHead then ws.drop c.tillPos else ws)

/-- A token dequeued from a teller context's in port. -/
def State.telTake (s : State) (t cx port : Nat) : State :=
  match s.tctx? t cx with
  | none => s
  | some c => match c.ptn with
    | none => s
    | some p =>
      let d := dieOfTeller t
      match port with
      | 0 =>
        if c.rec0 ≠ [] then s.modTctx t cx fun c => { c with rec0 := c.rec0.drop 1 }
        else match s.evHead d p with
          | none => s
          | some r => (s.modDie d fun x =>
              { x with evq := alMod p (fun q => q.drop 1) x.evq, evOut := alSet p (s.fc + 1) x.evOut }).modTctx t cx
              fun c => { c with rec0 := (recWords r).drop 1 }
      | 1 =>
        if c.rec1 ≠ [] then s.modTctx t cx fun c => { c with rec1 := c.rec1.drop 1 }
        else match s.mbxHead d p with
          | none => s
          | some r => (s.modDie d fun x => { x with mbx := x.mbx.erase r }).modTctx t cx
              fun c => { c with rec1 := (recWords r.bytes).drop 1 }
      | 2 => s.modPtn p fun q => { q with mbx := q.mbx.drop 1 }
      | _ => match s.tillSlot t c.asid p with
        | none => s
        | some (h, _) => s.modTctx t cx fun c =>
            if h = c.tillHead then { c with tillPos := c.tillPos + 1 } else { c with tillHead := h, tillPos := 1 }

/-! ## Reading -/

/-- The token at the head of an in port of an agent. -/
def State.headOf (s : State) (w : Who) (port : Nat) : Option Tok :=
  match w with
  | .elem pg pe _ _ => (s.page? pg).bind fun p => p.headAt (epPe pe port)
  | .tel t cx _ => s.telHead t cx port

/-- The payload at an in port's head, zero where there is none. -/
def State.payOf (s : State) (w : Who) (port : Nat) : Vec := ((s.headOf w port).map (·.pay)).getD 0

/-- A scalar source (R33, R97). -/
def State.readS (s : State) (w : Who) (c : Nat) : Word :=
  if 12 ≤ c ∧ c < 16 then (s.payOf w (c - 12)).setWidth 64
  else if c = 26 then 0
  else if c = 27 then cidOf w
  else match w with
    | .elem pg pe cx _ =>
      if c < 8 then ((s.ctx? pg pe cx).map fun x => x.a.getD c 0).getD 0
      else if 20 ≤ c ∧ c < 26 then ((s.pe? pg pe).map fun e => e.k.getD (c - 20) 0).getD 0
      else 0
    | .tel t cx _ =>
      if c < 8 then ((s.tctx? t cx).map fun x => x.a.getD c 0).getD 0
      else if 20 ≤ c ∧ c < 26 then ((s.tctx? t cx).map fun x => x.a.getD (c - 12) 0).getD 0
      else 0

/-- A vector source: register, in port or `zr` (R33, R137). -/
def State.readV (s : State) (w : Who) (c : Nat) : Vec :=
  if 12 ≤ c ∧ c < 16 then s.payOf w (c - 12)
  else if 8 ≤ c ∧ c < 12 then match w with
    | .elem pg pe cx _ => ((s.ctx? pg pe cx).map fun x => x.v.getD (c - 8) 0).getD 0
    | .tel t cx _ => ((s.tctx? t cx).map fun x => x.v.getD (c - 8) 0).getD 0
  else 0

/-- A source of either network: a vector register or port reads 512 bits, a scalar one 64 (R121). -/
def State.readAny (s : State) (w : Who) (c : Nat) : Vec :=
  if 8 ≤ c ∧ c < 16 then s.readV w c else (s.readS w c).setWidth 512

/-- A predicate. -/
def State.readP (s : State) (w : Who) (n : Nat) : Tri :=
  match w with
  | .elem pg pe cx _ => ((s.ctx? pg pe cx).map fun x => x.p.getD n .ff).getD .ff
  | .tel t cx _ => ((s.tctx? t cx).map fun x => x.p.getD n .ff).getD .ff

/-- A predicate that is true. -/
def State.truth (s : State) (w : Who) (n : Nat) : Bool := s.readP w n == .tt

/-- The head of an in port is there for the slots: an intersection unit keeps `in0` and `in1` back until it presents
them (R15). -/
def Pe.shows (e : Pe) (port : Nat) : Bool := !e.isectOn || decide (2 ≤ port) || e.live.isectUp.testBit port

/-- The in port an operand code names. -/
def portOf (c : Nat) : Option Nat := if 12 ≤ c ∧ c < 16 then some (c - 12) else none

/-- The tag of a result (R14): that of the token read at A, else at B, else DATA. -/
def State.tagOf (s : State) (w : Who) (a b : Nat) : Nat :=
  match (portOf a).bind (s.headOf w), (portOf b).bind (s.headOf w) with
  | some t, _ => if (portOf a).isSome then t.tag else tagData
  | none, some t => t.tag
  | none, none => tagData

/-! ## Writing -/

/-- The write of a scalar result to a destination code (R98). -/
def writeS (d tag : Nat) (r : Word) : Writes :=
  if d < 8 then { Writes.none with a := [(d, r)] }
  else if 16 ≤ d ∧ d < 20 then { Writes.none with out := [(d - 16, ⟨tag, r.setWidth 512⟩)] }
  else if 20 ≤ d ∧ d < 26 then { Writes.none with a := [(d - 12, r)] }
  else Writes.none

/-- The write of a vector result to a destination code. -/
def writeV (d tag : Nat) (r : Vec) : Writes :=
  if 8 ≤ d ∧ d < 12 then { Writes.none with v := [(d - 8, r)] }
  else if 16 ≤ d ∧ d < 20 then { Writes.none with out := [(d - 16, ⟨tag, r⟩)] }
  else Writes.none

/-- A token placed in an out port. -/
def writeTok (d : Nat) (t : Tok) : Writes :=
  if 16 ≤ d ∧ d < 20 then { Writes.none with out := [(d - 16, t)] } else Writes.none

/-- A predicate written. -/
def writeP (n : Nat) (v : Bool) : Writes := { Writes.none with p := [(n, v)] }

/-- What a set of writes holds outstanding (R20). -/
def Writes.holds (x : Writes) : List Res :=
  x.a.map (fun p => .a p.1) ++ x.v.map (fun p => .v p.1) ++ x.p.map (fun p => .p p.1) ++
  x.out.map (fun p => .out p.1) ++ x.sig.map (fun n => .sig n)

/-- A destination code's resource, before its value is known. -/
def destHolds (d : Nat) : List Res :=
  if d < 8 then [.a d] else if d < 12 then [.v (d - 8)] else if 16 ≤ d ∧ d < 20 then [.out (d - 16)]
  else if 20 ≤ d ∧ d < 26 then [.a (d - 12)] else []

end Sys2Proof.Machine
end

