-- ==== Sys2Proof/Machine/Fire.lean ====
section
/-!
DEFINITION. Firing and writing back (R14, R17, R20, R37, R95, R389): the one operation through which every instruction
word takes effect. A word either knows its results when it fires (`fireTimed`) or waits for a unit (`fireJob`).
-/

namespace Sys2Proof.Machine

/-- What an instruction does when it fires and its results are known. -/
structure Done where
  /-- W of R20 -/
  w : Nat := 2
  wr : Writes := Writes.none
  outcome : Bool := false
  flag : Bool := false
  ev : List Nat := []
  /-- channels it dequeues, where they are not the guard's (R125) -/
  deq : Option (List Nat) := none
  /-- the slot's new slot state (R126, R151, R158) -/
  slot : Option Slot := none
  /-- a teller's new pc and the fc until its next issue (R131) -/
  pc : Option Word := none
  gap : Nat := 1
  deriving DecidableEq, Repr

/-- The channels a guard names. -/
def chansOf (g : Guard) : List Nat := (List.range 4).filter fun i => g.cr.getLsbD i

/-- The channels a firing dequeues (R17, R20). -/
def deqsOf (g : Guard) : List Nat := if g.pk = 1 then [] else chansOf g

/-- FMT code of a route's format and of a header (R93, R222). -/
def Route.fmtCode (r : Route) : Nat := r.pln * 16 + r.ty
def Tok.fmtCode (t : Tok) : Nat := bits t.pay.toNat 47 32

/-- The format check of a header that a slot peeks at or dequeues (R95); `FWD` does not make it, and a tile word's faults are
raised when it is performed (R187). A channel that a guard names counts as peeked at, a held marker channel of `MRG` among
them (R125; log 131). -/
def State.headerFault (s : State) (w : Who) (g : Guard) (x : Word) : Option FaultInfo :=
  match w with
  | .tel .. => none
  | .elem pg pe _ _ =>
    if opcOf x = 0x19 ∨ (0x40 ≤ opcOf x ∧ opcOf x ≤ 0x4E) then none
    else match s.page? pg with
      | none => none
      | some p => (chansOf g).findSome? fun i => match p.inRoute (epPe pe i) with
        | some r => match r.head with
          | some t => if t.isHeader && t.fmtCode != r.fmtCode then
              some { cls := clsFmt, code := 1, detail := r.fmtCode, opnd := t.fmtCode } else none
          | none => none
        | none => none

/-- During early service an element word with TY f64 faults at firing (R416). -/
def State.earlyFault (s : State) (w : Who) (x : Word) : Option FaultInfo :=
  if w.isElem && s.bring.early && s.bring.ready.getD w.die false && !isFormI (opcOf x) && (field x 0 4) == 11 then
    some { cls := clsRange, code := 0x037 } else none

/-- A token dequeued from an element's back arc is logged into the shadows still open for it (R397); the SNAP or DRAIN that
the element absorbs is none. -/
def logBack (port : Nat) (t : Tok) (sh : Shadow) : Shadow :=
  if sh.shut.contains port || t.tag == tagSnap || t.tag == tagDrain then sh
  else
    let old := (alGet port sh.logs).getD []
    if 16 ≤ old.length then { sh with unusable := true } else { sh with logs := alSet port (old ++ [t]) sh.logs }

/-- One channel of an element dequeued: the token leaves its head, the tile count rises at the tile port (R13, R312),
back arcs are logged (R397), and an intersection unit's pair is one token nearer its end (R15). -/
def State.takeElem (s : State) (pg pe port : Nat) : State :=
  match s.page? pg with
  | none => s
  | some p => match p.inRoute (epPe pe port) with
    | none => s
    | some r => match r.head with
      | none => s
      | some t =>
        let s := s.modPage pg fun p => p.takeAt (epPe pe port)
        s.modPe pg pe fun e =>
          let closes := e.tilePort == some port && (t.tag == tagEot || t.tag == tagEos)
          { e with live := { e.live with tiles := if closes then e.live.tiles + 1 else e.live.tiles
                                         isectUp := e.live.isectUp - (if e.live.isectUp.testBit port then 2 ^ port else 0) }
                   shadows := if r.back then e.shadows.map (logBack port t) else e.shadows }

/-- Channels dequeued by an agent. -/
def State.takeAll (s : State) (w : Who) (chans : List Nat) : State :=
  chans.foldl (fun s i => match w with
    | .elem pg pe _ _ => s.takeElem pg pe i
    | .tel t cx _ => s.telTake t cx i) s

/-- Out latches reserved for the ports a word writes (R20). -/
def State.reserve (s : State) (w : Who) (h : List Res) : State :=
  h.foldl (fun s r => match w, r with
    | .elem pg pe _ _, .out n => s.modPage pg fun p => p.reserve false (epPe pe n)
    | .elem pg pe _ _, .sig n => s.modPage pg fun p => p.reserve true (epPe pe n)
    | .tel t cx _, .out 3 => s.modTctx t cx fun c => { c with out3rsv := true }
    | _, _ => s) s

/-- Predicates made pending (R20, R116). -/
def State.pend (s : State) (w : Who) (h : List Res) : State :=
  h.foldl (fun s r => match r with
    | .p n => s.setPred w n .pend
    | _ => s) s

/-- The interval number of an agent's element; a teller has none (R396). -/
def State.ivalOf (s : State) : Who → Nat
  | .elem pg pe _ _ => ((s.pe? pg pe).map (·.ival)).getD 0
  | .tel .. => 0

/-- The flight of a word that fires now, operands captured. -/
def State.newFlight (s : State) (w : Who) (x : Word) : Flight where
  fid := s.ids
  who := w
  word := x
  born := s.fc
  due := none
  holds := []
  reads := []
  wr := Writes.none
  sd := s.readS w (field x 19 5).toNat
  sa := s.readS w (field x 14 5).toNat
  sb := s.readS w (field x 9 5).toNat
  vd := s.readAny w (field x 19 5).toNat
  va := s.readAny w (field x 14 5).toNat
  vb := s.readAny w (field x 9 5).toNat
  tag := s.tagOf w (field x 14 5).toNat (field x 9 5).toNat
  cap := none
  asid := s.asidOf w
  ptn := s.ptnOf w
  tt := s.ttOf w
  ival := s.ivalOf w
  plan := []
  port := w.port
  got := []
  left := 0
  stage := 0
  after := s.fc
  aux := []
  emit := []
  accepted := false
  late := none

/-- A word fires: channels dequeued, latches reserved, predicates pending, the flight outstanding, and a teller's pc
moved on (R20, R25). -/
def State.launch (s : State) (w : Who) (deq : List Nat) (f : Flight) (pc : Option Word) (gap : Nat) : State :=
  let s := { s with ids := s.ids + 1 }
  let s := s.takeAll w deq
  let s := s.reserve w f.holds
  let s := s.pend w f.holds
  let s := { s with flights := s.flights ++ [f] }
  match w with
  | .elem pg _ _ _ => s.stir pg
  | .tel t cx _ => s.modTctx t cx fun c => { c with pc := pc.getD (c.pc + 8), after := s.fc + gap }

/-- The predicate writes of a Form R word's update field. -/
def puWrites (x : Word) (outcome flag : Bool) : List (Nat × Bool) :=
  if isFormI (opcOf x) then []
  else match puValue (field x 4 2) outcome flag with
    | none => []
    | some v => [((field x 6 3).toNat, v)]

/-- A timed word fires with known results. -/
def State.launchDone (s : State) (w : Who) (x : Word) (g : Guard) (d : Done) : State :=
  let wr := { d.wr with p := d.wr.p ++ puWrites x d.outcome d.flag }
  let f := { s.newFlight w x with due := some (s.fc + d.w - 1), wr := wr, holds := wr.holds }
  let s := (s.launch w (d.deq.getD (deqsOf g)) f d.pc d.gap).count w d.ev
  match w, d.slot with
  | .elem pg pe _ n, some sl => s.modSlot pg pe n fun _ => sl
  | _, _ => s

/-- The fault found before a word's own checks. -/
def State.guardFault (s : State) (w : Who) (g : Guard) (x : Word) : Option FaultInfo :=
  (s.headerFault w g x).orElse fun _ => s.earlyFault w x

/-- A word whose results are known when it fires; it faults at firing, or fires. -/
def fireTimed (g : Guard) (k : Who → Word → State → Except FaultInfo Done) (s : State) : Out :=
  match s.issue with
  | none => .fault .noAgent
  | some (w, x) =>
    let s := { s with issue := none }
    match s.guardFault w g x with
    | some f => .next (s.raise w x f)
    | none => match k w x s with
      | .error f => .next (s.raise w x f)
      | .ok d => .next (s.launchDone w x g d)

/-- A word performed by a unit: `k` gives its flight from the new one, or the fault at firing; `post` hands it over. -/
def fireJob (g : Guard) (k : Who → Word → State → Flight → Except FaultInfo Flight) (post : Flight → State → State)
    (s : State) : Out :=
  match s.issue with
  | none => .fault .noAgent
  | some (w, x) =>
    let s := { s with issue := none }
    match s.guardFault w g x with
    | some f => .next (s.raise w x f)
    | none =>
      let f := s.newFlight w x
      let f := { f with holds := (pdOf x).toList.map .p }
      match k w x s f with
      | .error e => .next (s.raise w x e)
      | .ok f => .next (post f (State.launch { s with free := s.free + 1 } w (deqsOf g) f none 1))

/-! ## Write-back -/

/-- Register and predicate writes in an element context. -/
def Ctx.write (c : Ctx) (wr : Writes) : Ctx :=
  { c with a := wr.a.foldl (fun l p => l.set p.1 p.2) c.a
           v := wr.v.foldl (fun l p => l.set p.1 p.2) c.v
           p := wr.p.foldl (fun l p => l.set p.1 (if p.2 then .tt else .ff)) c.p }

/-- The same in a teller context. -/
def TCtx.write (c : TCtx) (wr : Writes) : TCtx :=
  { c with a := wr.a.foldl (fun l p => l.set p.1 p.2) c.a
           v := wr.v.foldl (fun l p => l.set p.1 p.2) c.v
           p := wr.p.foldl (fun l p => l.set p.1 (if p.2 then .tt else .ff)) c.p }

/-- Words waiting in the `out3` latches of a partition's contexts enter its notify FIFO of 64 words while there is room,
each raising NOTVEC (R409). -/
def State.notifyOne (s : State) (t cx : Nat) : State :=
  match s.tctx? t cx with
  | none => s
  | some c => match c.ptn, c.out3 with
    | some p, some w => match s.ptn? p with
      | some q =>
        if q.notify.length < 64 then
          (s.modPtn p fun q => { q with notify := q.notify ++ [w], msix := q.msix ++ [q.notVec] }).modTctx t cx
            fun c => { c with out3 := none }
        else s
      | none => s
    | _, _ => s

/-- Writes applied for an agent: registers, predicates, out latches and pulses; the context's part also goes into the
shadows taken since the word fired (R20, R396). -/
def State.applyWrites (s : State) (w : Who) (born : Nat) (wr : Writes) : State :=
  match w with
  | .elem pg pe cx _ =>
    let s := s.modPe pg pe fun e =>
      { e with live := { e.live with ctxs := e.live.ctxs.modify cx fun c => c.write wr }
               shadows := e.shadows.map fun sh =>
                 if born ≤ sh.taken then
                   { sh with live := { sh.live with ctxs := sh.live.ctxs.modify cx fun c => c.write wr } } else sh }
    s.modPage pg fun p =>
      let p := wr.out.foldl (fun p o => p.putAt s.fc false (epPe pe o.1) o.2) p
      wr.sig.foldl (fun p n => p.putAt s.fc true (epPe pe n) ⟨0, 0⟩) p
  | .tel t cx _ =>
    let s := s.modTctx t cx fun c => c.write wr
    wr.out.foldl (fun s o =>
      (s.modTctx t cx fun c => { c with out3 := some (o.2.pay.setWidth 64), out3rsv := false }).notifyOne t cx) s

/-- Out latches that were reserved and get no token are free again. -/
def State.releaseOuts (s : State) (w : Who) (h : List Res) (wr : Writes) : State :=
  h.foldl (fun s r => match w, r with
    | .elem pg pe _ _, .out n => if wr.out.any fun o => o.1 == n then s else s.modPage pg fun p => p.release (epPe pe n)
    | .tel t cx _, .out 3 => if wr.out ≠ [] then s else s.modTctx t cx fun c => { c with out3rsv := false }
    | _, _ => s) s

/-- After `DRAIN` has written back no slot of its element fires again (R130). -/
def State.drainDone (s : State) (f : Flight) : State :=
  match f.who with
  | .elem pg pe _ _ => if opcOf f.word = 0x1E then s.modPe pg pe fun e => { e with drained := true, ended := true } else s
  | .tel .. => s

/-- A flight writes back and ends. -/
def State.settle (s : State) (f : Flight) (wr : Writes) : State :=
  (((s.dropFlight f.fid).applyWrites f.who f.born wr).releaseOuts f.who f.holds wr).drainDone f

/-- A flight is performed: its results and predicate update are written back now (R20, R242). -/
def State.perform (s : State) (f : Flight) (wr : Writes) (outcome flag : Bool) (ev : List Nat) : State :=
  (s.settle f { wr with p := wr.p ++ puWrites f.word outcome flag }).count f.who ev

end Sys2Proof.Machine
end

