-- ==== Sys2Proof/Machine/Scalar.lean ====
section
/-!
DEFINITION. Integer and address instructions, opcodes 0x00-0x0F (R97-R113).
-/

namespace Sys2Proof.Machine

/-- The exact result of a scalar instruction, its flag and the events it counts. -/
structure IntRes where
  r : Int
  flag : Bool := false
  ev : List Nat := []
  deriving DecidableEq, Repr

/-- A scalar result written to D at a type: register value, tag, outcome (R36, R98). -/
def scalarDone (s : State) (w : Who) (d a b ty : Nat) (x : IntRes) : Done where
  wr := writeS d (s.tagOf w a b) (extTy ty x.r)
  outcome := pattern x.r (tyWidth ty) != 0
  flag := x.flag
  ev := x.ev

/-- A Form R scalar word of A and B at TY. -/
def scalarR (o : FormR) (f : Int → Int → IntRes) (s : State) : Out :=
  fireTimed o.g (fun w _ s =>
    let ty := o.ty.toNat
    .ok (scalarDone s w o.d.toNat o.a.toNat o.b.toNat ty
      (f (readTy ty (s.readS w o.a.toNat).toNat) (readTy ty (s.readS w o.b.toNat).toNat)))) s

/-- A Form R scalar word that also reads D. -/
def scalarR3 (o : FormR) (f : Int → Int → Int → IntRes) (s : State) : Out :=
  fireTimed o.g (fun w _ s =>
    let ty := o.ty.toNat
    .ok (scalarDone s w o.d.toNat o.a.toNat o.b.toNat ty
      (f (readTy ty (s.readS w o.d.toNat).toNat) (readTy ty (s.readS w o.a.toNat).toNat)
        (readTy ty (s.readS w o.b.toNat).toNat)))) s

/-- A Form I scalar word of A's 64 bits and the immediate; the result is 64 bits. -/
def scalarI (o : FormI) (f : Word → Nat → Word) (s : State) : Out :=
  fireTimed o.g (fun w _ s =>
    .ok { wr := writeS o.d.toNat (s.tagOf w o.a.toNat 26) (f (s.readS w o.a.toNat) o.imm.toNat) }) s

/-- sext(IMM14) as a 64-bit pattern (R30). -/
def sext14 (i : Nat) : Word := BitVec.ofInt 64 (signed i 14)

/-! ## Results -/

def rWrap (ty : Nat) (e : Int) : IntRes := { r := wrapTy ty e, flag := !fits ty e }
def rClamp (ty : Nat) (e : Int) : IntRes :=
  let r := clampTy ty e
  { r := r, flag := !fits ty e, ev := if r = e then noEvents else evSat }

/-- The high half of a 2w-bit product (R104). -/
def mulHigh (ty : Nat) (p : Int) : Int := readTy ty (pattern p (2 * tyWidth ty) / 2 ^ tyWidth ty)

/-- Quotient and remainder (R106). -/
def divQuot (ty : Nat) (x y : Int) : IntRes :=
  let ev := if y = 0 ∧ x ≠ 0 then evDivZero else noEvents
  if y = 0 then { r := if x < 0 then tyMin ty else tyMax ty, flag := true, ev := ev }
  else if tySigned ty ∧ x = tyMin ty ∧ y = -1 then { r := x, flag := true }
  else { r := x.tdiv y }

def divRem (ty : Nat) (x y : Int) : IntRes :=
  let ev := if y = 0 ∧ x ≠ 0 then evDivZero else noEvents
  if y = 0 then { r := x, flag := true, ev := ev }
  else if tySigned ty ∧ x = tyMin ty ∧ y = -1 then { r := 0, flag := true }
  else { r := x.tmod y }

/-- A bitwise operation on w-bit patterns (R107). -/
def bitwise (ty : Nat) (f : Nat → Nat → Nat) (x y : Int) : IntRes :=
  let w := tyWidth ty
  { r := readTy ty (f (pattern x w) (pattern y w) % 2 ^ w) }

/-- The complement of a w-bit pattern. -/
def notW (w x : Nat) : Nat := 2 ^ w - 1 - x % 2 ^ w

/-- Shifts of a w-bit pattern by s (R108): the pattern and whether a 1 bit left it. -/
def shlW (w x s : Nat) : Nat × Bool := (x * 2 ^ s % 2 ^ w, x % 2 ^ w / 2 ^ (w - s) != 0 && s != 0)
def shrW (w x s : Nat) : Nat × Bool := (x % 2 ^ w / 2 ^ s, x % 2 ^ s != 0)
def sarW (w x s : Nat) : Nat × Bool := (pattern (signed x w / (2 ^ s : Nat)) w, x % 2 ^ s != 0)
def rolW (w x s : Nat) : Nat × Bool := ((x * 2 ^ s + x % 2 ^ w / 2 ^ (w - s)) % 2 ^ w, false)

/-- `SHF` with s = read(B, n64) mod w (R108). -/
def shiftR (o : FormR) (f : Nat → Nat → Nat → Nat × Bool) (s : State) : Out :=
  fireTimed o.g (fun w _ s =>
    let ty := o.ty.toNat
    let n := tyWidth ty
    let p := f n ((s.readS w o.a.toNat).toNat % 2 ^ n) ((s.readS w o.b.toNat).toNat % n)
    .ok (scalarDone s w o.d.toNat o.a.toNat o.b.toNat ty { r := readTy ty p.1, flag := p.2 })) s

/-- `SHFI` at 64 bits. -/
def shiftI (o : FormI) (f : Nat → Nat → Nat → Nat × Bool) (s : State) : Out :=
  scalarI o (fun a i => BitVec.ofNat 64 (f 64 a.toNat i).1) s

/-- Bits of a number counted. -/
def popcount : Nat → Nat → Nat
  | 0, _ => 0
  | n + 1, x => x % 2 + popcount n (x / 2)

/-- Trailing zeros of a w-bit pattern, w when it is 0. -/
def ctzW : Nat → Nat → Nat
  | 0, _ => 0
  | n + 1, x => if x % 2 = 1 then 0 else 1 + ctzW n (x / 2)

/-- A w-bit pattern reversed. -/
def brevW : Nat → Nat → Nat
  | 0, _ => 0
  | n + 1, x => x % 2 * 2 ^ n + brevW n (x / 2)

/-- The field of `BEXT` and `BINS`: lo, len and the length that fits (R110). -/
def bitField (w b : Nat) : Nat × Nat × Nat :=
  let lo := bits b 5 0
  let len := bits b 13 8
  (lo, len, min len (w - lo))

def bextOf (ty : Nat) (x b : Nat) : IntRes :=
  let w := tyWidth ty
  let (lo, len, l) := bitField w b
  let v := x % 2 ^ w / 2 ^ lo % 2 ^ l
  { r := if tySigned ty then signed v l else v, flag := len == 0 || decide (l < len) }

def binsOf (ty : Nat) (d x b : Nat) : IntRes :=
  let w := tyWidth ty
  let (lo, len, l) := bitField w b
  let d := d % 2 ^ w
  let v := if l = 0 then d else d % 2 ^ lo + x % 2 ^ l * 2 ^ lo + d / 2 ^ (lo + l) * 2 ^ (lo + l)
  { r := readTy ty v, flag := len == 0 || decide (l < len) }

/-! ## Meanings -/

/-- R101. -/
def execNop (o : FormR) (s : State) : Out := fireTimed o.g (fun _ _ _ => .ok {}) s

def execAddW (o : FormR) (s : State) : Out := scalarR o (fun x y => rWrap o.ty.toNat (x + y)) s
def execAddSs (o : FormR) (s : State) : Out := scalarR o (fun x y => rClamp o.ty.toNat (x + y)) s
def execAddSn (o : FormR) (s : State) : Out := scalarR o (fun x y => rClamp o.ty.toNat (x + y)) s
def execSubW (o : FormR) (s : State) : Out := scalarR o (fun x y => rWrap o.ty.toNat (x - y)) s
def execSubSs (o : FormR) (s : State) : Out := scalarR o (fun x y => rClamp o.ty.toNat (x - y)) s
def execSubSn (o : FormR) (s : State) : Out := scalarR o (fun x y => rClamp o.ty.toNat (x - y)) s
def execAddi (o : FormI) (s : State) : Out := scalarI o (fun a i => a + sext14 i) s
def execMulLo (o : FormR) (s : State) : Out := scalarR o (fun x y => rWrap o.ty.toNat (x * y)) s
def execMulHs (o : FormR) (s : State) : Out := scalarR o (fun x y => { r := mulHigh o.ty.toNat (x * y) }) s
def execMulHn (o : FormR) (s : State) : Out := scalarR o (fun x y => { r := mulHigh o.ty.toNat (x * y) }) s
def execMacW (o : FormR) (s : State) : Out := scalarR3 o (fun d x y => rWrap o.ty.toNat (d + x * y)) s
def execMacSs (o : FormR) (s : State) : Out := scalarR3 o (fun d x y => rClamp o.ty.toNat (d + x * y)) s
def execDivQs (o : FormR) (s : State) : Out := scalarR o (divQuot o.ty.toNat) s
def execDivQn (o : FormR) (s : State) : Out := scalarR o (divQuot o.ty.toNat) s
def execDivMs (o : FormR) (s : State) : Out := scalarR o (divRem o.ty.toNat) s
def execDivMn (o : FormR) (s : State) : Out := scalarR o (divRem o.ty.toNat) s

def execLogAnd (o : FormR) (s : State) : Out := scalarR o (bitwise o.ty.toNat fun x y => x &&& y) s
def execLogOr (o : FormR) (s : State) : Out := scalarR o (bitwise o.ty.toNat fun x y => x ||| y) s
def execLogXor (o : FormR) (s : State) : Out := scalarR o (bitwise o.ty.toNat fun x y => x ^^^ y) s
def execLogAndn (o : FormR) (s : State) : Out :=
  scalarR o (bitwise o.ty.toNat fun x y => x &&& notW (tyWidth o.ty.toNat) y) s
def execLogOrn (o : FormR) (s : State) : Out :=
  scalarR o (bitwise o.ty.toNat fun x y => x ||| notW (tyWidth o.ty.toNat) y) s
def execLogXnor (o : FormR) (s : State) : Out :=
  scalarR o (bitwise o.ty.toNat fun x y => notW (tyWidth o.ty.toNat) (x ^^^ y)) s

def execShfShl (o : FormR) (s : State) : Out := shiftR o shlW s
def execShfShr (o : FormR) (s : State) : Out := shiftR o shrW s
/-- floor(x / 2^s) of x read at TY: an unsigned type shifts zeros in (R108). -/
def execShfSar (o : FormR) (s : State) : Out := shiftR o (if tySigned o.ty.toNat then sarW else shrW) s
def execShfRol (o : FormR) (s : State) : Out := shiftR o rolW s
def execShfiShl (o : FormI) (s : State) : Out := shiftI o shlW s
def execShfiShr (o : FormI) (s : State) : Out := shiftI o shrW s
def execShfiSar (o : FormI) (s : State) : Out := shiftI o sarW s
def execShfiRol (o : FormI) (s : State) : Out := shiftI o rolW s

def execMmxMins (o : FormR) (s : State) : Out := scalarR o (fun x y => { r := min x y }) s
def execMmxMaxs (o : FormR) (s : State) : Out := scalarR o (fun x y => { r := max x y }) s
def execMmxMinn (o : FormR) (s : State) : Out := scalarR o (fun x y => { r := min x y }) s
def execMmxMaxn (o : FormR) (s : State) : Out := scalarR o (fun x y => { r := max x y }) s

def execBitPopc (o : FormR) (s : State) : Out :=
  scalarR o (fun x _ => let w := tyWidth o.ty.toNat; { r := popcount w (pattern x w) }) s
def execBitClz (o : FormR) (s : State) : Out :=
  scalarR o (fun x _ => let w := tyWidth o.ty.toNat; { r := ctzW w (brevW w (pattern x w)) }) s
def execBitCtz (o : FormR) (s : State) : Out :=
  scalarR o (fun x _ => let w := tyWidth o.ty.toNat; { r := ctzW w (pattern x w) }) s
def execBitBrev (o : FormR) (s : State) : Out :=
  scalarR o (fun x _ => let w := tyWidth o.ty.toNat; { r := readTy o.ty.toNat (brevW w (pattern x w)) }) s
/-- B is read whole: its field places do not shrink with TY (R110). -/
def execBitBext (o : FormR) (s : State) : Out :=
  fireTimed o.g (fun w _ s => .ok (scalarDone s w o.d.toNat o.a.toNat o.b.toNat o.ty.toNat
    (bextOf o.ty.toNat (s.readS w o.a.toNat).toNat (s.readS w o.b.toNat).toNat))) s
def execBitBins (o : FormR) (s : State) : Out :=
  fireTimed o.g (fun w _ s => .ok (scalarDone s w o.d.toNat o.a.toNat o.b.toNat o.ty.toNat
    (binsOf o.ty.toNat (s.readS w o.d.toNat).toNat (s.readS w o.a.toNat).toNat (s.readS w o.b.toNat).toNat))) s

def execMovMov (o : FormR) (s : State) : Out := scalarR o (fun x _ => { r := x }) s
def execMovMovk (o : FormR) (s : State) : Out :=
  scalarR3 o (fun d x y =>
    let w := tyWidth o.ty.toNat
    { r := readTy o.ty.toNat ((pattern d w &&& notW w (pattern y w)) ||| (pattern x w &&& pattern y w)) }) s
def execMovSel (o : FormR) (s : State) : Out := scalarR3 o (fun d x y => { r := if d ≠ 0 then x else y }) s
def execMovAbs (o : FormR) (s : State) : Out :=
  scalarR o (fun x _ => { r := wrapTy o.ty.toNat (if x < 0 then -x else x), flag := x == tyMin o.ty.toNat }) s
def execMovNeg (o : FormR) (s : State) : Out :=
  scalarR o (fun x _ => { r := wrapTy o.ty.toNat (-x)
                          flag := if tySigned o.ty.toNat then x == tyMin o.ty.toNat else x != 0 }) s
/-- `.SEXT` and `.ZEXT` write 64 bits whatever TY's sign is (R111); the outcome is taken at the TY width (R36). -/
def moveExt (o : FormR) (f : Nat → Nat → Word) (s : State) : Out :=
  fireTimed o.g (fun w _ s =>
    let n := tyWidth o.ty.toNat
    let x := (s.readS w o.a.toNat).toNat % 2 ^ n
    .ok { wr := writeS o.d.toNat (s.tagOf w o.a.toNat o.b.toNat) (f n x), outcome := x != 0 }) s
def execMovSext (o : FormR) (s : State) : Out := moveExt o (fun n x => BitVec.ofInt 64 (signed x n)) s
def execMovZext (o : FormR) (s : State) : Out := moveExt o (fun _ x => BitVec.ofNat 64 x) s

def execLi (o : FormI) (s : State) : Out := scalarI o (fun _ i => sext14 i) s
/-- The slice of `LIS.SLn` begins at bit 14n and is 14 bits long, 8 for n = 4 (R112). -/
def execLis (fn : BitVec 3) (o : FormI) (s : State) : Out :=
  fireTimed o.g (fun w _ s =>
    let lo := 14 * fn.toNat
    let n := if fn = 4 then 8 else 14
    let d := (s.readS w o.d.toNat).toNat
    let v := d % 2 ^ lo + o.imm.toNat % 2 ^ n * 2 ^ lo + d / 2 ^ (lo + n) * 2 ^ (lo + n)
    .ok { wr := writeS o.d.toNat tagData (BitVec.ofNat 64 v) }) s
/-- R113. TY is the index's type only, so the outcome tests all 64 bits of the result (DEDUCED, log 136). -/
def execAddr (fn : BitVec 3) (o : FormR) (s : State) : Out :=
  fireTimed o.g (fun w _ s =>
    let ty := o.ty.toNat
    let r := s.readS w o.a.toNat + (extTy ty (readTy ty (s.readS w o.b.toNat).toNat) <<< fn.toNat)
    .ok { wr := writeS o.d.toNat (s.tagOf w o.a.toNat o.b.toNat) r, outcome := r != 0
          flag := bits r.toNat 63 56 != 0 }) s

end Sys2Proof.Machine
end

