-- ==== Sys2Proof/Machine/Float.lean ====
section
/-!
DEFINITION. Floating point (R78-R82, R89): formats, exact values, one rounding per operation, the operations of the
vector and matrix units, conversions, and the events they count. Every value is exact until its one rounding.
-/

namespace Sys2Proof.Machine

/-! ## Formats and exact values -/

/-- A format: exponent bits and fraction bits (R78). -/
structure Fmt where
  eb : Nat
  mb : Nat
  deriving DecidableEq, Repr

def fmtBf16 : Fmt := ⟨8, 7⟩
def fmtF16 : Fmt := ⟨5, 10⟩
def fmtF32 : Fmt := ⟨8, 23⟩
def fmtF64 : Fmt := ⟨11, 52⟩

/-- The format of a floating TY. -/
def fmtOf (ty : Nat) : Fmt := if ty = 8 then fmtBf16 else if ty = 9 then fmtF16 else if ty = 10 then fmtF32 else fmtF64

def Fmt.width (f : Fmt) : Nat := 1 + f.eb + f.mb
def Fmt.bias (f : Fmt) : Int := (2 ^ (f.eb - 1) : Nat) - 1
/-- The exponent of the last place of subnormals. -/
def Fmt.qmin (f : Fmt) : Int := 1 - f.bias - f.mb
def Fmt.infPat (f : Fmt) : Nat := (2 ^ f.eb - 1) * 2 ^ f.mb
def Fmt.nanPat (f : Fmt) : Nat := f.infPat + 2 ^ (f.mb - 1)
def Fmt.signBit (f : Fmt) : Nat := 2 ^ (f.eb + f.mb)

/-- A decoded value: NaN (signalling or not), infinity, or (-1)^neg * m * 2^e. -/
inductive FVal where
  | nan (sig : Bool)
  | inf (neg : Bool)
  | fin (neg : Bool) (m : Nat) (e : Int)
  deriving DecidableEq, Repr

/-- The value of a pattern (R78). -/
def Fmt.decode (f : Fmt) (x : Nat) : FVal :=
  let neg := x.testBit (f.eb + f.mb)
  let ex := x / 2 ^ f.mb % 2 ^ f.eb
  let fr := x % 2 ^ f.mb
  if ex = 2 ^ f.eb - 1 then (if fr = 0 then .inf neg else .nan (decide (fr < 2 ^ (f.mb - 1))))
  else if ex = 0 then .fin neg fr f.qmin
  else .fin neg (2 ^ f.mb + fr) (f.qmin + (ex - 1 : Nat))

def FVal.isNan : FVal → Bool
  | .nan _ => true
  | _ => false

def FVal.isSig : FVal → Bool
  | .nan b => b
  | _ => false

def FVal.isZero : FVal → Bool
  | .fin _ m _ => m == 0
  | _ => false

def FVal.isNeg : FVal → Bool
  | .inf n => n
  | .fin n _ _ => n
  | .nan _ => false

def FVal.neg : FVal → FVal
  | .inf n => .inf !n
  | .fin n m e => .fin (!n) m e
  | .nan b => .nan b

/-- An exact dyadic number n * 2^e. -/
structure Dy where
  n : Int
  e : Int
  deriving DecidableEq, Repr

/-- n * 2^k for a shift that is not negative. -/
def shl (n : Int) (k : Int) : Int := n * (2 ^ k.toNat : Nat)

/-- The dyadic number with a smaller or equal exponent. -/
def Dy.at (x : Dy) (e : Int) : Int := shl x.n (x.e - e)

def Dy.add (x y : Dy) : Dy := let e := min x.e y.e; ⟨x.at e + y.at e, e⟩
def Dy.neg (x : Dy) : Dy := ⟨-x.n, x.e⟩
def Dy.sub (x y : Dy) : Dy := x.add y.neg
def Dy.mul (x y : Dy) : Dy := ⟨x.n * y.n, x.e + y.e⟩
def Dy.ofInt (n : Int) : Dy := ⟨n, 0⟩
def Dy.lt (x y : Dy) : Bool := let e := min x.e y.e; decide (x.at e < y.at e)
def Dy.le (x y : Dy) : Bool := !y.lt x
def Dy.zero : Dy := ⟨0, 0⟩
def Dy.abs (x : Dy) : Dy := ⟨x.n.natAbs, x.e⟩
def Dy.max (x y : Dy) : Dy := if x.lt y then y else x

/-- The exact value of a finite value, zero for the others. -/
def FVal.dy : FVal → Dy
  | .fin neg m e => ⟨if neg then -(m : Int) else m, e⟩
  | _ => Dy.zero

/-! ## Rounding -/

/-- The rounding functions of R81, in the order of `VCVT`'s FN. -/
inductive Rm where
  | rne | rz | ru | rd | rna
  deriving DecidableEq, Repr

/-- A rounded pattern and the events its rounding counts. -/
structure FRes where
  pat : Nat
  ev : List Nat := []
  deriving DecidableEq, Repr

def bitLen (n : Nat) : Nat := if n = 0 then 0 else n.log2 + 1

/-- A quotient rounded, from its integer part, whether it lies at, below or above the middle (0 exact, 1 below, 2 at, 3
above), and its sign. -/
def roundStep (rm : Rm) (neg : Bool) (q pos : Nat) : Nat :=
  match rm with
  | .rz => q
  | .rne => if pos = 3 ∨ (pos = 2 ∧ q % 2 = 1) then q + 1 else q
  | .rna => if 2 ≤ pos then q + 1 else q
  | .ru => if pos ≠ 0 ∧ !neg then q + 1 else q
  | .rd => if pos ≠ 0 ∧ neg then q + 1 else q

/-- m * 2^e, plus something less than one unit when `sticky`, cut at exponent q: integer part and position. -/
def cutAt (m : Nat) (e q : Int) (sticky : Bool) : Nat × Nat :=
  if q ≤ e then (m * 2 ^ (e - q).toNat, if sticky then 1 else 0)
  else
    let k := (q - e).toNat
    let rest := m % 2 ^ k
    let half := 2 ^ (k - 1)
    (m / 2 ^ k, if rest = 0 then (if sticky then 1 else 0)
                else if rest < half then 1 else if rest = half then (if sticky then 3 else 2) else 3)

/-- A magnitude m * 2^e (with something below its last bit when `sticky`) rounded into a format, with overflow and
underflow (R81, R89). -/
def Fmt.round (f : Fmt) (rm : Rm) (neg : Bool) (m : Nat) (e : Int) (sticky : Bool) : FRes :=
  let sgn := if neg then f.signBit else 0
  if m = 0 ∧ !sticky then ⟨sgn, []⟩
  else
    let q := (bitLen m : Int) + e - (f.mb + 1)
    let q' := max q f.qmin
    let (i, pos) := cutAt m e q' sticky
    let r := roundStep rm neg i pos
    let pat := r + (q' - f.qmin).toNat * 2 ^ f.mb
    if f.infPat ≤ pat then
      let big := match rm with
        | .rne | .rna => f.infPat
        | .rz => f.infPat - 1
        | .ru => if neg then f.infPat - 1 else f.infPat
        | .rd => if neg then f.infPat else f.infPat - 1
      ⟨sgn + big, evOverflow⟩
    else
      let (iu, pu) := cutAt m e q sticky
      let tiny := q < f.qmin ∧ roundStep rm neg iu pu < 2 ^ (f.mb + (f.qmin - q).toNat)
      ⟨sgn + pat, if tiny ∧ pos ≠ 0 then evUnderflow else []⟩

/-- The canonical NaN, with an invalid event or without. -/
def Fmt.nan (f : Fmt) (invalid : Bool) : FRes := ⟨f.nanPat, if invalid then evInvalid else []⟩

def Fmt.inf (f : Fmt) (neg : Bool) : Nat := f.infPat + if neg then f.signBit else 0
def Fmt.zero (f : Fmt) (neg : Bool) : Nat := if neg then f.signBit else 0

/-- A dyadic number rounded; an exact zero has the given sign. -/
def Fmt.roundDy (f : Fmt) (rm : Rm) (x : Dy) (zneg : Bool) : FRes :=
  if x.n = 0 then ⟨f.zero zneg, []⟩ else f.round rm (decide (x.n < 0)) x.n.natAbs x.e false

/-- num / den * 2^e rounded (den positive): enough quotient bits and a sticky bit. -/
def Fmt.roundQ (f : Fmt) (rm : Rm) (neg : Bool) (num den : Nat) (e : Int) : FRes :=
  if num = 0 then ⟨f.zero neg, []⟩
  else
    let k := f.mb + 4 + bitLen den
    let n := num * 2 ^ k
    f.round rm neg (n / den) (e - k) (n % den != 0)

/-- Floor of the square root, by binary digits; the fuel is the digit count. -/
def isqrtFrom : Nat → Nat → Nat → Nat
  | 0, _, r => r
  | i + 1, n, r => if (r + 2 ^ i) * (r + 2 ^ i) ≤ n then isqrtFrom i n (r + 2 ^ i) else isqrtFrom i n r

def isqrt (n : Nat) : Nat := isqrtFrom (bitLen n / 2 + 1) n 0

/-- √(num / den * 2^e) rounded, for an even e (den positive). -/
def Fmt.roundSqrt (f : Fmt) (rm : Rm) (num den : Nat) (e : Int) : FRes :=
  let k := 2 * (f.mb + 4 + bitLen den)
  let n := num * 2 ^ k
  let r := isqrt (n / den)
  f.round rm false r (e / 2 - k / 2) (r * r * den != n)

/-! ## Operations (R79, R140-R142) -/

/-- Any signalling NaN among the operands counts as invalid. -/
def sigEv (xs : List FVal) : Bool := xs.any FVal.isSig

/-- The sum of two values; `rd` decides the sign of an exact zero (R79). -/
def Fmt.addV (f : Fmt) (rm : Rm) (x y : FVal) : FRes :=
  match x, y with
  | .nan _, _ | _, .nan _ => f.nan (sigEv [x, y])
  | .inf a, .inf b => if a = b then ⟨f.inf a, []⟩ else f.nan true
  | .inf a, _ => ⟨f.inf a, []⟩
  | _, .inf b => ⟨f.inf b, []⟩
  | .fin a _ _, .fin b _ _ =>
    f.roundDy rm (x.dy.add y.dy) (if x.isZero && y.isZero then (if a = b then a else rm == .rd) else rm == .rd)

def Fmt.mulV (f : Fmt) (rm : Rm) (x y : FVal) : FRes :=
  match x, y with
  | .nan _, _ | _, .nan _ => f.nan (sigEv [x, y])
  | .inf a, _ => if y.isZero then f.nan true else ⟨f.inf (a != y.isNeg), []⟩
  | _, .inf b => if x.isZero then f.nan true else ⟨f.inf (b != x.isNeg), []⟩
  | .fin a m e, .fin b n d => f.round rm (a != b) (m * n) (e + d) false

/-- x * y + z with one rounding. -/
def Fmt.fmaV (f : Fmt) (rm : Rm) (x y z : FVal) : FRes :=
  if x.isNan || y.isNan || z.isNan then f.nan (sigEv [x, y, z])
  else
    let pneg := x.isNeg != y.isNeg
    let pinf := match x, y with
      | .inf _, _ | _, .inf _ => true
      | _, _ => false
    if pinf && (x.isZero || y.isZero) then f.nan true
    else match pinf, z with
      | true, .inf b => if pneg = b then ⟨f.inf b, []⟩ else f.nan true
      | true, _ => ⟨f.inf pneg, []⟩
      | false, .inf b => ⟨f.inf b, []⟩
      | false, _ =>
        let p := x.dy.mul y.dy
        let zn := if p.n = 0 ∧ z.isZero then (if pneg = z.isNeg then pneg else rm == .rd) else rm == .rd
        f.roundDy rm (p.add z.dy) zn

def Fmt.divV (f : Fmt) (rm : Rm) (x y : FVal) : FRes :=
  match x, y with
  | .nan _, _ | _, .nan _ => f.nan (sigEv [x, y])
  | .inf a, .inf _ => f.nan (a == a)
  | .inf a, _ => ⟨f.inf (a != y.isNeg), []⟩
  | _, .inf b => ⟨f.zero (x.isNeg != b), []⟩
  | .fin a m e, .fin b n d =>
    if n = 0 then (if m = 0 then f.nan true else ⟨f.inf (a != b), evDivZero⟩)
    else f.roundQ rm (a != b) m n (e - d)

def Fmt.sqrtV (f : Fmt) (rm : Rm) (x : FVal) : FRes :=
  match x with
  | .nan b => f.nan b
  | .inf true => f.nan true
  | .inf false => ⟨f.inf false, []⟩
  | .fin neg m e =>
    if m = 0 then ⟨f.zero neg, []⟩ else if neg then f.nan true
    else if e % 2 = 0 then f.roundSqrt rm m 1 e else f.roundSqrt rm (2 * m) 1 (e - 1)

/-- 1 / √x with one rounding. -/
def Fmt.rsqV (f : Fmt) (rm : Rm) (x : FVal) : FRes :=
  match x with
  | .nan b => f.nan b
  | .inf true => f.nan true
  | .inf false => ⟨f.zero false, []⟩
  | .fin neg m e =>
    if m = 0 then ⟨f.inf neg, evDivZero⟩ else if neg then f.nan true
    else if e % 2 = 0 then f.roundSqrt rm 1 m (-e) else f.roundSqrt rm 1 (2 * m) (-(e - 1))

/-- x < y for values that are no NaN. -/
def FVal.lt (x y : FVal) : Bool :=
  match x, y with
  | .inf a, .inf b => a && !b
  | .inf a, _ => a
  | _, .inf b => !b
  | _, _ => x.dy.lt y.dy

/-- x = y for values that are no NaN; zeros are equal. -/
def FVal.feq (x y : FVal) : Bool :=
  match x, y with
  | .inf a, .inf b => a == b
  | .inf _, _ | _, .inf _ => false
  | _, _ => !x.dy.lt y.dy && !y.dy.lt x.dy

/-! ## Conversions (R82) -/

/-- A value rounded into another format; widening is exact. -/
def Fmt.ofV (f : Fmt) (rm : Rm) (x : FVal) : FRes :=
  match x with
  | .nan b => f.nan b
  | .inf a => ⟨f.inf a, []⟩
  | .fin neg m e => f.round rm neg m e false

/-- An integer converted to a floating format. -/
def Fmt.ofInt (f : Fmt) (rm : Rm) (n : Int) : FRes := f.roundDy rm ⟨n, 0⟩ false

/-- A dyadic number rounded to an integer. -/
def Dy.toInt (rm : Rm) (x : Dy) : Int :=
  let neg := decide (x.n < 0)
  let (i, pos) := cutAt x.n.natAbs x.e 0 false
  let r := roundStep rm neg i pos
  if neg then -(r : Int) else r

/-- Floor of a dyadic number. -/
def Dy.floor (x : Dy) : Int := if 0 ≤ x.e then shl x.n x.e else x.n / (2 ^ (-x.e).toNat : Nat)

/-- A value converted to an integer type: rounded, clamped with one saturation event, NaN gives 0 and invalid. -/
def intOfV (ty : Nat) (rm : Rm) (x : FVal) : Int × List Nat :=
  match x with
  | .nan _ => (0, evInvalid)
  | .inf a => (if a then tyMin ty else tyMax ty, evSat)
  | .fin .. =>
    let n := x.dy.toInt rm
    let c := clampTy ty n
    (c, if c = n then [] else evSat)

/-- The rounding of FN. -/
def rmOf (fn : Nat) : Rm :=
  match fn with
  | 0 => .rne
  | 1 => .rz
  | 2 => .ru
  | 3 => .rd
  | _ => .rna

/-- One lane converted from a type to another (R82). -/
def convert (rm : Rm) (src dst : Nat) (x : Nat) (sat : Bool) : FRes :=
  if tyFloat src then
    let v := (fmtOf src).decode (x % 2 ^ tyWidth src)
    if tyFloat dst then (fmtOf dst).ofV rm v
    else let (n, ev) := intOfV dst rm v; ⟨pattern n (tyWidth dst), ev⟩
  else
    let n := readTy src x
    if tyFloat dst then (fmtOf dst).ofInt rm n
    else if sat then
      let c := clampTy dst n
      ⟨pattern c (tyWidth dst), if c = n then [] else evSat⟩
    else ⟨pattern n (tyWidth dst), []⟩

end Sys2Proof.Machine
end

