-- ==== Sys2Proof/Machine/Trans.lean ====
section
/-!
DEFINITION. The transcendental functions of `VTRN` (R148), exactly rounded: each is enclosed between two dyadic numbers,
with more and more bits until both ends round alike.
-/

namespace Sys2Proof.Machine

/-- An enclosure of a positive real: lo * 2^e to hi * 2^e. -/
structure Encl where
  lo : Nat
  hi : Nat
  e  : Int
  deriving DecidableEq, Repr

/-- Division rounded up. -/
def cdiv (a b : Nat) : Nat := (a + b - 1) / b

/-- Lower and upper sums of the exponential series in fixed point of p bits, for 0 ≤ r < 1; `t` is term n. -/
def expLow (p r : Nat) : Nat → Nat → Nat → Nat → Nat
  | 0, _, _, acc => acc
  | k + 1, n, t, acc => if t = 0 then acc else expLow p r k (n + 1) (t * r / 2 ^ p / (n + 1)) (acc + t)

def expHigh (p r : Nat) : Nat → Nat → Nat → Nat → Nat
  | 0, _, t, acc => acc + 2 * t + 2
  | k + 1, n, t, acc =>
    if t ≤ 1 then acc + 2 * t + 2 else expHigh p r k (n + 1) (cdiv (cdiv (t * r) (2 ^ p)) (n + 1)) (acc + t)

/-- The series of 2 * atanh(z) for 0 ≤ z ≤ 1/3, z squared in `zz`; `t` is z^(2k+1). -/
def athLow (p zz : Nat) : Nat → Nat → Nat → Nat → Nat
  | 0, _, _, acc => 2 * acc
  | k + 1, n, t, acc => if t = 0 then 2 * acc else athLow p zz k (n + 2) (t * zz / 2 ^ p) (acc + t / n)

def athHigh (p zz : Nat) : Nat → Nat → Nat → Nat → Nat
  | 0, _, t, acc => 2 * (acc + 2 * t + 2)
  | k + 1, n, t, acc =>
    if t ≤ 1 then 2 * (acc + 2 * t + 2) else athHigh p zz k (n + 2) (cdiv (t * zz) (2 ^ p)) (acc + cdiv t n)

/-- 2 * atanh(num / den) in fixed point of p bits. -/
def ath2 (p num den : Nat) : Nat × Nat :=
  let lo := num * 2 ^ p / den
  let hi := cdiv (num * 2 ^ p) den
  (athLow p (lo * lo / 2 ^ p) (2 * p) 1 lo 0, athHigh p (cdiv (hi * hi) (2 ^ p)) (2 * p) 1 hi 0)

/-- ln 2 in fixed point of p bits. -/
def ln2 (p : Nat) : Nat × Nat := ath2 p 1 3

/-- e^r for a fixed-point interval inside [0, 1). -/
def expFix (p : Nat) (r : Nat × Nat) : Nat × Nat :=
  (expLow p r.1 (2 * p) 0 (2 ^ p) 0, expHigh p r.2 (2 * p) 0 (2 ^ p) 0)

/-- The fixed-point interval of p bits of a dyadic number that is not negative. -/
def fixOf (p : Nat) (x : Dy) : Nat × Nat :=
  let e := x.e + p
  if 0 ≤ e then let v := (shl x.n e).natAbs; (v, v)
  else let v := x.n.natAbs / 2 ^ (-e).toNat; (v, v + 1)

/-- e^x for |x| < 2^12: the integer part of x / ln 2 leaves, the rest goes through the series. -/
def encExp (x : Dy) (p : Nat) : Encl :=
  let q := p + 16
  let a := fixOf q x.abs
  let l := ln2 q
  if 0 ≤ x.n then
    let k := a.1 / l.2
    let r := expFix q (a.1 - k * l.2, a.2 - k * l.1)
    ⟨r.1, r.2, k - q⟩
  else
    let k := a.2 / l.1 + 1
    let r := expFix q (k * l.1 - a.2, k * l.2 - a.1)
    ⟨r.1, r.2, -(k : Int) - q⟩

/-- 2^x: the floor of x leaves, the fraction times ln 2 goes through the series. -/
def encExp2 (x : Dy) (p : Nat) : Encl :=
  let q := p + 16
  let k := x.floor
  let f := fixOf q (x.sub (Dy.ofInt k))
  let l := ln2 q
  let r := expFix q (f.1 * l.1 / 2 ^ q, cdiv (f.2 * l.2) (2 ^ q))
  ⟨r.1, r.2, k - q⟩

/-- The sign and an enclosure of ln x, in fixed point, for x = m * 2^e: x = y * 2^k with 2/3 < y < 3/2. -/
def encLn (m : Nat) (e : Int) (p : Nat) : Bool × Encl :=
  let n := bitLen m
  let big := 3 * m ≥ 2 ^ (n + 1)
  let k : Int := e + n - (if big then 0 else 1)
  let one := 2 ^ (if big then n else n - 1)
  let l := ln2 p
  if one ≤ m then
    let a := ath2 p (m - one) (m + one)
    if 0 ≤ k then (false, ⟨k.natAbs * l.1 + a.1, k.natAbs * l.2 + a.2, -p⟩)
    else (true, ⟨k.natAbs * l.1 - a.2, k.natAbs * l.2 - a.1, -p⟩)
  else
    let a := ath2 p (one - m) (m + one)
    if 0 < k then (false, ⟨k.natAbs * l.1 - a.2, k.natAbs * l.2 - a.1, -p⟩)
    else (true, ⟨k.natAbs * l.1 + a.1, k.natAbs * l.2 + a.2, -p⟩)

/-- log2 x from ln x / ln 2. -/
def encLog2 (m : Nat) (e : Int) (p : Nat) : Bool × Encl :=
  let r := encLn m e p
  let l := ln2 p
  (r.1, ⟨r.2.lo * 2 ^ p / l.2, cdiv (r.2.hi * 2 ^ p) l.1, -p⟩)

/-- t / (1 + t) for t = e^x, x negative. -/
def encOdds (t : Encl) (p : Nat) : Encl :=
  let k := t.e.natAbs
  ⟨t.lo * 2 ^ (p + k) / (2 ^ k + t.lo) , cdiv (t.hi * 2 ^ (p + k)) (2 ^ k + t.hi), t.e - p⟩

/-- 1 / (1 + e^x), x negative. -/
def encUpper (t : Encl) (p : Nat) : Encl :=
  let k := t.e.natAbs
  ⟨2 ^ (p + k) / (2 ^ k + t.hi), cdiv (2 ^ (p + k)) (2 ^ k + t.lo), -(p : Int)⟩

/-- (1 - e^x) / (1 + e^x), x negative. -/
def encTanh (t : Encl) (p : Nat) : Encl :=
  let k := t.e.natAbs
  ⟨(2 ^ k - t.hi) * 2 ^ p / (2 ^ k + t.hi), cdiv ((2 ^ k - t.lo) * 2 ^ p) (2 ^ k + t.lo), -(p : Int)⟩

/-- An enclosure rounded, once both ends round alike; the precision doubles while they do not. The last resort is an open
value (log 13). -/
def Fmt.ziv (f : Fmt) (neg : Bool) (enc : Nat → Encl) (open_ : Nat) : Nat → Nat → FRes
  | 0, _ => f.round .rne neg open_ 0 true
  | k + 1, p =>
    let r := enc p
    let a := f.round .rne neg r.lo r.e true
    let b := f.round .rne neg r.hi r.e true
    if a = b then a else f.ziv neg enc open_ k (2 * p)

/-- A real above every finite value, and one below half the smallest, in any format. -/
def Fmt.huge (f : Fmt) : FRes := f.round .rne false 1 20000 true
def Fmt.minute (f : Fmt) (neg : Bool) : FRes := f.round .rne neg 1 (-20000) true

/-- |x| ≥ 2^k. -/
def Dy.atLeast (x : Dy) (k : Int) : Bool := x.n ≠ 0 && decide (k < (bitLen x.n.natAbs : Int) + x.e)

/-- The starting precision and the doublings of the search. -/
def Fmt.search (f : Fmt) (neg : Bool) (enc : Nat → Encl) (open_ : Nat) : FRes := f.ziv neg enc open_ 6 (f.mb + 40)

def trOpen (fn : Nat) (x : Dy) : Nat := (Config.transcendental fn 0 x.n x.e).natAbs

def Fmt.expV (f : Fmt) (x : FVal) : FRes :=
  match x with
  | .nan b => f.nan b
  | .inf n => ⟨if n then f.zero false else f.inf false, []⟩
  | .fin neg m _ =>
    if m = 0 then f.round .rne false 1 0 false
    else if x.dy.atLeast 12 then (if neg then f.minute false else f.huge)
    else f.search false (encExp x.dy) (trOpen 0 x.dy)

def Fmt.exp2V (f : Fmt) (x : FVal) : FRes :=
  match x with
  | .nan b => f.nan b
  | .inf n => ⟨if n then f.zero false else f.inf false, []⟩
  | .fin neg _ _ =>
    if x.dy.atLeast 13 then (if neg then f.minute false else f.huge)
    else if (x.dy.sub (Dy.ofInt x.dy.floor)).n = 0 then f.round .rne false 1 x.dy.floor false
    else f.search false (encExp2 x.dy) (trOpen 1 x.dy)

/-- ln and log2 share their special cases; `exact` gives the exact power of two. -/
def Fmt.logV (f : Fmt) (two : Bool) (x : FVal) : FRes :=
  match x with
  | .nan b => f.nan b
  | .inf n => if n then f.nan true else ⟨f.inf false, []⟩
  | .fin neg m e =>
    if m = 0 then ⟨f.inf true, evDivZero⟩
    else if neg then f.nan true
    else if m = 2 ^ m.log2 ∧ (two ∨ (m.log2 : Int) + e = 0) then f.roundDy .rne (Dy.ofInt (m.log2 + e)) false
    else
      let enc := if two then encLog2 m e else encLn m e
      f.search (enc (f.mb + 40)).1 (fun p => (enc p).2) (trOpen (if two then 3 else 2) x.dy)

def Fmt.tanhV (f : Fmt) (x : FVal) : FRes :=
  match x with
  | .nan b => f.nan b
  | .inf n => f.round .rne n 1 0 false
  | .fin neg m e =>
    if m = 0 then ⟨f.zero neg, []⟩
    else if !x.dy.atLeast (-(f.mb : Int) / 2 - 4) then
      f.round .rne neg (m * 2 ^ (f.mb + 8) - 1) (e - (f.mb + 8)) true
    else if x.dy.atLeast 10 then f.round .rne neg (2 ^ (f.mb + 8) - 1) (-(f.mb + 8)) true
    else f.search neg (fun p => encTanh (encExp ⟨-(m : Int), e + 1⟩ p) p) (trOpen 4 x.dy)

def Fmt.sigmV (f : Fmt) (x : FVal) : FRes :=
  match x with
  | .nan b => f.nan b
  | .inf n => if n then ⟨f.zero false, []⟩ else f.round .rne false 1 0 false
  | .fin neg m e =>
    if m = 0 then f.round .rne false 1 (-1) false
    else if x.dy.atLeast 12 then
      (if neg then f.minute false else f.round .rne false (2 ^ (f.mb + 8) - 1) (-(f.mb + 8)) true)
    else
      let t := encExp ⟨-(m : Int), e⟩
      if neg then f.search false (fun p => encOdds (t p) p) (trOpen 5 x.dy)
      else f.search false (fun p => encUpper (t p) p) (trOpen 5 x.dy)

end Sys2Proof.Machine
end

