-- ==== Sys2Proof/Machine/Vector.lean ====
section
/-!
DEFINITION. Lane-wise vector instructions and reductions (R136-R150, R153-R157, R159-R160).
-/

namespace Sys2Proof.Machine

/-! ## Lanes -/

/-- Lane j of a vector of w-bit lanes (R136). -/
def lane (w : Nat) (v : Vec) (j : Nat) : Nat := v.toNat / 2 ^ (w * j) % 2 ^ w

/-- The lanes of a vector. -/
def lanesOf (w : Nat) (v : Vec) : List Nat := tab (512 / w) fun j => lane w v j

/-- A number from w-bit lanes, lane 0 lowest. -/
def packNat (w : Nat) : List Nat → Nat
  | [] => 0
  | x :: xs => x % 2 ^ w + 2 ^ w * packNat w xs

/-- A vector from lanes; lanes not given are zero. -/
def packLanes (w : Nat) (xs : List Nat) : Vec := BitVec.ofNat 512 (packNat w xs)

/-- One lane's result, whether it sets the flag, and its events. -/
structure LaneRes where
  pat : Nat
  flag : Bool := false
  ev : List Nat := []
  deriving DecidableEq, Repr

/-- Events of several lanes added. -/
def sumEvents (xs : List (List Nat)) : List Nat := xs.foldl addCnts []

/-- A vector result from lanes of width w (R138): the outcome is true, since lanes are written. -/
def lanesDone (s : State) (w : Who) (d a b lw W : Nat) (xs : List LaneRes) : Done where
  w := W
  wr := writeV d (s.tagOf w a b) (packLanes lw (xs.map (·.pat)))
  outcome := true
  flag := xs.any (·.flag)
  ev := sumEvents (xs.map (·.ev))

/-- W of lane work at a type (R138). -/
def laneW (ty : Nat) : Nat := if tyFloat ty then 6 else 2

/-- A word of two vector sources, lane by lane at TY. -/
def vecR (o : FormR) (f : Nat → Nat → LaneRes) (s : State) : Out :=
  fireTimed o.g (fun w _ s =>
    let ty := o.ty.toNat
    let lw := tyWidth ty
    let a := s.readV w o.a.toNat
    let b := s.readV w o.b.toNat
    .ok (lanesDone s w o.d.toNat o.a.toNat o.b.toNat lw (laneW ty)
      (tab (512 / lw) fun j => f (lane lw a j) (lane lw b j)))) s

/-- The same for a word that also reads D. -/
def vecR3 (o : FormR) (W : Nat) (f : Nat → Nat → Nat → LaneRes) (s : State) : Out :=
  fireTimed o.g (fun w _ s =>
    let lw := tyWidth o.ty.toNat
    let d := s.readV w o.d.toNat
    let a := s.readV w o.a.toNat
    let b := s.readV w o.b.toNat
    .ok (lanesDone s w o.d.toNat o.a.toNat o.b.toNat lw W
      (tab (512 / lw) fun j => f (lane lw d j) (lane lw a j) (lane lw b j)))) s

/-! ## Lane operations -/

/-- A floating result as a lane. -/
def fLane (r : FRes) : LaneRes := { pat := r.pat, ev := r.ev }

/-- An exact integer reduced into a lane; the flag says it did not fit (R140). -/
def iLane (ty : Nat) (e : Int) : LaneRes := { pat := pattern e (tyWidth ty), flag := !fits ty e }

def laneAdd (ty x y : Nat) : LaneRes :=
  if tyFloat ty then let f := fmtOf ty; fLane (f.addV .rne (f.decode x) (f.decode y)) else iLane ty (readTy ty x + readTy ty y)

def laneSub (ty x y : Nat) : LaneRes :=
  if tyFloat ty then let f := fmtOf ty; fLane (f.addV .rne (f.decode x) (f.decode y).neg)
  else iLane ty (readTy ty x - readTy ty y)

def laneMul (ty x y : Nat) : LaneRes :=
  if tyFloat ty then let f := fmtOf ty; fLane (f.mulV .rne (f.decode x) (f.decode y)) else iLane ty (readTy ty x * readTy ty y)

/-- ±(x * y) ± z, fused (R140). -/
def laneFma (ty : Nat) (np nz : Bool) (z x y : Nat) : LaneRes :=
  if tyFloat ty then
    let f := fmtOf ty
    let a := f.decode x
    let c := f.decode z
    fLane (f.fmaV .rne (if np then a.neg else a) (f.decode y) (if nz then c.neg else c))
  else
    let p := readTy ty x * readTy ty y
    iLane ty ((if np then -p else p) + (if nz then -(readTy ty z) else readTy ty z))

/-- x < y in the order of R142, where -0 lies below +0. -/
def ltTotal (x y : FVal) : Bool := if x.isZero && y.isZero then x.isNeg && !y.isNeg else x.lt y

/-- The maximum or minimum of two lanes (R142); `num` prefers a number to a NaN. -/
def laneMm (ty : Nat) (big num : Bool) (x y : Nat) : LaneRes :=
  if tyFloat ty then
    let f := fmtOf ty
    let a := f.decode x
    let b := f.decode y
    let ev := if a.isSig || b.isSig then evInvalid else []
    let r := if a.isNan && b.isNan then f.nanPat
      else if a.isNan then (if num then y else f.nanPat)
      else if b.isNan then (if num then x else f.nanPat)
      else if big then (if ltTotal a b then y else x) else (if ltTotal b a then y else x)
    { pat := r, ev := ev }
  else
    let a := readTy ty x
    let b := readTy ty y
    { pat := if big then (if a < b then y else x) else (if b < a then y else x) }

/-- The sign operations of R143; `b` gives the sign for `.CSGN`. -/
def laneSgn (ty fn x b : Nat) : LaneRes :=
  if tyFloat ty then
    let f := fmtOf ty
    if (f.decode x).isNan then { pat := f.nanPat }
    else
      let m := x % f.signBit
      let neg := if fn = 0 then false else if fn = 1 then !decide (f.signBit ≤ x) else decide (f.signBit ≤ b)
      { pat := m + if neg then f.signBit else 0 }
  else
    let v := readTy ty x
    { pat := pattern (if fn = 0 then (if v < 0 then -v else v) else -v) (tyWidth ty), flag := v == tyMin ty }

/-- The relation code of R144, and whether the lanes are unordered. -/
def laneCmp (ty x y : Nat) : LaneRes :=
  if tyFloat ty then
    let f := fmtOf ty
    let a := f.decode x
    let b := f.decode y
    if a.isNan || b.isNan then { pat := 8, flag := true, ev := if a.isSig || b.isSig then evInvalid else [] }
    else { pat := if a.lt b then 1 else if a.feq b then 2 else 4 }
  else
    let a := readTy ty x
    let b := readTy ty y
    { pat := if a < b then 1 else if a = b then 2 else 4 }

/-- A shift by a signed lane (R146). -/
def laneShf (ty x y : Nat) : LaneRes :=
  let w := tyWidth ty
  let k := signed y w
  if 0 ≤ k then
    if (w : Int) ≤ k then { pat := 0, flag := x != 0 }
    else let r := shlW w x k.toNat; { pat := r.1, flag := r.2 }
  else
    let n := min (-k).toNat w
    { pat := if tySigned ty then pattern (readTy ty x / (2 ^ n : Nat)) w else x / 2 ^ n }

/-- min(max(d, a), b) (R146). -/
def laneClmp (ty d a b : Nat) : LaneRes :=
  let m := laneMm ty true false d a
  let r := laneMm ty false false m.pat b
  if tyFloat ty then { pat := r.pat, ev := if (m.ev ++ r.ev).isEmpty then [] else evInvalid }
  else { pat := r.pat, flag := r.pat != d, ev := if r.pat = d then [] else evSat }

/-! ## Meanings: arithmetic, compare, select, bitwise -/

def execVadd (o : FormR) (s : State) : Out := vecR o (laneAdd o.ty.toNat) s
def execVsub (o : FormR) (s : State) : Out := vecR o (laneSub o.ty.toNat) s
def execVmul (o : FormR) (s : State) : Out := vecR o (laneMul o.ty.toNat) s
def execVfmaFma (o : FormR) (s : State) : Out := vecR3 o (laneW o.ty.toNat) (laneFma o.ty.toNat false false) s
def execVfmaFms (o : FormR) (s : State) : Out := vecR3 o (laneW o.ty.toNat) (laneFma o.ty.toNat false true) s
def execVfmaFnma (o : FormR) (s : State) : Out := vecR3 o (laneW o.ty.toNat) (laneFma o.ty.toNat true false) s

/-- A floating unary lane function. -/
def vecF (o : FormR) (f : Fmt → FVal → FRes) (s : State) : Out :=
  vecR o (fun x _ => fLane (f (fmtOf o.ty.toNat) ((fmtOf o.ty.toNat).decode x))) s

def execVdivDiv (o : FormR) (s : State) : Out :=
  vecR o (fun x y => let f := fmtOf o.ty.toNat; fLane (f.divV .rne (f.decode x) (f.decode y))) s
def execVdivRcp (o : FormR) (s : State) : Out := vecF o (fun f x => f.divV .rne (.fin false 1 0) x) s
def execVdivRsq (o : FormR) (s : State) : Out := vecF o (fun f x => f.rsqV .rne x) s
def execVdivSqrt (o : FormR) (s : State) : Out := vecF o (fun f x => f.sqrtV .rne x) s

def execVmmxMin (o : FormR) (s : State) : Out := vecR o (laneMm o.ty.toNat false false) s
def execVmmxMax (o : FormR) (s : State) : Out := vecR o (laneMm o.ty.toNat true false) s
def execVmmxMinn (o : FormR) (s : State) : Out := vecR o (laneMm o.ty.toNat false true) s
def execVmmxMaxn (o : FormR) (s : State) : Out := vecR o (laneMm o.ty.toNat true true) s

def execVsgnAbs (o : FormR) (s : State) : Out := vecR o (laneSgn o.ty.toNat 0) s
def execVsgnNeg (o : FormR) (s : State) : Out := vecR o (laneSgn o.ty.toNat 1) s
def execVsgnCsgn (o : FormR) (s : State) : Out := vecR o (laneSgn o.ty.toNat 2) s

/-- The outcome of `VCMP` is "every lane is equal"; W is 2 (R138, R144). -/
def execVcmp (o : FormR) (s : State) : Out :=
  fireTimed o.g (fun w _ s =>
    let ty := o.ty.toNat
    let lw := tyWidth ty
    let xs := tab (512 / lw) fun j =>
      laneCmp ty (lane lw (s.readV w o.a.toNat) j) (lane lw (s.readV w o.b.toNat) j)
    .ok { lanesDone s w o.d.toNat o.a.toNat o.b.toNat lw (if tyFloat ty then 6 else 2) xs with
          outcome := xs.all fun x => x.pat == 2 }) s

def execVsel (o : FormR) (s : State) : Out := vecR3 o 2 (fun d a b => { pat := if d ≠ 0 then a else b }) s

def execVlog (o : FormR) (s : State) : Out :=
  fireTimed o.g (fun w _ s =>
    let d := s.readV w o.d.toNat
    .ok { wr := writeV o.d.toNat tagData ((d &&& s.readV w o.a.toNat) ||| (~~~d &&& s.readV w o.b.toNat))
          outcome := true }) s

def execVshf (o : FormR) (s : State) : Out := vecR o (laneShf o.ty.toNat) s
def execVclmp (o : FormR) (s : State) : Out := vecR3 o (laneW o.ty.toNat) (laneClmp o.ty.toNat) s

/-! ## Conversion and transcendentals (R147, R148) -/

/-- An event list that holds a saturation. -/
def satIn (ev : List Nat) : Bool := ev.getD 4 0 != 0

def convertR (o : FormR) (rm : Rm) (s : State) : Out :=
  fireTimed o.g (fun w _ s =>
    let dst := o.ty.toNat
    let src := o.b.toNat
    let n := min (tyLanes src) (tyLanes dst)
    let a := s.readV w o.a.toNat
    .ok (lanesDone s w o.d.toNat o.a.toNat 26 (tyWidth dst) 6 (tab n fun j =>
      let r := convert rm src dst (lane (tyWidth src) a j) false
      { pat := r.pat, flag := satIn r.ev, ev := r.ev }))) s

def execVcvtRne (o : FormR) (s : State) : Out := convertR o .rne s
def execVcvtRz (o : FormR) (s : State) : Out := convertR o .rz s
def execVcvtRu (o : FormR) (s : State) : Out := convertR o .ru s
def execVcvtRd (o : FormR) (s : State) : Out := convertR o .rd s
def execVcvtRna (o : FormR) (s : State) : Out := convertR o .rna s

def execVtrnExp (o : FormR) (s : State) : Out := vecF o Fmt.expV s
def execVtrnExp2 (o : FormR) (s : State) : Out := vecF o Fmt.exp2V s
def execVtrnLog (o : FormR) (s : State) : Out := vecF o (fun f x => f.logV false x) s
def execVtrnLog2 (o : FormR) (s : State) : Out := vecF o (fun f x => f.logV true x) s
def execVtrnTanh (o : FormR) (s : State) : Out := vecF o Fmt.tanhV s
def execVtrnSigm (o : FormR) (s : State) : Out := vecF o Fmt.sigmV s

/-! ## Reductions (R88, R149, R150, R153) -/

def FVal.isInf : FVal → Bool
  | .inf _ => true
  | _ => false

/-- A product that counts invalid: a signalling NaN operand, or ∞ times 0 (R79, R149). -/
def badProduct (p : FVal × FVal) : Bool :=
  p.1.isSig || p.2.isSig || (p.1.isInf && p.2.isZero) || (p.2.isInf && p.1.isZero)

/-- A product that is a NaN. -/
def nanProduct (p : FVal × FVal) : Bool := p.1.isNan || p.2.isNan || badProduct p

/-- An exact sum of products of values, rounded once; NaN and infinity by R79; an exact zero is -0 only when every
product is -0 (R149). -/
def Fmt.dot (f : Fmt) (ps : List (FVal × FVal)) : FRes :=
  if ps.any nanProduct then f.nan (ps.any badProduct)
  else
    let infs := (ps.filter fun p => p.1.isInf || p.2.isInf).map fun p => p.1.isNeg != p.2.isNeg
    match infs with
    | n :: rest => if rest.all fun m => m == n then ⟨f.inf n, []⟩ else f.nan true
    | [] =>
      f.roundDy .rne (ps.foldl (fun acc p => acc.add (p.1.dy.mul p.2.dy)) Dy.zero)
        (ps.all fun p => (p.1.isZero || p.2.isZero) && (p.1.isNeg != p.2.isNeg))

/-- The result type of `VDOT` (R149). -/
def dotTy (ty : Nat) : Nat := if ty < 4 then 3 else if ty < 8 then 7 else if ty = 11 then 11 else 10

/-- A scalar result pattern at a type: register value and outcome (R36, R98). -/
def patDone (s : State) (w : Who) (d a b ty W : Nat) (r : LaneRes) : Done where
  w := W
  wr := writeS d (s.tagOf w a b) (extTy ty (readTy ty r.pat))
  outcome := if tyFloat ty then r.pat % 2 ^ (tyWidth ty - 1) != 0 else r.pat % 2 ^ tyWidth ty != 0
  flag := r.flag
  ev := r.ev

/-- A lane whose product is invalid counts one event; the sum counts one (R138, R149). -/
def execVdot (o : FormR) (s : State) : Out :=
  fireTimed o.g (fun w _ s =>
    let ty := o.ty.toNat
    let lw := tyWidth ty
    let a := lanesOf lw (s.readV w o.a.toNat)
    let b := lanesOf lw (s.readV w o.b.toNat)
    let r : LaneRes :=
      if tyFloat ty then
        let f := fmtOf ty
        let ps := (a.zip b).map fun p => (f.decode p.1, f.decode p.2)
        let r := fLane ((fmtOf (dotTy ty)).dot ps)
        if ps.any nanProduct then { r with ev := event 1 (ps.countP badProduct) } else r
      else { pat := pattern ((a.zip b).foldl (fun acc p => acc + readTy ty p.1 * readTy ty p.2) 0) 64 }
    .ok (patDone s w o.d.toNat o.a.toNat o.b.toNat (dotTy ty) 6 r)) s

/-- One level of the tree of R88: neighbours combined. -/
def pairUp (f : LaneRes → LaneRes → LaneRes) : List LaneRes → List LaneRes
  | x :: y :: l => f x y :: pairUp f l
  | l => l

/-- The tree of R88; the fuel is the number of levels. -/
def treeOf (f : LaneRes → LaneRes → LaneRes) : Nat → List LaneRes → LaneRes
  | 0, l => l.headD { pat := 0 }
  | n + 1, l => if l.length ≤ 1 then l.headD { pat := 0 } else treeOf f n (pairUp f l)

/-- `VRED`: bf16 and f16 lanes run in f32; the flag is false (R138, R150). -/
def reduceR (o : FormR) (op : Nat → Nat → Nat → LaneRes) (s : State) : Out :=
  fireTimed o.g (fun w _ s =>
    let ty := o.ty.toNat
    let rt := if ty = 8 ∨ ty = 9 then 10 else ty
    let lanes := (lanesOf (tyWidth ty) (s.readV w o.a.toNat)).map fun x =>
      if rt = ty then { pat := x : LaneRes } else fLane (fmtF32.ofV .rne ((fmtOf ty).decode x))
    let r := treeOf (fun x y =>
      let z := op rt x.pat y.pat
      { pat := z.pat, ev := addCnts (addCnts x.ev y.ev) z.ev }) 10 lanes
    .ok (patDone s w o.d.toNat o.a.toNat 26 rt 4 r)) s

def execVredSum (o : FormR) (s : State) : Out := reduceR o laneAdd s
def execVredMax (o : FormR) (s : State) : Out := reduceR o (fun ty => laneMm ty true false) s
def execVredMin (o : FormR) (s : State) : Out := reduceR o (fun ty => laneMm ty false false) s
def execVredAnd (o : FormR) (s : State) : Out := reduceR o (fun _ x y => { pat := x &&& y }) s
def execVredOr (o : FormR) (s : State) : Out := reduceR o (fun _ x y => { pat := x ||| y }) s

/-- The identity of a maximum or minimum at a type. -/
def identMax (ty : Nat) : Nat := if tyFloat ty then (fmtOf ty).inf true else pattern (tyMin ty) (tyWidth ty)
def identMin (ty : Nat) : Nat := if tyFloat ty then (fmtOf ty).inf false else pattern (tyMax ty) (tyWidth ty)

/-- The loop of R153 over lanes and head bits; `run` and its events. -/
def scanLanes (op : Nat → Nat → LaneRes) (ident : Nat) (excl : Bool) : List (Nat × Bool) → Nat → List LaneRes
  | [], _ => []
  | (x, h) :: l, run =>
    let r0 := if h then ident else run
    let r := op r0 x
    { pat := if excl then r0 else r.pat, ev := r.ev : LaneRes } :: scanLanes op ident excl l r.pat

def scanR (o : FormR) (op : Nat → Nat → Nat → LaneRes) (ident : Nat → Nat) (excl : Bool) (s : State) : Out :=
  fireTimed o.g (fun w _ s =>
    let ty := o.ty.toNat
    let lw := tyWidth ty
    let b := (s.readV w o.b.toNat).toNat
    let xs := (lanesOf lw (s.readV w o.a.toNat)).mapIdx fun j x => (x, j == 0 || bitAt b j)
    let rs := (scanLanes (op ty) (ident ty) excl xs (ident ty)).map fun r => { r with flag := false }
    .ok (lanesDone s w o.d.toNat o.a.toNat o.b.toNat lw 4 rs)) s

def execVscanIsum (o : FormR) (s : State) : Out := scanR o laneAdd (fun _ => 0) false s
def execVscanXsum (o : FormR) (s : State) : Out := scanR o laneAdd (fun _ => 0) true s
def execVscanImax (o : FormR) (s : State) : Out := scanR o (fun ty => laneMm ty true false) identMax false s

/-! ## Lane movement (R154, R155) -/

/-- A vector whose lane j is a chosen lane of A, from A, B's lanes and B's scalar. -/
def permR (o : FormR) (f : Nat → List Nat → List Nat → Nat → Nat → LaneRes) (s : State) : Out :=
  fireTimed o.g (fun w _ s =>
    let lw := tyWidth o.ty.toNat
    let a := lanesOf lw (s.readV w o.a.toNat)
    let b := lanesOf lw (s.readV w o.b.toNat)
    let k := (s.readS w o.b.toNat).toNat
    .ok (lanesDone s w o.d.toNat o.a.toNat o.b.toNat lw 2 (tab (512 / lw) (f (512 / lw) a b k)))) s

def execVprmIdx (o : FormR) (s : State) : Out :=
  permR o (fun L a b _ j => { pat := a.getD (b.getD j 0) 0, flag := decide (L ≤ b.getD j 0) }) s
def execVprmRot (o : FormR) (s : State) : Out := permR o (fun L a _ k j => { pat := a.getD ((j + k % L) % L) 0 }) s
def execVprmBcl (o : FormR) (s : State) : Out := permR o (fun L a _ k _ => { pat := a.getD (k % L) 0 }) s
def execVprmPair (o : FormR) (s : State) : Out :=
  permR o (fun _ a b _ j => { pat := if j % 2 = 0 then a.getD (j / 2) 0 else b.getD ((j - 1) / 2) 0 }) s

def execVinsIns (o : FormR) (s : State) : Out :=
  fireTimed o.g (fun w _ s =>
    let lw := tyWidth o.ty.toNat
    let k := (s.readS w o.b.toNat).toNat
    let d := lanesOf lw (s.readV w o.d.toNat)
    let ok := decide (k < d.length)
    .ok { wr := writeV o.d.toNat tagData (packLanes lw (d.set k ((s.readS w o.a.toNat).toNat % 2 ^ lw)))
          outcome := ok, flag := !ok }) s

def execVinsExt (o : FormR) (s : State) : Out :=
  fireTimed o.g (fun w _ s =>
    let ty := o.ty.toNat
    let lw := tyWidth ty
    let k := (s.readS w o.b.toNat).toNat
    let a := lanesOf lw (s.readV w o.a.toNat)
    .ok (patDone s w o.d.toNat o.a.toNat o.b.toNat ty 2 { pat := a.getD k 0, flag := decide (a.length ≤ k) })) s

def execViota (o : FormR) (s : State) : Out :=
  fireTimed o.g (fun w _ s =>
    let lw := tyWidth o.ty.toNat
    let a := (s.readS w o.a.toNat).toNat
    let b := (s.readS w o.b.toNat).toNat
    .ok (lanesDone s w o.d.toNat o.a.toNat o.b.toNat lw 2 (tab (512 / lw) fun j => { pat := (a + j * b) % 2 ^ lw }))) s

/-! ## Quantisation and bit planes (R156, R157) -/

/-- The product of two values as one value, exact; NaN for an invalid one, signalling where either operand is. -/
def mulX (x y : FVal) : FVal :=
  match x, y with
  | .nan _, _ | _, .nan _ => .nan (sigEv [x, y])
  | .inf a, _ => if y.isZero then .nan true else .inf (a != y.isNeg)
  | _, .inf b => if x.isZero then .nan true else .inf (b != x.isNeg)
  | .fin a m e, .fin b n d => .fin (a != b) (m * n) (e + d)

def execVqnt (o : FormR) (s : State) : Out :=
  fireTimed o.g (fun w _ s =>
    let ty := o.ty.toNat
    let sc := fmtF32.decode ((s.readS w o.b.toNat).toNat % 2 ^ 32)
    let a := s.readV w o.a.toNat
    .ok (lanesDone s w o.d.toNat o.a.toNat o.b.toNat (tyWidth ty) 6 (tab 16 fun j =>
      let r := intOfV ty .rne (mulX (fmtF32.decode (lane 32 a j)) sc)
      { pat := pattern r.1 (tyWidth ty), flag := satIn r.2, ev := r.2 }))) s

def execVdq (o : FormR) (s : State) : Out :=
  fireTimed o.g (fun w _ s =>
    let ty := o.ty.toNat
    let sc := fmtF32.decode ((s.readS w o.b.toNat).toNat % 2 ^ 32)
    let a := s.readV w o.a.toNat
    .ok (lanesDone s w o.d.toNat o.a.toNat o.b.toNat 32 6 (tab 16 fun j =>
      let n := readTy ty (lane (tyWidth ty) a j)
      fLane (fmtF32.mulV .rne (.fin (decide (n < 0)) n.natAbs 0) sc)))) s

/-- Plane word k of a block of n planes: bit i is bit n - 1 - k of element i (R83). -/
def planeWord (n k : Nat) (els : List Int) : Nat :=
  packNat 1 (els.map fun v => pattern v n / 2 ^ (n - 1 - k) % 2)

/-- The value of element i from the first m of n plane words: floor(v / 2^(n-m)) (R84). -/
def planeValue (m : Nat) (words : List Nat) (i : Nat) : Int :=
  signed ((List.range m).foldl (fun acc k => acc + words.getD k 0 / 2 ^ i % 2 * 2 ^ (m - 1 - k)) 0) m

def planesFault (b : Nat) : FaultInfo := { cls := clsRange, code := 0x011, opnd := b }

def execBppk (o : FormR) (s : State) : Out :=
  fireTimed o.g (fun w _ s =>
    let b := (s.readS w o.b.toNat).toNat
    let n := b % 256
    if n < 2 ∨ 8 < n then .error (planesFault b)
    else
      let els := (lanesOf 8 (s.readV w o.a.toNat)).map fun x => signed x 8
      let lim : Int := (2 ^ (n - 1) : Nat)
      let cl := els.map fun v => max (-lim) (min (lim - 1) v)
      let sat := (els.zip cl).countP fun p => p.1 != p.2
      let words := tab 16 fun j => if j % 8 < n then planeWord n (j % 8) ((cl.drop (32 * (j / 8))).take 32) else 0
      .ok { wr := writeV o.d.toNat (s.tagOf w o.a.toNat o.b.toNat) (packLanes 32 words)
            outcome := true, flag := sat != 0, ev := event 5 sat }) s

def execBpun (o : FormR) (s : State) : Out :=
  fireTimed o.g (fun w _ s =>
    let b := (s.readS w o.b.toNat).toNat
    let n := b % 256
    let m := bits b 15 8
    if n < 2 ∨ 8 < n ∨ m < 1 ∨ n < m then .error (planesFault b)
    else
      let ws := lanesOf 32 (s.readV w o.a.toNat)
      let out := tab 64 fun j => pattern (planeValue m ((ws.drop (8 * (j / 32))).take 8) (j % 32)) 8
      .ok { wr := writeV o.d.toNat (s.tagOf w o.a.toNat o.b.toNat) (packLanes 8 out), outcome := true }) s

/-! ## Normalisation of a row (R159) -/

/-- x - y as one exact value, with the sign of zero of RNE. -/
def subX (x y : FVal) : FVal :=
  match x, y with
  | .nan _, _ | _, .nan _ => .nan (sigEv [x, y])
  | .inf a, .inf b => if a = b then .nan true else .inf a
  | .inf a, _ => .inf a
  | _, .inf b => .inf !b
  | .fin a _ _, .fin b _ _ =>
    let d := x.dy.sub y.dy
    if d.n = 0 then .fin (x.isZero && y.isZero && a && !b) 0 0 else .fin (decide (d.n < 0)) d.n.natAbs d.e

/-- VL of a `VNRM.STAT` result: an integer 1 to L, else L. -/
def vlOf (x : FVal) (L : Nat) : Nat :=
  match x with
  | .fin false _ _ =>
    let n := x.dy.floor.toNat
    if x.feq (.fin false n 0) && decide (1 ≤ n) && decide (n ≤ L) then n else L
  | _ => L

def execVnrmApply (o : FormR) (s : State) : Out :=
  fireTimed o.g (fun w _ s =>
    let ty := o.ty.toNat
    let f := fmtOf ty
    let lw := tyWidth ty
    let b := s.readV w o.b.toNat
    let m := fmtF32.decode (lane 32 b 0)
    let r := fmtF32.decode (lane 32 b 1)
    let a := s.readV w o.a.toNat
    .ok (lanesDone s w o.d.toNat o.a.toNat o.b.toNat lw 6 (tab (vlOf (fmtF32.decode (lane 32 b 3)) (512 / lw)) fun j =>
      let x := f.decode (lane lw a j)
      let res := f.ofV .rne (mulX (subX x m) r)
      let anyNan := x.isNan || m.isNan || r.isNan
      { pat := res.pat
        ev := if anyNan then (if x.isSig || m.isSig || r.isSig then evInvalid else []) else res.ev }))) s

/-! ## Bitmaps (R160) -/

def execVbmpExpd (o : FormR) (s : State) : Out :=
  fireTimed o.g (fun w _ s =>
    let lw := tyWidth o.ty.toNat
    let k := (s.readS w o.b.toNat).toNat
    let a := (s.readV w o.a.toNat).toNat
    .ok (lanesDone s w o.d.toNat o.a.toNat o.b.toNat lw 2 (tab (512 / lw) fun j =>
      { pat := if k + j < 512 ∧ bitAt a (k + j) then 2 ^ lw - 1 else 0 }))) s

def execVbmpCnt (o : FormR) (s : State) : Out :=
  fireTimed o.g (fun w _ s =>
    let n := popcount 512 (s.readV w o.a.toNat).toNat
    .ok { wr := writeS o.d.toNat (s.tagOf w o.a.toNat 26) (BitVec.ofNat 64 n), outcome := n != 0 }) s

def execVbmpSetb (o : FormR) (s : State) : Out :=
  fireTimed o.g (fun w _ s =>
    let lw := tyWidth o.ty.toNat
    let L := 512 / lw
    let n := (s.readS w o.b.toNat).toNat
    let n := if n = 0 ∨ L < n then L else n
    let ix := (lanesOf lw (s.readV w o.a.toNat)).take n
    let ok := ix.filter fun i => decide (i < 512)
    .ok { wr := writeV o.d.toNat tagData (ok.foldl (fun v i => v ||| (1#512 <<< i)) (s.readV w o.d.toNat))
          outcome := !ok.isEmpty, flag := ok.length != ix.length }) s

end Sys2Proof.Machine
end

