-- ==== Sys2Proof/Machine/Memory.lean ====
section
/-!
DEFINITION. Memory requests (R217-R219, R241-R245, R262, R263, R313-R316, R398): what a load reads and a store writes with
escrow, signatures, poison and undo logs; how an access is translated, checked, queued and served; the parts of each
memory instruction; and when an instruction may be issued.
-/

namespace Sys2Proof.Machine

/-- A step put in front of those still to come in this fc. -/
def State.now (s : State) (i : Instr) : State := { s with agenda := i :: s.agenda }

/-! ## Order inside a context (R245, R258, R203) -/

def isFenceOp (x : Word) : Bool := opcOf x == 0x71

/-- `LD.ACQ`, `TILL.WAIT`, `GRP.WAIT`, `GRP.BAR`, `SHBIND`, `NMC.FENCE` (R245, R251, R257, R203, R387), and `SYS.TLBI`, behind
which the context's later accesses stand (R388; log 116). -/
def isAcquireOp (x : Word) : Bool :=
  match opcOf x with
  | 0x58 => fnOf x == 1
  | 0x62 => fnOf x == 2
  | 0x70 => fnOf x == 3 || fnOf x == 4
  | 0x50 => true
  | 0x7C => fnOf x == 1
  | 0x7F => fnOf x == 7
  | _ => false

/-- `ST.REL`, `VST.REL`, `TILL.APP`, `TILL.ADV`, `GRP.LEAVE`, `GRP.ARRIVE`, `GRP.BAR`, `TASK.LNCH`, `NMC.ISSUE`,
`CPY` issues, `LINK.TURN`, `SYS.PGSV` (R382). -/
def isReleaseOp (x : Word) : Bool :=
  match opcOf x with
  | 0x59 => fnOf x == 1
  | 0x5B => fnOf x == 2
  | 0x62 => fnOf x == 0 || fnOf x == 3
  | 0x70 => fnOf x == 1 || fnOf x == 2 || fnOf x == 4
  | 0x79 | 0x7C | 0x6D => fnOf x == 0
  | 0x7B => decide (fnOf x < 3)
  | 0x7F => fnOf x == 5
  | _ => false

/-- Words whose accesses a fence or a release waits for (R258; log 21). -/
def isMemOp (x : Word) : Bool :=
  let o := opcOf x
  o == 0x43 || o == 0x50 || (0x58 ≤ o && o ≤ 0x5C) || (0x5E ≤ o && o ≤ 0x60) || (0x62 ≤ o && o ≤ 0x64) ||
  (0x68 ≤ o && o ≤ 0x6C) || (0x74 ≤ o && o ≤ 0x77)

/-- Earlier outstanding instructions of a flight's context. -/
def State.earlier (s : State) (f : Flight) : List Flight :=
  s.flights.filter fun g => decide (g.fid < f.fid) && g.who.sameCtx f.who

/-- An ordered region has issued a tile, to which an element's access can belong: before, its accesses wait (R312, R317; DEDUCED
from Example 1 of R321, log 135). -/
def State.tileGiven (s : State) (f : Flight) : Bool :=
  !f.who.isElem || ((s.regionOf f.who.page).map fun r => !r.ordered || r.issued != []).getD true

/-- An ordered element's tile has been given, no earlier fence or acquire is outstanding, and for a release no earlier memory
operation. -/
def State.mayIssue (s : State) (f : Flight) : Bool :=
  s.tileGiven f && (s.earlier f).all fun g => !isFenceOp g.word && !isAcquireOp g.word && (!isReleaseOp f.word || !isMemOp g.word)

/-- The accesses of an outstanding instruction that are not performed yet: address, bytes, and whether they have been issued;
the rows of a `LDR` still to be asked for, or the parts of its plan that have not come back. A `ZST` is a command of its
tenant's queue, which nothing orders against its element's accesses (R381). -/
def Flight.pending (f : Flight) : List (Nat × Nat × Bool) :=
  match opcOf f.word with
  | 0x43 => []
  | 0x60 => match f.cap with
    | some (h, _, _, _) =>
      let row := f.aux.getD 1 0
      if h.rows ≤ row then [] else [(f.sa.toNat + row * h.pitch / 8, (h.rows - row) * (h.pitch / 8 + 1), false)]
    | none => []
  | _ => (f.plan.mapIdx fun n (p : Part) => (n, p)).filterMap fun x =>
    if (alGet x.1 f.got).isSome then none else some (x.2.va, x.2.len, decide (x.1 < f.stage))

/-- An instruction that later tokens of its context wait for: a release, or a fence of page scope or wider (R265). -/
def Flight.publishes (g : Flight) : Bool := isReleaseOp g.word || isFenceOp g.word && decide (1 ≤ fnOf g.word)

/-- A context with a fence of page scope or a release still outstanding holds back the tokens of later firings (R265). -/
def State.mayPublish (s : State) (f : Flight) : Bool :=
  (f.wr.out = [] ∧ f.wr.sig = []) || (s.earlier f).all fun g => !g.publishes

/-- The markers of an element's last marker word wait likewise (R265). -/
def State.markHeld (s : State) (pg pe : Nat) (e : Pe) : Bool :=
  match e.markBy with
  | none => false
  | some (cx, n) => s.flights.any fun g => decide (g.fid < n) && g.who.sameCtx (.elem pg pe cx 0) && g.publishes

/-! ## Live tile-tasks and escrow (R312-R316) -/

def Region.tt? (r : Region) (ix : Nat) : Option TileTask := r.tts.find? fun t => t.ix = ix

def Region.modTt (r : Region) (ix : Nat) (f : TileTask → TileTask) : Region :=
  { r with tts := r.tts.map fun t => if t.ix = ix then f t else t }

/-- The tile-task an ordered access belongs to, with its region. -/
def State.ttLive (s : State) (tt : Option (Nat × Nat)) : Option (Region × TileTask) :=
  tt.bind fun (rg, ix) => (s.region? rg).bind fun r => if r.ordered then (r.tt? ix).map fun t => (r, t) else none

/-- A tile-task is cancelled: its task is (R321). -/
def State.cancelled (s : State) (r : Region) : Bool := ((s.taskOfRegion r).map (·.cancelled)).getD false

/-- A tile-task is live no more; completed ones are counted (R341). -/
def Region.endTt (r : Region) (ix : Nat) (done : Bool) : Region :=
  { r with tts := r.tts.filter fun t => t.ix != ix, completed := if done then r.completed + 1 else r.completed }

/-- An issued tile-task stops at a full reserve: STALLED, or DOOMED at once behind an older one of its region that is; one
of a cancelled task, which can come to no boundary any more, is CANCELLED (R315, R321; log 74). -/
def State.stallTile (s : State) (r : Region) (ix : Nat) : State :=
  if s.cancelled r then s.modRegion r.key fun r => r.endTt ix false
  else if r.tts.any fun x => x.st == .doomed && decide (x.ix < ix) then
    s.modRegion r.key fun r => r.modTt ix fun t => { t with st := .doomed, lines := [] }
  else s.modRegion r.key fun r => r.modTt ix fun t => { t with st := .stalled }

/-- The access belongs to an ordered task (R311). -/
def State.ttOrdered (s : State) (tt : Option (Nat × Nat)) : Bool :=
  match tt.bind fun (rg, _) => s.region? rg with
  | some r => r.ordered
  | none => false

/-- The commit key (TS, LSEQ) of a tile-task (R311). -/
def Region.key2 (r : Region) (ix : Nat) : Nat × Nat := (r.ts + ix, r.lseq)

def keyLt (x y : Nat × Nat) : Bool := decide (x.1 < y.1) || (x.1 == y.1 && decide (x.2 < y.2))

/-- The two signature bits of a line (R314). -/
def sigBits (pa : Nat) : Nat :=
  2 ^ bits pa 16 6 ||| 2 ^ (bits pa 27 17 ^^^ bits pa 38 28)

/-- A line hits a signature (R314). -/
def sigHit (sig pa : Nat) : Bool := sig &&& sigBits pa == sigBits pa

/-- Every live ordered tile-task of the partition with a larger key whose signature a written line hits is doomed, its
escrow discarded; so is a stalled one of a region one of whose older tile-tasks is doomed (R315, R316). -/
def State.doomLine (s : State) (ptn : Nat) (key : Nat × Nat) (pa : Nat) : State :=
  let hit (r : Region) (t : TileTask) : Bool :=
    (t.st == .issued || t.st == .sealed || t.st == .stalled) && keyLt key (r.key2 t.ix) && sigHit t.sig pa
  { s with regions := s.regions.map fun (k, r) =>
      if r.ptn = ptn ∧ r.ordered then
        let gone := (r.tts.filter (hit r)).map (·.ix)
        (k, { r with tts := r.tts.map fun t =>
          if (hit r t || (t.st == .stalled && gone.any fun i => decide (i < t.ix))) then { t with st := .doomed, lines := [] }
          else t })
      else (k, r) }

/-- Escrow lines a region holds. -/
def Region.lineCount (r : Region) : Nat := r.tts.foldl (fun n t => n + t.lines.length) 0

/-- The byte a tile-task's own escrow holds for an address, newest interval first (R314). -/
def TileTask.byteAt (t : TileTask) (k : Nat) : Option Byte :=
  (t.lines.reverse.find? fun l => l.pa = k / 64 * 64 ∧ l.mask.getD (k % 64) false).map fun l => l.bytes.getD (k % 64) 0

/-- Escrow lines with bytes of one block written. -/
def escrowPut (pa ival : Nat) (mask : List Bool) (bs : List Byte) : List EscLine → List EscLine
  | [] => [⟨pa, mask, bs, ival⟩]
  | l :: ls =>
    if l.pa = pa ∧ l.ival = ival then
      { l with mask := tab 64 fun i => mask.getD i false || l.mask.getD i false
               bytes := tab 64 fun i => if mask.getD i false then bs.getD i 0 else l.bytes.getD i 0 } :: ls
    else l :: escrowPut pa ival mask bs ls

/-! ## Reading and writing through the memory model -/

/-- A load of bytes inside one page: own escrow first, then committed memory, which enters the read signature of an ORD
page's reader (R314); the first poisoned block that memory is read from otherwise (R239). A performed store is seen by
every later load: memory is the one store of the device, and nothing caches it (R262). -/
def State.load (s : State) (tt : Option (Nat × Nat)) (leaf k n : Nat) : Except Nat (List Byte × State) :=
  match (s.ttLive tt).filter fun _ => decide (k < vaultKey) with
  | none => match s.poisonIn k n with
    | some b => .error b
    | none => .ok (memRead s.mem k n, s)
  | some (r, t) =>
    let fromMem := (List.range n).filter fun i => (t.byteAt (k + i)).isNone
    match fromMem.find? fun i => s.poisoned (k + i) with
    | some i => .error ((k + i) / 64 * 64)
    | none =>
      let bs := tab n fun i => (t.byteAt (k + i)).getD (memGet (k + i) s.mem)
      if leafOrd leaf then
        let sig := fromMem.foldl (fun a i => a ||| sigBits (k + i)) t.sig
        .ok (bs, s.modRegion r.key fun r => r.modTt t.ix fun t => { t with sig := sig })
      else .ok (bs, s)

/-- What a store comes to. -/
inductive Stored where
  | ok (s : State)
  /-- a partial store to a poisoned block: nothing is written (R239) -/
  | poison (k : Nat)
  /-- the region's reserve or the ME's undo log is full: the store waits (R315, R398) -/
  | wait (s : State)

/-- Bytes merged under bit masks (R225). -/
def mergeBits (old new mask : List Byte) : List Byte :=
  tab new.length fun i => (old.getD i 0 &&& ~~~(mask.getD i 0xFF)) ||| (new.getD i 0 &&& mask.getD i 0xFF)

/-- The 64-byte unit a vault write changes enters the ME's undo log in a rollback-enabled region (R398). -/
def State.logUndo (s : State) (port : Port) (ival k : Nat) : Option State :=
  match port with
  | .tel _ => some s
  | .me pg me =>
    if k < vaultKey ∨ !((s.regionOf pg).map (·.rollback)).getD false then some s
    else if 910 ≤ ((s.me? pg me).map fun m => m.undo.length).getD 0 then none
    else some (s.modMe pg me fun m => { m with undo := (ival, s.fc, k / 64 * 64, memRead s.mem (k / 64 * 64) 64) :: m.undo })

/-- A direct write of bytes inside one 64-byte unit. -/
def State.writeDirect (s : State) (port : Port) (ival k : Nat) (bs mask : List Byte) : Stored :=
  let whole := k % 64 == 0 && bs.length == 64 && mask.all (· == 0xFF)
  if s.poisoned k ∧ !whole then .poison (k / 64 * 64)
  else match s.logUndo port ival k with
    | none => .wait s
    | some s => .ok (s.store k (mergeBits (memRead s.mem k bs.length) bs mask))

/-- The tile-task's task is cancelled (R321). -/
def State.ttCancelled (s : State) (tt : Option (Nat × Nat)) : Bool :=
  ((tt.bind fun x => s.region? x.1).bind fun r => s.task? r.ptn r.lseq).any (·.cancelled)

/-- Every byte of a block stands in a tile-task's own escrow. -/
def TileTask.holdsBlock (t : TileTask) (pa : Nat) : Bool := (List.range 64).all fun i => (t.byteAt (pa + i)).isSome

/-- A store of bytes inside one 64-byte unit, by the state of its tile-task (R311, R313, R315); of a cancelled task's
nothing is written (R321), and a part of a poisoned block takes none unless its own escrow holds the block whole (R239). -/
def State.write (s : State) (port : Port) (tt : Option (Nat × Nat)) (ival leaf k : Nat) (bs mask : List Byte) : Stored :=
  if k < vaultKey ∧ leafOrd leaf then
    match s.ttLive tt with
    | none => if s.ttOrdered tt && s.ttCancelled tt then .ok s else s.writeDirect port ival k bs mask
    | some (r, t) =>
      match t.st with
      | .issued =>
        let pa := k / 64 * 64
        let fresh := !(t.lines.any fun l => l.pa == pa && l.ival == ival)
        let whole := k % 64 == 0 && bs.length == 64 && mask.all (· == 0xFF)
        if s.poisoned k ∧ !whole ∧ !t.holdsBlock pa then .poison pa
        else if fresh ∧ r.escCap ≤ r.lineCount then .wait (s.now (.escrowReserveStall r.key t.ix))
        else
          let old := tab bs.length fun i => (t.byteAt (k + i)).getD (memGet (k + i) s.mem)
          let new := mergeBits old bs mask
          let m := tab 64 fun i => decide (k % 64 ≤ i) && decide (i < k % 64 + bs.length) &&
            mask.getD (i - k % 64) 0xFF != 0
          let b := tab 64 fun i => new.getD (i - k % 64) 0
          .ok (s.modRegion r.key fun r => r.modTt t.ix fun t => { t with lines := escrowPut pa ival m b t.lines })
      | .doomed | .cancelled => .ok s
      | .writethru => match s.writeDirect port ival k bs mask with
        | .ok s => .ok (s.doomLine r.ptn (r.key2 t.ix) k)
        | x => x
      | .committed => s.writeDirect port ival k bs mask
      | .sealed | .stalled => .wait s
  else s.writeDirect port ival k bs mask

/-! ## Faults of units and of flights -/

/-- An ME raises a fault and withholds (R224, R228, R240). -/
def State.raiseMe (s : State) (pg si : Nat) (f : FaultInfo) : State :=
  let o := s.originPage pg 1 (16 + si / 4)
  let iv := ((s.stream? pg si).map (·.ival)).getD 0
  (s.mail { o with intv := iv } f 0).modMe pg (si / 4) fun m => { m with withheld := true }

/-- The tenant whose queue holds an outstanding instruction: page, tenant and entry. -/
def State.tenOf (s : State) (f : Flight) : Option (Nat × Nat × ZEnt) :=
  match f.who with
  | .tel .. => none
  | .elem pg _ _ _ => (List.range 2).findSome? fun i => match s.ten? pg i with
    | some t => (t.q.find? fun z => z.fid = f.fid).map fun z => (pg, i, z)
    | none => none

/-- A fault in a tenant's fault domain (R187, R392, R394): the record names the tenant, the driver slot and the entry; the
driver withholds and the entries behind wait. Bytes 8-15 of OPND hold the value a rule names (log 26). -/
def State.tenFault (s : State) (f : Flight) (e : FaultInfo) : State :=
  match s.tenOf f, f.who with
  | some (pg, i, z), .elem _ pe cx slot =>
    let o := { s.originPage pg 2 (20 + i) with
      async := true, queue := 4 + i, qseq := z.seq % 2 ^ 32, slotcx := slot + 16 * cx, ts := s.tsOf f.tt
      intv := ((s.ten? pg i).map (·.ival)).getD 0 }
    let s := s.mailBytes o e (leBytes 8 f.word.toNat ++ leBytes 8 e.opnd ++ leBytes 8 f.va.toNat ++ leBytes 8 f.vb.toNat)
    let s := (s.dropFlight f.fid).modTen pg i fun t =>
      { t with q := t.q.filter fun x => x.fid != f.fid
               run := t.run.filter fun x => x.fid != f.fid
               ctr := t.ctr.modify 4 (· + 1), withheld := true }
    let s := s.modPage pg fun p => f.holds.foldl (fun p r => match r with
      | .out n => p.release (epPe pe n)
      | _ => p) p
    s.modCtx pg pe cx fun c => { c with withheld := true }
  | _, _ => s.raiseFlight f e

/-- The operand of an access's fault (R242): the effective address, of a gather or scatter the lane's (R247), of a word that
reads a record the record's address; `va` where the address is the access's own. -/
def Flight.faultVa (f : Flight) (va : Nat) : Nat :=
  match opcOf f.word with
  | 0x5A => (f.sa + f.sb).toNat
  | 0x5B => if fnOf f.word = 1 then f.sa.toNat else (f.sa + f.sb).toNat
  | 0x50 | 0x5C | 0x62 | 0x63 | 0x64 | 0x79 | 0x7B | 0x7C => f.sa.toNat
  | 0x78 => if fnOf f.word = 1 then f.sb.toNat else f.sa.toNat
  | _ => va

/-- A fault of one of its accesses, with the operand it is recorded with. -/
def FaultInfo.at_ (e : FaultInfo) (f : Flight) : FaultInfo := { e with opnd := f.faultVa e.opnd }

/-- A fault found for an outstanding instruction: at once for an element and before a teller's word is accepted, as a
late trap afterwards (R392, R419). -/
def State.flightFault (s : State) (f : Flight) (e : FaultInfo) : State :=
  match f.who with
  | .elem .. => s.tenFault f e
  | .tel .. =>
    if f.accepted then
      (s.modFlight f.fid fun f => { f with late := some (e.cause, e.detail, e.opnd) }).now (.lateTrap f.fid)
    else s.raiseFlight f e

/-- A teller's word is accepted (R419): its context may issue again, 2 fc after the word fired at the earliest. -/
def State.accept (s : State) (f : Flight) : State :=
  match f.who with
  | .elem .. => s
  | .tel t cx _ =>
    if f.accepted then s
    else (s.modFlight f.fid fun f => { f with accepted := true }).modTctx t cx fun c =>
      { c with wait := none, after := max c.after (f.born + 2) }

/-! ## Owners (R233-R236) -/

/-- The armed owner covering a vault key: page and ME. -/
def State.ownerOf (s : State) (k : Nat) : Option (Nat × Nat) :=
  s.pages.findSome? fun (pg, p) => (List.range 4).findSome? fun i => match p.mes[i]? with
    | some m => if m.ownOn && m.armed && decide (vaultKey + m.ownBase ≤ k) && decide (k < vaultKey + m.ownBase + m.ownLen)
        then some (pg, i) else none
    | none => none

/-- fc an update token travels between an agent and an owner's page (R234). -/
def updTime (w : Who) (pg : Nat) : Nat := 4 + 3 * vaultDist w.access.2.2.1 (vaultOfFrame (frameOfPage pg))

/-- The faults of an atomic's target (R235), or its owner. -/
def State.atomicOwner (s : State) (die k va : Nat) : Except FaultInfo (Nat × Nat) :=
  if k < vaultKey then .error { cls := clsAtomic, code := 3, opnd := va }
  else match s.ownerOf k with
    | none => .error { cls := clsAtomic, code := 1, opnd := va }
    | some (pg, me) => if dieOfPage pg = die then .ok (pg, me) else .error { cls := clsAtomic, code := 4, opnd := va }

/-! ## The parts of an instruction (R242, R244, R247, R255) -/

/-- A range of at most 64 bytes cut at 64-byte units (R218). -/
def unitsOf (va n : Nat) : List (Nat × Nat) :=
  let k := min n (64 - va % 64)
  if n = 0 then [] else if k = n then [(va, n)] else [(va, k), (va + k, n - k)]

/-- A store of bytes, cut at units. -/
def storeParts (va : Nat) (bs mask : List Byte) : List Part :=
  (unitsOf va bs.length).map fun (a, n) => ⟨a, n, some ((bs.drop (a - va)).take n, (mask.drop (a - va)).take n)⟩

def loadParts (va n : Nat) : List Part := (unitsOf va n).map fun (a, n) => ⟨a, n, none⟩

def allOnes (n : Nat) : List Byte := List.replicate n 0xFF

/-- TY of a word. -/
def tyOf (x : Word) : Nat := (field x 0 4).toNat

/-- The effective address of R241. -/
def Flight.ea (f : Flight) : Nat := (f.sa + f.sb).toNat

/-- The address of lane j of a gather or scatter (R247). -/
def Flight.laneVa (f : Flight) (j : Nat) : Nat :=
  let w := tyWidth (tyOf f.word)
  (f.sa.toNat + lane w f.vb j * (w / 8)) % 2 ^ 64

/-- The target of an atomic: address and bytes (R255). -/
def Flight.target (f : Flight) : Nat × Nat :=
  if opcOf f.word = 0x6B then ((f.sa.toNat + f.sb.toNat / 8) % 2 ^ 64, 1) else (f.sa.toNat, tyWidth (tyOf f.word) / 8)

/-- The accesses of a memory instruction in the order they are issued. -/
def Flight.makePlan (f : Flight) : List Part :=
  let ty := tyOf f.word
  let w := tyWidth ty
  let fn := fnOf f.word
  match opcOf f.word with
  | 0x58 => [⟨f.ea, w / 8, none⟩]
  | 0x59 => [⟨f.ea, w / 8, some (leBytes (w / 8) f.sd.toNat, allOnes (w / 8))⟩]
  | 0x5A => loadParts f.ea 64
  | 0x5B =>
    if fn = 1 then
      let lanes := min (512 / w) 64
      let bs := vecBytes f.vd
      (storeParts f.sa.toNat bs (tab 64 fun i => if i / (w / 8) < lanes ∧ f.sb.getLsbD (i / (w / 8)) then 0xFF else 0)).filter
        fun p => p.data.any fun d => d.2.any (· != 0)
    else storeParts f.ea (vecBytes f.vd) (allOnes 64)
  | 0x5E => tab (512 / w) fun j => ⟨f.laneVa j, w / 8, none⟩
  | 0x5F =>
    if fn = 0 then tab (512 / w) fun j => ⟨f.laneVa j, w / 8, some (leBytes (w / 8) (lane w f.vd j), allOnes (w / 8))⟩
    else tab (512 / w) fun j => ⟨f.laneVa j, w / 8, none⟩
  | 0x62 | 0x63 => [⟨f.sa.toNat, 64, none⟩]
  | _ => [⟨f.target.1, f.target.2, none⟩]

/-- The instruction's accesses are atomic updates sent to owners (R234). -/
def isAtomicOp (x : Word) : Bool :=
  let o := opcOf x
  (0x68 ≤ o && o ≤ 0x6C) || (o == 0x5F && fnOf x == 1) || (o == 0x62 && fnOf x == 0)

/-- The update a flight sends for a part: `AUPD`/`AFET` operations by FN, `SCAT.ADD` as an add (R247, R255). -/
def Flight.update (f : Flight) (n k due back uid : Nat) : Upd :=
  let ty := tyOf f.word
  let opc := opcOf f.word
  let op := if opc = 0x5F then (if tyFloat ty then 0x6C else 0x68) else opc
  { uid := uid, fid := f.fid, lane := n
    port := match f.who with
      | .elem pg pe _ _ => pg * 4 + pe / 4
      | .tel t _ _ => 2 ^ 14 + t
    op := op, fn := if opc = 0x5F then 0 else fnOf f.word, ty := ty, pa := k
    val := if opc = 0x5F then BitVec.ofNat 64 (lane (tyWidth ty) f.vd n) else f.sb
    cmp := f.sd, due := due, back := back, arr := 0 }

/-! ## Requests -/

/-- The agent whose position a port's accesses start from (R217). -/
def Port.who : Port → Who
  | .me pg _ => .elem pg 0 0 0
  | .tel t => .tel t 0 0

/-- The die whose ASID table and walker a port uses; the anchor's accesses continue as die 1's or 6's (R217). -/
def Port.die : Port → Nat
  | .me pg _ => dieOfPage pg
  | .tel t => if t < 16 then t / 2 else if t % 2 = 0 then 1 else 6

/-- A request that uses its stream's own translation entry: rows, stores and the string of a DECODE; a record is read through
the ME's direct port (R219; log 129). -/
def ReqFor.stream : ReqFor → Option (Nat × Nat)
  | .row pg si _ _ => some (pg, si)
  | .store pg si => some (pg, si)
  | .aux pg si kind _ => if kind = 2 then some (pg, si) else none
  | _ => none

/-- The translation entry that covers an access, if the port or stream holds one. -/
def State.tlbFor (s : State) (port : Port) (job : ReqFor) (asid va : Nat) : Option Tlb :=
  match job.stream, port with
  | some (pg, si), _ => ((s.stream? pg si).bind (·.tlb)).filter fun e => e.covers asid va
  | none, .me pg me => ((s.me? pg me).bind (·.tlb)).filter fun e => e.covers asid va
  | none, .tel t => (s.tellers[t]?).bind fun l => l.tlb.find? fun e => e.covers asid va

/-- The entry loaded by a walk; a teller's sixteen give up the one loaded first (log 22). -/
def State.setTlb (s : State) (port : Port) (job : ReqFor) (e : Tlb) : State :=
  match job.stream, port with
  | some (pg, si), _ => s.modStream pg si fun m => { m with tlb := some e }
  | none, .me pg me => s.modMe pg me fun m => { m with tlb := some e }
  | none, .tel t => s.modTeller t fun l => { l with tlb := (e :: l.tlb).take 16 }

/-- What a translation forbids an access (R213, R214, R236). -/
def State.accessFault (s : State) (tt : Option (Nat × Nat)) (e : Tlb) (acc : Acc) (atomic : Bool) (va : Nat) :
    Option FaultInfo :=
  match e.forbids acc with
  | some c => some { cls := clsXlate, code := c, opnd := va }
  | none =>
    if acc = .store ∧ !atomic then
      if leafOwn e.leaf then some { cls := clsAtomic, code := 2, opnd := va }
      else if !leafVlt e.leaf && s.ttOrdered tt && !leafOrd e.leaf then some { cls := clsXlate, code := xNoord, opnd := va }
      else none
    else none

/-! ### Links (R375-R377) -/

/-- 64-byte flits a direction takes in an fc: 80 GB/s for each group that carries it and does not turn (R375). -/
def Link.quota (l : Link) (up : Bool) (fc : Nat) : Nat :=
  let g := max 1 (l.groups.filter fun g => g.up == up && !g.turning).length
  (fc + 1) * g * 125 / 94 - fc * g * 125 / 94

/-- Flits a direction has taken, or is to take, in an fc. -/
def Link.takenAt (l : Link) (up : Bool) (fc : Nat) : Nat :=
  ((l.taken.find? fun x => x.1 == up && x.2.1 == fc).map (·.2.2)).getD 0

/-- The first fc from `t` on in which a direction takes one flit more; fuel for the fcs that are full. -/
def Link.slot (l : Link) (up : Bool) : Nat → Nat → Nat
  | 0, t => t
  | n + 1, t => if l.takenAt up t < l.quota up t then t else l.slot up n (t + 1)

/-- A flit is taken in an fc; what was taken before this fc is forgotten. -/
def Link.take (l : Link) (now : Nat) (up : Bool) (t : Nat) : Link :=
  { l with taken := (l.taken.filter fun x => decide (now ≤ x.2.1) && !(x.1 == up && x.2.1 == t)) ++ [(up, t, l.takenAt up t + 1)] }

/-- A flit crosses links from an fc on: each takes it when it has room, 28 fc to a crossing (R375). -/
def State.cross (s : State) (path : List (Nat × Bool)) (t : Nat) : Nat × State :=
  path.foldl (fun x h =>
    let l := x.2.link h.1
    let k := l.slot h.2 (l.taken.length + 2) x.1
    (k + 28, x.2.modLink h.1 fun l => l.take s.fc h.2 k)) (t, s)

/-- What waiting for lane groups adds to an access of another die, whose own time is `inner` (R3, R375). -/
def State.linkWaits (s : State) (from_ : Nat × Nat × Nat × Nat) (dst inner : Nat) : Nat × State :=
  let go := linkPath from_.1 from_.2.1 dst
  let back := linkBack from_.1 from_.2.1 dst
  let (t1, s1) := s.cross go s.fc
  let (t2, s2) := s1.cross back (t1 + inner)
  (t2 - (s.fc + inner + 28 * (go.length + back.length)), s2)

/-- The latency of an access of a port to a key, with a fresh number for HBM (R217, R417), and what its links add. -/
def State.latency (s : State) (port : Port) (k : Nat) (store : Bool) : Nat × State :=
  let a := port.who.access
  let vlt := decide (vaultKey ≤ k)
  let (x, s) := if vlt then (0, s) else s.fresh
  let t := if vlt then vaultLatency a k else hbmLatency a k store x
  let dst := if vlt then keyDie k else hbmDie k
  let hops := linkHops a.1 a.2.1 dst
  if hops = 0 then (t, s) else let (w, s) := s.linkWaits a dst (t - 56 * hops); (t + w, s)

/-- The time of a walk: one HBM read for each level visited, with the links to a stack of another die (R219, R249, R417). -/
def State.walkTime (s : State) (die asid va : Nat) : Nat × State :=
  (s.walkReads die asid va).foldl (fun x k =>
    let (y, t) := x.2.fresh
    (x.1 + hbmLatency (die, die, 0, 0) k false y, t)) (0, s)

/-- Walks a die's walker runs (R219). -/
def State.walksOn (s : State) (die : Nat) : Nat := (s.reqs.filter fun r => r.walking && r.port.die == die).length

/-- A request that needs a walk: the walk begins, or waits for a place among the walker's 64 (R219, R249). -/
def State.startWalk (s : State) (r : Req) : Req × State :=
  if 64 ≤ s.walksOn r.port.die then (r, s)
  else let (t, s) := s.walkTime r.port.die r.asid r.va; ({ r with walking := true, due := s.fc + t }, s)

/-- Waiting walks begin as places come free, oldest first. -/
def State.walkOn (s : State) : State :=
  (s.reqs.filter fun r => r.pa.isNone && !r.walking).foldl (fun s r =>
    let (q, s) := s.startWalk r
    { s with reqs := s.reqs.map fun x => if x.rid = q.rid then q else x }) s

/-- A plain load of an OWN page goes to the owner of its range as an update (R236); an HBM page has no owner (log 127). -/
def State.ownLoad (s : State) (r : Req) (k leaf : Nat) : Except FaultInfo State :=
  if k < vaultKey then .error { cls := clsAtomic, code := 3, opnd := r.va }
  else match s.ownerOf k with
    | none => .error { cls := clsAtomic, code := 1, opnd := r.va }
    | some (pg, _) =>
      let h := updTime r.port.who pg
      .ok { s with reqs := s.reqs ++ [{ r with pa := some k, leaf := leaf, own := true, walking := false }]
                   upds := s.upds ++ [{ uid := r.rid, fid := r.rid, lane := 0, port := r.node, op := 0, fn := 0, ty := 0
                                        pa := k, val := 0, cmp := 0, due := s.fc + h, back := h, arr := 0 }] }

/-- A request whose translation is known is checked and takes its place: an atomic's update sets out for its owner, a
plain load of an OWN page goes to the owner, every other access waits for its bank or stack (R234-R236). -/
def State.place (s : State) (r : Req) (e : Tlb) : Except FaultInfo State :=
  let k := e.key r.va
  let atom : Option (Flight × Nat) := match r.job with
    | .flight fid n => ((s.flight? fid).filter fun (f : Flight) => isAtomicOp f.word).map fun f => (f, n)
    | _ => none
  let acc : Acc := match r.job, r.data with
    | .line .., _ => .fetch
    | _, some _ => .store
    | _, none => if atom.isSome then .store else .load
  match s.accessFault r.tt e acc atom.isSome r.va with
  | some f => .error f
  | none =>
    match atom with
    | some (f, n) => match s.atomicOwner r.port.die k r.va with
      | .error f => .error f
      | .ok (pg, _) =>
        let h := updTime f.who pg
        .ok { s with upds := s.upds ++ [f.update n k (s.fc + h) h r.rid] }
    | none =>
      if acc = .load ∧ leafOwn e.leaf then s.ownLoad r k e.leaf
      else
        let (lat, s) := s.latency r.port k r.data.isSome
        .ok { s with reqs := s.reqs ++ [{ r with pa := some k, leaf := e.leaf, due := s.fc + lat - 1, walking := false }] }

/-- An access is issued at its port: placed when the port's entry covers it, otherwise waiting for a walk. -/
def State.ask (s : State) (job : ReqFor) (port : Port) (asid : Nat) (p : Part) (tt : Option (Nat × Nat))
    (node ival : Nat) : Except FaultInfo State :=
  let (rid, s) := s.newId
  let r : Req := { rid := rid, job := job, port := port, asid := asid, va := p.va, pa := none, leaf := 0, len := p.len
                   data := p.data, due := 0, tt := tt, node := node, ival := ival, own := false, walking := false }
  match s.tlbFor port job asid p.va with
  | some e => s.place r e
  | none =>
    let (r, s) := s.startWalk r
    .ok { s with reqs := s.reqs ++ [r] }

/-- The port queue has room for n requests and no walk of the same requester is under way (R218, R219). -/
def State.portRoom (s : State) (port : Port) (job : ReqFor) (n : Nat) : Bool :=
  let mine := s.reqs.filter fun r => r.port == port
  (match port with
   | .me .. => decide (mine.length + n ≤ 8)
   | .tel _ => true) &&
  mine.all fun r => r.pa.isSome || r.job.stream != job.stream

/-! ## Issuing the parts of a flight -/

/-- Two ranges touch one 64-byte block, by their addresses or by their translations; a range of more than 64 bytes is compared
by 64 KiB, the smallest page. -/
def State.meets (s : State) (die asid va n asid' va' n' : Nat) : Bool :=
  (asid == asid' && decide (va / 64 ≤ (va' + n' - 1) / 64) && decide (va' / 64 ≤ (va + n - 1) / 64)) ||
  (List.range (n' / 65536 + 2)).any fun i =>
    match s.walk die asid va, s.walk die asid' (min (va' + 65536 * i) (va' + n' - 1)) with
    | .ok e, .ok e' =>
      let k := e.key va
      let k' := e'.key (min (va' + 65536 * i) (va' + n' - 1))
      k / 65536 == k' / 65536 && (decide (64 < n') || k / 64 == k' / 64 || (k + n - 1) / 64 == k' / 64)
    | _, _ => false

/-- An access waits while an earlier instruction of its context has one to the same block that is still to be performed: two
plain accesses that have both been issued are kept in order by `reqFree`, two updates by their way to the owner (R255,
R263 rule 1). -/
def State.inTurn (s : State) (f : Flight) (va n : Nat) : Bool :=
  (s.earlier f).all fun g => g.pending.all fun x =>
    (x.2.2 && isAtomicOp f.word == isAtomicOp g.word) || !s.meets f.port.die f.asid va n g.asid x.1 x.2.1

/-- An access of these bytes would meet poison (R239). -/
def State.meetsPoison (s : State) (tt : Option (Nat × Nat)) (e : Tlb) (p : Part) (atomic : Bool) : Bool :=
  let k := e.key p.va
  match p.data with
  | none => if atomic then (s.poisonIn k p.len).isSome else match s.load tt e.leaf k p.len with
    | .error _ => true
    | .ok _ => false
  | some (bs, mask) =>
    s.poisoned k && !(k % 64 == 0 && bs.length == 64 && mask.all (· == 0xFF)) &&
    !(decide (k < vaultKey) && leafOrd e.leaf && ((s.ttLive tt).map fun x => x.2.holdsBlock (k / 64 * 64)).getD false)

/-- What the tables, as they stand, forbid a part, poison included. -/
def State.partFault (s : State) (f : Flight) (p : Part) : Option FaultInfo :=
  match s.walk f.port.die f.asid p.va with
  | .error c => some { cls := clsXlate, code := c, opnd := p.va }
  | .ok e => (s.accessFault f.tt e (if p.data.isSome || isAtomicOp f.word then .store else .load) (isAtomicOp f.word) p.va).orElse
      fun _ => if s.meetsPoison f.tt e p (isAtomicOp f.word) then some { cls := clsPoison, code := 1, opnd := p.va } else none

/-- A fault that a part must meet before anything of the instruction is stored, or before a later lane is issued: a `VST` that
faults writes nothing, and no lane follows one that faults (R242, R247). -/
def State.foreFault (s : State) (f : Flight) (p : Part) : Option FaultInfo :=
  match opcOf f.word with
  | 0x5B => if f.stage = 0 then f.plan.findSome? (s.partFault f) else none
  | 0x5E | 0x5F => match s.walk f.port.die f.asid p.va with
    | .ok e => if s.meetsPoison f.tt e p (isAtomicOp f.word) then some { cls := clsPoison, code := 1, opnd := p.va } else none
    | .error _ => none
  | _ => none

/-- An access of an instruction faults: nothing of a `VST` is stored, and no lane behind the faulting one (R242, R247). -/
def State.partFails (s : State) (f : Flight) (n : Nat) (e : FaultInfo) : State :=
  let s := { s with
    reqs := s.reqs.filter fun r => match r.job with
      | .flight i m => i != f.fid || (opcOf f.word != 0x5B && decide (m ≤ n))
      | _ => true
    upds := s.upds.filter fun u => u.fid != f.fid || decide (u.lane ≤ n) }
  s.flightFault f (e.at_ f)

/-- The next part of a memory instruction is issued, if it may be; a fault ends the instruction (R242, R247). -/
def State.issuePart (s : State) (f : Flight) : State :=
  match f.plan[f.stage]? with
  | none => s
  | some p =>
    let job : ReqFor := .flight f.fid f.stage
    if s.mayIssue f && s.portRoom f.port job 1 && s.inTurn f p.va p.len then
      match s.foreFault f p with
      | some e => s.partFails f f.stage e
      | none =>
        let s := s.modFlight f.fid fun f => { f with stage := f.stage + 1, left := f.left + 1 }
        match s.ask job f.port f.asid p f.tt f.who.node f.ival with
        | .ok s => s
        | .error e => s.partFails f f.stage e
    else s

/-- Every part has been issued and translated. -/
def State.partsPlaced (s : State) (f : Flight) : Bool :=
  decide (f.plan.length ≤ f.stage) && s.reqs.all fun r => r.pa.isSome || match r.job with
    | .flight i _ => i != f.fid
    | _ => true

/-- The acceptance of a teller's memory word (R419): at once when its parts are placed; a word that must wait for earlier
ones is accepted on its translations alone. -/
def State.tryAccept (s : State) (fid : Nat) : State :=
  match s.flight? fid with
  | none => s
  | some f => match f.who with
    | .elem .. => s
    | .tel t _ _ =>
      if f.accepted then s
      else if s.partsPlaced f then s.accept f
      else if s.mayIssue f then s
      else match f.plan.findSome? (fun p => match s.walk (Port.tel t).die f.asid p.va with
          | .error c => some ({ cls := clsXlate, code := c, opnd := p.va } : FaultInfo)
          | .ok e => s.accessFault f.tt e (if p.data.isSome || isAtomicOp f.word then .store else .load)
              (isAtomicOp f.word) p.va) with
        | some e => s.flightFault f (e.at_ f)
        | none => s.accept f

/-- A memory instruction hands its first access over as it fires. -/
def memPost (f : Flight) (s : State) : State :=
  let s := match f.who with
    | .elem .. => s
    | .tel t cx _ => s.modTctx t cx fun c => { c with wait := some f.fid }
  (s.issuePart f).tryAccept f.fid

/-! ## Serving a request -/

/-- A shape register's entry changed. -/
def State.modShape (s : State) (pg sx : Nat) (f : Shape → Shape) : State :=
  s.modPage pg fun p => { p with shapes := p.shapes.modify sx f }

def State.shape? (s : State) (pg sx : Nat) : Option Shape := (s.page? pg).bind fun p => p.shapes[sx]?

/-- A load's bytes reach what asked for them. -/
def State.deliver (s : State) (r : Req) (bs : List Byte) : State :=
  match r.job with
  | .flight fid n =>
    let s := s.modFlight fid fun f => { f with got := f.got ++ [(n, bs)], left := f.left - 1 }
    match s.flight? fid with
    | some f => if f.left = 0 ∧ f.plan.length ≤ f.stage ∧ opcOf f.word ≠ 0x60 then s.now (.instructionPerformed fid) else s
    | none => s
  | .row pg si row n => s.modStream pg si fun m =>
      { m with buf := m.buf.map fun b => if b.1 = row then (b.1, b.2.1 ++ [(n, bs)], b.2.2) else b }
  | .store pg si => s.modStream pg si fun m => { m with busy := m.busy - 1 }
  | .line t cx => s.now (.tellerFetchLine t cx r.va)
  | .refill pg sx n => s.modShape pg sx fun sh => { sh with refill := sh.refill.map fun x => { x with got := x.got ++ [(n, bs)] } }
  | .through pg sx n => s.modShape pg sx fun sh => { sh with through := sh.through.filter fun x => x.name != n }
  | .aux pg si kind n => s.modStream pg si fun m => { m with recs := m.recs ++ [(kind, n, bs)] }
  | .upd .. | .pref _ => s

/-- A window refill fails: its fault is raised at the instruction that asked for it (R203). -/
def State.refillFault (s : State) (pg sx : Nat) (e : FaultInfo) : State :=
  match (s.shape? pg sx).bind (·.refill) with
  | none => s
  | some r =>
    let s := { s.modShape pg sx fun sh => { sh with refill := none } with
      reqs := s.reqs.filter fun q => match q.job with
        | .refill g x _ => g != pg || x != sx
        | _ => true }
    match r.fid with
    | none => s.raise r.who r.word e
    | some fid => match s.flight? fid with
      | some f => s.flightFault f e
      | none => s

/-- A write-through fails: the record keeps its bytes, and the fault is raised at the element that fired the `SHSET`
(R173, R219). -/
def State.throughFault (s : State) (pg sx n : Nat) (e : FaultInfo) : State :=
  match (s.shape? pg sx).bind fun sh => sh.through.find? fun x => x.name == n with
  | none => s
  | some t => (s.modShape pg sx fun sh => { sh with through := sh.through.filter fun x => x.name != n }).raiseFlight t.by_ e

/-- A stream's own fault: it withholds (R219, R392). -/
def State.streamFails (s : State) (pg si : Nat) (tt : Option (Nat × Nat)) (e : FaultInfo) : State :=
  (s.mail { s.originPage pg 1 (16 + si / 4) with
    intv := ((s.stream? pg si).map (·.ival)).getD 0, ts := s.tsOf tt } e 0).modStream pg si fun m => { m with withheld := true }

/-- A request meets poison (R239); a part of `LDR` is kept as one without bytes. -/
def State.poisonReq (s : State) (r : Req) : State :=
  let e : FaultInfo := { cls := clsPoison, code := 1, opnd := r.va }
  match r.job with
  | .flight fid n => match s.flight? fid with
    | some f =>
      if opcOf f.word = 0x60 then s.modFlight fid fun f => { f with got := f.got ++ [(n, [])], left := f.left - 1 }
      else s.partFails f n e
    | none => s
  | .row pg si row n => s.modStream pg si fun m =>
      { m with buf := m.buf.map fun b =>
          if b.1 = row then (b.1, b.2.1 ++ [(n, List.replicate r.len 0)], some (r.va / 64 * 64)) else b }
  | .store pg si => s.raiseMe pg si e
  | .line t cx => s.modTctx t cx fun c =>
      { c with fetch := c.fetch.filter (· != r.va), bad := (r.va, e.cause, r.va) :: c.bad }
  | .refill pg sx _ => s.refillFault pg sx e
  | .through pg sx n => s.throughFault pg sx n e
  | .aux pg si kind n =>
    if kind = 2 then s.modStream pg si fun m => { m with recs := m.recs ++ [(kind, n, [])] }
    else s.streamFails pg si r.tt e
  | .upd .. | .pref _ => s

/-- A request is performed at its bank or stack (R218, R242): the data moves, or it stays when it must wait. -/
def State.serve (s : State) (r : Req) : State :=
  match r.pa with
  | none => s
  | some k =>
    let drop (s : State) : State := { s with reqs := s.reqs.filter fun q => q.rid != r.rid }
    match r.job, r.data with
    | .upd pg me _, _ => (drop s).now (.ownerUpdateApply pg me)
    | _, none => match s.load r.tt r.leaf k r.len with
      | .error _ => (drop s).poisonReq r
      | .ok (bs, s) => (drop s).deliver r bs
    | _, some (bs, mask) => match s.write r.port r.tt r.ival r.leaf k bs mask with
      | .ok s => (drop s).deliver r []
      | .poison _ => (drop s).poisonReq r
      | .wait s => s

/-- Two requests touch one 64-byte block: of memory where both are translated, of the address space otherwise. -/
def Req.overlaps (a b : Req) : Bool :=
  match a.pa, b.pa with
  | some k, some l => k / 64 == l / 64
  | _, _ => a.va / 64 == b.va / 64 && a.asid == b.asid

/-- An earlier request of the same node to the same block goes first (R263 rule 1, R417), and an owner's accesses complete
one a fc in the order of its queue (R234). -/
def State.reqFree (s : State) (r : Req) : Bool :=
  (s.reqs.all fun q => !(decide (q.rid < r.rid) && q.node == r.node && q.overlaps r)) &&
  (match r.job with
   | .upd pg me uid => ((s.me? pg me).map fun m => ((m.ownRun.head?).map (·.uid)) == some uid && decide (m.ownFc ≤ s.fc)).getD false
   | _ => true)

/-- The stream an access is issued for (R237). -/
def ReqFor.issuer : ReqFor → Option (Nat × Nat)
  | .row pg si _ _ => some (pg, si)
  | .store pg si => some (pg, si)
  | .aux pg si _ _ => some (pg, si)
  | _ => none

/-- A bank-gated stream's access waits for its page to hold the bank's token (R237). -/
def State.gateOpen (s : State) (r : Req) : Bool :=
  match r.job.issuer, r.pa with
  | some (pg, si), some k =>
    let gated := ((s.stream? pg si).map fun m => bitAt m.desc.flags 3).getD false
    !gated || decide (k < vaultKey) ||
      (match alGet (keyVault k * 32 + keyBank k) (s.die (keyDie k)).banks with
       | some (.held p) => p == pg
       | _ => false)
  | _, _ => true

/-- A bank has not been accessed in this fc (R218). -/
def State.bankFree (s : State) (die bank : Nat) : Bool := (alGet bank (s.die die).bankAt).getD 0 ≤ s.fc

/-- 64-byte blocks an HBM stack moves in an fc: 2.56 TB/s at 940 MHz (R1). -/
def hbmQuota (fc : Nat) : Nat := (fc + 1) * 2000 / 47 - fc * 2000 / 47

/-- An HBM stack can move one block more in this fc. -/
def State.hbmFree (s : State) (k : Nat) : Bool := (alGet (bits k 41 37) s.hbmUse).getD 0 < hbmQuota s.fc

/-- A bank access, or a block of an HBM stack, is used in this fc. -/
def State.useBlock (s : State) (k : Nat) : State :=
  if vaultKey ≤ k then s.modDie (keyDie k) fun d => { d with bankAt := alSet (keyVault k * 32 + keyBank k) (s.fc + 1) d.bankAt }
  else { s with hbmUse := alSet (bits k 41 37) ((alGet (bits k 41 37) s.hbmUse).getD 0 + 1) s.hbmUse }

/-- An agent other than a port may access the block of a key in this fc. -/
def State.blockFree (s : State) (k : Nat) : Bool :=
  if vaultKey ≤ k then s.bankFree (keyDie k) (keyVault k * 32 + keyBank k) else s.hbmFree k

/-- Requests that a vault bank may serve now. -/
def State.bankReady (s : State) (die bank : Nat) : List Req :=
  s.reqs.filter fun r => match r.pa with
    | some k => decide (vaultKey ≤ k) && !r.own && decide (r.due ≤ s.fc) && keyDie k == die &&
        keyVault k * 32 + keyBank k == bank && s.reqFree r && s.gateOpen r
    | none => false

/-- A port's number among those that ask one bank (R218). -/
def Port.number : Port → Nat
  | .me pg i => pg * 4 + i
  | .tel t => 2 ^ 14 + t

/-- The requests in the order a bank takes them: ports rising from the one after `last`, oldest first in a port. -/
def pickPort (last : Nat) (l : List Req) : Option Req :=
  let dist (r : Req) : Nat := (r.port.number + 2 ^ 15 - (last + 1)) % 2 ^ 15
  l.foldl (fun best r => match best with
    | none => some r
    | some b => if dist r < dist b then some r else some b) none

/-- `BANK_ACCESS` (R218): one request of the round-robin of ports is served, if the bank is free in this fc. -/
def execBankAccess (die bank : Nat) (s : State) : Out :=
  match if s.bankFree die bank then pickPort ((alGet bank (s.die die).bankRR).getD (2 ^ 15 - 1)) (s.bankReady die bank) else none with
  | none => .next s
  | some r =>
    let s := s.modDie die fun d => { d with bankRR := alSet bank r.port.number d.bankRR, bankAt := alSet bank (s.fc + 1) d.bankAt }
    .next (s.serve r)

/-- `HBM_ACCESS_COMPLETE` (R417, R229): an HBM access is performed, within what its stack can move in an fc (R1); compressed
pages hold the same bytes. -/
def execHbmAccessComplete (rid : Nat) (s : State) : Out :=
  match s.reqs.find? fun r => r.rid = rid with
  | none => .next s
  | some r => match r.pa with
    | some k =>
      if k < vaultKey ∧ r.due ≤ s.fc ∧ s.reqFree r ∧ s.gateOpen r ∧ s.hbmFree k then .next ((s.useBlock k).serve r) else .next s
    | none => .next s

/-- A walk's fault is raised where the access belongs (R214, R219); a `PREF` raises none (R249). -/
def State.reqFault (s : State) (r : Req) (e : FaultInfo) : State :=
  match r.job with
  | .flight fid n => match s.flight? fid with
    | some f => s.partFails f n e
    | none => s
  | .row pg si .. | .store pg si | .aux pg si .. => s.streamFails pg si r.tt e
  | .line t cx => s.modTctx t cx fun c => { c with fetch := c.fetch.filter (· != r.va), bad := (r.va, e.cause, e.opnd) :: c.bad }
  | .refill pg sx _ => s.refillFault pg sx e
  | .through pg sx n => s.throughFault pg sx n e
  | .pref fid => s.modFlight fid fun f => { f with aux := [0] }
  | .upd .. => s

/-- `TRANSLATION_WALK` (R219): the walk of a waiting request ends; its entry is loaded and the access goes on, or XLATE is
raised. -/
def execTranslationWalk (rid : Nat) (s : State) : Out :=
  match s.reqs.find? fun r => r.rid = rid with
  | none => .next s
  | some r =>
    if r.pa.isSome ∨ !r.walking ∨ s.fc < r.due then .next s
    else
      let s := { s with reqs := s.reqs.filter fun q => q.rid != rid }
      match s.walk r.port.die r.asid r.va with
      | .error c => .next (s.reqFault r { cls := clsXlate, code := c, opnd := r.va })
      | .ok e =>
        let s := s.setTlb r.port r.job e
        match r.job with
        | .pref fid => .next (s.modFlight fid fun f => { f with aux := [1] })
        | _ => match s.place r e with
          | .error f => .next (s.reqFault r f)
          | .ok s => match r.job with
            | .flight fid _ => .next (s.tryAccept fid)
            | _ => .next s

/-! ## Records read or written whole -/

/-- Bytes read through the translations of an agent as one load; the fault otherwise (R203, R242). -/
def State.readRec (s : State) (die asid : Nat) (tt : Option (Nat × Nat)) (va n : Nat) :
    Except FaultInfo (List Byte × State) :=
  (unitsLong va n).foldl (fun (acc : Except FaultInfo (List Byte × State)) (a, k) => match acc with
    | .error e => .error e
    | .ok (bs, s) => match s.walk die asid a with
      | .error c => .error { cls := clsXlate, code := c, opnd := a }
      | .ok e => match s.load tt e.leaf (e.key a) k with
        | .error _ => .error { cls := clsPoison, code := 1, opnd := a }
        | .ok (b, s) => .ok (bs ++ b, s)) (.ok ([], s))
where
  /-- A range cut at 64-byte units. -/
  unitsLong (va n : Nat) : List (Nat × Nat) :=
    (List.range ((va + n + 63) / 64 - va / 64)).filterMap fun i =>
      let a := max va ((va / 64 + i) * 64)
      let z := min (va + n) ((va / 64 + i + 1) * 64)
      if a < z then some (a, z - a) else none

/-- A record of n bytes is read as an instruction's own accesses, one 64-byte unit at a time. -/
def recParts (va n : Nat) : List Part := (State.readRec.unitsLong va n).map fun (a, k) => ⟨a, k, none⟩

/-- The bytes of the parts read, in part order. -/
def Flight.bytes (f : Flight) : List Byte :=
  ((List.range f.plan.length).map fun n => (alGet n f.got).getD []).flatten

/-- An instruction whose record is still being read goes on reading; with all of it read it goes on as `k` says. -/
def State.withRec (s : State) (f : Flight) (k : List Byte → State → State) : State :=
  if f.stage < f.plan.length then (s.issuePart f).tryAccept f.fid
  else if f.left = 0 then k f.bytes s else s

end Sys2Proof.Machine
end

