-- ==== Sys2Proof/Machine/LoadStore.lean ====
section
/-!
DEFINITION. Loads, stores, gathers and scatters, opcodes 0x58-0x5B, 0x5E and 0x5F (R244, R245, R247): their checks at
firing and what they write back when performed.
-/

namespace Sys2Proof.Machine

/-- ALIGN with a code, for an address not a multiple of n. -/
def alignFault (code va n : Nat) : Option FaultInfo :=
  if va % n ≠ 0 then some { cls := clsAlign, code := code, opnd := va } else none

/-- The fault a teller's access would meet in translation, found before the word is accepted and so precise (R419). -/
def State.telAddr (s : State) (w : Who) (asid va : Nat) (acc : Acc) (atomic : Bool) : Option FaultInfo :=
  match w with
  | .elem .. => none
  | .tel t _ _ => match s.walk (Port.tel t).die asid va with
    | .error c => some { cls := clsXlate, code := c, opnd := va }
    | .ok e => match s.accessFault none e acc atomic va with
      | some f => some f
      | none => if atomic then match s.atomicOwner (Port.tel t).die (e.key va) va with
          | .error f => some f
          | .ok _ => none
        else none

/-- The same for every part of a word. -/
def State.telParts (s : State) (w : Who) (f : Flight) : Option FaultInfo :=
  f.plan.findSome? fun p =>
    s.telAddr w f.asid p.va (if p.data.isSome || isAtomicOp f.word then .store else .load) (isAtomicOp f.word)

/-- A memory word fires: its first address must be aligned (R243); it holds its destination. -/
def memR (o : FormR) (dest : Bool) (va : Flight → Nat) (s : State) : Out :=
  fireJob o.g (fun w x s f =>
    let f := { f with plan := f.makePlan }
    match (alignFault 4 (va f) (tyWidth (tyOf x) / 8)).orElse fun _ => s.telParts w f with
    | some e => .error e
    | none => .ok { f with holds := f.holds ++ if dest then destHolds o.d.toNat else [] }) memPost s

def execLdPl (o : FormR) (s : State) : Out := memR o true Flight.ea s
def execLdAcq (o : FormR) (s : State) : Out := memR o true Flight.ea s
def execStPl (o : FormR) (s : State) : Out := memR o false Flight.ea s
def execStRel (o : FormR) (s : State) : Out := memR o false Flight.ea s
def execVld (o : FormR) (s : State) : Out := memR o true Flight.ea s
def execVstPl (o : FormR) (s : State) : Out := memR o false Flight.ea s
def execVstMsk (o : FormR) (s : State) : Out := memR o false (fun f => f.sa.toNat) s
def execVstRel (o : FormR) (s : State) : Out := memR o false Flight.ea s
def execGath (o : FormR) (s : State) : Out := memR o true (fun f => f.sa.toNat) s
def execScatSt (o : FormR) (s : State) : Out := memR o false (fun f => f.sa.toNat) s

/-- What a load or store writes back, and its outcome (R242, R244, R247). -/
def memResult (f : Flight) : Writes × Bool :=
  let d := (field f.word 19 5).toNat
  let ty := tyOf f.word
  let w := tyWidth ty
  match opcOf f.word with
  | 0x58 => (writeS d f.tag (extTy ty (leNat f.bytes)), true)
  | 0x5A => (writeV d f.tag (bytesVec f.bytes), true)
  | 0x5E => (writeV d f.tag (bytesVec f.bytes), true)
  | 0x5B =>
    (Writes.none, if fnOf f.word = 1 then f.sb.toNat % 2 ^ min (512 / w) 64 != 0 else true)
  | _ => (Writes.none, true)

/-- A load, store, gather or scatter goes on: its next part is issued; performed when every part is (R242). -/
def State.memStep (s : State) (f : Flight) : State :=
  if f.stage < f.plan.length then (s.issuePart f).tryAccept f.fid
  else if f.left = 0 then
    let (wr, oc) := memResult f
    (s.accept f).perform f wr oc false []
  else s

end Sys2Proof.Machine
end

