-- ==== Sys2Proof/Machine/Atomic.lean ====
section
/-!
DEFINITION. Atomics, opcodes 0x68-0x6C, `SCAT.ADD` and `TILL.APP` at their owner nodes (R234, R235, R247, R251, R255).
-/

namespace Sys2Proof.Machine

/-- An atomic fires: its target must be aligned, ALIGN 0x005 otherwise (R243). -/
def atomR (o : FormR) (dest : Bool) (s : State) : Out :=
  fireJob o.g (fun w _ s f =>
    let f := { f with plan := f.makePlan }
    match (alignFault 5 f.target.1 f.target.2).orElse fun _ => s.telParts w f with
    | some e => .error e
    | none => .ok { f with holds := f.holds ++ if dest then destHolds o.d.toNat else [] }) memPost s

def execAupdAdd (o : FormR) (s : State) : Out := atomR o false s
def execAupdMin (o : FormR) (s : State) : Out := atomR o false s
def execAupdMax (o : FormR) (s : State) : Out := atomR o false s
def execAupdOr (o : FormR) (s : State) : Out := atomR o false s
def execAupdAnd (o : FormR) (s : State) : Out := atomR o false s
def execAupdXor (o : FormR) (s : State) : Out := atomR o false s
def execAupdSwp (o : FormR) (s : State) : Out := atomR o false s
def execAfetAdd (o : FormR) (s : State) : Out := atomR o true s
def execAfetMin (o : FormR) (s : State) : Out := atomR o true s
def execAfetMax (o : FormR) (s : State) : Out := atomR o true s
def execAfetOr (o : FormR) (s : State) : Out := atomR o true s
def execAfetAnd (o : FormR) (s : State) : Out := atomR o true s
def execAfetXor (o : FormR) (s : State) : Out := atomR o true s
def execAfetSwp (o : FormR) (s : State) : Out := atomR o true s
def execAcas (o : FormR) (s : State) : Out := atomR o true s
def execAtas (o : FormR) (s : State) : Out := atomR o true s
def execAfadd (o : FormR) (s : State) : Out := atomR o true s

/-- `SCAT.ADD`: its base must be aligned as an atomic's target (R243, R247). -/
def execScatAdd (o : FormR) (s : State) : Out :=
  fireJob o.g (fun _ x _ f =>
    match alignFault 5 f.sa.toNat (tyWidth (tyOf x) / 8) with
    | some e => .error e
    | none => .ok { f with plan := f.makePlan }) memPost s

/-- op(old, b) of `AUPD` and `AFET` at a type (R255). -/
def atomOp (fn ty : Nat) (old b : Nat) : Nat :=
  let w := tyWidth ty
  match fn with
  | 0 => (old + b) % 2 ^ w
  | 1 => if readTy ty b < readTy ty old then b % 2 ^ w else old
  | 2 => if readTy ty old < readTy ty b then b % 2 ^ w else old
  | 3 => (old ||| b) % 2 ^ w
  | 4 => (old &&& b) % 2 ^ w
  | 5 => (old ^^^ b) % 2 ^ w
  | _ => b % 2 ^ w

/-- What an update makes of the old value of its unit: the new value and the events (R255). -/
def Upd.apply (u : Upd) (old : Nat) : Nat × List Nat :=
  let w := tyWidth u.ty
  match u.op with
  | 0x68 | 0x69 => (atomOp u.fn u.ty old u.val.toNat, [])
  | 0x6A => (if old = u.cmp.toNat % 2 ^ w then u.val.toNat % 2 ^ w else old, [])
  | 0x6B => (old ||| 2 ^ (u.val.toNat % 8), [])
  | _ =>
    let f := fmtOf u.ty
    let r := f.addV .rne (f.decode old) (f.decode (u.val.toNat % 2 ^ w))
    (r.pat, r.ev)

/-- Bytes of the unit an update accesses. -/
def Upd.size (u : Upd) : Nat := if u.op = 0x6B then 1 else tyWidth u.ty / 8

/-- The message of a `TILL.APP`: header with bytes = B, k = 1 and source 0xFFFE, then B bytes (R231, R251). -/
def appendBytes (b : Nat) (v : Vec) : List Byte :=
  leBytes 4 b ++ leBytes 2 1 ++ leBytes 2 0xFFFE ++ (vecBytes v).take b

/-- The result of an update on its way back to the issuer (R234). -/
def State.answer (s : State) (u : Upd) (old : Nat) : State :=
  s.modFlight u.fid fun f =>
    { f with got := f.got ++ [(u.lane, leBytes 8 old)], left := f.left - 1, after := max f.after (s.fc + u.back) }

/-- An update faults at its issuer, and no lane behind it is applied (R247). -/
def State.updFault (s : State) (u : Upd) (e : FaultInfo) : State :=
  match s.flight? u.fid with
  | some f =>
    let keep (v : Upd) : Bool := v.op == 0 || v.fid != u.fid || decide (v.lane ≤ u.lane)
    ({ s with upds := s.upds.filter keep
              pages := s.pages.map fun (x : Nat × Page) => (x.1, { x.2 with
                mes := x.2.mes.map fun (m : Me) => { m with ownq := m.ownq.filter keep } }) }).partFails f u.lane e
  | none => s

/-! ## Descriptors of tills (R230) -/

/-- The fields of a till descriptor (R230). -/
structure Till where
  slots : Nat
  size : Nat
  n : Nat
  head : Nat
  tail : Nat
  grant : Nat
  src : Nat
  deriving DecidableEq, Repr

/-- A descriptor from its 64 bytes. -/
def tillOf (d : List Byte) : Till :=
  ⟨recNat d 0 8, recNat d 8 4, recNat d 0xC 4, recNat d 0x10 8, recNat d 0x18 8, recNat d 0x20 8, recNat d 0x28 2⟩

/-- The descriptor at a memory key. -/
def State.tillAt (s : State) (k : Nat) : Till := tillOf (memRead s.mem k 64)

/-- r slots more fit beside those granted (R232). -/
def Till.fits (t : Till) (r : Nat) : Bool := decide (t.grant + r - t.head ≤ t.n)

/-- The die whose tables translate for a partition's peers: that of its home teller (R409). -/
def Ptn.peerDie (p : Ptn) : Nat := (Port.tel p.res.home).die

/-- Requests for slots of the till at a key that have reached its die and wait, by their names among arrivals: `PRMT.GET`s,
`TILL.APP`s at the owner and permits that peers ask for (R251, R252). -/
def State.tillWaits (s : State) (k : Nat) : List Nat :=
  (s.flights.filterMap fun g =>
    if opcOf g.word == 0x63 && fnOf g.word == 0 && g.aux.tail.head? == some k then g.aux.head? else none) ++
  (s.pages.flatMap fun (x : Nat × Page) => x.2.mes.flatMap fun (m : Me) =>
    ((m.ownq ++ m.ownRun).filter fun u => u.op == 0x62 && u.pa == k).map (·.arr)) ++
  s.peerq.filterMap fun q => match s.ptn? q.2.2.1 with
    | some p => match s.walk p.peerDie (p.res.asids.headD 0) q.2.2.2.1 with
      | .ok e => if e.key q.2.2.2.1 == k then some q.1 else none
      | .error _ => none
    | none => none

/-- No request that reached the till's die earlier still waits for slots of it (R252). -/
def State.permitTurn (s : State) (id k : Nat) : Bool := (s.tillWaits k).all fun x => decide (id ≤ x)

/-! ## `TILL.APP` (R251) -/

/-- Its count of bytes or the till's SRC is not allowed. -/
def appBad (t : Till) (b : Nat) : Bool := b == 0 || decide (min 56 (t.size - 8) < b) || t.src != 0xFFFE

/-- A `TILL.APP` that would only wait: its till has no free slot, or another request for one goes first. It keeps its place in
the owner's queue (R251). -/
def State.appWaits (s : State) (u : Upd) : Bool :=
  match s.flight? u.fid with
  | none => false
  | some f =>
    let t := s.tillAt u.pa
    u.op == 0x62 && !s.poisoned u.pa && !appBad t f.sb.toNat && (!t.fits 1 || !s.permitTurn u.arr u.pa)

/-- Updates in the order in which they reached the owner. -/
def insertUpd (u : Upd) : List Upd → List Upd
  | [] => [u]
  | v :: l => if u.arr < v.arr then u :: v :: l else v :: insertUpd u l

/-- A vault write of the bytes of one unit, logged for its ME (R398); none while the log is full. -/
def State.logged (s : State) (port : Port) (ival k : Nat) (bs : List Byte) : Option State :=
  (s.logUndo port ival k).map fun s => s.store k bs

/-- A `TILL.APP` at the owner of its descriptor: the message is appended, the slot before TAIL and GRANT, or the update waits
for a free slot in its place in the queue (R231, R251). -/
def State.tillAppend (s : State) (pg me : Nat) (u : Upd) (f : Flight) : State :=
  let b := f.sb.toNat
  let d := memRead s.mem u.pa 64
  let t := tillOf d
  let va := t.slots + t.tail % t.n * t.size
  if s.poisoned u.pa then s.updFault u { cls := clsPoison, code := 1, opnd := f.sa.toNat }
  else if appBad t b then s.updFault u { cls := clsRange, code := 0x01E, opnd := f.sa.toNat }
  else if !t.fits 1 || !s.permitTurn u.arr u.pa then s.modMe pg me fun m => { m with ownq := insertUpd u m.ownq }
  else match s.walk (dieOfPage pg) f.asid va with
    | .error c => s.updFault u { cls := clsXlate, code := c, opnd := va }
    | .ok e =>
      if s.poisoned (e.key va) && !(e.key va % 64 == 0 && b == 56) then
        s.updFault u { cls := clsPoison, code := 1, opnd := va }
      else match (s.logged (.me pg me) f.ival (e.key va) (appendBytes b f.vd)).bind fun s =>
          s.logged (.me pg me) f.ival u.pa (putBytes (putBytes d 0x18 (leBytes 8 (t.tail + 1))) 0x20 (leBytes 8 (t.grant + 1))) with
        | some s => s.answer u 1
        | none => s.modMe pg me fun m => { m with ownq := insertUpd u m.ownq }

/-- The effective address an update was sent for. -/
def State.updVa (s : State) (u : Upd) : Nat :=
  match s.flight? u.fid with
  | some f => if opcOf f.word = 0x5F then f.laneVa u.lane else f.target.1
  | none => 0

/-- One update applied at its owner as one indivisible access; while the ME's undo log is full it stays as it is. -/
def State.applyUpd (s : State) (pg me : Nat) (u : Upd) : State :=
  let s := s.modMe pg me fun m => { m with ownRun := m.ownRun.filter fun v => v.uid != u.uid, ownFc := s.fc + 1 }
  if u.op = 0 then match s.reqs.find? fun r => r.rid = u.uid with
    | some r => s.serve r
    | none => s
  else if u.op = 0x62 then match s.flight? u.fid with
    | some f => s.tillAppend pg me u f
    | none => s
  else if s.poisoned u.pa then s.updFault u { cls := clsPoison, code := 1, opnd := s.updVa u }
  else
    let old := memNat s.mem u.pa u.size
    let (new, ev) := u.apply old
    let iv := ((s.flight? u.fid).map (·.ival)).getD 0
    match s.logged (.me pg me) iv u.pa (leBytes u.size new) with
    | none => s.modMe pg me fun m => { m with ownRun := u :: m.ownRun }
    | some s => (s.modMe pg me fun m => { m with cnts := addCnts m.cnts ev }).answer u old

/-- `UPDATE_TOKEN_ARRIVE` (R234): a token that has reached its owner enters the update queue of 16. -/
def execUpdateTokenArrive (uid : Nat) (s : State) : Out :=
  match s.upds.find? fun u => u.uid = uid with
  | none => .next s
  | some u =>
    if s.fc < u.due then .next s
    else match s.ownerOf u.pa with
      | none => .next (({ s with upds := s.upds.filter fun v => v.uid != uid }).updFault u
          { cls := clsAtomic, code := 1, opnd := s.updVa u })
      | some (pg, me) =>
        if 16 ≤ ((s.me? pg me).map fun m => m.ownq.length).getD 0 then .next s
        else
          let (id, s) := s.newId
          .next (({ s with upds := s.upds.filter fun v => v.uid != uid }).modMe pg me fun m =>
            { m with ownq := m.ownq ++ [{ u with arr := id }] })

/-- An owner's access is in its port queue. -/
def State.updAsked (s : State) (u : Upd) : Bool := s.reqs.any fun r => match r.job with
  | .upd _ _ id => id == u.uid
  | _ => false

/-- The next update of an owner's queue asks for its access through the owner's port queue (R218, R234); a `TILL.APP` that
would only wait is passed over. -/
def State.ownerBegin (s : State) (pg me : Nat) : State :=
  let port : Port := .me pg me
  match (s.me? pg me).bind fun m => m.ownq.find? fun u => !s.appWaits u with
  | none => s
  | some u =>
    if !s.portRoom port (.upd pg me u.uid) 1 then s
    else
      let (rid, s) := s.newId
      let lat := vaultLatency port.who.access u.pa
      let r : Req := { rid := rid, job := .upd pg me u.uid, port := port, asid := 0, va := u.pa, pa := some u.pa, leaf := 0
                       len := u.size, data := none, due := s.fc + lat - 1, tt := none, node := 2 ^ 22 + pg * 4 + me, ival := 0
                       own := false, walking := false }
      ({ s with reqs := s.reqs ++ [r] }).modMe pg me fun m =>
        { m with ownq := m.ownq.filter fun v => v.uid != u.uid, ownRun := m.ownRun ++ [u] }

/-- `OWNER_UPDATE_APPLY` (R234): the oldest update whose access has been served takes effect; else the next one of the queue
begins its access. -/
def execOwnerUpdateApply (pg me : Nat) (s : State) : Out :=
  match (s.me? pg me).bind fun m => m.ownRun.head? with
  | some u => if s.updAsked u then .next (s.ownerBegin pg me) else .next (s.applyUpd pg me u)
  | none => .next (s.ownerBegin pg me)

/-- What a performed atomic writes back: results, outcome, flag (R255). -/
def atomResult (f : Flight) : Writes × Bool :=
  let d := (field f.word 19 5).toNat
  let ty := tyOf f.word
  let old := leNat ((alGet 0 f.got).getD [])
  match opcOf f.word with
  | 0x69 | 0x6C => (writeS d f.tag (extTy ty old), false)
  | 0x6A => (writeS d f.tag (extTy ty old), old == f.sd.toNat % 2 ^ tyWidth ty)
  | 0x6B => let bit := old / 2 ^ (f.sb.toNat % 8) % 2; (writeS d f.tag (BitVec.ofNat 64 bit), bit == 1)
  | _ => (Writes.none, false)

/-- An atomic goes on issuing; it is performed by its results' return. -/
def State.atomStep (s : State) (f : Flight) : State :=
  if f.stage < f.plan.length then (s.issuePart f).tryAccept f.fid else s

/-- `ATOMIC_RESULT_RETURN` (R234, R242): the last result or acknowledgement reaches the issuer. -/
def execAtomicResultReturn (fid : Nat) (s : State) : Out :=
  match s.flight? fid with
  | none => .next s
  | some f =>
    if isAtomicOp f.word ∧ f.plan.length ≤ f.stage ∧ f.left = 0 ∧ f.after ≤ s.fc then
      let (wr, fl) := atomResult f
      .next ((s.accept f).perform f wr true fl [])
    else .next s

end Sys2Proof.Machine
end

