-- ==== Sys2Proof/Machine/Sync.lean ====
section
/-!
DEFINITION. Tills, permits, event queues, bank tokens, groups, fences, queue fences and in-flight counters, opcodes 0x62,
0x63, 0x65, 0x66 and 0x70-0x73 (R230-R232, R251-R254, R256-R260), with the messages and permits of peers (R231, R379).
-/

namespace Sys2Proof.Machine

/-- A word of this chapter without an access to place: a teller's is accepted as it fires (R419). -/
def jobPost (f : Flight) (s : State) : State := s.accept f

/-- D and flight of a job word: it holds its destination and is due from `after`. -/
def jobHolds (f : Flight) (d after : Nat) : Flight := { f with holds := f.holds ++ destHolds d, after := after }

/-- A job is performed with a scalar result in D; its outcome is whether the result is nonzero. -/
def State.performVal (s : State) (f : Flight) (v : Word) (outcome flag : Bool) : State :=
  s.perform f (writeS (field f.word 19 5).toNat f.tag v) outcome flag []

def w64 (n : Nat) : Word := BitVec.ofNat 64 n

/-! ## Descriptors of tills -/

/-- The memory key of a flight's address, checked for an access (R214, R236). -/
def State.descKey (s : State) (f : Flight) (va : Nat) (acc : Acc) : Except FaultInfo Nat :=
  match s.walk f.who.port.die f.asid va with
  | .error c => .error { cls := clsXlate, code := c, opnd := va }
  | .ok e => match s.accessFault f.tt e acc true va with
    | some x => .error x
    | none =>
      if (s.poisonIn (e.key va) 64).isSome then .error { cls := clsPoison, code := 1, opnd := va } else .ok (e.key va)

/-- A 64-bit field of a descriptor written. -/
def State.setTill (s : State) (k off v : Nat) : State := s.store (k + off) (leBytes 8 v)

/-- A till or permit word fires: its descriptor must be 64-byte aligned (ALIGN 0x006); it reads the descriptor. -/
def tillR (o : FormR) (dest : Bool) (s : State) : Out :=
  fireJob o.g (fun w _ s f =>
    match (alignFault 6 f.sa.toNat 64).orElse fun _ => s.telAddr w f.asid f.sa.toNat .load false with
    | some e => .error e
    | none => .ok { jobHolds f (if dest then o.d.toNat else 26) s.fc with plan := recParts f.sa.toNat 64 }) memPost s

def execTillPoll (o : FormR) (s : State) : Out := tillR o true s
def execTillWait (o : FormR) (s : State) : Out := tillR o true s
def execTillAdv (o : FormR) (s : State) : Out := tillR o false s
def execPrmtGet (o : FormR) (s : State) : Out := tillR o true s
def execPrmtRet (o : FormR) (s : State) : Out := tillR o true s

/-- `TILL.APP` goes to the owner of its descriptor as an update (R251). -/
def execTillApp (o : FormR) (s : State) : Out :=
  fireJob o.g (fun w _ s f =>
    match (alignFault 6 f.sa.toNat 64).orElse fun _ => s.telAddr w f.asid f.sa.toNat .store true with
    | some e => .error e
    | none => .ok { f with plan := f.makePlan }) memPost s

/-- A reservation of r slots taken back from the newest ones. -/
def unreserve : Nat → List Nat → List Nat
  | _, [] => []
  | r, x :: l => if r = 0 then x :: l else if x ≤ r then unreserve (r - x) l else (x - r) :: l

/-- Slots granted on a till when they fit (R232). -/
def State.grant (s : State) (k r : Nat) : Option (Nat × State) :=
  let t := s.tillAt k
  if t.fits r then
    some (t.grant, { s.setTill k 0x20 (t.grant + r) with permits := alSet k ((alGet k s.permits).getD [] ++ [r]) s.permits })
  else none

/-- Whether a span port has sent what it was given: 224 GB/s at 940 MHz are 11,200 bytes in 47 fc (R1, R379). -/
def State.spanOpen (s : State) (port : Nat) : Bool := decide ((alGet port s.spanUse).getD 0 ≤ s.fc * 11200)

/-- A message leaves through a span port, which it occupies for its length (R379). -/
def State.spanSend (s : State) (port ptn till : Nat) (bs : List Byte) (bad : Bool) : State :=
  { s with spanOut := s.spanOut ++ [(port, ptn, till, bs, bad)]
           spanUse := alSet port (max ((alGet port s.spanUse).getD 0) (s.fc * 11200) + 47 * bs.length) s.spanUse }

/-- The answer to a peer's permit request leaves through its span port. -/
def State.peerAnswer (s : State) (port ptn till v : Nat) : State := s.spanSend port ptn till (leBytes 8 v) false

/-- A peer's request for a permit, granted when it fits and no earlier one waits (R252). -/
def State.peerGrant (s : State) (id port ptn till r : Nat) : Option State :=
  match s.ptn? ptn with
  | none => none
  | some p => match s.walk p.peerDie (p.res.asids.headD 0) till with
    | .error _ => none
    | .ok e =>
      let k := e.key till
      if s.permitTurn id k then (s.grant k r).map fun (old, s) => s.peerAnswer port ptn till old else none

/-- Waiting requests of peers are granted as they fit, oldest first. -/
def State.servePeers (s : State) : State :=
  s.peerq.foldl (fun s q => match s.peerGrant q.1 q.2.1 q.2.2.1 q.2.2.2.1 q.2.2.2.2 with
    | some t => { t with peerq := t.peerq.filter fun x => x.1 != q.1 }
    | none => s) s

/-- A word's own write of a field of a descriptor, logged for its ME (R398); `k` goes on with it, and while the log is full the
word waits. -/
def State.withLog (s : State) (f : Flight) (key : Nat) (k : State → State) : State :=
  match s.logUndo f.port f.ival key with
  | some t => k t
  | none => s

/-- `TILL.POLL`, `.WAIT` and `.ADV` performed, their descriptor read (R251). -/
def State.tillStep (s : State) (f : Flight) : State :=
  s.withRec f fun _ s =>
    match s.descKey f f.sa.toNat (if fnOf f.word = 3 then .store else .load) with
    | .error e => s.flightFault f e
    | .ok k =>
      let t := s.tillAt k
      let avail := t.tail - t.head
      match fnOf f.word with
      | 1 => s.performVal f (w64 avail) (avail != 0) false
      | 2 => if f.sb.toNat ≤ avail then s.performVal f (w64 avail) (avail != 0) false else s
      | _ =>
        if avail < f.sb.toNat then s.flightFault f { cls := clsRange, code := 0x01F, opnd := f.sa.toNat }
        else s.withLog f k fun s =>
          ((s.setTill k 0x10 (t.head + f.sb.toNat)).perform f Writes.none (f.sb.toNat != 0) false []).servePeers

/-- `PRMT.GET` and `PRMT.RET` performed (R252): a `GET` takes its place among the requests that have reached the till's die. -/
def State.prmtStep (s : State) (f : Flight) : State :=
  s.withRec f fun _ s =>
    let r := f.sb.toNat
    let bad : FaultInfo := { cls := clsRange, code := 0x020, opnd := f.sa.toNat }
    match s.descKey f f.sa.toNat .store with
    | .error e => s.flightFault f e
    | .ok k =>
      let t := s.tillAt k
      if r = 0 ∨ t.n < r then s.flightFault f bad
      else if fnOf f.word = 0 then
        let (id, s) := match f.aux.head? with
          | some id => (id, s)
          | none => let (id, s) := s.newId; (id, s.modFlight f.fid fun f => { f with aux := [id, k] })
        if !s.permitTurn id k || !t.fits r then s
        else s.withLog f k fun s => match s.grant k r with
          | some (old, s) => s.performVal f (w64 old) true false
          | none => s
      else if t.grant - t.tail < r then s.flightFault f bad
      else s.withLog f k fun s =>
        let s := { s.setTill k 0x20 (t.grant - r) with
          permits := alSet k (unreserve r ((alGet k s.permits).getD []).reverse).reverse s.permits }
        (s.performVal f (w64 (t.grant - r)) true false).servePeers

/-! ## Messages to tills (R231, R232, R372, R379) -/

/-- The teller context or mailbox that learns of a fault of a till's consumer: a record of the partition (R232). -/
def State.tillFault (s : State) (m : Msg) (f : FaultInfo) : State :=
  s.mail { die := m.die, kind := 5, slotcx := 0x80, asid := m.asid, ptn := m.ptn, async := true } f 0

/-- Bytes written to consecutive slots of a till, counted modulo its slots; every slot lies in the till's vault. A slot that
cannot be translated, and a poisoned block that would be written in part, take nothing and raise their fault (R214, R239). -/
def State.putSlots (s : State) (m : Msg) (t : Till) (first : Nat) (bs : List Byte) : State :=
  (List.range ((bs.length + t.size - 1) / t.size)).foldl (fun s i =>
    let va := t.slots + (first + i) % t.n * t.size
    match s.walk m.die m.asid va with
    | .error c => s.tillFault m { cls := clsXlate, code := c, opnd := va }
    | .ok e =>
      let slot := (bs.drop (i * t.size)).take t.size
      (List.range ((slot.length + 63) / 64)).foldl (fun s j =>
        let part := (slot.drop (64 * j)).take 64
        if s.poisoned (e.key va + 64 * j) ∧ part.length < 64 then
          s.tillFault m { cls := clsPoison, code := 1, opnd := va + 64 * j }
        else s.store (e.key va + 64 * j) part) s) s

/-- An append of a message of k slots with a reservation of r (R231, R232). -/
def State.append (s : State) (m : Msg) (key : Nat) : State :=
  let t := s.tillAt key
  let res := (alGet key s.permits).getD []
  let r := match m.res with
    | some r => r
    | none => res.headD 0
  let k := (m.bytes.length + 8 + t.size - 1) / t.size
  let msg := leBytes 4 m.bytes.length ++ leBytes 2 k ++ leBytes 2 m.src ++ m.bytes
  let kept := min k r
  let s := { s with permits := alSet key (res.erase r) s.permits }
  let s := s.putSlots m t t.tail (msg.take (kept * t.size))
  let s := if k ≤ r then s.setTill key 0x20 (t.grant - (r - k)) else s
  let s := s.setTill key 0x18 (t.tail + kept)
  if k ≤ r then s else s.tillFault m { cls := clsLen, code := 4, opnd := m.till }

/-- `TILL_APPEND` (R231): the network interface writes an arriving message and then advances TAIL. -/
def execTillAppend (mid : Nat) (s : State) : Out :=
  match s.msgs.find? fun m => m.mid = mid with
  | none => .next s
  | some m =>
    if s.fc < m.due then .next s
    else
      let s := { s with msgs := s.msgs.filter fun x => x.mid != mid }
      match s.walk m.die m.asid m.till with
      | .error c => .next (s.tillFault m { cls := clsXlate, code := c, opnd := m.till })
      | .ok e => .next (s.append m (e.key m.till))

/-- `SPAN_MESSAGE_ARRIVE` (R379): a peer's message for a till joins the appends in order of arrival. -/
def execSpanMessageArrive (port ptn till res : Nat) (bytes : List Byte) (s : State) : Out :=
  match s.ptn? ptn with
  | none => .next s
  | some p =>
    let (mid, s) := s.newId
    let (src, s) := s.fresh
    let m : Msg := { mid := mid, die := p.peerDie, ptn := ptn, asid := p.res.asids.headD 0, till := till, bytes := bytes
                     res := some res, src := src % 2 ^ 16, by_ := 2 ^ 8 + port, due := s.fc }
    .next ({ s with msgs := s.msgs ++ [m] }.now (.tillAppend mid))

/-- `PEER_PERMIT_REQUEST` (R252): granted or queued at the local till; a return lowers GRANT at once. A count that is zero
or above the till's slots, or a return of more than is reserved, changes nothing and is answered with all ones (log 23). -/
def execPeerPermitRequest (port ptn till r : Nat) (get : Bool) (s : State) : Out :=
  match s.ptn? ptn with
  | none => .next s
  | some p => match s.walk p.peerDie (p.res.asids.headD 0) till with
    | .error _ => .next (s.peerAnswer port ptn till (2 ^ 64 - 1))
    | .ok e =>
      let k := e.key till
      let t := s.tillAt k
      if r = 0 ∨ t.n < r then .next (s.peerAnswer port ptn till (2 ^ 64 - 1))
      else if get then
        let (id, s) := s.newId
        .next ({ s with peerq := s.peerq ++ [(id, port, ptn, till, r)] }.servePeers)
      else if t.grant - t.tail < r then .next (s.peerAnswer port ptn till (2 ^ 64 - 1))
      else .next (({ s.setTill k 0x20 (t.grant - r) with
        permits := alSet k (unreserve r ((alGet k s.permits).getD []).reverse).reverse s.permits }).peerAnswer port ptn till
          (t.grant - r)).servePeers

/-! ## Event queues (R253) -/

/-- Event records of a partition that contexts of a die are part way through reading: taken, and not yet removed (R253). -/
def State.evTaken (s : State) (d p : Nat) : Nat :=
  (((s.tellers.drop (2 * d)).take 2).flatMap fun t => t.ctxs.filter fun c => c.ptn == some p && c.rec0 != []).length

/-- A partition's event queue on a die has room: 1,024 records. -/
def State.evRoom (s : State) (d p : Nat) : Bool := decide (((alGet p (s.die d).evq).getD []).length + s.evTaken d p < 1024)

/-- A record appended. -/
def State.evPush (s : State) (d p : Nat) (r : List Byte) : State :=
  s.modDie d fun x => { x with evq := alSet p ((alGet p x.evq).getD [] ++ [r]) x.evq, evIn := alSet p (s.fc + 1) x.evIn }

/-- The queue has taken no append, or no removal, in this fc. -/
def State.evFreeIn (s : State) (d p : Nat) : Bool := (alGet p (s.die d).evIn).getD 0 ≤ s.fc
def State.evFreeOut (s : State) (d p : Nat) : Bool := (alGet p (s.die d).evOut).getD 0 ≤ s.fc

/-- The head record removed. -/
def State.evDrop (s : State) (d p : Nat) : State :=
  s.modDie d fun x => { x with evq := alMod p (fun q => q.drop 1) x.evq, evOut := alSet p (s.fc + 1) x.evOut }

/-- A word performed at the end of the next fc at the earliest. -/
def soonR (o : FormR) (dest : Bool) (s : State) : Out :=
  fireJob o.g (fun _ _ s f => .ok (jobHolds f (if dest then o.d.toNat else 26) (s.fc + 1))) jobPost s

def execEvPost (o : FormR) (s : State) : Out := soonR o false s
def execEvPop (o : FormR) (s : State) : Out := soonR o true s
def execEvWait (o : FormR) (s : State) : Out := soonR o true s
def execEvPeek (o : FormR) (s : State) : Out := soonR o true s

/-- `EV` words performed (R253). -/
def State.evStep (s : State) (f : Flight) : State :=
  let d := f.who.die
  let dst := (field f.word 19 5).toNat
  let put (s : State) (r : List Byte) (oc : Bool) : State := s.perform f (writeV dst f.tag (bytesVec r)) oc false []
  match fnOf f.word with
  | 0 =>
    if 7 < f.sa.toNat ∨ f.vd.toNat % 2 ^ 16 < 0x100 then s.flightFault f { cls := clsRange, code := 0x021, opnd := f.sa.toNat }
    else if s.evRoom f.sa.toNat f.ptn && s.evFreeIn f.sa.toNat f.ptn then
      (s.evPush f.sa.toNat f.ptn ((vecBytes f.vd).take 24 ++ leBytes 8 (cidOf f.who).toNat)).perform f Writes.none true false []
    else s
  | 3 => match s.evHead d f.ptn with
    | some r => put s r true
    | none => put s [] false
  | fn => match s.evHead d f.ptn with
    | some r => if s.evFreeOut d f.ptn then put (s.evDrop d f.ptn) r true else s
    | none => if fn = 1 then put s [] false else s

/-! ## Bank tokens (R237, R254) -/

/-- Die and bank of the vault address in A: bits [30:28], and [27:22] with [10:6]. -/
def bankOf (a : Nat) : Nat × Nat := (bits a 30 28, bits a 27 22 * 32 + bits a 10 6)

/-- The token of a bank: free with tag 0 until something else is recorded. -/
def State.bankTok (s : State) (d b : Nat) : BankTok := (alGet b (s.die d).banks).getD (.free 0)

def State.setBank (s : State) (d b : Nat) (t : BankTok) : State := s.modDie d fun x => { x with banks := alSet b t x.banks }

def execBankGive (o : FormR) (s : State) : Out := soonR o false s
def execBankTake (o : FormR) (s : State) : Out := soonR o false s
def execBankQry (o : FormR) (s : State) : Out := soonR o true s

/-- A key lies in a bank. -/
def inBank (d b k : Nat) : Bool := decide (vaultKey ≤ k) && keyDie k == d && keyVault k * 32 + keyBank k == b

/-- An access to a VA of a page may still reach a bank: it does, or its translation is not known. -/
def State.vaInBank (s : State) (pg asid d b va n : Nat) : Bool :=
  match s.walk (dieOfPage pg) asid va, s.walk (dieOfPage pg) asid (va + n - 1) with
  | .ok e, .ok e' => inBank d b (e.key va) || inBank d b (e'.key (va + n - 1)) || decide (64 < n)
  | _, _ => true

/-- No access of a page to a bank is still to be performed: none in a port queue, none of its outstanding instructions but
the giving one and those behind it, no update of its own on the way or at an owner, no write-through and no stored row. -/
def State.bankQuiet (s : State) (pg d b : Nat) (me : Flight) : Bool :=
  let mine (fid : Nat) : Bool := ((s.flight? fid).map fun g => g.who.isElem && g.who.page == pg).getD false
  (s.reqs.all fun r => match r.port, r.pa with
    | .me p _, some k => p != pg || !inBank d b k
    | .me p _, none => p != pg
    | _, _ => true) &&
  (s.flights.all fun g => !g.who.isElem || g.who.page != pg || decide (me.fid ≤ g.fid) || !isMemOp g.word ||
    g.pending.all fun x => !s.vaInBank pg g.asid d b x.1 x.2.1) &&
  (s.upds.all fun u => !(mine u.fid && inBank d b u.pa)) &&
  (s.pages.all fun x => x.2.mes.all fun (m : Me) => (m.ownq ++ m.ownRun).all fun u => !(mine u.fid && inBank d b u.pa)) &&
  ((s.page? pg).map fun p => (p.shapes.all fun (h : Shape) => h.through.all fun t => !s.vaInBank pg p.asid d b t.va t.size) &&
    p.mes.all fun (m : Me) => m.streams.all fun st => st.todo.all fun x => !s.vaInBank pg p.asid d b x.2.2.2.va x.2.2.2.len).getD true

/-- `BANK` words performed (R254). -/
def State.bankStep (s : State) (f : Flight) : State :=
  let (d, b) := bankOf f.sa.toNat
  let pg := f.who.page
  match fnOf f.word with
  | 0 =>
    if s.bankTok d b ≠ .held pg then s.flightFault f { cls := clsRange, code := 0x022, opnd := f.sa.toNat }
    else if s.bankQuiet pg d b f then
      (s.setBank d b (.free (f.sb.toNat % 2 ^ 16))).perform f Writes.none true false []
    else s
  | 1 =>
    if s.bankTok d b = .free (f.sb.toNat % 2 ^ 16) then (s.setBank d b (.held pg)).perform f Writes.none true false [] else s
  | _ =>
    let v := (List.range 32).foldl (fun acc n => if s.bankTok d (b / 32 * 32 + n) = .held pg then acc + 2 ^ n else acc) 0
    s.performVal f (w64 v) (v != 0) false

/-- Every bank token a page holds is released free with tag 0 (R237). -/
def State.freeBanks (s : State) (pg : Nat) : State :=
  { s with dies := s.dies.map fun d =>
      { d with banks := d.banks.map fun (b, t) => if t = .held pg then (b, .free 0) else (b, t) } }

/-! ## Groups (R256, R257) -/

/-- GDIE, GIDX and BAR of a group id. -/
def groupId (a : Nat) : Nat × Nat × Nat := (bits a 13 10, bits a 9 0, bits a 17 16)

/-- fc between an agent and a group entry, each way (R256, R375). -/
def grpTime (w : Who) (gdie : Nat) : Nat := 6 + 28 * linkHops w.access.1 w.access.2.1 gdie

/-- What waiting for lane groups adds to an operation's way to its entry (R3, R375). -/
def State.grpWait (s : State) (w : Who) (gdie : Nat) : Nat × State :=
  let path := linkPath w.access.1 w.access.2.1 gdie
  let (t, s) := s.cross path s.fc
  (t - (s.fc + 28 * path.length), s)

/-- A group operation fires and sets out for its entry; a die above 7 has no table, NOGRP at firing (R243, R256). -/
def grpR (o : FormR) (s : State) : Out :=
  fireJob o.g (fun w _ s f =>
    let d := (groupId f.sa.toNat).1
    if 7 < d then .error { cls := clsRange, code := 0x023, opnd := f.sa.toNat }
    else .ok (jobHolds f o.d.toNat (s.fc + grpTime w d + (s.grpWait w d).1)))
    (fun f s =>
      let s := (s.grpWait f.who (groupId f.sa.toNat).1).2
      let (d, i, _) := groupId f.sa.toNat
      (s.accept f).modDie d fun x =>
        { x with groups := match alGet i x.groups with
            | some g => alSet i { g with q := g.q ++ [(f.fid, f.after)] } x.groups
            | none => x.groups }) s

def execGrpJoin (o : FormR) (s : State) : Out := grpR o s
def execGrpLeave (o : FormR) (s : State) : Out := grpR o s
def execGrpArrive (o : FormR) (s : State) : Out := grpR o s
def execGrpWait (o : FormR) (s : State) : Out := grpR o s
def execGrpBar (o : FormR) (s : State) : Out := grpR o s
def execGrpQry (o : FormR) (s : State) : Out := grpR o s

/-- The memberships of a context. -/
def State.groupsOf (s : State) : Who → List GMem
  | .elem pg pe cx _ => ((s.ctx? pg pe cx).map (·.groups)).getD []
  | .tel t cx _ => ((s.tctx? t cx).map (·.groups)).getD []

def State.setGroups (s : State) (w : Who) (g : List GMem) : State :=
  match w with
  | .elem pg pe cx _ => s.modCtx pg pe cx fun c => { c with groups := g }
  | .tel t cx _ => s.modTctx t cx fun c => { c with groups := g }

/-- A barrier completes: its generation rises, its arrivals clear (R257). -/
def Grp.complete (g : Grp) (b : Nat) : Grp :=
  { g with arr := g.arr.set b 0, gen := g.gen.set b ((g.gen.getD b 0 + 1) % 2 ^ 32) }

/-- A barrier with members and as many arrivals completes. -/
def Grp.settle (g : Grp) (b : Nat) : Grp :=
  if 0 < g.members ∧ g.arr.getD b 0 = g.members then g.complete b else g

/-- The context has arrived at a barrier's current generation. -/
def Grp.arrived (g : Grp) (m : GMem) (b : Nat) : Bool := m.arr.getD b none == some (g.gen.getD b 0)

/-- What applying an operation at its entry comes to. -/
inductive GrpRes where
  /-- answered with D's value and the flag -/
  | done (g : Grp) (mem : List GMem) (v : Nat) (flag : Bool)
  /-- it waits; `BAR` that has arrived keeps the generation it arrived at -/
  | wait (g : Grp) (mem : List GMem) (gen : Option Nat)
  | fault (code : Nat)

/-- One operation at its entry (R257): `gen` is what an arrived `BAR` waits to leave. -/
def Grp.op (g : Grp) (fn d i b : Nat) (mem : List GMem) (bWord : Nat) (gen : Option Nat) : GrpRes :=
  let mine := mem.find? fun m => m.die = d ∧ m.ix = i
  let cur := g.gen.getD b 0
  let arrive (m : GMem) : Grp × List GMem :=
    (({ g with arr := g.arr.set b (g.arr.getD b 0 + 1) } : Grp).settle b,
     mem.map fun x => if x = m then { x with arr := x.arr.set b (some cur) } else x)
  match fn with
  | 0 => match mine with
    | some _ => .done g mem g.members true
    | none =>
      if 4 ≤ mem.length then .fault 0x024
      else .done { g with members := g.members + 1 } (mem ++ [⟨d, i, List.replicate 4 none⟩]) (g.members + 1) false
  | 1 => match mine with
    | none => .done g mem g.members true
    | some m =>
      let g1 : Grp := { g with members := g.members - 1
                               arr := tab 4 fun j => g.arr.getD j 0 - if g.arrived m j then 1 else 0 }
      let g2 := ((((g1.settle 0).settle 1).settle 2).settle 3)
      .done g2 (mem.filter fun x => x != m) g1.members false
  | 2 => match mine with
    | none => .fault 0x023
    | some m => if g.arrived m b then .wait g mem none else let (g, mem) := arrive m; .done g mem cur false
  | 3 => if cur = bWord % 2 ^ 32 then .wait g mem none else .done g mem cur false
  | 4 => match gen with
    | some w => if cur = w then .wait g mem (some w) else .done g mem cur false
    | none => match mine with
      | none => .fault 0x023
      | some m =>
        if g.arrived m b then .wait g mem none
        else let (g', mem) := arrive m
             if g'.gen.getD b 0 = cur then .wait g' mem (some cur) else .done g' mem (g'.gen.getD b 0) false
  | _ => .done g mem (g.members + g.arr.getD b 0 % 2 ^ 16 * 2 ^ 32 + cur % 2 ^ 16 * 2 ^ 48) false

/-- An operation at an entry is tried: answered, left waiting, or faulting at its issuer. -/
def State.grpTry (s : State) (die ix fid : Nat) : State :=
  match s.flight? fid, alGet ix (s.die die).groups with
  | some f, some g =>
    let (d, i, b) := groupId f.sa.toNat
    let unq (g : Grp) : Grp := { g with q := g.q.filter fun x => x.1 != fid }
    let setG (s : State) (g : Grp) : State := s.modDie die fun x => { x with groups := alSet ix g x.groups }
    if g.owner ≠ some f.ptn then (setG s (unq g)).flightFault f { cls := clsRange, code := 0x023, opnd := f.sa.toNat }
    else match g.op (fnOf f.word) d i b (s.groupsOf f.who) f.sb.toNat f.aux.head? with
      | .fault c => (setG s (unq g)).flightFault f { cls := clsRange, code := c, opnd := f.sa.toNat }
      | .wait g' mem gen =>
        let s := (setG s g').setGroups f.who mem
        s.modFlight fid fun f => { f with stage := 1, aux := gen.toList }
      | .done g' mem v fl =>
        let s := (setG s (unq g')).setGroups f.who mem
        s.modFlight fid fun f => { f with stage := 2, after := s.fc + grpTime f.who die, aux := [v, if fl then 1 else 0] }
  | _, _ => s

/-- `GRP_ENTRY_APPLY` (R256): the entry applies the next operation that has arrived, then answers those that wait for a
condition it now finds met. An acquire's later accesses wait for the answer. -/
def execGrpEntryApply (die ix : Nat) (s : State) : Out :=
  match alGet ix (s.die die).groups with
  | none => .next s
  | some g =>
    let isNew (x : Nat × Nat) : Bool := decide (x.2 ≤ s.fc) && ((s.flight? x.1).map fun f => f.stage == 0 && s.mayIssue f).getD false
    let first := (g.q.filter isNew).foldl (fun (best : Option (Nat × Nat)) x => match best with
      | some b => if x.2 < b.2 then some x else some b
      | none => some x) none
    let s := match first with
      | some x => s.grpTry die ix x.1
      | none => s
    let waiting := ((alGet ix (s.die die).groups).map fun g => g.q.filter fun x =>
      ((s.flight? x.1).map fun f => f.stage == 1).getD false).getD []
    .next (waiting.foldl (fun s x => s.grpTry die ix x.1) s)

/-- An answered group operation is performed when its answer arrives; one to an entry that does not exist faults (R256). -/
def State.grpStep (s : State) (f : Flight) : State :=
  let (d, i, _) := groupId f.sa.toNat
  if f.stage = 2 then s.performVal f (w64 (f.aux.getD 0 0)) (f.aux.getD 0 0 != 0) (f.aux.getD 1 0 == 1)
  else if f.stage = 0 ∧ (alGet i (s.die d).groups).isNone then
    s.flightFault f { cls := clsRange, code := 0x023, opnd := f.sa.toNat }
  else s

/-! ## Fences (R258, R259) -/

/-- Memory operations of a context still outstanding. -/
def State.memBefore (s : State) (f : Flight) : Nat := ((s.earlier f).filter fun g => isMemOp g.word).length

/-- A fence fires and counts the operations still outstanding. -/
def fenceR (o : FormR) (s : State) : Out :=
  fireJob o.g (fun _ _ s f => .ok { f with aux := [s.memBefore f], after := s.fc + 1 }) jobPost s

def execFenceCtx (o : FormR) (s : State) : Out := fenceR o s
def execFencePage (o : FormR) (s : State) : Out := fenceR o s
def execFenceRgn (o : FormR) (s : State) : Out := fenceR o s
def execFenceDie (o : FormR) (s : State) : Out := fenceR o s
def execFenceDev (o : FormR) (s : State) : Out := fenceR o s
def execFenceSys (o : FormR) (s : State) : Out := fenceR o s

/-- A fence is performed when every earlier memory operation of its context is; a performed store is visible to every
agent (R218), so the scopes differ in nothing else. -/
def State.fenceStep (s : State) (f : Flight) : State :=
  if s.memBefore f = 0 then s.perform f Writes.none (f.aux.headD 0 != 0) false [] else s

/-- The commands of the issuer's partition still in the queues a `QFENCE` mask names, as 2^48 * queue + QSEQ. -/
def State.queued (s : State) (w : Who) (ptn mask : Nat) : List Nat :=
  let d := s.die w.die
  let port := w.port.die
  let eng (q : Nat) (e : Eng) : List Nat := (e.q.filter fun c => c.ptn == ptn).map fun c => q * 2 ^ 48 + c.qseq
  let copies := (List.range 3).flatMap fun i => if bitAt mask i then eng i (d.engs.getD i Eng.idle) else []
  let nm := if bitAt mask 3 then eng 3 ((alGet ptn (s.die port).nmq).getD Eng.idle) else []
  let tens := (List.range 2).flatMap fun i =>
    if bitAt mask (4 + i) then ((s.ten? w.page i).map fun t => t.q.map fun z => (4 + i) * 2 ^ 48 + z.seq).getD [] else []
  copies ++ nm ++ tens

/-- `QFENCE` (R259): a bad mask faults at firing; it remembers the commands it waits for. -/
def execQfence (o : FormR) (s : State) : Out :=
  fireJob o.g (fun w _ s f =>
    let m := f.sa.toNat
    if 64 ≤ m ∨ (!w.isElem ∧ 16 ≤ m) then .error { cls := clsRange, code := 0x025, opnd := m }
    else .ok { f with aux := s.queued w f.ptn m, after := s.fc + 1 }) jobPost s

def State.qfenceStep (s : State) (f : Flight) : State :=
  let now := s.queued f.who f.ptn f.sa.toNat
  if f.aux.all fun c => !now.contains c then s.perform f Writes.none (f.aux != []) false [] else s

/-! ## In-flight counters (R260) -/

/-- The region a `TCNT` counts in: the element's own, or for a teller the one its A word names, armed on its die. -/
def State.tcntRegion (s : State) (f : Flight) : Option Nat :=
  match f.who with
  | .elem pg _ _ _ => (s.page? pg).map (·.rg)
  | .tel .. =>
    let a := f.sa.toNat
    if bits a 11 7 ≠ 0 ∨ bits a 3 2 ≠ 0 then none
    else (s.regions.find? fun (_, r) => r.ptn == f.ptn && r.die == f.who.die && r.lseq % 2 ^ 52 == bits a 63 12 &&
      r.inst == bits a 6 4 && r.st == .armed).map (·.1)

def tcntR (o : FormR) (s : State) : Out :=
  fireJob o.g (fun _ _ s f => .ok (jobHolds f o.d.toNat (s.fc + 1)))
    (fun f s => match s.tcntRegion f with
      | some rg => (s.accept f).modRegion rg fun r => { r with tcq := r.tcq ++ [⟨f.fid, f.after⟩] }
      | none => (s.accept f).modFlight f.fid fun f => { f with stage := 9 }) s

def execTcntAdd (o : FormR) (s : State) : Out := tcntR o s
def execTcntSub (o : FormR) (s : State) : Out := tcntR o s
def execTcntRd (o : FormR) (s : State) : Out := tcntR o s
def execTcntWz (o : FormR) (s : State) : Out := tcntR o s

/-- A `TCNT` that names no region faults (R260). -/
def State.tcntStep (s : State) (f : Flight) : State :=
  if f.stage = 9 then s.flightFault f { cls := clsRange, code := 0x026, opnd := f.sa.toNat } else s

/-- The operation may be applied: it has arrived, no earlier one of its context waits, and a `.WZ` finds zero. -/
def State.tcntReady (s : State) (r : Region) (op : TcOp) : Bool :=
  match s.flight? op.fid with
  | none => true
  | some f =>
    decide (op.after ≤ s.fc) && s.mayIssue f &&
    (r.tcq.all fun q => !(decide (q.fid < op.fid) && ((s.flight? q.fid).map fun g => g.who.sameCtx f.who).getD false)) &&
    (fnOf f.word != 3 || r.fl.getD (f.sa.toNat % 4) 0 == 0)

/-- `TCNT_APPLY` (R260): the region controller applies one operation per fc, in arrival order. -/
def execTcntApply (rg : Nat) (s : State) : Out :=
  match s.region? rg with
  | none => .next s
  | some r => match r.tcq.find? fun q => s.tcntReady r q with
    | none => .next s
    | some op =>
      let s := s.modRegion rg fun r => { r with tcq := r.tcq.filter fun q => q.fid != op.fid }
      match s.flight? op.fid with
      | none => .next s
      | some f =>
        let c := f.sa.toNat % 4
        let old := r.fl.getD c 0
        let new := match fnOf f.word with
          | 0 => old + f.sb
          | 1 => old - f.sb
          | _ => old
        let s := s.modRegion rg fun r => { r with fl := r.fl.set c new }
        .next (s.performVal f new (new != 0) false)

end Sys2Proof.Machine
end

