-- ==== Sys2Proof/Machine/Shape.lean ====
section
/-!
DEFINITION. Shape records and the shape cache, opcodes 0x50-0x55 and `VHEAD` (R164, R167-R173, R202-R205): the record and
its check, what an instruction needs of the boundary table, window refills, and write-through.
-/

namespace Sys2Proof.Machine

/-! ## The record (R167) -/

/-- The element width of a record: PLN bits for `bpi`, 1 for `bit` (R167). -/
def elemWidth (ty pln : Nat) : Nat := if ty = 12 then pln else tyWidth ty

/-- The header fields of 32 bytes. -/
def hdrOf (bs : List Byte) : ShapeHdr where
  ty := recNat bs 2 1
  strict := bitAt (recNat bs 3 1) 0
  width := recNat bs 4 4
  pitch := recNat bs 8 4
  rows := recNat bs 0xC 4
  segs := recNat bs 0x10 4
  pln := recNat bs 0x14 1

/-- The offset of the first field of a header that breaks R167. -/
def hdrBad (bs : List Byte) : Option Nat :=
  let h := hdrOf bs
  let ew := elemWidth h.ty h.pln
  if recNat bs 0 2 ≠ 1 then some 0
  else if 15 ≤ h.ty then some 2
  else if 2 ≤ recNat bs 3 1 then some 3
  else if h.width = 0 ∨ 2 ^ 16 < h.width then some 4
  else if h.pitch = 0 ∨ h.pitch % ew ≠ 0 ∨ h.pitch < h.width * ew then some 8
  else if 2 ^ 20 < h.rows then some 0xC
  else if h.segs = 0 ∨ 4096 < h.segs then some 0x10
  else if (if h.ty = 12 then !((2 ≤ h.pln && h.pln ≤ 8) || h.pln == 17) else h.pln != 0) then some 0x14
  else if recNat bs 0x15 11 ≠ 0 then some 0x15 else none

/-- Entries of a boundary table from little-endian bytes. -/
def bndOf (bs : List Byte) : List Nat := tab (bs.length / 4) fun i => recNat bs (4 * i) 4

/-- The offset of the first entry of a window that breaks R167; `before` and `behind` are the entries next to the window, as far
as they are known. -/
def bndBad (h : ShapeHdr) (win : Nat) (l : List Nat) (before behind : Option Nat) : Option Nat :=
  (List.range (l.length + 1)).findSome? fun i =>
    let ix := 64 * win + i
    let last := if i = 0 then before.getD 0 else l.getD (i - 1) 0
    if i = l.length then (if (behind.map fun v => decide (v < last)).getD false then some (0x20 + 4 * ix) else none)
    else
      let v := l.getD i 0
      if (ix = 0 ∧ v ≠ 0) ∨ h.rows < v ∨ (ix = h.segs ∧ v ≠ h.rows) ∨ v < last then some (0x20 + 4 * ix) else none

/-- Entries a window holds. -/
def winCount (h : ShapeHdr) (win : Nat) : Nat := min 64 (h.segs + 1 - 64 * win)

/-- BADREC with the offset of the first offending field (R168). -/
def badRec (off addr : Nat) : FaultInfo := { cls := clsShape, code := 0x031, detail := off, opnd := addr }

def unboundFault : FaultInfo := { cls := clsShape, code := 0x030 }

/-! ## What an instruction needs of the table (R170) -/

/-- The boundary entries an instruction can see: the window and what it has read before. -/
def Shape.known (sh : Shape) (w : Who) (fid : Option Nat) : List (Nat × Nat) :=
  (List.range sh.bnd.length).map (fun i => (64 * sh.win + i, sh.bnd.getD i 0)) ++
  (sh.stash.filter fun x => x.1 == w && x.2.1 == fid).map fun x => x.2.2

/-- The entry of an index. -/
def entryOf (kn : List (Nat × Nat)) (i : Nat) : Option Nat := alGet i kn

/-- The nonempty segment of known entries that holds a row: its index and start. -/
def segOf (kn : List (Nat × Nat)) (x : Nat) : Option (Nat × Nat) :=
  kn.findSome? fun (i, b) => match entryOf kn (i + 1) with
    | some e => if b ≤ x ∧ x < e then some (i, b) else none
    | none => none

/-- Entries, or the segments of rows. -/
inductive Need where
  | entries (l : List Nat)
  | rows (l : List Nat)
  deriving DecidableEq, Repr

/-- The window to load next for a need; none when it is met. -/
def Shape.lack (sh : Shape) (kn : List (Nat × Nat)) (rows : Nat) : Need → Option Nat
  | .entries l => (l.find? fun i => (entryOf kn i).isNone).map (· / 64)
  | .rows l => (l.find? fun x => decide (x < rows) && (segOf kn x).isNone).map fun x =>
      if x < sh.bnd.headD 0 then sh.win - 1 else sh.win + 1

/-- The shape register a word captures and what it needs of its table, by its operands A and B (R164, R204, R205). -/
def shapeNeed (x : Word) (h : ShapeHdr) (sa sb : Word) : Need :=
  let kind := bits sa.toNat 19 16
  let ix := bits sa.toNat 15 0
  let kindB := bits sb.toNat 19 16
  let ixB := bits sb.toNat 15 0
  match opcOf x with
  | 0x51 =>
    if kind = 0 ∧ 1 ≤ ix ∧ ix < h.segs then .entries [ix - 1, ix + 1]
    else if kind = 1 then .entries [h.segs - 1] else .entries []
  | 0x52 => if kindB = 0 ∧ ixB ≤ h.segs then .entries [ixB] else .entries []
  | 0x54 => .rows [sb.toNat]
  | 0x55 => if sb.toNat < h.segs then .entries [sb.toNat, sb.toNat + 1] else .entries []
  | 0x3E =>
    let a := sa.toNat
    if a < h.rows then .rows ((List.range (a % 16 + 1)).map fun i => a / 16 * 16 + i) else .entries []
  | _ => .entries []

/-- The shape register a word names, if it names one (R171). -/
def shapeReg (x : Word) : Option Nat :=
  match opcOf x with
  | 0x50 | 0x51 | 0x53 => some (field x 19 5).toNat
  | 0x52 | 0x54 | 0x55 => some (field x 14 5).toNat
  | 0x3E | 0x60 => some (field x 9 5).toNat
  | 0x46 => if fnOf x % 2 = 1 then some (field x 9 5).toNat else none
  | _ => none

/-- The window that a slot's word must wait for before it can fire: not `SHBIND` and `SHINV`, nor `MMA` and `LDR`, which
wait after firing (R170). -/
def State.shapeStall (s : State) (w : Who) (x : Word) : Option (Nat × Nat) :=
  match w, shapeReg x with
  | .elem pg _ _ _, some sx => match s.shape? pg sx with
    | some sh =>
      if !sh.bound then none
      else (sh.lack (sh.known w none) sh.hdr.rows (shapeNeed x sh.hdr (s.readS w (field x 14 5).toNat)
        (s.readS w (field x 9 5).toNat))).map fun win => (sx, win)
    | none => none
  | _, _ => none

/-! ## Refills (R170) -/

/-- The port the shape cache uses: ME0, or ME2 of an upper half-page. -/
def State.shapePort (s : State) (pg : Nat) : Port :=
  .me pg (if ((s.page? pg).map (·.kind)).getD 0 = 2 then 2 else 0)

/-- 64-byte reads of a window: as many as its entries need. -/
def winReads (h : ShapeHdr) (win : Nat) : Nat := (4 * winCount h win + 63) / 64

/-- The accesses of read j of n bytes from an address, cut at 64-byte units, with their part numbers. -/
def readPieces (va n j : Nat) : List (Nat × Part) :=
  (recParts (va + 64 * j) (min 64 (n - 64 * j))).mapIdx fun i p => (2 * j + i, p)

/-- A refill's reads are dropped: the register they were for changes. -/
def State.dropRefill (s : State) (pg sx : Nat) : State :=
  { s.modShape pg sx fun sh => { sh with refill := none } with
    reqs := s.reqs.filter fun q => match q.job with
      | .refill g x _ => g != pg || x != sx
      | _ => true }

/-- The next 64-byte read of a refill enters the port queue when that has room: one a fc, behind the write-throughs owed
(R170, R173). -/
def State.refillAsk (s : State) (pg sx : Nat) : State :=
  match s.shape? pg sx with
  | none => s
  | some sh => match sh.refill with
    | none => s
    | some r =>
      let ps := readPieces (sh.addr + 0x20 + 256 * r.win) (4 * winCount sh.hdr r.win) r.asked
      let port := s.shapePort pg
      if winReads sh.hdr r.win ≤ r.asked ∨ s.fc < r.next ∨ sh.through ≠ [] ∨ !s.portRoom port (.refill pg sx 0) ps.length then s
      else
        let s := s.modShape pg sx fun sh => { sh with refill := sh.refill.map fun x => { x with asked := x.asked + 1, next := s.fc + 1 } }
        ps.foldl (fun s x => match s.ask (.refill pg sx x.1) port (((s.page? pg).map (·.asid)).getD 0) x.2 r.tt r.who.node
            (s.ivalOf r.who) with
          | .ok s => s
          | .error e => s.refillFault pg sx e) s

/-- A refill of a window begins for an instruction, unless the register has one under way: its first read enters the queue. -/
def State.startRefill (s : State) (pg sx win : Nat) (w : Who) (x : Word) (fid : Option Nat) : State :=
  match s.shape? pg sx with
  | none => s
  | some sh =>
    if sh.refill.isSome then s
    else (s.modShape pg sx fun sh => { sh with refill := some ⟨win, w, x, fid, s.ttOf w, 0, s.fc, []⟩ }).refillAsk pg sx

/-- What an instruction kept of earlier windows is forgotten. -/
def State.clearStash (s : State) (pg sx : Nat) (w : Who) (fid : Option Nat) : State :=
  s.modShape pg sx fun sh => { sh with stash := sh.stash.filter fun x => !(x.1 == w && x.2.1 == fid) }

/-- The bytes of the reads of a record, when all have arrived: those of `readPieces`, in order. -/
def piecesOf (va n : Nat) (got : List (Nat × List Byte)) : Option (List Byte) :=
  let ps := (List.range ((n + 63) / 64)).flatMap fun j => readPieces va n j
  if ps.all fun x => (alGet x.1 got).isSome then some (ps.flatMap fun x => (alGet x.1 got).getD []) else none

/-- A window's entries from its bytes, checked; the entries next to it are given as far as they are known. -/
def windowOf (h : ShapeHdr) (addr win : Nat) (bs : List Byte) (before behind : Option Nat) : Except FaultInfo (List Nat) :=
  match bndBad h win (bndOf bs) before behind with
  | some off => .error (badRec off addr)
  | none => .ok (bndOf bs)

/-! ## The instructions -/

/-- A shape word whose result is known when it fires, on the shape register `sx`; the need has been met. -/
def shapeR (o : FormR) (sx : Nat) (k : Who → Word → State → Shape → List (Nat × Nat) → Except FaultInfo Done) (s : State) : Out :=
  let run := fireTimed o.g (fun w x s => match w with
    | .tel .. => .ok {}
    | .elem pg _ _ _ => match s.shape? pg sx with
      | some sh => if sh.bound then k w x s sh (sh.known w none) else .error unboundFault
      | none => .error unboundFault) s
  match run, s.issue with
  | .next t, some (.elem pg pe cx n, _) => .next (t.clearStash pg sx (.elem pg pe cx n) none)
  | r, _ => r

def shIdx (v : Nat) : FaultInfo := { cls := clsRange, code := 0x018, opnd := v }

/-- `SHGET` (R205). -/
def execShget (o : FormR) (s : State) : Out :=
  shapeR o o.a.toNat (fun w _ s sh kn =>
    let sel := (s.readS w o.b.toNat).toNat
    let ix := bits sel 15 0
    let put (v : Nat) : Except FaultInfo Done :=
      .ok { wr := writeS o.d.toNat (s.tagOf w 26 o.b.toNat) (w64 v), outcome := v != 0 }
    match bits sel 19 16 with
    | 0 => if ix ≤ sh.hdr.segs then put ((entryOf kn ix).getD 0) else .error (shIdx sel)
    | 1 => put sh.hdr.rows
    | 2 => put (if sh.hdr.strict then 1 else 0)
    | 3 => put sh.hdr.segs
    | 4 => put sh.hdr.width
    | 5 => put sh.hdr.pitch
    | 6 => put sh.hdr.ty
    | 7 => put sh.addr
    | _ => .error (shIdx sel)) s

/-- `SHSEG` (R205). -/
def execShseg (o : FormR) (s : State) : Out :=
  shapeR o o.a.toNat (fun w _ s sh kn =>
    let x := (s.readS w o.b.toNat).toNat
    let (v, head) := if sh.hdr.rows ≤ x then (sh.hdr.segs, false) else
      match segOf kn x with
      | some (i, b) => (i, b == x)
      | none => (sh.hdr.segs, false)
    .ok { wr := writeS o.d.toNat (s.tagOf w 26 o.b.toNat) (w64 v), outcome := v != 0, flag := head }) s

/-- `SHROW` (R205). -/
def execShrow (o : FormR) (s : State) : Out :=
  shapeR o o.a.toNat (fun w _ s sh kn =>
    let i := (s.readS w o.b.toNat).toNat
    if sh.hdr.segs ≤ i then .error (shIdx i)
    else
      let b := (entryOf kn i).getD 0
      let len := (entryOf kn (i + 1)).getD 0 - b
      let v := b + len * 2 ^ 32
      .ok { wr := writeS o.d.toNat (s.tagOf w 26 o.b.toNat) (w64 v), outcome := v != 0, flag := len == 0 }) s

/-- One in a type (1, or 1.0). -/
def oneOf (ty : Nat) : Nat := if tyFloat ty then (fmtOf ty).bias.toNat * 2 ^ (fmtOf ty).mb else 1

/-- `VHEAD` (R164). -/
def execVhead (o : FormR) (s : State) : Out :=
  shapeR o o.b.toNat (fun w _ s sh kn =>
    let a := (s.readS w o.a.toNat).toNat
    let ty := o.ty.toNat
    let isHead (x : Nat) : Bool := ((segOf kn x).map fun p => p.2 == x).getD false
    let one := decide (a < sh.hdr.rows) && (List.range (a % 16 + 1)).all fun i => !isHead (a / 16 * 16 + i)
    let v := packLanes (tyWidth ty) (List.replicate (tyLanes ty) (if one then oneOf ty else 0))
    .ok { w := 4, wr := writeV o.d.toNat (s.tagOf w o.a.toNat 26) v, outcome := true }) s

/-- A write-through of the page that an earlier `SHSET` owes is still to be performed (R173). -/
def State.throughOwed (s : State) (pg fid : Nat) : Bool :=
  ((s.page? pg).map fun p => p.shapes.any fun (h : Shape) => h.through.any fun t => decide (t.name < fid)).getD false

/-- `SHBIND`'s next read is issued behind the write-throughs owed (R170, R173). -/
def State.shbindAsk (s : State) (f : Flight) : State := if s.throughOwed f.who.page f.fid then s else s.issuePart f

/-- The bytes of a record's header and first window, as the record's header stands in memory now. -/
def State.recLength (s : State) (f : Flight) : Nat :=
  match s.readRec f.port.die f.asid f.tt f.sa.toNat 32 with
  | .ok (bs, _) => 32 + 4 * min 64 (min 4096 (hdrOf bs).segs + 1)
  | .error _ => 32

/-- `SHBIND` fires: it reads header and window 0 through the shape cache's port, a 64-byte unit a fc; how much to ask for before
the header has arrived is taken from the record as it stands (R203; log 130). -/
def execShbind (o : FormR) (s : State) : Out :=
  fireJob o.g (fun w _ s f =>
    match alignFault 2 f.sa.toNat 32 with
    | some e => .error e
    | none =>
      let f := { f with port := s.shapePort w.page }
      .ok { f with holds := f.holds ++ [.s o.d.toNat], plan := recParts f.sa.toNat (s.recLength f) }) (fun f s => s.shbindAsk f) s

/-- `SHINV` (R205). -/
def execShinv (o : FormR) (s : State) : Out :=
  fireJob o.g (fun _ _ s f => .ok { f with holds := f.holds ++ [.s o.d.toNat], after := s.fc + 1 }) (fun _ s => s) s

/-- What a `SHSET` changes: the new header, table entries by index, write-throughs, and the fields written (R204). -/
structure ShChange where
  hdr : ShapeHdr
  ents : List (Nat × Nat)
  thru : List (Nat × Nat × Nat)
  n : Nat

/-- `SHSET`'s change, or its fault. -/
def shChange (sh : Shape) (kn : List (Nat × Nat)) (sel v : Nat) : Except FaultInfo ShChange :=
  let h := sh.hdr
  let ix := bits sel 15 0
  let bad : Except FaultInfo ShChange := .error { cls := clsShape, code := 0x031, opnd := v }
  match bits sel 19 16 with
  | 0 =>
    if ix = 0 ∨ h.segs ≤ ix then .error (shIdx sel)
    else if (entryOf kn (ix - 1)).getD 0 ≤ v ∧ v ≤ (entryOf kn (ix + 1)).getD 0 then
      .ok ⟨h, [(ix, v)], [(0x20 + 4 * ix, 4, v)], 1⟩
    else bad
  | 1 =>
    if (entryOf kn (h.segs - 1)).getD 0 ≤ v ∧ v ≤ 2 ^ 20 then
      .ok ⟨{ h with rows := v }, [(h.segs, v)], [(0xC, 4, v), (0x20 + 4 * h.segs, 4, v)], 2⟩
    else bad
  | 2 => .ok ⟨{ h with strict := bitAt v 0 }, [], [(3, 1, v % 2)], 1⟩
  | 3 =>
    if h.rows ≤ v ∧ v ≤ 2 ^ 20 ∧ h.segs + 1 ≤ 4096 then
      .ok ⟨{ h with segs := h.segs + 1, rows := v }, [(h.segs + 1, v)],
        [(0x10, 4, h.segs + 1), (0x20 + 4 * (h.segs + 1), 4, v), (0xC, 4, v)], 3⟩
    else bad
  | _ => .error (shIdx sel)

/-- `SHSET` fires: its condition is checked, its change takes place at its write-back (R173, R204). -/
def execShset (o : FormR) (s : State) : Out :=
  let run := fireJob o.g (fun w _ s f =>
    match s.shape? w.page o.d.toNat with
    | some sh =>
      if !sh.bound then .error unboundFault
      else match shChange sh (sh.known w none) f.sa.toNat f.sb.toNat with
        | .error e => .error e
        | .ok _ => .ok { f with holds := f.holds ++ [.s o.d.toNat], after := s.fc + 1 }
    | none => .error unboundFault) (fun _ s => s) s
  run

/-- A window with entries changed; an entry just behind a window that is not full joins it. -/
def setEntries (win : Nat) (bnd : List Nat) (ents : List (Nat × Nat)) : List Nat :=
  ents.foldl (fun l e =>
    if e.1 / 64 = win then (if e.1 % 64 < l.length then l.set (e.1 % 64) e.2 else l ++ [e.2]) else l) bnd

/-- `SHBIND` performed (R168, R203): the record is checked and bound; where its table needs more than was asked for, reading
goes on. -/
def State.shbindDone (s : State) (f : Flight) (bs : List Byte) : State :=
  let pg := f.who.page
  let sx := (field f.word 19 5).toNat
  let addr := f.sa.toNat
  let h := hdrOf bs
  match hdrBad bs with
  | some off => s.flightFault f (badRec off addr)
  | none =>
    let need := 32 + 4 * winCount h 0
    if bs.length < need then
      s.modFlight f.fid fun f => { f with plan := f.plan ++ recParts (addr + bs.length) (need - bs.length) }
    else match windowOf h addr 0 ((bs.take need).drop 32) none none with
      | .error e => s.flightFault f e
      | .ok bnd =>
        ((s.dropRefill pg sx).modShape pg sx fun old =>
          { bound := true, addr := addr, hdr := h, win := 0, bnd := bnd, refill := none, stash := [], through := old.through }).perform
            f Writes.none true false []

/-- Write-throughs of a change get their names, oldest first. -/
def throughs (f : Flight) (addr due : Nat) (l : List (Nat × Nat × Nat)) (s : State) : List Through × State :=
  l.foldl (fun x t =>
    let (id, s) := x.2.newId
    (x.1 ++ [⟨addr + t.1, t.2.1, t.2.2, due, id, f, false⟩], s)) ([], s)

/-- Shape words performed: `SHBIND`, `SHSET`, `SHINV` write their register (R203-R205). A refill under way when a `SHSET`
writes back begins again, behind its write-throughs (R173). -/
def State.shapeStep (s : State) (f : Flight) : State :=
  let pg := f.who.page
  let sx := (field f.word 19 5).toNat
  match opcOf f.word with
  | 0x50 =>
    if f.stage < f.plan.length then s.shbindAsk f
    else if f.left = 0 then s.shbindDone f f.bytes else s
  | 0x51 => match s.shape? pg sx with
    | none => s
    | some sh => match shChange sh (sh.known f.who none) f.sa.toNat f.sb.toNat with
      | .error e => s.flightFault f e
      | .ok c =>
        let (thru, s) := throughs f sh.addr (s.fc + 1) c.thru s
        ((s.dropRefill pg sx).modShape pg sx fun sh =>
          { sh with hdr := c.hdr, bnd := setEntries sh.win sh.bnd c.ents, stash := [], through := sh.through ++ thru
                    refill := none }).perform f Writes.none true false []
  | _ =>
    let was := ((s.shape? pg sx).map (·.bound)).getD false
    ((s.dropRefill pg sx).modShape pg sx fun sh => { sh with bound := false, stash := [] }).perform f Writes.none was false []

/-- The stores of a page fired before a name have been performed. -/
def State.pageStored (s : State) (pg before : Nat) : Bool :=
  (s.reqs.all fun r => match r.port with
    | .me p _ => p != pg || decide (before ≤ r.rid) || r.data.isNone
    | .tel _ => true) &&
  s.flights.all fun f => f.who.page != pg || !f.who.isElem || decide (before ≤ f.fid) || !isMemOp f.word

/-- `SHSET_WRITE_THROUGH` (R173): the oldest change owed enters the port queue as a store into the record, by the `SHSET`'s
tile-task and interval, as a release of the page's stores. -/
def execShsetWriteThrough (pg sx : Nat) (s : State) : Out :=
  match (s.shape? pg sx).bind fun sh => sh.through.find? fun t => !t.sent with
  | none => .next s
  | some t =>
    let port := s.shapePort pg
    let job : ReqFor := .through pg sx t.name
    if s.fc < t.due ∨ !s.pageStored pg t.name ∨ !s.portRoom port job 1 then .next s
    else
      let s := s.modShape pg sx fun sh => { sh with through := sh.through.map fun x => if x.name = t.name then { x with sent := true } else x }
      let p : Part := ⟨t.va, t.size, some (leBytes t.size t.val, allOnes t.size)⟩
      match s.ask job port t.by_.asid p t.by_.tt t.by_.who.node t.by_.ival with
      | .ok s => .next s
      | .error e => .next (s.throughFault pg sx t.name e)

end Sys2Proof.Machine
end

