-- ==== Sys2Proof/Machine/Matrix.lean ====
section
/-!
DEFINITION. The matrix array: tile words, opcodes 0x40-0x4E (R177-R201), performed in the order of their tenant's queue,
the macro-op sequencer's engine steps, flushes, arm records, and the refills of shape windows (R170).
-/

namespace Sys2Proof.Machine

/-! ## Tenants and tile registers (R178, R179, R186) -/

/-- The driver's tenant at a slot's element context. -/
def State.tenDriven (s : State) : Who → Option Nat
  | .elem pg pe cx _ => (List.range 2).find? fun i => ((s.ten? pg i).bind (·.drv)) == some (pe, cx)
  | .tel .. => none

/-- Rows of a tenant: those of R71's split, and in a half-page all 8 for tenant 0 (R179). -/
def Page.tenRows (p : Page) (ten : Nat) : Nat :=
  if p.kind ≠ 0 then (if ten = 0 then 8 else 0) else if ten = 0 then p.mtx.r0 else 16 - p.mtx.r0

/-- The array row that is a tenant's row 0. -/
def Page.tenBase (p : Page) (ten : Nat) : Nat := if p.kind = 0 ∧ ten = 1 then p.mtx.r0 else 0

/-- The width of an element in its cell; a bpi element's is 8 (log 24). -/
def cellW (ty : Nat) : Nat := if ty = 12 then 8 else tyWidth ty

def Page.tdesc (p : Page) (ten z : Nat) : ZDesc := ((p.mtx.tens[ten]?).bind fun t => t.desc[z]?).getD ⟨0, 0, 0, 0, 2⟩

/-- A register's descriptor and its elements as its tenant sees them: rows of patterns, 16 columns each. -/
structure Tile where
  desc : ZDesc
  rows : List (List Nat)
  deriving DecidableEq, Repr

/-- Element (i, k); every cell outside the shape reads as zero (R186). -/
def Tile.at (t : Tile) (i k : Nat) : Nat :=
  if i < t.desc.rows ∧ k < t.desc.cols then (t.rows.getD i []).getD k 0 else 0

def Page.tile (p : Page) (ten z : Nat) : Tile where
  desc := p.tdesc ten z
  rows := tab (p.tenRows ten) fun i => ((p.mtx.cells.drop (z * 256 + (p.tenBase ten + i) * 16)).take 16).map (·.toNat)

/-- A register written: descriptor and elements; cells outside the shape become zero. -/
def Page.setTile (p : Page) (ten z : Nat) (d : ZDesc) (f : Nat → Nat → Nat) : Page :=
  let r := p.tenRows ten
  let off := z * 256 + p.tenBase ten * 16
  let new : List Word := (tab r fun i => tab 16 fun k =>
    if i < d.rows ∧ k < d.cols then BitVec.ofNat 64 (f i k % 2 ^ cellW d.ty) else 0#64).flatten
  { p with mtx := { p.mtx with
      cells := p.mtx.cells.take off ++ new ++ p.mtx.cells.drop (off + 16 * r)
      tens := p.mtx.tens.modify ten fun t => { t with desc := t.desc.set z d } } }

/-- The format code of R93. -/
def fmtCodeOf (f : Nat × Nat) : Nat := f.2 * 16 + f.1

/-! ## Firing (R187, R189) -/

/-- fc a tile word takes at the head of its queue, where R189 gives a number. -/
def tileTime (x : Word) : Nat :=
  match opcOf x with
  | 0x40 | 0x4A | 0x4C | 0x4E => 2
  | 0x44 | 0x4B => 4
  | 0x45 | 0x47 | 0x48 | 0x49 => 16
  | _ => 1

/-- A fired tile word enters its tenant's queue with the next QSEQ, and the queue of every shadow that the tenant has taken
and its driver has not (R397; log 118). -/
def State.enqueue (s : State) (f : Flight) : State :=
  match s.tenDriven f.who with
  | none => s.raiseFlight f { cls := clsBadcfg, code := 0x016 }
  | some i => s.modTen f.who.page i fun t =>
      let ent : ZEnt := ⟨t.qseq + 1, f.fid, if t.q = [] then s.fc + tileTime f.word - 1 else 0⟩
      { t with qseq := t.qseq + 1
               q := t.q ++ [ent]
               shadows := t.shadows.map fun sh =>
                 if f.ival < sh.ival then { sh with q := sh.q ++ [ent], flights := sh.flights ++ [f] } else sh }

/-- A tile word fires: it holds what it writes and is queued. -/
def tileR (o : FormR) (h : List Res) (k : State → Flight → Flight) (s : State) : Out :=
  fireJob o.g (fun _ _ s f => .ok (k s { f with holds := f.holds ++ h })) (fun f s => s.enqueue f) s

/-- A tile word that writes the tile register D. -/
def tileD (o : FormR) (s : State) : Out := tileR o [.z o.d.toNat] (fun _ f => f) s

def execZcfgTy (o : FormR) (s : State) : Out := tileD o s
def execZcfgRow (o : FormR) (s : State) : Out := tileD o s
def execZcfgCol (o : FormR) (s : State) : Out := tileD o s
def execZcfgAll (o : FormR) (s : State) : Out := tileD o s
def execZrd (o : FormR) (s : State) : Out := tileR o (destHolds o.d.toNat) (fun _ f => f) s
def execZld (o : FormR) (s : State) : Out := tileD o s
def execZst (o : FormR) (s : State) : Out := tileR o [] (fun _ f => f) s
def execZfillZero (o : FormR) (s : State) : Out := tileD o s
def execZfillOnes (o : FormR) (s : State) : Out := tileD o s
def execZfillIden (o : FormR) (s : State) : Out := tileD o s
def execZfillTril (o : FormR) (s : State) : Out := tileD o s
def execZfillTrls (o : FormR) (s : State) : Out := tileD o s
def execZfillTriu (o : FormR) (s : State) : Out := tileD o s
def execZfillBcst (o : FormR) (s : State) : Out := tileD o s
def execZwld (o : FormR) (s : State) : Out := tileR o [] (fun _ f => f) s
def execMmaD (o : FormR) (s : State) : Out := tileD o s
def execMmaDt (o : FormR) (s : State) : Out := tileD o s

/-- The shape a ragged `MMA` captures as it fires; none when the register is unbound (R172). A table larger than the window
keeps the register in use (R171). -/
def captureShape (sx : Nat) (s : State) (f : Flight) : Flight :=
  match s.shape? f.who.page sx with
  | some sh =>
    if sh.bound then
      { f with cap := some (sh.hdr, sh.addr, sh.win, sh.bnd), reads := if 64 < sh.hdr.segs + 1 then [.s sx] else [] }
    else f
  | none => f

def execMmaR (o : FormR) (s : State) : Out := tileR o [.z o.d.toNat] (captureShape o.b.toNat) s
def execMmaRt (o : FormR) (s : State) : Out := tileR o [.z o.d.toNat] (captureShape o.b.toNat) s
def execZtrn (o : FormR) (s : State) : Out := tileD o s
def execZaddAdd (o : FormR) (s : State) : Out := tileD o s
def execZaddScl (o : FormR) (s : State) : Out := tileD o s
def execZcvt (o : FormR) (s : State) : Out := tileD o s
def execZarm (o : FormR) (s : State) : Out := tileR o [] (fun _ f => f) s
def execZsplit (o : FormR) (s : State) : Out := tileR o [] (fun _ f => f) s
def execZstat (o : FormR) (s : State) : Out := tileR o (destHolds o.d.toNat) (fun _ f => f) s

/-- `ZWAIT` remembers the entries ahead of it (R199). -/
def execZwait (o : FormR) (s : State) : Out :=
  tileR o [] (fun s f =>
    { f with aux := [((s.tenDriven f.who).bind fun i => (s.ten? f.who.page i).map fun t => t.q.length).getD 0] }) s

def execZmovTov (o : FormR) (s : State) : Out := tileR o (destHolds o.d.toNat) (fun _ f => f) s
def execZmovFrv (o : FormR) (s : State) : Out := tileD o s

/-! ## Completion at the head of a queue -/

/-- The head entry is done: the next one becomes the head and begins in the next fc. -/
def State.dequeueTile (s : State) (pg ten : Nat) : State :=
  match s.ten? pg ten with
  | none => s
  | some t =>
    let next := match t.q.drop 1 with
      | z :: l => match s.flight? z.fid with
        | some f => { z with after := s.fc + tileTime f.word } :: l
        | none => z :: l
      | [] => []
    s.modTen pg ten fun t => { t with q := next, run := none }

/-- A tile word completes: its writes and predicate, its events to the tenant's counts, and the queue moves on. -/
def State.tileDone (s : State) (pg ten : Nat) (f : Flight) (wr : Writes) (outcome flag : Bool) (ev : List Nat) : State :=
  ((s.settle f { wr with p := wr.p ++ puWrites f.word outcome flag }).modTen pg ten fun t =>
    { t with cnts := addCnts t.cnts ev }).dequeueTile pg ten

def ztyFault (ty : Nat) : FaultInfo := { cls := clsFmt, code := 4, opnd := ty }
def zdimFault (v : Nat) : FaultInfo := { cls := clsRange, code := 0x015, opnd := v }

/-- A tile result: what a word writes into a register, its flag and events. -/
structure TileRes where
  z : Nat
  desc : ZDesc
  f : Nat → Nat → Nat
  flag : Bool := false
  ev : List Nat := []

/-- Elements of a shape, mapped. -/
def eltsOf (d : ZDesc) {α : Type} (f : Nat → Nat → α) : List α := (tab d.rows fun i => tab d.cols fun k => f i k).flatten

/-- A result from a grid of lane results. -/
def gridRes (z : Nat) (d : ZDesc) (f : Nat → Nat → LaneRes) : TileRes :=
  let g := tab d.rows fun i => tab d.cols fun k => f i k
  { z := z, desc := d, f := fun i k => (((g.getD i [])[k]?).map (·.pat)).getD 0
    flag := g.any fun r => r.any (·.flag), ev := sumEvents (g.flatten.map (·.ev)) }

/-- `ZCFG` (R190). -/
def zcfg (p : Page) (ten : Nat) (f : Flight) : Except FaultInfo TileRes :=
  let z := (field f.word 19 5).toNat
  let a := f.sa.toNat
  let old := p.tile ten z
  let ty := tyOf f.word
  let fn := fnOf f.word
  let d := old.desc
  let d := if fn = 0 ∨ fn = 3 then { d with ty := ty, pln := if ty = 12 then bits a 21 16 else 0 } else d
  let d := if fn = 1 ∨ fn = 3 then { d with rows := bits a 4 0 } else d
  let d := if fn = 2 ∨ fn = 3 then { d with cols := bits a 12 8 } else d
  if p.tenRows ten < d.rows ∨ 16 < d.cols ∨ (d.ty = 12 ∧ (d.pln < 2 ∨ 8 < d.pln)) then .error (zdimFault a)
  else .ok { z := z, desc := d, f := old.at }

/-- `ZFILL` (R194). -/
def zfill (p : Page) (ten : Nat) (f : Flight) : TileRes :=
  let ty := tyOf f.word
  let fn := fnOf f.word
  let one := oneOf ty
  { z := (field f.word 19 5).toNat, desc := ⟨ty, 0, p.tenRows ten, 16, 2⟩
    f := fun i k => match fn with
      | 0 => 0
      | 1 => one
      | 2 => if k = i then one else 0
      | 3 => if k ≤ i then one else 0
      | 4 => if k < i then one else 0
      | 5 => if i ≤ k then one else 0
      | _ => f.sa.toNat }

/-- `ZTRN` (R197; log 25). -/
def ztrn (p : Page) (ten : Nat) (f : Flight) : Except FaultInfo TileRes :=
  let a := p.tile ten (field f.word 14 5).toNat
  if p.tenRows ten < a.desc.cols then .error (zdimFault a.desc.cols)
  else .ok { z := (field f.word 19 5).toNat, desc := { a.desc with rows := a.desc.cols, cols := a.desc.rows }
             f := fun i k => a.at k i }

/-- `ZADD` (R197). -/
def zadd (p : Page) (ten : Nat) (f : Flight) : Except FaultInfo TileRes :=
  let ty := tyOf f.word
  let a := p.tile ten (field f.word 14 5).toNat
  let z := (field f.word 19 5).toNat
  if a.desc.ty ≠ ty then .error (ztyFault a.desc.ty)
  else if fnOf f.word = 0 then
    let b := p.tile ten (field f.word 9 5).toNat
    if b.desc.ty ≠ ty then .error (ztyFault b.desc.ty)
    else if a.desc.rows ≠ b.desc.rows ∨ a.desc.cols ≠ b.desc.cols then .error (zdimFault b.desc.rows)
    else .ok (gridRes z a.desc fun i k => laneAdd ty (a.at i k) (b.at i k))
  else .ok (gridRes z a.desc fun i k => laneMul ty (a.at i k) (f.sb.toNat % 2 ^ tyWidth ty))

/-- The exact product acc * s_w * s_a * 2^t rounded once (R85, R198). -/
def rescale (acc : Int) (sw sa : Nat) (t : Int) : FRes :=
  let v := mulX (mulX (.fin (decide (acc < 0)) acc.natAbs 0) (fmtBf16.decode sw)) (fmtBf16.decode sa)
  fmtF32.ofV .rne (match v with
    | .fin n m e => .fin n m (e + t)
    | x => x)

/-- `ZCVT` (R198). -/
def zcvt (p : Page) (ten : Nat) (f : Flight) : Except FaultInfo TileRes :=
  let ty := tyOf f.word
  let a := p.tile ten (field f.word 14 5).toNat
  let z := (field f.word 19 5).toNat
  let d := { a.desc with ty := ty, pln := 0 }
  if (field f.word 9 5).toNat = 26 then
    let src := if a.desc.ty = 12 then 0 else a.desc.ty
    .ok (gridRes z d fun i k => let r := convert .rne src ty (a.at i k) false; { pat := r.pat, ev := r.ev })
  else if a.desc.ty ≠ 2 ∨ ty ≠ 10 then .error (ztyFault a.desc.ty)
  else
    let l (j : Nat) : Nat := lane 16 f.vb j
    .ok (gridRes z d fun i k =>
      let r := rescale (signed (a.at i k) 32) (l i) (l 16) (signed (l 17) 16)
      { pat := r.pat, ev := r.ev })

/-- `ZMOV` (R201): the columns of the half that B[8] selects when elements are 64 bits wide. -/
def zmovCols (d : ZDesc) (b : Nat) : Nat × Nat :=
  if d.ty = 11 then (if bitAt b 8 then (8, d.cols - 8) else (0, min d.cols 8))
  else (0, if cellW d.ty = 64 then min d.cols 8 else d.cols)

/-- The fault `ZMOV` finds in its tile. -/
def zmovFault (d : ZDesc) (f : Flight) : Option FaultInfo :=
  if d.ty ≠ tyOf f.word then some (ztyFault d.ty)
  else if d.rows ≤ f.sb.toNat % 32 then some (zdimFault f.sb.toNat) else none

def zmovTov (p : Page) (ten : Nat) (f : Flight) : Except FaultInfo (Vec × Nat) :=
  let a := p.tile ten (field f.word 14 5).toNat
  let (off, n) := zmovCols a.desc f.sb.toNat
  match zmovFault a.desc f with
  | some e => .error e
  | none => .ok (packLanes (cellW a.desc.ty) (tab n fun j => a.at (f.sb.toNat % 32) (off + j)), n)

def zmovFrv (p : Page) (ten : Nat) (f : Flight) : Except FaultInfo (TileRes × Nat) :=
  let z := (field f.word 19 5).toNat
  let d := p.tile ten z
  let (off, n) := zmovCols d.desc f.sb.toNat
  match zmovFault d.desc f with
  | some e => .error e
  | none => .ok ({ z := z, desc := d.desc, f := fun i k =>
      if i = f.sb.toNat % 32 ∧ off ≤ k ∧ k < off + n then lane (cellW d.desc.ty) f.va (k - off) else d.at i k }, n)

/-- `ZWLD` (R195): the array rows of the tenant and its latched format. -/
def zwld (p : Page) (ten : Nat) (f : Flight) : Except FaultInfo Page :=
  let t := p.tile ten (field f.word 19 5).toNat
  let d := t.desc
  let r := p.tenRows ten
  if d.ty ≠ tyOf f.word then .error (ztyFault d.ty)
  else if d.ty = 12 ∧ (eltsOf d fun i k => signed (t.at i k) 8).any fun v =>
      decide (v < -(2 ^ (d.pln - 1) : Nat)) || decide ((2 ^ (d.pln - 1) : Nat) ≤ v) then
    .error { cls := clsRange, code := 0x017 }
  else
    let new : List Word := (tab r fun i => tab 16 fun k => BitVec.ofNat 64 (t.at i k)).flatten
    let off := p.tenBase ten * 16
    .ok { p with mtx := { p.mtx with
      wts := p.mtx.wts.take off ++ new ++ p.mtx.wts.drop (off + 16 * r)
      tens := p.mtx.tens.modify ten fun t => { t with fmt := some (d.ty, d.pln) } } }

/-- `ZSPLIT` (R199): rows that change tenant are zeroed, formats cleared, descriptors cut. -/
def zsplit (p : Page) (r0 : Nat) : Page :=
  let moves (i : Nat) : Bool := decide (i < p.mtx.r0) != decide (i < r0)
  let clr (l : List Word) : List Word := l.mapIdx fun j x => if moves (j / 16 % 16) then 0 else x
  { p with mtx := { p.mtx with
      r0 := r0, cells := clr p.mtx.cells, wts := clr p.mtx.wts
      tens := p.mtx.tens.mapIdx fun i t => { t with
        fmt := none
        desc := t.desc.map fun d => { d with rows := min d.rows (if i = 0 then r0 else 16 - r0) } } } }

/-- `ZSTAT` (R200). -/
def zstat (t : Tenant) (a : Nat) : Nat :=
  if a < 5 then t.ctr.getD a 0
  else if a = 5 then t.left.getD (2 ^ 64 - 1)
  else if a = 6 then (t.fmt.map fmtCodeOf).getD 0xFFFF
  else if a = 7 then t.q.length
  else
    let d := t.desc.getD (a - 8) ⟨0, 0, 0, 0, 2⟩
    d.ct * 2 ^ 28 + d.ty * 2 ^ 24 + d.pln * 2 ^ 16 + d.cols * 2 ^ 8 + d.rows

/-- `ZRD`'s tokens (R191). -/
def zrdTokens (t : Tile) : List Tok :=
  let d := t.desc
  let w := cellW d.ty
  if d.rows = 0 then [⟨d.ct, 0⟩]
  else (tab d.rows fun i =>
    let tag := if i + 1 = d.rows then d.ct else tagEor
    let part (off n : Nat) : Vec := packLanes w (tab n fun j => t.at i (off + j))
    if 512 < d.cols * w then [(⟨tagData, part 0 8⟩ : Tok), ⟨tag, part 8 (d.cols - 8)⟩] else [⟨tag, part 0 d.cols⟩]).flatten

/-- The stores of each row of a `ZST` (R193). -/
def zstRows (t : Tile) (a b : Nat) : List (List Part) :=
  let w := cellW t.desc.ty
  tab t.desc.rows fun i =>
    let bs := leBytes (t.desc.cols * w / 8) (packNat w (tab t.desc.cols fun k => t.at i k))
    let va := (a + i * b) % 2 ^ 64
    (State.readRec.unitsLong va bs.length).map fun (x, n) =>
      ({ va := x, len := n, data := some ((bs.drop (x - va)).take n, allOnes n) } : Part)

def zstParts (t : Tile) (a b : Nat) : List Part := (zstRows t a b).flatten

/-- The row whose first store is part n, if one is. -/
def rowAt : List (List Part) → Nat → Option (List Part)
  | [], _ => none
  | r :: l, n => if n = 0 then some r else if r.length ≤ n then rowAt l (n - r.length) else none

/-- A token put into an element's out port; the latch stays reserved while more follow. -/
def State.emitTok (s : State) (pg pe port : Nat) (t : Tok) (last : Bool) : State :=
  let s := s.modPage pg fun p => p.putAt s.fc false (epPe pe port) t
  if last then s else s.modPage pg fun p => p.reserve false (epPe pe port)

/-- The out latch an outstanding instruction has reserved is empty. -/
def State.latchEmpty (s : State) (pg pe port : Nat) : Bool :=
  ((s.page? pg).map fun p => p.routes.all fun r => r.src != epPe pe port || r.net == 3 || (r.latches.head?).join.isNone).getD true

/-! ## Streams of tiles (R188, R192, R196) -/

/-- The endpoint a stream operand names. -/
def streamEp (f : Flight) (ten : Nat) : Nat :=
  match f.who, portOf (field f.word 14 5).toNat with
  | .elem _ pe _ _, some i => epPe pe i
  | _, _ => epMtx ten

/-- The token at a stream's head, SNAP and DRAIN apart. -/
def State.streamHead (s : State) (pg : Nat) (f : Flight) (ten : Nat) : Option Tok :=
  ((s.page? pg).bind fun p => p.headAt (streamEp f ten)).filter fun t => t.tag != tagSnap && t.tag != tagDrain

/-- The sequencer dequeues a stream token; the tenant's tile count rises at a closing one (R312). -/
def State.streamTake (s : State) (pg : Nat) (f : Flight) (ten : Nat) (t : Tok) : State :=
  let s := match f.who, portOf (field f.word 14 5).toNat with
    | .elem pg pe _ _, some i => s.takeElem pg pe i
    | _, _ => s.modPage pg fun p => p.takeAt (epMtx ten)
  if t.tag = tagEot ∨ t.tag = tagEos then s.modTen pg ten fun x => { x with tiles := x.tiles + 1 } else s

/-- Fields of a header (R222). -/
def Tok.hStrict (t : Tok) : Bool := bitAt t.pay.toNat 55
def Tok.hCross (t : Tok) : Bool := bitAt t.pay.toNat 54
def Tok.hRow0 (t : Tok) : Nat := bits t.pay.toNat 31 0
def Tok.hOff (t : Tok) : Nat := bits t.pay.toNat 108 104
def Tok.hCols (t : Tok) : Nat := bits t.pay.toNat 95 64

def noHdr : FaultInfo := { cls := clsShape, code := 0x033 }
def ztagFault : FaultInfo := { cls := clsShape, code := 0x032 }
def zrowsFault : FaultInfo := { cls := clsRange, code := 0x016 }

/-- A header that a non-ragged instruction may not take (R174). -/
def boundFault (h : Tok) : Option FaultInfo :=
  if h.hStrict ∧ h.hCross then some { cls := clsBound, code := 1, detail := h.hRow0 + h.hOff } else none

/-- The header's format against its edge's (R95). -/
def State.edgeFault (s : State) (pg : Nat) (f : Flight) (ten : Nat) (h : Tok) : Option FaultInfo :=
  ((s.page? pg).bind fun p => p.inRoute (streamEp f ten)).bind fun r =>
    if h.fmtCode ≠ r.fmtCode then some { cls := clsFmt, code := 1, detail := r.fmtCode, opnd := h.fmtCode } else none

/-- Lanes of a token at a type: R136's, 32 for bpi (R196). -/
def streamLanes (ty : Nat) : Nat := if ty = 12 then 32 else tyLanes ty

def ZRun.start (fid : Nat) (h : Tok) : ZRun := ⟨fid, some h, [], none, 0, 0, [], false⟩

/-- A fc passes with no activation row to take (R184). -/
def State.waitAct (s : State) (pg ten : Nat) : State := s.modTen pg ten fun t => { t with ctr := t.ctr.modify 2 (· + 1) }

/-! ## `ZLD` (R192) -/

/-- The first failing check of a `ZLD`'s header. -/
def State.zldFault (s : State) (pg ten : Nat) (f : Flight) (h : Tok) : Option FaultInfo :=
  let ty := tyOf f.word
  if !h.isHeader then some noHdr
  else (s.edgeFault pg f ten h).orElse fun _ =>
    if h.fmtCode % 16 ≠ ty then some (ztyFault (h.fmtCode % 16))
    else if f.sb.toNat < 1 ∨ min 16 (streamLanes ty) < f.sb.toNat then some (zdimFault f.sb.toNat)
    else boundFault h

/-- One fc of a `ZLD` at the head of its queue. -/
def State.zldStep (s : State) (pg ten : Nat) (f : Flight) (t : Tenant) (p : Page) : State :=
  match t.run with
  | none => match s.streamHead pg f ten with
    | none => s
    | some h => match s.zldFault pg ten f h with
      | some e => s.tenFault f e
      | none => (s.streamTake pg f ten h).modTen pg ten fun t => { t with run := some (ZRun.start f.fid h) }
  | some r => match r.ct with
    | some ct =>
      if s.fc < f.after then s
      else
        let w := tyWidth (tyOf f.word)
        let d : ZDesc := ⟨tyOf f.word, 0, r.rows.length, f.sb.toNat, ct⟩
        (s.modPage pg fun p => p.setTile ten (field f.word 19 5).toNat d fun i k => lane w (r.rows.getD i 0) k).tileDone pg ten f
          Writes.none (d.rows * d.cols != 0) false []
    | none => match s.streamHead pg f ten with
      | none => s
      | some x =>
        if x.tag = tagCtl ∨ x.tag = tagLvl then s.tenFault f ztagFault
        else if p.tenRows ten ≤ r.rows.length then s.tenFault f zrowsFault
        else
          let s := s.streamTake pg f ten x
          let closes := x.tag = tagEot ∨ x.tag = tagEos
          let s := if closes then s.modFlight f.fid fun f => { f with after := s.fc + 2 } else s
          s.modTen pg ten fun t =>
            { t with run := some { r with rows := r.rows ++ [x.pay], ct := if closes then some x.tag else none } }

/-! ## `MMA` (R180, R181, R196) -/

/-- The accumulator type of an operand type (R87). -/
def accTy (ty : Nat) : Nat := if ty = 11 then 11 else if ty = 8 ∨ ty = 9 ∨ ty = 10 then 10 else 2

/-- k-group size of a floating type (R87). -/
def kGroup (ty : Nat) : Nat := if ty = 11 then 1 else if ty = 10 then 2 else 8

def isTile (f : Flight) : Bool := fnOf f.word % 2 == 1
def isAccum (f : Flight) : Bool := 2 ≤ fnOf f.word

/-- Engine steps of a product (R196). -/
def mmaSteps (ty pln k n : Nat) : Nat :=
  if tyFloat ty then (k + kGroup ty - 1) / kGroup ty * ((n + 7) / 8) else if ty = 12 then pln else 1

/-- Checks 1 and 2 of R196. -/
def mmaFault0 (t : Tenant) (f : Flight) : Option FaultInfo :=
  match t.fmt with
  | none => some { cls := clsFmt, code := 3 }
  | some l => if l.1 ≠ tyOf f.word then some { cls := clsFmt, code := 2, detail := fmtCodeOf l, opnd := tyOf f.word } else none

/-- Checks 3 to 8 of R196. -/
def State.mmaFault (s : State) (pg ten : Nat) (f : Flight) (p : Page) (l : Nat × Nat) (h : Tok) : Option FaultInfo :=
  let ty := tyOf f.word
  let d := p.tdesc ten (field f.word 19 5).toNat
  if !h.isHeader then some noHdr
  else (s.edgeFault pg f ten h).orElse fun _ =>
    if h.fmtCode ≠ fmtCodeOf l then some { cls := clsFmt, code := 2, detail := fmtCodeOf l, opnd := h.fmtCode }
    else if h.hCols < 1 ∨ min 16 (streamLanes ty) < h.hCols then some (zdimFault h.hCols)
    else if isAccum f ∧ d.ty ≠ accTy ty then some (ztyFault d.ty)
    else if isAccum f ∧ (d.rows ≠ p.tenRows ten ∨ d.cols ≠ h.hCols) then some (zdimFault d.rows)
    else if isTile f then none else boundFault h

/-- The entries of the boundary table a ragged `MMA` can see. -/
def State.mmaKnown (s : State) (f : Flight) : List (Nat × Nat) :=
  match f.cap with
  | none => []
  | some (_, _, win, bnd) =>
    (List.range bnd.length).map (fun i => (64 * win + i, bnd.getD i 0)) ++
    (match s.shape? f.who.page (field f.word 9 5).toNat with
     | some sh => if f.reads = [] then [] else sh.known f.who (some f.fid)
     | none => [])

/-- The window a ragged `MMA` still lacks for rows row0 to row0 + 15 (R196). -/
def State.mmaLack (s : State) (f : Flight) (row0 : Nat) : Option Nat :=
  match f.cap, s.shape? f.who.page (field f.word 9 5).toNat with
  | some (h, _, _, _), some sh => if f.reads = [] then none
      else sh.lack (s.mmaKnown f) h.rows (.rows (tab 16 fun i => row0 + i))
  | _, _ => none

/-- Segment index plus one of rows row0 to row0 + 15, 0 at and beyond ROWS. -/
def State.mmaSegs (s : State) (f : Flight) (row0 : Nat) : List Nat :=
  match f.cap with
  | none => []
  | some (h, _, _, _) => tab 16 fun i =>
      if row0 + i < h.rows then ((segOf (s.mmaKnown f) (row0 + i)).map fun p => p.1 + 1).getD 0 else 0

/-- A ragged `MMA` gets on with its boundaries: it asks for the next window, or keeps the segments and ends its capture. -/
def State.mmaBounds (s : State) (f : Flight) (row0 : Nat) : State :=
  if !isTile f ∨ f.stage = 2 then s
  else
    let sx := (field f.word 9 5).toNat
    match s.mmaLack f row0 with
    | some win => s.startRefill f.who.page sx win f.who f.word (some f.fid)
    | none =>
      let segs := s.mmaSegs f row0
      (s.modFlight f.fid fun f => { f with stage := 2, aux := segs, reads := [] }).clearStash f.who.page sx f.who (some f.fid)

/-- The initial accumulators, rows × columns: zero, or zD's (R196). Integers are held exactly, as two's complement. -/
def mmaInit (p : Page) (ten : Nat) (f : Flight) (n : Nat) : List Word :=
  let z := p.tile ten (field f.word 19 5).toNat
  (tab (p.tenRows ten) fun i => tab n fun k =>
    if !isAccum f then 0#64
    else if tyFloat (tyOf f.word) then BitVec.ofNat 64 (z.at i k) else BitVec.ofInt 64 (signed (z.at i k) 32)).flatten

/-- One fc of an `MMA` that is receiving its tile. -/
def State.mmaReceive (s : State) (pg ten : Nat) (f : Flight) (t : Tenant) (p : Page) : State :=
  match t.run, t.fmt with
  | none, some l => match mmaFault0 t f with
    | some e => s.tenFault f e
    | none =>
      if isTile f ∧ f.cap = none then s.tenFault f unboundFault
      else match s.streamHead pg f ten with
        | none => s.waitAct pg ten
        | some h => match s.mmaFault pg ten f p l h with
          | some e => s.tenFault f e
          | none =>
            let s := (s.streamTake pg f ten h).modTen pg ten fun t => { t with run := some (ZRun.start f.fid h) }
            s.mmaBounds f h.hRow0
  | none, none => match mmaFault0 t f with
    | some e => s.tenFault f e
    | none => s
  | some r, l =>
    let row0 := (r.hdr.map Tok.hRow0).getD 0
    let s := s.mmaBounds f row0
    if r.ct.isSome then s
    else match s.streamHead pg f ten with
      | none => s.waitAct pg ten
      | some x =>
        if x.tag = tagCtl ∧ x.kind = 2 then s.streamTake pg f ten x
        else if x.tag = tagCtl ∨ x.tag = tagLvl then s.tenFault f ztagFault
        else if 16 ≤ r.rows.length then s.tenFault f zrowsFault
        else
          let s := s.streamTake pg f ten x
          let rows := r.rows ++ [x.pay]
          if x.tag = tagEot ∨ x.tag = tagEos then
            let n := (r.hdr.map Tok.hCols).getD 1
            s.modTen pg ten fun t =>
              { t with left := t.left.map fun c => c - 1
                       run := some { r with
                         rows := rows, ct := some x.tag, acc := mmaInit p ten f n
                         steps := mmaSteps (tyOf f.word) ((l.map (·.2)).getD 0) rows.length n } }
          else s.modTen pg ten fun t => { t with run := some { r with rows := rows } }

/-- A product is kept (R196). -/
def keeps (f : Flight) (i k : Nat) : Bool :=
  !isTile f || (f.aux.getD i 0 != 0 && f.aux.getD i 0 == f.aux.getD k 0)

/-- One accumulator after one engine step, with its events: a k-group of a floating product in the step's column block,
a whole i8 or n8 product, one plane of a bpi product (R87, R180). -/
def mmaCell (f : Flight) (r : ZRun) (pln : Nat) (wt : Nat → Nat) (i n : Nat) (acc : Word) : Word × List Nat :=
  let ty := tyOf f.word
  let w := tyWidth ty
  let kn := r.rows.length
  if tyFloat ty then
    let g := kGroup ty
    let groups := (kn + g - 1) / g
    if n / 8 ≠ r.step / groups then (acc, [])
    else
      let k0 := r.step % groups * g
      let ks := (tab g fun j => k0 + j).filter fun k => decide (k < kn) && keeps f i k
      if ks = [] then (acc, [])
      else
        let fm := fmtOf ty
        let af := fmtOf (accTy ty)
        let x := af.dot (ks.map (fun k => (fm.decode (wt k), fm.decode (lane w (r.rows.getD k 0) n))) ++
          [(af.decode acc.toNat, FVal.fin false 1 0)])
        (BitVec.ofNat 64 x.pat, x.ev)
  else
    let act (k : Nat) : Int :=
      if ty = 12 then
        let b : Int := lane 32 (r.rows.getD k 0) r.step / 2 ^ n % 2
        if r.step = 0 then -(b * (2 ^ (pln - 1) : Nat)) else b * (2 ^ (pln - 1 - r.step) : Nat)
      else readTy ty (lane w (r.rows.getD k 0) n)
    let wv (k : Nat) : Int := if ty = 12 then signed (wt k) 8 else readTy ty (wt k)
    let ks := (List.range kn).filter fun k => keeps f i k
    (BitVec.ofInt 64 (acc.toInt + ks.foldl (fun a k => a + wv k * act k) 0), [])

/-- One engine step over every row of the tenant (R180). -/
def mmaStep (p : Page) (ten : Nat) (f : Flight) (pln n : Nat) (r : ZRun) : ZRun × List Nat :=
  let out := r.acc.mapIdx fun j a =>
    let i := j / n
    let row := (p.mtx.wts.drop ((p.tenBase ten + i) * 16)).take 16
    mmaCell f r pln (fun k => ((row[k]?).map (·.toNat)).getD 0) i (j % n) a
  ({ r with acc := out.map (·.1), step := r.step + 1 }, sumEvents (out.map (·.2)))

/-- Steps repeated while some remain: one per fc, eight for bpi. -/
def mmaRun (p : Page) (ten : Nat) (f : Flight) (pln n : Nat) : Nat → ZRun → List Nat → ZRun × List Nat
  | 0, r, ev => (r, ev)
  | k + 1, r, ev =>
    if r.steps ≤ r.step then (r, ev)
    else let (r, e) := mmaStep p ten f pln n r; mmaRun p ten f pln n k r (addCnts ev e)

/-- The accumulators written to zD, integers clamped with one saturation event each (R87, R196). -/
def mmaResult (f : Flight) (r : ZRun) (rows n ct : Nat) : TileRes :=
  let ty := tyOf f.word
  gridRes (field f.word 19 5).toNat ⟨accTy ty, 0, rows, n, ct⟩ fun i k =>
    let a := r.acc.getD (i * n + k) 0
    if tyFloat ty then { pat := a.toNat }
    else let c := clampTy 2 a.toInt; { pat := pattern c 32, ev := if c = a.toInt then [] else evSat }

/-- The tenant's next engine step may be performed: its tile is received, its boundaries known, and no stop holds it at a
stated step (R181, R196). -/
def State.engineReady (s : State) (pg ten : Nat) : Bool :=
  match s.ten? pg ten with
  | none => false
  | some t => match t.run, t.q.head? with
    | some r, some z => r.ct.isSome && r.steps != 0 && !t.withheld && s.running pg &&
        (match s.flight? z.fid with
         | some f => opcOf f.word == 0x46 && (!isTile f || f.stage == 2)
         | none => false) &&
        !(r.step % 16 == 0 && ((s.regionOf pg).map fun g => g.st == .stopping).getD false)
    | _, _ => false

/-- The tenant that shares the array with a tenant: the other of its page, or of the other half of its frame (R182). -/
def State.otherTen (s : State) (pg ten : Nat) : Nat × Nat :=
  if ((s.page? pg).map (·.kind)).getD 0 = 0 then (pg, 1 - ten) else (pg ^^^ 1, 0)

/-- The fc after a tenant's last engine step. -/
def State.steppedAt (s : State) (x : Nat × Nat) : Nat := ((s.ten? x.1 x.2).map (·.stepAt)).getD 0

/-- A tenant's step waits for the other: that one has stepped in this fc, or has work too and its turn comes first (R182). -/
def State.yields (s : State) (pg ten : Nat) : Bool :=
  let o := s.otherTen pg ten
  let a := s.steppedAt (pg, ten)
  let b := s.steppedAt o
  b == s.fc + 1 || (s.engineReady o.1 o.2 && (decide (b < a) || (b == a && decide (2 * o.1 + o.2 < 2 * pg + ten))))

/-- `MMA_ENGINE_STEP` (R180-R182): the tenant whose turn it is performs its step, the other waits; at each stated step, and at the
last one, zD is written. -/
def execMmaEngineStep (pg ten : Nat) (s : State) : Out :=
  match s.page? pg, s.ten? pg ten with
  | some p, some t =>
    if !s.engineReady pg ten ∨ t.stepAt = s.fc + 1 then .next s
    else if s.yields pg ten then .next (s.modTen pg ten fun t => { t with ctr := t.ctr.modify 3 (· + 1) })
    else match t.run, (t.q.head?).bind fun z => s.flight? z.fid with
      | some r, some f =>
        let n := (r.hdr.map Tok.hCols).getD 1
        let pln := (t.fmt.map (·.2)).getD 0
        let (r', ev) := mmaRun p ten f pln n (if tyOf f.word = 12 then 8 else 1) r []
        let s := s.modTen pg ten fun t =>
          { t with ctr := t.ctr.modify 0 (· + (r'.step - r.step)), run := some r', cnts := addCnts t.cnts ev, stepAt := s.fc + 1 }
        if r'.step < r'.steps ∧ r'.step % 16 ≠ 0 then .next s
        else
          let res := mmaResult f r' (p.tenRows ten) n ((r.ct).getD 2)
          let s := s.modPage pg fun p => p.setTile ten res.z res.desc res.f
          if r'.step < r'.steps ∧ !r.stop then .next s
          else if r'.step = r'.steps then
            let s := s.modTen pg ten fun t => { t with ctr := t.ctr.modify 1 (· + 1) }
            .next (s.tileDone pg ten f Writes.none true res.flag res.ev)
          else .next (((s.dropFlight f.fid).modTen pg ten fun t => { t with cnts := addCnts t.cnts res.ev }).dequeueTile pg ten)
      | _, _ => .next s
  | _, _ => .next s

/-! ## Performing a tile word (R187) -/

/-- A word that ends with a tile result. -/
def State.tileRes (s : State) (pg ten : Nat) (f : Flight) : Except FaultInfo TileRes → State
  | .error e => s.tenFault f e
  | .ok r => (s.modPage pg fun p => p.setTile ten r.z r.desc r.f).tileDone pg ten f Writes.none
      (r.desc.rows * r.desc.cols != 0) r.flag r.ev

/-- `ZRD` emits its next token when its latch is empty. -/
def State.zrdStep (s : State) (pg ten : Nat) (f : Flight) (p : Page) : State :=
  let t := p.tile ten (field f.word 14 5).toNat
  let port := (field f.word 19 5).toNat - 16
  let oc := t.desc.rows * t.desc.cols != 0
  match f.who with
  | .tel .. => s
  | .elem _ pe _ _ =>
    if f.stage = 0 ∧ t.desc.ty ≠ tyOf f.word then s.tenFault f (ztyFault t.desc.ty)
    else if !s.latchEmpty pg pe port then s
    else match (if f.stage = 0 then zrdTokens t else f.emit) with
      | [] => s.tileDone pg ten f Writes.none oc false []
      | [x] => s.tileDone pg ten f { Writes.none with out := [(port, x)] } oc false []
      | x :: rest => (s.emitTok pg pe port x false).modFlight f.fid fun f => { f with stage := 1, emit := rest }

/-- The next store of a `ZST`, or the fault its row would meet. -/
def State.zstIssue (s : State) (rows : List (List Part)) (f : Flight) : State :=
  match (rowAt rows f.stage).bind fun r => r.findSome? (s.partFault f) with
  | some e => if s.mayIssue f then s.flightFault f e else s
  | none => s.issuePart f

/-- `ZST` issues its stores through the shape cache's port and ends when every one is performed. A row that would fault is not
begun, so the rows before it are the ones written (R193). -/
def State.zstStep (s : State) (pg ten : Nat) (f : Flight) (p : Page) : State :=
  let t := p.tile ten (field f.word 19 5).toNat
  let n := cellW t.desc.ty / 8
  let a := f.sa.toNat
  let b := f.sb.toNat
  if f.aux = [] then
    if t.desc.ty ≠ tyOf f.word then s.tenFault f (ztyFault t.desc.ty)
    else if a % n ≠ 0 ∨ b % n ≠ 0 then s.tenFault f { cls := clsAlign, code := 3, opnd := if a % n ≠ 0 then a else b }
    else
      let f' := { f with plan := zstParts t a b, port := s.shapePort pg, aux := [1] }
      (s.modFlight f.fid fun _ => f').zstIssue (zstRows t a b) f'
  else if f.stage < f.plan.length then s.zstIssue (zstRows t a b) f
  else if f.left = 0 then s.tileDone pg ten f Writes.none (t.desc.rows * t.desc.cols != 0) false []
  else s

/-- Entries of the other tenant that go before or after a `ZSPLIT` of tenant 0 (R199). -/
def State.splitAhead (s : State) (pg fid : Nat) : Bool :=
  ((s.ten? pg 1).map fun t => t.q.any fun z => decide (z.fid < fid)).getD false

def State.splitHolds (s : State) (pg ten fid : Nat) : Bool :=
  ten == 1 && ((s.ten? pg 0).map fun t => t.q.any fun z => decide (z.fid < fid) &&
    ((s.flight? z.fid).map fun g => opcOf g.word == 0x4B).getD false).getD false

/-- `ZSPLIT` waits for tenant 1's earlier entries, then takes 4 fc. -/
def State.zsplitStep (s : State) (pg ten : Nat) (f : Flight) : State :=
  let r0 := f.sa.toNat % 32
  if s.splitAhead pg f.fid then s.modFlight f.fid fun f => { f with after := s.fc + 4 }
  else if s.fc < f.after then s
  else if ten ≠ 0 then s.tenFault f { cls := clsBadcfg, code := 0x016 }
  else if r0 % 4 ≠ 0 ∨ 16 < r0 then s.tenFault f (zdimFault r0)
  else (s.modPage pg fun p => zsplit p r0).tileDone pg ten f Writes.none false false []

/-- `TILE_QUEUE_PERFORM` (R187): the entry at the head of a tenant's queue is performed. -/
def execTileQueuePerform (pg ten : Nat) (s : State) : Out :=
  match s.page? pg, s.ten? pg ten with
  | some p, some t => match t.q.head? with
    | none => .next s
    | some z => match s.flight? z.fid with
      | none => .next (s.dequeueTile pg ten)
      | some f =>
        if t.withheld ∨ s.fc < z.after ∨ s.splitHolds pg ten f.fid then .next s
        else if p.tenRows ten = 0 then .next (s.tenFault f { cls := clsRange, code := 0x019 })
        else
          let d := (field f.word 19 5).toNat
          let res (r : Except FaultInfo TileRes) : Out := .next (s.tileRes pg ten f r)
          match opcOf f.word with
          | 0x40 => res (zcfg p ten f)
          | 0x41 => .next (s.zrdStep pg ten f p)
          | 0x42 => .next (s.zldStep pg ten f t p)
          | 0x43 => .next (s.zstStep pg ten f p)
          | 0x44 => res (.ok (zfill p ten f))
          | 0x45 => match zwld p ten f with
            | .error e => .next (s.tenFault f e)
            | .ok q => .next ((s.modPage pg fun _ => q).tileDone pg ten f Writes.none (p.tenRows ten != 0) false [])
          | 0x46 => .next (s.mmaReceive pg ten f t p)
          | 0x47 => res (ztrn p ten f)
          | 0x48 => res (zadd p ten f)
          | 0x49 => res (zcvt p ten f)
          | 0x4A =>
            let a := f.sa.toNat % 2 ^ 32
            .next ((s.modTen pg ten fun t => { t with left := some (min (t.left.getD 0 + a) (2 ^ 32 - 1)) }).tileDone pg ten f
              Writes.none (a != 0) false [])
          | 0x4B => .next (s.zsplitStep pg ten f)
          | 0x4C =>
            let v := zstat t (field f.word 14 5).toNat
            .next (s.tileDone pg ten f (writeS d tagData (w64 v)) (v != 0) false [])
          | 0x4D => .next (s.tileDone pg ten f Writes.none (f.aux.headD 0 != 0) false [])
          | _ =>
            if fnOf f.word = 0 then match zmovTov p ten f with
              | .error e => .next (s.tenFault f e)
              | .ok (v, n) => .next (s.tileDone pg ten f (writeV d tagData v) (n != 0) false [])
            else match zmovFrv p ten f with
              | .error e => .next (s.tenFault f e)
              | .ok (r, n) => .next ((s.modPage pg fun p => p.setTile ten r.z r.desc r.f).tileDone pg ten f Writes.none
                  (n != 0) false [])
  | _, _ => .next s

/-! ## Flushes and arm records (R183, R185) -/

/-- `TENANT_FLUSH` (R183): queued entries are discarded; an `MMA` whose engine steps have begun goes on to its next stated
step. -/
def execTenantFlush (pg ten : Nat) (s : State) : Out :=
  match s.ten? pg ten with
  | none => .next s
  | some t =>
    let keep : Option Nat := t.run.bind fun r => if r.ct.isSome ∧ (r.step = 0 ∨ r.step % 16 ≠ 0) then some r.fid else none
    let gone := (t.q.map (·.fid)).filter fun i => some i != keep
    let s := gone.foldl (fun s i => s.dropFlight i) s
    .next (s.modTen pg ten fun t =>
      { t with q := t.q.filter fun z => some z.fid == keep
               run := t.run.bind fun r => if some r.fid = keep then some { r with stop := true } else none
               flush := false })

/-- An arm record is well formed for its region: page with a tenant, flags, count (R185). -/
def State.armGood (s : State) (r : Region) (bs : List Byte) : Bool :=
  decide (recNat bs 0 2 < r.imgs.length) && decide (recNat bs 2 1 < 2) && decide (recNat bs 3 1 < 4) &&
  decide (0 < recNat bs 4 4) && recNat bs 8 8 == 0 &&
  (match (r.pages.getD (recNat bs 0 2) none).bind s.page? with
   | some p => decide (0 < p.tenRows (recNat bs 2 1))
   | none => true)

/-- Every count of the region's tenants has expired. -/
def State.armExpired (s : State) (r : Region) : Bool :=
  r.pages.all fun pg => match pg.bind s.page? with
    | some p => p.mtx.tens.all fun t => t.left == none || t.left == some 0
    | none => true

/-- ARMREC at the region controller: the walk ends and the region stops at its next tile-task boundary. -/
def State.armFault (s : State) (r : Region) : State :=
  (s.mail { die := r.die, kind := 6, page := 0, asid := r.asid, ptn := r.ptn }
    { cls := clsBadcfg, code := 0x017, detail := r.armIx } 0).modRegion r.key fun r => { r with armBad := true, armEnd := true }

/-- `ARM_RECORD_WALK` (R185): the next arm record sets its tenant's tile counter, when it may. -/
def execArmRecordWalk (rg : Nat) (s : State) : Out :=
  match s.region? rg with
  | none => .next s
  | some r =>
    if r.armEnd ∨ r.armAddr = 0 then .next s
    else if 64 ≤ r.armIx then .next (s.armFault r)
    else match s.readRec r.die r.asid none (r.armAddr + 16 * r.armIx) 16 with
      | .error _ => .next (s.armFault r)
      | .ok (bs, s) =>
        if !s.armGood r bs then .next (s.armFault r)
        else if bitAt (recNat bs 3 1) 0 ∧ !s.armExpired r then .next s
        else
          let ten := recNat bs 2 1
          match r.pages.getD (recNat bs 0 2) none with
          | none => .next s
          | some pg =>
            if ((s.ten? pg ten).bind (·.left)).getD 0 ≠ 0 then .next s
            else
              let s := s.modTen pg ten fun t => { t with left := some (recNat bs 4 4) }
              .next (s.modRegion rg fun r => { r with armIx := r.armIx + 1, armEnd := bitAt (recNat bs 3 1) 1 })

/-! ## Refills (R170) -/

/-- Instructions that go on reading a register's table keep what they have seen of a window that is replaced: the one that
asked for the new window, and every outstanding one (R172). -/
def State.stashFor (s : State) (pg sx : Nat) (sh : Shape) (r : Refill) : List (Who × Option Nat × Nat × Nat) :=
  let readers := (s.flights.filter fun f => f.who.isElem && f.who.page == pg && f.reads.contains (.s sx)).map fun f => (f.who, some f.fid)
  let who := if r.fid.isNone then (r.who, none) :: readers else readers
  who.flatMap fun x => (List.range sh.bnd.length).map fun i => (x.1, x.2, 64 * sh.win + i, sh.bnd.getD i 0)

/-- `SHAPE_WINDOW_REFILL` (R170, R173): the next read of a window enters the queue; with all of them back, and 3 fc after the
first for a window of four reads or fewer, the window is checked and takes its place. -/
def execShapeWindowRefill (pg sx : Nat) (s : State) : Out :=
  let s := s.refillAsk pg sx
  match s.shape? pg sx with
  | none => .next s
  | some sh => match sh.refill with
    | none => .next s
    | some r =>
      match piecesOf (sh.addr + 0x20 + 256 * r.win) (4 * winCount sh.hdr r.win) r.got with
      | none => .next s
      | some bs =>
        let short := 4 - winReads sh.hdr r.win
        if r.asked < 5 ∧ short ≠ 0 then
          .next (s.modShape pg sx fun sh => { sh with refill := sh.refill.map fun x => { x with asked := 5, next := s.fc + short } })
        else if s.fc < r.next then .next s
        else
          let before := if sh.win + 1 = r.win then sh.bnd.getLast? else none
          let behind := if r.win + 1 = sh.win then sh.bnd.head? else none
          match windowOf sh.hdr sh.addr r.win bs before behind with
          | .error e => .next (s.refillFault pg sx e)
          | .ok l =>
            let keep := s.stashFor pg sx sh r
            .next (s.modShape pg sx fun sh => { sh with win := r.win, bnd := l, refill := none, stash := sh.stash ++ keep })

end Sys2Proof.Machine
end

