-- ==== Sys2Proof/Machine/Streams.lean ====
section
/-!
DEFINITION. The streams of the memory elements (R220-R228, R396, R418), stream control, `LDR`, `PREF` and `XFORM`, opcodes
0x5C, 0x5D, 0x60, 0x61 and 0x64 (R246, R248-R250).
-/

namespace Sys2Proof.Machine

/-! ## Descriptors (R220, R221, R226) -/

/-- A stream that is not in use. -/
def Cursor.start : Cursor := ⟨0, 0, none, false⟩

def SDesc.zero : SDesc := ⟨0, 0, 0, 0, 0, 0, 0, 0, 0, 1, 0, 0⟩

def Stream.idle : Stream where
  desc := SDesc.zero
  valid := false
  cap := .none
  hdrAt := .none
  win := []
  winAt := .none
  recs := []
  strAt := 0
  cur := Cursor.start
  ask := Cursor.start
  seq := 0
  buf := []
  todo := []
  dec := .none
  busy := 0
  eos := false
  sink := false
  reported := false
  drained := false
  drainDue := false
  withheld := false
  pat := (0, 0)
  tlb := .none
  cnts := []
  snapCnt := 0
  snapDue := false
  ival := 0
  shadows := []

/-- A descriptor from its 128 bytes. -/
def sdescOf (b : List Byte) : SDesc where
  base := recNat b 0 8
  shape := recNat b 8 8
  xlen := recNat b 0x10 8
  rows := recNat b 0x18 4
  width := recNat b 0x1C 4
  pitch := recNat b 0x20 4
  sfmt := recNat b 0x24 2
  efmt := recNat b 0x26 2
  boff := recNat b 0x28 1
  tile := recNat b 0x29 1
  flags := recNat b 0x2A 1
  endp := recNat b 0x2C 2

/-- A transform from its 128 bytes (R226, R371). -/
def xfOf (b : List Byte) : Xf :=
  ⟨recNat b 0 1, recNat b 1 1, recNat b 8 2, recNat b 10 2, recNat b 12 2, recNat b 14 2, recNat b 2 2, recNat b 4 2⟩

def SDesc.isStore (d : SDesc) : Bool := bitAt d.flags 1

/-- The transform a stream passes through; of kind NONE without SFLAGS bit 2. -/
def SDesc.xf (d : SDesc) (m : Me) : Xf :=
  if bitAt d.flags 2 then (if d.isStore then m.wr else m.rd) else ⟨0, 0, 0, 0, 0, 0, 0, 0⟩

/-- What governs a stream: the descriptor's own values, or the record's (R220). -/
structure Eff where
  rows : Nat
  width : Nat
  pitch : Nat
  sty : Nat
  spln : Nat
  /-- element width in bits -/
  ew : Nat
  kind : Nat
  deriving DecidableEq, Repr

def SDesc.eff (d : SDesc) (cap : Option ShapeHdr) (x : Xf) : Eff :=
  let h := if d.shape = 0 then none else cap
  let own := if bitAt d.flags 4 then none else h
  let sty := (own.map (·.ty)).getD (d.sfmt % 16)
  let spln := (own.map (·.pln)).getD (d.sfmt / 16 % 64)
  let width := (own.map (·.width)).getD d.width
  let ew := if x.kind = 2 then x.w else if sty = 12 then spln else tyWidth sty
  { rows := (h.map (·.rows)).getD d.rows, width := width, sty := sty, spln := spln, ew := ew, kind := x.kind
    pitch := if x.kind = 4 then width * ew else (own.map (·.pitch)).getD d.pitch }

/-- A transform's kind, or its side, is not allowed (R226). -/
def xfBad (x : Xf) (store : Bool) : Bool :=
  decide (4 < x.kind) || (x.kind == 4 && store) || (x.kind == 2 && (decide (x.w < 2) || decide (7 < x.w)))

/-- A descriptor breaks R221 or the limits of R220, for an endpoint of a network. -/
def SDesc.bad (d : SDesc) (e : Eff) (x : Xf) (net : Nat) : Bool :=
  let bpi := e.sty == 12 && d.efmt % 16 == 12
  let planes := d.efmt / 16 % 64
  e.ew == 0 || d.tile == 0 || decide (16 < d.tile) || decide (7 < d.boff) || xfBad x d.isStore ||
  e.pitch % e.ew != 0 || decide (e.pitch < e.width * e.ew) ||
  (decide (8 ≤ e.ew) && (d.boff != 0 || e.pitch % 8 != 0)) ||
  (if net == 1 then e.width != 1 else decide (512 < e.width * e.ew)) ||
  (e.kind == 0 && e.spln * 16 + e.sty != d.efmt && !(bpi && !d.isStore && planes != 0 && decide (d.efmt / 16 ≤ e.spln))) ||
  (e.sty == 12 && (decide (32 < e.width) || e.spln == 0 || e.pitch % (32 * e.spln) != 0)) ||
  (e.kind == 4 && d.xlen * 8 != e.rows * e.width * e.ew)

/-- The network of a stream's endpoint. -/
def Page.streamNet (p : Page) (si : Nat) : Nat :=
  ((p.routes.find? fun r => r.src = epMe (si / 4) (si % 4) ∨ r.dst = epMe (si / 4) (si % 4)).map (·.net)).getD 2

/-- The first bit of a row, and its length in bits: all planes of a stored block, or the delivered ones. -/
def SDesc.rowBits (d : SDesc) (e : Eff) (row : Nat) : Nat × Nat :=
  (8 * d.base + d.boff + row * e.pitch,
   if e.sty = 12 then 32 * (if d.isStore then e.spln else d.efmt / 16 % 64) else e.width * e.ew)

/-- The accesses that hold a row's bits. -/
def rowParts (start len : Nat) : List (Nat × Nat) :=
  State.readRec.unitsLong (start / 8) ((start % 8 + len + 7) / 8)

/-! ## Transforms (R226) -/

/-- Lanes of a token at a format on a network. -/
def tokLanes (net ty : Nat) : Nat := if net = 1 then 1 else if ty = 12 then 16 else 512 / tyWidth ty

/-- The elements of a row, from its bits. -/
def rowElts (e : Eff) (n : Nat) : List Nat := tab e.width fun j => n / 2 ^ (j * e.ew) % 2 ^ e.ew

/-- The row element of lane k of a PATTERN. -/
def patElt (x : Xf) (k : Nat) : Nat := k % x.c0 * x.t0 + k / x.c0 * x.t1

/-- Lanes a PATTERN fills. -/
def patLanes (x : Xf) (net ty : Nat) : Nat := min (x.c0 * x.c1) (tokLanes net ty)

/-- A PATTERN reaches an element at or beyond WIDTH (XFIDX). -/
def patBad (x : Xf) (e : Eff) (net ty : Nat) : Bool :=
  (List.range (patLanes x net ty)).any fun k => decide (e.width ≤ patElt x k)

/-- The lanes of a row token from a row's bits, with events (read side). -/
def readXf (x : Xf) (e : Eff) (net efmt n : Nat) : List Nat × List Nat :=
  let ety := efmt % 16
  if e.sty = 12 then (tab (efmt / 16 % 64) fun k => n / 2 ^ (32 * k) % 2 ^ 32, [])
  else
    let els := rowElts e n
    match e.kind with
    | 1 => let rs := els.map fun v => convert .rne e.sty ety v false; (rs.map (·.pat), sumEvents (rs.map (·.ev)))
    | 2 => (els.map fun v => pattern (signed v e.ew) 8, [])
    | 3 => (tab (patLanes x net ety) fun k => els.getD (patElt x k) 0, [])
    | _ => (els, [])

/-- A token's payload from lanes at a format. -/
def packTok (net ty : Nat) (lanes : List Nat) : Vec :=
  if net = 1 then (extTy ty (readTy ty (lanes.headD 0))).setWidth 512 else packLanes (tyWidth ty) lanes

/-- The elements a row token writes: element index and bits, with events (write side). -/
def writeXf (x : Xf) (e : Eff) (net efmt : Nat) (v : Vec) : List (Nat × Nat) × List Nat :=
  let ety := efmt % 16
  let l (k : Nat) : Nat := lane (tyWidth ety) v k
  match e.kind with
  | 1 =>
    let rs := tab e.width fun j => convert .rne ety e.sty (l j) true
    (rs.mapIdx fun j r => (j, r.pat), sumEvents (rs.map (·.ev)))
  | 2 =>
    let lim : Int := (2 ^ (e.ew - 1) : Nat)
    let rs := tab e.width fun j => (signed (l j) 8, max (-lim) (min (lim - 1) (signed (l j) 8)))
    (rs.mapIdx fun j r => (j, pattern r.2 e.ew), sumEvents (rs.map fun r => if r.1 = r.2 then [] else evSat))
  | 3 => (tab (patLanes x net ety) fun k => (patElt x k, l k), [])
  | _ => (tab e.width fun j => (j, l j), [])

/-- The stores of a row: its elements placed at their bits under a mask (R224, R225). -/
def storeRow (d : SDesc) (e : Eff) (row : Nat) (els : List (Nat × Nat)) : List Part :=
  let (start, len) := d.rowBits e row
  let ew := if e.sty = 12 then 32 else e.ew
  let off := start % 8
  let n := els.foldl (fun a x => a ||| x.2 % 2 ^ ew * 2 ^ (off + x.1 * ew)) 0
  let m := els.foldl (fun a x => a ||| (2 ^ ew - 1) * 2 ^ (off + x.1 * ew)) 0
  let va := start / 8
  let bytes := (off + len + 7) / 8
  let bs := leBytes bytes n
  let ms := leBytes bytes m
  (rowParts start len).map fun (a, k) =>
    { va := a, len := k, data := some ((bs.drop (a - va)).take k, (ms.drop (a - va)).take k) }

/-! ## DECODE (R227, R228) -/

/-- What decoding a block-code string comes to: bytes in reverse, how many, bytes of string read, and the case (0 D = XLEN, 1
SHORT, 2 LONG, 3 MALFORM, 4 the string cannot be read further). -/
structure DecRes where
  out : List Byte
  n : Nat
  used : Nat
  case : Nat

/-- One byte of the string at a time; each step of fuel takes one control byte. -/
def decodeRun (get : Nat → Option Byte) (xlen : Nat) : Nat → Nat → Nat → List Byte → DecRes
  | 0, pos, n, out => ⟨out, n, pos, 2⟩
  | fuel + 1, pos, n, out =>
    if xlen < n then ⟨out, n, pos, 2⟩
    else match get pos with
      | none => ⟨out, n, pos, 4⟩
      | some c =>
        let k := c.toNat % 64
        let fin (case : Nat) : DecRes := ⟨out, n, pos + 1, if n = xlen then 0 else case⟩
        match c.toNat / 64 with
        | 0 =>
          let lit := (List.range (k + 1)).map fun i => get (pos + 1 + i)
          if lit.all Option.isSome then
            decodeRun get xlen fuel (pos + k + 2) (n + k + 1) ((lit.map fun b => b.getD 0).reverse ++ out)
          else ⟨out, n, pos, 4⟩
        | 1 => decodeRun get xlen fuel (pos + 1) (n + 8 * (k + 1)) (List.replicate (8 * (k + 1)) 0 ++ out)
        | 2 =>
          if n < 8 then fin 3
          else decodeRun get xlen fuel (pos + 1) (n + 8 * (k + 1)) ((List.replicate (k + 1) (out.take 8)).flatten ++ out)
        | _ => if k = 0 then fin 1 else fin 3

/-- A CTL token of a kind (R222). -/
def ctlTok (kind low : Nat) : Tok := ⟨tagCtl, BitVec.ofNat 512 (kind * 2 ^ 56 + low)⟩

/-- A length marker (R228). -/
def lenMarker (case n : Nat) : Tok := ctlTok 3 (case * 2 ^ 48 + n % 2 ^ 48)

/-- A poison marker (R239). -/
def poisonMarker (va : Nat) : Tok := ctlTok 4 (va % 2 ^ 56)

/-- A header token (R222). -/
def headerTok (net : Nat) (strict : Bool) (hoff : Option Nat) (trows fmt row0 cols : Nat) : Tok :=
  let w0 := 2 ^ 56 + (if strict then 2 ^ 55 else 0) + (if hoff.isSome then 2 ^ 54 else 0) + trows * 2 ^ 48 + fmt * 2 ^ 32 + row0
  let w1 := hoff.getD 0 * 2 ^ 40 + cols
  ⟨tagCtl, BitVec.ofNat 512 (if net = 1 then w0 else w0 + 2 ^ 64 * w1)⟩

/-- The offset of the first head among the rows after the first of a tile (R174). -/
def firstHead (entries : List Nat) (rows r0 r1 : Nat) : Option Nat :=
  ((List.range (r1 - r0)).drop 1).find? fun i => entries.contains (r0 + i) && decide (r0 + i < rows)

/-! ## Cursors and the order of tiles (R223, R312, R317) -/

/-- Tiles are issued to streams by the region controller; a persistent range hands them out itself (log 28). -/
def Region.gated (r : Region) : Bool := !r.persist

/-- The tile of a position is one delivered before: a re-run. -/
def Region.isRerun (r : Region) (pos : Nat) : Bool :=
  match r.issued[pos]? with
  | some ix => (r.issued.take pos).contains ix
  | none => false

/-- The tile of a stream that an index issued before belongs to: how many indexes were new before it. -/
def Region.tileAt (r : Region) (ix : Nat) : Nat := (r.issued.takeWhile (· != ix)).eraseDups.length

/-- Every index has been issued: tiles beyond the range follow freely. -/
def Region.allIssued (r : Region) : Bool := r.issued.getLast? == some (r.hi - 1)

/-- The cursor at which the next row of a stream stands when it may go on; none when it must wait or has ended. -/
def Cursor.open (c : Cursor) (r : Region) (tile rows : Nat) : Option Cursor :=
  if c.hdr then some c
  else if r.isRerun c.pos ∧ c.back = none then
    let row := r.tileAt (r.issued.getD c.pos 0) * tile
    if row < rows then some { c with row := row, back := some c.row } else none
  else if !r.gated then (if c.row < rows ∨ (rows = 0 ∧ c.row = 0) then some c else none)
  else if c.pos < r.issued.length ∨ r.allIssued then (if c.row < rows ∨ (rows = 0 ∧ c.row = 0) then some c else none)
  else none

/-- A position whose tile a stream does not have: it is passed over. -/
def Cursor.skips (c : Cursor) (r : Region) (tile rows : Nat) : Bool :=
  !c.hdr && (r.gated || r.isRerun c.pos) && decide (c.pos < r.issued.length) && (c.open r tile rows).isNone

/-- A stream that has ended delivers a tile again (R317). -/
def Cursor.again (c : Cursor) (r : Region) (tile rows : Nat) : Bool :=
  c.back.isSome || (r.isRerun c.pos && (c.open r tile rows).isSome)

/-- A stream that has ended passes over a position that is no re-run of its own. -/
def Cursor.past (c : Cursor) (r : Region) (tile rows : Nat) : Bool :=
  !c.hdr && decide (c.pos < r.issued.length) && !c.again r tile rows

/-- The cursor after a row. -/
def Cursor.next (c : Cursor) (tile rows : Nat) : Cursor :=
  if (c.row + 1) % tile = 0 ∨ rows ≤ c.row + 1 then
    { row := c.back.getD (c.row + 1), pos := c.pos + 1, back := none, hdr := false }
  else { c with row := c.row + 1 }

/-! ## Parts of a step -/

/-- The tile-task a stream's accesses for a tile count belong to (R312). -/
def State.ttStream (s : State) (pg pos : Nat) : Option (Nat × Nat) := (s.regionOf pg).map fun r => (r.key, r.tileOf pos)

/-- A stream's fault at its ME (R219, R224, R226). -/
def State.streamFault (s : State) (pg si : Nat) (e : FaultInfo) : State :=
  s.streamFails pg si (s.ttStream pg (((s.stream? pg si).map (·.cur.pos)).getD 0)) e

/-- The node of a stream (R262). -/
def streamNode (pg si : Nat) : Nat := 2 ^ 21 + pg * 16 + si

/-- Nothing holds a stream: its ME and itself are not withheld and its region runs. -/
def State.streamRuns (s : State) (pg si : Nat) : Bool :=
  s.running pg && !((s.me? pg (si / 4)).map (·.withheld)).getD true && !((s.stream? pg si).map (·.withheld)).getD true

/-- The next waiting access of a stream is handed to its ME's port queue when that has room. -/
def State.streamAsk (s : State) (pg si : Nat) : State :=
  match s.stream? pg si with
  | none => s
  | some m => match m.todo with
    | [] => s
    | (pos, n, k, p) :: rest =>
      let job : ReqFor := if p.data.isSome then .store pg si else .row pg si n k
      let port : Port := .me pg (si / 4)
      if !s.portRoom port job 1 then s
      else
        let tt := s.ttStream pg pos
        let s := s.modStream pg si fun m => { m with todo := rest, busy := if p.data.isSome then m.busy + 1 else m.busy }
        match s.ask job port (((s.page? pg).map (·.asid)).getD 0) p tt (streamNode pg si) m.ival with
        | .ok s => s
        | .error e => s.streamFails pg si tt e

/-- The next row's bytes are asked for, if the stream may read ahead to it. -/
def State.streamFetch (s : State) (pg si : Nat) : State :=
  match s.me? pg (si / 4), s.stream? pg si, s.regionOf pg with
  | some me, some m, some r =>
    let e := m.desc.eff m.cap (m.desc.xf me)
    let may := m.valid && !m.desc.isStore && (!m.eos || m.ask.again r m.desc.tile e.rows) && m.hdrAt.isNone && (m.desc.shape == 0 || m.cap.isSome) && e.kind != 4 &&
      m.todo.isEmpty && decide (m.buf.length < 8) && e.rows != 0 && !(r.st == .stopping && !m.ask.hdr && !m.cur.hdr)
    let s := if !may then
        (if m.valid && !m.desc.isStore && m.eos && m.ask.past r m.desc.tile e.rows then
          s.modStream pg si fun m => { m with ask := { m.ask with pos := m.ask.pos + 1 } } else s)
      else
      match m.ask.open r m.desc.tile e.rows with
      | none => if m.ask.skips r m.desc.tile e.rows then s.modStream pg si fun m => { m with ask := { m.ask with pos := m.ask.pos + 1 } } else s
      | some c =>
        let (start, len) := m.desc.rowBits e c.row
        let todo := (rowParts start len).mapIdx fun k (a, n) => (c.pos, m.seq, k, ({ va := a, len := n, data := none } : Part))
        s.modStream pg si fun m => { m with todo := todo, buf := m.buf ++ [(m.seq, [], none)], seq := m.seq + 1
                                            ask := ({ c with hdr := true } : Cursor).next m.desc.tile e.rows }
    s.streamAsk pg si
  | _, _, _ => s

/-- A token leaves a stream for its out latches. -/
def State.streamPut (s : State) (pg si : Nat) (t : Tok) : State :=
  s.modPage pg fun p => p.putAt s.fc false (epMe (si / 4) (si % 4)) t

/-- The stream's state when it passes SNAP: a shadow of its row, two being kept (R396, R397). -/
def Stream.snap (m : Stream) : Stream :=
  { m with ival := m.ival + 1, shadows := (m.shadows ++ [(m.ival + 1, m.cur, m.cnts)]).drop (m.shadows.length + 1 - 2)
           snapDue := false, snapCnt := 0 }

/-- Entries of a shaped stream's table reach beyond a row. -/
def Stream.winReady (m : Stream) (last : Nat) : Bool :=
  match m.cap with
  | none => true
  | some h => decide (h.segs + 1 ≤ m.win.length) || (match m.win.getLast? with
      | some v => decide (last < v)
      | none => false)

/-- The header of the tile a cursor opens. -/
def Stream.header (m : Stream) (e : Eff) (net : Nat) (c : Cursor) : Tok :=
  let r1 := min e.rows ((c.row / m.desc.tile + 1) * m.desc.tile)
  let strict := (m.cap.map (·.strict)).getD false
  headerTok net strict (if m.cap.isSome then firstHead m.win e.rows c.row r1 else none) (r1 - c.row) m.desc.efmt c.row e.width

/-- The tag of a row (R223); a DECODE stream whose D is not XLEN does not close (R228; log 29). -/
def Stream.rowTag (m : Stream) (e : Eff) (row : Nat) : Nat :=
  if row + 1 = e.rows then (match m.dec with
    | some (_, _, c) => if c = 0 then tagEos else tagEor
    | none => tagEos)
  else if (row + 1) % m.desc.tile = 0 then tagEot else tagEor

/-- A row has gone out: the cursor moves, and a SNAP may be owed (R396). -/
def State.rowSent (s : State) (pg si : Nat) (m : Stream) (e : Eff) (c : Cursor) : State :=
  let every := ((s.page? pg).map fun p => if bitAt p.snapMask si then p.snapEvery else 0).getD 0
  s.modStream pg si fun x =>
    { x with cur := c.next m.desc.tile e.rows
             eos := x.eos || (decide (c.row + 1 = e.rows) && (match m.dec with
               | some (_, _, k) => k == 0
               | none => true))
             snapCnt := x.snapCnt + 1
             snapDue := x.snapDue || (every != 0 && x.snapCnt + 1 == every) }

/-- The bits of a row from the parts of its buffer entry. -/
def bufBits (start : Nat) (parts : List (Nat × List Byte)) : Nat :=
  leNat ((List.range parts.length).map fun k => (alGet k parts).getD []).flatten / 2 ^ (start % 8)

/-- A row's token from its bits goes out, or XFIDX is raised. -/
def State.rowOut (s : State) (pg si : Nat) (me : Me) (m : Stream) (e : Eff) (c : Cursor) (net n : Nat) : State :=
  let x := m.desc.xf me
  if e.kind = 3 ∧ patBad x e net (m.desc.efmt % 16) then s.streamFault pg si { cls := clsRange, code := 0x01B }
  else
    let (ls, ev) := readXf x e net m.desc.efmt n
    let s := s.streamPut pg si ⟨m.rowTag e c.row, packTok net (m.desc.efmt % 16) ls⟩
    (s.modStream pg si fun m => { m with cnts := countTile c.pos ev m.cnts }).rowSent pg si m e c

/-- The case of a string of which more is still to be read. -/
def caseMore : Nat := 5

/-- A DECODE stream's next token: a row while its bytes last, the part of a row that a string of another length than declared
leaves, then a marker unless it closed normally (R223, R228, R239; log 29). -/
def State.decodeOut (s : State) (pg si : Nat) (me : Me) (m : Stream) (e : Eff) (c : Cursor) (net : Nat)
    (d : List Byte × Nat × Nat) : State :=
  let (bs, n, case) := d
  let rowLen := e.width * e.ew
  let header : State := (s.streamPut pg si (m.header e net c)).modStream pg si fun m => { m with cur := { c with hdr := true } }
  let whole := (c.row + 1) * rowLen ≤ 8 * bs.length
  let part := c.row * rowLen < 8 * bs.length ∧ 0 < case ∧ case < 4
  if c.row < e.rows ∧ case = caseMore ∧ (!whole ∨ c.row + 1 = e.rows) then s
  else if c.row < e.rows ∧ (whole ∨ part) then
    if c.hdr then s.rowOut pg si me m e c net (leNat (bs.drop (c.row * rowLen / 8)) / 2 ^ (c.row * rowLen % 8) % 2 ^ rowLen)
    else header
  else if case = caseMore then s
  else if case = 0 then
    if 0 < e.rows then s
    else if !c.hdr then header
    else (s.streamPut pg si ⟨tagEos, 0⟩).modStream pg si fun m =>
      { m with eos := true, cur := { m.cur with pos := m.cur.pos + 1, hdr := false } }
  else
    (s.streamPut pg si (if case = 4 then poisonMarker n else lenMarker case bs.length)).modStream pg si fun m => { m with eos := true }

/-! ### Records and strings read by a stream (R227, R418) -/

/-- Parts read for a stream's own use: those of one kind, by part number. -/
def Stream.got (m : Stream) (kind : Nat) : List (Nat × List Byte) := (m.recs.filter fun x => x.1 == kind).map fun x => x.2

/-- A stream's own reads are dropped. -/
def State.dropAux (s : State) (pg si : Nat) : State :=
  { s.modStream pg si fun m => { m with recs := [], strAt := 0, winAt := none, hdrAt := none } with
    reqs := s.reqs.filter fun q => match q.job with
      | .aux g x _ _ => g != pg || x != si
      | _ => true }

/-- Reads of a stream's own enter its ME's port queue when that has room for all of them; `k` notes it. -/
def State.auxAsk (s : State) (pg si kind : Nat) (ps : List (Nat × Part)) (k : Stream → Stream) : State :=
  match s.stream? pg si with
  | none => s
  | some m =>
    let port : Port := .me pg (si / 4)
    if !s.portRoom port (.aux pg si kind 0) ps.length then s
    else
      let tt := s.ttStream pg m.cur.pos
      ps.foldl (fun s x => match s.ask (.aux pg si kind x.1) port (((s.page? pg).map (·.asid)).getD 0) x.2 tt (streamNode pg si) m.ival with
        | .ok s => s
        | .error e => s.streamFails pg si tt e) (s.modStream pg si k)

/-- The read of a shaped stream's header begins (R418). -/
def State.askHeader (s : State) (pg si : Nat) (m : Stream) : State :=
  s.auxAsk pg si 0 (readPieces m.desc.shape 32 0) fun m => { m with hdrAt := some 1 }

/-- Address, number of the next window of a stream's table, and bytes of it. -/
def Stream.nextWin (m : Stream) (h : ShapeHdr) : Nat × Nat × Nat :=
  (m.desc.shape + 0x20 + 4 * m.win.length, m.win.length / 64, 4 * winCount h (m.win.length / 64))

/-- What a stream has read of its DECODE string is dropped. -/
def State.dropStr (s : State) (pg si : Nat) : State :=
  { s.modStream pg si fun m => { m with recs := m.recs.filter fun x => x.1 != 2, strAt := 0 } with
    reqs := s.reqs.filter fun q => match q.job with
      | .aux g x kind _ => g != pg || x != si || kind != 2
      | _ => true }

/-- The next 64-byte read of a boundary window enters the queue, one a fc (R170, R418). -/
def State.askWindow (s : State) (pg si : Nat) (m : Stream) : State :=
  match m.cap with
  | none => s
  | some h =>
    let (va, k, n) := m.nextWin h
    let j := m.winAt.getD 0
    if winReads h k ≤ j then s else s.auxAsk pg si 1 (readPieces va n j) fun m => { m with winAt := some (j + 1) }

/-- Block i of a string: its address and bytes. -/
def strBlock (base i : Nat) : Nat × Nat :=
  let va := if i = 0 then base else (base / 64 + i) * 64
  (va, 64 - va % 64)

/-- The bytes of a string that have arrived without a gap, and how many blocks they are; fuel for the blocks asked for. -/
def strBytes (got : List (Nat × List Byte)) : Nat → Nat → List Byte × Nat
  | 0, i => ([], i)
  | n + 1, i => match alGet i got with
    | some (b :: bs) => let (l, k) := strBytes got n (i + 1); (b :: bs ++ l, k)
    | _ => ([], i)

/-- What a stream can decode of its string: bytes, D or the VA of a poisoned block, and the case. -/
def Stream.decoded (m : Stream) : List Byte × Nat × Nat :=
  let got := m.got 2
  let (str, k) := strBytes got m.strAt 0
  let r := decodeRun (fun i => str[i]?) m.desc.xlen (m.desc.xlen + 2) 0 0 []
  let bs := r.out.reverse.take m.desc.xlen
  if r.case ≠ 4 then (bs, r.n, r.case)
  else if alGet k got = some [] then (bs, (strBlock m.desc.base k).1 / 64 * 64, 4)
  else (bs, r.n, caseMore)

/-- A DECODE stream reads its string and decodes what has arrived: blocks are asked for in order, ahead of need inside the 64 KiB
at hand alone, which one translation covers (R227; log 30). -/
def State.streamDecode (s : State) (pg si : Nat) : State :=
  match s.me? pg (si / 4), s.stream? pg si with
  | some me, some m =>
    if (m.desc.xf me).kind ≠ 4 ∨ !m.valid ∨ m.eos ∨ m.desc.isStore ∨ m.hdrAt.isSome ∨ (m.desc.shape ≠ 0 ∧ m.cap = none) then s
    else
      let d := m.decoded
      let s := if m.dec = some d then s else s.modStream pg si fun m => { m with dec := some d }
      if d.2.2 ≠ caseMore then s
      else
        let k := (strBytes (m.got 2) m.strAt 0).2
        let (va, n) := strBlock m.desc.base m.strAt
        if k < m.strAt ∧ va / 65536 ≠ (strBlock m.desc.base k).1 / 65536 then s
        else s.auxAsk pg si 2 [(m.strAt, ⟨va, n, none⟩)] fun m => { m with strAt := m.strAt + 1 }
  | _, _ => s

/-- The next token of a load stream: DRAIN, SNAP, a header, a row, a marker (R222, R223, R270, R396). -/
def State.streamEmit (s : State) (pg si : Nat) : State :=
  match s.page? pg, s.me? pg (si / 4), s.stream? pg si, s.regionOf pg with
  | some p, some me, some m, some r =>
    if !p.outFree false (epMe (si / 4) (si % 4)) then s
    else if m.drainDue then
      if m.drained then s
      else (s.streamPut pg si (marker tagDrain)).modStream pg si fun m => { m with drained := true }
    else if m.snapDue then
      if s.snapMay pg m.ival then (s.streamPut pg si (marker tagSnap)).modStream pg si Stream.snap else s
    else if !m.valid ∨ m.desc.isStore ∨ m.hdrAt.isSome ∨ (m.desc.shape ≠ 0 ∧ m.cap = none) ∨ !s.streamRuns pg si then s
    else
      let e := m.desc.eff m.cap (m.desc.xf me)
      let net := p.streamNet si
      if m.eos ∧ !m.cur.again r m.desc.tile e.rows then
        if m.cur.past r m.desc.tile e.rows then s.modStream pg si fun m => { m with cur := { m.cur with pos := m.cur.pos + 1 } } else s
      else match e.kind, m.dec with
      | 4, none => s
      | kind, dec =>
        match m.cur.open r m.desc.tile e.rows with
        | none =>
          match kind, dec with
          | 4, some d => if e.rows ≤ m.cur.row then s.decodeOut pg si me m e m.cur net d else s
          | _, _ => if m.cur.skips r m.desc.tile e.rows then
              s.modStream pg si fun m => { m with cur := { m.cur with pos := m.cur.pos + 1 } } else s
        | some c =>
          if !c.hdr ∧ r.st = .stopping then s
          else if !c.hdr ∧ !m.winReady (min e.rows ((c.row / m.desc.tile + 1) * m.desc.tile) - 1) then
            if m.winAt.isSome then s else s.askWindow pg si m
          else match kind, dec with
            | 4, some d => s.decodeOut pg si me m e c net d
            | _, _ =>
              if !c.hdr then
                (s.streamPut pg si (m.header e net c)).modStream pg si fun m => { m with cur := { c with hdr := true } }
              else if e.rows = 0 then
                (s.streamPut pg si ⟨tagEos, 0⟩).modStream pg si fun m =>
                  { m with eos := true, cur := { m.cur with pos := m.cur.pos + 1, hdr := false } }
              else match m.buf with
                | [] => s
                | (_, parts, bad) :: rest =>
                  let (start, len) := m.desc.rowBits e c.row
                  if parts.length < (rowParts start len).length then s
                  else
                    let s := s.modStream pg si fun m => { m with buf := rest }
                    match bad with
                    | some va => (s.streamPut pg si (poisonMarker va)).rowSent pg si m e c
                    | none => s.rowOut pg si me m e c net (bufBits start parts % 2 ^ len)
  | _, _, _, _ => s

/-- `STREAM_ROW_ISSUE` (R223): a load stream asks for what it needs next and places its next token. -/
def execStreamRowIssue (pg si : Nat) (s : State) : Out :=
  if s.streamRuns pg si then .next (((s.streamDecode pg si).streamFetch pg si).streamEmit pg si)
  else if ((s.regionOf pg).map fun r => r.st == .frozen).getD true then .next s
  else .next (s.streamEmit pg si)

/-- `STREAM_HEADER_CAPTURE` (R418): a shaped stream's read of its record's header goes on, and is checked when it has arrived. -/
def execStreamHeaderCapture (pg si : Nat) (s : State) : Out :=
  match s.stream? pg si with
  | none => .next s
  | some m => match m.hdrAt with
    | none => .next s
    | some n =>
      if m.desc.shape = 0 ∨ m.cap.isSome then .next s
      else if n = 0 then .next (s.askHeader pg si m)
      else match piecesOf m.desc.shape 32 (m.got 0) with
        | none => .next s
        | some bs =>
          let s := s.modStream pg si fun m => { m with hdrAt := none, recs := m.recs.filter fun x => x.1 != 0 }
          match hdrBad bs with
          | some off => .next (s.streamFault pg si (badRec off m.desc.shape))
          | none => .next (s.modStream pg si fun m => { m with cap := some (hdrOf bs) })

/-- `STREAM_WINDOW_READ` (R418): the reads of a shaped stream's next window go on; with all of them back, and 3 fc after the first for
a window of four reads or fewer (R170), it is checked and joins the others. -/
def execStreamWindowRead (pg si : Nat) (s : State) : Out :=
  match s.stream? pg si with
  | none => .next s
  | some m => match m.winAt, m.cap with
    | some j, some h =>
      let (va, k, n) := m.nextWin h
      let short := 4 - winReads h k
      match piecesOf va n (m.got 1) with
      | none => .next (s.askWindow pg si m)
      | some bs =>
        if j < 8 ∧ short ≠ 0 then .next (s.modStream pg si fun m => { m with winAt := some (8 + s.fc + short) })
        else if 8 ≤ j ∧ s.fc < j - 8 then .next s
        else
          let s := s.modStream pg si fun m => { m with winAt := none, recs := m.recs.filter fun x => x.1 != 1 }
          match windowOf h m.desc.shape k bs m.win.getLast? none with
          | .error e => .next (s.streamFault pg si e)
          | .ok l => .next (s.modStream pg si fun m => { m with win := m.win ++ l })
    | _, _ => .next s

/-! ## Store streams (R224) -/

/-- A store stream's token is dequeued. -/
def State.storeTake (s : State) (pg si : Nat) : State := s.modPage pg fun p => p.takeAt (epMe (si / 4) (si % 4))

/-- A row token of a store stream. -/
def State.storeRowTok (s : State) (pg si : Nat) (me : Me) (m : Stream) (net : Nat) (t : Tok) : State :=
  let x := m.desc.xf me
  let e := m.desc.eff m.cap x
  let ety := m.desc.efmt % 16
  if e.rows ≤ m.cur.row then
    (s.streamFault pg si { cls := clsRange, code := 0x01A }).modMe pg (si / 4) fun m => { m with withheld := true }
  else if e.kind = 3 ∧ patBad x e net ety then s.streamFault pg si { cls := clsRange, code := 0x01B }
  else
    let (els, ev) := if e.sty = 12 then (tab e.spln fun k => (k, lane 32 t.pay k), []) else writeXf x e net m.desc.efmt t.pay
    let pos := m.cur.pos
    let todo := (storeRow m.desc e m.cur.row els).map fun p => (pos, 0, 0, p)
    let closes := t.tag = tagEot ∨ t.tag = tagEos
    let s := s.storeTake pg si
    let s := s.modStream pg si fun m =>
      { m with cnts := countTile pos ev m.cnts, todo := todo, eos := m.eos || t.tag == tagEos, reported := m.reported || (m.sink && t.tag == tagEos)
               cur := { m.cur with row := m.cur.row + 1, pos := if closes then pos + 1 else pos, hdr := m.cur.hdr || t.tag == tagEos } }
    s.streamAsk pg si

/-- `STORE_STREAM_TOKEN` (R224, R228, R240, R271, R396): a store stream goes on with the row at hand, or takes its next
token. -/
def execStoreStreamToken (pg si : Nat) (s : State) : Out :=
  match s.page? pg, s.me? pg (si / 4), s.stream? pg si with
  | some p, some me, some m =>
    if m.todo ≠ [] then
      if s.streamRuns pg si then .next (s.streamAsk pg si) else .next s
    else match p.headAt (epMe (si / 4) (si % 4)) with
      | none => .next s
      | some t =>
        if t.tag = tagSnap then
          if s.snapMay pg m.ival then .next ((s.storeTake pg si).modStream pg si Stream.snap) else .next s
        else if t.tag = tagDrain then .next ((s.storeTake pg si).modStream pg si fun m => { m with drained := true })
        else if !m.valid ∨ !m.desc.isStore ∨ !s.streamRuns pg si ∨ (m.desc.shape ≠ 0 ∧ m.cap = none) then .next s
        else if t.tag = tagCtl then
          if t.kind = 1 then
            .next ((s.storeTake pg si).modStream pg si fun m => { m with cur := { m.cur with row := t.hRow0 } })
          else if t.kind = 3 then .next (s.raiseMe pg si { cls := clsLen, code := bits t.pay.toNat 49 48 })
          else if t.kind = 4 then .next (s.raiseMe pg si { cls := clsPoison, code := 1, opnd := bits t.pay.toNat 55 0 })
          else .next (s.storeTake pg si)
        else .next (s.storeRowTok pg si me m (p.streamNet si) t)
  | _, _, _ => .next s

/-! ## `SOPEN` and `SCTL` (R246) -/

def sdescFault (v : Nat) : FaultInfo := { cls := clsRange, code := 0x01C, opnd := v }

/-- A word that reads a record of n bytes at A fires: it hands over its first access. -/
def recR (o : FormR) (n : Nat) (s : State) : Out :=
  fireJob o.g (fun _ _ _ f => .ok { f with plan := recParts f.sa.toNat n }) memPost s

/-- `SOPEN` fires: it reads the descriptor. -/
def execSopen (o : FormR) (s : State) : Out := recR o 128 s

def execSctlClose (o : FormR) (s : State) : Out := soonR o false s
def execSctlRewind (o : FormR) (s : State) : Out := soonR o false s
def execSctlSkip (o : FormR) (s : State) : Out := soonR o false s

/-- A stream with a new descriptor; its translation entry, interval and shadows stay. -/
def Stream.opened (m : Stream) (d : SDesc) (valid : Bool) : Stream :=
  { Stream.idle with desc := d, valid := valid, tlb := m.tlb, cnts := m.cnts, ival := m.ival, shadows := m.shadows
                     cur := { Cursor.start with pos := m.cur.pos }, ask := { Cursor.start with pos := m.cur.pos } }

/-- `SOPEN` performed: the descriptor is read; a shaped stream's header is captured before its checks (R418). -/
def State.sopenStep (s : State) (f : Flight) : State :=
  let pg := f.who.page
  let si := (field f.word 19 5).toNat
  match s.page? pg, s.me? pg (si / 4), s.stream? pg si with
  | some p, some me, some m =>
    let arm (s : State) (d : SDesc) (cap : Option ShapeHdr) : State :=
      let e := d.eff cap (d.xf me)
      if d.bad e (d.xf me) (p.streamNet si) then s.flightFault f (sdescFault f.sa.toNat)
      else (s.modStream pg si fun m => { m with valid := true }).perform f Writes.none (e.rows != 0) false []
    if f.aux = [1] then (if m.cap.isSome then arm s m.desc m.cap else s)
    else if m.valid then s.flightFault f { cls := clsRange, code := 0x01D, opnd := si }
    else s.withRec f fun bs s =>
      let d := sdescOf bs
      let s := (s.dropAux pg si).modStream pg si fun m => m.opened d false
      if d.shape = 0 then arm s d none
      else ((s.modFlight f.fid fun f => { f with aux := [1] }).modStream pg si fun m => { m with hdrAt := some 0 }).askHeader pg si
        { m with desc := d }
  | _, _, _ => s

/-- `SCTL` performed. -/
def State.sctlStep (s : State) (f : Flight) : State :=
  let pg := f.who.page
  let si := (field f.word 19 5).toNat
  match s.me? pg (si / 4), s.stream? pg si with
  | some me, some m =>
    let rows := (m.desc.eff m.cap (m.desc.xf me)).rows
    let left := rows - m.cur.row
    let move (c : Cursor) (n : Nat) (fresh : Bool) : State :=
      ((if fresh then s.dropAux pg si else s).modStream pg si fun m =>
        { m with cur := c, ask := c, buf := [], todo := if m.desc.isStore then m.todo else [], eos := m.eos && m.desc.isStore
                 win := if fresh then [] else m.win, dec := if fresh then none else m.dec, pat := (0, 0) }).perform
        f Writes.none (n != 0) false []
    if !m.valid then s.flightFault f (sdescFault si)
    else match fnOf f.word with
      | 0 =>
        (s.modStream pg si fun m =>
          { m with valid := false, eos := true, buf := [], todo := if m.desc.isStore then m.todo else []
                   desc := { m.desc with flags := m.desc.flags / 2 * 2 }
                   reported := m.reported || m.sink }).perform f Writes.none (left != 0) false []
      | 1 => move { m.cur with row := 0, back := none, hdr := false } rows true
      | _ =>
        let n := min f.sa.toNat left
        let row := m.cur.row + n
        move { m.cur with row := row, back := if n = 0 then m.cur.back else none
                          hdr := m.cur.hdr && row / m.desc.tile == m.cur.row / m.desc.tile } (left - n) false
  | _, _ => s

/-! ## `PREF` and `XFORM` (R249, R250) -/

/-- The issuer's translation entry covers an address. -/
def State.held (s : State) (f : Flight) : Bool := (s.tlbFor f.port (.flight f.fid 0) f.asid f.ea).isSome

/-- A PREF's request enters its port's queue and asks for a walk, when there is room (R249). -/
def State.prefAsk (s : State) (f : Flight) : State :=
  if f.aux ≠ [] ∨ !s.portRoom f.port (.pref f.fid) 1 then s
  else
    let (rid, s) := s.newId
    let r : Req := { rid := rid, job := .pref f.fid, port := f.port, asid := f.asid, va := f.ea, pa := none, leaf := 0, len := 0
                     data := none, due := 0, tt := f.tt, node := f.who.node, ival := f.ival, own := false, walking := false }
    let (r, s) := s.startWalk r
    { s.modFlight f.fid fun f => { f with stage := 1 } with reqs := s.reqs ++ [r] }

/-- `PREF` fires: it ends 2 fc later with the entry held, or asks for a walk through its port. -/
def execPref (o : FormR) (s : State) : Out :=
  fireJob o.g (fun _ _ s f =>
    if s.held f then .ok { f with after := s.fc + 2, aux := [1] } else .ok f) (fun f s => (s.prefAsk f).accept f) s

/-- `PREF` performed: its outcome is whether a valid translation was held or found (R249). -/
def State.prefStep (s : State) (f : Flight) : State :=
  match f.aux with
  | x :: _ => s.perform f Writes.none (x == 1) false []
  | [] => if f.stage = 0 then s.prefAsk f else s

def execXform (o : FormR) (s : State) : Out := recR o 128 s

/-- `XFORM` performed (R250): once no store of that ME and side is partly issued; rows a load stream has read ahead are read again, with the
new transform. -/
def State.xformStep (s : State) (f : Flight) : State :=
  let pg := f.who.page
  let d := (field f.word 19 5).toNat
  let store := d % 2 == 1
  match s.me? pg (d / 2) with
  | none => s
  | some me =>
    if me.streams.any fun m => m.valid && m.desc.isStore && store && !m.todo.isEmpty then s
    else s.withRec f fun bs s =>
      let x := xfOf bs
      if xfBad x store then s.flightFault f (sdescFault f.sa.toNat)
      else
        let hit (m : Stream) : Bool := bitAt m.desc.flags 2 && !m.desc.isStore && !store
        let s := (List.range 4).foldl (fun s i =>
          if ((me.streams[i]?).map hit).getD false then s.dropStr pg (d / 2 * 4 + i) else s) s
        (s.modMe pg (d / 2) fun m =>
          { m with rd := if store then m.rd else x, wr := if store then x else m.wr
                   streams := m.streams.map fun m =>
                     let m := if m.desc.isStore == store then { m with pat := (0, 0) } else m
                     if hit m then { m with buf := [], todo := [], ask := m.cur, dec := none } else m }).perform
            f Writes.none true false []

/-! ## `LDR` (R248) -/

/-- What a `LDR` in progress keeps in its `aux`: next row to emit, next row to ask for, header of the tile sent, next segment
whose companion is due. -/
structure LdrAt where
  row : Nat
  ask : Nat
  hdr : Bool
  seg : Nat

def Flight.ldrAt (f : Flight) : LdrAt := ⟨f.aux.getD 0 0, f.aux.getD 1 0, f.aux.getD 2 0 == 1, f.aux.getD 3 0⟩
def LdrAt.list (l : LdrAt) : List Nat := [l.row, l.ask, if l.hdr then 1 else 0, l.seg]

/-- `LDR` fires: it captures the shape and checks it. -/
def execLdr (o : FormR) (s : State) : Out :=
  fireJob o.g (fun _ x s f =>
    let f := captureShape o.b.toNat s f
    let ty := tyOf x
    match f.cap with
    | none => .error unboundFault
    | some (h, _, _, _) =>
      if h.ty ≠ ty then .error { cls := clsFmt, code := 5, opnd := h.ty }
      else if 512 < h.width * tyWidth ty then .error (sdescFault h.width)
      else match alignFault 4 f.sa.toNat (tyWidth ty / 8) with
        | some e => .error e
        | none => .ok { f with holds := f.holds ++ destHolds o.d.toNat, aux := (LdrAt.mk 0 0 false 0).list, after := s.fc + 1 })
    jobPost s

/-- The first entry from `i` on that is not known while rows below r1 need it; fuel for the table's length. -/
def ldrMissing (kn : List (Nat × Nat)) (segs r1 : Nat) : Nat → Nat → Option Nat
  | 0, _ => none
  | n + 1, i =>
    if segs < i then none
    else match entryOf kn i with
      | none => some i
      | some v => if r1 ≤ v ∧ r1 ≠ 0 ∧ i < segs then none else ldrMissing kn segs r1 n (i + 1)

/-- The accesses of a row. -/
def ldrParts (h : ShapeHdr) (a row : Nat) : List (Nat × Nat) :=
  rowParts (8 * a + row * h.pitch) (h.width * tyWidth h.ty)

/-- The next read of a `LDR` is issued (one a fc). -/
def State.ldrFetch (s : State) (f : Flight) (h : ShapeHdr) : State :=
  let l := f.ldrAt
  if s.fc < f.after ∨ h.rows ≤ l.ask ∨ !s.mayIssue f then s
  else
    let parts := ldrParts h f.sa.toNat l.ask
    let job : ReqFor := .flight f.fid (l.ask * 4 + f.stage)
    match parts[f.stage]? with
    | none => s
    | some (a, n) =>
      if !s.portRoom f.port job 1 || !s.inTurn f a n then s
      else
        let done := parts.length ≤ f.stage + 1
        let s := s.modFlight f.fid fun f =>
          { f with left := f.left + 1, after := s.fc + 1, stage := if done then 0 else f.stage + 1
                   aux := { l with ask := if done then l.ask + 1 else l.ask }.list }
        match s.ask job f.port f.asid ⟨a, n, none⟩ f.tt f.who.node f.ival with
        | .ok s => s
        | .error e => s.flightFault f e

/-- A segment companion (R175). -/
def companion (empty : Bool) (seg row : Nat) : Tok :=
  ctlTok 2 ((if empty then 2 ^ 55 else 0) + seg * 2 ^ 32 + row)

/-- The next token of a `LDR`, if it is known: the token, where it then stands, and whether it is the last. -/
def ldrToken (f : Flight) (h : ShapeHdr) (kn : List (Nat × Nat)) : Option (Tok × LdrAt × Bool) :=
  let l := f.ldrAt
  let r1 := min h.rows ((l.row / 16 + 1) * 16)
  let ent (i : Nat) : Nat := (entryOf kn i).getD h.rows
  if !l.hdr then
    let hoff := if h.rows = 0 then none else firstHead (kn.map (·.2)) h.rows l.row r1
    some (headerTok 2 h.strict hoff (r1 - l.row) h.ty l.row h.width, { l with hdr := true }, false)
  else
    let last := decide (h.rows ≤ l.row + 1)
    if l.seg < h.segs ∧ (ent l.seg = l.row ∨ (last ∧ ent l.seg = h.rows)) then
      some (companion (ent l.seg == ent (l.seg + 1)) l.seg (ent l.seg), { l with seg := l.seg + 1 }, false)
    else if h.rows = 0 then some (⟨tagEos, 0⟩, l, true)
    else
      let parts := ldrParts h f.sa.toNat l.row
      let got := (List.range parts.length).map fun k => alGet (l.row * 4 + k) f.got
      if got.all Option.isSome then
        let closes := decide (l.row + 1 = r1)
        let next := { l with row := l.row + 1, hdr := !closes }
        match (List.range parts.length).find? fun k => (got.getD k none) == some [] with
        | some k => some (poisonMarker ((parts.getD k (0, 0)).1 / 64 * 64), next, last)
        | none =>
          let n := leNat (got.map fun b => b.getD []).flatten
          let w := tyWidth h.ty
          some (⟨if last then tagEos else if closes then tagEot else tagEor,
            packLanes w (tab h.width fun j => n / 2 ^ (w * j) % 2 ^ w)⟩, next, last)
      else none

/-- The boundary entries a `LDR` can see. -/
def State.ldrKnown (s : State) (f : Flight) : List (Nat × Nat) := s.mmaKnown f

/-- A `LDR` that has read the last boundary it needs ends its capture (R172): it keeps the entries still to be used. -/
def State.ldrCapture (s : State) (f : Flight) (h : ShapeHdr) (kn : List (Nat × Nat)) : State :=
  if f.reads = [] ∨ (ldrMissing kn h.segs 0 4100 f.ldrAt.seg).isSome then s
  else
    let w := f.ldrAt.seg / 64
    let l := tab (h.segs + 1 - 64 * w) fun i => (entryOf kn (64 * w + i)).getD 0
    (s.modFlight f.fid fun f => { f with reads := [], cap := f.cap.map fun c => (c.1, c.2.1, w, l) }).clearStash f.who.page
      (field f.word 9 5).toNat f.who (some f.fid)

/-- The next token of a `LDR` is placed; a missing boundary pauses it before a header. -/
def State.ldrEmit (s : State) (f : Flight) (h : ShapeHdr) : State :=
  let l := f.ldrAt
  let kn := s.ldrKnown f
  let sx := (field f.word 9 5).toNat
  let port := (field f.word 19 5).toNat - 16
  match f.who with
  | .tel .. => s
  | .elem pg pe _ _ =>
    let r1 := min h.rows ((l.row / 16 + 1) * 16)
    match (if l.hdr then none else ldrMissing kn h.segs (if r1 = h.rows then 0 else r1) 4100 l.seg) with
    | some i => s.startRefill pg sx (i / 64) f.who f.word (some f.fid)
    | none =>
      if !s.latchEmpty pg pe port ∨ !s.mayPublish { f with wr := { Writes.none with out := [(0, marker 0)] } } then s
      else match ldrToken f h kn with
        | none => s
        | some (t, l, true) =>
          ((s.clearStash pg sx f.who (some f.fid)).perform f { Writes.none with out := [(port, t)] } (l.row != 0) false [])
        | some (t, l, false) =>
          (s.emitTok pg pe port t false).modFlight f.fid fun f =>
            { f with aux := { l with ask := f.ldrAt.ask }.list, got := f.got.filter fun g => decide (l.row * 4 ≤ g.1) }

def State.ldrStep (s : State) (f : Flight) : State :=
  match f.cap with
  | none => s
  | some (h, _, _, _) =>
    let s := (s.ldrFetch f h).ldrCapture f h (s.ldrKnown f)
    match s.flight? f.fid with
    | some f => s.ldrEmit f h
    | none => s

end Sys2Proof.Machine
end

