-- ==== Sys2Proof/Machine/Assay.lean ====
section
/-!
DEFINITION. The summary tree (R278-R296) and its instructions, opcodes 0x74-0x77 (R298-R309): records, the arithmetic of
their changes, bounds, descents and accumulations, performed by the assay unit of the pool's home die.
-/

namespace Sys2Proof.Machine

/-! ## e^x times a value, rounded once in any mode (R290, R293) -/

/-- An enclosure rounded in a mode, once both ends round alike; the last resort is an open value (log 13). -/
def Fmt.zivR (f : Fmt) (rm : Rm) (neg : Bool) (enc : Nat → Encl) (open_ : Nat) : Nat → Nat → FRes
  | 0, _ => f.round rm neg open_ 0 true
  | k + 1, p =>
    let r := enc p
    let a := f.round rm neg r.lo r.e true
    let b := f.round rm neg r.hi r.e true
    if a = b then a else f.zivR rm neg enc open_ k (2 * p)

/-- a * e^x with one rounding. -/
def Fmt.mulExp (f : Fmt) (rm : Rm) (a x : FVal) : FRes :=
  match a, x with
  | .nan _, _ | _, .nan _ => f.nan (sigEv [a, x])
  | .inf n, .inf d => if d then f.nan true else ⟨f.inf n, []⟩
  | .inf n, _ => ⟨f.inf n, []⟩
  | .fin n m _, .inf d => if d then ⟨f.zero n, []⟩ else if m = 0 then f.nan true else ⟨f.inf n, []⟩
  | .fin n m e, .fin xn xm _ =>
    if m = 0 then ⟨f.zero n, []⟩
    else if xm = 0 then f.round rm n m e false
    else if x.dy.atLeast 12 then f.round rm n 1 (if xn then -20000 else 20000) true
    else f.zivR rm n (fun p => let r := encExp x.dy p; ⟨m * r.lo, m * r.hi, r.e + e⟩)
      (Config.transcendental 9 m x.dy.n x.dy.e).natAbs 6 (f.mb + 40)

/-! ## Records (R278, R280, R281) -/

/-- A tree descriptor as read. -/
structure Tree where
  addr : Nat
  id : Nat
  d : Nat
  cap : Nat
  fan : Nat
  ex : Int
  policy : Nat
  tau : Nat
  rsz : Nat
  pool : Nat
  pooln : Nat
  len : Nat
  leaf : Nat
  top : List Nat
  deriving DecidableEq, Repr

/-- A node record as read: keys are c + r. -/
structure Node where
  id : Nat
  parent : Nat
  st : Nat
  level : Nat
  z : Bool
  ref : Nat
  tfirst : Nat
  n : Nat
  rho : Nat
  child : List Nat
  s : List Int
  v : List Nat
  c : List Int
  keys : List (List Int)
  vals : List (List Nat)
  deriving DecidableEq, Repr

def Tree.b (t : Tree) : Nat := (t.d + 31) / 32
def headSize (d : Nat) : Nat := 64 * ((128 + 14 * d + 63) / 64)
def Tree.valsAt (t : Tree) : Nat := headSize t.d + 68 * t.cap * t.b

/-- RSZ of R280. -/
def recSize (d cap : Nat) : Nat :=
  64 * ((headSize d + 68 * cap * ((d + 31) / 32) + 2 * cap * d + 63) / 64)

def Tree.recAt (t : Tree) (k : Nat) : Nat := t.pool + (k - 1) * t.rsz

/-- A descriptor within the limits of R278 and R280, or none. -/
def descOf (addr : Nat) (b : List Byte) : Option Tree :=
  let ex := signed (recNat b 0xE 1) 8
  let d := recNat b 0xA 2
  let cap := recNat b 0xC 1
  let fan := recNat b 0xD 1
  let tau := recNat b 0x10 4
  let pooln := recNat b 0x20 4
  let ntop := recNat b 0x24 4
  let zero (off n : Nat) : Bool := ((b.drop off).take n).all (· == 0)
  if recNat b 4 4 = 0 ∧ recNat b 8 1 = 4 ∧ recNat b 9 1 = 1 ∧ 1 ≤ d ∧ d ≤ 256 ∧ 2 ≤ cap ∧ cap ≤ 64 ∧ 2 ≤ fan ∧ fan ≤ 8 ∧
      -32 ≤ ex ∧ ex ≤ 15 ∧ recNat b 0xF 1 < 4 ∧ tau < 0x7F800000 ∧ recNat b 0x14 4 = recSize d cap ∧
      recNat b 0x18 8 % 64 = 0 ∧ 1 ≤ pooln ∧ pooln ≤ 2 ^ 20 ∧ ntop ≤ 32 ∧ zero 0x34 12 ∧ zero 0xC0 64 then
    some { addr := addr, id := recNat b 0 4, d := d, cap := cap, fan := fan, ex := ex, policy := recNat b 0xF 1, tau := tau
           rsz := recNat b 0x14 4, pool := recNat b 0x18 8, pooln := pooln, len := recNat b 0x28 8, leaf := recNat b 0x30 4
           top := tab ntop fun i => recNat b (0x40 + 4 * i) 4 }
  else none

/-- Bytes padded with zeros to a length. -/
def padTo (n : Nat) (b : List Byte) : List Byte := (b ++ List.replicate (n - b.length) 0).take n

/-- The 256 bytes of a descriptor. -/
def Tree.bytes (t : Tree) : List Byte :=
  leBytes 4 t.id ++ leBytes 4 0 ++ [4, 1] ++ leBytes 2 t.d ++ leBytes 1 t.cap ++ leBytes 1 t.fan ++
  leBytes 1 (pattern t.ex 8) ++ leBytes 1 t.policy ++ leBytes 4 t.tau ++ leBytes 4 t.rsz ++ leBytes 8 t.pool ++
  leBytes 4 t.pooln ++ leBytes 4 t.top.length ++ leBytes 8 t.len ++ leBytes 4 t.leaf ++ leBytes 12 0 ++
  padTo 128 (t.top.map (leBytes 4)).flatten ++ leBytes 64 0

/-- A residual row of 17-plane blocks (R83, R281). -/
def resBytes (d : Nat) (r : List Int) : List Byte :=
  (tab ((d + 31) / 32) fun k => (tab 17 fun p => leBytes 4 (planeWord 17 p ((padI r).drop (32 * k) |>.take 32))).flatten).flatten
where
  padI (r : List Int) : List Int := r ++ List.replicate 32 0

def resOf (d : Nat) (b : List Byte) : List Int :=
  tab d fun j => planeValue 17 (tab 17 fun p => recNat b (68 * (j / 32) + 4 * p) 4) (j % 32)

/-- A node record from its bytes. -/
def Tree.nodeOf (t : Tree) (b : List Byte) : Node :=
  let d := t.d
  let c := tab d fun j => signed (recNat b (0x80 + 12 * d + 2 * j) 2) 16
  let n := recNat b 0x18 4
  let z := recNat b 0xA 1 % 2 == 1 && recNat b 8 1 != 3
  { id := recNat b 0 4, parent := recNat b 4 4, st := recNat b 8 1, level := recNat b 9 1, z := recNat b 0xA 1 % 2 == 1
    ref := recNat b 0xC 4, tfirst := recNat b 0x10 8, n := n, rho := recNat b 0x1C 4
    child := tab (min 16 (recNat b 0xB 1)) fun i => recNat b (0x20 + 4 * i) 4
    s := tab d fun j => signed (recNat b (0x80 + 8 * j) 8) 64
    v := tab d fun j => recNat b (0x80 + 8 * d + 4 * j) 4
    c := c
    keys := if z then tab (min n t.cap) fun i =>
      (resOf d (b.drop (headSize d + 68 * t.b * i))).zipWith (· + ·) c else []
    vals := if z then tab (min n t.cap) fun i => tab d fun j => recNat b (t.valsAt + 2 * d * i + 2 * j) 2 else [] }

/-- The bytes of a node record; leaf areas only for a leaf that is not evicted. -/
def Tree.nodeBytes (t : Tree) (x : Node) : List Byte :=
  let head := leBytes 4 x.id ++ leBytes 4 x.parent ++ leBytes 1 x.st ++ leBytes 1 x.level ++ leBytes 1 (if x.z then 1 else 0) ++
    leBytes 1 x.child.length ++ leBytes 4 x.ref ++ leBytes 8 x.tfirst ++ leBytes 4 x.n ++ leBytes 4 x.rho ++
    padTo 64 (x.child.map (leBytes 4)).flatten ++ leBytes 32 0 ++
    (x.s.map fun e => leBytes 8 (pattern e 64)).flatten ++ (x.v.map (leBytes 4)).flatten ++
    (x.c.map fun e => leBytes 2 (pattern e 16)).flatten
  let res := (x.keys.map fun k => resBytes t.d (k.zipWith (· - ·) x.c)).flatten
  let vals := (x.vals.map fun r => (r.map (leBytes 2)).flatten).flatten
  padTo t.rsz (padTo t.valsAt (padTo (headSize t.d) head ++ res) ++ vals)

/-! ## The arithmetic of a node (R283, R284) -/

/-- Round half away from zero of a / n. -/
def divHalfAway (a : Int) (n : Nat) : Int :=
  let q : Int := ((2 * a.natAbs + n) / (2 * n) : Nat)
  if a < 0 then -q else q

/-- RNE_f32 addition of patterns, with events. -/
def addF32 (x y : Nat) : FRes := fmtF32.addV .rne (fmtF32.decode x) (fmtF32.decode y)

/-- A bf16 pattern as an f32 one. -/
def bfToF32 (x : Nat) : Nat := x * 2 ^ 16

/-- Value sums and their events, in order. -/
def sumVals (d : Nat) (rows : List (List Nat)) : List Nat × List Nat :=
  rows.foldl (fun acc r =>
    let rs := tab d fun j => addF32 (acc.1.getD j 0) (r.getD j 0)
    (rs.map (·.pat), addCnts acc.2 (sumEvents (rs.map (·.ev))))) (List.replicate d 0, [])

def maxAbs (l : List Int) : Nat := l.foldl (fun m x => max m x.natAbs) 0

/-- A leaf summarised from its keys: S, c and the radius. -/
def Node.fromKeys (x : Node) (d : Nat) (keys : List (List Int)) : Node :=
  let s := tab d fun j => keys.foldl (fun a k => a + k.getD j 0) 0
  let c := s.map fun a => divHalfAway a keys.length
  { x with n := keys.length, s := s, c := c, keys := keys
           rho := keys.foldl (fun m k => max m (maxAbs (k.zipWith (· - ·) c))) 0 }

/-- A leaf summarised afresh from keys and stored values (R287). -/
def Node.remade (x : Node) (d : Nat) (keys : List (List Int)) (vals : List (List Nat)) : Node × List Nat :=
  let (v, ev) := sumVals d (vals.map fun r => r.map bfToF32)
  ({ x.fromKeys d keys with v := v, vals := vals }, ev)

/-- The radius of an internal node from its children. -/
def radiusOf (c : List Int) (kids : List Node) : Nat :=
  kids.foldl (fun m k => max m (k.rho + maxAbs (k.c.zipWith (· - ·) c))) 0

/-- A key quantised (R86, R302). -/
def quantise (ex : Int) (bf : Nat) : Int × List Nat :=
  let v := fmtBf16.decode bf
  intOfV 1 .rne (match v with
    | .fin n m e => .fin n m (e - ex)
    | x => x)

/-! ## One indivisible operation -/

/-- What an assay operation carries: the state, pool records written and freed, and events. -/
structure Asm where
  s : State
  ids : List Nat
  freed : Nat
  ev : List Nat

/-- An operation that faults, or must wait for escrow or undo room. -/
inductive AErr where
  | fault (f : FaultInfo)
  | wait

abbrev AM := StateT Asm (Except AErr)

def tree (code id : Nat) (f : Flight) : FaultInfo := { cls := clsTree, code := code, detail := id, opnd := f.sa.toNat }

def afault {α : Type} (e : FaultInfo) : AM α := throw (.fault e)

/-- Bytes read through the issuer's translations. -/
def aread (f : Flight) (va n : Nat) : AM (List Byte) := do
  let a ← get
  match a.s.readRec f.port.die f.asid f.tt va n with
  | .error e => afault e
  | .ok (bs, s) => set { a with s := s }; pure bs

/-- One store inside a 64-byte unit. -/
def awriteUnit (f : Flight) (va : Nat) (bs : List Byte) : AM Unit := do
  let a ← get
  match a.s.walk f.port.die f.asid va with
  | .error c => afault { cls := clsXlate, code := c, opnd := va }
  | .ok e => match a.s.accessFault f.tt e .store false va with
    | some x => afault x
    | none => match a.s.write f.port f.tt f.ival e.leaf (e.key va) bs (allOnes bs.length) with
      | .ok s => set { a with s := s }
      | .poison _ => afault { cls := clsPoison, code := 1, opnd := va }
      | .wait _ => throw .wait

/-- Bytes written, cut at units. -/
def awrite (f : Flight) (va : Nat) (bs : List Byte) : AM Unit :=
  (State.readRec.unitsLong va bs.length).forM fun (a, n) => awriteUnit f a ((bs.drop (a - va)).take n)

def aevents (ev : List Nat) : AM Unit := modify fun a => { a with ev := addCnts a.ev ev }

/-- A pool record counted as written. -/
def atouch (id : Nat) : AM Unit := modify fun a => { a with ids := if a.ids.contains id then a.ids else id :: a.ids }

/-- OPEN names a record of the pool or none, and every entry of the top list a record (R278). -/
def Tree.idsOk (t : Tree) : Bool := decide (t.leaf ≤ t.pooln) && t.top.all fun k => decide (1 ≤ k) && decide (k ≤ t.pooln)

/-- The descriptor at an address (R279), which is 64-byte aligned (R301). -/
def areadTree (f : Flight) (va : Nat) : AM Tree := do
  if va % 64 ≠ 0 then afault { cls := clsAlign, code := 7, opnd := va }
  let b ← aread f va 256
  match (descOf va b).filter Tree.idsOk with
  | some t => pure t
  | none => afault (tree 1 0 f)

def awriteTree (f : Flight) (t : Tree) : AM Unit := do
  awrite f t.addr t.bytes
  if t.id ≠ 0 then atouch t.id

/-- The TREE code of an id that names no record: NODEID, or STATE for the instructions whose row of R301 lists no NODEID
(log 26). -/
def idCode (f : Flight) : Nat := if opcOf f.word = 0x74 ∧ (fnOf f.word < 3 ∨ fnOf f.word = 4) then 7 else 0xA

/-- A node by id, which must name a record of the pool. -/
def anode (f : Flight) (t : Tree) (id : Nat) : AM Node := do
  if id = 0 ∨ t.pooln < id then afault (tree (idCode f) id f)
  let b ← aread f (t.recAt id) t.rsz
  pure (t.nodeOf b)

def awriteNode (f : Flight) (t : Tree) (x : Node) : AM Unit := do
  awrite f (t.recAt x.id) (t.nodeBytes x)
  atouch x.id

/-- The FREE records of a pool from id k on, at most `want` of them; fuel for the records left. -/
def afree (f : Flight) (t : Tree) (want : Nat) : Nat → Nat → List Nat → AM (List Nat)
  | 0, _, acc => pure acc.reverse
  | n + 1, k, acc => do
    if want ≤ acc.length then pure acc.reverse
    else
      let b ← aread f (t.recAt k + 8) 1
      afree f t want n (k + 1) (if b = [0] then k :: acc else acc)

/-- The lowest free id (R282). -/
def anew (f : Flight) (t : Tree) : AM Nat := do
  match ← afree f t 1 t.pooln 1 [] with
  | k :: _ => pure k
  | [] => afault (tree 3 0 f)

def afreeRec (f : Flight) (t : Tree) (id : Nat) : AM Unit := do
  awrite f (t.recAt id) (List.replicate t.rsz 0)
  atouch id
  modify fun a => { a with freed := a.freed + 1 }

/-- A holder of a node goes away: its REF falls, and at 0 it is freed and so on below it; a child that survives and whose
PARENT was `up` becomes parentless (R282, R289). Fuel for the depth. -/
def arelease (f : Flight) (t : Tree) : Nat → Nat → Nat → AM Unit
  | 0, _, _ => pure ()
  | n + 1, up, id => do
    let x ← anode f t id
    if x.ref ≤ 1 then
      x.child.forM fun c => arelease f t n id c
      afreeRec f t id
    else awriteNode f t { x with ref := x.ref - 1, parent := if x.parent = up ∧ up ≠ 0 then 0 else x.parent }

def deep : Nat := 300

def emptyNode (id d : Nat) : Node where
  id := id
  parent := 0
  st := 1
  level := 0
  z := true
  ref := 1
  tfirst := 0
  n := 0
  rho := 0
  child := []
  s := List.replicate d 0
  v := List.replicate d 0
  c := List.replicate d 0
  keys := []
  vals := []

/-! ## Mutation (R284-R289, R302-R306) -/

/-- The first run of F equal-level SEALED or EVICTED entries at the lowest level: level and index (R286). -/
def mergeRun (fan : Nat) (top : List Node) : Option (Nat × Nat) :=
  ((List.range (top.length + 1 - fan)).filterMap fun i =>
    let run := (top.drop i).take fan
    let lv := (run.head?.map (·.level)).getD 0
    if run.length = fan ∧ run.all fun x => (x.st == 2 || x.st == 3) && x.level == lv then some (lv, i) else none).foldl
    (fun best x => match best with
      | none => some x
      | some b => if x.1 < b.1 then some x else some b) none

/-- One merge, if a run exists: the tree and the parent's id. -/
def amerge (f : Flight) (t : Tree) : AM (Option (Tree × Nat)) := do
  let top ← t.top.mapM (anode f t)
  match mergeRun t.fan top with
  | none => pure none
  | some (lv, i) =>
    let kids := (top.drop i).take t.fan
    let id ← anew f t
    let n := kids.foldl (fun a x => a + x.n) 0
    let s := tab t.d fun j => kids.foldl (fun a x => a + x.s.getD j 0) 0
    let c := s.map fun a => divHalfAway a n
    let first := kids.head?
    let (v, ev) := sumVals t.d ((kids.drop 1).map (·.v) |> fun r => ((first.map (·.v)).getD []) :: r)
    aevents ev
    let p : Node := { emptyNode id t.d with
      st := 2, level := lv + 1, z := false, tfirst := (first.map (·.tfirst)).getD 0, n := n, rho := radiusOf c kids
      child := kids.map (·.id), s := s, v := v, c := c }
    awriteNode f t p
    kids.forM fun x => if x.parent = 0 then awriteNode f t { x with parent := id } else pure ()
    let t := { t with top := t.top.take i ++ [id] ++ t.top.drop (i + t.fan) }
    pure (some (t, id))

/-- Merges until none applies, when AUTOMERGE is set; each shortens the top list. -/
def amergeAll (f : Flight) : Nat → Tree → AM Tree
  | 0, t => pure t
  | n + 1, t => do
    if t.policy / 2 % 2 = 0 then pure t
    else match ← amerge f t with
      | none => pure t
      | some (t, _) => amergeAll f n t

/-- The open leaf sealed (R285), and the merges that follow. -/
def aseal (f : Flight) (t : Tree) : AM Tree := do
  let x ← anode f t t.leaf
  awriteNode f t { x with st := 2 }
  amergeAll f 32 { t with leaf := 0 }

/-- `SM.INS` (R284, R302). -/
def smIns (f : Flight) (t : Tree) : AM Nat := do
  let b ← aread f f.sb.toNat (4 * t.d)
  let t ← (if t.leaf = 0 then pure t else do
    let x ← anode f t t.leaf
    if x.n < t.cap then pure t
    else if t.policy % 2 = 1 then aseal f t
    else afault (tree 2 t.leaf f))
  let pos := t.len
  let (t, x) ← (if t.leaf ≠ 0 then do let x ← anode f t t.leaf; pure (t, x)
    else do
      if 32 ≤ t.top.length then afault (tree 4 0 f)
      let id ← anew f t
      pure ({ t with leaf := id, top := t.top ++ [id] }, { emptyNode id t.d with tfirst := t.len }))
  let ks := tab t.d fun j => quantise t.ex (recNat b (2 * j) 2)
  let vs := tab t.d fun j => recNat b (2 * t.d + 2 * j) 2
  let sums := tab t.d fun j => addF32 (x.v.getD j 0) (bfToF32 (vs.getD j 0))
  aevents (addCnts (sumEvents (ks.map (·.2))) (sumEvents (sums.map (·.ev))))
  awriteNode f t { x.fromKeys t.d (x.keys ++ [ks.map (·.1)]) with v := sums.map (·.pat), vals := x.vals ++ [vs] }
  awriteTree f { t with len := t.len + 1 }
  pure pos

/-- `SM.SEAL` (R303). -/
def smSeal (f : Flight) (t : Tree) : AM Nat := do
  if t.leaf = 0 then afault (tree 7 0 f)
  let id := t.leaf
  let t ← aseal f t
  awriteTree f t
  pure id

/-- `SM.MRG` (R303). -/
def smMrg (f : Flight) (t : Tree) : AM Nat := do
  match ← amerge f t with
  | none => pure 0
  | some (t, id) => awriteTree f t; pure id

/-- A value placed directly after another in a list. -/
def insertAfter (x y : Nat) : List Nat → List Nat
  | [] => []
  | z :: l => if z = x then z :: y :: l else z :: insertAfter x y l

/-- The radius of each ancestor recomputed from its children, upwards. -/
def aradii (f : Flight) (t : Tree) : Nat → Nat → AM Unit
  | 0, _ => pure ()
  | n + 1, id => do
    if id = 0 then pure ()
    else
      let p ← anode f t id
      let kids ← p.child.mapM (anode f t)
      awriteNode f t { p with rho := radiusOf p.c kids }
      aradii f t n p.parent

/-- A SEALED leaf split at an offset (R287, R304): the tree and the new leaf. -/
def asplit (f : Flight) (t : Tree) (id j : Nat) : AM (Tree × Nat) := do
  let x ← anode f t id
  if x.st ≠ 2 ∨ !x.z ∨ j < 1 ∨ x.n ≤ j ∨ (x.parent = 0 ∧ !t.top.contains id) then afault (tree 7 id f)
  if x.ref ≠ 1 then afault (tree 6 id f)
  let up ← (if x.parent = 0 then pure none else do let p ← anode f t x.parent; pure (some p))
  match up with
  | none => if 32 ≤ t.top.length then afault (tree 4 id f)
  | some p => if 16 ≤ p.child.length then afault (tree 5 id f)
  let y ← anew f t
  let (x1, e1) := x.remade t.d (x.keys.take j) (x.vals.take j)
  let (y1, e2) := ({ x with id := y, ref := 1, tfirst := x.tfirst + j } : Node).remade t.d (x.keys.drop j) (x.vals.drop j)
  aevents (addCnts e1 e2)
  awriteNode f t x1
  awriteNode f t y1
  match up with
  | none => pure ({ t with top := insertAfter id y t.top }, y)
  | some p =>
    awriteNode f t { p with child := insertAfter id y p.child }
    aradii f t deep p.id
    pure (t, y)

/-- `SM.SPL` (R304). -/
def smSpl (f : Flight) (t : Tree) : AM Nat := do
  let (t', y) ← asplit f t (bits f.sb.toNat 31 0) (bits f.sb.toNat 47 32)
  if t' ≠ t then awriteTree f t'
  pure y

/-- The leaf whose tokens a position falls strictly inside, below a list of nodes. -/
def ainside (f : Flight) (t : Tree) (p : Nat) : Nat → List Nat → AM (Option Node)
  | 0, _ => pure none
  | n + 1, l => do
    let xs ← l.mapM (anode f t)
    match xs.find? fun x => decide (x.tfirst < p) && decide (p < x.tfirst + x.n) with
    | none => pure none
    | some x => if x.z ∨ x.st = 3 then pure (some x) else ainside f t p n x.child

/-- The nodes whose tokens all lie below a position and whose parents' do not, in token order (R288). -/
def ashared (f : Flight) (t : Tree) (p : Nat) : Nat → List Nat → AM (List Nat)
  | 0, _ => pure []
  | n + 1, l => do
    let parts ← l.mapM fun id => do
      let x ← anode f t id
      if (x.st = 2 ∨ x.st = 3) ∧ x.tfirst + x.n ≤ p then pure [id]
      else if x.st = 2 ∧ !x.z ∧ x.tfirst < p then ashared f t p n x.child
      else pure []
    pure parts.flatten

/-- `SM.FORK` (R288, R305). -/
def smFork (f : Flight) (t : Tree) : AM Nat := do
  let p := f.sb.toNat
  if t.len < p then afault (tree 7 0 f)
  let cut ← ainside f t p deep t.top
  let split := (cut.filter fun x => x.st != 1)
  let opn ← (if t.leaf = 0 then pure none else do let x ← anode f t t.leaf; pure (some x))
  let copy := opn.filter fun x => decide (x.tfirst < p) && x.n != 0
  let need := 1 + (if split.isSome then 1 else 0) + (if copy.isSome then 1 else 0)
  match split with
  | some x => if x.st ≠ 2 ∨ !x.z then afault (tree 7 x.id f) else if x.ref ≠ 1 then afault (tree 6 x.id f)
  | none => pure ()
  let free ← afree f t need t.pooln 1 []
  if free.length < need then afault (tree 3 0 f)
  let t ← (match split with
    | none => pure t
    | some x => do
      let (t', _) ← asplit f t x.id (p - x.tfirst)
      if t' ≠ t then awriteTree f t'
      pure t')
  let uid ← anew f t
  let u : Tree := { t with addr := t.recAt uid, id := uid, top := [], leaf := 0, len := p }
  awriteTree f u
  let ids ← ashared f t p deep t.top
  let u := { u with top := ids }
  ids.forM fun id => do
    let x ← anode f t id
    awriteNode f t { x with ref := x.ref + 1 }
  let u ← (match copy with
    | none => pure u
    | some x => do
      let id ← anew f t
      let k := p - x.tfirst
      let (y, ev) := ({ emptyNode id t.d with tfirst := x.tfirst } : Node).remade t.d (x.keys.take k) (x.vals.take k)
      aevents ev
      awriteNode f t y
      pure { u with top := u.top ++ [id], leaf := id })
  if 32 < u.top.length then afault (tree 4 0 f)
  awriteTree f u
  pure u.addr

/-- A node is reached from a list of nodes by token position. -/
def areach (f : Flight) (t : Tree) (x : Node) : Nat → List Nat → AM Bool
  | 0, _ => pure false
  | n + 1, l => do
    if l.contains x.id then pure true
    else
      let xs ← l.mapM (anode f t)
      match xs.find? fun y => decide (y.tfirst ≤ x.tfirst) && decide (x.tfirst < y.tfirst + y.n) with
      | none => pure false
      | some y => areach f t x n y.child

/-- `SM.EVCT` (R289, R306). -/
def smEvct (f : Flight) (t : Tree) : AM Nat := do
  let id := bits f.sb.toNat 31 0
  let x ← anode f t id
  let r ← areach f t x deep t.top
  if x.st ≠ 2 ∨ !r then afault (tree 7 id f)
  if x.ref ≠ 1 then afault (tree 6 id f)
  x.child.forM fun c => arelease f t deep id c
  awriteNode f t { x with st := 3, child := [], keys := [], vals := [] }
  pure (← get).freed

/-- `SM.FREE` (R289, R306). -/
def smFree (f : Flight) (t : Tree) : AM Nat := do
  t.top.forM fun c => arelease f t deep 0 c
  if t.id ≠ 0 then afreeRec f t t.id
  else awriteTree f { t with top := [], len := 0, leaf := 0 }
  pure (← get).freed

/-! ## Bounds and descents (R290-R293, R300, R307-R309) -/

/-- A query record's fields and vectors, for a tree of dimension d. -/
structure Query where
  m : Nat
  z : Nat
  zlo : Nat
  u : Nat
  st : Nat
  evn : Nat
  round : Nat
  cur : Nat
  ncur : Nat
  nnxt : Nat
  q : List Nat
  o : List Nat
  deriving DecidableEq, Repr

def queryOf (d : Nat) (b : List Byte) : Query where
  m := recNat b 8 4
  z := recNat b 0xC 4
  zlo := recNat b 0x10 4
  u := recNat b 0x14 4
  st := recNat b 0x18 4
  evn := recNat b 0x1C 4
  round := recNat b 0x20 4
  cur := recNat b 0x24 4
  ncur := recNat b 0x28 4
  nnxt := recNat b 0x2C 4
  q := tab d fun j => recNat b (0x40 + 2 * j) 2
  o := tab d fun j => recNat b (0x240 + 4 * j) 4

/-- The ten numbers of a query record written back. -/
def awriteQuery (f : Flight) (x : Query) : AM Unit :=
  awrite f (f.sa.toNat + 8) (([x.m, x.z, x.zlo, x.u, x.st, x.evn, x.round, x.cur, x.ncur, x.nnxt].map (leBytes 4)).flatten)

def awriteO (f : Flight) (x : Query) : AM Unit := awrite f (f.sa.toNat + 0x240) (x.o.map (leBytes 4)).flatten

/-- The address of entry i of a round's list. -/
def frontAt (f : Flight) (round i : Nat) : Nat := f.sa.toNat + 0x1000 + 2048 * (round % 2) + 4 * i

/-- Exact dot product of bf16 patterns and integers, times 2^e. -/
def dotExact (q : List Nat) (k : List Int) (ex : Int) : Dy :=
  let s := (q.zipWith (fun x y => (fmtBf16.decode x).dy.mul (Dy.ofInt y)) k).foldl Dy.add Dy.zero
  ⟨s.n, s.e + ex⟩

/-- ulp of an f32 pattern (R290); of an infinity it is open. -/
def ulpF32 (x open_ : Nat) : Dy :=
  let e : Nat := x / 2 ^ 23 % 256
  if e = 255 then ⟨open_, 0⟩ else if e = 0 then ⟨1, -149⟩ else ⟨1, (e : Int) - 150⟩

/-- The bound of a node: ŝ, ε, m_hi and m_lo in f32, with the events of their roundings (R290). -/
def boundOf (q : Query) (x : Node) (ex : Int) (open_ : Nat) : FRes × FRes × FRes × FRes :=
  let f := fmtF32
  let sh := f.roundDy .rne (dotExact q.q x.c ex) false
  let l1 := (q.q.map fun v => (fmtBf16.decode v).dy.abs).foldl Dy.add Dy.zero
  let slack : Dy := let p := l1.mul (Dy.ofInt x.rho); ⟨p.n, p.e + ex⟩
  let half : Dy := let u := ulpF32 sh.pat open_; ⟨u.n, u.e - 1⟩
  let eps := f.roundDy .ru (slack.add half) false
  let s := f.decode sh.pat
  let e := f.decode eps.pat
  let m := f.decode q.m
  let n : FVal := .fin false x.n 0
  (sh, eps, f.mulExp .ru n (subX (subX s e.neg) m), f.mulExp .rd n (subX (subX s e) m))

/-- A free number for an open value inside an operation. -/
def afresh : AM Nat := do
  let a ← get
  let (x, s) := a.s.fresh
  set { a with s := s }
  pure x

/-- A node bounded, which must not be FREE (R295); its bound's events are counted (R298). -/
def abound (f : Flight) (t : Tree) (q : Query) (id : Nat) : AM (Node × Nat × Nat × Nat × Nat) := do
  let x ← anode f t id
  if x.st = 0 then afault (tree 8 id f)
  let o ← afresh
  let (sh, eps, hi, lo) := boundOf q x t.ex o
  aevents (sumEvents [sh.ev, eps.ev, hi.ev, lo.ev])
  pure (x, sh.pat, eps.pat, hi.pat, lo.pat)

/-- A lane of q that is a NaN or an infinity (QNAN). -/
def qBad (q : Query) : Bool := q.q.any fun x => x / 2 ^ 7 % 256 == 255

/-- A query record whose tree has been read. -/
def aquery (f : Flight) (t : Tree) : AM Query := do
  let b ← aread f f.sa.toNat 0x640
  pure (queryOf t.d b)

def vec32 (l : List Nat) : Vec := packLanes 32 l

/-- The entries of a FRONT area that its lists used: those before its first zero id, since the program zeroes the area
before the first `SMBND` and no id is 0 (R300; log 26). -/
def frontUsed (b : List Byte) : Nat := ((tab 512 fun i => recNat b (4 * i) 4).takeWhile (· != 0)).length

/-- The entries used of one FRONT area zeroed. -/
def aclear (f : Flight) (area : Nat) : AM Unit := do
  let b ← aread f (frontAt f area 0) 2048
  awrite f (frontAt f area 0) (List.replicate (4 * frontUsed b) 0)

/-- The frontier is exhausted (R307). -/
def afinish (f : Flight) (q : Query) : AM Query := do
  aclear f 0
  aclear f 1
  pure { q with round := 0, cur := 0, ncur := 0, nnxt := 0, st := 2 }

/-- `SMBND` (R307): the next node's bound. -/
def smBnd (f : Flight) (t : Tree) : AM Vec := do
  let q ← aquery f t
  if qBad q then afault { cls := clsRange, code := 0x028, opnd := f.sa.toNat }
  if q.st = 2 then pure 0
  else
  let q ← (if q.st ≠ 0 then pure q else do
    let bs ← t.top.mapM (abound f t q)
    let (lo, ev) := bs.foldl (fun (a : Nat × List Nat) b =>
      let r := fmtF32.addV .rd (fmtF32.decode a.1) (fmtF32.decode b.2.2.2.2)
      (r.pat, addCnts a.2 r.ev)) (0, [])
    aevents ev
    awrite f (frontAt f 0 0) (t.top.map (leBytes 4)).flatten
    pure { q with zlo := lo, ncur := t.top.length, cur := 0, nnxt := 0, round := 0, st := 1 })
  let q ← (if q.st = 1 ∧ q.cur = q.ncur then
      if q.nnxt = 0 then afinish f q
      else pure { q with round := (q.round + 1) % 2 ^ 32, ncur := q.nnxt, nnxt := 0, cur := 0 }
    else pure q)
  if q.st = 2 then
    awriteQuery f q
    pure 0
  else
    let b ← aread f (frontAt f q.round q.cur) 4
    let id := leNat b
    let (x, sh, eps, hi, lo) ← abound f t q id
    awriteQuery f { q with cur := q.cur + 1 }
    pure (vec32 [sh, eps, hi, lo, id, x.st - 1 + (if x.z then 4 else 0), x.n, q.round])

/-- The bound in B: lanes. -/
def lanesB (f : Flight) (j : Nat) : Nat := lane 32 f.vb j

/-- The node of a bound, in the state and with the count it was bound with (R295). -/
def achecked (f : Flight) (t : Tree) : AM Node := do
  let x ← anode f t (lanesB f 4)
  if x.st = 0 ∨ x.st - 1 + (if x.z then 4 else 0) ≠ lanesB f 5 ∨ x.n ≠ lanesB f 6 then afault (tree 8 x.id f)
  pure x

/-- `SMDSC` (R308). -/
def smDsc (f : Flight) (t : Tree) : AM Nat := do
  let q ← aquery f t
  if lanesB f 4 = 0 then pure 7
  else
    if q.st ≠ 1 then afault (tree 7 (lanesB f 4) f)
    let x ← achecked f t
    let diff := subX (fmtF32.decode (lanesB f 2)) (fmtF32.decode (lanesB f 3))
    let lim := mulX (fmtF32.decode t.tau) (fmtF32.decode q.zlo)
    if diff.isNan || lim.isNan || !lim.lt diff then pure 1
    else if x.st = 3 then
      let u := fmtF32.addV .ru (fmtF32.decode q.u) diff
      aevents u.ev
      awriteQuery f { q with u := u.pat, evn := (q.evn + 1) % 2 ^ 32 }
      pure 4
    else if x.z then pure 3
    else
      if 512 < q.nnxt + x.child.length then afault { cls := clsRange, code := 0x027, detail := x.id, opnd := f.sa.toNat }
      awrite f (frontAt f (q.round + 1) q.nnxt) (x.child.map (leBytes 4)).flatten
      awriteQuery f { q with nnxt := q.nnxt + x.child.length }
      pure 2

/-- M raised to a score, the triple and the masses scaled (R293). -/
def Query.raise (q : Query) (x : Nat) : Query × List Nat :=
  let f := fmtF32
  let a := subX (f.decode q.m) (f.decode x)
  let sc (rm : Rm) (v : Nat) : FRes := f.mulExp rm (f.decode v) a
  let z := sc .rne q.z
  let os := q.o.map (sc .rne)
  let zlo := sc .rd q.zlo
  let u := sc .ru q.u
  ({ q with z := z.pat, o := os.map (·.pat), zlo := zlo.pat, u := u.pat, m := x },
   sumEvents (z.ev :: zlo.ev :: u.ev :: os.map (·.ev)))

/-- One contribution of weight e^(s - M), n tokens and values v, after M is raised where s exceeds it. -/
def Query.account (q : Query) (s n : Nat) (v : List Nat) : Query × List Nat :=
  let f := fmtF32
  let (q, e0) := if (f.decode q.m).lt (f.decode s) then q.raise s else (q, [])
  let w := f.mulExp .rne (.fin false 1 0) (subX (f.decode s) (f.decode q.m))
  let wv := f.decode w.pat
  let z := f.fmaV .rne (.fin false n 0) wv (f.decode q.z)
  let os := q.o.mapIdx fun j o => f.fmaV .rne wv (f.decode (v.getD j 0)) (f.decode o)
  ({ q with z := z.pat, o := os.map (·.pat) }, addCnts (addCnts e0 (addCnts w.ev z.ev)) (sumEvents (os.map (·.ev))))

/-- `SMACC.NODE` (R309): Z's bits, and the tokens accounted. -/
def smNode (f : Flight) (t : Tree) : AM (Nat × Nat) := do
  let q ← aquery f t
  if q.st ≠ 1 then afault (tree 7 (lanesB f 4) f)
  let x ← achecked f t
  let (q, ev) := q.account (lanesB f 0) (lanesB f 6) x.v
  aevents ev
  awriteQuery f q
  awriteO f q
  pure (q.z, lanesB f 6)

/-- `SMACC.LEAF` (R309). -/
def smLeaf (f : Flight) (t : Tree) : AM (Nat × Nat) := do
  let q ← aquery f t
  if q.st ≠ 1 then afault (tree 7 (lanesB f 4) f)
  if qBad q then afault { cls := clsRange, code := 0x028, opnd := f.sa.toNat }
  let x ← anode f t (lanesB f 4)
  if x.st = 0 ∨ x.n < lanesB f 6 then afault (tree 8 x.id f)
  if !x.z ∨ x.st = 3 then afault (tree 7 x.id f)
  let n := lanesB f 6
  let (q, ev) := (List.range n).foldl (fun (acc : Query × List Nat) i =>
    let s := fmtF32.roundDy .rne (dotExact acc.1.q (x.keys.getD i []) t.ex) false
    let (q, ev) := acc.1.account s.pat 1 ((x.vals.getD i []).map bfToF32)
    (q, addCnts acc.2 (addCnts s.ev ev))) (q, [])
  aevents ev
  awriteQuery f q
  awriteO f q
  pure (q.z, n)

/-- `SMACC.FIN` (R293, R309). -/
def smFin (f : Flight) (t : Tree) : AM Nat := do
  let q ← aquery f t
  if q.st ≠ 2 then afault (tree 7 0 f)
  let z := fmtF32.decode q.z
  let os : List FRes := if q.z = 0 then q.o.map fun _ => ⟨0, []⟩ else q.o.map fun o => fmtF32.divV .rne (fmtF32.decode o) z
  aevents (sumEvents (os.map (·.ev)))
  awrite f (f.sa.toNat + 0x640) (os.map fun o => leBytes 4 o.pat).flatten
  pure (q.u + min q.evn 0xFFFF * 2 ^ 32)

/-! ## Firing and performing (R294, R298) -/

/-- The descriptor's address of an assay word: A, or the TREE field of the query record at A. -/
def State.treeAddr (s : State) (f : Flight) : Option Nat :=
  if opcOf f.word = 0x74 then some f.sa.toNat
  else match s.readRec f.port.die f.asid f.tt f.sa.toNat 8 with
    | .ok (b, _) => some (leNat b)
    | .error _ => none

/-- The home die of the pool an assay word names, read as its tile-task reads (R314), and a memory key of the pool; the
issuer's own die when it cannot be read. -/
def State.assayHome (s : State) (f : Flight) : Nat × Option Nat :=
  let own := f.who.die
  match s.treeAddr f with
  | none => (own, none)
  | some a => match s.readRec f.port.die f.asid f.tt (a + 0x18) 8 with
    | .error _ => (own, none)
    | .ok (b, _) => match s.walk f.port.die f.asid (leNat b) with
      | .error _ => (own, none)
      | .ok e => let k := e.key (leNat b); (if vaultKey ≤ k then keyDie k else hbmDie k, some k)

/-- An operation enters a die's queue in order of arrival. -/
def assayIn (x : Assay) : List Assay → List Assay
  | [] => [x]
  | y :: l => if x.after < y.after then x :: y :: l else y :: assayIn x l

/-- An assay word fires and sets out for its die: it is answered after its time, which is open (R294). -/
def assayR (o : FormR) (align : Nat) (s : State) : Out :=
  fireJob o.g (fun _ _ _ f =>
    match (alignFault 7 f.sa.toNat 64).orElse fun _ => if align = 0 then none else alignFault 7 f.sb.toNat align with
    | some e => .error { e with opnd := f.sa.toNat }
    | none => .ok { f with holds := f.holds ++ destHolds o.d.toNat }) (fun f s =>
      let (die, k) := s.assayHome f
      let arr := s.fc + 28 * linkHops f.who.access.1 f.who.access.2.1 die
      let (a, s) := s.latency f.port (k.getD vaultKey) false
      let (b, s) := s.latency f.port (k.getD vaultKey) true
      let (x, s) := s.fresh
      let done : Nat := arr + a + b + x % 4096
      (s.modFlight f.fid fun f => { f with after := done }).modDie die fun d =>
        { d with assay := assayIn ⟨f.fid, arr⟩ d.assay }) s

def execSmIns (o : FormR) (s : State) : Out := assayR o 2 s
def execSmSeal (o : FormR) (s : State) : Out := assayR o 0 s
def execSmMrg (o : FormR) (s : State) : Out := assayR o 0 s
def execSmSpl (o : FormR) (s : State) : Out := assayR o 0 s
def execSmFork (o : FormR) (s : State) : Out := assayR o 0 s
def execSmEvct (o : FormR) (s : State) : Out := assayR o 0 s
def execSmFree (o : FormR) (s : State) : Out := assayR o 0 s
def execSmbnd (o : FormR) (s : State) : Out := assayR o 0 s
def execSmdsc (o : FormR) (s : State) : Out := assayR o 0 s
def execSmaccNode (o : FormR) (s : State) : Out := assayR o 0 s
def execSmaccLeaf (o : FormR) (s : State) : Out := assayR o 0 s
def execSmaccFin (o : FormR) (s : State) : Out := assayR o 0 s

/-- An assay operation as one indivisible step: its writes and its outcome. -/
def assayOp (f : Flight) : AM (Writes × Bool) := do
  let d := (field f.word 19 5).toNat
  let num (v : Nat) : Writes := writeS d f.tag (w64 v)
  if opcOf f.word = 0x74 then
    let a ← get
    if !a.s.ttOrdered f.tt then afault (tree 9 0 f)
    let t ← areadTree f f.sa.toNat
    let v ← (match fnOf f.word with
      | 0 => smIns f t
      | 1 => smSeal f t
      | 2 => smMrg f t
      | 3 => smSpl f t
      | 4 => smFork f t
      | 5 => smEvct f t
      | _ => smFree f t)
    let a ← get
    pure (num v, !a.ids.isEmpty)
  else
    let b ← aread f f.sa.toNat 8
    let t ← areadTree f (leNat b)
    match opcOf f.word with
    | 0x75 => let v ← smBnd f t; pure (writeV d f.tag v, true)
    | 0x76 => let v ← smDsc f t; pure (num v, v != 0)
    | _ => match fnOf f.word with
      | 0 => let (z, n) ← smNode f t; pure (num z, n != 0)
      | 1 => let (z, n) ← smLeaf f t; pure (num z, n != 0)
      | _ => let v ← smFin f t; pure (num v, true)

/-- A fault of an assay operation: an asynchronous record naming its issuer, which withholds; its operand field holds the
descriptor or query-record address (R298, R394; log 26). -/
def State.assayFault (s : State) (f : Flight) (x : FaultInfo) : State :=
  let e := { x with opnd := f.sa.toNat }
  match f.who with
  | .tel .. => s.flightFault f e
  | .elem pg pe cx slot =>
    let o := { s.originPage pg 8 pe with async := true, slotcx := slot + 16 * cx, ts := s.tsOf f.tt, intv := f.ival }
    let s := s.mailBytes o e (leBytes 8 f.word.toNat ++ leBytes 8 e.opnd ++ leBytes 8 f.va.toNat ++ leBytes 8 f.vb.toNat)
    let s := s.dropFlight f.fid
    let s := s.modPage pg fun p => f.holds.foldl (fun p r => match r with
      | .out n => p.release (epPe pe n)
      | _ => p) p
    s.modCtx pg pe cx fun c => { c with withheld := true }

/-- `ASSAY_OPERATION` (R294): the assay unit of a die performs the operation that has waited longest. -/
def execAssayOperation (die : Nat) (s : State) : Out :=
  match (s.die die).assay with
  | [] => .next s
  | x :: rest =>
    let pop (s : State) : State := s.modDie die fun d => { d with assay := rest }
    match s.flight? x.fid with
    | none => .next (pop s)
    | some f =>
      if s.fc < f.after ∨ !s.mayIssue f then .next s
      else match (assayOp f).run ⟨s, [], 0, []⟩ with
        | .error (.fault e) => .next ((pop s).assayFault f e)
        | .error .wait => .next (match f.tt.bind fun (rg, ix) => (s.region? rg).bind fun r => (r.tt? ix).map fun t => (r, t) with
          | some (r, t) => if t.st = .issued then s.stallTile r t.ix else s
          | none => s)
        | .ok ((wr, oc), a) => .next ((pop a.s).perform f wr oc false a.ev)

end Sys2Proof.Machine
end

