-- ==== Sys2Proof/Machine/Pred.lean ====
section
/-!
DEFINITION. Compares and predicates, opcodes 0x10-0x15 (R114-R119).
-/

namespace Sys2Proof.Machine

/-- `CMP`: D gets the condition, which is also the outcome. -/
def compareR (o : FormR) (f : Int → Int → Bool) (s : State) : Out :=
  fireTimed o.g (fun w _ s =>
    let ty := o.ty.toNat
    let c := f (readTy ty (s.readS w o.a.toNat).toNat) (readTy ty (s.readS w o.b.toNat).toNat)
    .ok { wr := writeS o.d.toNat (s.tagOf w o.a.toNat o.b.toNat) (if c then 1 else 0), outcome := c }) s

/-- `CMPI`: the predicate of index D gets the condition of A's 64 bits and the immediate, signed or zero-extended. -/
def compareI (o : FormI) (f : Word → Nat → Bool) (s : State) : Out :=
  fireTimed o.g (fun w _ s => .ok { wr := writeP o.d.toNat (f (s.readS w o.a.toNat) o.imm.toNat) }) s

def execCmpEq (o : FormR) (s : State) : Out := compareR o (fun x y => decide (x = y)) s
def execCmpNe (o : FormR) (s : State) : Out := compareR o (fun x y => decide (x ≠ y)) s
def execCmpLt (o : FormR) (s : State) : Out := compareR o (fun x y => decide (x < y)) s
def execCmpLe (o : FormR) (s : State) : Out := compareR o (fun x y => decide (x ≤ y)) s
def execCmpLtn (o : FormR) (s : State) : Out := compareR o (fun x y => decide (x < y)) s
def execCmpLen (o : FormR) (s : State) : Out := compareR o (fun x y => decide (x ≤ y)) s
def execCmpTst (o : FormR) (s : State) : Out :=
  compareR o (fun x y => pattern x (tyWidth o.ty.toNat) &&& pattern y (tyWidth o.ty.toNat) != 0) s

def execCmpiEq (o : FormI) (s : State) : Out := compareI o (fun a i => a == sext14 i) s
def execCmpiNe (o : FormI) (s : State) : Out := compareI o (fun a i => a != sext14 i) s
def execCmpiLt (o : FormI) (s : State) : Out := compareI o (fun a i => decide (a.toInt < signed i 14)) s
def execCmpiLe (o : FormI) (s : State) : Out := compareI o (fun a i => decide (a.toInt ≤ signed i 14)) s
def execCmpiLtn (o : FormI) (s : State) : Out := compareI o (fun a i => decide (a.toNat < i)) s
def execCmpiLen (o : FormI) (s : State) : Out := compareI o (fun a i => decide (a.toNat ≤ i)) s
def execCmpiTst (o : FormI) (s : State) : Out := compareI o (fun a i => a.toNat &&& i != 0) s

/-- `FCMP`: the condition `f` on values that are no NaN, `u` with a NaN; `quiet` counts invalid for signalling NaNs only
(R115). -/
def compareF (o : FormR) (f : FVal → FVal → Bool) (u quiet : Bool) (s : State) : Out :=
  fireTimed o.g (fun w _ s =>
    let m := fmtOf o.ty.toNat
    let x := m.decode ((s.readS w o.a.toNat).toNat % 2 ^ m.width)
    let y := m.decode ((s.readS w o.b.toNat).toNat % 2 ^ m.width)
    let n := x.isNan || y.isNan
    let c := if n then u else f x y
    .ok { wr := writeS o.d.toNat (s.tagOf w o.a.toNat o.b.toNat) (if c then 1 else 0), outcome := c, flag := n
          ev := if (if quiet then x.isSig || y.isSig else n) then evInvalid else noEvents }) s

def execFcmpEq (o : FormR) (s : State) : Out := compareF o (fun x y => x.feq y) false true s
def execFcmpNe (o : FormR) (s : State) : Out := compareF o (fun x y => !x.feq y) true true s
def execFcmpLt (o : FormR) (s : State) : Out := compareF o (fun x y => x.lt y) false false s
def execFcmpLe (o : FormR) (s : State) : Out := compareF o (fun x y => !y.lt x) false false s
def execFcmpUn (o : FormR) (s : State) : Out := compareF o (fun _ _ => false) true true s
def execFcmpOr (o : FormR) (s : State) : Out := compareF o (fun _ _ => true) false true s

/-- A predicate written from the predicates of an agent (R116-R118). -/
def predR (o : FormR) (f : Bool → Bool → Bool) (s : State) : Out :=
  fireTimed o.g (fun w _ s => .ok { wr := writeP o.d.toNat (f (s.truth w o.a.toNat) (s.truth w o.b.toNat)) }) s

def execPsetSet (o : FormR) (s : State) : Out := predR o (fun _ _ => true) s
def execPsetClr (o : FormR) (s : State) : Out := predR o (fun _ _ => false) s
def execPsetCpy (o : FormR) (s : State) : Out := predR o (fun a _ => a) s
def execPsetNot (o : FormR) (s : State) : Out := predR o (fun a _ => !a) s
/-- One pulse into the control out port D at write-back (R117). -/
def execPsetSig (o : FormR) (s : State) : Out :=
  fireTimed o.g (fun _ _ _ => .ok { wr := { Writes.none with sig := [o.d.toNat - 16] } }) s

def execPlogAnd (o : FormR) (s : State) : Out := predR o (fun a b => a && b) s
def execPlogOr (o : FormR) (s : State) : Out := predR o (fun a b => a || b) s
def execPlogXor (o : FormR) (s : State) : Out := predR o (fun a b => a != b) s
def execPlogAndn (o : FormR) (s : State) : Out := predR o (fun a b => a && !b) s

def execPmovToa (o : FormR) (s : State) : Out :=
  fireTimed o.g (fun w _ s =>
    let p := s.truth w o.a.toNat
    .ok { wr := writeS o.d.toNat tagData (if p then 1 else 0), outcome := p }) s
def execPmovFra (o : FormR) (s : State) : Out :=
  fireTimed o.g (fun w _ s => .ok { wr := writeP o.d.toNat (s.readS w o.a.toNat != 0) }) s

end Sys2Proof.Machine
end

