-- ==== Sys2Proof/Machine/Channel.lean ====
section
/-!
DEFINITION. Channel instructions and teller control, opcodes 0x18-0x1E, 0x7D and 0x7E (R120-R133); the readiness choice
of `MRG` (R125-R127).
-/

namespace Sys2Proof.Machine

/-- The network and declared format of an out port of an agent; teller ports carry n64 (R26, R70). -/
def State.outCfg (s : State) (w : Who) (n : Nat) : PortCfg :=
  match w with
  | .elem pg pe _ _ => ((s.pe? pg pe).map fun e => e.ports.getD (4 + n) ⟨0, 0⟩).getD ⟨0, 0⟩
  | .tel .. => ⟨7, 1⟩

/-- The payload a port's network carries: 512 bits on the vector network, 64 on the scalar one. -/
def netPay (net : Nat) (v : Vec) : Vec := if net = 2 then v else (v.setWidth 64).setWidth 512

/-- A payload sent with a tag. Its outcome: a scalar's value at TY, or the lane count of a vector (R36). -/
def sendDone (s : State) (w : Who) (o : FormR) (tag : Nat) : Done :=
  let c := s.outCfg w (o.d.toNat - 16)
  let v := s.readAny w o.a.toNat
  let ty := o.ty.toNat
  { wr := writeTok o.d.toNat ⟨tag, netPay c.net v⟩
    outcome := if c.net = 2 then true
      else if tyFloat ty then v.toNat % 2 ^ (tyWidth ty - 1) != 0
      else v.toNat % 2 ^ tyWidth ty != 0 }

def sendR (o : FormR) (tag : Nat) (s : State) : Out := fireTimed o.g (fun w _ s => .ok (sendDone s w o tag)) s

def execSendD (o : FormR) (s : State) : Out := sendR o tagData s
def execSendEor (o : FormR) (s : State) : Out := sendR o tagEor s
def execSendEot (o : FormR) (s : State) : Out := sendR o tagEot s
def execSendEos (o : FormR) (s : State) : Out := sendR o tagEos s
def execSendLvl (o : FormR) (s : State) : Out := sendR o tagLvl s
def execSendCtl (o : FormR) (s : State) : Out := sendR o tagCtl s

/-- The outcome of passing a token on: the payload on the scalar network, true (a lane count) on the vector one (R122). -/
def passOutcome (net : Nat) (t : Tok) : Bool := if net = 2 then true else (t.pay.setWidth 64 : Word) != 0

def execFwd (o : FormR) (s : State) : Out :=
  fireTimed o.g (fun w _ s =>
    let t := (s.headOf w (o.a.toNat - 12)).getD ⟨0, 0⟩
    .ok { wr := writeTok o.d.toNat t, outcome := passOutcome (s.outCfg w (o.d.toNat - 16)).net t }) s

/-- The low w bits of a scalar in every lane (R123). -/
def replicate (w : Nat) (x : Word) : Vec :=
  BitVec.ofNat 512 ((List.range (512 / w)).foldl (fun acc i => acc + x.toNat % 2 ^ w * 2 ^ (w * i)) 0)

def execRepl (o : FormR) (s : State) : Out :=
  fireTimed o.g (fun w _ s =>
    .ok { wr := writeTok o.d.toNat ⟨s.tagOf w o.a.toNat 26, replicate (tyWidth o.ty.toNat) (s.readS w o.a.toNat)⟩
          outcome := true }) s

def execTagr (o : FormR) (s : State) : Out :=
  fireTimed o.g (fun w _ s =>
    let b := s.readS w o.b.toNat
    let tag := b.toNat % 8
    if tag = tagSnap ∨ tag = tagDrain then .error { cls := clsRange, code := 0x010, opnd := b.toNat }
    else .ok (sendDone s w o tag)) s

/-! ## MRG (R125-R127) -/

/-- What a `MRG` slot finds at its two heads. -/
inductive MrgPick where
  | none | a | b | both | clash
  deriving DecidableEq, Repr

def isMarker (t : Tok) : Bool := t.tag != tagData && t.tag != tagSnap && t.tag != tagDrain

/-- A head that a slot may see: SNAP and DRAIN are none. -/
def visible (t : Option Tok) : Option Tok := t.filter fun x => x.tag != tagSnap && x.tag != tagDrain

/-- The channel `MRG` takes: two equal markers together; DATA past a held marker; between two DATA heads, the older, or
the one not taken last (`.ARR`), or the one whose turn it is (`.ROT`). `lastB` is the last-taken bit; for `.ROT` it says
whose turn it is not. A fresh bit reads A for `.ARR` and gives the first turn to A for `.ROT` (`turnB` false). -/
def mrgPick (rot lastB : Bool) (ha hb : Option Tok) (sa sb : Nat) : MrgPick :=
  match visible ha, visible hb with
  | some x, some y =>
    match isMarker x, isMarker y with
    | true, true => if x.tag = y.tag then .both else .clash
    | true, false => .b
    | false, true => .a
    | false, false =>
      if rot then (if lastB then .b else .a)
      else if sa < sb then .a else if sb < sa then .b else if lastB then .a else .b
  | some x, none => if isMarker x then .none else if rot && lastB then .none else .a
  | none, some y => if isMarker y then .none else if rot && !lastB then .none else .b
  | none, none => .none

/-- The slot's bit after a choice. For `.ARR` it is the channel taken last (true: B), which two markers leave as it was;
for `.ROT` it is whose turn comes (true: B): the other channel after DATA, unless that one is held by a marker, and A
after two equal markers. -/
def mrgBit (rot lastB : Bool) (ha hb : Option Tok) : MrgPick → Bool
  | .a => if rot then !(match visible hb with | some y => isMarker y | none => false) else false
  | .b => if rot then (match visible ha with | some x => isMarker x | none => false) else true
  | _ => if rot then false else lastB

/-- The choice of a `MRG` word in a slot. -/
def State.mrgChoice (s : State) (pg pe n a b : Nat) (rot : Bool) : MrgPick × Option Tok × Option Tok × Bool :=
  match s.page? pg with
  | none => (.none, none, none, false)
  | some p =>
    let ra := p.inRoute (epPe pe a)
    let rb := p.inRoute (epPe pe b)
    let last := ((p.pes[pe]?.bind fun e => e.live.slots[n]?).map (·.mrg)).getD false
    let shown (i : Nat) : Bool := ((p.pes[pe]?).map fun e => e.shows i).getD true
    let ha := (ra.bind Route.head).filter fun _ => shown a
    let hb := (rb.bind Route.head).filter fun _ => shown b
    (mrgPick rot last ha hb ((ra.map (·.since)).getD 0) ((rb.map (·.since)).getD 0), ha, hb, last)

def mergeR (o : FormR) (rot : Bool) (s : State) : Out :=
  fireTimed o.g (fun w _ s =>
    match w with
    | .tel .. => .ok { deq := some [] }
    | .elem pg pe _ n =>
      let a := o.a.toNat - 12
      let b := o.b.toNat - 12
      let (pick, ha, hb, last) := s.mrgChoice pg pe n a b rot
      let net := (s.outCfg w (o.d.toNat - 16)).net
      let slot := ((s.pe? pg pe).bind fun e => e.live.slots[n]?).map fun sl =>
        { sl with mrg := mrgBit rot last ha hb pick }
      let pass (t : Option Tok) (deq : List Nat) : Done :=
        let t := t.getD ⟨0, 0⟩
        { wr := writeTok o.d.toNat t, outcome := passOutcome net t, deq := some deq, slot := slot }
      match pick with
      | .a => .ok (pass ha [a])
      | .b => .ok (pass hb [b])
      | .both => .ok (pass ha [a, b])
      | .clash => .error { cls := clsShape, code := 0x020
                           detail := (ha.map (·.tag)).getD 0 + 16 * (hb.map (·.tag)).getD 0 }
      | .none => .ok { deq := some [] }) s

def execMrgArr (o : FormR) (s : State) : Out := mergeR o false s
def execMrgRot (o : FormR) (s : State) : Out := mergeR o true s

/-! ## Markers a slot places (R129, R130) -/

/-- A shadow of the element is taken; two are kept (R22, R396). -/
def Pe.shadow (e : Pe) (fc : Nat) : Pe :=
  { e with ival := e.ival + 1
           shadows := (⟨e.ival + 1, fc, e.live, [], [], false⟩ :: e.shadows).take 2 }

/-- Every bound scalar and vector out port. -/
def Pe.outPorts (e : Pe) : List Nat :=
  (List.range 4).filter fun i => match e.ports[4 + i]? with
    | some c => c.net == 1 || c.net == 2
    | none => false

/-- Every bound scalar and vector in port. -/
def Pe.inPorts (e : Pe) : List Nat :=
  (List.range 4).filter fun i => match e.ports[i]? with
    | some c => c.net == 1 || c.net == 2
    | none => false

/-- One marker owed to each out port (R22). -/
def Pe.owe (e : Pe) (tag : Nat) : Pe := { e with owed := e.owed ++ e.outPorts.map fun i => (i, tag) }

/-- A word that places a marker: it fires with no result, and the element takes the marker's part; its markers publish (R265). -/
def markR (o : FormR) (f : Pe → Pe) (s : State) : Out :=
  match s.issue with
  | none => .fault .noAgent
  | some (w, x) =>
    let s := { s with issue := none }
    match w with
    | .tel .. => .next (s.launchDone w x o.g {})
    | .elem pg pe cx _ => .next ((s.launchDone w x o.g {}).modPe pg pe fun e => { f e with markBy := some (cx, s.ids) })

/-- `MARK.SNAP`: the shadow, the SNAPs and a new interval; `State.snapFree` holds its slot at the skew limit (log 137). -/
def execMarkSnap (o : FormR) (s : State) : Out := markR o (fun e => (e.shadow s.fc).owe tagSnap) s

/-- `DRAIN`: the DRAINs (R130). -/
def execDrain (o : FormR) (s : State) : Out := markR o (fun e => e.owe tagDrain) s

/-! ## Teller control (R131-R133) -/

/-- The PC of the word an agent runs. -/
def Who.pc : Who → Word
  | .tel _ _ pc => pc
  | .elem .. => 0

/-- The call depth of TSTAT, bits [15:8] (R390). -/
def State.callDepth (s : State) (w : Who) (f : BitVec 8 → BitVec 8) : State :=
  match w with
  | .tel t cx _ => s.modTctx t cx fun c =>
      { c with tstat := (c.tstat &&& ~~~0xFF00#64) ||| ((f (c.tstat.extractLsb' 8 8)).setWidth 64 <<< 8) }
  | .elem .. => s

/-- A branch: the link value written to D, the new pc, and the earliest next issue at t + 2 (R131). -/
def branchTo (d : Nat) (link : Word) (pc : Word) : Done := { wr := writeS d tagData link, pc := some pc, gap := 2 }

/-- offset = sext(IMM14) * 8 (R132). -/
def brOffset (o : FormI) : Word := BitVec.ofInt 64 (signed o.imm.toNat 14 * 8)

def execBrBr (o : FormI) (s : State) : Out :=
  fireTimed o.g (fun w _ _ => .ok (branchTo 26 0 (w.pc + brOffset o))) s

/-- `BR.CALL` also raises the call depth (R390). -/
def execBrCall (o : FormI) (s : State) : Out :=
  match fireTimed o.g (fun w _ _ => .ok (branchTo o.d.toNat (w.pc + 8) (w.pc + brOffset o))) s with
  | .next t => .next (match s.issue with
    | some (w, _) => t.callDepth w (· + 1)
    | none => t)
  | r => r

/-- The target of a jump, or ALIGN 0x001 (R133). -/
def jumpTo (s : State) (w : Who) (o : FormR) (d : Nat) (link : Word) : Except FaultInfo Done :=
  let a := s.readS w o.a.toNat
  if a.toNat % 8 ≠ 0 then .error { cls := clsAlign, code := 0x001, opnd := a.toNat } else .ok (branchTo d link a)

def execJrJr (o : FormR) (s : State) : Out := fireTimed o.g (fun w _ s => jumpTo s w o o.d.toNat (w.pc + 8)) s

/-- `JR.RET` lowers the call depth (R133, R390). -/
def execJrRet (o : FormR) (s : State) : Out :=
  match s.issue with
  | none => .fault .noAgent
  | some (w, x) =>
    let s := { s with issue := none }
    match jumpTo s w o 26 0 with
    | .error f => .next (s.raise w x f)
    | .ok d => .next ((s.launchDone w x o.g d).callDepth w (· - 1))

/-- `JR.HALT`: D := PC and the context halts; its pc stays past the word (R133). -/
def execJrHalt (o : FormR) (s : State) : Out :=
  match s.issue with
  | none => .fault .noAgent
  | some (w, x) =>
    let s := ({ s with issue := none }).launchDone w x o.g { wr := writeS o.d.toNat tagData w.pc }
    match w with
    | .tel t cx _ => .next (s.modTctx t cx fun c => { c with run := false })
    | .elem .. => .next s

end Sys2Proof.Machine
end

