-- ==== Sys2Proof/Machine/Saf.lean ====
section
/-!
DEFINITION. The shift-add fabric (R342-R351) and the words of opcode 0x78 (R354-R357): node words and their checks, the
width proof, placement and bindings, slices, results and the tokens that are not slices.
-/

namespace Sys2Proof.Machine

/-! ## Node words (R342, R343) -/

/-- The fields of a node word. -/
structure Node8 where
  kind : Nat
  na : Bool
  nb : Bool
  sha : Nat
  shb : Nat
  sa : Nat
  sb : Nat
  wid : Nat
  ln : Nat
  scl : Nat
  low : Nat
  deriving DecidableEq, Repr

def nodeOf (w : Word) : Node8 :=
  let x := w.toNat
  { kind := bits x 63 62, na := bitAt x 61, nb := bitAt x 60, sha := bits x 59 56, shb := bits x 55 52
    sa := bits x 51 44, sb := bits x 43 36, wid := bits x 35 30, ln := bits x 29 26, scl := bits x 25 10, low := bits x 9 0 }

/-- Every field that the node's kind does not use is zero (R343). -/
def Node8.unusedZero (n : Node8) : Bool :=
  n.low == 0 &&
  (match n.kind with
   | 0 => n.ln == 0 && n.scl == 0
   | 1 => !n.na && !n.nb && n.sha == 0 && n.shb == 0 && n.sa == 0 && n.sb == 0 && n.scl == 0
   | _ => !n.na && !n.nb && n.sha == 0 && n.shb == 0 && n.sb == 0 && n.wid == 0)

/-- A source is 255 or an earlier add or in-lane node. -/
def srcOk (ns : List Node8) (i s : Nat) : Bool :=
  s == 255 || (decide (s < i) && ((ns[s]?).map fun n => decide (n.kind ≤ 1)).getD false)

/-- A node keeps R343, given the whole graph, its index and the lanes of the page. -/
def nodeOk (ns : List Node8) (lanes i : Nat) (n : Node8) : Bool :=
  let twin := (ns.take i).any fun m => m.kind == n.kind && m.ln == n.ln
  decide (n.kind ≤ 2) && n.unusedZero &&
  (match n.kind with
   | 0 => srcOk ns i n.sa && srcOk ns i n.sb && decide (1 ≤ n.wid) && decide (n.wid ≤ 40)
   | 1 => decide (1 ≤ n.wid) && decide (n.wid ≤ 32) && !twin && decide (n.ln < lanes)
   | _ => srcOk ns i n.sa && !twin && decide (n.ln < lanes) && bits n.scl 14 7 != 255)

/-- The first node that breaks R343. -/
def firstBadNode (ns : List Node8) (lanes : Nat) : Option Nat :=
  (List.range ns.length).find? fun i => !((ns[i]?).map (nodeOk ns lanes i)).getD false

/-! ## Width proof (R344) -/

/-- The interval of a term. -/
def termIval (iv : List (Int × Int)) (s : Nat) (neg : Bool) (sh : Nat) : Int × Int :=
  if s = 255 then (0, 0)
  else
    let (lo, hi) := iv.getD s (0, 0)
    if neg then (-(hi * 2 ^ sh), -(lo * 2 ^ sh)) else (lo * 2 ^ sh, hi * 2 ^ sh)

/-- The interval of a node from those of the nodes before it. -/
def nodeIval (iv : List (Int × Int)) (n : Node8) : Int × Int :=
  match n.kind with
  | 0 =>
    let a := termIval iv n.sa n.na n.sha
    let b := termIval iv n.sb n.nb n.shb
    (a.1 + b.1, a.2 + b.2)
  | 1 => (-(2 ^ (n.wid - 1) : Nat), (2 ^ (n.wid - 1) : Nat) - 1)
  | _ => (0, 0)

def graphIvals (ns : List Node8) : List (Int × Int) := ns.foldl (fun iv n => iv ++ [nodeIval iv n]) []

/-- The first add node whose declared width its interval leaves. -/
def firstWideNode (ns : List Node8) : Option Nat :=
  let iv := graphIvals ns
  (List.range ns.length).find? fun i => match ns[i]?, iv[i]? with
    | some n, some (lo, hi) =>
      n.kind == 0 && !(decide (-(2 ^ (n.wid - 1) : Nat) ≤ lo) && decide (hi ≤ (2 ^ (n.wid - 1) : Nat) - 1))
    | _, _ => false

/-- AGNODE or AGWIDTH of a graph. -/
def graphFault (ws : List Word) (lanes : Nat) : Option FaultInfo :=
  let ns := ws.map nodeOf
  match firstBadNode ns lanes with
  | some i => some { cls := clsBadcfg, code := 0x01F, detail := i }
  | none => (firstWideNode ns).map fun i => { cls := clsBadcfg, code := 0x01E, detail := i }

/-! ## Placement (R346) -/

/-- Nodes and lanes of a page's SAF. -/
def safNodes (kind : Nat) : Nat := if kind = 0 then 256 else 128
def safLanes (kind : Nat) : Nat := if kind = 0 then 16 else 8

def Graph.nodes (g : Graph) : List Node8 := g.words.map nodeOf

/-- Lanes a graph uses: in lanes, and out lanes. -/
def Graph.lanesOf (g : Graph) (kind : Nat) : List Nat := (g.nodes.filter fun n => n.kind == kind).map (·.ln)

/-- A node of the SAF is free. -/
def Saf.free (f : Saf) (total i : Nat) : Bool :=
  decide (i < total) && f.graphs.all fun g => decide (i < g.first) || decide (g.first + g.words.length ≤ i)

/-- The length of the free run that starts at a node. -/
def Saf.runAt (f : Saf) (total i : Nat) : Nat := ((List.range (total - i)).takeWhile fun j => f.free total (i + j)).length

/-- A graph with nothing bound and nothing in its pipeline. -/
def Graph.fresh (first : Nat) (ws : List Word) : Graph where
  handle := first
  first := first
  words := ws
  inb := List.replicate 16 0
  outb := List.replicate 16 0
  bound := false
  pipe := []
  withheld := false
  unloading := false
  ival := 0
  drained := false
  tiles := 0
  cnts := []
  marks := [(0, 0, [])]

/-- CAP of a placement at a node, or the SAF with the graph placed. -/
def Saf.place (f : Saf) (kind : Nat) (ws : List Word) (first : Option Nat) : Except FaultInfo (Nat × Saf) :=
  let total := safNodes kind
  let n := ws.length
  let at? := match first with
    | some i => if n ≤ f.runAt total i then some i else none
    | none => (List.range total).find? fun i => decide (n ≤ f.runAt total i)
  match at? with
  | none => .error { cls := clsCap, code := 1 }
  | some i =>
    let g := Graph.fresh i ws
    if f.graphs.any fun h => (g.lanesOf 1).any (fun l => (h.lanesOf 1).contains l) ||
        (g.lanesOf 2).any (fun l => (h.lanesOf 2).contains l) then .error { cls := clsCap, code := 2 }
    else .ok (i, { f with graphs := f.graphs ++ [g] })

/-! ## Bindings (R347) -/

/-- The fields of a binding byte: bound, port, token lane. -/
def bindV (b : Nat) : Bool := bitAt b 7
def bindPort (b : Nat) : Nat := bits b 6 6
def bindLane (b : Nat) : Nat := bits b 5 0

/-- The ports a page owns. -/
def safPortOk (kind port : Nat) : Bool := kind == 0 || port == kind - 1

/-- The port a graph's bound lanes name. -/
def boundPort (bs : List Nat) : Option Nat := (bs.find? bindV).map bindPort

/-- Endpoints of the SAF: in port p, out port p. -/
def safIn (p : Nat) : Nat := epSaf p
def safOut (p : Nat) : Nat := epSaf p

/-- The format of the route at a SAF in port. -/
def Page.safInFmt (p : Page) (port : Nat) : Option (Nat × Nat) := (p.inRoute (safIn port)).map fun r => (r.ty, r.pln)

/-- The lanes at fault in one side's bytes: a lane with no node of its number, a second port, a port of the other half or
held by another graph, or a token lane past its format. -/
def bindBad (p : Page) (g : Graph) (kind : Nat) (bs : List Nat) (others : List Nat) (limit : Nat) : Option Nat :=
  (List.range bs.length).find? fun l =>
    let b := bs.getD l 0
    bindV b && (!(g.lanesOf kind).contains l || boundPort bs != some (bindPort b) || !safPortOk p.kind (bindPort b) ||
      others.contains (bindPort b) || decide (limit ≤ bindLane b))

/-- What binding a graph faults with: AGNODE for the bytes, AGPORT for a port's format. -/
def Page.bindFault (p : Page) (g : Graph) (inb outb : List Nat) : Option FaultInfo :=
  let rest := p.saf.graphs.filter fun h => h.handle != g.handle
  let fmt := (boundPort inb).bind p.safInFmt
  let limit := (fmt.map fun f => 512 / tyWidth f.1).getD 64
  let lane := (bindBad p g 1 inb (rest.filterMap fun h => boundPort h.inb) limit).orElse fun _ =>
    bindBad p g 2 outb (rest.filterMap fun h => boundPort h.outb) 16
  match lane with
  | some l => some { cls := clsBadcfg, code := 0x01F, detail := l }
  | none =>
    let badIn := (fmt.map fun f => !(([0, 1, 2, 4, 5, 6] : List Nat).contains f.1)).getD false
    let badOut := ((boundPort outb).map fun q => p.routes.any fun r => r.src == safOut q && r.net != 3 && r.ty != 10).getD false
    if badIn ∨ badOut then some { cls := clsFmt, code := 6 } else none

/-- A graph with its bindings. -/
def Graph.bind (g : Graph) (inb outb : List Nat) : Graph :=
  { g with inb := inb, outb := outb, bound := (inb ++ outb).any bindV }

/-! ## Depth and values (R348, R349) -/

/-- Per node, the most add nodes on a path from an in lane to it; none where no in lane reaches it. -/
def depthsOf (ns : List Node8) : List (Option Nat) :=
  ns.foldl (fun ds n =>
    let src (s : Nat) : Option Nat := if s = 255 then none else (ds[s]?).join
    let d := match n.kind with
      | 0 => (match src n.sa, src n.sb with
        | some a, some b => some (max a b + 1)
        | some a, none | none, some a => some (a + 1)
        | none, none => none)
      | 1 => some 0
      | _ => src n.sa
    ds ++ [d]) []

def Graph.depth (g : Graph) : Nat :=
  let ns := g.nodes
  let ds := depthsOf ns
  (List.range ns.length).foldl (fun m i => if ((ns[i]?).map (·.kind)) = some 2 then max m (((ds[i]?).join).getD 0) else m) 0

/-- A term's value. -/
def termVal (vs : List Int) (s : Nat) (neg : Bool) (sh : Nat) : Int :=
  if s = 255 then 0 else if neg then -(vs.getD s 0 * 2 ^ sh) else vs.getD s 0 * 2 ^ sh

/-- The values of a graph's nodes for a slice at an integer format; an unbound in lane reads 0. -/
def Graph.values (g : Graph) (ty : Nat) (v : Vec) : List Int :=
  g.nodes.foldl (fun vs n =>
    let x : Int := match n.kind with
      | 0 => termVal vs n.sa n.na n.sha + termVal vs n.sb n.nb n.shb
      | 1 =>
        let b := g.inb.getD n.ln 0
        if bindV b then readTy ty (lane (tyWidth ty) v (bindLane b)) else 0
      | _ => if n.sa = 255 then 0 else vs.getD n.sa 0
    vs ++ [x]) []

/-- A value times a bf16 scale, rounded once. -/
def scaleF32 (x : Int) (scl : Nat) : FRes :=
  fmtF32.ofV .rne (mulX (.fin (decide (x < 0)) x.natAbs 0) (fmtBf16.decode scl))

/-- The out lanes of a slice: token lane and result. -/
def Graph.results (g : Graph) (vs : List Int) : List (Nat × FRes) :=
  let ns := g.nodes
  (List.range ns.length).filterMap fun i => match ns[i]? with
    | some n =>
      let b := g.outb.getD n.ln 0
      if n.kind = 2 ∧ bindV b then some (bindLane b % 16, scaleF32 (vs.getD i 0) n.scl) else none
    | none => none

/-- The token of a slice's results. -/
def resultTok (tag : Nat) (rs : List (Nat × FRes)) : Tok :=
  ⟨tag, packLanes 32 (tab 16 fun j => ((rs.reverse.find? fun r => r.1 = j).map (·.2.pat)).getD 0)⟩

/-- The first bound in lane whose value its declared width does not hold, with the value (R350). -/
def Graph.badInput (g : Graph) (ty : Nat) (v : Vec) : Option (Nat × Int) :=
  (List.range 16).findSome? fun l =>
    let b := g.inb.getD l 0
    if !bindV b then none
    else match g.nodes.find? fun n => n.kind = 1 ∧ n.ln = l with
      | none => none
      | some n =>
        let x := readTy ty (lane (tyWidth ty) v (bindLane b))
        if x < -(2 ^ (n.wid - 1) : Nat) ∨ (2 ^ (n.wid - 1) : Nat) - 1 < x then some (l, x) else none

/-! ## Running (R348-R351) -/

/-- A route's first latch will take a token at the end of this fc. -/
def Route.willFree (r : Route) : Bool :=
  !r.rsv && ((r.latches.head?).join.isNone || r.taken || (r.latches.drop 1).any Option.isNone)

def Page.willFree (p : Page) (ep : Nat) : Bool := p.routes.all fun r => r.src != ep || r.net == 3 || r.willFree

/-- The in and out endpoints of a graph. -/
def Graph.inEp (g : Graph) : Nat := safIn ((boundPort g.inb).getD 2)
def Graph.outEp (g : Graph) : Nat := safOut ((boundPort g.outb).getD 2)

/-- A graph may take its next token: bound, not withheld, not being unbound, its pipeline with room and moving. -/
def State.safOpen (s : State) (pg : Nat) (p : Page) (g : Graph) : Bool :=
  g.bound && !g.withheld && !g.unloading && s.running pg && (boundPort g.inb).isSome &&
  decide (g.pipe.length < g.depth + 2) && p.willFree g.outEp

/-- A token that is a slice. -/
def Tok.isSlice (t : Tok) : Bool := decide (t.tag ≤ 4)

/-- The page and endpoint at the start of the route that ends at an endpoint: across the router, the producer's. -/
def State.producerOf (s : State) (pg ep : Nat) : Option (Nat × Nat) :=
  match s.page? pg with
  | none => none
  | some p => match p.inRoute ep with
    | none => none
    | some r =>
      if !r.viaRouter then some (pg, r.src)
      else match s.region? p.rg, r.edge with
        | some g, some n => (g.edges.find? fun e => e.num = n).bind fun e => (g.pages.getD e.sp none).map fun q => (q, e.se)
        | _, _ => none

/-- The producer of a route withholds: a PE with all its contexts, or an ME stream (R350). -/
def State.withholdProducer (s : State) (pg ep : Nat) : State :=
  match s.producerOf pg ep with
  | none => s
  | some (q, src) =>
    if src / 2 ^ 14 = 0 then
      s.modLive q (src / 256 % 64) fun l => { l with ctxs := l.ctxs.map fun c => { c with withheld := true } }
    else if src / 2 ^ 14 = 1 then s.modStream q (src / 256 % 64 * 4 + src % 16) fun m => { m with withheld := true }
    else s

/-- A SAF's fault: the record, and the graph withholds. -/
def State.safFault (s : State) (pg h : Nat) (g : Graph) (e : FaultInfo) : State :=
  (s.mail { s.originPage pg 3 22 with intv := g.ival } e 0).modGraph pg h fun g => { g with withheld := true }

/-- A token dequeued by a graph enters its pipeline: with the fc it is dequeued in, it is counted down in depth + 2 of them (R349). -/
def State.safEnter (s : State) (pg h : Nat) (g : Graph) (t : Tok) : State :=
  (s.modPage pg fun p => p.takeAt g.inEp).modGraph pg h fun g => { g with pipe := g.pipe ++ [(t, g.depth + 2)] }

/-- The events of a slice counted in its tile, which a closing token ends (R90). -/
def Graph.counted (tag : Nat) (ev : List Nat) (g : Graph) : Graph :=
  { g with cnts := countTile g.tiles ev g.cnts, tiles := if tag = tagEot ∨ tag = tagEos then g.tiles + 1 else g.tiles }

/-- `SAF_SLICE` (R348, R350): a graph dequeues one slice and computes its nodes, or raises SAFIN. -/
def execSafSlice (pg h : Nat) (s : State) : Out :=
  match s.page? pg, s.graph? pg h with
  | some p, some g =>
    if !s.safOpen pg p g then .next s
    else match p.headAt g.inEp, p.inRoute g.inEp with
      | some t, some r =>
        if !t.isSlice then .next s
        else match g.badInput r.ty t.pay with
          | some (l, x) =>
            .next ((s.safFault pg h g { cls := clsRange, code := 0x029, detail := l, opnd := pattern x 64 }).withholdProducer
              pg g.inEp)
          | none =>
            let vs := g.values r.ty t.pay
            let rs := g.results vs
            let s := (s.safEnter pg h g (resultTok t.tag rs)).modGraph pg h (Graph.counted t.tag (sumEvents (rs.map (·.2.ev))))
            .next (s.modPage pg fun p => { p with saf := { p.saf with
              vals := p.saf.vals.mapIdx fun i x =>
                if g.first ≤ i ∧ i < g.first + vs.length then BitVec.ofInt 64 (vs.getD (i - g.first) 0) else x } })
      | _, _ => .next s
  | _, _ => .next s

/-- `SAF_OUTPUT` (R349): the pipeline moves on unless its out latch stays occupied; what reaches its end enters the latch. -/
def execSafOutput (pg h : Nat) (s : State) : Out :=
  match s.page? pg, s.graph? pg h with
  | some p, some g =>
    if !p.outFree false g.outEp then .next s
    else
      let moved := g.pipe.map fun x => (x.1, x.2 - 1)
      match moved with
      | (t, 0) :: rest =>
        .next ((s.modGraph pg h fun g => { g with pipe := rest }).modPage pg fun p => p.putAt s.fc false g.outEp t)
      | _ => .next (s.modGraph pg h fun g => { g with pipe := moved })
  | _, _ => .next s

/-- A header as the SAF re-issues it: FMT f32, COLS the highest bound out token lane plus one (R351). -/
def Graph.reissue (g : Graph) (t : Tok) : Tok :=
  let cols := (g.outb.filter bindV).foldl (fun m b => max m (bindLane b % 16 + 1)) 0
  let x := t.pay.toNat
  let x := x - bits x 47 32 * 2 ^ 32 + 10 * 2 ^ 32
  let x := x - bits x 95 64 * 2 ^ 64 + cols * 2 ^ 64
  ⟨t.tag, BitVec.ofNat 512 x⟩

/-- `SAF_CTL_HANDLE` (R351): a CTL token at a graph's head is re-issued, forwarded, or raises its marker's fault. -/
def execSafCtlHandle (pg h : Nat) (s : State) : Out :=
  match s.page? pg, s.graph? pg h with
  | some p, some g =>
    if !s.safOpen pg p g then .next s
    else match p.headAt g.inEp with
      | some t =>
        if t.tag ≠ tagCtl then .next s
        else if t.kind = 1 then .next (s.safEnter pg h g (g.reissue t))
        else if t.kind = 3 then .next (s.safFault pg h g { cls := clsLen, code := bits t.pay.toNat 49 48 })
        else if t.kind = 4 then
          .next (s.safFault pg h g { cls := clsPoison, code := 1, opnd := bits t.pay.toNat 55 0 })
        else .next (s.safEnter pg h g t)
      | none => .next s
  | _, _ => .next s

/-! ## `AG` words (R354-R357) -/

def agHandle (v : Nat) : FaultInfo := { cls := clsRange, code := 0x02A, opnd := v }

/-- `AG.LOAD` fires: the count, the alignment and, where no earlier access is still to change them, the words are checked; the
words are read through the element's port. -/
def execAgLoad (o : FormR) (s : State) : Out :=
  fireJob o.g (fun w _ s f =>
    let n := f.sb.toNat
    if n = 0 ∨ 256 < n then .error (agHandle n)
    else match alignFault 8 f.sa.toNat 8 with
      | some e => .error e
      | none =>
        let kind := ((s.page? w.page).map (·.kind)).getD 0
        let f := { f with plan := recParts f.sa.toNat (8 * n), holds := f.holds ++ destHolds o.d.toNat }
        let known := s.mayIssue f && f.plan.all fun p => s.inTurn f p.va p.len
        match s.readRec w.port.die f.asid f.tt f.sa.toNat (8 * n) with
        | .ok (bs, _) => match (if known then graphFault (recWords bs) (safLanes kind) else none) with
          | some e => .error e
          | none => .ok f
        | .error _ => .ok f)
    memPost s

/-- `AG.BIND` fires: the block must be 32-byte aligned. -/
def execAgBind (o : FormR) (s : State) : Out :=
  fireJob o.g (fun _ _ _ f =>
    match alignFault 8 f.sb.toNat 32 with
    | some e => .error e
    | none => .ok { f with plan := recParts f.sb.toNat 32, holds := f.holds ++ destHolds o.d.toNat }) memPost s

def execAgUnld (o : FormR) (s : State) : Out := soonR o true s
def execAgQry (o : FormR) (s : State) : Out := soonR o true s

/-- The SAF serves one request at a time, in the order they fired (R353). -/
def State.agTurn (s : State) (f : Flight) : Bool :=
  s.flights.all fun g => !(decide (g.fid < f.fid) && opcOf g.word == 0x78 && g.who.page == f.who.page)

/-- A lane mask as a number. -/
def laneMask (l : List Nat) : Nat := (List.range 16).foldl (fun m i => if l.contains i then m + 2 ^ i else m) 0

/-- The word `AG.QRY` writes. -/
def agQry (p : Page) (sel : Nat) : Nat :=
  let used (g : Graph) : List Nat := g.lanesOf 1 ++ g.lanesOf 2
  if sel = 256 then
    let total := safNodes p.kind
    let run := (List.range total).foldl (fun m i => max m (p.saf.runAt total i)) 0
    let held := p.saf.graphs.flatMap used
    run + laneMask ((List.range (safLanes p.kind)).filter fun l => !held.contains l) * 2 ^ 48
  else match p.saf.graphs.find? fun g => g.handle = sel with
    | none => 0
    | some g => g.words.length + (if g.bound then 2 ^ 16 else 0) + g.depth * 2 ^ 24 + g.pipe.length * 2 ^ 32 +
        laneMask (used g) * 2 ^ 48

/-- A graph's pipeline is closed to new slices while a word waits for it to empty. -/
def State.agDrain (s : State) (pg h : Nat) : State := s.modGraph pg h fun g => { g with unloading := true }

/-- `AG` words performed. -/
def State.agStep (s : State) (f : Flight) : State :=
  let pg := f.who.page
  match s.page? pg with
  | none => s
  | some p =>
    if !s.agTurn f then s
    else match fnOf f.word with
      | 0 => s.withRec f fun bs s =>
        if f.aux = [] then s.modFlight f.fid fun f => { f with aux := [1], after := s.fc + (f.sb.toNat + 15) / 16 }
        else match graphFault (recWords bs) (safLanes p.kind) with
          | some e => s.flightFault f e
          | none => match p.saf.place p.kind (recWords bs) none with
            | .error e => s.flightFault f e
            | .ok (h, saf) => (s.modPage pg fun p => { p with saf := saf }).performVal f (w64 h) true false
      | 1 => s.withRec f fun bs s =>
        let h := f.sa.toNat
        match p.saf.graphs.find? fun g => g.handle = h with
        | none => s.flightFault f (agHandle h)
        | some g =>
          if g.pipe ≠ [] then s.agDrain pg h
          else
              let inb := (bs.take 16).map (·.toNat)
              let outb := (bs.drop 16).map (·.toNat)
              match p.bindFault g inb outb with
              | some e => (s.modGraph pg h fun g => { g with unloading := false }).flightFault f e
              | none =>
                let n := ((inb ++ outb).filter bindV).length
                (s.modGraph pg h fun g => { g.bind inb outb with unloading := false }).performVal f (w64 n) (n != 0) g.bound
      | 2 =>
        let h := f.sa.toNat
        match p.saf.graphs.find? fun g => g.handle = h with
        | none => s.flightFault f (agHandle h)
        | some g =>
          if g.pipe ≠ [] then s.agDrain pg h
          else (s.modPage pg fun p => { p with saf := { p.saf with graphs := p.saf.graphs.filter fun g => g.handle != h } }).performVal
            f (w64 g.words.length) true false
      | _ =>
        if 256 < f.sa.toNat then s.flightFault f (agHandle f.sa.toNat)
        else let v := agQry p f.sa.toNat; s.performVal f (w64 v) (v != 0) false

end Sys2Proof.Machine
end

