-- ==== Sys2Proof/Machine/Region.lean ====
section
/-!
DEFINITION. The region controller and the clearing unit: tile-tasks (R311-R320), snapshots a controller injects (R320, R398),
drain and completion (R269-R272, R341), the quiet count and its sweep (R273-R275), rollback (R399), freezing (R400, R401).
-/

namespace Sys2Proof.Machine

/-! ## The pages of a region -/

/-- The keys of the pages a region has in frames. -/
def Region.keys (r : Region) : List Nat := r.pages.filterMap id

/-- The region's pages. -/
def State.pagesOf (s : State) (r : Region) : List (Nat × Page) :=
  r.keys.filterMap fun k => (s.page? k).map fun p => (k, p)

/-- The pages of regions that are not done. -/
def State.livePages (s : State) : List (Nat × Page) :=
  s.pages.filter fun x => !((s.region? x.2.rg).map fun r => r.st == .done).getD false

/-- Some context of the region is withheld (R392). -/
def State.anyWithheld (s : State) (r : Region) : Bool :=
  r.withheld || (s.pagesOf r).any fun (_, p) => p.pes.any fun e => e.present && e.live.ctxs.any (·.withheld)

/-- A stream in use: armed, closed or ended, with a route of its own. -/
def Page.streamRouted (p : Page) (si : Nat) : Bool :=
  p.routes.any fun r => r.net != 3 && (r.src == epMe (si / 4) (si % 4) || r.dst == epMe (si / 4) (si % 4))

/-- An element has a bound scalar or vector in port. -/
def Pe.hasIn (e : Pe) : Bool := e.tilePort.isSome

/-- The interval numbers of a page's units (R396): elements, streams and graphs in use, and driven tenants. -/
def Page.ivals (p : Page) : List Nat :=
  (p.pes.filter fun e => e.present && e.live.slots.any (·.valid)).map (·.ival) ++
  p.mes.flatMap (fun m => if m.present then (m.streams.filter (·.valid)).map (·.ival) else []) ++
  (p.saf.graphs.filter (·.bound)).map (·.ival) ++ (p.mtx.tens.filter fun t => t.drv.isSome).map (·.ival)

/-- A shadow of the interval is unusable (R397). -/
def Page.spoilt (p : Page) (j : Nat) : Bool := p.pes.any fun e => e.shadows.any fun sh => sh.ival == j && sh.unusable

/-- The cut rises to the least interval of the region's units, unless a shadow of it is unusable; undo entries from before
it are dropped (R396, R398); for a cancelled task the cut is a boundary (R321). -/
def State.raiseCut (s : State) (rg : Nat) : State :=
  match s.region? rg with
  | none => s
  | some r =>
    let ps := s.pagesOf r
    let iv := ps.flatMap fun x => x.2.ivals
    let low := iv.foldl min (iv.headD r.cut)
    if low ≤ r.cut ∨ ps.any (fun x => x.2.spoilt low) then s
    else
      let gone := ((s.taskOfRegion r).map (·.cancelled)).getD false
      let s := s.modRegion rg fun r =>
        { r with cut := low, cutBad := false, tts := if gone then [] else r.tts }
      r.keys.foldl (fun s k => s.modPage k fun p =>
        { p with mes := p.mes.map fun m => { m with undo := m.undo.filter fun u => decide (low ≤ u.1) } }) s

/-- The largest interval number of a region's units. -/
def State.topIval (s : State) (r : Region) : Nat := ((s.pagesOf r).flatMap fun x => x.2.ivals).foldl max 0

/-! ## Tile-tasks (R311-R318) -/

/-- The free timestamp. -/
def tsFree : Nat := 2 ^ 64 - 1

/-- The indices an instance of a region has not issued yet. -/
def Region.pendingIx (r : Region) : Option Nat :=
  if r.persist then (if r.cur < r.lim then some r.cur else none) else if r.next < r.hi then some r.next else none

/-- The commit keys a launched ordered task may still use: of live tile-tasks, of the next index, and of the next execution
of a sequence that is certain to come (R317, R334). -/
def State.taskKeys (s : State) (k : Task) : List (Nat × Nat) :=
  if k.trec.ts = tsFree ∨ k.cancelled ∨ k.st = .ended then []
  else if k.st = .queued then [(k.trec.ts + k.trec.lo, k.lseq)]
  else
    let own := k.rgs.flatMap fun g => match s.region? g with
      | none => []
      | some r => (r.tts.map fun t => r.key2 t.ix) ++ (r.pendingIx.map r.key2).toList
    let more := k.trec.seq && (decide (k.step + 1 < k.steps.length) || k.pending.isSome)
    own ++ (if more then [(k.trec.ts + (k.execs + 1) * (k.trec.hi - k.trec.lo) + k.trec.lo, k.lseq)] else [])

/-- Some tile-task of the partition with a smaller key has neither committed nor been cancelled (R317). -/
def State.olderLeft (s : State) (ptn : Nat) (key : Nat × Nat) : Bool :=
  s.tasks.any fun k => k.ptn == ptn && (s.taskKeys k).any fun x => keyLt x key

/-- Some live key of the partition is smaller (R315, R316). -/
def State.olderLive (s : State) (ptn : Nat) (key : Nat × Nat) : Bool :=
  s.regions.any fun (_, r) => r.ptn == ptn && r.ordered && !s.cancelled r &&
    r.tts.any fun t => keyLt (r.key2 t.ix) key

/-- The controller may issue an index (R313, R317, R321). -/
def State.mayIssueTile (s : State) (r : Region) (ix : Nat) : Bool :=
  r.st == .armed && !r.withheld && !r.armBad && !((s.taskOfRegion r).map (·.cancelled)).getD true &&
  (!r.ordered || (decide (r.tts.length < 16) && (ix + 1 != r.hi || !s.olderLeft r.ptn (r.key2 ix))))

/-- The partition's floor rises (R318). -/
def State.raiseFloor (s : State) (ptn ts : Nat) : State := s.modPtn ptn fun p => { p with floor := max p.floor ts }

/-- An index is issued: its tile-task is live, and the last one of an ordered task raises the floor (R317, R318). -/
def State.issueTile (s : State) (r : Region) (ix : Nat) : State :=
  let s := s.modRegion r.key fun r =>
    { r with issued := r.issued ++ [ix], tts := r.tts ++ [⟨ix, .issued, [], 0, 0, 0⟩] }
  if r.ordered ∧ ix + 1 = r.hi then s.raiseFloor r.ptn (r.ts + ix) else s

/-- `TILE_TASK_ISSUE` (R312, R313, R317): the controller issues the next index of a range it runs itself. -/
def execTileTaskIssue (rg : Nat) (s : State) : Out :=
  match s.region? rg with
  | none => .next s
  | some r =>
    if r.persist ∨ r.hi ≤ r.next ∨ !s.mayIssueTile r r.next then .next s
    else .next ((s.issueTile r r.next).modRegion rg fun r => { r with next := r.next + 1 })

/-- The place of a tile-task's present run among the tiles issued. -/
def Region.posOf (r : Region) (ix : Nat) : Nat :=
  (r.issued.length - 1) - ((r.issued.reverse.findIdx? (· == ix)).getD 0)

/-- An element holds a slot with a memory access of its own (R262). -/
def Pe.isNode (e : Pe) : Bool := e.present && e.hasIn && e.live.slots.any fun sl => sl.valid && isMemOp sl.word

/-- Every memory node of the region has closed the tile of a position, or its page has drained (R315). -/
def State.nodesPast (s : State) (r : Region) (pos : Nat) : Bool :=
  r.pages.all fun k => match k.bind s.page? with
    | none => r.drain
    | some p => p.drained ||
        ((p.pes.all fun e => !e.isNode || decide (pos < e.live.tiles)) &&
         p.mes.all fun m => !m.present || m.streams.all fun st => !st.valid || decide (pos < st.cur.pos))

/-- Every access attributed to a tile-task has been performed (R315). -/
def State.accessesDone (s : State) (rg ix : Nat) : Bool :=
  (s.flights.all fun f => f.tt != some (rg, ix) || !isMemOp f.word) &&
  (s.reqs.all fun r => r.tt != some (rg, ix)) &&
  (s.dies.all fun d => (d.engs ++ d.nmq.map (·.2)).all fun e => e.q.all fun c => c.tt != some (rg, ix)) &&
  (match s.region? rg with
   | none => true
   | some r => (s.pagesOf r).all fun (_, p) => p.mes.all fun m => m.streams.all fun st =>
       st.todo.all fun x => r.tileOf x.1 != ix) &&
  s.pages.all fun x => x.2.shapes.all fun h => h.through.all fun t => t.by_.tt != some (rg, ix)


/-! ## What the units of a page have told (R90-R92) -/

/-- An ME's streams that have a valid descriptor: whether each has ended, and the tiles it has closed. -/
def Me.ends (m : Me) : List (Bool × Nat) := (m.streams.filter (·.valid)).map fun st => (st.eos, st.cur.pos)

/-- The tiles every stream of an ME that goes on has closed; once all have ended, the most that one has
closed (DEDUCED, log 119). -/
def Me.tiles (m : Me) : Nat :=
  let on := (m.ends.filter fun x => !x.1).map (·.2)
  if on = [] then (m.ends.map (·.2)).foldl max 0 else on.foldl min (on.headD 0)

/-- The tiles that every bound graph has closed. -/
def Saf.tiles (f : Saf) : Nat :=
  let on := (f.graphs.filter (·.bound)).map (·.tiles)
  on.foldl min (on.headD 0)

/-- Tiles a unit has closed: 0-15 PE, 16-19 ME, 20-21 tenants, 22 the SAF. -/
def Page.unitTiles (p : Page) (u : Nat) : Nat :=
  if u < 16 then ((p.pes[u]?).map (·.live.tiles)).getD 0
  else if u < 20 then ((p.mes[u - 16]?).map (·.tiles)).getD 0
  else if u < 22 then ((p.mtx.tens[u - 20]?).map (·.tiles)).getD 0
  else p.saf.tiles

/-- Tiles whose counts a unit has emitted. -/
def Page.unitTold (p : Page) (u : Nat) : Nat :=
  if u < 16 then ((p.pes[u]?).map (·.live.told)).getD 0
  else if u < 20 then ((p.mes[u - 16]?).map (·.told)).getD 0
  else if u < 22 then ((p.mtx.tens[u - 20]?).map (·.told)).getD 0
  else p.saf.told

/-- The source group of a unit (R91). -/
def unitGroup (u : Nat) : Nat := if u < 16 then 0 else if u < 20 then 1 else if u < 22 then 2 else 3

/-- The units of a page that deliver counts: those that close tiles. -/
def Page.unitUsed (p : Page) (u : Nat) : Bool :=
  if u < 16 then ((p.pes[u]?).map fun e => e.present && e.hasIn && e.live.slots.any (·.valid)).getD false
  else if u < 20 then ((p.mes[u - 16]?).map fun m => m.present && m.streams.any (·.valid)).getD false
  else if u < 22 then ((p.mtx.tens[u - 20]?).map fun t => t.drv.isSome).getD false
  else p.saf.graphs.any (·.bound)

/-- An ME whose streams have all ended and which has told every tile: it delivers nothing for the tiles after. -/
def Page.unitOver (p : Page) (u : Nat) : Bool :=
  decide (16 ≤ u) && decide (u < 20) && decide (p.unitTiles u ≤ p.unitTold u) &&
    ((p.mes[u - 16]?).map fun m => m.ends.all (·.1)).getD false

/-- Every configured source of a tile has delivered. -/
def Page.tileTold (p : Page) (x : Stat) (t : TileStat) : Bool :=
  (List.range 23).all fun u => !p.unitUsed u || !bitAt x.mask (unitGroup u) || (alGet u t.parts).isSome || p.unitOver u

/-- A tile's record is to be written. -/
def Page.recordDue (p : Page) (x : Stat) (t : TileStat) : Bool := !t.written && p.tileTold x t

/-- A unit withholds and tells nothing for its tile (R92). -/
def Page.unitHeld (p : Page) (u : Nat) : Bool :=
  if u < 16 then ((p.pes[u]?).map fun e => e.live.ctxs.any (·.withheld)).getD false
  else if u < 20 then ((p.mes[u - 16]?).map fun m => m.withheld || m.streams.any (·.withheld)).getD false
  else if u < 22 then ((p.mtx.tens[u - 20]?).map (·.withheld)).getD false
  else p.saf.graphs.any (·.withheld)

/-- A record of a tile is on its way: a unit that has closed the tile still owes its counts, or the record is due (R90, R92). -/
def State.recordOwed (s : State) (r : Region) (pos : Nat) : Bool :=
  (s.pagesOf r).any fun x => (x.2.stat.map fun (y : Stat) =>
    ((List.range 23).any fun u => bitAt y.mask (unitGroup u) && x.2.unitUsed u && !x.2.unitHeld u &&
      decide (x.2.unitTold u ≤ pos) && decide (pos < x.2.unitTiles u)) ||
    y.tiles.any fun t => t.pos == pos && x.2.recordDue y t).getD false

/-- The execution of the tile at a position is abandoned: rolled back and re-run, aborted, or cancelled (R92). -/
def State.abandoned (s : State) (r : Region) (pos : Nat) : Bool :=
  let ix := r.tileOf pos
  s.cancelled r || r.posOf ix != pos || r.rerun.contains ix || ((r.tt? ix).map fun t => t.st == .doomed).getD false

/-! ## Seal and commit (R315, R316) -/

/-- A tile-task seals (R315), its statistics records written (R92). -/
def State.sealing (s : State) (r : Region) (ix : Nat) : Bool :=
  s.nodesPast r (r.posOf ix) && s.accessesDone r.key ix && !s.recordOwed r (r.posOf ix)

/-- `TILE_TASK_SEAL` (R315, R321): an ordered tile-task becomes SEALED, or COMMITTED from WRITETHRU, or waits for its re-run
when doomed; a free one is complete; one of a cancelled task is CANCELLED at this boundary. -/
def execTileTaskSeal (rg ix : Nat) (s : State) : Out :=
  match s.region? rg with
  | none => .next s
  | some r => match r.tt? ix with
    | none => .next s
    | some t =>
      if !s.sealing r ix then .next s
      else if s.cancelled r then .next (s.modRegion rg fun r => r.endTt ix false)
      else if !r.ordered then .next (s.modRegion rg fun r => r.endTt ix true)
      else match t.st with
        | .issued => .next (s.modRegion rg fun r => r.modTt ix fun t => { t with st := .sealed, close := s.topIval r })
        | .writethru => .next ((s.modRegion rg fun r => r.endTt ix true).raiseFloor r.ptn (r.ts + ix))
        | .doomed => .next (s.modRegion rg fun r => { r with rerun := if r.rerun.contains ix then r.rerun else r.rerun ++ [ix] })
        | _ => .next s

/-- `ESCROW_RESERVE_STALL` (R315): a store that finds the reserve full stalls its tile-task. -/
def execEscrowReserveStall (rg ix : Nat) (s : State) : Out :=
  match s.region? rg with
  | none => .next s
  | some r => match r.tt? ix with
    | none => .next s
    | some t => if t.st ≠ .issued ∨ r.lineCount < r.escCap then .next s else .next (s.stallTile r ix)

/-- A line's bytes written to HBM under its byte mask; a block it does not cover whole keeps its poison. -/
def State.commitLine (s : State) (l : EscLine) : State :=
  if l.mask.all id then s.store l.pa l.bytes
  else
    let old := memRead s.mem l.pa 64
    { s.store l.pa (tab 64 fun i => if l.mask.getD i false then l.bytes.getD i 0 else old.getD i 0) with poison := s.poison }

/-- A tile-task's lines written as one commit, each dooming the larger keys it hits (R316). -/
def State.commitLines (s : State) (r : Region) (t : TileTask) : State :=
  t.lines.foldl (fun s l => (s.commitLine l).doomLine r.ptn (r.key2 t.ix) l.pa) s

/-- `WRITE_THROUGH_START` (R315): a stalled tile-task that is the oldest live one writes its escrow as one commit. -/
def execWriteThroughStart (rg ix : Nat) (s : State) : Out :=
  match s.region? rg with
  | none => .next s
  | some r => match r.tt? ix with
    | none => .next s
    | some t =>
      if t.st ≠ .stalled ∨ s.cancelled r ∨ s.olderLive r.ptn (r.key2 ix) then .next s
      else .next ((s.commitLines r t).modRegion rg fun r => r.modTt ix fun t => { t with st := .writethru, lines := [] })

/-- Every page of the region has drained. -/
def State.allDrained (s : State) (r : Region) : Bool :=
  r.drain && r.pages.all fun k => match k.bind s.page? with
    | some p => p.drained
    | none => true

/-- The cut rule of R320: a complete cut after the seal, or the pages have drained. -/
def State.cutMet (s : State) (r : Region) (t : TileTask) : Bool :=
  !r.rollback || s.allDrained r || decide (t.close < r.cut)

/-- `COMMIT_TILE_TASK` (R316, R320): the clearing unit commits the oldest live tile-task when it is sealed. -/
def execCommitTileTask (rg ix : Nat) (s : State) : Out :=
  match s.region? rg with
  | none => .next s
  | some r => match r.tt? ix with
    | none => .next s
    | some t =>
      if t.st ≠ .sealed ∨ s.cancelled r ∨ s.olderLive r.ptn (r.key2 ix) ∨ !s.cutMet r t then .next s
      else .next (((s.commitLines r t).modRegion rg fun r => r.endTt ix true).raiseFloor r.ptn (r.ts + ix))

/-- A doomed tile-task that has sealed is issued again, behind every tile already issued (R315, R317). -/
def Region.reissue (r : Region) (ix : Nat) : Region :=
  { (r.modTt ix fun t => { t with st := .issued, lines := [], sig := 0, runs := t.runs + 1 }) with
    rerun := r.rerun.filter (· != ix), issued := r.issued ++ [ix] }

/-- `RERUN_ISSUE` (R315, R317): the controller issues a re-run; in a persistent range the next `RANGE.GET` hands it out, since
a tile count names what those words have handed out (R312; log 126). -/
def execRerunIssue (rg ix : Nat) (s : State) : Out :=
  match s.region? rg with
  | none => .next s
  | some r =>
    if !r.rerun.contains ix ∨ r.persist ∨ r.st ≠ .armed then .next s
    else .next (s.modRegion rg fun r => r.reissue ix)

/-! ## Snapshots the controller injects (R320, R398) -/

/-- SNAP owed at every source stream of a region, and at every element without a bound data input. -/
def State.injectSnap (s : State) (r : Region) (elems : Bool) : State :=
  let s := r.keys.foldl (fun s k => s.modPage k fun p =>
    { p with
      mes := p.mes.map fun m => { m with streams := m.streams.map fun st =>
        if st.valid && !st.desc.isStore && !st.drained then { st with snapDue := true } else st }
      pes := p.pes.map fun e => if elems && e.present && !e.hasIn && !e.drained then { e with snapDue := true } else e }) s
  s

/-- A SNAP stands in a latch of a route. -/
def Route.hasSnap (r : Route) : Bool :=
  (r.latches.any fun t => (t.map (·.tag)) == some tagSnap) || r.replay.any fun t => t.tag == tagSnap

/-- SNAP is due at, owed by or waiting before a unit of a page. -/
def Page.snapMoving (p : Page) : Bool :=
  (p.pes.any fun e => e.snapDue || e.owed.any fun o => o.2 == tagSnap) ||
  (p.mes.any fun m => m.streams.any fun st => st.valid && st.snapDue) || p.routes.any Route.hasSnap

/-- A SNAP is on its way through a region (R320): one is due, owed or in a latch or packet, or the units do not all stand
at the interval of the cut, unless they agree on one whose shadows are unusable, which no SNAP will raise. -/
def State.snapMoving (s : State) (r : Region) : Bool :=
  let ps := s.pagesOf r
  let iv := ps.flatMap fun x => x.2.ivals
  let low := iv.headD r.cut
  (ps.any fun x => x.2.snapMoving) || (s.packets.any fun k => r.keys.contains k.pg && k.toks.any fun t => t.tag == tagSnap) ||
  (iv.any fun j => j != r.cut) && !((iv.all fun j => j == low) && ps.any fun x => x.2.spoilt low)

/-- A sealed tile-task waits for a cut and none is on its way. -/
def State.wantsCut (s : State) (r : Region) : Bool :=
  r.rollback && r.st == .armed && !r.drain && !s.snapMoving r && r.tts.any fun t => t.st == .sealed && !s.cutMet r t

/-- `CUT_SNAP_INJECT` (R320). -/
def execCutSnapInject (rg : Nat) (s : State) : Out :=
  match s.region? rg with
  | none => .next s
  | some r => if s.wantsCut r then .next (s.injectSnap r true) else .next s

/-- An ME's undo log has fewer than 64 entries free (R398). -/
def Me.logLow (m : Me) : Bool := decide (910 - m.undo.length < 64)

/-- `UNDO_LOG_LOW` (R398). -/
def execUndoLogLow (pg me : Nat) (s : State) : Out :=
  match s.me? pg me, s.regionOf pg with
  | some m, some r => if m.logLow && r.rollback && !s.snapMoving r && !r.drain then .next (s.injectSnap r true) else .next s
  | _, _ => .next s

/-! ## Drain (R269-R271) -/

/-- The sinks of a region: how many, and how many have reported. -/
def State.sinks (s : State) (r : Region) : Nat × Nat :=
  let l := (s.pagesOf r).flatMap fun (_, p) => p.mes.flatMap fun m => m.streams.filter (·.sink)
  (l.length, (l.filter (·.reported)).length)

/-- Every token of a back arc discarded, DRAIN in its head latch (R270). -/
def Route.drainBack (r : Route) (fc : Nat) : Route :=
  if !r.back then r
  else if r.dst = 0xFFFF then { r with latches := r.latches.map fun _ => none }
  else { r with latches := (r.latches.map fun _ => none).set (r.latches.length - 1) (some (marker tagDrain)), since := fc + 1
                taken := false, replay := [] }

/-- A data route starts at an endpoint. -/
def Page.sendsFrom (p : Page) (ep : Nat) : Bool := p.routes.any fun t => t.net != 3 && t.src == ep

/-- `DRAIN_START` (R270): every sink has reported; DRAIN sets out from load streams, elements without data inputs and back
arcs. -/
def execDrainStart (rg : Nat) (s : State) : Out :=
  match s.region? rg with
  | none => .next s
  | some r =>
    let (n, k) := s.sinks r
    if r.drain ∨ r.st ≠ .armed ∨ k < n then .next s
    else
      let backs := r.edges.filter fun e => e.init != 0
      let s := r.keys.foldl (fun s pg => s.modPage pg fun p =>
        { p with
          mes := p.mes.mapIdx fun i m => { m with streams := m.streams.mapIdx fun j st =>
            { st with drainDue := st.drainDue || p.sendsFrom (epMe i j) } }
          pes := p.pes.map fun e => if e.present && !e.hasIn then { e with drainDue := true } else e
          routes := p.routes.map fun t => t.drainBack s.fc }) s
      let gone (k : Packet) : Bool := r.keys.contains k.pg && (match (s.page? k.pg).bind fun p => p.routes[k.rt]? with
        | some t => backs.any fun e => some e.num == t.edge
        | none => false)
      .next ({ s with packets := s.packets.filter fun k => !gone k }.modRegion rg fun r => { r with drain := true })

/-- A port queue and an owner queue with nothing left in them. -/
def State.meQuiet (s : State) (pg me : Nat) (m : Me) : Bool :=
  m.ownq.isEmpty && m.ownRun.isEmpty && (m.streams.all fun st => st.todo.isEmpty && st.busy == 0) &&
  s.reqs.all fun r => r.port != .me pg me

/-- A statistics record of a page that its ME has still to write (R90). -/
def Page.recordsDue (p : Page) (me : Nat) : Bool :=
  (p.stat.map fun (x : Stat) => bits x.endp 13 8 % 4 == me && x.tiles.any (p.recordDue x)).getD false

/-- Every present element of a page has forwarded DRAIN. -/
def Page.elemsDrained (p : Page) : Bool := p.pes.all fun e => !e.present || e.drained

/-- `ME_DRAIN_PASS` (R271, R233): DRAIN passes an ME, which ends its owner mode. -/
def execMeDrainPass (pg me : Nat) (s : State) : Out :=
  match s.page? pg, s.me? pg me with
  | some p, some m =>
    let took := (List.range 4).all fun j => match m.streams[j]? with
      | some st => !p.streamRouted (4 * me + j) || !st.valid || st.drained
      | none => true
    let passes := took && (m.streams.any (·.valid) || p.elemsDrained)
    if !((s.region? p.rg).map (·.drain)).getD false ∨ m.drained ∨ !s.meQuiet pg me m ∨ !passes then .next s
    else .next (s.modMe pg me fun m => { m with drained := true, armed := false })
  | _, _ => .next s

/-- DRAIN has passed every element and ME of a page. -/
def Page.passed (p : Page) : Bool := p.elemsDrained && p.mes.all fun m => !m.present || m.drained

/-- `PAGE_DRAINED` (R271, R237): the page has drained; bank tokens it still holds are released. -/
def execPageDrained (pg : Nat) (s : State) : Out :=
  match s.page? pg with
  | none => .next s
  | some p => if p.drained ∨ !p.passed then .next s else .next ((s.freeBanks pg).modPage pg fun p => { p with drained := true })

/-! ## Completion (R272, R341, R405) -/

/-- Instructions, requests and updates of a page end with it. -/
def State.purgePage (s : State) (pg : Nat) : State :=
  { s with flights := s.flights.filter fun f => !(f.who.isElem && f.who.page == pg)
           reqs := s.reqs.filter fun r => match r.port with
             | .me p _ => p != pg
             | .tel _ => true
           packets := s.packets.filter fun k => k.pg != pg }

/-- A page leaves its frame, and with its last page a finished region is forgotten. -/
def State.vacate (s : State) (pg : Nat) : State :=
  match s.page? pg with
  | none => s
  | some q =>
    let s := s.purgePage pg
    let s := { s with pages := alDel pg s.pages, shadows := alDel pg s.shadows }
    let s := s.modRegion q.rg fun r => { r with pages := r.pages.map fun k => if k = some pg then none else k }
    if ((s.region? q.rg).map fun r => r.st == .done && r.keys.isEmpty).getD false then { s with regions := alDel q.rg s.regions } else s

/-- A region is done (R272 step 3): nothing of it runs or waits any more, its bank tokens are free, and its pages stay in
their frames as they ended until a load takes a frame (R237, R404). -/
def State.retire (s : State) (rg : Nat) : State :=
  match s.region? rg with
  | none => s
  | some r =>
    let mine := r.keys.filter fun k => ((s.page? k).map (·.rg)) == some rg
    let s := mine.foldl (fun s k => ((s.purgePage k).freeBanks k).modPage k fun p =>
      { p with mes := p.mes.map fun m => { m with armed := false } }) s
    { s with shadows := s.shadows.filter fun x => x.2.rg != rg
             regions := if mine = [] then alDel rg s.regions
               else alMod rg (fun r => { r with st := .done, tts := [], rerun := [], tcq := [], stealq := [], stopBy := none }) s.regions
             dies := s.dies.map fun d => if (d.mint.map (·.1)) = some rg then { d with mint := none } else d }

/-- A region and its pages are gone. -/
def State.removeRegion (s : State) (rg : Nat) : State :=
  match s.region? rg with
  | none => s
  | some r =>
    let s := s.retire rg
    let s := r.keys.foldl (fun s k => if ((s.page? k).map (·.rg)) = some rg then s.vacate k else s) s
    { s with regions := alDel rg s.regions }

/-- The completion record of a task (R341). -/
def Task.record (k : Task) : List Byte :=
  leBytes 2 1 ++ leBytes 2 k.status ++ leBytes 4 k.execs ++ leBytes 8 k.lseq ++ leBytes 8 k.addr ++ leBytes 8 k.tiles

/-- The last 64 finished tasks of each partition are remembered on a die (R357's text before R358). -/
def State.forget (s : State) (ptn die : Nat) : State :=
  let finished (k : Task) : Bool := k.ptn == ptn && k.die == die && k.st == .ended && !k.owesRec
  let n := (s.tasks.filter finished).length
  { s with tasks := (s.tasks.foldl (fun (acc : List Task × Nat) k =>
      if finished k ∧ 0 < acc.2 then (acc.1, acc.2 - 1) else (acc.1 ++ [k], acc.2)) ([], n - 64)).1 }

/-- A task's record posted if its die's event queue takes it, otherwise owed; with the record its frames are free (R253, R272
steps 2 and 3). -/
def State.postRecord (s : State) (ptn lseq : Nat) : State :=
  match s.task? ptn lseq with
  | none => s
  | some k =>
    if s.evRoom k.die ptn && s.evFreeIn k.die ptn then
      ((s.evPush k.die ptn k.record).modTask ptn lseq fun k => { k with owesRec := false, rgs := [], frames := [] }).forget ptn k.die
    else s.modTask ptn lseq fun k => { k with owesRec := true }

/-- A task ends with a status: its regions are done and its record is posted or owed (R272, R341). -/
def State.endTask (s : State) (ptn lseq status : Nat) : State :=
  match s.task? ptn lseq with
  | none => s
  | some k =>
    let tiles := k.rgs.foldl (fun n g => n + ((s.region? g).map (·.completed)).getD 0) k.tiles
    let s := k.rgs.foldl State.retire s
    (s.modTask ptn lseq fun k => { k with st := .ended, status := status, tiles := tiles, fill := none, pending := none }).postRecord
      ptn lseq

/-- A number stored to the task's completion word, which is DONE of its record (R272 step 1, R325, R327). -/
def State.storeDone (s : State) (k : Task) (v : Nat) : State :=
  let va := k.addr + 0x38
  let bad (c : Nat) : State :=
    s.mail { die := k.die, kind := 6, asid := k.recAsid, ptn := k.ptn } { cls := clsXlate, code := c, opnd := va } 0
  match s.walk k.die k.recAsid va with
  | .ok e => match e.forbids .store with
    | some c => bad c
    | none => s.store (e.key va) (leBytes 8 v)
  | .error c => bad c

/-- Every instance of a task has drained, and an ordered one has issued and committed its whole range (R272, R317). One with a
withheld context waits, so that the context is left only by the ways out of R392 (log 18, DEDUCED). -/
def State.taskDrained (s : State) (k : Task) : Bool :=
  k.rgs.all fun g => match s.region? g with
    | none => true
    | some r => s.allDrained r && !s.anyWithheld r && r.st == .armed && (!r.ordered || r.pendingIx.isNone) && r.tts.isEmpty

/-- A sequence goes on after the running step (R335). -/
def Task.goesOn (k : Task) : Bool := k.trec.seq && !k.cancelled && (k.pending.isSome || decide (k.step + 1 < k.steps.length))

/-- A cancelled region has come to its boundary: no live tile-task, or frozen, or nothing of it moves any more (R321, R405). -/
def State.cancelDone (s : State) (k : Task) : Bool :=
  k.rgs.all fun g => match s.region? g with
    | none => true
    | some r => r.tts.isEmpty || r.st == .frozen || r.st == .loading || decide (1 ≤ r.quiet) || s.anyWithheld r

/-- `REGION_COMPLETE` (R272, R321, R341): the completion word, the completion record, the region reusable; a cancelled task
ends here too, once it has come to its boundary. -/
def execRegionComplete (rg : Nat) (s : State) : Out :=
  match (s.region? rg).bind s.taskOfRegion with
  | none => .next s
  | some k =>
    if k.st ≠ .running ∧ k.st ≠ .preempted then .next s
    else if k.cancelled then
      if s.cancelDone k then .next (s.endTask k.ptn k.lseq (if k.faulted then 3 else 1)) else .next s
    else if k.goesOn ∨ !s.taskDrained k then .next s
    else
      let s := s.storeDone k k.lseq
      .next ((s.modTask k.ptn k.lseq fun k => { k with execs := k.execs + 1 }).endTask k.ptn k.lseq 0)

/-! ## The quiet count (R273-R275) -/

/-- A sweep's record: behind those already in the mailbox. -/
def State.mailLast (s : State) (o : Origin) (f : FaultInfo) : State :=
  s.modDie o.die fun d =>
    if 64 ≤ d.mbx.length + s.mbxTaken o.die then { d with mbxOvf := d.mbxOvf + 1, lost := true }
    else
      let bs := faultBytes o f (leBytes 8 f.opnd)
      let b3 := if d.lost then bs.getD 3 0 ||| 0x80 else bs.getD 3 0
      { d with mbx := d.mbx ++ [⟨bs.set 3 b3, o.ptn, s.fc⟩], lost := false }

/-- The heads of an element's bound data in ports: port and token. -/
def Page.heads (p : Page) (pe : Nat) : List (Nat × Option Tok) :=
  (List.range 4).filterMap fun i => match (p.pes[pe]?).bind fun e => e.ports[i]? with
    | some c => if c.net = 1 ∨ c.net = 2 then some (i, p.headAt (epPe pe i)) else none
    | none => none

/-- A port mask. -/
def maskOf (l : List Nat) : Nat := l.foldl (fun m i => m ||| 2 ^ i) 0

/-- The partial joins of an element: slot and context, or none for DRAIN at some inputs only; and the full channels. -/
def Page.partJoins (p : Page) (pe : Nat) : List (Option (Nat × Nat) × Nat) :=
  let hs := p.heads pe
  let head (i : Nat) : Option Tok := (alGet i hs).join
  let slots := ((p.pes[pe]?).map (·.live.slots)).getD []
  let joins := (List.range slots.length).filterMap fun n => match slots[n]? with
    | none => none
    | some sl =>
      let cr := chansOf (guardOf sl.word)
      let full := cr.filter fun i => (head i).isSome
      if sl.valid ∧ 2 ≤ cr.length ∧ full.any (fun i => (head i).map (·.tag) != some tagDrain) ∧
          cr.any (fun i => (head i).isNone) then
        some (some (n, bits sl.word.toNat 63 62), maskOf full) else none
  let drains := hs.filter fun h => (h.2.map (·.tag)) == some tagDrain
  joins ++ (if drains ≠ [] ∧ drains.length < hs.length then [(none, maskOf ((hs.filter (·.2.isSome)).map (·.1)))] else [])

/-- The store streams of an ME that hold a head token. -/
def Page.meHeads (p : Page) (me : Nat) : List Nat := (List.range 4).filter fun j => (p.headAt (epMe me j)).isSome

/-- The records of a sweep after its summary: PARTJOIN, then BLOCKED. -/
def State.sweepRecords (s : State) (r : Region) : List (Origin × FaultInfo) × List (Origin × FaultInfo) :=
  let ps := s.pagesOf r
  let joins := ps.flatMap fun (k, p) => (List.range 16).flatMap fun pe =>
    if ((p.pes[pe]?).map (·.present)).getD false then (p.partJoins pe).map fun j =>
      ({ s.originPage k 0 pe with slotcx := match j.1 with
          | some (n, cx) => n + 16 * cx
          | none => 0x8F }, { cls := clsDeadlock, code := 3, detail := j.2 })
    else []
  let blocked := ps.flatMap fun (k, p) =>
    ((List.range 16).filterMap fun pe =>
      let full := ((p.heads pe).filter (·.2.isSome)).map (·.1)
      if ((p.pes[pe]?).map (·.present)).getD false ∧ full ≠ [] ∧ p.partJoins pe = [] then
        some (s.originPage k 0 pe, ({ cls := clsDeadlock, code := 4, detail := maskOf full } : FaultInfo)) else none) ++
    ((List.range 4).filterMap fun me =>
      let full := p.meHeads me
      if full = [] then none
      else some (s.originPage k 1 (16 + me), ({ cls := clsDeadlock, code := 4, detail := maskOf full } : FaultInfo)))
  (joins, blocked)

/-- A sweep (R275): the summary and at most 16 records in all. -/
def State.sweep (s : State) (r : Region) (code : Nat) : State :=
  let (joins, blocked) := s.sweepRecords r
  let (n, k) := s.sinks r
  let b (x : Nat) : Nat := min x 255
  let d := b joins.length * 2 ^ 24 + b blocked.length * 2 ^ 16 + b k * 2 ^ 8 + b n
  let o : Origin := { die := r.die, kind := 6, asid := r.asid, ptn := r.ptn }
  ((joins ++ blocked).take 15).foldl (fun s x => s.mailLast x.1 x.2)
    (s.mailLast o { cls := clsDeadlock, code := code, detail := d })

/-- `QUIET_COUNT_EXPIRE` (R274): at 256 quiet fc the controller decides, and sweeps a stalled region once. -/
def execQuietCountExpire (rg : Nat) (s : State) : Out :=
  match s.region? rg with
  | none => .next s
  | some r =>
    if r.quiet < 256 ∨ r.swept then .next s
    else if s.allDrained r then .next (s.modRegion rg fun r => { r with swept := true, decided := 0 })
    else
      let code := if r.drain then 2 else 1
      .next ((s.sweep r code).modRegion rg fun r => { r with swept := true, decided := code })

/-! ## Rollback (R399) -/

/-- The gathered counts of a tile of a page taken back: what a unit has to tell again is gone, and a record that lacks it has
to be written again (R92). -/
def Page.tileBack (p : Page) (x : TileStat) : TileStat :=
  let l := x.parts.filter fun c => decide (x.pos < p.unitTold c.1)
  { x with parts := l, written := x.written && l.length == x.parts.length }

/-- An element as it stood at a shadow: pending predicates pending, withheld contexts released. -/
def Pe.back (e : Pe) (c : Nat) : Pe :=
  match e.shadows.find? fun sh => sh.ival = c with
  | none => { e with ival := c }
  | some sh =>
    { e with live := { sh.live with ctxs := sh.live.ctxs.map fun x => { x with withheld := false } }
             owed := [], markBy := none, drained := false, ended := false, drainDue := false, snapDue := false, ival := c
             shadows := [{ sh with shut := [0, 1, 2, 3] }] }

/-- A stream as it stood at a shadow: a load stream opens with a fresh header. -/
def Stream.back (m : Stream) (c rows : Nat) : Stream :=
  match m.shadows.find? fun x => x.1 = c with
  | none => { m with ival := c }
  | some (_, cur, cnts) =>
    let st := m.desc.isStore
    let at_ := if st then cur else { cur with hdr := false }
    { m with cur := at_, ask := at_, buf := [], todo := [], busy := 0, win := [], winAt := .none, dec := .none, recs := [], strAt := 0
             eos := if st then cur.hdr else decide (rows ≤ cur.row) && decide (0 < cur.pos)
             reported := if st then m.sink && (cur.hdr || (m.reported && !m.valid)) else m.reported
             drained := false, drainDue := false, withheld := false, pat := (0, 0)
             cnts := cnts, snapDue := false, snapCnt := 0, ival := c, shadows := [(c, cur, cnts)] }

/-- The rows of a list of cells that belong to a tenant taken from another list. -/
def Page.mixRows (p : Page) (ten : Nat) (old new : List Word) : List Word :=
  old.mapIdx fun j x =>
    let row := j / 16 % 16
    if p.tenBase ten ≤ row ∧ row < p.tenBase ten + p.tenRows ten then new.getD j x else x

/-- A tenant as it stood at a shadow, with the instructions its queue held. -/
def Page.tenBack (p : Page) (ten c : Nat) : Page × List Flight :=
  match (p.mtx.tens[ten]?).bind fun t => t.shadows.find? fun sh => sh.ival = c with
  | none => ({ p with mtx := { p.mtx with tens := p.mtx.tens.modify ten fun t => { t with ival := c } } }, [])
  | some sh =>
    let fs := sh.flights.filter fun f => decide (f.ival < c)
    let q := sh.q.filter fun z => fs.any fun f => f.fid == z.fid
    ({ p with mtx := { p.mtx with
        cells := p.mixRows ten p.mtx.cells sh.cells
        wts := p.mixRows ten p.mtx.wts sh.wts
        tens := p.mtx.tens.modify ten fun t =>
          { t with desc := sh.desc, fmt := sh.fmt, left := sh.left, q := q, run := sh.run.filter fun r => fs.any fun f => f.fid == r.fid, withheld := false, ival := c
                   tiles := sh.tiles, told := sh.told, cnts := sh.cnts, shadows := [sh] } } }, fs)

/-- The tokens a back arc gets again: those logged in the consumer's shadow, and at cut 0 its initial token. -/
def Page.replayOf (p : Page) (r : Route) (c : Nat) : List Tok :=
  if !r.back then []
  else if c = 0 then initialTokens p.img r.ix r.net
  else match p.pes[r.dst / 256 % 64]? with
    | some e => if r.dst / 2 ^ 14 = 0 then
        (((e.shadows.find? fun sh => sh.ival = c).bind fun sh => alGet (r.dst % 16) sh.logs)).getD [] else []
    | none => []
where
  /-- The initial tokens of a route in a page image (R75). -/
  initialTokens (img : List Byte) (ix net : Nat) : List Tok :=
    let n := recNat img 0x3C 1
    (List.range n).filterMap fun k =>
      let b := (img.drop (0x6500 + 128 * k)).take 128
      if recNat b 0 2 = ix ∧ recNat b 2 1 = net then
        some ⟨recNat b 3 1, BitVec.ofNat 512 (if net = 1 then recNat b 8 8 else recNat b 8 64)⟩ else none

/-- A graph taken back to a cut, its counts as they stood there (R90). -/
def Graph.back (g : Graph) (c : Nat) : Graph :=
  let (tiles, cnts) := ((g.marks.find? fun x => x.1 = c).map (·.2)).getD (g.tiles, g.cnts)
  { g with pipe := [], withheld := false, unloading := false, ival := c, drained := false, tiles := tiles, cnts := cnts
           marks := [(c, tiles, cnts)] }

/-- Of a page taken back to a cut: a tile closed before it stays told, and what its units have told of later ones is undone
(R92; DEDUCED, log 120). -/
def Page.toldBack (p : Page) : Page :=
  let p := { p with
    mes := p.mes.mapIdx fun i (m : Me) => { m with told := min m.told (p.unitTiles (16 + i)) }
    saf := { p.saf with told := min p.saf.told (p.unitTiles 22) } }
  { p with stat := p.stat.map fun (x : Stat) => { x with
    tiles := (x.tiles.map p.tileBack).filter fun y => y.parts != [] } }

/-- A page taken back to a cut. -/
def Page.back (p : Page) (c : Nat) : Page × List Flight :=
  let routes := p.routes.map fun (r : Route) =>
    { r with latches := r.latches.map fun _ => none, rsv := false, taken := false, fresh := false, replay := p.replayOf r c, stuck := 0 }
  let p := { p with
    routes := routes
    pes := p.pes.map fun (e : Pe) => e.back c
    mes := p.mes.map fun (m : Me) => { m with
      streams := m.streams.map fun (st : Stream) => st.back c (st.desc.eff st.cap (st.desc.xf m)).rows
      withheld := false, drained := false, cnts := List.replicate 5 0 }
    saf := { p.saf with graphs := p.saf.graphs.map fun (g : Graph) => g.back c }
    drained := false }
  let (p, f0) := p.tenBack 0 c
  let (p, f1) := p.tenBack 1 c
  (p.toldBack, f0 ++ f1)

/-- The undo entries of a region after a cut, newest first. -/
def State.undoList (s : State) (r : Region) (c : Nat) : List (Nat × Nat × Nat × List Byte) :=
  let all := (s.pagesOf r).flatMap fun (_, p) => p.mes.flatMap fun m => m.undo.filter fun u => decide (c ≤ u.1)
  all.foldl (fun acc u => insertNew u acc) []
where
  /-- Placed behind every entry that is not older. -/
  insertNew (u : Nat × Nat × Nat × List Byte) : List (Nat × Nat × Nat × List Byte) → List (Nat × Nat × Nat × List Byte)
    | [] => [u]
    | x :: l => if x.2.1 < u.2.1 then u :: x :: l else x :: insertNew u l

/-- Tiles the units of a page had closed at a shadow. -/
def Page.tilesAt (p : Page) (c : Nat) : List Nat :=
  p.pes.filterMap (fun e => if e.isNode then (e.shadows.find? fun sh => sh.ival = c).map (·.live.tiles) else none) ++
  p.mes.flatMap fun m => m.streams.filterMap fun st =>
    if st.valid then (st.shadows.find? fun x => x.1 = c).map (·.2.1.pos) else none

/-- Tile-tasks reset by R320: later intervals' lines go, tile-tasks no unit had reached are not issued, and those of them
that had completed are to complete again (R341), the rest stay live. -/
def Region.backTts (r : Region) (c reached low : Nat) : Region :=
  let kept := r.issued.take (reached + 1)
  let gone := r.issued.drop (reached + 1)
  let again := gone.filter fun i => kept.contains i
  let fresh := gone.filter fun i => !kept.contains i
  let tts := (r.tts.filter fun t => !fresh.contains t.ix).map fun t =>
    let t := { t with lines := t.lines.filter fun l => decide (l.ival < c) }
    if again.contains t.ix then { t with st := .doomed }
    else if t.st == .sealed && decide (low ≤ r.posOf t.ix) then { t with st := .issued }
    else t
  { r with issued := kept, tts := tts, rerun := r.rerun ++ again.filter fun i => !r.rerun.contains i
           completed := r.completed - (fresh.filter fun i => (r.tt? i).isNone).length
           next := if r.persist then r.next else fresh.foldl min r.next }

/-- An instruction fired before the cut and still to be performed stays outstanding: its writes belong to the shadow. -/
def Flight.beforeCut (f : Flight) (c : Nat) : Bool := decide (f.ival < c) && !(0x40 ≤ opcOf f.word && opcOf f.word ≤ 0x4E)

/-- A region restored to its cut (R399). -/
def State.rollback (s : State) (rg : Nat) : State :=
  match s.region? rg with
  | none => s
  | some r =>
    let c := r.cut
    let counts := (s.pagesOf r).flatMap fun x => x.2.tilesAt c
    let undo := s.undoList r c
    let mine (f : Flight) : Bool := f.who.isElem && r.keys.contains f.who.page
    let kept := s.flights.filter fun f => !mine f || f.beforeCut c
    let ids := kept.map (·.fid)
    let s := { s with
      flights := kept
      reqs := s.reqs.filter fun q => match q.port, q.job with
        | .me p _, .flight fid _ => !r.keys.contains p || ids.contains fid
        | .me p _, .through .. => !r.keys.contains p || q.ival < c
        | .me p _, _ => !r.keys.contains p
        | .tel _, _ => true
      upds := s.upds.filter fun u => (s.flights.all fun f => f.fid != u.fid || !mine f) || ids.contains u.fid
      packets := s.packets.filter fun k => !r.keys.contains k.pg }
    let s := r.keys.foldl (fun s k => match s.page? k with
      | none => s
      | some p =>
        let (p', fs) := p.back c
        let p' := { p' with
          mes := p'.mes.map fun m => { m with
            ownq := m.ownq.filter fun u => ids.contains u.fid
            ownRun := m.ownRun.filter fun u => ids.contains u.fid
            undo := m.undo.filter fun u => decide (u.1 < c) }
          shapes := p'.shapes.map fun (h : Shape) =>
            { h with refill := none, through := h.through.filter fun t => t.by_.beforeCut c } }
        let s := s.modPage k fun _ => p'
        { s with flights := s.flights ++ fs.filter fun f => !ids.contains f.fid }) s
    let s := kept.foldl (fun s f => if mine f then s.reserve f.who f.holds else s) s
    let s := undo.foldl (fun s u => s.store u.2.2.1 u.2.2.2) s
    s.modRegion rg fun r =>
      { (r.backTts c (counts.foldl max 0) (counts.foldl min (counts.headD 0))) with
        st := .armed, drain := false, quiet := 0, swept := false, decided := 0, withheld := false
        stopBy := none }

/-! ## Freezing (R400, R401) -/

/-- A region is frozen; the word that stops the task is performed once no region of it is left to stop (R386). -/
def State.freeze (s : State) (rg : Nat) (expired : Bool) : State :=
  match s.region? rg with
  | none => s
  | some r =>
    let s := s.modRegion rg fun r => { r with st := .frozen, stopBy := none, decided := if expired then 3 else r.decided }
    match r.stopBy.bind s.flight? with
    | none => s
    | some f =>
      let f' := if expired then { f with aux := [1] } else f
      let s := s.modFlight f.fid fun _ => f'
      if s.regions.any fun x => x.2.stopBy == some f.fid then s
      else
        let d := f'.aux.headD 0
        (s.modTask r.ptn r.lseq fun k => { k with st := .preempted }).performVal f' (w64 d) (d != 0) (d != 0)

/-- `PREEMPT_FREEZE` (R400): a region being stopped is frozen in a quiet fc. -/
def execPreemptFreeze (rg : Nat) (s : State) : Out :=
  match s.region? rg with
  | none => .next s
  | some r => if r.st = .stopping ∧ 1 ≤ r.quiet then .next (s.freeze rg false) else .next s

/-- `PREEMPT_WATCHDOG_EXPIRE` (R401): the region is rolled back and frozen, or frozen as it stands. -/
def execPreemptWatchdogExpire (rg : Nat) (s : State) : Out :=
  match s.region? rg with
  | none => .next s
  | some r =>
    if r.st ≠ .stopping ∨ s.fc < r.stopAt + r.watchdog then .next s
    else
      let ok := r.rollback && !r.cutBad
      let iv := if ok then r.cut else s.topIval r
      let by_ := r.stopBy
      let s := s.mail { die := r.die, kind := 6, asid := r.asid, ptn := r.ptn, intv := iv }
        { cls := clsWatch, code := if ok then 1 else 2 } 0
      let s := if ok then (s.rollback rg).modRegion rg fun r => { r with stopBy := by_ } else s
      .next (s.freeze rg true)

/-- `LINK_FLIT_FAILURE` (R395): LINK 0x001 at the region controller; the region withholds as a whole. -/
def execLinkFlitFailure (rg : Nat) (s : State) : Out :=
  match s.region? rg with
  | none => .next s
  | some r => .next ((s.mail { die := r.die, kind := 6, asid := r.asid, ptn := r.ptn } { cls := clsLink, code := 1 } 0).modRegion
      rg fun r => { r with withheld := true })

end Sys2Proof.Machine
end

