-- ==== Sys2Proof/Machine/Mint.lean ====
section
/-!
DEFINITION. The mint (R8, R12, R17, R44, R68-R76, R94, R128-R130, R267-R269, R331-R335, R339, R347, R404, R418, R420, R421):
region descriptors and page images, a page made from its image, the checks in their order, loading, arming, shadow fills
and the swap of a sequence.
-/

namespace Sys2Proof.Machine

/-! ## Region descriptors (R76) and sequence tables (R333) -/

/-- A region descriptor as read. -/
structure RDesc where
  die : Nat
  flags : Nat
  imgs : List (Nat × Nat × Nat)
  edges : List Edge
  hash : List Byte
  /-- the bytes after the header, which the hash covers -/
  body : List Byte
  deriving DecidableEq, Repr

/-- An edge entry. -/
def edgeOf (b : List Byte) : Edge :=
  ⟨recNat b 0 2, recNat b 2 2, recNat b 4 2, recNat b 6 2, recNat b 8 2, recNat b 0xA 1, recNat b 0xB 1, recNat b 0xC 1, recNat b 0xD 1⟩

/-- The parts of a descriptor's bytes, header first. -/
def rdescOf (b : List Byte) : RDesc :=
  let np := recNat b 4 2
  let ne := recNat b 6 2
  { die := recNat b 2 1, flags := recNat b 3 1, hash := (b.drop 16).take 48, body := b.drop 64
    imgs := tab np fun i => (recNat b (64 + 16 * i) 8, recNat b (72 + 16 * i) 1, recNat b (73 + 16 * i) 1)
    edges := tab ne fun i => edgeOf ((b.drop (64 + 16 * np + 16 * i)).take 16) }

/-- A descriptor's length from its header. -/
def rdescLen (h : List Byte) : Nat := 64 + 16 * recNat h 4 2 + 16 * recNat h 6 2

/-- A descriptor that breaks R76, apart from its hash. -/
def RDesc.bad (d : RDesc) : Bool :=
  let n := d.imgs.length
  decide (7 < d.die) || decide (3 < d.flags) || n == 0 || decide (256 < n) || decide (256 < d.edges.length) ||
  ((List.range n).any fun i => match d.imgs[i]? with
    | some (_, k, q) => decide (2 < k) || (q != 0xFF && (k == 0 || match d.imgs[q]? with
        | some (_, k', q') => k' + k != 3 || q' != i
        | none => true))
    | none => true) ||
  d.edges.any fun e => decide (255 < e.num) || decide (n ≤ e.sp) || decide (n ≤ e.dp) || !(e.net == 1 || e.net == 2) || decide (14 < e.ty)

/-- A descriptor read through a die's tables; none where it cannot be read. -/
def State.readRegion (s : State) (die asid va : Nat) : Option RDesc :=
  match s.readRec die asid none va 64 with
  | .error _ => none
  | .ok (h, _) => match s.readRec die asid none va (rdescLen h) with
    | .error _ => none
    | .ok (b, _) => some (rdescOf b)

/-- Half-frames a region needs (R329's text before it). -/
def RDesc.need (d : RDesc) : Nat := d.imgs.foldl (fun n x => n + if x.2.1 = 0 then 2 else 1) 0

/-- The region hash: the descriptor after its header, then the CHASH of every page (R76). -/
def State.regionHash (s : State) (asid : Nat) (d : RDesc) : Option (List Byte) :=
  let hs := d.imgs.map fun x => match s.readRec d.die asid none (x.1 + 8) 48 with
    | .ok (b, _) => some b
    | .error _ => none
  if hs.all Option.isSome then some (sha384 (d.body ++ (hs.map fun h => h.getD []).flatten)) else none

/-! ## Positions and latches (R421) -/

/-- Grid row and column of an endpoint of a page. A SAF endpoint's port bits hold the P of `saf.inP` and `saf.outP`, as a
matrix endpoint's hold its port (R72; log 121). -/
def epPos (kind ep : Nat) : Nat × Nat :=
  let i := ep / 256 % 64
  match ep / 2 ^ 14 with
  | 0 => (i / 4, i % 4)
  | 1 => (i, 2 * (i % 2))
  | 2 => (1 + ep % 16, 1)
  | _ => (if kind = 2 ∨ ep % 16 = 1 then 2 else 1, 2)

def gridDist (a b : Nat × Nat) : Nat := absDiff a.1 b.1 + absDiff a.2 b.2

/-- The latches of a route: h + 1 within a page, four more at the router (R72, R421). -/
def latchCount (viaRouter : Bool) (hops : Nat) : Nat := if viaRouter then hops + 5 else hops + 1

/-! ## A page made from its image (R69-R75, R404) -/

def Ctx.fresh : Ctx := ⟨List.replicate 8 0, List.replicate 4 0, List.replicate 8 .ff, false, []⟩

def Slot.fresh (w : Word) (v : Bool) : Slot := ⟨if v then w else 0, v, false, 0, 0, false, 0, 0, 0, false, false, false⟩

def Pe.absent : Pe where
  present := false
  ports := List.replicate 8 ⟨0, 0⟩
  pbind := List.replicate 4 none
  replicate := false
  isectOn := false
  k := List.replicate 6 0
  live := ⟨List.replicate 16 (Slot.fresh 0 false), List.replicate 4 Ctx.fresh, 3, [none, none], 0, 0, 0, List.replicate 5 0⟩
  owed := []
  markBy := none
  drained := false
  ended := false
  drainDue := false
  snapDue := false
  ival := 0
  shadows := []

/-- A PE from its block (R70), with shadow 0 as it is armed (R396). -/
def peOf (fc : Nat) (b : List Byte) : Pe :=
  let live : PeLive :=
    { slots := tab 16 fun n => Slot.fresh (BitVec.ofNat 64 (recNat b (8 * n) 8)) (bitAt (recNat b 0x80 2) n)
      ctxs := List.replicate 4 Ctx.fresh, arb := 3, isect := [none, none], isectUp := 0, tiles := 0, told := 0
      cnts := List.replicate 5 0 }
  { Pe.absent with
    present := true
    ports := tab 8 fun i => let x := recNat b (0xB8 + i) 1; ⟨x / 16, x % 4⟩
    pbind := tab 4 fun i => let x := recNat b (0xC0 + i) 1; if bitAt x 7 then some (bits x 5 4, if bitAt x 0 then 7 else 6) else none
    replicate := bitAt (recNat b 0x83 1) 0
    isectOn := bitAt (recNat b 0xC8 1) 0
    k := tab 6 fun i => if bitAt (recNat b 0x82 1) i then BitVec.ofNat 64 (recNat b (0x88 + 8 * i) 8) else 0
    live := live
    shadows := [⟨0, fc, live, [], [0, 1, 2, 3], false⟩] }

/-- A stream armed by a descriptor (R220), with shadow 0. -/
def streamOf (b : List Byte) : Stream :=
  let d := sdescOf b
  { Stream.idle with desc := d, valid := bitAt d.flags 0, shadows := [(0, Cursor.start, [])] }

def Me.absent : Me where
  present := false
  streams := List.replicate 4 Stream.idle
  tlb := none
  rd := xfOf []
  wr := xfOf []
  ownBase := 0
  ownLen := 0
  ownOn := false
  armed := false
  ownq := []
  ownRun := []
  ownFc := 0
  undo := []
  drained := false
  withheld := false
  ival := 0
  told := 0
  cnts := List.replicate 5 0

/-- An ME from its block (R71); its owner range still holds the address as the image gives it. -/
def meOf (b : List Byte) : Me :=
  { Me.absent with
    present := true
    streams := tab 4 fun i => streamOf ((b.drop (128 * i)).take 128)
    rd := xfOf ((b.drop 0x220).take 128)
    wr := xfOf ((b.drop 0x2A0).take 128)
    ownBase := recNat b 0x200 8
    ownLen := recNat b 0x208 8
    ownOn := bitAt (recNat b 0x210 8) 0 }

/-- A tenant of a fresh page; a kernel graph gives it a counter (R185). -/
def Tenant.fresh (drv : Option (Nat × Nat)) (graph : Bool) : Tenant where
  drv := drv
  desc := List.replicate 8 ⟨0, 0, 0, 0, 2⟩
  fmt := none
  left := if graph then some 0 else none
  q := []
  qseq := 0
  last := 0
  run := none
  ctr := List.replicate 5 0
  withheld := false
  ival := 0
  cnts := List.replicate 5 0
  tiles := 0
  told := 0
  shadows := [⟨0, List.replicate 8 ⟨0, 0, 0, 0, 2⟩, List.replicate 2048 0, List.replicate 256 0, none,
    if graph then some 0 else none, [], 0, [], none, 0, List.replicate 5 0⟩]
  flush := false
  stepAt := 0

/-- A driver field of the matrix configuration. -/
def drvOf (x : Nat) : Option (Nat × Nat) := if bitAt x 15 then some (bits x 7 4, x % 4) else none

def Shape.empty : Shape := ⟨false, 0, ⟨0, false, 0, 0, 0, 0, 0⟩, 0, [], none, [], []⟩

/-- The formats that ports and streams declare (R94); none for a port that takes its route's, nor for a stream with no valid
descriptor, which `SOPEN` may give one later (log 112). -/
def Page.declFmt (p : Page) (out : Bool) (ep : Nat) : Option (Nat × Nat) :=
  let i := ep / 256 % 64
  let port := ep % 16
  match ep / 2 ^ 14 with
  | 0 => (p.pes[i]?).bind fun e => (e.ports[if out then 4 + port else port]?).map fun c => (c.ty, 0)
  | 1 => (p.mes[i]?).bind fun m => (m.streams[port]?).bind fun st =>
      if st.desc.flags % 2 = 1 then some (st.desc.efmt % 16, st.desc.efmt / 16) else none
  | 2 => if out then some (10, 0) else none
  | _ => none

/-- The network a PE port is bound to; vector for every SAF and matrix endpoint. -/
def Page.portNet (p : Page) (out : Bool) (ep : Nat) : Nat :=
  if ep / 2 ^ 14 = 0 then
    ((p.pes[ep / 256 % 64]?).bind fun e => (e.ports[if out then 4 + ep % 16 else ep % 16]?).map (·.net)).getD 0
  else 2

/-- A logical edge entry of an image (R74). -/
structure LEdge where
  num : Nat
  dir : Nat
  net : Nat
  ty : Nat
  pln : Nat
  loc : Nat
  route : Nat
  deriving DecidableEq, Repr

/-- The logical edge entries of an image (R74). NET and LOCAL repeat what the route's table and ends say; where they
disagree the route entry decides (log 122). -/
def ledges (img : List Byte) : List LEdge :=
  tab (min 16 (recNat img 0x3B 1)) fun i =>
    let b := (img.drop (0x6300 + 32 * i)).take 32
    ⟨recNat b 0 2, recNat b 2 1, recNat b 3 1, recNat b 4 1, recNat b 5 1, recNat b 6 2, recNat b 8 2⟩

/-- The region edge of an entry: the one that ROUTE, an edge-list index, names, where its number is ENUM; where the two
disagree, the edge of number ENUM (log 122). -/
def LEdge.edge (l : LEdge) (edges : List Edge) : Option Edge :=
  ((edges[l.route]?).filter fun e => e.num == l.num).orElse fun _ => edges.find? fun e => e.num = l.num

/-- A route's entry in a table (R72). -/
def routeEnt (img : List Byte) (net i : Nat) : List Byte := (img.drop (0x3300 + 4096 * (net - 1) + 16 * i)).take 16

/-- The routes of an image, in table order, with the region's edges for those through the router. -/
def imageRoutes (img : List Byte) (edges : List Edge) : List Route :=
  ([1, 2, 3] : List Nat).flatMap fun net => (List.range 256).filterMap fun i =>
    let b := routeEnt img net i
    let hops := recNat b 4 1
    if hops = 0xFF then none
    else
      let via := bitAt (recNat b 5 1) 0
      let le := if via then (ledges img)[recNat b 6 2]? else none
      let e := le.bind fun l => l.edge edges
      let src := recNat b 0 2
      let dst := recNat b 2 2
      let init := Page.replayOf.initialTokens img i net
      let n := latchCount via hops
      some { ix := i, net := net, src := src, dst := dst, viaRouter := via, eidx := recNat b 6 2, edge := le.map (·.num)
             path := recNat b 8 8, hops := hops, ty := (e.map (·.ty)).getD 0, pln := (e.map (·.pln)).getD 0
             latches := (List.replicate n none).set (n - 1) init.head?, rsv := false, taken := false, fresh := false, since := 0
             back := init != [] || (via && (e.map (·.init != 0)).getD false), replay := [], stuck := 0 }

/-- The routes that only stream descriptors name: each stream and its ENDP (R220; log 35). -/
def Page.streamRoutes (p : Page) : List Route :=
  (List.range 16).filterMap fun si =>
    match (p.mes[si / 4]?).bind fun m => if m.present then m.streams[si % 4]? else none with
    | none => none
    | some st =>
      let me := epMe (si / 4) (si % 4)
      if !st.valid ∨ p.routes.any (fun r => r.src == me || r.dst == me) then none
      else
        let store := st.desc.isStore
        let hops := gridDist (epPos p.kind me) (epPos p.kind st.desc.endp)
        some { ix := 256 + si, net := p.portNet store st.desc.endp
               src := if store then st.desc.endp else me, dst := if store then me else st.desc.endp
               viaRouter := false, eidx := 0, edge := none, path := 0, hops := hops, ty := 0, pln := 0
               latches := List.replicate (hops + 1) none, rsv := false, taken := false, fresh := false, since := 0, back := false, replay := [], stuck := 0 }

/-- A route's format: its edge's, or what an end of it declares. -/
def Page.routeFmt (p : Page) (r : Route) : Nat × Nat :=
  if r.viaRouter then (r.ty, r.pln)
  else ((p.declFmt true r.src).orElse fun _ => p.declFmt false r.dst).getD (0, 0)

/-- A page from its image, before its streams and its graph have been read from memory. It is deterministic where the region
descriptor's flags (R76) or its header's PFLAGS bit 1 (R69) say so, and rollback-enabled where the descriptor's flags,
PFLAGS bit 2 or bit 0 of the snapshot settings' flags (R75) say so. Its kind and its index are the descriptor's, by which the
frame was chosen before the image was read (R331); PKIND and PIDX repeat them (log 123). -/
def pageOf (fc : Nat) (rd : RDesc) (r : Region) (pidx kind : Nat) (img : List Byte) : Page :=
  let rows := recNat img 0x3100 1
  let p : Page :=
    { kind := kind, pidx := pidx, rg := r.key, ptn := r.ptn, asid := r.asid
      det := r.det || bitAt (recNat img 3 1) 1
      rollback := r.rollback || bitAt (recNat img 3 1) 2 || bitAt (recNat img 0x6D0A 1) 0
      img := img.take 0x8000
      pes := tab 16 fun n => if bitAt (recNat img 0x38 2) n then peOf fc ((img.drop (0x100 + 512 * n)).take 512) else Pe.absent
      mes := tab 4 fun n => if bitAt (recNat img 0x3A 1) n then meOf ((img.drop (0x2100 + 1024 * n)).take 1024) else Me.absent
      mtx := { r0 := if kind = 0 then min 16 (4 * rows) else 8, cells := List.replicate 2048 0, wts := List.replicate 256 0
               tens := tab 2 fun i => Tenant.fresh (drvOf (recNat img (0x3102 + 2 * i) 2)) (r.armAddr != 0) }
      shapes := List.replicate (if kind = 0 then 8 else 4) Shape.empty
      saf := ⟨[], List.replicate (safNodes kind) 0, 0⟩
      routes := imageRoutes img rd.edges
      snapEvery := recNat img 0x6D00 8, snapMask := recNat img 0x6D08 2, stat := none, drained := false }
  let p := { p with routes := p.routes ++ p.streamRoutes }
  { p with routes := p.routes.map fun r => let f := p.routeFmt r; { r with ty := f.1, pln := f.2 } }

/-! ## Rejections (R44, R420) -/

/-- A rejection: what it names, and the fault. -/
structure Rej where
  page : Nat
  elem : Nat := 0
  slot : Nat := 0x80
  f : FaultInfo
  deriving DecidableEq, Repr

def badcfg (code detail : Nat) : FaultInfo := { cls := clsBadcfg, code := code, detail := detail }

/-- The first of a list of checks that fails. -/
def firstRej (l : List (Option Rej)) : Option Rej := l.findSome? id

/-- Valid slots of a page: PE, slot number, context and word, in order. -/
def Page.slotList (p : Page) : List (Nat × Nat × Nat × Word) :=
  (List.range 16).flatMap fun pe => match p.pes[pe]? with
    | some e => if e.present then (List.range 16).filterMap fun n => match e.live.slots[n]? with
        | some sl => if sl.valid then some (pe, n, bits sl.word.toNat 63 62, sl.word) else none
        | none => none
      else []
    | none => []

/-- SLOTCX of a slot. -/
def slotCx (n cx : Nat) : Nat := n + 16 * cx

/-- The words of a page (R43, R44). -/
def Page.wordRej (p : Page) : Option Rej :=
  p.slotList.findSome? fun (pe, n, cx, w) =>
    let d := defect .elem w
    if d = 0 then none
    else some { page := p.pidx, elem := pe, slot := slotCx n cx
                f := if d = 8 then { cls := clsPriv, code := 1 } else badcfg 0x010 d }

/-! ### Checks of a slot -/

/-- The network an operand kind wants at a port: 1 scalar, 2 vector, 0 either. -/
def wantNet : OpK → Nat
  | .sdst | .ssrc | .sreg | .srz => 1
  | .vdst | .vsrc | .vreg | .vro | .vwo | .vcv | .vout | .vinp | .strm => 2
  | _ => 0

/-- A port an operand field names: out, number. -/
def fieldPort (k : OpK) (c : Nat) : Option (Bool × Nat) :=
  if k = .no ∨ (k ≠ .cout ∧ k.indexBound.isSome) then none
  else if 12 ≤ c ∧ c < 16 then some (false, c - 12)
  else if 16 ≤ c ∧ c < 20 then some (true, c - 16) else none

/-- PORTBIND's detail. -/
def portDetail (x : Bool × Nat) : Nat := x.2 + if x.1 then 16 else 0

/-- The network of an element's port. -/
def Pe.netOf (e : Pe) (x : Bool × Nat) : Nat := ((e.ports[if x.1 then 4 + x.2 else x.2]?).map (·.net)).getD 0

/-- The port of a slot that R12 refuses. -/
def Pe.portBad (e : Pe) (w : Word) : Option Nat :=
  let sp := wspec (opcOf w) (fnOf w)
  let fs := opFields sp w
  let bad1 := fs.findSome? fun (k, c) => match fieldPort k c with
    | none => none
    | some x =>
      let net := e.netOf x
      let want := wantNet k
      if (if k = .cout then net != 3 else net == 0 || net == 3 || (want != 0 && want != net)) then some (portDetail x) else none
  let dnet := match fieldPort sp.d (field w 19 5).toNat with
    | some x => e.netOf x
    | none => 0
  let a := (field w 14 5).toNat
  let bad2 := fs.findSome? fun (k, c) =>
    if (k = .iport ∨ k = .asrc) ∧ sp.d = .oport then match fieldPort k c with
      | some x => if e.netOf x ≠ dnet then some (portDetail x) else none
      | none => none
    else none
  let bad3 := if sp.d = .oport ∧ sp.a = .asrc ∧ dnet = 1 ∧ 8 ≤ a ∧ a < 12 then some ((field w 19 5).toNat - 16 + 16)
    else if sp.d = .oport ∧ sp.a = .asrc ∧ dnet = 2 ∧ (a < 8 ∨ (20 ≤ a ∧ a ≠ 26)) then some ((field w 19 5).toNat - 16 + 16) else none
  let bad4 := (List.range 4).find? fun i => (guardOf w).cr.getLsbD i && (e.netOf (false, i) == 0 || e.netOf (false, i) == 3)
  ((bad1.orElse fun _ => bad2).orElse fun _ => bad3).orElse fun _ => bad4

/-- R17's detail: 1 when A names an in port that CR lacks, 2 when B does, 3 both. -/
def crBad (w : Word) : Nat :=
  let sp := wspec (opcOf w) (fnOf w)
  let one (k : OpK) (c : Nat) : Bool := match fieldPort k c with
    | some (false, i) => !(guardOf w).cr.getLsbD i
    | _ => false
  let b := if isFormI (opcOf w) then false else one sp.b (field w 9 5).toNat
  (if one sp.a (field w 14 5).toNat then 1 else 0) + if b then 2 else 0

/-- The format of what a word writes to an out port, where R100 or R139 names one. -/
def resultTy (w : Word) : Option Nat :=
  let ty := (field w 0 4).toNat
  match opcOf w with
  | 0x01 | 0x02 | 0x04 | 0x05 | 0x06 | 0x07 | 0x08 | 0x0A | 0x0B | 0x0C | 0x0F | 0x18 | 0x1A | 0x1B => some ty
  | 0x20 | 0x21 | 0x22 | 0x24 | 0x25 | 0x26 | 0x29 | 0x2A | 0x2D | 0x2E | 0x2F | 0x31 | 0x33 | 0x38 | 0x39 | 0x3D | 0x3E => some ty
  | 0x2B => some (dotTy ty)
  | 0x2C => some (if ty = 8 ∨ ty = 9 then 10 else ty)
  | 0x34 => some 10
  | 0x36 => some 0
  | 0x37 => some (if fnOf w = 0 then 10 else ty)
  | 0x3A => if fnOf w = 1 then some 7 else some ty
  | _ => none

/-- A slot writes an out port of another format (FMTSLOT). -/
def Pe.fmtSlotBad (e : Pe) (w : Word) : Bool :=
  match fieldPort (wspec (opcOf w) (fnOf w)).d (field w 19 5).toNat, resultTy w with
  | some (true, i), some ty => ((e.ports[4 + i]?).map (·.ty)).getD 0 != ty
  | _, _ => false

/-- A word whose results depend on timing (R339). -/
def nondet (w : Word) : Bool :=
  let fn := fnOf w
  let d := (field w 19 5).toNat
  let a := (field w 14 5).toNat
  let pu := (field w 4 2) != 0
  match opcOf w with
  | 0x4C => a == 2 || a == 3 || a == 7
  | 0x6E => fn == 2
  | 0x73 => fn == 2
  | 0x62 => fn == 1 || (fn == 2 && d != 26)
  | 0x63 => d != 26
  | 0x70 => fn == 5 || (fn == 3 && d != 26)
  | 0x66 => fn == 1 || fn == 3
  | 0x78 => fn == 3
  | 0x71 | 0x72 | 0x4D => pu
  | 0x7C => fn == 1 && pu
  | _ => false

/-- The tenant a slot drives, with rows. -/
def Page.drives (p : Page) (pe cx : Nat) : Option Nat :=
  (List.range 2).find? fun i => ((p.mtx.tens[i]?).bind (·.drv)) == some (pe, cx) && decide (0 < p.tenRows i)

/-- The half a page has, as PE, ME and grid-row bounds. -/
def inHalf (kind rows i : Nat) : Bool := kind == 0 || i / (rows / 2) == kind - 1

/-- The ME that a stream-control word or `XFORM` names by its index D (R246, R250). -/
def meNamed (w : Word) : Option Nat :=
  let d := (field w 19 5).toNat
  match opcOf w with
  | 0x5C | 0x5D => some (d / 4)
  | 0x64 => some (d / 2)
  | _ => none

/-- The checks of one slot, apart from its word's defects. In a half-page a word that names `s4` to `s7` is rejected with
HALFRES (R8, R420), not as defect 5 of R34 (log 34). -/
def Page.slotRej (p : Page) (x : Nat × Nat × Nat × Word) : Option Rej :=
  let (pe, n, cx, w) := x
  match p.pes[pe]? with
  | none => none
  | some e =>
    let opc := opcOf w
    let at_ (f : FaultInfo) : Rej := { page := p.pidx, elem := pe, slot := slotCx n cx, f := f }
    let tile := 0x40 ≤ opc ∧ opc ≤ 0x4E
    let shape := if p.kind = 0 then none else (shapeReg w).filter (4 ≤ ·)
    let stream := (opc = 0x42 ∨ opc = 0x46) ∧ (field w 14 5).toNat = 26
    firstRej [
      shape.map fun sx => at_ (badcfg 0x021 sx),
      ((meNamed w).filter fun m => !inHalf p.kind 4 m).map fun m => at_ (badcfg 0x021 (0x2000 + m)),
      (e.portBad w).map fun d => at_ (badcfg 0x022 d),
      if crBad w ≠ 0 then some (at_ (badcfg 0x023 (crBad w))) else none,
      if e.fmtSlotBad w then some (at_ (badcfg 0x013 (slotCx n cx))) else none,
      if opc = 0x1A ∧ !e.replicate then some (at_ (badcfg 0x024 (slotCx n cx))) else none,
      if (opc = 0x1D ∨ opc = 0x1E) ∧ e.hasIn then some (at_ (badcfg 0x015 (slotCx n cx))) else none,
      if tile ∧ ((p.drives pe cx).isNone ∨ (opcOf w = 0x4B ∧ p.drives pe cx ≠ some 0)) then some (at_ (badcfg 0x016 (slotCx n cx))) else none,
      if opc = 0x4B ∧ p.kind ≠ 0 then some (at_ (badcfg 0x018 (slotCx n cx))) else none,
      match p.drives pe cx with
      | some i => if stream ∧ (p.inRoute (epMtx i)).isNone then some (at_ (badcfg 0x022 i)) else none
      | none => none,
      if p.det ∧ nondet w then some (at_ (badcfg 0x014 (slotCx n cx))) else none]

/-! ### Checks of a page -/

/-- The ranges of reserved bytes in an image: first offset and count (R68-R75). -/
def reservedRanges : List (Nat × Nat) :=
  [(0x3D, 195)] ++ (tab 16 fun n => [(0x100 + 512 * n + 0x84, 4), (0x100 + 512 * n + 0xC4, 4), (0x100 + 512 * n + 0xD0, 304)]).flatten ++
  (tab 4 fun n => (0x2100 + 1024 * n + 0x218, 8)) ++ [(0x3101, 1), (0x320C, 4)] ++
  (tab 16 fun n => (0x6300 + 32 * n + 0xA, 22)) ++
  (tab 16 fun n => [(0x6500 + 128 * n + 4, 4), (0x6500 + 128 * n + 0x48, 56)]).flatten ++ [(0x6E00, 4608)]

/-- The first reserved byte that is not zero. -/
def firstReserved (img : List Byte) : Option Nat :=
  reservedRanges.findSome? fun (o, n) => ((List.range n).find? fun i => img.getD (o + i) 0 != 0).map (o + ·)

/-- A route's ends and steps stay in a half. A step north lowers the grid row and a step south raises it, row 0 of R421's
grid being the northern one (log 124). -/
def Page.routeInHalf (p : Page) (r : Route) : Bool :=
  let at_ (ep : Nat) : Nat × Nat := if ep = 0xFFFF then (if p.kind = 2 then (2, 3) else (1, 3)) else epPos p.kind ep
  let a := at_ r.src
  let step (y k : Nat) : Nat := match r.path / 16 ^ k % 16 with
    | 0 => y - 1
    | 2 => y + 1
    | _ => y
  let ys := if 256 ≤ r.ix then [a.1]
    else (List.range r.hops).foldl (fun ys k => ys ++ [step (ys.getLast?.getD a.1) k]) [a.1]
  ys.all (fun y => inHalf p.kind 4 y) && inHalf p.kind 4 (at_ r.dst).1

/-- HALFRES's detail for a page: what it names of the other half in its masks, drivers, route ends and logical edges, matrix
rows, adder nodes, lanes and paths (R8, R420). -/
def Page.halfBad (p : Page) : Option Nat :=
  if p.kind = 0 then none
  else
    let img := p.img
    let ends := (p.routes.filter fun r => r.ix < 512).flatMap (fun r => [r.src, r.dst]) ++ (ledges img).map (·.loc)
    let drvs := (List.range 2).filterMap fun i => (drvOf (recNat img (0x3102 + 2 * i) 2)).map (·.1)
    let pe := ((List.range 16).find? fun n => bitAt (recNat img 0x38 2) n && !inHalf p.kind 16 n).orElse fun _ =>
      (drvs ++ (ends.filter (· < 2 ^ 14)).map (· / 256)).find? fun n => !inHalf p.kind 16 n
    let me := ((List.range 4).find? fun n => bitAt (recNat img 0x3A 1) n && !inHalf p.kind 4 n).orElse fun _ =>
      ((ends.filter fun e => e / 2 ^ 14 == 1).map (· / 256 % 64)).find? fun n => !inHalf p.kind 4 n
    let row := if recNat img 0x3100 1 ≠ 0 ∨ bitAt (recNat img 0x3104 2) 15 then some 8 else none
    let lane := (List.range 32).find? fun i => bindV (recNat img (0x3210 + i) 1) && decide (8 ≤ i % 16)
    let node := if 128 ≤ recNat img 0x320A 2 then some (recNat img 0x320A 2) else none
    let rt := (p.routes.find? fun r => !p.routeInHalf r).map (·.ix)
    (((((pe.map (0x1000 + ·)).orElse fun _ => me.map (0x2000 + ·)).orElse fun _ => row.map (0x3000 + ·)).orElse fun _ =>
      node.map (0x4000 + ·)).orElse fun _ => lane.map (0x5000 + · % 16)).orElse fun _ => rt.map (0x6000 + ·)

/-- Latches a page's data routes need in its frame (R73). -/
def Page.latchNeed (p : Page) : Nat :=
  (p.routes.filter fun r => r.net != 3).foldl (fun n r => n + latchCount r.viaRouter r.hops) 0

/-- The route index two initial tokens share (R75). -/
def initDup (img : List Byte) : Option Nat :=
  let l := tab (min 16 (recNat img 0x3C 1)) fun k => (recNat img (0x6500 + 128 * k) 2, recNat img (0x6502 + 128 * k) 1)
  ((List.range l.length).find? fun i => (l.take i).contains (l.getD i (0, 0))).map fun i => (l.getD i (0, 0)).1

/-- A SAF in port takes a format: an integer of at most 32 bits, and no plane count, since it declares none (R94, R347). -/
def safTakes (ty pln : Nat) : Bool := ([0, 1, 2, 4, 5, 6] : List Nat).contains ty && pln == 0

/-- A route whose ends disagree on its format, or a SAF in port with a format it does not take (R94, R347). -/
def Page.fmtBad (p : Page) : Option Nat :=
  (p.routes.find? fun r => r.net != 3 && !r.viaRouter &&
    ((match p.declFmt true r.src, p.declFmt false r.dst with
      | some a, some b => a != b
      | _, _ => false) ||
     (r.dst / 2 ^ 14 == 2 && !safTakes r.ty r.pln))).map (·.ix)

/-- The physical range of an owner: its vault address when it lies whole in one vault's program rows on a die (R233). -/
def State.ownerRange (s : State) (die asid base len : Nat) : Option Nat :=
  match s.walk die asid base with
  | .error _ => none
  | .ok e =>
    let k := e.key base
    let whole := (List.range (len / 2 ^ 16 + 2)).all fun i =>
      let va := min (base + i * 2 ^ 16) (base + len - 1)
      match s.walk die asid va with
      | .ok t => t.key va == k + (va - base)
      | .error _ => false
    if 0 < len ∧ vaultKey ≤ k ∧ keyDie k = die ∧ (k - vaultKey) % 2 ^ 22 + len ≤ 0x380000 ∧ whole then some (k - vaultKey) else none

/-- The first ME whose owner range, as its image gives it, R233 refuses. -/
def State.ownerBad (s : State) (die : Nat) (p : Page) : Option Nat :=
  (List.range 4).find? fun i => match p.mes[i]? with
    | some m => m.present && m.ownOn && (s.ownerRange die p.asid (recNat p.img (0x2300 + 1024 * i) 8) m.ownLen).isNone
    | none => false

/-- A stream's header captured at load (R418). -/
def State.loadHeader (s : State) (die asid : Nat) (st : Stream) : Option ShapeHdr :=
  match s.readRec die asid none st.desc.shape 32 with
  | .ok (bs, _) => match hdrBad bs with
    | none => some (hdrOf bs)
    | some _ => none
  | .error _ => none

/-- A page with its streams' headers, owner ranges and graph read from memory. -/
def State.readPage (s : State) (die : Nat) (p : Page) : Page :=
  { p with
    mes := p.mes.map fun m => { m with
      ownBase := if m.present && m.ownOn then (s.ownerRange die p.asid m.ownBase m.ownLen).getD m.ownBase else m.ownBase
      streams := m.streams.map fun st =>
        if st.valid ∧ st.desc.shape ≠ 0 then { st with cap := s.loadHeader die p.asid st } else st } }

/-- The first stream whose record cannot be captured, or whose descriptor breaks R221, R226 or R227. -/
def Page.streamBad (p : Page) : Option Rej :=
  (List.range 16).findSome? fun si => match p.mes[si / 4]? with
    | none => none
    | some m => match m.streams[si % 4]? with
      | none => none
      | some st =>
        let rej (code : Nat) : Rej := { page := p.pidx, elem := 16 + si / 4, f := badcfg code si }
        let x := st.desc.xf m
        if !m.present ∨ !st.valid then none
        else if st.desc.shape ≠ 0 ∧ st.cap = none then some (rej 0x026)
        else if st.desc.bad (st.desc.eff st.cap x) x (p.streamNet si) then some (rej 0x019) else none

/-- The graph a page's SAF reference names, placed and bound (R71, R346, R347). -/
def State.loadGraph (s : State) (die : Nat) (p : Page) : Except FaultInfo Saf :=
  let b := (p.img.drop 0x3200).take 256
  let n := recNat b 8 2
  if n = 0 then .ok p.saf
  else if 256 < n then .error (badcfg 0x01F 256)
  else match s.readRec die p.asid none (recNat b 0 8) (8 * n) with
    | .error e => .error e
    | .ok (bs, _) => match graphFault (recWords bs) (safLanes p.kind) with
      | some e => .error e
      | none => match ({ p.saf with graphs := [] } : Saf).place p.kind (recWords bs) (some (recNat b 10 2)) with
        | .error e => .error e
        | .ok (h, saf) => match saf.graphs.find? fun g => g.handle = h with
          | none => .ok saf
          | some g =>
            let inb := tab 16 fun i => recNat b (16 + i) 1
            let outb := tab 16 fun i => recNat b (32 + i) 1
            match ({ p with saf := saf } : Page).bindFault g inb outb with
            | some e => if e.cls = clsBadcfg then .error e else .ok { saf with graphs := [g.bind inb outb] }
            | none => .ok { saf with graphs := [g.bind inb outb] }

/-- The value of an operand that no run changes: a constant of the image, or zero. -/
def Pe.constOf (e : Pe) (c : Nat) : Option Nat :=
  if c = 26 then some 0 else if 20 ≤ c ∧ c < 26 then some ((e.k.getD (c - 20) 0).toNat) else none

/-- The address of an atomic of a slot, where constants give it, so that the mint can decide on it (R235). -/
def Pe.atomVa (e : Pe) (w : Word) : Option Nat :=
  let a := e.constOf (field w 14 5).toNat
  match opcOf w with
  | 0x68 | 0x69 | 0x6A | 0x6C => a
  | 0x6B => match a, e.constOf (field w 9 5).toNat with
    | some x, some y => some ((x + y / 8) % 2 ^ 64)
    | _, _ => none
  | 0x62 => if fnOf w = 0 then a else none
  | _ => none

/-- A slot of an ordered task whose atomic has a constant address in HBM (ATOMORD, R235; log 93). -/
def State.atomOrd (s : State) (die : Nat) (p : Page) (x : Nat × Nat × Nat × Word) : Option Rej :=
  let (pe, n, cx, w) := x
  match (p.pes[pe]?).bind fun e => e.atomVa w with
  | none => none
  | some va => match s.walk die p.asid va with
    | .error _ => none
    | .ok t => if t.key va < vaultKey then
        some { page := p.pidx, elem := pe, slot := slotCx n cx, f := badcfg 0x01D (slotCx n cx) } else none

/-- The checks of a page after its words. -/
def State.pageRej (s : State) (die : Nat) (ordered : Bool) (p : Page) : Option Rej :=
  let at_ (f : FaultInfo) : Rej := { page := p.pidx, f := f }
  firstRej [
    (firstReserved p.img).map fun o => at_ (badcfg 0x027 o),
    p.halfBad.map fun d => at_ (badcfg 0x021 d),
    p.slotList.findSome? p.slotRej,
    if ordered then p.slotList.findSome? (s.atomOrd die p) else none,
    (List.range 2).findSome? fun i => if ((p.mtx.tens[i]?).bind (·.drv)).isSome ∧ p.tenRows i = 0 then
      some ({ page := p.pidx, elem := 20 + i, f := badcfg 0x016 0x80 } : Rej) else none,
    p.streamBad,
    (s.ownerBad die p).map fun i => ({ page := p.pidx, elem := 16 + i, f := badcfg 0x025 i } : Rej),
    match s.loadGraph die p with
    | .error e => some ({ page := p.pidx, elem := 22, f := e } : Rej)
    | .ok _ => none,
    (initDup p.img).map fun i => at_ (badcfg 0x028 i),
    if (if p.kind = 0 then 256 else 128) < p.latchNeed then some (at_ (badcfg 0x020 p.latchNeed)) else none]

/-! ### Checks of a region -/

/-- The first edge or route whose formats disagree (R94): edges in order of number, then routes. -/
def edgeRej (ps : List Page) (edges : List Edge) : Option Rej :=
  let bad (e : Edge) : Bool :=
    let f := (e.ty, e.pln)
    let one (p : Option Page) (out : Bool) (ep : Nat) : Bool := match p.bind fun p => p.declFmt out ep with
      | some g => g != f
      | none => (ep / 2 ^ 14 == 2) && !safTakes e.ty e.pln
    let le (p : Option Page) (dir : Nat) : Bool := match p with
      | some p => (ledges p.img).any fun l => l.num == e.num && l.dir == dir && (l.ty, l.pln) != f
      | none => false
    one ps[e.sp]? true e.se || one ps[e.dp]? false e.de || le ps[e.sp]? 0 || le ps[e.dp]? 1
  let worst := edges.foldl (fun (m : Option Edge) e => if bad e then (match m with
    | some x => if e.num < x.num then some e else m
    | none => some e) else m) none
  match worst with
  | some e => some { page := e.sp, f := badcfg 0x012 e.num }
  | none => ps.findSome? fun p => p.fmtBad.map fun i => { page := p.pidx, f := badcfg 0x012 i }

/-- An arc of the region graph (R268): page, node and out port, page and node, whether it holds an initial token. -/
structure Arc where
  sp : Nat
  sn : Nat
  port : Nat
  dp : Nat
  dn : Nat
  init : Bool
  deriving DecidableEq, Repr

/-- The node of an endpoint: PE 0-15, stream 16-31, SAF in port 32-33, tenant 48-49. A SAF out port belongs to the in port of
its graph. -/
def Page.nodeOf (p : Page) (out : Bool) (ep : Nat) : Nat :=
  let i := ep / 256 % 64
  match ep / 2 ^ 14 with
  | 0 => i
  | 1 => 16 + 4 * i + ep % 16
  | 2 => if out then 32 + ((p.saf.graphs.find? fun g => boundPort g.outb == some (ep % 16)).bind fun g => boundPort g.inb).getD (ep % 16)
         else 32 + ep % 16
  | _ => 48 + ep % 16

/-- The arcs of a region: routes within pages, and edges; control routes only where asked for (R267, R268). -/
def arcsOf (ctl : Bool) (ps : List Page) (edges : List Edge) : List Arc :=
  (ps.flatMap fun p => (p.routes.filter fun r => (ctl || r.net != 3) && !r.viaRouter).map fun r =>
    ({ sp := p.pidx, sn := p.nodeOf true r.src, port := r.src % 16, dp := p.pidx, dn := p.nodeOf false r.dst, init := r.back } : Arc)) ++
  edges.filterMap fun e => match ps[e.sp]?, ps[e.dp]? with
    | some a, some b => some { sp := e.sp, sn := a.nodeOf true e.se, port := e.se % 16, dp := e.dp, dn := b.nodeOf false e.de
                               init := e.init != 0 || b.routes.any fun r => r.viaRouter && r.edge == some e.num && r.back }
    | _, _ => none

/-- The arcs out of a node, out ports rising. -/
def arcsFrom (l : List Arc) (n : Nat × Nat) : List Arc :=
  (List.range 16).flatMap fun q => l.filter fun a => a.sp == n.1 && a.sn == n.2 && a.port == q

/-- A depth-first search for a closing arc: the path with the arcs still to follow at each node, and the nodes seen. -/
def dfs (l : List Arc) : Nat → List ((Nat × Nat) × List Arc) → List (Nat × Nat) → Except (List (Nat × Nat)) Arc
  | 0, _, seen => .error seen
  | _, [], seen => .error seen
  | k + 1, (_, []) :: up, seen => dfs l k up seen
  | k + 1, (n, a :: rest) :: up, seen =>
    let t := (a.dp, a.dn)
    if t = n ∨ up.any (fun x => x.1 == t) then .ok a
    else if seen.contains t then dfs l k ((n, rest) :: up) seen
    else dfs l k ((t, arcsFrom l t) :: (n, rest) :: up) (t :: seen)

/-- The first cycle without an initial token (R268): page, element and out port where it closes. -/
def cycleRej (ps : List Page) (edges : List Edge) : Option Rej :=
  let l := (arcsOf false ps edges).filter fun a => !a.init
  let nodes := (List.range ps.length).flatMap fun p => (List.range 50).map fun n => (p, n)
  let r := nodes.foldl (fun (acc : Except (List (Nat × Nat)) Arc) n => match acc with
    | .ok a => .ok a
    | .error seen => if seen.contains n then .error seen
        else dfs l (2 * l.length + 2 * nodes.length + 2) [(n, arcsFrom l n)] (n :: seen)) (.error [])
  match r with
  | .error _ => none
  | .ok a => some { page := a.sp, f := badcfg 0x01B (a.port % 4)
                    elem := if a.sn < 16 then a.sn else if a.sn < 32 then 16 + (a.sn - 16) / 4 else if a.sn < 48 then 22 else a.sn - 28 }

/-- The nodes a node's tokens reach. -/
def reachFrom (l : List Arc) : Nat → List (Nat × Nat) → List (Nat × Nat)
  | 0, acc => acc
  | k + 1, acc =>
    let new := ((l.filter fun a => acc.contains (a.sp, a.sn)).map fun a => (a.dp, a.dn)).filter fun n => !acc.contains n
    if new = [] then acc else reachFrom l k (acc ++ new.eraseDups)

/-- A writer of R267: its code, its nodes, and the byte range of a store stream. -/
structure Writer where
  code : Nat
  page : Nat
  nodes : List Nat
  range : Option (Nat × Nat)
  deriving DecidableEq, Repr

/-- A word that makes its context a writer (R267). -/
def writesBuffer (w : Word) : Bool :=
  let fn := fnOf w
  let fl := tyFloat (field w 0 4).toNat
  match opcOf w with
  | 0x59 | 0x5B | 0x43 | 0x6A | 0x6B | 0x6C => true
  | 0x5F => fn == 0 || fl
  | 0x68 | 0x69 => fn == 6 || fl
  | _ => false

/-- The bytes a store stream can write. -/
def Stream.bytesOf (st : Stream) (m : Me) : Nat × Nat :=
  let e := st.desc.eff st.cap (st.desc.xf m)
  let a := 8 * st.desc.base + st.desc.boff
  (a / 8, (a + (e.rows - 1) * e.pitch + e.width * e.ew + 7) / 8)

/-- The writers of a region, in R267's order. -/
def writersOf (ps : List Page) : List Writer :=
  ps.flatMap fun p =>
    ((List.range 16).flatMap fun pe => (List.range 4).filterMap fun cx =>
      if p.slotList.any fun x => x.1 == pe && x.2.2.1 == cx && writesBuffer x.2.2.2 then
        some { code := p.pidx * 256 + cx * 16 + pe, page := p.pidx, nodes := [pe], range := none } else none) ++
    ((List.range 16).filterMap fun si => match p.mes[si / 4]? with
      | some m => match m.streams[si % 4]? with
        | some st => if m.present ∧ st.valid ∧ st.desc.isStore then
            some { code := p.pidx * 256 + 128 + si, page := p.pidx, nodes := tab 4 fun j => 16 + si / 4 * 4 + j, range := some (st.bytesOf m) }
          else none
        | none => none
      | none => none)

/-- The first pair of writers of one declared buffer that no path orders (R267). -/
def raceRej (ps : List Page) (edges : List Edge) : Option Rej :=
  let l := arcsOf true ps edges
  let ws := writersOf ps
  let buffers := ws.any (·.range.isSome) || ps.any fun p => p.mes.any fun m => m.present && m.ownOn
  let reach (w : Writer) : List (Nat × Nat) :=
    let start := w.nodes.map fun n => (w.page, n)
    reachFrom l (l.length + 1) (((l.filter fun a => start.contains (a.sp, a.sn)).map fun a => (a.dp, a.dn)).eraseDups)
  let hits (a b : Writer) : Bool := (reach a).any fun n => n.1 == b.page && b.nodes.contains n.2
  let clash (a b : Writer) : Bool := match a.range, b.range with
    | some x, some y => decide (x.1 < y.2) && decide (y.1 < x.2)
    | _, _ => buffers
  (List.range ws.length).findSome? fun i => match ws[i]? with
    | none => none
    | some a => (ws.drop (i + 1)).findSome? fun b =>
        if clash a b && !hits a b && !hits b a then some { page := a.page, f := badcfg 0x01A (a.code * 2 ^ 16 + b.code) } else none

/-- A slot may consume what `MRG.ARR` sends in a deterministic region (R128). -/
def mergeOk (w : Word) : Bool :=
  let ty := (field w 0 4).toNat
  decide (ty < 8) && (match opcOf w, fnOf w with
    | 0x01, 0 => true
    | 0x0A, _ => true
    | 0x07, fn => decide (fn < 3)
    | 0x2D, fn => decide (fn < 3)
    | 0x2C, _ => true
    | _, _ => false)

/-- Every consumer at an in endpoint accepts merged tokens. -/
def Page.mergeSink (p : Page) (ep : Nat) : Bool :=
  ep / 2 ^ 14 == 0 && p.slotList.all fun x => x.1 != ep / 256 || !(guardOf x.2.2.2).cr.getLsbD (ep % 16) ||
    (guardOf x.2.2.2).pk == 1 || mergeOk x.2.2.2

/-- A `MRG.ARR` whose merged order could be seen (R128). -/
def mergeRej (ps : List Page) (edges : List Edge) : Option Rej :=
  ps.findSome? fun p => p.slotList.findSome? fun (pe, n, cx, w) =>
    if !p.det ∨ opcOf w ≠ 0x1C ∨ fnOf w ≠ 0 then none
    else
      let ep := epPe pe ((field w 19 5).toNat - 16)
      let near := p.routes.all fun r => r.src != ep || r.net == 3 || r.viaRouter || p.mergeSink r.dst
      let far := edges.all fun e => e.sp != p.pidx || e.se != ep || ((ps[e.dp]?).map fun q => q.mergeSink e.de).getD true
      if near && far then none else some { page := p.pidx, elem := pe, slot := slotCx n cx, f := badcfg 0x014 (slotCx n cx) }

/-- The region has no sink (R269). -/
def sinkRej (ps : List Page) : Option Rej :=
  if ps.any fun p => p.mes.any fun m => m.present && m.streams.any fun st => st.valid && st.desc.isStore then none
  else some { page := 0, f := badcfg 0x011 0 }

/-- The checks of a whole region: words of every page, then pages, then edges and the graph (R44, R94). -/
def State.regionRej (s : State) (die : Nat) (ps : List Page) (edges : List Edge) (det ordered : Bool) : Option Rej :=
  firstRej [
    ps.findSome? Page.wordRej,
    ps.findSome? (s.pageRej die ordered),
    edgeRej ps edges,
    mergeRej ps edges,
    cycleRej ps edges,
    if det then raceRej ps edges else none,
    sinkRej ps]

/-! ## Loading (R44, R331, R335, R404) -/

/-- A page's image read; the fault otherwise. -/
def State.readImage (s : State) (die asid addr : Nat) : Except FaultInfo (List Byte) :=
  match s.readRec die asid none addr 0x10000 with
  | .ok (b, _) => .ok b
  | .error e => .error e

/-- The pages of a region as the mint makes them, or the fault of an image that cannot be read. -/
def State.mintPages (s : State) (r : Region) (d : RDesc) : Except Rej (List Page) :=
  (List.range d.imgs.length).foldl (fun (acc : Except Rej (List Page)) i => match acc with
    | .error e => .error e
    | .ok l => match s.readImage r.die r.asid ((d.imgs.getD i (0, 0, 0)).1) with
      | .error f => .error { page := i, f := f }
      | .ok img => .ok (l ++ [s.readPage r.die (pageOf s.fc d r i ((d.imgs.getD i (0, 0, 0)).2.1) img)])) (.ok [])

/-- A page with its graph placed. -/
def State.graphed (s : State) (die : Nat) (p : Page) : Page :=
  match s.loadGraph die p with
  | .ok saf => { p with saf := saf }
  | .error _ => p

/-- What the mint finds wrong with a whole region, as `TASK.LNCH` asks of every step of a sequence (R333). -/
def State.mintRej (s : State) (r : Region) (d : RDesc) : Option Rej :=
  match s.mintPages r d with
  | .error e => some e
  | .ok ps => s.regionRej r.die (ps.map (s.graphed r.die)) d.edges (r.det || ps.any (·.det)) r.ordered

/-- A region is deterministic, or rollback-enabled, where its descriptor or a page of it says so (R69, R75, R76; log 123). -/
def Region.flagged (r : Region) (p : Page) : Region :=
  { r with det := r.det || p.det, rollback := r.rollback || p.rollback }

/-- A region before any of its pages is loaded. -/
def Region.make (key ptn lseq inst asid : Nat) (desc : Nat) (d : RDesc) (rc : TaskRec) (e : Nat) : Region where
  key := key
  die := d.die
  ptn := ptn
  lseq := lseq
  inst := inst
  st := .loading
  desc := desc
  det := bitAt d.flags 0
  rollback := bitAt d.flags 1
  edges := d.edges
  imgs := d.imgs
  pages := d.imgs.map fun _ => none
  loaded := 0
  asid := asid
  ts := if rc.ts = tsFree then tsFree else rc.ts + e * (rc.hi - rc.lo)
  ordered := decide (rc.ts ≠ tsFree)
  lo := rc.lo
  hi := rc.hi
  next := rc.lo
  issued := []
  tts := []
  rerun := []
  escCap := (if rc.esc = 0 then 1 else rc.esc) * 2 ^ 14
  completed := 0
  drain := false
  quiet := 0
  stirred := false
  swept := false
  fl := List.replicate 4 0
  tcq := []
  cut := 0
  cutBad := false
  stopAt := 0
  stopBy := none
  watchdog := 94000
  decided := 0
  persist := rc.persist
  cur := if rc.persist then rc.lo + inst * (rc.hi - rc.lo) / max 1 rc.copies else rc.lo
  lim := if rc.persist then rc.lo + (inst + 1) * (rc.hi - rc.lo) / max 1 rc.copies else rc.hi
  stealq := []
  finished := false
  armAddr := rc.graph
  armIx := 0
  armEnd := false
  armBad := false
  withheld := false

/-- The frame half a region's page goes to. -/
def State.frameFor (s : State) (r : Region) (page : Nat) : Option Nat :=
  match s.taskOfRegion r with
  | none => none
  | some k =>
    if k.trec.seq then (k.frames[page]?).map fun f => f + if ((r.imgs[page]?).map (·.2.1)) = some 2 then 1 else 0
    else k.frames[r.inst * r.imgs.length + page]?

/-- A rejected load: one record, and the task ends FAULTED. -/
def State.reject (s : State) (r : Region) (e : Rej) : State :=
  let kind := ((r.imgs[e.page]?).map (·.2.1)).getD 0
  let o : Origin := { die := r.die, kind := 7, half := kind, frame := ((s.frameFor r e.page).map frameOfPage).getD 0, page := e.page
                      elem := e.elem, slotcx := e.slot, asid := r.asid, ptn := r.ptn }
  (s.mail o e.f 0).endTask r.ptn r.lseq 3

/-- A page placed into its half-frame: a page of another region that drained or ended there leaves it (R404). -/
def State.placePage (s : State) (pg : Nat) (p : Page) : State :=
  let s := s.vacate pg
  let base := pg / 2 * 2
  let whole := ((s.page? base).map fun q => q.kind == 0).getD false
  let s := if base ≠ pg ∧ whole then s.vacate base else s
  let s := if p.kind = 0 then s.vacate (pg + 1) else s
  { s with pages := s.pages ++ [(pg, p)] }

/-- A page with the statistics its task was configured for (R385). -/
def State.withStats (s : State) (r : Region) (page : Nat) (p : Page) : Page :=
  match (s.taskOfRegion r).bind fun k => alGet page k.stats with
  | some x => { p with stat := some x }
  | none => p

/-- The mint's page in hand is written: it is done with it. -/
def State.mintFree (s : State) (die : Nat) : State := s.modDie die fun d => { d with mint := none }

/-- The descriptor a region runs, as far as loading needs it. -/
def Region.rdesc (r : Region) : RDesc :=
  ⟨r.die, (if r.det then 1 else 0) + (if r.rollback then 2 else 0), r.imgs, r.edges, [], []⟩

/-- `MINT_LOAD` (R44, R94, R331): a page image is read, checked and placed into its frame; with the last page the whole
region is checked. -/
def execMintLoad (rg page : Nat) (s : State) : Out :=
  match s.region? rg with
  | none => .next s
  | some r => match (s.die r.die).mint with
    | none => .next s
    | some (g, i, sh, t) =>
      if g ≠ rg ∨ i ≠ page ∨ sh ∨ s.fc < t ∨ r.st ≠ .loading then .next s
      else
        let s := s.mintFree r.die
        match s.readImage r.die r.asid ((r.imgs.getD page (0, 0, 0)).1), s.frameFor r page with
        | .error f, _ => .next (s.reject r { page := page, f := f })
        | .ok _, none => .next s
        | .ok img, some pg =>
          let p := s.graphed r.die (s.readPage r.die (pageOf s.fc r.rdesc r page ((r.imgs.getD page (0, 0, 0)).2.1) img))
          match p.wordRej with
          | some e => .next (s.reject r e)
          | none =>
            let s := (s.placePage pg (s.withStats r page p)).modRegion rg fun r =>
              { r.flagged p with pages := r.pages.set page (some pg), loaded := r.loaded + 1 }
            if r.loaded + 1 < r.imgs.length then .next s
            else match s.mintRej r r.rdesc with
              | some e => .next (s.reject r e)
              | none => .next s

/-- Sinks marked as a region arms (R269), its owner ranges entered (R233). -/
def Page.armed (p : Page) : Page :=
  { p with mes := p.mes.map fun m => { m with
      armed := m.present && m.ownOn
      streams := m.streams.map fun st => { st with sink := m.present && st.valid && st.desc.isStore, reported := false } } }

/-- The ME of a region whose owner range overlaps an armed owner of the die (OWNOVL). -/
def State.ownerClash (s : State) (r : Region) : Option Rej :=
  let mine := (s.pagesOf r).flatMap fun (_, p) => (List.range 4).filterMap fun i => match p.mes[i]? with
    | some m => if m.present ∧ m.ownOn then some (p.pidx, i, m.ownBase, m.ownLen) else none
    | none => none
  let others := s.pages.flatMap fun (k, p) => if dieOfPage k = r.die ∧ p.rg ≠ r.key then
    (p.mes.filter fun m => m.ownOn && m.armed).map fun m => (m.ownBase, m.ownLen) else []
  let overlap (a la b lb : Nat) : Bool := decide (a < b + lb) && decide (b < a + la)
  (List.range mine.length).findSome? fun j => match mine[j]? with
    | none => none
    | some (pi, i, b, l) =>
      if others.any (fun o => overlap b l o.1 o.2) || (mine.take j).any (fun o => overlap b l o.2.2.1 o.2.2.2) then
        some { page := pi, elem := 16 + i, f := badcfg 0x01C i } else none

/-- The die's owner directory of 64 entries has room for a region's owner ranges (R233; log 125). -/
def State.ownerRoom (s : State) (r : Region) : Bool :=
  let n (f : Page → Bool) : Nat := (s.pages.filter fun (k, p) => dieOfPage k == r.die && f p).foldl
    (fun n (_, p) => n + (p.mes.filter fun m => m.present && m.ownOn && (m.armed || p.rg == r.key)).length) 0
  decide (n (fun _ => true) ≤ 64)

/-! ## What the mint does next (R331, R335, R336) -/

/-- The step that follows the running one. -/
def Task.nextStep (k : Task) : Nat := k.pending.getD (k.step + 1)

/-- The next step of a running sequence is filled into the shadow banks. -/
def Task.fills (k : Task) : Bool :=
  k.trec.seq && k.st == .running && !k.cancelled && (k.pending.isSome || decide (k.step + 1 < k.steps.length))

/-- A fill begins, or begins again for another step (R336). -/
def Task.startFill (k : Task) (fc : Nat) : Task :=
  if !k.fills then k
  else match k.fill with
    | some (j, _, _) => if j = k.nextStep then k else { k with fill := some (k.nextStep, 0, fc) }
    | none => { k with fill := some (k.nextStep, 0, fc) }

/-- A fill begins again for another step, or was discarded: the mint's page in hand for it is dropped (R336). -/
def State.refill (s : State) (k : Task) : State :=
  let stale := match k.fill with
    | some (j, _, _) => j != k.nextStep
    | none => true
  if !stale then s
  else { s with dies := s.dies.map fun d =>
    match d.mint with
    | some (rg, _, true, _) => if k.rgs.contains rg then { d with mint := none } else d
    | _ => d }

/-- The next page a region asks the mint for: its own next page, or the next page of a fill. -/
def State.mintJob (s : State) (r : Region) : Option (Nat × Bool) :=
  if r.st = .loading then if r.loaded < r.imgs.length then some (r.loaded, false) else none
  else match s.taskOfRegion r with
    | none => none
    | some k => if !k.fills then none
      else match k.fill with
        | none => none
        | some (j, n, _) => match s.readRegion k.die k.asid (k.steps.getD j 0) with
          | some d => if n < d.imgs.length then some (n, true) else none
          | none => none

/-- A mint with nothing in hand takes the next page, which is written 1,024 fc later. -/
def State.mintNext (s : State) (die : Nat) (d : Die) : Die :=
  if d.mint.isSome then d
  else
    let jobs := s.regions.filterMap fun (x : Nat × Region) =>
      if x.2.die = die then (s.mintJob x.2).map fun j => (x.1, j.1, j.2, s.fc + 1023) else none
    { d with mint := jobs.foldl (fun best j => match best with
        | none => some j
        | some b => if j.1 < b.1 then some j else some b) none }

/-- The mints with nothing in hand take their next pages, counted from this fc on; fills that are wanted begin. -/
def State.mintOn (s : State) : State :=
  let s := s.tasks.foldl State.refill s
  let s := { s with tasks := s.tasks.map fun (k : Task) => k.startFill s.fc }
  { s with dies := s.dies.mapIdx fun i d => s.mintNext i d }

/-- A region is armed (R331, R404); the fill of a sequence's next step begins in the same fc (R335). -/
def State.arm (s : State) (rg : Nat) : State :=
  match s.region? rg with
  | none => s
  | some r =>
    let s := r.keys.foldl (fun s k => s.modPage k Page.armed) s
    (s.modRegion rg fun r => { r with st := .armed, watchdog := (s.die r.die).watchdog }).mintOn

/-- `REGION_ARM` (R331, R233): every page is loaded; owner ranges enter the die's directory. -/
def execRegionArm (rg : Nat) (s : State) : Out :=
  match s.region? rg with
  | none => .next s
  | some r =>
    if r.st ≠ .loading ∨ r.loaded < r.imgs.length then .next s
    else match s.ownerClash r with
      | some e => .next (s.reject r e)
      | none => if s.ownerRoom r then .next (s.arm rg) else .next s

/-! ## Configuration sequences (R334-R336) -/

/-- Shadow pages in a task's frames, once every page of the next step is filled. -/
def State.shadowReady (s : State) (k : Task) : Bool :=
  match k.fill with
  | some (j, n, _) => j == k.nextStep && ((s.readRegion k.die k.asid (k.steps.getD j 0)).map fun d => decide (d.imgs.length ≤ n)).getD false
  | none => false

/-- `SHADOW_FILL_COMPLETE` (R335, R336): the mint has written one more page of the next step into its frame's shadow bank;
another step than the one wanted begins the fill again. -/
def execShadowFillComplete (rg : Nat) (s : State) : Out :=
  match (s.region? rg).bind fun r => (s.taskOfRegion r).map fun k => (r, k) with
  | none => .next s
  | some (r, k) => match (s.die r.die).mint with
    | none => .next s
    | some (g, i, sh, t) =>
      if g ≠ rg ∨ !sh ∨ s.fc < t then .next s
      else
        let s := s.mintFree r.die
        match s.readRegion k.die k.asid (k.steps.getD k.nextStep 0), k.fill with
        | some d, some (j, n, _) =>
          if j ≠ k.nextStep ∨ i ≠ n then .next s
          else
            let r' := Region.make r.key r.ptn r.lseq 0 r.asid (k.steps.getD j 0) d k.trec (k.execs + 1)
            match s.readImage r.die r.asid ((d.imgs.getD i (0, 0, 0)).1), s.frameFor r' i with
            | .ok img, some pg =>
              let p := s.graphed r.die (s.readPage r.die (pageOf s.fc d r' i ((d.imgs.getD i (0, 0, 0)).2.1) img))
              .next ({ s with shadows := alSet pg (s.withStats r i p) s.shadows }.modTask k.ptn k.lseq fun k => { k with fill := some (j, n + 1, s.fc) })
            | _, _ => .next s
        | _, _ => .next s

/-- An execution that would take a timestamp at or above all ones (R334). -/
def Task.wraps (k : Task) : Bool :=
  decide (k.trec.ts ≠ tsFree) && decide (tsFree ≤ k.trec.ts + (k.execs + 1) * (k.trec.hi - k.trec.lo) + k.trec.hi - 1)

/-- A page leaves its frame's active bank; the shadow bank stays. Its bank tokens went when it drained (R237). -/
def State.removePageOnly (s : State) (pg : Nat) : State :=
  let s := s.purgePage pg
  { s with pages := alDel pg s.pages }

/-- A sequence's step has drained and the next one is ready, or the sequence cannot take its next timestamps (R334, R335). -/
def State.swapDue (s : State) (r : Region) : Bool :=
  match s.taskOfRegion r with
  | some k => k.goesOn && s.taskDrained k && (k.wraps || s.shadowReady k)
  | none => false

/-- `SEQUENCE_SWAP` (R334, R335): the step has drained and the shadow is filled; every frame swaps its banks and the next
step's region is armed, or the task ends with TSWRAP. -/
def execSequenceSwap (rg : Nat) (s : State) : Out :=
  match (s.region? rg).bind fun r => (s.taskOfRegion r).map fun k => (r, k) with
  | none => .next s
  | some (r, k) =>
    if !k.goesOn ∨ !s.taskDrained k then .next s
    else if k.wraps then .next ((s.modTask k.ptn k.lseq fun k => { k with execs := k.execs + 1 }).endTask k.ptn k.lseq 2)
    else if !s.shadowReady k then .next s
    else match s.readRegion k.die k.asid (k.steps.getD k.nextStep 0) with
      | none => .next s
      | some d =>
        let r' := Region.make r.key r.ptn r.lseq 0 r.asid (k.steps.getD k.nextStep 0) d k.trec (k.execs + 1)
        let put := (List.range d.imgs.length).map fun i => s.frameFor r' i
        let r' := (put.filterMap fun x => x.bind fun pg => alGet pg s.shadows).foldl Region.flagged r'
        let s := r.keys.foldl (fun s pg => s.removePageOnly pg) s
        let s := put.foldl (fun s x => match x with
          | some pg => match alGet pg s.shadows with
            | some p => { s with pages := s.pages ++ [(pg, p)], shadows := alDel pg s.shadows }
            | none => s
          | none => s) s
        let s := { s with regions := alSet rg { r' with pages := put, loaded := d.imgs.length } s.regions }
        let s := s.modTask k.ptn k.lseq fun k =>
          { k with step := k.nextStep, execs := k.execs + 1, pending := none, fill := none, tiles := k.tiles + r.completed }
        match (s.region? rg).bind s.ownerClash with
        | some e => .next (s.reject r' e)
        | none => .next (s.arm rg)

end Sys2Proof.Machine
end

