-- ==== Sys2Proof/Machine/Task.lean ====
section
/-!
DEFINITION. The region scheduler and its words, opcode 0x79 (R313, R318, R321, R325-R331, R333, R336, R353, R354, R358-R361).
-/

namespace Sys2Proof.Machine

/-! ## Task records (R325, R326) -/

/-- A task record's fields. -/
def trecOf (b : List Byte) : TaskRec where
  region := recNat b 0 8
  graph := recNat b 8 8
  ts := recNat b 0x10 8
  lo := recNat b 0x18 4
  hi := recNat b 0x1C 4
  asid := recNat b 0x20 2
  prio := recNat b 0x22 1
  persist := bitAt (recNat b 0x23 1) 0
  backfill := bitAt (recNat b 0x23 1) 1
  seq := bitAt (recNat b 0x23 1) 2
  cgroup := recNat b 0x24 1
  esc := recNat b 0x25 1
  ndep := recNat b 0x26 1
  copies := recNat b 0x27 1
  deps := recNat b 0x28 8

/-- A record's own fields break R325; an ASID must be one of the partition's (log 36). -/
def trecBad (b : List Byte) (asids : List Nat) : Bool :=
  let r := trecOf b
  decide (r.hi ≤ r.lo) || decide (3 < r.prio) || decide (7 < recNat b 0x23 1) || decide (8 < r.esc) || decide (8 < r.ndep) ||
  decide (8 < r.copies) || (!r.persist && decide (1 < r.copies)) || (r.ndep == 0 && r.deps != 0) || r.deps % 8 != 0 ||
  recNat b 0x30 8 != 0 || (r.asid != 0 && !asids.contains r.asid)

/-- A dependence entry: kind, tag, page, the reserved field, address. -/
structure Dep where
  kind : Nat
  tag : Nat
  page : Nat
  zero : Nat
  addr : Nat
  deriving DecidableEq, Repr

def depOf (b : List Byte) : Dep := ⟨recNat b 0 2, recNat b 2 2, recNat b 4 2, recNat b 6 2, recNat b 8 8⟩

/-- A dependence entry breaks R326. -/
def Dep.bad (d : Dep) (pages : Nat) : Bool :=
  d.zero != 0 || (match d.kind with
    | 1 => d.tag != 0 || d.page != 0
    | 2 => decide (pages ≤ d.page)
    | _ => true)

/-- A record's dependence entries; none where they cannot be read. -/
def State.depsOf (s : State) (die asid : Nat) (r : TaskRec) : Option (List Dep) :=
  if r.ndep = 0 then some []
  else match s.readRec die asid none r.deps (16 * r.ndep) with
    | .ok (b, _) => some (tab r.ndep fun i => depOf ((b.drop (16 * i)).take 16))
    | .error _ => none

/-- The region addresses of a sequence table and its die (R333). -/
def State.readSeq (s : State) (die asid va : Nat) : Option (Nat × List Nat) :=
  match s.readRec die asid none va 16 with
  | .error _ => none
  | .ok (h, _) =>
    let n := recNat h 0 2
    if n = 0 ∨ 64 < n ∨ 7 < recNat h 2 1 ∨ recNat h 3 8 ≠ 0 ∨ recNat h 11 5 ≠ 0 then none
    else match s.readRec die asid none (va + 16) (8 * n) with
      | .error _ => none
      | .ok (b, _) => some (recNat h 2 1, tab n fun i => recNat b (8 * i) 8)

/-! ## Launching (R327, R328) -/

/-- What a launch has found out about a record: die, regions by step. -/
structure Launch where
  die : Nat
  steps : List Nat
  regions : List RDesc
  deriving DecidableEq, Repr

/-- A step's descriptor passes R76; a sequence's passes every check of the mint as well (R333). -/
def State.stepOk (s : State) (ptn asid : Nat) (r : TaskRec) (va : Nat) (d : RDesc) : Bool :=
  !d.bad && s.regionHash asid d == some d.hash &&
  (!r.seq || (s.mintRej (Region.make 0 ptn 0 0 asid va d r 0) d).isNone)

/-- The regions a record names, or none: BADREC. -/
def State.launchOf (s : State) (die ptn asid : Nat) (r : TaskRec) : Option Launch :=
  let steps : Option (Nat × List Nat) :=
    if r.seq then s.readSeq die asid r.region
    else (s.readRegion die asid r.region).map fun d => (d.die, [r.region])
  match steps with
  | none => none
  | some (sd, vs) =>
    let ds := vs.filterMap fun va => s.readRegion die asid va
    if ds.length = vs.length ∧ ds.all (fun d => d.die == sd) ∧
        (vs.zip ds).all (fun x => s.stepOk ptn asid r x.1 x.2) then some ⟨sd, vs, ds⟩ else none

/-- Half-frames of a launch (R329's text before it). -/
def Launch.need (l : Launch) (r : TaskRec) : Nat :=
  if r.seq then 2 * (l.regions.foldl (fun n d => max n d.imgs.length) 0)
  else max 1 r.copies * ((l.regions.head?).map RDesc.need).getD 0

/-- Pages a dependence entry may name. -/
def Launch.pages (l : Launch) (r : TaskRec) : Nat :=
  (if r.seq then 1 else max 1 r.copies) * (l.regions.foldl (fun n d => max n d.imgs.length) 0)

/-- The queue of a die bound to a partition and priority (R327, R390). -/
def State.queueFor (s : State) (die ptn prio : Nat) : Option Nat :=
  (List.range 16).find? fun q => match (s.die die).lqBind[q]? with
    | some b => b.getLsbD 15 && bits b.toNat 9 8 == prio && bits b.toNat 7 0 == ptn
    | none => false

/-- The half-frames a partition owns on a die. -/
def State.ownHalves (s : State) (ptn die : Nat) : List Nat :=
  (((s.ptn? ptn).map (·.res.halves)).getD []).filter fun h => h / 512 == die

/-- The status of R328 and what the launch names. -/
def State.lnchStatus (s : State) (die ptn asid : Nat) (b : List Byte) : Nat × Option Launch :=
  let r := trecOf b
  let p := s.ptn? ptn
  if trecBad b ((p.map (·.res.asids)).getD []) then (1, none)
  else match s.launchOf die ptn asid r, s.depsOf die asid r with
    | some l, some ds =>
      if ds.any fun d => d.bad (l.pages r) then (1, none)
      else if (s.queueFor l.die ptn r.prio).isNone then (2, none)
      else if r.ts ≠ tsFree ∧ r.ts + r.lo < (p.map (·.floor)).getD 0 then (3, none)
      else if r.ts ≠ tsFree ∧ tsFree ≤ r.ts + r.hi - 1 then (4, none)
      else if (s.ownHalves ptn l.die).length < l.need r then (5, none)
      else if l.regions.any fun d => bitAt d.flags 0 && !((p.map (·.hashes)).getD []).contains d.hash then (6, none)
      else if l.regions.any (fun d => bitAt d.flags 0) ∧ r.persist ∧ 1 < r.copies then (7, none)
      else (0, some l)
    | _, _ => (1, none)

/-- A status word (R358). -/
def statusWord (st h : Nat) : Word := w64 (st * 2 ^ 56 + h % 2 ^ 56)

/-- A task word is answered with a status; the outcome is whether it was accepted. -/
def State.status (s : State) (f : Flight) (st h : Nat) : State :=
  s.performVal f (statusWord st (if st = 0 then h else 0)) (st == 0) (st != 0)

/-- A launch queue replaced; a new head starts waiting now (R329). -/
def Die.setQueue (d : Die) (fc q : Nat) (l : List LqEnt) : Die :=
  let old := ((d.lq.getD q []).head?).map fun e => (e.ptn, e.lseq)
  let l := match l with
    | [] => []
    | e :: t => if some (e.ptn, e.lseq) = old then e :: t else { e with since := fc, aged := 0 } :: t
  { d with lq := d.lq.set q l }

/-- A record enters a queue's tail. -/
def State.lqPush (s : State) (die q ptn lseq : Nat) : State :=
  s.modDie die fun d => d.setQueue s.fc q (d.lq.getD q [] ++ [⟨ptn, lseq, s.fc, 0⟩])

/-- A record leaves its queue. -/
def State.lqDrop (s : State) (die q ptn lseq : Nat) : State :=
  s.modDie die fun d => d.setQueue s.fc q ((d.lq.getD q []).filter fun e => e.ptn != ptn || e.lseq != lseq)

/-- A record that passed its checks is launched (R327). -/
def State.launchTask (s : State) (f : Flight) (b : List Byte) (l : Launch) (q : Nat) : State :=
  let r := trecOf b
  let n := ((s.ptn? f.ptn).map (·.lseq)).getD 0 + 1
  let k : Task := { ptn := f.ptn, lseq := n, die := l.die, addr := f.sa.toNat, recAsid := f.asid
                    asid := if r.asid = 0 then f.asid else r.asid
                    issuer := f.who, queue := q, stats := [], trec := if r.seq then { r with copies := 1 } else r
                    st := .queued, rgs := [], steps := l.steps
                    step := 0, execs := 0, pending := none, frames := [], fill := none, tiles := 0, status := 0
                    cancelled := false, faulted := false, owesRec := false }
  let s := s.modPtn f.ptn fun p => { p with lseq := n }
  let s := s.storeDone k 0
  ({ s with tasks := s.tasks ++ [k] }.lqPush l.die q f.ptn n).status f 0 n

/-! ## The words -/

/-- `TASK.LNCH` fires: a misaligned or unmapped record traps (R359). -/
def execTaskLnch (o : FormR) (s : State) : Out :=
  fireJob o.g (fun w _ s f =>
    match (alignFault 8 f.sa.toNat 64).orElse fun _ => s.telAddr w f.asid f.sa.toNat .load false with
    | some e => .error e
    | none => .ok { jobHolds f o.d.toNat (s.fc + 1) with plan := recParts f.sa.toNat 64 }) jobPost s

def execTaskSeq (o : FormR) (s : State) : Out := soonR o true s
def execTaskCncl (o : FormR) (s : State) : Out := soonR o true s
def execTaskQry (o : FormR) (s : State) : Out := soonR o true s
def execTaskPrio (o : FormR) (s : State) : Out := soonR o true s

/-- `TASK.LNCH` in its turn at the scheduler: the record is read; it is refused, or launched when its queue has a place
(R327, R359). -/
def State.lnchStep (s : State) (f : Flight) : State :=
  s.withRec f fun b s =>
    match s.lnchStatus f.who.port.die f.ptn (if recNat b 0x20 2 = 0 then f.asid else recNat b 0x20 2) b with
    | (0, some l) => match s.queueFor l.die f.ptn (trecOf b).prio with
      | some q => if ((s.die l.die).lq.getD q []).length < 32 then s.launchTask f b l q else s
      | none => s.status f 2 0
    | (st, _) => s.status f st 0

/-- A task ended or forgotten is unknown to `.SEQ` and `.PRIO`. -/
def State.liveTask (s : State) (f : Flight) : Option Task :=
  (s.task? f.ptn f.sa.toNat).filter fun (k : Task) => k.st != .ended

/-- `TASK.SEQ` (R336, R360). -/
def State.seqStep (s : State) (f : Flight) : State :=
  match s.liveTask f with
  | none => s.status f 8 0
  | some k =>
    if !k.trec.seq then s.status f 9 0
    else if k.steps.length ≤ f.sb.toNat then s.status f 10 0
    else (s.modTask k.ptn k.lseq fun k => { k with pending := some f.sb.toNat }).status f 0 k.lseq

/-- A cancelled region keeps only the tile-tasks that have not reached their boundary (R321); a stalled one, whose store
can go no further, ends at once (log 74). -/
def Region.cancelTts (r : Region) : Region :=
  { r with tts := r.tts.filter fun t => (t.st == .issued || t.st == .writethru || t.st == .doomed) && !r.rerun.contains t.ix
           rerun := [] }

/-- A flush is asked for at every driven tenant of a page (R183). -/
def Page.flushed (p : Page) : Page :=
  { p with mtx := { p.mtx with tens := p.mtx.tens.map fun (t : Tenant) => { t with flush := t.flush || t.drv.isSome } } }

/-- A task is marked cancelled, its matrix tenants flushed; one that has not started leaves its queue at once (R183, R321,
R331). -/
def State.cancelTask (s : State) (k : Task) : State :=
  match k.st with
  | .queued => ((s.lqDrop k.die k.queue k.ptn k.lseq).modTask k.ptn k.lseq fun k => { k with cancelled := true }).endTask k.ptn k.lseq 1
  | _ =>
    let bad := k.rgs.any fun g => ((s.region? g).map s.anyWithheld).getD false
    let s := k.rgs.foldl (fun s g => s.modRegion g Region.cancelTts) s
    let s := { s with pages := s.pages.map fun ((g, p) : Nat × Page) => (g, if k.rgs.contains p.rg then p.flushed else p) }
    s.modTask k.ptn k.lseq fun k => { k with cancelled := true, faulted := bad, fill := none, pending := none }

/-- `TASK.CNCL` (R321, R360): every task of the partition in the group is marked. -/
def State.cnclStep (s : State) (f : Flight) : State :=
  let g := f.sa.toNat
  if g = 0 ∨ 255 < g then s.flightFault f { cls := clsRange, code := 0x02D, opnd := g }
  else
    let ks := s.tasks.filter fun k => k.ptn == f.ptn && k.trec.cgroup == g && k.st != .ended && !k.cancelled
    (ks.foldl State.cancelTask s).performVal f (w64 ks.length) (ks ≠ []) false

/-- The queue entry of a record that is waiting. -/
def State.lqEnt (s : State) (k : Task) : Option LqEnt :=
  ((s.die k.die).lq.getD k.queue []).find? fun e => e.ptn == k.ptn && e.lseq == k.lseq

/-- Effective priority (R329). -/
def State.eprio (s : State) (k : Task) : Nat :=
  min 3 (k.trec.prio + if k.st = .queued then ((s.lqEnt k).map (·.aged)).getD 0 else 0)

/-- The word of `TASK.QRY` (R361). -/
def State.qryWord (s : State) (k : Task) : Word :=
  let st := match k.st with
    | .queued => 1
    | .running | .preempted => 2
    | .ended => if k.status = 0 then 3 else if k.status = 1 then 4 else 5
  let tiles := if k.st = .ended then k.tiles else k.rgs.foldl (fun n g => n + ((s.region? g).map (·.completed)).getD 0) k.tiles
  w64 (st * 2 ^ 56 + s.eprio k * 2 ^ 48 + (if k.trec.seq then k.step else 0) * 2 ^ 40 + k.queue * 2 ^ 36 + k.die * 2 ^ 32 +
    tiles % 2 ^ 32)

/-- `TASK.PRIO` (R360): the record goes to the tail of the queue of its new priority, once that has a place. -/
def State.prioStep (s : State) (f : Flight) : State :=
  match s.liveTask f with
  | none => s.status f 8 0
  | some k =>
    if k.st ≠ .queued then s.status f 11 0
    else if 3 < f.sb.toNat then s.status f 1 0
    else match s.queueFor k.die k.ptn f.sb.toNat with
      | none => s.status f 2 0
      | some q =>
        let s' := s.lqDrop k.die k.queue k.ptn k.lseq
        if ((s'.die k.die).lq.getD q []).length < 32 then
          ((s'.lqPush k.die q k.ptn k.lseq).modTask k.ptn k.lseq fun k =>
            { k with queue := q, trec := { k.trec with prio := f.sb.toNat } }).status f 0 k.lseq
        else s

/-- A task word reaches its die's scheduler: a `TASK.LNCH` once everything its context did before is performed (R359). -/
def State.taskArrive (s : State) (f : Flight) : State :=
  if f.aux ≠ [] ∨ (fnOf f.word = 0 ∧ !s.mayIssue f) then s
  else
    let (id, s) := s.newId
    s.modFlight f.fid fun f => { f with aux := [id] }

/-- The scheduler of a die serves one task word at a time, in the order they reached it (R353; log 132). -/
def State.taskTurn (s : State) (f : Flight) : Bool :=
  f.aux != [] && s.flights.all fun g =>
    opcOf g.word != 0x79 || g.port.die != f.port.die || g.aux == [] || decide (f.aux.headD 0 ≤ g.aux.headD 0)

/-- Task words performed. -/
def State.taskStep (s : State) (f : Flight) : State :=
  let s := s.taskArrive f
  match s.flight? f.fid with
  | none => s
  | some f =>
    if !s.taskTurn f then s
    else match fnOf f.word with
      | 0 => s.lnchStep f
      | 1 => s.seqStep f
      | 2 => s.cnclStep f
      | 3 => match s.task? f.ptn f.sa.toNat with
        | some k => let w := s.qryWord k; s.performVal f w (w != 0) false
        | none => s.performVal f 0 false true
      | _ => s.prioStep f

/-! ## Choosing what starts (R329-R331) -/

/-- `PRIORITY_AGING` (R329): the complete periods of 940,000 fc for which a queue's head has waited. -/
def execPriorityAging (die q : Nat) (s : State) : Out :=
  match (s.die die).lq[q]? with
  | some (e :: l) => .next (s.modDie die fun d => { d with lq := d.lq.set q ({ e with aged := (s.fc - e.since) / 940000 } :: l) })
  | _ => .next s

/-- The half-frames a started task occupies: those of a sequence until it ends, any other until its page has drained or has
been saved away (R330). -/
def State.taskHalves (s : State) (k : Task) : List Nat :=
  if k.st = .queued ∨ (k.st = .ended ∧ !k.owesRec) then []
  else if k.trec.seq then k.frames.flatMap fun f => [f / 2 * 2, f / 2 * 2 + 1]
  else
    let np : Option Nat := ((k.rgs.head?).bind fun g => s.region? g).map fun (r : Region) => r.imgs.length
    (List.range k.frames.length).flatMap fun i => match k.frames[i]?, (k.rgs[i / max 1 (np.getD 1)]?).bind fun g => s.region? g with
      | some f, some (r : Region) =>
        let pi := i % max 1 (np.getD 1)
        let held : Bool := match (r.pages[pi]?).join with
          | some k => !((s.page? k).map fun (p : Page) => p.drained).getD true
          | none => r.st == RgState.loading || k.owesRec
        if held then (if ((r.imgs[pi]?).map fun (x : Nat × Nat × Nat) => x.2.1) = some 0 then [f, f + 1] else [f]) else []
      | _, _ => []

/-- The partition's free half-frames on a die, rising. -/
def State.freeHalves (s : State) (ptn die : Nat) : List Nat :=
  let busy := (s.tasks.filter fun k => k.ptn == ptn).flatMap s.taskHalves
  ((s.ownHalves ptn die).filter fun h => !busy.contains h).foldl (fun l h => addSorted h l) []

/-- The lowest frame with both halves free. -/
def lowFrame (free : List Nat) : Option Nat := free.find? fun h => h % 2 == 0 && free.contains (h + 1)

/-- Pages placed by R331, in page order: the half-frame of each. -/
def placePages (imgs : List (Nat × Nat × Nat)) (free : List Nat) : Option (List Nat × List Nat) :=
  let r := (List.range imgs.length).foldl (fun (acc : Option (List (Nat × Nat) × List Nat)) i => match acc, imgs[i]? with
    | some (put, free), some (_, kind, q) =>
      if (alGet i put).isSome then some (put, free)
      else if kind = 0 then (lowFrame free).map fun h => (put ++ [(i, h)], free.filter fun x => x / 2 != h / 2)
      else if q ≠ 0xFF then
        (lowFrame free).map fun h => (put ++ [(i, h + (kind - 1)), (q, h + (2 - kind))], free.filter fun x => x / 2 != h / 2)
      else (free.find? fun h => h % 2 == kind - 1).map fun h => (put ++ [(i, h)], free.filter fun x => x != h)
    | _, _ => none) (some ([], free))
  r.map fun (put, free) => ((List.range imgs.length).map fun i => (alGet i put).getD 0, free)

/-- The descriptors a waiting task names. -/
def State.taskDescs (s : State) (k : Task) : List RDesc := k.steps.filterMap fun va => s.readRegion k.die k.asid va

/-- A waiting task's need. -/
def State.taskNeed (s : State) (k : Task) : Nat := (Launch.need ⟨k.die, k.steps, s.taskDescs k⟩ k.trec)

/-- Where a task's pages go, by instance and page: whole frames for a sequence (R331). -/
def State.placeTask (s : State) (k : Task) (free : List Nat) : Option (List Nat) :=
  let ds := s.taskDescs k
  if k.trec.seq then
    let n := ds.foldl (fun n d => max n d.imgs.length) 0
    (placePages (List.replicate n (0, 0, 0xFF)) free).map (·.1)
  else
    ((List.range (max 1 k.trec.copies)).foldl (fun (acc : Option (List Nat × List Nat)) _ => acc.bind fun a =>
      (placePages ((ds.head?).map (·.imgs) |>.getD []) a.2).map fun b => (a.1 ++ b.1, b.2)) (some ([], free))).map (·.1)

/-- Escrow in MiB a task's regions reserve; a free task's none (R313). -/
def Task.escNeed (k : Task) : Nat :=
  if k.trec.ts = tsFree then 0 else max 1 k.trec.esc * max 1 k.trec.copies

/-- A task's reserve fits in the die's free escrow (R313). -/
def State.escFits (s : State) (k : Task) : Bool :=
  let used := s.tasks.foldl (fun n j => if j.die = k.die ∧ (j.st = .running ∨ j.st = .preempted) then n + j.escNeed else n) 0
  k.escNeed == 0 || decide (used + k.escNeed ≤ 32)

/-- A dependence entry is satisfied (R326). -/
def State.depMet (s : State) (k : Task) (d : Dep) : Bool :=
  if d.kind = 1 then
    match s.readRec k.die k.asid none d.addr 8 with
    | .ok (b, _) => leNat b != 0
    | .error _ => false
  else s.bankTok (bankOf d.addr).1 (bankOf d.addr).2 == .free d.tag

/-- Every dependence of a waiting task is satisfied. -/
def State.depsMet (s : State) (k : Task) : Bool :=
  match s.depsOf k.die k.asid k.trec with
  | some ds => ds.all (s.depMet k)
  | none => false

/-- The eligible heads of a die: queue and task. -/
def State.heads (s : State) (die : Nat) : List (Nat × Task) :=
  (List.range 16).filterMap fun q => match ((s.die die).lq.getD q []).head? with
    | some e => if s.heldPtn e.ptn then none else ((s.task? e.ptn e.lseq).filter s.depsMet).map fun k => (q, k)
    | none => none

/-- The heads in the order of R330: effective priority falling, queue order from `rr`. -/
def State.headOrder (s : State) (die : Nat) : List (Nat × Task) :=
  let hs := s.heads die
  let rr := (s.die die).rr
  let order := (List.range 16).filterMap fun i => hs.find? fun h => h.1 == (rr + i) % 16
  [3, 2, 1, 0].flatMap fun p => order.filter fun h => s.eprio h.2 == p

/-- The head that starts, and where its pages go (R330): `rsv` holds the half-frames reserved so far. -/
def State.pickStart (s : State) (die : Nat) : List (Nat × Task) → List Nat → Option Nat → Option (Nat × Task × List Nat)
  | [], _, _ => none
  | (q, k) :: l, rsv, lim =>
    let free := (s.freeHalves k.ptn die).filter fun h => !rsv.contains h
    let need := s.taskNeed k
    let fits := (match lim with
      | some m => decide (need < m)
      | none => true) && decide (need ≤ free.length) && s.escFits k
    match if fits then s.placeTask k free else none with
    | some fr => some (q, k, fr)
    | none =>
      if !k.trec.backfill then none
      else s.pickStart die l (rsv ++ free.take need) (some (match lim with
        | some m => min m need
        | none => need))

/-- `start(h)` of R330 and R331: the record leaves its queue, its regions are made, the bank tokens it waited for are
taken. -/
def State.startTask (s : State) (q : Nat) (k : Task) (fr : List Nat) : State :=
  let s := (s.lqDrop k.die q k.ptn k.lseq).modDie k.die fun d => { d with rr := (q + 1) % 16 }
  match (k.steps.head?).bind fun va => (s.readRegion k.die k.asid va).map fun d => (va, d) with
  | none => s.endTask k.ptn k.lseq 3
  | some (va, d) =>
    let s := s.modTask k.ptn k.lseq fun k => { k with st := .running, frames := fr }
    let s := (List.range (max 1 k.trec.copies)).foldl (fun s i =>
      let (g, s) := s.newId
      ({ s with regions := s.regions ++ [(g, Region.make g k.ptn k.lseq i k.asid va d k.trec 0)] }).modTask k.ptn k.lseq
        fun k => { k with rgs := k.rgs ++ [g] }) s
    let at_ (page : Nat) : Nat := fr.getD page 0 + if k.trec.seq ∧ ((d.imgs[page]?).map (·.2.1)) = some 2 then 1 else 0
    ((s.depsOf k.die k.asid k.trec).getD []).foldl (fun s x =>
      if x.kind = 2 then s.setBank (bankOf x.addr).1 (bankOf x.addr).2 (.held (at_ x.page)) else s) s

/-- `SCHEDULER_CYCLE` (R330): at most one task of the die starts. -/
def execSchedulerCycle (die : Nat) (s : State) : Out :=
  match s.pickStart die (s.headOrder die) [] none with
  | some (q, k, fr) => .next (s.startTask q k fr)
  | none => .next s

end Sys2Proof.Machine
end

