-- ==== Sys2Proof/Machine/Range.lean ====
section
/-!
DEFINITION. Persistent ranges, opcode 0x7A (R332, R353, R354, R362).
-/

namespace Sys2Proof.Machine

/-- The region of an element's instance, and the regions of its task by instance. -/
def State.rangeRegion (s : State) (f : Flight) : Option Region := s.regionOf f.who.page

def State.instances (s : State) (r : Region) : List Nat := ((s.taskOfRegion r).map (·.rgs)).getD []

def State.instanceAt (s : State) (r : Region) (i : Nat) : Option Region := ((s.instances r)[i]?).bind s.region?

/-- Indices left. -/
def Region.left (r : Region) : Nat := r.lim - r.cur

/-- NORANGE: no persistent task, or an instance the word may not name (R362). -/
def State.noRange (s : State) (w : Who) (a : Option Nat) : Bool :=
  match s.regionOf w.page with
  | none => true
  | some r => !r.persist || (match a with
      | some i => decide ((s.instances r).length ≤ i) || i == r.inst
      | none => false)

/-- A range word fires and joins the requests at its instance's controller. -/
def rangeR (o : FormR) (names : Bool) (s : State) : Out :=
  fireJob o.g (fun w _ s f =>
    if s.noRange w (if names then some f.sa.toNat else none) then .error { cls := clsRange, code := 0x02B, opnd := f.sa.toNat }
    else .ok (jobHolds f o.d.toNat (s.fc + 1)))
    (fun f s => match s.rangeRegion f with
      | some r => s.modRegion r.key fun r => { r with stealq := r.stealq ++ [(f.fid, r.inst)] }
      | none => s) s

def execRangeGet (o : FormR) (s : State) : Out := rangeR o false s
def execRangeSteal (o : FormR) (s : State) : Out := rangeR o true s
def execRangeSplit (o : FormR) (s : State) : Out := rangeR o true s
def execRangeDone (o : FormR) (s : State) : Out := rangeR o false s

/-- The requests at a controller that still stand. -/
def State.rangeQueue (s : State) (r : Region) : List (Nat × Nat) := r.stealq.filter fun x => (s.flight? x.1).isSome

/-- A word of the instance itself waits for the answer to its steal. -/
def State.stealing (s : State) (r : Region) : Bool :=
  (s.rangeQueue r).any fun x => x.2 == r.inst && ((s.flight? x.1).map fun f => f.stage != 0).getD false

/-- It is this word's turn: first in arrival order, and no steal of the instance is unanswered. -/
def State.rangeTurn (s : State) (r : Region) (fid : Nat) : Bool :=
  !s.stealing r && ((s.rangeQueue r).head?).map (·.1) == some fid

/-- A request leaves a controller. -/
def State.unrange (s : State) (rg fid : Nat) : State :=
  s.modRegion rg fun r => { r with stealq := r.stealq.filter fun x => x.1 != fid }

/-- A word is answered. -/
def State.rangeDone (s : State) (r : Region) (f : Flight) (v : Word) (outcome flag : Bool) : State :=
  (s.unrange r.key f.fid).performVal f v outcome flag

/-- A steal request set out for another instance. -/
def State.sendSteal (s : State) (r v : Region) (f : Flight) (k : Nat) : State :=
  (s.modFlight f.fid fun f => { f with stage := 1, aux := [k] }).modRegion v.key fun v =>
    { v with stealq := v.stealq ++ [(f.fid, r.inst)] }

/-- All ones: the range is exhausted. -/
def exhausted : Word := BitVec.allOnes 64

/-- `RANGE.GET` asks the k-th instance after its own, or answers exhausted (R332). -/
def State.getAsk (s : State) (r : Region) (f : Flight) (k : Nat) : State :=
  let n := (s.instances r).length
  if n ≤ k then s.rangeDone r f exhausted false true
  else match s.instanceAt r ((r.inst + k) % n) with
    | some v => s.sendSteal r v f k
    | none => s.rangeDone r f exhausted false true

/-- The upper half of a range goes to another instance that holds nothing (R332): indices given. -/
def State.splitTo (s : State) (v t : Region) : Option (Nat × State) :=
  if v.left < 2 ∨ t.left ≠ 0 then none
  else
    let mid := v.cur + (v.left + 1) / 2
    some (v.lim - mid, (s.modRegion v.key fun v => { v with lim := mid }).modRegion t.key fun t => { t with cur := mid, lim := v.lim })

/-- Range words performed (R362). `RANGE.GET` hands out a doomed tile-task that has sealed once more, before the next index of
its range, and `RANGE.DONE` or an exhausted range holds no re-run back (R317; log 126). -/
def State.rangeStep (s : State) (f : Flight) : State :=
  match s.rangeRegion f with
  | none => s
  | some r =>
    if !s.rangeTurn r f.fid then s
    else match fnOf f.word with
      | 0 =>
        let gone := ((s.taskOfRegion r).map (·.cancelled)).getD true
        match r.rerun.head?.filter fun _ => !gone && r.st == .armed with
        | some ix => (s.modRegion r.key fun r => r.reissue ix).rangeDone r f (w64 ix) true false
        | none =>
        if r.cur < r.lim ∧ !gone ∧ !r.finished then
          if s.mayIssueTile r r.cur then
            ((s.issueTile r r.cur).modRegion r.key fun r => { r with cur := r.cur + 1 }).rangeDone r f (w64 r.cur) true false
          else s
        else if r.finished ∨ gone then s.rangeDone r f exhausted false true
        else s.getAsk r f 1
      | 1 =>
        if r.left ≠ 0 then (s.unrange r.key f.fid).flightFault f { cls := clsRange, code := 0x02C, opnd := f.sa.toNat }
        else match s.instanceAt r f.sa.toNat with
          | some v => s.sendSteal r v f 0
          | none => s.rangeDone r f 0 false true
      | 2 => match (s.instanceAt r f.sa.toNat).bind (s.splitTo r) with
        | some (n, s) => s.rangeDone r f (w64 n) true false
        | none => s.rangeDone r f 0 false true
      | _ =>
        (s.modRegion r.key fun r => { r with finished := true }).rangeDone r f (w64 r.left) (r.left != 0) false

/-- The steal request a controller serves next: while a word of its own waits for a steal, the first one; otherwise the one
at the head (log 37). -/
def State.nextSteal (s : State) (r : Region) : Option (Nat × Nat) :=
  let q := s.rangeQueue r
  if s.stealing r then q.find? fun x => x.2 != r.inst else (q.head?).filter fun x => x.2 != r.inst

/-- `STEAL_REQUEST_SERVE` (R332): the victim splits off its upper half, or refuses; a refused `RANGE.GET` asks on. -/
def execStealRequestServe (rg : Nat) (s : State) : Out :=
  match s.region? rg with
  | none => .next s
  | some v => match s.nextSteal v with
    | none => .next s
    | some (fid, i) => match s.flight? fid, s.instanceAt v i with
      | some f, some t =>
        let s := s.unrange rg fid
        match s.splitTo v t with
        | some (n, s) =>
          if fnOf f.word = 0 then .next ((s.modFlight fid fun f => { f with stage := 0 }).now (.instructionPerformed fid))
          else .next (s.rangeDone t f (w64 n) true false)
        | none =>
          if fnOf f.word ≠ 0 then .next (s.rangeDone t f 0 false true)
          else if t.left ≠ 0 then .next ((s.modFlight fid fun f => { f with stage := 0 }).now (.instructionPerformed fid))
          else .next (s.getAsk t f (f.aux.headD 0 + 1))
      | _, _ => .next (s.unrange rg fid)

end Sys2Proof.Machine
end

