-- ==== Sys2Proof/Machine/Engine.lean ====
section
/-!
DEFINITION. Copy engines and near-memory queues, opcodes 0x7B and 0x7C (R367-R374, R381-R383, R387).
-/

namespace Sys2Proof.Machine

/-! ## The queues -/

/-- An engine of a die: 0-2 a copy engine, 3 the near-memory queue of a partition. -/
def State.eng (s : State) (die q ptn : Nat) : Eng :=
  if q = 3 then (alGet ptn (s.die die).nmq).getD Eng.idle else ((s.die die).engs[q]?).getD Eng.idle

def State.setEng (s : State) (die q ptn : Nat) (e : Eng) : State :=
  s.modDie die fun d => if q = 3 then { d with nmq := alSet ptn e d.nmq } else { d with engs := d.engs.set q e }

/-- The engine a word of 0x7B or 0x7C asks. -/
def Flight.engine (f : Flight) : Nat := if opcOf f.word = 0x7C then 3 else f.sb.toNat

/-- The die whose engines an agent uses: its own; an anchor teller's near-memory queue is that of the die through which its
accesses continue (R217; log 39). -/
def Flight.engDie (f : Flight) : Nat := if opcOf f.word = 0x7C then f.who.port.die else f.who.die

/-- NOENG: the engine is not assigned to the partition (R387). -/
def State.noEng (s : State) (w : Who) (ptn e : Nat) : Bool :=
  match (s.die w.die).engs[e]? with
  | some x => x.ptn != some ptn
  | none => true

/-- A command word fires: record aligned (ALIGN 0x009) and mapped, engine assigned; an ordered tile-task issues no
near-memory command (R374). -/
def engR (o : FormR) (nm : Bool) (s : State) : Out :=
  fireJob o.g (fun w _ s f =>
    if f.sa.toNat % 64 ≠ 0 then .error { cls := clsAlign, code := 9, opnd := f.sa.toNat }
    else if !nm ∧ s.noEng w f.ptn f.sb.toNat then .error { cls := clsRange, code := 0x02E, opnd := f.sb.toNat }
    else if nm ∧ s.ttOrdered f.tt then .error { cls := clsAtomic, code := 3, opnd := f.sa.toNat }
    else match s.telAddr w f.asid f.sa.toNat .load false with
      | some e => .error e
      | none => .ok { jobHolds f o.d.toNat (s.fc + 1) with plan := recParts f.sa.toNat 64 }) jobPost s

def execCpyCpy (o : FormR) (s : State) : Out := engR o false s
def execCpyXf (o : FormR) (s : State) : Out := engR o false s
def execCpyFill (o : FormR) (s : State) : Out := engR o false s
def execNmcIssue (o : FormR) (s : State) : Out := engR o true s

/-- `CPY.STAT` (R387): an engine of another partition raises NOENG. -/
def execCpyStat (o : FormR) (s : State) : Out :=
  fireJob o.g (fun w _ s f =>
    if s.noEng w f.ptn f.sb.toNat then .error { cls := clsRange, code := 0x02E, opnd := f.sb.toNat }
    else .ok (jobHolds f o.d.toNat (s.fc + 1))) jobPost s

def execNmcStat (o : FormR) (s : State) : Out := soonR o true s

/-- `NMC.FENCE` fires: it remembers the commands it waits for. -/
def execNmcFence (o : FormR) (s : State) : Out :=
  fireJob o.g (fun w x s f => .ok { f with
    aux := (s.eng (if opcOf x = 0x7C then w.port.die else w.die) 3 f.ptn).q.map (·.qseq), after := s.fc + 1 }) jobPost s

/-- A record enters its queue as a copy (R367): read once everything its context did before is performed and the queue has
room. -/
def State.issueStep (s : State) (f : Flight) : State :=
  let e := s.eng f.engDie f.engine f.ptn
  if 32 ≤ e.q.length then s
  else s.withRec f fun b s =>
    let n := e.qseq + 1
    let c : Cmd := { qseq := n, record := b, who := f.who, asid := f.asid, ptn := f.ptn, fn := fnOf f.word, tt := f.tt, ival := f.ival }
    (s.setEng f.engDie f.engine f.ptn { e with q := e.q ++ [c], qseq := n }).performVal f (w64 n) true false

/-- Engine words performed. -/
def State.engStep (s : State) (f : Flight) : State :=
  let e := s.eng f.engDie f.engine f.ptn
  let stat : State := s.performVal f (w64 (e.last * 2 ^ 8 + e.q.length))
    (e.last % 2 ^ 56 != 0 || e.q ≠ []) (e.q == [])
  if opcOf f.word = 0x7B then (if fnOf f.word = 3 then stat else s.issueStep f)
  else match fnOf f.word with
    | 0 => s.issueStep f
    | 1 => if f.aux.all fun n => e.q.all fun c => c.qseq != n then s.perform f Writes.none (f.aux ≠ []) false [] else s
    | _ => stat

/-! ## Completions (R253, R368) -/

/-- A held completion is posted when the event queue takes it. -/
def State.postHeld (s : State) (die q ptn : Nat) : State :=
  let e := s.eng die q ptn
  match e.held with
  | none => s
  | some (d, r) =>
    let p := if q = 3 then ptn else e.ptn.getD ptn
    if s.evRoom d p && s.evFreeIn d p then (s.setEng die q ptn { e with held := none }).evPush d p r else s

/-- `ENGINE_COMPLETION_POST` (R368): queues 0-2 are copy engines, 3 and up the near-memory queues of partitions 0 and up. -/
def execEngineCompletionPost (die q : Nat) (s : State) : Out :=
  .next (s.postHeld die (min q 3) (if q < 3 then ((s.eng die q 0).ptn.getD 0) else q - 3))

/-- A command has been performed: it leaves its queue and its completion is posted or held. -/
def State.endCmd (s : State) (die q : Nat) (c : Cmd) (status nfail first : Nat) : State :=
  let e := s.eng die q c.ptn
  let cq := recNat c.record 1 1
  let r := leBytes 2 (if q = 3 then 2 else 3) ++ leBytes 2 status ++ leBytes 4 nfail ++
    leBytes 8 (recNat c.record 0x28 8) ++ leBytes 8 first ++ leBytes 8 c.qseq
  let e := { e with q := e.q.drop 1, last := c.qseq, pos := 0, nfail := 0, first := 0, maps := [], after := s.fc + 1
                    cmds := e.cmds + 1, held := if bitAt cq 7 then some (cq % 8, r) else none }
  (s.setEng die q c.ptn e).postHeld die q c.ptn

/-- The fault record of a running command (R369). -/
def State.cmdFault (s : State) (die q : Nat) (c : Cmd) (f : FaultInfo) : State :=
  let o := { s.originWho c.who with die := die, kind := 5, async := true, asid := c.asid, ptn := c.ptn, queue := q
                                    qseq := c.qseq % 2 ^ 32, ts := s.tsOf c.tt }
  s.mailBytes o f (c.record.take 32)

/-! ## Copy commands (R370-R372) -/

/-- A copy record's fields. -/
structure CopyRec where
  op : Nat
  flags : Nat
  rows : Nat
  dst : Nat
  src : Nat
  xfa : Nat
  len : Nat
  spitch : Nat
  dpitch : Nat
  deriving DecidableEq, Repr

def copyRecOf (b : List Byte) : CopyRec :=
  ⟨recNat b 0 1, recNat b 2 1, recNat b 4 4, recNat b 8 8, recNat b 0x10 8, recNat b 0x18 8, recNat b 0x20 4, recNat b 0x24 4,
   recNat b 0x30 4⟩

/-- The record breaks R370. -/
def copyBad (b : List Byte) (fn : Nat) : Bool :=
  let r := copyRecOf b
  r.op != fn + 1 || decide (31 < r.flags) || recNat b 3 1 != 0 || r.rows == 0 || decide (65536 < r.rows) || r.len == 0 ||
  decide (2 ^ 24 < r.len) || (r.op != 2 && r.xfa != 0) || recNat b 0x34 4 != 0 || recNat b 0x38 8 != 0

/-- Widths in bits of a transform's source and produced elements: of two formats for CVT; packed to i8 for PACK, or i8 to
packed where only the source format is i8 (log 38). -/
def Xf.packs (x : Xf) : Bool := x.kind == 2 && x.sf % 16 == 4 && x.df % 16 != 4
def Xf.srcBits (x : Xf) : Nat := if x.kind = 1 then tyWidth (x.sf % 16) else if x.packs then 8 else x.w
def Xf.dstBits (x : Xf) : Nat := if x.kind = 1 then tyWidth (x.df % 16) else if x.packs then x.w else 8

/-- A transform a copy engine takes (R371). -/
def Xf.copyOk (x : Xf) : Bool := (x.kind == 1 || x.kind == 2) && !xfBad x false && x.srcBits != 0 && x.dstBits != 0

/-- One element through a transform. -/
def Xf.elt (x : Xf) (v : Nat) : Nat :=
  if x.kind = 1 then (convert .rne (x.sf % 16) (x.df % 16) v false).pat
  else if x.packs then
    let lim : Int := (2 ^ (x.w - 1) : Nat)
    pattern (max (-lim) (min (lim - 1) (signed v 8))) x.w
  else pattern (signed v x.w) 8

/-- Elements of a row, and the bytes it produces. -/
def Xf.count (x : Xf) (len : Nat) : Nat := 8 * len / x.srcBits
def Xf.bytes (x : Xf) (len : Nat) : Nat := (x.count len * x.dstBits + 7) / 8

/-- Source bytes that feed produced byte j: first and how many. -/
def Xf.feeds (x : Xf) (j : Nat) : Nat × Nat :=
  let e0 := 8 * j / x.dstBits
  let e1 := (8 * j + 7) / x.dstBits
  let b0 := e0 * x.srcBits / 8
  (b0, ((e1 + 1) * x.srcBits + 7) / 8 - b0)

/-- Produced byte j, from the source bytes that feed it. -/
def Xf.byte (x : Xf) (len j : Nat) (src : List Byte) : Byte :=
  let e0 := 8 * j / x.dstBits
  let b0 := e0 * x.srcBits / 8
  let n := leNat src
  let elt (e : Nat) : Nat := if e < x.count len then x.elt (n / 2 ^ (e * x.srcBits - 8 * b0) % 2 ^ x.srcBits) else 0
  let e1 := (8 * j + 7) / x.dstBits
  let all := (tab (e1 + 1 - e0) fun i => elt (e0 + i)).foldr (fun v a => v + a * 2 ^ x.dstBits) 0
  BitVec.ofNat 8 (all / 2 ^ (8 * j - e0 * x.dstBits))

/-- A byte read by a running command. -/
inductive CByte where
  | ok (b : Byte)
  | bad (va : Nat) (b : Byte)
  | fault (f : FaultInfo)

/-- A byte of the source, of what this segment has already written at its key, or its poison or fault. -/
def State.cmdByte (s : State) (die : Nat) (c : Cmd) (va : Nat) (done : List (Nat × Byte)) : CByte × State :=
  match s.walk die c.asid va with
  | .error x => (.fault { cls := clsXlate, code := x, opnd := va }, s)
  | .ok e => match s.accessFault c.tt e .load false va with
    | some f => (.fault f, s)
    | none => match alGet (e.key va) done with
      | some b => (.ok b, s)
      | none => match s.load c.tt e.leaf (e.key va) 1 with
        | .error _ => (.bad va ((memGet (e.key va) s.mem)), s)
        | .ok (bs, s) => (.ok (bs.headD 0), s)

/-- Bytes read in order until one faults: bytes, the first poisoned address, the fault. -/
def State.cmdBytes (s : State) (die : Nat) (c : Cmd) (va n : Nat) (done : List (Nat × Byte)) :
    List Byte × Option Nat × Option FaultInfo × State :=
  (List.range n).foldl (fun (acc : List Byte × Option Nat × Option FaultInfo × State) i => match acc with
    | (bs, p, some f, s) => (bs, p, some f, s)
    | (bs, p, none, s) => match s.cmdByte die c (va + i) done with
      | (.ok b, s) => (bs ++ [b], p, none, s)
      | (.bad a b, s) => (bs ++ [b], p.or (some a), none, s)
      | (.fault f, s) => (bs, p, some f, s)) ([], none, none, s)

/-- Byte j of a row as the command produces it. -/
def State.madeByte (s : State) (die : Nat) (c : Cmd) (r : CopyRec) (x : Option Xf) (row j : Nat) (done : List (Nat × Byte)) :
    List Byte × Option Nat × Option FaultInfo × State :=
  let src := r.src + row * r.spitch
  match r.op, x with
  | 3, _ => ([BitVec.ofNat 8 (r.src / 256 ^ (j % 8))], none, none, s)
  | 2, some x =>
    let (b0, n) := x.feeds j
    match s.cmdBytes die c (src + b0) (min n (r.len - b0)) done with
    | (_, p, some f, s) => ([], p, some f, s)
    | (bs, p, none, s) => ([x.byte r.len j bs], p, none, s)
  | _, _ => s.cmdBytes die c (src + j) 1 done

/-- The bytes of a stretch of a row: bytes, which are fed by poison, the first poisoned address, the fault that ended it. -/
def State.madeBytes (s : State) (die : Nat) (c : Cmd) (r : CopyRec) (x : Option Xf) (row j0 n : Nat) (key : Option Nat) :
    List (Byte × Bool) × Option Nat × Option FaultInfo × State :=
  (List.range n).foldl (fun (acc : List (Byte × Bool) × Option Nat × Option FaultInfo × State) i => match acc with
    | (bs, p, some f, s) => (bs, p, some f, s)
    | (bs, p, none, s) =>
      let done := match key with
        | some k => bs.mapIdx fun m b => (k + m, b.1)
        | none => []
      match s.madeByte die c r x row (j0 + i) done with
      | (b, q, none, s) => (bs ++ [(b.headD 0, q.isSome)], p.or q, none, s)
      | (_, q, some f, s) => (bs, p.or q, some f, s)) ([], none, none, s)

/-- A block of memory marked poisoned (R239). -/
def State.poisonBlock (s : State) (k : Nat) : State := { s with poison := addSorted (k / 64) s.poison }

/-- Bytes produced per row. -/
def CopyRec.made (r : CopyRec) (x : Option Xf) : Nat :=
  match r.op, x with
  | 2, some x => x.bytes r.len
  | _, _ => r.len

/-- Destination blocks of a row. -/
def CopyRec.blocks (r : CopyRec) (x : Option Xf) (row : Nat) : Nat :=
  let d := r.dst + row * r.dpitch
  let n := r.made x
  if n = 0 then 0 else (d + n + 63) / 64 - d / 64

/-- Destination blocks of a command. -/
def CopyRec.total (r : CopyRec) (x : Option Xf) : Nat :=
  if bitAt r.flags 0 then r.rows else (List.range r.rows).foldl (fun n i => n + r.blocks x i) 0

/-- A command stopped by a fault (R369): `left` blocks are not written. -/
def State.stopCmd (s : State) (die q : Nat) (c : Cmd) (f : FaultInfo) (left : Nat) : State :=
  (s.cmdFault die q c (if q = 3 then { f with cls := clsNmc } else f)).endCmd die q c 3 left f.opnd

/-- A copy engine goes on: another block done or failed, next position, next moment (open, log 4). -/
def State.engNext (s : State) (die q : Nat) (c : Cmd) (pos bytes : Nat) (fail : Option Nat) : State :=
  let (x, s) := s.fresh
  let e := s.eng die q c.ptn
  s.setEng die q c.ptn { e with
    pos := pos, bytes := e.bytes + bytes, after := s.fc + 1 + x % 256
    nfail := e.nfail + if fail.isSome then 1 else 0
    first := if e.nfail = 0 then fail.getD e.first else e.first }

/-- An engine's blocks on other dies cross the links, and the engine goes on no earlier than they have (R375). -/
def State.engCross (s : State) (die q ptn : Nat) (keys : List Nat) : State :=
  keys.foldl (fun s k =>
    let dst := if vaultKey ≤ k then keyDie k else hbmDie k
    if dst = die then s
    else
      let (t, s) := s.cross (linkPath die die dst) s.fc
      let e := s.eng die q ptn
      s.setEng die q ptn { e with after := max e.after t }) s

/-- Blocks of a copy command not yet reached, from row and block. -/
def CopyRec.ahead (r : CopyRec) (x : Option Xf) (row blk : Nat) : Nat :=
  ((List.range r.rows).drop row).foldl (fun n i => n + r.blocks x i) 0 - blk

/-- One destination block of a copy command, in an fc in which the block can be accessed (R218, R1). -/
def State.copyBlock (s : State) (die q : Nat) (c : Cmd) (r : CopyRec) (x : Option Xf) (row blk : Nat) : State :=
  let e := s.eng die q c.ptn
  let d := r.dst + row * r.dpitch
  let a := max d ((d / 64 + blk) * 64)
  let z := min (d + r.made x) ((d / 64 + blk + 1) * 64)
  let next := if r.blocks x row ≤ blk + 1 then (row + 1) * 2 ^ 24 else row * 2 ^ 24 + blk + 1
  let fault (s : State) (f : FaultInfo) : State := s.stopCmd die q c f (e.nfail + r.ahead x row blk)
  if z ≤ a then s.engNext die q c ((row + 1) * 2 ^ 24) 0 none
  else match s.walk die c.asid a with
    | .error cd => fault s { cls := clsXlate, code := cd, opnd := a }
    | .ok t => match s.accessFault c.tt t .store false a with
      | some f => fault s f
      | none =>
        let k := t.key a
        let whole := decide (z - a = 64)
        if !s.blockFree k then s
        else if s.poisoned k ∧ !whole then s.engNext die q c next 0 (some (a / 64 * 64))
        else
          let (bs, bad, f, s1) := s.madeBytes die c r x row (a - d) (z - a) (some k)
          let mask := bs.map fun b => if b.2 then 0 else 0xFF
          match (s1.useBlock k).write (.tel 0) c.tt c.ival t.leaf k (bs.map (·.1)) mask with
          | .wait s => s
          | .poison _ => s.engNext die q c next 0 (some (a / 64 * 64))
          | .ok s =>
            let s := if bad.isSome then s.poisonBlock k else s
            match f with
            | some f => fault s f
            | none =>
              let src := if r.op = 3 then [] else match s.walk die c.asid (r.src + row * r.spitch + (a - d)) with
                | .ok t => [t.key (r.src + row * r.spitch + (a - d))]
                | .error _ => []
              (s.engNext die q c next (z - a) (if bad.isSome then some (a / 64 * 64) else none)).engCross die q c.ptn (k :: src)

/-- One row sent as a message to a till (R372), when the span port it crosses is free (R379). A row with a fault is not sent; with a
poisoned block it crosses a span port with the poison indication (R240), and is not sent to a local till (log 40). Messages of one
engine arrive in the order sent (R231). -/
def State.copyMessage (s : State) (die q : Nat) (c : Cmd) (r : CopyRec) (x : Option Xf) (row : Nat) : State :=
  let e := s.eng die q c.ptn
  let n := r.made x
  let (bs, bad, f, s1) := s.madeBytes die c r x row 0 n none
  let remote := bitAt r.flags 4
  match f with
  | some f => s1.stopCmd die q c f (e.nfail + (r.rows - row))
  | none => if remote ∧ !s.spanOpen (bits r.flags 3 1) then s else
    let s := s1.engNext die q c ((row + 1) * 2 ^ 24) (if bad.isNone then n else 0) bad
    let msg := bs.map (·.1)
    if remote then s.spanSend (bits r.flags 3 1) c.ptn r.dst msg bad.isSome
    else if bad.isSome then s
    else
      let (mid, s) := s.newId
      let (src, s) := s.fresh
      let by_ := 4 * die + q
      let last := s.msgs.foldl (fun d m => if m.by_ = by_ then max d m.due else d) 0
      { s with msgs := s.msgs ++ [{ mid := mid, die := die, ptn := c.ptn, asid := c.asid, till := r.dst, bytes := msg, res := none
                                    src := src % 2 ^ 16, by_ := by_, due := max last (s.fc + 1 + src % 64) }] }

/-- `COPY_COMMAND_EXECUTE` (R371): the engine's first command goes on by one block, or one message. -/
def execCopyCommandExecute (die q : Nat) (s : State) : Out :=
  let e := s.eng die q 0
  match e.q with
  | [] => .next s
  | c :: _ =>
    let r := copyRecOf c.record
    if 2 < q ∨ e.held.isSome ∨ s.fc < e.after then .next s
    else if copyBad c.record c.fn then .next (s.endCmd die q c 2 1 0)
    else
      let xf : Except FaultInfo (Option Xf) :=
        if r.op = 2 then (s.readRec die c.asid c.tt r.xfa 128).map fun b => some (xfOf b.1) else .ok none
      match xf with
      | .error f => .next (s.stopCmd die q c f (e.nfail + r.ahead none (e.pos / 2 ^ 24) (e.pos % 2 ^ 24)))
      | .ok x =>
        if !((x.map Xf.copyOk).getD true) then .next (s.endCmd die q c 2 1 0)
        else
          let row := e.pos / 2 ^ 24
          if r.rows ≤ row then
            .next (s.endCmd die q c (if e.nfail = 0 then 0 else 1) e.nfail e.first)
          else if bitAt r.flags 0 then .next (s.copyMessage die q c r x row)
          else .next (s.copyBlock die q c r x row (e.pos % 2 ^ 24))

/-! ## Near-memory commands (R373, R374) -/

/-- A near-memory record's fields. -/
structure NmRec where
  op : Nat
  count : Nat
  p : Nat
  g : Nat
  x : Nat
  eta : Nat
  lam : Nat
  deriving DecidableEq, Repr

def nmRecOf (b : List Byte) : NmRec :=
  ⟨recNat b 0 1, recNat b 4 4, recNat b 8 8, recNat b 0x10 8, recNat b 0x18 8, recNat b 0x20 4, recNat b 0x24 4⟩

/-- Where results go; whether P and G are read. -/
def NmRec.dest (r : NmRec) : Nat := if r.x = 0 then r.p else r.x
def NmRec.readsP (r : NmRec) : Bool := r.op != 4 && r.op != 5
def NmRec.readsG (r : NmRec) : Bool := r.op != 3 && r.op != 4
def NmRec.blocks (r : NmRec) : Nat := (4 * r.count + 63) / 64

/-- Refusal reasons 1 and 2 of R374. -/
def nmBad (b : List Byte) (fn : Nat) : Option Nat :=
  let r := nmRecOf b
  if r.op = 0 ∨ 6 < r.op ∨ recNat b 2 2 ≠ 0 ∨ recNat b 0x30 8 ≠ 0 ∨ recNat b 0x38 8 ≠ 0 ∨
      (r.x ≠ 0 ∧ r.op ≠ 2 ∧ r.op ≠ 3) ∨ fn ≠ 0 then some 1
  else if r.count = 0 ∨ r.p % 64 ≠ 0 ∨ r.g % 64 ≠ 0 ∨ r.x % 64 ≠ 0 then some 2
  else none

/-- The blocks a command touches: address and whether it writes them. -/
def NmRec.touches (r : NmRec) : List (Nat × Bool) :=
  (List.range r.blocks).flatMap fun i =>
    (if r.readsP ∧ r.x ≠ 0 then [(r.p + 64 * i, false)] else []) ++ (if r.readsG then [(r.g + 64 * i, false)] else []) ++
    [(r.dest + 64 * i, true)]

/-- Translations of every block a command touches, by address; the first fault otherwise (R373). -/
def State.nmMaps (s : State) (die : Nat) (c : Cmd) (r : NmRec) : Except FaultInfo (List (Nat × Nat)) :=
  r.touches.foldl (fun (acc : Except FaultInfo (List (Nat × Nat))) x => match acc with
    | .error f => .error f
    | .ok l => match s.walk die c.asid x.1 with
      | .error cd => .error { cls := clsXlate, code := cd, opnd := x.1 }
      | .ok e => match s.accessFault c.tt e (if x.2 then .store else .load) false x.1 with
        | some f => .error f
        | none => .ok (l ++ [(x.1, e.key x.1)])) (.ok [])

/-- Refusal reasons 4 and 3: a vault page; stacks and dies that do not go together. -/
def NmRec.refused (r : NmRec) (die : Nat) (maps : List (Nat × Nat)) : Option Nat :=
  let stack (k : Nat) : Nat := bits k 41 37
  if maps.any fun m => decide (vaultKey ≤ m.2) then some 4
  else
    let ds := (List.range r.blocks).filterMap fun i => (alGet (r.dest + 64 * i) maps).map stack
    if ds.any (fun x => x != ds.headD 0) ∨ maps.any (fun m => hbmDie m.2 != die) then some 3 else none

/-- One element's result (R373). -/
def NmRec.elt (r : NmRec) (p g : Nat) : Nat :=
  let v := fmtF32.decode
  match r.op with
  | 1 =>
    let t := fmtF64.fmaV .rne (v r.lam) (v p) (v g)
    let t := fmtF64.mulV .rne (v r.eta) (fmtF64.decode t.pat)
    (fmtF32.addV .rne (v p) (fmtF64.decode t.pat).neg).pat
  | 2 => (fmtF32.fmaV .rne (v r.eta) (v g) (v p)).pat
  | 3 => (fmtF32.mulV .rne (v r.eta) (v p)).pat
  | 4 => r.eta
  | 5 => g
  | _ => (fmtF32.addV .rne (v p) (v g)).pat

/-- One block of a near-memory command, an indivisible read, computation and write, within what the stack can move (R1). -/
def State.nmBlock (s : State) (die : Nat) (c : Cmd) (r : NmRec) (maps : List (Nat × Nat)) (i : Nat) : State :=
  let n := min 16 (r.count - 16 * i)
  let key (va : Nat) : Nat := (alGet (va + 64 * i) maps).getD 0
  let k := key r.dest
  let kp := key (if r.x = 0 then r.dest else r.p)
  let kg := key r.g
  let lost := (r.readsP && s.poisoned kp) || (r.readsG && s.poisoned kg) || (decide (n < 16) && s.poisoned k)
  let used := k :: ((if r.readsP ∧ r.x ≠ 0 then [kp] else []) ++ (if r.readsG then [kg] else []))
  if !used.all s.hbmFree then s
  else
  let s := used.foldl State.useBlock s
  if lost then s.engNext die 3 c (i + 2) 0 (some (r.dest + 64 * i))
  else
    let bs := (List.range n).flatMap fun j =>
      leBytes 4 (r.elt (memNat s.mem (kp + 4 * j) 4) (memNat s.mem (kg + 4 * j) 4))
    (s.store k bs).engNext die 3 c (i + 2) (4 * n) none

/-- `NMC_COMMAND_EXECUTE` (R373, R374): the queue's first command starts, or goes on by one block. Position 0 is a command
not started, i + 1 one whose block i is next. -/
def execNmcCommandExecute (die ptn : Nat) (s : State) : Out :=
  let e := s.eng die 3 ptn
  match e.q with
  | [] => .next s
  | c :: _ =>
    let r := nmRecOf c.record
    if e.held.isSome ∨ s.fc < e.after then .next s
    else if e.pos = 0 then
      match nmBad c.record c.fn with
      | some n => .next (s.endCmd die 3 c 2 n 0)
      | none => match s.nmMaps die c r with
        | .error f => .next (s.stopCmd die 3 c f r.blocks)
        | .ok maps => match r.refused die maps with
          | some n => .next (s.endCmd die 3 c 2 n 0)
          | none =>
            let (x, s) := s.fresh
            .next (s.setEng die 3 ptn { e with pos := 1, maps := maps, after := s.fc + 270 + x % 256 })
    else if r.blocks < e.pos then .next (s.endCmd die 3 c (if e.nfail = 0 then 0 else 1) e.nfail e.first)
    else .next (s.nmBlock die c r e.maps (e.pos - 1))

end Sys2Proof.Machine
end

