-- ==== Sys2Proof/Machine/Link.lean ====
section
/-!
DEFINITION. Die-to-die links, opcode 0x6D (R375-R378, R382-R384).
-/

namespace Sys2Proof.Machine

/-- A partition's bias grant on a link: its bounds. -/
def State.grantOn (s : State) (ptn l : Nat) : Option (Nat × Nat) :=
  ((s.ptn? ptn).bind fun p => p.res.links.find? fun g => g.1 == l).map fun g => g.2

/-- A link word fires: a link above 11 raises NOLINK. -/
def linkR (o : FormR) (s : State) : Out :=
  fireJob o.g (fun _ _ s f =>
    if 11 < f.sa.toNat then .error { cls := clsRange, code := 0x033, opnd := f.sa.toNat }
    else .ok (jobHolds f o.d.toNat (s.fc + 1))) jobPost s

def execLinkTurn (o : FormR) (s : State) : Out := linkR o s
def execLinkQry (o : FormR) (s : State) : Out := linkR o s
def execLinkHold (o : FormR) (s : State) : Out := linkR o s

/-- A status of a link word: accepted where it is 0. -/
def State.linkStatus (s : State) (f : Flight) (st : Nat) : State := s.performVal f (w64 st) (st == 0) (st != 0)

/-- A turn refused and counted. -/
def State.refuseTurn (s : State) (f : Flight) (l st : Nat) : State :=
  (s.modLink l fun x => { x with refused := x.refused + 1 }).linkStatus f st

/-- `LINK.TURN` (R376, R384): it waits for what its context did before and for a place in the FIFO. -/
def State.turnStep (s : State) (f : Flight) : State :=
  let l := f.sa.toNat
  let x := s.link l
  if !s.mayIssue f then s
  else match s.grantOn f.ptn l with
    | none => s.refuseTurn f l 1
    | some (lo, hi) =>
      if f.sb.toNat < lo ∨ hi < f.sb.toNat then s.refuseTurn f l 2
      else if 8 ≤ (x.fifo.filter fun q => q.1 == f.ptn).length then s.refuseTurn f l 3
      else if 16 ≤ x.fifo.length then s
      else (s.modLink l fun x => { x with fifo := x.fifo ++ [(f.ptn, f.sb.toNat)] }).linkStatus f 0

/-- The split word (R384). -/
def Link.word (x : Link) : Nat := ((x.hold.map (·.1)).getD 0xFF) * 2 ^ 16 + x.fifo.length * 2 ^ 5 + x.u

/-- A hold ends; the fc it lasted are counted (R378, R385). -/
def Link.unhold (x : Link) (fc : Nat) : Link :=
  match x.hold with
  | some (_, t) => { x with hold := none, holdFc := x.holdFc + (fc - t) }
  | none => x

/-- No earlier `LINK.HOLD` of the link still waits. -/
def State.holdTurn (s : State) (f : Flight) : Bool :=
  s.flights.all fun g => !(opcOf g.word == 0x6D && fnOf g.word == 2 && g.sa == f.sa && g.sb == 1 && decide (g.fid < f.fid))

/-- `LINK.HOLD` (R378, R384): 1 takes, 0 releases; any other value is refused (log 41). -/
def State.holdStep (s : State) (f : Flight) : State :=
  let l := f.sa.toNat
  let x := s.link l
  if f.sb = 1 then
    if (s.grantOn f.ptn l).isNone then s.linkStatus f 1
    else if (x.hold.map (·.1)) = some f.ptn then s.linkStatus f 0
    else if x.hold.isSome ∨ x.fifo.any (fun q => q.1 != f.ptn) ∨ !s.holdTurn f then s
    else (s.modLink l fun x => { x with hold := some (f.ptn, s.fc) }).linkStatus f 0
  else if f.sb = 0 ∧ (x.hold.map (·.1)) = some f.ptn then (s.modLink l fun x => x.unhold s.fc).linkStatus f 0
  else s.linkStatus f 4

/-- Link words performed. -/
def State.linkStep (s : State) (f : Flight) : State :=
  match fnOf f.word with
  | 0 => s.turnStep f
  | 1 => let x := s.link f.sa.toNat; s.performVal f (w64 x.word) (x.u != 0) x.hold.isSome
  | _ => s.holdStep f

/-- A group's last turn began at least 2 µs (1,880 fc) ago (R377). -/
def LGroup.eligible (g : LGroup) (fc : Nat) : Bool :=
  match g.began with
  | some t => decide (t + 1880 ≤ fc)
  | none => true

/-- A chosen group enters TURNING; its last flit was accepted at an open moment, at most 40 ns (38 fc) before the turn
ends. -/
def State.turnGroup (s : State) (l g : Nat) : State :=
  let (x, s) := s.fresh
  s.modLink l fun k => { k with groups := k.groups.modify g fun q => { q with turning := true, began := some s.fc, ends := s.fc + x % 39 } }

/-- The groups a request to k turns: of the long side, eligible ones first, lowest first (R377). -/
def Link.chosen (x : Link) (k fc : Nat) : List Nat :=
  let side := (List.range 16).filter fun g => match x.groups[g]? with
    | some q => q.up == decide (k < x.u)
    | none => false
  let ok (g : Nat) : Bool := ((x.groups[g]?).map fun q => q.eligible fc).getD false
  ((side.filter ok) ++ side.filter fun g => !ok g).take (absDiff k x.u)

/-- `LINK_FIFO_APPLY` (R377, R378): the next request chooses its groups; those eligible turn at once. -/
def execLinkFifoApply (l : Nat) (s : State) : Out :=
  let x := s.link l
  match x.cur, x.fifo with
  | none, (p, k) :: rest =>
    if x.hold.any fun h => h.1 != p then .next s
    else
      let gs := x.chosen k s.fc
      let s := s.modLink l fun x => { x with fifo := rest, cur := if gs = [] then none else some (p, k, gs) }
      .next (gs.foldl (fun s g => if ((x.groups[g]?).map fun q => q.eligible s.fc).getD false then s.turnGroup l g else s) s)
  | _, _ => .next s

/-- `GROUP_ELIGIBLE` (R377): a chosen group that had to wait turns now. -/
def execGroupEligible (l g : Nat) (s : State) : Out :=
  let x := s.link l
  match x.cur, x.groups[g]? with
  | some (_, _, gs), some q => if gs.contains g ∧ !q.turning ∧ q.eligible s.fc then .next (s.turnGroup l g) else .next s
  | _, _ => .next s

/-- `GROUP_TURN_COMPLETE` (R377): the group carries the other direction; the request is complete with its last group. -/
def execGroupTurnComplete (l g : Nat) (s : State) : Out :=
  let x := s.link l
  match x.groups[g]? with
  | none => .next s
  | some q =>
    if !q.turning ∨ s.fc < q.ends then .next s
    else .next (s.modLink l fun x => { x with
      groups := x.groups.set g { q with turning := false, up := !q.up }
      u := if q.up then x.u - 1 else x.u + 1
      turned := x.turned + 1
      cur := match x.cur with
        | some (p, k, gs) => let gs := gs.filter (· != g); if gs = [] then none else some (p, k, gs)
        | none => none })

/-- `LINK_HOLD_EXPIRE` (R378): a hold ends after 50 µs (47,000 fc). -/
def execLinkHoldExpire (l : Nat) (s : State) : Out :=
  match (s.link l).hold with
  | some (_, t) => if t + 47000 ≤ s.fc then .next (s.modLink l fun x => x.unhold s.fc) else .next s
  | none => .next s

end Sys2Proof.Machine
end

