-- ==== Sys2Proof/Machine/Stats.lean ====
section
/-!
DEFINITION. Statistics: opcode 0x6E (R385), count tokens and records (R90-R92), and the error events that are only counted
(R238).
-/

namespace Sys2Proof.Machine

/-! ## The words (R385) -/

/-- STATCLS. -/
def statCls (v : Nat) : FaultInfo := { cls := clsRange, code := 0x034, opnd := v }

/-- `STAT.EMIT`: B is added to the unit's count of class A; a teller has no counts and writes 0. -/
def execStatEmit (o : FormR) (s : State) : Out :=
  fireTimed o.g (fun w x s =>
    let c := (s.readS w o.a.toNat).toNat
    let n := (s.readS w o.b.toNat).toNat % 2 ^ 32
    if c = 0 ∨ 5 < c then .error (statCls c)
    else
      let tag := s.tagOf w (field x 14 5).toNat (field x 9 5).toNat
      match w with
      | .tel .. => .ok { wr := writeS o.d.toNat tag 0 }
      | .elem pg pe _ _ =>
        let old := ((s.pe? pg pe).map fun e => e.live.cnts.getD (c - 1) 0).getD 0
        let new := min (2 ^ 32 - 1) (old + n)
        .ok { wr := writeS o.d.toNat tag (w64 new), outcome := new != 0
              ev := tab 5 fun i => if i + 1 = c then n else 0 }) s

/-- `STAT.CFG` fires: the array must be 8-byte aligned (ALIGN 0x009; log 42). -/
def execStatCfg (o : FormR) (s : State) : Out :=
  fireJob o.g (fun w _ s f =>
    match (alignFault 9 f.sa.toNat 8).orElse fun _ => s.telAddr w f.asid f.sa.toNat .load false with
    | some e => .error e
    | none => .ok { jobHolds f o.d.toNat (s.fc + 1) with plan := recParts f.sa.toNat 32 }) jobPost s

/-- The selected counter of `STAT.RD`, by set and index (log 43): none where the spec has none. -/
def State.statCtr (s : State) (w : Who) (set_ ix : Nat) : Option Nat :=
  match set_ with
  | 0 => if w.isElem ∧ ix % 8 < 5 then ((s.ten? w.page (ix / 8)).bind fun t => t.ctr[ix % 8]?) else none
  | 1 => (s.die w.die).corr[ix]?
  | 2 =>
    let l := s.link (ix / 8)
    if 11 < ix / 8 then none
    else match ix % 8 with
      | 0 => some l.turned
      | 1 => some l.refused
      | 2 => some (l.holdFc + match l.hold with
          | some (_, t) => s.fc - t
          | none => 0)
      | _ => none
  | 3 => match (s.die w.die).engs[ix / 8]?, ix % 8 with
    | some e, 0 => some e.cmds
    | some e, 1 => some e.bytes
    | _, _ => none
  | _ => none

/-- An element may read only what the debug policy opens of set 0 (R385, R415). -/
def State.statLevel (s : State) (w : Who) (set_ : Nat) : Bool :=
  !w.isElem || (set_ == 0 && bitAt (((s.ptn? (s.ptnOf w)).map (·.debug)).getD 0) 0)

/-- `STAT.RD`. -/
def execStatRd (o : FormR) (s : State) : Out :=
  fireTimed o.g (fun w x s =>
    let a := (s.readS w o.a.toNat).toNat
    if 65536 ≤ a ∨ 3 < a / 256 then .error (statCls a)
    else if !s.statLevel w (a / 256) then .error { cls := clsPriv, code := 2, opnd := a }
    else match s.statCtr w (a / 256) (a % 256) with
      | none => .error (statCls a)
      | some v => .ok { wr := writeS o.d.toNat (s.tagOf w (field x 14 5).toNat (field x 9 5).toNat) (w64 v)
                        outcome := w64 v != 0 }) s

/-- A configuration entry of a page: none past the end mark; an entry out of its limits configures nothing (log 42). -/
def statOf (b : List Byte) : Option (Nat × Option Stat) :=
  let pg := recNat b 0 2
  if pg = 0xFFFF then none
  else
    let ok := recNat b 4 2 / 2 ^ 14 == 1 && recNat b 8 8 % 64 == 0 && recNat b 0x10 4 != 0 && decide (recNat b 0x10 4 ≤ 2 ^ 20)
    some (pg, if ok then some ⟨recNat b 2 2, recNat b 4 2, recNat b 8 8, recNat b 0x10 4, []⟩ else none)

/-- The entries of a configuration array read so far, in order. -/
def statList (b : List Byte) : List (Option (Nat × Option Stat)) := (List.range (b.length / 32)).map fun i => statOf ((b.drop (32 * i)).take 32)

/-- What a configuration array sets, by page index. -/
def statPages (l : List (Option (Nat × Option Stat))) : List (Nat × Stat) :=
  l.flatMap fun x => match x with
    | some (pg, some y) => [(pg, y)]
    | _ => []

/-- `STAT.CFG` performed: its entries are read one by one, to the end mark (R385; at most 257, log 42). -/
def State.cfgStep (s : State) (f : Flight) : State :=
  match s.task? f.ptn f.sb.toNat with
  | none => s.flightFault f { cls := clsRange, code := 0x031, opnd := f.sb.toNat }
  | some k =>
    if k.st ≠ .queued ∧ k.st ≠ .preempted then s.flightFault f { cls := clsRange, code := 0x031, opnd := f.sb.toNat }
    else s.withRec f fun b s =>
      let es := statList b
      if es.length < 257 ∧ es.all (·.isSome) then
        s.modFlight f.fid fun f => { f with plan := f.plan ++ recParts (f.sa.toNat + b.length) 32 }
      else
        let l := statPages es
        let s := s.modTask k.ptn k.lseq fun k => { k with stats := l.foldl (fun m x => alSet x.1 x.2 m) k.stats }
        let s := { s with pages := s.pages.map fun ((g, p) : Nat × Page) =>
          if k.rgs.contains p.rg then match alGet p.pidx l with
            | some x => (g, { p with stat := some x })
            | none => (g, p)
          else (g, p) }
        s.performVal f (w64 l.length) (l ≠ []) false

/-! ## Count tokens and records (R90, R91) -/

/-- The counts of the tile a unit tells next: an ME's are those of its streams and of updates at its owner. -/
def Page.unitCnts (p : Page) (u : Nat) : List Nat :=
  let z := List.replicate 5 0
  if u < 16 then ((p.pes[u]?).map (·.live.cnts)).getD z
  else if u < 20 then ((p.mes[u - 16]?).map fun m =>
    m.streams.foldl (fun (a : List Nat) (st : Machine.Stream) => addCnts a (cntsOf m.told st.cnts)) m.cnts).getD z
  else if u < 22 then ((p.mtx.tens[u - 20]?).map (·.cnts)).getD z
  else p.saf.graphs.foldl (fun a g => addCnts a (cntsOf p.saf.told g.cnts)) z

/-- A unit's counts of its tile cleared, one more tile told. -/
def Page.tell (p : Page) (u : Nat) : Page :=
  let z := List.replicate 5 0
  if u < 16 then { p with pes := p.pes.modify u fun e => { e with live := { e.live with cnts := z, told := e.live.told + 1 } } }
  else if u < 20 then { p with mes := p.mes.modify (u - 16) fun m => { m with
    streams := m.streams.map fun (st : Machine.Stream) => { st with cnts := alDel m.told st.cnts }, cnts := z, told := m.told + 1 } }
  else if u < 22 then
    { p with mtx := { p.mtx with tens := p.mtx.tens.modify (u - 20) fun t => { t with cnts := z, told := t.told + 1 } } }
  else { p with saf := { p.saf with
    graphs := p.saf.graphs.map fun (g : Graph) => { g with cnts := alDel p.saf.told g.cnts }, told := p.saf.told + 1 } }

/-- A tenant whose instruction at the head has taken the closing token and is not done with it. -/
def Page.unitBusy (p : Page) (u : Nat) : Bool :=
  (u == 20 || u == 21) && ((p.mtx.tens[u - 20]?).map (·.run.isSome)).getD false

/-- A unit owes the counts of a closed tile. -/
def Page.owesCounts (p : Page) (u : Nat) : Bool :=
  decide (p.unitTold u < p.unitTiles u) && !p.unitHeld u && !p.unitBusy u

/-- A count token (R90): class, unit, count. -/
def countToken (cls u n : Nat) : Word := w64 (cls * 2 ^ 60 + u * 2 ^ 52 + min n (2 ^ 32 - 1))

/-- The count tokens of a unit's tile: one for each class whose count is not zero. -/
def countTokens (u : Nat) (c : List Nat) : List Word :=
  (List.range 5).filterMap fun i => if c.getD i 0 = 0 then none else some (countToken (i + 1) u (c.getD i 0))

/-- The counts by class that count tokens carry. -/
def tokenCounts (l : List Word) : List Nat :=
  tab 5 fun i => l.foldl (fun n t => if bits t.toNat 63 60 = i + 1 then n + bits t.toNat 31 0 else n) 0

/-- Counts of a tile merged exactly, saturating at 64 bits (R91). -/
def mergeCnts (a b : List Nat) : List Nat := tab 5 fun i => min (2 ^ 64 - 1) (a.getD i 0 + b.getD i 0)

/-- A unit's counts joined to its tile's. -/
def joinTile (pos u : Nat) (c : List Nat) : List TileStat → List TileStat
  | [] => [⟨pos, [(u, c)], false⟩]
  | x :: l => if x.pos = pos then { x with parts := alSet u c x.parts } :: l else x :: joinTile pos u c l

/-- `STAT_COUNT_EMIT` (R90): a unit that has ended a tile emits its counts and clears them; without a configured merge they
are discarded. -/
def execStatCountEmit (pg unit : Nat) (s : State) : Out :=
  match s.page? pg with
  | some p =>
    if !p.owesCounts unit then .next s
    else
      .next (s.modPage pg fun p =>
        let q := p.tell unit
        { q with stat := p.stat.map fun (x : Stat) =>
            if bitAt x.mask (unitGroup unit) then { x with tiles := joinTile (p.unitTold unit) unit (tokenCounts (countTokens unit (p.unitCnts unit))) x.tiles }
            else x })
  | none => .next s

/-- The counts of a tile. -/
def TileStat.sums (t : TileStat) : List Nat := t.parts.foldl (fun a c => mergeCnts a c.2) []

/-- The source groups of a tile: one whose units ended the tile counts as having contributed though all its counts are zero
(DESIGN CHOICE, log 133). -/
def TileStat.groups (t : TileStat) : Nat := t.parts.foldl (fun m c => m ||| 2 ^ unitGroup c.1) 0

/-- The record of a tile of an index (R91). -/
def TileStat.record (r : Region) (p : Page) (ix : Nat) (x : TileStat) : List Byte :=
  leBytes 8 (if r.ordered then r.ts + ix else ix) ++ leBytes 2 p.pidx ++ leBytes 2 x.groups ++
  leBytes 4 (if r.ordered then 0 else 1) ++ (tab 5 fun i => leBytes 8 (x.sums.getD i 0)).flatten ++ leBytes 8 0

/-- A tile's record written: where the region can be rolled back its counts are kept, since a tile re-run from a cut is
recorded again (R92). -/
def Page.recorded (p : Page) (t : TileStat) : Page :=
  { p with stat := p.stat.map fun y => { y with
    tiles := if p.rollback then y.tiles.map (fun z => if z = t then { z with written := true } else z)
             else y.tiles.filter (fun z => z != t) } }

/-- `STAT_RECORD_WRITE` (R90, R92): the ME writes the record of the first tile every source has told; an abandoned execution of a
tile has none. -/
def execStatRecordWrite (pg : Nat) (s : State) : Out :=
  match s.page? pg, s.regionOf pg with
  | some p, some r => match p.stat with
    | none => .next s
    | some x => match x.tiles.find? (p.recordDue x) with
      | none => .next s
      | some t =>
        let ix := r.tileOf t.pos
        let me := bits x.endp 13 8 % 4
        let va := x.base + 64 * (ix % max 1 x.nrec)
        let port : Port := .me pg me
        let drop (s : State) : State := s.modPage pg fun p => p.recorded t
        if s.abandoned r t.pos then .next (drop s)
        else
        let iv := ((s.me? pg me).map (·.ival)).getD 0
        match s.walk (dieOfPage pg) p.asid va with
        | .error c => .next ((drop s).raiseMe pg (4 * me) { cls := clsXlate, code := c, opnd := va })
        | .ok e => match s.accessFault (some (r.key, ix)) e .store false va with
          | some f => .next ((drop s).raiseMe pg (4 * me) f)
          | none => match s.write port (some (r.key, ix)) iv e.leaf (e.key va) (t.record r p ix) (allOnes 64) with
            | .ok s => .next (drop s)
            | .poison _ => .next (drop s)
            | .wait s => .next s
  | _, _ => .next s

/-! ## Errors of memories and latches (R238, R239) -/

/-- `CORRECTED_ERROR` (R238): counted in the die's counters, class 0 HBM, 1 vaults, 2 latches and queues. -/
def execCorrectedError (die cls : Nat) (s : State) : Out :=
  .next (s.modDie die fun d => { d with corr := d.corr.modify cls (· + 1) })

/-- `UNCORRECTABLE_ERROR` (R239): the block that holds the key is poisoned. -/
def execUncorrectableError (pa : Nat) (s : State) : Out := .next (s.poisonBlock pa)

/-- `LATCH_PARITY_ERROR` (R239): the token a latch held is poisoned: it becomes a poison marker (log 44). -/
def execLatchParityError (pg rt pos : Nat) (s : State) : Out :=
  .next (s.modPage pg fun p => { p with routes := p.routes.modify rt fun r =>
    if r.net = 3 then r
    else { r with latches := r.latches.modify pos fun t => t.map fun _ => ⟨tagCtl, BitVec.ofNat 512 (4 * 2 ^ 56)⟩ } })

end Sys2Proof.Machine
end

