-- ==== Sys2Proof/Machine/Rgn.lean ====
section
/-!
DEFINITION. Region control, opcode 0x6F (R382, R386, R399-R402).
-/

namespace Sys2Proof.Machine

def execRgnPreempt (o : FormR) (s : State) : Out := soonR o true s
def execRgnResume (o : FormR) (s : State) : Out := soonR o true s
def execRgnRollback (o : FormR) (s : State) : Out := soonR o true s
def execRgnQuiesce (o : FormR) (s : State) : Out := soonR o true s
def execRgnAsid (o : FormR) (s : State) : Out := soonR o true s

/-- The regions of a task. -/
def State.regionsOf (s : State) (k : Task) : List Region := k.rgs.filterMap fun g => s.region? g

/-- RGNSTATE. -/
def rgnState (v : Nat) : FaultInfo := { cls := clsRange, code := 0x031, opnd := v }

/-- It is this word's turn: no earlier `RGN` word on the task is outstanding (R386). -/
def State.rgnTurn (s : State) (f : Flight) : Bool :=
  s.flights.all fun g => !(opcOf g.word == 0x6F && g.ptn == f.ptn && g.sa == f.sa && decide (g.fid < f.fid))

/-- A word that waited on a task cancelled meanwhile. -/
def State.rgnCut (s : State) (f : Flight) : State := s.performVal f (BitVec.allOnes 64) true false

/-- A value written, its outcome by R382. -/
def State.rgnVal (s : State) (f : Flight) (v : Nat) : State := s.performVal f (w64 v) (w64 v != 0) false

/-- A region that is armed begins to stop for a waiting `.PREEMPT` (R400). -/
def Region.stopping (r : Region) (fc fid : Nat) : Region :=
  if r.st = .armed then { r with st := .stopping, stopAt := fc, stopBy := some fid } else { r with stopBy := some fid }

/-- `RGN.PREEMPT` (R386, R400): every region is asked to stop, those still loading once they are armed. -/
def State.preemptStep (s : State) (f : Flight) (k : Task) : State :=
  if f.stage = 0 then
    if k.st ≠ .running ∨ k.cancelled then s.flightFault f (rgnState f.sa.toNat)
    else (k.rgs.foldl (fun s g => s.modRegion g fun r => r.stopping s.fc f.fid) s).modFlight f.fid fun f => { f with stage := 1 }
  else if k.cancelled ∨ k.st = .ended then s.rgnCut f
  else k.rgs.foldl (fun s g => s.modRegion g fun r =>
    if r.st = .armed ∧ r.stopBy = some f.fid then r.stopping s.fc f.fid else r) s

/-- The die on which every page of a task stands, if they stand on one. -/
def State.resident (s : State) (k : Task) : Option Nat :=
  let ps := (s.regionsOf k).flatMap fun r => r.pages
  match ps with
  | some g :: _ => if ps.all (fun x => (x.map dieOfPage) == some (dieOfPage g)) then some (dieOfPage g) else none
  | _ => none

/-- `RGN.RESUME` (R386, R402): every region is armed again where its pages now stand. -/
def State.resumeStep (s : State) (f : Flight) (k : Task) : State :=
  match s.resident k with
  | none => s.flightFault f (rgnState f.sa.toNat)
  | some d =>
    if k.st ≠ .preempted ∨ k.cancelled then s.flightFault f (rgnState f.sa.toNat)
    else
      let s := k.rgs.foldl (fun s g => s.modRegion g fun r =>
        { r with st := .armed, die := d, quiet := 0, swept := false, watchdog := (s.die d).watchdog }) s
      (s.modTask k.ptn k.lseq fun k => { k with st := .running, die := d }).rgnVal f 0

/-- Every context of a region is quiet or withheld (R386): its last fc was quiet, or it is frozen. -/
def Region.still (r : Region) : Bool := r.st == .frozen || ((r.st == .armed || r.st == .stopping) && decide (1 ≤ r.quiet))

/-- `RGN.ROLLBACK` (R386, R399). -/
def State.rollbackStep (s : State) (f : Flight) (k : Task) : State :=
  let rs := s.regionsOf k
  if (k.st ≠ .running ∧ k.st ≠ .preempted) ∨ k.cancelled ∨ !rs.all Region.still ∨ (s.resident k).isNone then
    s.flightFault f (rgnState f.sa.toNat)
  else if rs.any fun r => !r.rollback || r.cutBad then s.flightFault f { cls := clsRange, code := 0x032, opnd := f.sa.toNat }
  else
    let c := ((rs.head?).map (·.cut)).getD 0
    let s := k.rgs.foldl State.rollback s
    (s.modTask k.ptn k.lseq fun k => { k with st := .running }).rgnVal f c

/-- `RGN.QUIESCE` (R274, R386). -/
def State.quiesceStep (s : State) (f : Flight) (k : Task) : State :=
  if f.stage = 0 ∧ (k.st ≠ .running ∨ k.cancelled) then s.flightFault f (rgnState f.sa.toNat)
  else if k.st = .ended ∧ k.status = 0 then s.rgnVal f 0
  else if k.cancelled ∨ k.st = .ended then s.rgnCut f
  else
    let rs := s.regionsOf k
    if rs.all fun r => r.swept then s.rgnVal f (rs.foldl (fun m r => max m r.decided) 0)
    else s.modFlight f.fid fun f => { f with stage := 1 }

/-- An ASID entry is live in a die's table (R211). -/
def State.asidLive (s : State) (die a : Nat) : Bool := ((alGet a (s.die die).asids).getD 0).getLsbD 0

/-- `RGN.ASID` (R386): the task's pages and waiting instructions use the new ASID. -/
def State.asidStep (s : State) (f : Flight) (k : Task) : State :=
  let a := f.sb.toNat
  let mine := (((s.ptn? k.ptn).map (·.res.asids)).getD []).contains a
  if k.st ≠ .preempted ∨ k.cancelled ∨ !mine ∨ !s.asidLive k.die a then s.flightFault f (rgnState f.sa.toNat)
  else
    let old := k.asid
    let s := s.modTask k.ptn k.lseq fun k => { k with asid := a }
    let s := k.rgs.foldl (fun s g => s.modRegion g fun r => { r with asid := a }) s
    let s := { s with
      pages := s.pages.map fun ((g, p) : Nat × Page) => if k.rgs.contains p.rg then (g, { p with asid := a }) else (g, p)
      flights := s.flights.map fun (x : Flight) =>
        if x.who.isElem && k.rgs.contains (((s.page? x.who.page).map fun (p : Page) => p.rg).getD s.ids) then { x with asid := a } else x }
    s.rgnVal f old

/-- Region-control words performed. -/
def State.rgnStep (s : State) (f : Flight) : State :=
  if !s.rgnTurn f then s
  else match s.task? f.ptn f.sa.toNat with
    | none => if f.stage = 0 then s.flightFault f { cls := clsRange, code := 0x030, opnd := f.sa.toNat } else s.rgnCut f
    | some k => match fnOf f.word with
      | 0 => s.preemptStep f k
      | 1 => s.resumeStep f k
      | 2 => s.rollbackStep f k
      | 3 => s.quiesceStep f k
      | _ => s.asidStep f k

end Sys2Proof.Machine
end

