-- ==== Sys2Proof/Machine/System.lean ====
section
/-!
DEFINITION. System words, opcode 0x7F, but for page saves: traps, control registers, the mailbox and translation
invalidation (R211, R219, R382, R388-R390, R393).
-/

namespace Sys2Proof.Machine

/-- A word whose results are known when it fires, with an effect of its own on the state. -/
def fireSys (g : Guard) (k : Who → Word → State → Except FaultInfo (Done × (State → State))) (s : State) : Out :=
  match s.issue with
  | none => .fault .noAgent
  | some (w, x) =>
    let s := { s with issue := none }
    match s.guardFault w g x with
    | some f => .next (s.raise w x f)
    | none => match k w x s with
      | .error f => .next (s.raise w x f)
      | .ok (d, post) => .next (post (s.launchDone w x g d))

/-- `SYS.TRAP` (R388, R389): class 31, EPC the word behind; it has no operand, so TVAL is 0 (log 45). -/
def execSysTrap (o : FormR) (s : State) : Out :=
  fireSys o.g (fun w x s =>
    let c := (s.readS w o.a.toNat).toNat % 2048
    .ok ({}, fun s => match w with
      | .tel t cx pc => s.trap t cx { cls := clsTrap, code := c } (pc + 8) pc false x
      | .elem .. => s)) s

/-- `SYS.ERET` (R388). -/
def execSysEret (o : FormR) (s : State) : Out :=
  fireSys o.g (fun w _ _ => .ok ({ gap := 2 }, fun s => match w with
    | .tel t cx _ => s.trapReturn t cx
    | .elem .. => s)) s

/-! ## Control registers (R390) -/

/-- The entry of an ASID table as last written. -/
def State.asidEntry (s : State) (die a : Nat) : BitVec 128 :=
  ((alGet a (s.die die).asidsNew).orElse fun _ => alGet a (s.die die).asids).getD 0

/-- An ASID is one of a partition's. -/
def State.ownsAsid (s : State) (ptn a : Nat) : Bool := (((s.ptn? ptn).map (·.res.asids)).getD []).contains a

/-- HOME (R390, R409). -/
def homeWord (home : Nat) : Nat := home / 2 * 16 + home % 2

/-- A context of the issuer's teller that belongs to the issuer's partition (log 46). -/
def State.ownCtx (s : State) (t n ptn : Nat) : Bool := ((s.tctx? t n).bind (·.ptn)) == some ptn

/-- A control register as a context reads it: none where the number is not listed; PRIV for a context of another
partition. -/
def State.csrRead (s : State) (t cx n : Nat) : Except FaultInfo Word :=
  match s.tctx? t cx with
  | none => .error { cls := clsRange, code := 0x035, opnd := n }
  | some c =>
    let die := dieOfTeller t
    let p := c.ptn.getD 0xFF
    let entry := if s.ownsAsid p c.asidSel then s.asidEntry die c.asidSel else 0
    match n with
    | 0x000 => .ok c.tvec
    | 0x001 => .ok c.epc
    | 0x002 => .ok c.cause
    | 0x003 => .ok c.tval
    | 0x004 => .ok c.tstat
    | 0x005 => .ok c.fpc
    | 0x010 | 0x011 | 0x012 | 0x013 =>
      if !s.ownCtx t (n - 0x010) p then .error { cls := clsPriv, code := 2, opnd := n }
      else match s.tctx? t (n - 0x010) with
        | some x => .ok (w64 ((if x.run then 2 ^ 63 else 0) + bits x.pc.toNat 55 3 * 8))
        | none => .ok 0
    | 0x020 => .ok (w64 c.asidSel)
    | 0x021 => .ok (entry.setWidth 64)
    | 0x022 => .ok ((entry >>> 64).setWidth 64)
    | 0x040 => .ok (s.die die).mbxOvf
    | 0x050 => .ok (w64 s.fc)
    | 0x060 => .ok ((alGet p (s.die die).ptill).getD 0)
    | 0x061 => .ok (w64 (homeWord (((s.ptn? p).map (·.res.home)).getD 0)))
    | _ =>
      if 0x030 ≤ n ∧ n < 0x040 then .ok ((s.die die).lqBind.getD (n - 0x030) 0)
      else .error { cls := clsRange, code := 0x035, opnd := n }

/-- What forbids a write of a control register. -/
def State.csrDeny (s : State) (t cx n : Nat) (v : Word) : Option FaultInfo :=
  let priv : FaultInfo := { cls := clsPriv, code := 2, opnd := n }
  let p := ((s.tctx? t cx).bind (·.ptn)).getD 0xFF
  match n with
  | 0x002 | 0x003 | 0x005 | 0x050 | 0x061 => some priv
  | 0x010 | 0x011 | 0x012 | 0x013 => if s.ownCtx t (n - 0x010) p then none else some priv
  | 0x020 => if s.ownsAsid p v.toNat then none else some priv
  | 0x022 =>
    let sel := ((s.tctx? t cx).map (·.asidSel)).getD 0
    if s.ownsAsid p sel ∧ bits v.toNat 44 40 = ((s.ptn? p).map (·.res.keySlot)).getD 32 then none else some priv
  | 0x060 => if v.toNat % 64 = 0 then none else some { cls := clsAlign, code := 6, opnd := v.toNat }
  | _ => if 0x030 ≤ n ∧ n < 0x040 then some priv else none

/-- A context starts at a PC. -/
def TCtx.start (c : TCtx) (pc : Word) : TCtx := { c with run := true, pc := pc, line := 0 }

/-- A control register written. -/
def State.csrWrite (s : State) (t cx n : Nat) (v : Word) : State :=
  let die := dieOfTeller t
  match n with
  | 0x000 => s.modTctx t cx fun c => { c with tvec := v &&& ~~~7#64 }
  | 0x001 => s.modTctx t cx fun c => { c with epc := v }
  | 0x004 => s.modTctx t cx fun c => { c with tstat := v &&& 0xFF03#64 }
  | 0x010 | 0x011 | 0x012 | 0x013 =>
    if v.getLsbD 63 then s.modTctx t (n - 0x010) fun c => if c.run then c else c.start (w64 (bits v.toNat 55 3 * 8)) else s
  | 0x020 => s.modTctx t cx fun c => { c with asidSel := v.toNat % 512 }
  | 0x021 => s.modTctx t cx fun c => { c with asidLo := v }
  | 0x022 => match s.tctx? t cx with
    | some c => s.modDie die fun d => { d with asidsNew := alSet c.asidSel (v ++ c.asidLo) d.asidsNew }
    | none => s
  | 0x040 => s.modDie die fun d => { d with mbxOvf := v }
  | 0x060 => match (s.tctx? t cx).bind (·.ptn) with
    | some p => s.modDie die fun d => { d with ptill := alSet p v d.ptill }
    | none => s
  | _ => s

/-- A write asked for by its own event: made, or raised at the context. -/
def State.csrEvent (s : State) (t cx n : Nat) (v : Word) : State :=
  match s.csrDeny t cx n v with
  | some f => match s.tctx? t cx with
    | some c => s.raise (.tel t cx c.pc) 0 f
    | none => s
  | none => s.csrWrite t cx n v

/-- `CSR_CTL_WRITE` (R390): writing RUN = 1 starts a halted context at the PC given. -/
def execCsrCtlWrite (t cx n : Nat) (v : Word) (s : State) : Out := .next (if n < 4 then s.csrEvent t cx (0x010 + n) v else s)

/-- `CSR_ASIDHI_WRITE` (R390): both halves of the selected entry are committed. -/
def execCsrAsidhiWrite (t cx : Nat) (v : Word) (s : State) : Out := .next (s.csrEvent t cx 0x022 v)

/-- `CSR_ASIDSEL_WRITE` (R390). -/
def execCsrAsidselWrite (t cx : Nat) (v : Word) (s : State) : Out := .next (s.csrEvent t cx 0x020 v)

/-- `CSR_PTILL_WRITE` (R390). -/
def execCsrPtillWrite (t cx : Nat) (v : Word) (s : State) : Out := .next (s.csrEvent t cx 0x060 v)

/-- `SYS.CSRR` (R388). -/
def execSysCsrr (o : FormR) (s : State) : Out :=
  fireTimed o.g (fun w x s => match w with
    | .tel t cx _ => match s.csrRead t cx ((s.readS w o.a.toNat).toNat % 4096) with
      | .error f => .error f
      | .ok v => .ok { wr := writeS o.d.toNat (s.tagOf w (field x 14 5).toNat (field x 9 5).toNat) v, outcome := v != 0 }
    | .elem .. => .ok {}) s

/-- The event that makes a write of a control register, for those that have one. -/
def csrStep (t cx n : Nat) (v : Word) : Option Instr :=
  match n with
  | 0x010 | 0x011 | 0x012 | 0x013 => some (.csrCtlWrite t cx (n - 0x010) v)
  | 0x020 => some (.csrAsidselWrite t cx v)
  | 0x022 => some (.csrAsidhiWrite t cx v)
  | 0x060 => some (.csrPtillWrite t cx v)
  | _ => none

/-- `SYS.CSRW` (R388): D gets the old value, the register the new one. -/
def execSysCsrw (o : FormR) (s : State) : Out :=
  fireSys o.g (fun w x s => match w with
    | .tel t cx _ =>
      let n := (s.readS w o.a.toNat).toNat % 4096
      let v := s.readS w o.b.toNat
      match s.csrRead t cx n, s.csrDeny t cx n v with
      | .error f, _ => .error f
      | .ok _, some f => .error f
      | .ok old, none => .ok ({ wr := writeS o.d.toNat (s.tagOf w (field x 14 5).toNat (field x 9 5).toNat) old, outcome := old != 0 },
          fun s => match csrStep t cx n v with
            | some e => s.now e
            | none => s.csrWrite t cx n v)
    | .elem .. => .ok ({}, id)) s

/-! ## The mailbox (R388, R393) -/

/-- The oldest record of a partition taken out of a die's mailbox. -/
def dropRec (p : Nat) : List FRec → List FRec
  | [] => []
  | r :: l => if r.ptn = p then l else r :: dropRec p l

/-- `SYS.MBX` (R388). -/
def execSysMbx (o : FormR) (s : State) : Out :=
  fireSys o.g (fun w x s =>
    let a := (s.readS w o.a.toNat).toNat
    let p := s.ptnOf w
    if 1 < a then .error { cls := clsRange, code := 0x038, opnd := a }
    else
      let r := s.mbxHead w.die p
      let v := bytesVec ((r.map (·.bytes)).getD [])
      .ok ({ wr := writeV o.d.toNat (s.tagOf w (field x 14 5).toNat (field x 9 5).toNat) v, outcome := r.isSome },
        fun s => if a = 0 then s.modDie w.die fun d => { d with mbx := dropRec p d.mbx } else s)) s

/-! ## Translation invalidation (R219, R388) -/

/-- `SYS.TLBI` fires: an ASID of another partition raises PRIV. -/
def execSysTlbi (o : FormR) (s : State) : Out :=
  fireJob o.g (fun _ _ s f =>
    if !s.ownsAsid f.ptn f.sa.toNat then .error { cls := clsPriv, code := 2, opnd := f.sa.toNat }
    else .ok { f with after := s.fc + 1 }) jobPost s

/-- An entry a `TLBI` reaches: all of an ASID's, or those covering an address. -/
def Tlb.hit (e : Tlb) (a : Nat) (b : Word) : Bool := e.asid == a && (b == BitVec.allOnes 64 || e.covers a b.toNat)

/-- Every translation entry a `TLBI` reaches dropped, on every die, and the ASID's table entries as last written take
effect (R390). -/
def State.dropTlbs (s : State) (a : Nat) (b : Word) : State :=
  let keep (e : Option Tlb) : Option Tlb := e.filter fun x => !x.hit a b
  { s with
    pages := s.pages.map fun ((g, p) : Nat × Page) => (g, { p with mes := p.mes.map fun (m : Me) =>
      { m with tlb := keep m.tlb, streams := m.streams.map fun (x : Stream) => { x with tlb := keep x.tlb } } })
    tellers := s.tellers.map fun (t : Teller) => { t with tlb := t.tlb.filter fun x => !x.hit a b }
    dies := s.dies.map fun (d : Die) => match alGet a d.asidsNew with
      | some e => { d with asids := alSet a e d.asids, asidsNew := alDel a d.asidsNew }
      | none => d }

/-- A request issued before the entries were dropped, of the ASID. -/
def Req.uses (r : Req) (a : Nat) (mark : Nat) : Bool := decide (r.rid < mark) && r.asid == a

/-- `SYS.TLBI`: once the context's earlier accesses are performed, the entries are dropped; it is performed when every
access and walk that used one is. -/
def State.tlbiStep (s : State) (f : Flight) : State :=
  let a := f.sa.toNat
  if f.stage = 0 then
    if s.memBefore f ≠ 0 then s
    else (s.dropTlbs a f.sb).modFlight f.fid fun f => { f with stage := 1, aux := [s.ids] }
  else if s.reqs.any fun r => r.uses a (f.aux.headD 0) then s
  else (s.dropTlbs a f.sb).perform f Writes.none false false []

end Sys2Proof.Machine
end

