-- ==== Sys2Proof/Machine/Save.lean ====
section
/-!
DEFINITION. Saving and restoring a page: `SYS.PGSV` and `SYS.PGRS` (R388, R402, R403). The order of fields inside an area
of R403 is the model's where the rule gives none (log 47); what the bytes cannot hold is kept with them (log 20).
-/

namespace Sys2Proof.Machine

/-! ## The save image (R403) -/

/-- Bytes cut or filled with zeros to a length. -/
def area (n : Nat) (bs : List Byte) : List Byte := bs.take n ++ List.replicate (n - bs.length) 0

def vec64 (v : Vec) : List Byte := leBytes 64 v.toNat

/-- A context's registers: 320 bytes. -/
def Ctx.saveRegs (c : Ctx) : List Byte := area 320 ((c.a.map fun a => leBytes 8 a.toNat).flatten ++ (c.v.map vec64).flatten)

/-- Two bits of a predicate. -/
def Tri.code : Tri → Nat
  | .ff => 0
  | .tt => 1
  | .pend => 2

def Tri.ofCode (n : Nat) : Tri := if n % 4 = 1 then .tt else if n % 4 = 2 then .pend else .ff

/-- A context's control word: predicates, withheld, and in context 0's bits [27:24] the pulses standing at control ports. -/
def Ctx.saveCtl (c : Ctx) (pulses : Nat) : List Byte :=
  leBytes 8 (c.p.foldr (fun t n => t.code + 4 * n) 0 + (if c.withheld then 2 ^ 16 else 0) + pulses * 2 ^ 24)

/-- Control in ports of an element at which a pulse stands. -/
def Page.pulses (p : Page) (pe : Nat) : Nat :=
  (List.range 4).foldl (fun n i => if p.routes.any fun r => r.net == 3 && r.dst == epPe pe i && (r.latches.getLast?).join.isSome
    then n + 2 ^ i else n) 0

/-- An element's control words: 64 bytes. -/
def Page.saveCtl (p : Page) (fs : List Flight) (n : Nat) (e : Pe) : List Byte :=
  let busy := (List.range 16).foldl (fun m i => if fs.any fun f => match f.who with
    | .elem _ pe _ sl => pe == n && sl == i
    | .tel .. => false then m + 2 ^ i else m) 0
  let mrg := (List.range 16).foldl (fun m i => if ((e.live.slots[i]?).map (·.mrg)).getD false then m + 2 ^ i else m) 0
  area 64 ((e.live.ctxs.mapIdx fun i c => c.saveCtl (if i = 0 then p.pulses n else 0)).flatten ++ leBytes 8 e.live.arb ++
    leBytes 8 busy ++ leBytes 8 mrg)

/-- A shape cache entry: 320 bytes. -/
def Shape.save (x : Shape) : List Byte :=
  area 320 (area 32 (leBytes 1 x.hdr.ty ++ leBytes 1 (if x.hdr.strict then 1 else 0) ++ leBytes 2 x.hdr.pln ++ leBytes 4 x.hdr.width ++
    leBytes 8 x.hdr.pitch ++ leBytes 4 x.hdr.rows ++ leBytes 4 x.hdr.segs) ++ leBytes 8 x.addr ++ leBytes 8 x.win ++
    leBytes 16 (if x.bound then 1 else 0) ++ (x.bnd.map (leBytes 4)).flatten)

/-- A stream: 128 bytes. -/
def Stream.save (m : Stream) : List Byte :=
  let d := m.desc
  area 128 (leBytes 8 m.cur.row ++ leBytes 8 m.cur.pos ++ leBytes 2 m.pat.1 ++ leBytes 2 m.pat.2 ++ leBytes 4 (if m.eos then 1 else 0) ++
    leBytes 8 d.base ++ leBytes 8 d.shape ++ leBytes 8 d.xlen ++ leBytes 8 d.rows ++ leBytes 8 d.width ++ leBytes 8 d.pitch ++
    leBytes 2 d.sfmt ++ leBytes 2 d.efmt ++ leBytes 1 d.boff ++ leBytes 1 d.tile ++ leBytes 2 d.flags ++ leBytes 2 d.endp ++
    ((m.todo.take 3).map fun x => leBytes 8 x.2.2.2.va).flatten)

/-- The shape an instruction captured: header fields, address and window number, 40 bytes. -/
def capSave (c : ShapeHdr × Nat × Nat × List Nat) : List Byte :=
  area 40 (leBytes 1 c.1.ty ++ leBytes 1 (if c.1.strict then 1 else 0) ++ leBytes 2 c.1.pln ++ leBytes 4 c.1.width ++
    leBytes 8 c.1.pitch ++ leBytes 4 c.1.rows ++ leBytes 4 c.1.segs ++ leBytes 8 c.2.1 ++ leBytes 8 c.2.2.1)

/-- A tenant: 256 bytes, with the shape captured by the instruction at its queue's head. -/
def Tenant.save (fs : List Flight) (t : Tenant) : List Byte :=
  area 256 (leBytes 2 ((t.fmt.map fun f => f.2 * 16 + f.1).getD 0xFFFF) ++ leBytes 2 t.tiles ++
    leBytes 4 ((t.left.map (· + 1)).getD 0) ++ leBytes 8 ((t.run.map (·.step)).getD 0) ++ (t.ctr.map (leBytes 8)).flatten ++
    (t.desc.map fun d => leBytes 8 (d.ty + d.pln * 2 ^ 8 + d.rows * 2 ^ 16 + d.cols * 2 ^ 24 + d.ct * 2 ^ 32)).flatten ++
    area 64 (t.q.map fun z => leBytes 8 z.seq).flatten ++
    (((t.q.head?).bind fun z => (fs.find? fun f => f.fid == z.fid).bind fun f => f.cap.map capSave).getD []))

/-- A graph: its placement, bindings and the tags of its slices. -/
def Graph.save (g : Graph) : List Byte :=
  leBytes 2 g.handle ++ leBytes 2 g.words.length ++ leBytes 4 (if g.bound then 1 else 0) ++ (g.inb.map (leBytes 1)).flatten ++
  (g.outb.map (leBytes 1)).flatten ++ (area 8 ((g.pipe.map fun x => leBytes 1 x.1.tag).flatten))

/-- An outstanding instruction: 32 bytes. -/
def Flight.save (f : Flight) : List Byte :=
  match f.who with
  | .elem _ pe cx sl => area 32 (leBytes 1 pe ++ leBytes 1 sl ++ leBytes 1 cx ++ leBytes 5 1 ++ leBytes 8 f.word.toNat ++
      leBytes 8 f.sa.toNat ++ leBytes 8 f.sb.toNat)
  | .tel .. => List.replicate 32 0

/-- Slot state: 96 bytes. -/
def Slot.save (x : Slot) : List Byte :=
  area 96 (vec64 x.acc ++ leBytes 8 x.cnt.toNat ++ leBytes 8 (pattern x.sumS 64) ++ leBytes 8 (pattern x.sumQ 64) ++ leBytes 8 x.sumC)

/-- A latch entry: 72 bytes. -/
def Route.saveTok (r : Route) (i : Nat) (t : Tok) : List Byte :=
  leBytes 2 (r.ix % 2 ^ 14 + r.net * 2 ^ 14) ++ leBytes 1 i ++ leBytes 1 t.tag ++ leBytes 4 0 ++ vec64 t.pay

/-- Latch entries of a page; a token that a packet carried has position 255 (R340; log 47). -/
def Page.saveLatches (p : Page) : List Byte :=
  let es := p.routes.flatMap fun r => if r.net = 3 then [] else
    (r.latches.mapIdx fun i t => match t with
      | some t => r.saveTok i t
      | none => []) ++ r.replay.map (r.saveTok 255)
  (es.flatten ++ (List.replicate (256 - es.flatten.length / 72) (area 72 (leBytes 2 0xFFFF))).flatten).take 18432

/-- The extension: 64 KiB. -/
def Page.saveExt (p : Page) : List Byte :=
  let slots := p.pes.flatMap fun e => (e.live.slots.map Slot.save).flatten
  area 0x10000 (area 16384 ((p.mtx.cells.map fun c => leBytes 8 c.toNat).flatten) ++
    area 2048 ((p.mtx.wts.map fun c => leBytes 8 c.toNat).flatten) ++ area 24576 slots ++ p.saveLatches ++
    area 2048 ((p.saf.vals.map fun c => leBytes 8 c.toNat).flatten))

/-- The live-state area: 0x8000 bytes. -/
def Page.saveLive (p : Page) (r : Region) (fs : List Flight) (ext : List Byte) : List Byte :=
  let withheld := p.pes.any fun e => e.live.ctxs.any (·.withheld)
  let hdr := leBytes 8 r.lseq ++ leBytes 8 (if r.persist then r.cur else r.next) ++ leBytes 4 (p.ivals.foldl max 0) ++
    leBytes 4 ((if withheld then 1 else 0) + if r.decided = 3 then 2 else 0) ++ sha384 ext
  area 0x8000 (area 256 hdr ++ area 20480 (p.pes.flatMap fun e => (e.live.ctxs.map Ctx.saveRegs).flatten) ++
    area 1024 ((p.pes.mapIdx fun n e => p.saveCtl fs n e).flatten) ++ area 2560 ((p.shapes.map Shape.save).flatten) ++
    area 2048 (p.mes.flatMap fun m => (m.streams.map Stream.save).flatten) ++ area 512 ((p.mtx.tens.map (Tenant.save fs)).flatten) ++
    area 1024 ((p.saf.graphs.map Graph.save).flatten) ++ area 1024 ((fs.map Flight.save).flatten))

/-- The 128 KiB of a page's save area, PFLAGS bit 0 set. -/
def Page.saveBytes (p : Page) (r : Region) (fs : List Flight) : List Byte :=
  let ext := p.saveExt
  let cfg := area 0x8000 p.img
  cfg.set 3 (cfg.getD 3 0 ||| 1) ++ p.saveLive r fs ext ++ ext

/-! ## Saving -/

/-- A frame selector: page key, or none where reserved bits are set or the part is not 0-2. -/
def frameSel (a : Nat) : Option (Nat × Nat) :=
  let part := a % 4
  if 2 ^ 15 ≤ a ∨ bits a 3 2 ≠ 0 ∨ part = 3 then none
  else some (bits a 14 12 * 512 + bits a 11 4 * 2 + (if part = 2 then 1 else 0), part)

/-- The key under which a saved page's bank tokens stand: of its place among the saves. -/
def savedKey (n : Nat) : Nat := 2 ^ 20 + n

/-- Bank tokens held under one key held under another. -/
def rehold (old new : Nat) (l : List (Nat × BankTok)) : List (Nat × BankTok) :=
  l.map fun x => if x.2 = .held old then (x.1, .held new) else x

/-- Tokens in packets on their way to a page go to the routes they are bound for (R340, R403). -/
def State.landPackets (s : State) (pg : Nat) : State :=
  let mine := s.packets.filter fun k => k.pg == pg
  let s := { s with packets := s.packets.filter fun k => k.pg != pg }
  mine.foldl (fun s k => s.modPage pg fun p => { p with routes := p.routes.modify k.rt fun r => { r with replay := r.replay ++ k.toks } }) s

/-- A frozen page leaves its frame and is kept with its outstanding instructions (R402). -/
def State.takePage (s : State) (pg : Nat) (bytes : List Byte) : State :=
  let s := s.landPackets pg
  match s.page? pg with
  | none => s
  | some p =>
    let fs := s.flights.filter fun f => f.who.isElem && f.who.page == pg
    let qs := s.reqs.filter fun r => match r.port with
      | .me g _ => g == pg
      | .tel _ => false
    let key := savedKey s.saves.length
    let s := { s with
      saves := s.saves ++ [({ bytes := bytes, page := p, flights := fs, reqs := qs, rg := p.rg } : SaveImg)]
      dies := s.dies.map fun (d : Die) => { d with banks := rehold pg key d.banks } }
    let s := { s.purgePage pg with pages := alDel pg s.pages }
    let s := s.modRegion p.rg fun r => { r with pages := r.pages.map fun k => if k = some pg then none else k }
    let other := ((s.page? (if pg % 2 = 0 then pg + 1 else pg - 1)).map fun q => q.rg == p.rg).getD false
    { s with tasks := s.tasks.map fun (k : Task) =>
        if k.rgs.contains p.rg then { k with frames := k.frames.map fun f =>
          if (if k.trec.seq then f == pg / 2 * 2 && !other else f == pg) then 2 ^ 32 else f } else k }

/-- Bytes stored through the translations of a die, one 64 KiB page at a time; a fault stores nothing. -/
def State.storeVa (s : State) (die asid va : Nat) (bs : List Byte) : Except FaultInfo State :=
  let at_ (i : Nat) : Nat := va + i * 65536
  let idx := List.range (bs.length / 65536)
  let key (i : Nat) : Option Nat := match s.walk die asid (at_ i) with
    | .error _ => none
    | .ok e => some (e.key (at_ i))
  let bad (i : Nat) : Option FaultInfo := match s.walk die asid (at_ i) with
    | .error c => some { cls := clsXlate, code := c, opnd := at_ i }
    | .ok e => s.accessFault none e .store false (at_ i)
  match idx.findSome? bad with
  | some f => .error f
  | none => .ok (idx.foldl (fun s i => match key i with
      | some k => s.store k ((bs.drop (i * 65536)).take 65536)
      | none => s) s)

/-- `SYS.PGSV` fires: B 64 KiB aligned (ALIGN 0x009) and writable. -/
def execSysPgsv (o : FormR) (s : State) : Out :=
  fireJob o.g (fun w _ s f =>
    match ((alignFault 9 f.sb.toNat 65536).orElse fun _ => s.telAddr w f.asid f.sb.toNat .store false).orElse fun _ =>
        s.telAddr w f.asid (f.sb.toNat + 65536) .store false with
    | some e => .error e
    | none => .ok (jobHolds f o.d.toNat (s.fc + 1))) jobPost s

/-- `SYS.PGSV` performed: image and extension are written whole, then the frame is free. -/
def State.pgsvStep (s : State) (f : Flight) : State :=
  let bad : FaultInfo := { cls := clsRange, code := 0x031, opnd := f.sa.toNat }
  if !s.mayIssue f then s
  else match frameSel f.sa.toNat with
    | none => s.flightFault f bad
    | some (pg, part) => match s.page? pg, s.regionOf pg with
      | some p, some r =>
        let pre := ((s.taskOfRegion r).map fun (k : Task) => k.st == .preempted).getD false
        if p.kind ≠ part ∨ p.ptn ≠ f.ptn ∨ !pre then s.flightFault f bad
        else
          let s' := s.landPackets pg
          let fs := s.flights.filter fun x => x.who.isElem && x.who.page == pg
          let bytes := ((s'.page? pg).getD p).saveBytes r fs
          match s'.storeVa f.who.port.die f.asid f.sb.toNat bytes with
          | .error e => s.flightFault f e
          | .ok s => (s.takePage pg bytes).performVal f (w64 f.sa.toNat) (f.sa != 0) false
      | _, _ => s.flightFault f bad

/-! ## Restoring -/

/-- A context from its saved registers and control word. -/
def Ctx.load (regs : List Byte) (ctl : Nat) (c : Ctx) : Ctx :=
  { c with a := tab 8 fun i => BitVec.ofNat 64 (recNat regs (8 * i) 8)
           v := tab 4 fun i => bytesVec ((regs.drop (64 + 64 * i)).take 64)
           p := tab 8 fun i => Tri.ofCode (ctl / 4 ^ i)
           withheld := bitAt ctl 16 }

/-- Slot state from its 96 bytes. -/
def Slot.load (b : List Byte) (mrg : Bool) (x : Slot) : Slot :=
  { x with acc := bytesVec (b.take 64), cnt := BitVec.ofNat 64 (recNat b 64 8), sumS := signed (recNat b 72 8) 64
           sumQ := signed (recNat b 80 8) 64, sumC := recNat b 88 8, mrg := mrg }

/-- An element from the live areas of an image and its extension. -/
def Pe.load (live ext : List Byte) (n : Nat) (e : Pe) : Pe :=
  if !e.present then e
  else
  let ctl := (live.drop (0x5100 + 64 * n)).take 64
  { e with
    live := { e.live with
      ctxs := e.live.ctxs.mapIdx fun i c => c.load ((live.drop (0x100 + 1280 * n + 320 * i)).take 320) (recNat ctl (8 * i) 8)
      arb := recNat ctl 32 8 % 4
      slots := e.live.slots.mapIdx fun i x => x.load ((ext.drop (0x4800 + 96 * (16 * n + i))).take 96) (bitAt (recNat ctl 48 8) i) } }

/-- A stream from its 128 bytes; one that stands as they say goes on with what it has under way. -/
def Stream.load (b : List Byte) (m : Stream) : Stream :=
  if !m.valid ∨ b = m.save then m
  else
    let c : Cursor := ⟨recNat b 0 8, recNat b 8 8, none, false⟩
    { m with cur := c, ask := c, pat := (recNat b 16 2, recNat b 18 2), eos := bitAt (recNat b 20 4) 0, buf := [], todo := [], busy := 0 }

/-- An ME's streams from their 512 bytes. -/
def Me.load (m : Me) (live : List Byte) (n : Nat) : Me :=
  { m with streams := m.streams.mapIdx fun j x => Stream.load ((live.drop (0x5F00 + 512 * n + 128 * j)).take 128) x }

/-- A shape cache entry from its 320 bytes; one that stands as they say goes on with what it has under way. -/
def Shape.load (b : List Byte) (x : Shape) : Shape :=
  if b = x.save then x
  else
    let hdr : ShapeHdr := { ty := recNat b 0 1, strict := bitAt (recNat b 1 1) 0, pln := recNat b 2 2, width := recNat b 4 4
                            pitch := recNat b 8 8, rows := recNat b 16 4, segs := recNat b 20 4 }
    let bound := bitAt (recNat b 48 1) 0
    let win := recNat b 40 8
    { x with bound := bound, addr := recNat b 32 8, hdr := hdr, win := win, refill := none, stash := []
             bnd := if bound then tab (min 64 (hdr.segs + 1 - 64 * win)) fun i => recNat b (64 + 4 * i) 4 else [] }

/-- A pulse at a control port, set or taken away as the bit of the element's control word says. -/
def Route.loadPulse (live : List Byte) (r : Route) : Route :=
  if r.net ≠ 3 ∨ 2 ^ 14 ≤ r.dst then r
  else
    let on := bitAt (recNat live (0x5100 + 64 * (r.dst / 256)) 8) (24 + r.dst % 16)
    if on = ((r.latches.getLast?).join).isSome then r
    else { r with latches := r.latches.set (r.latches.length - 1) (if on then some ⟨0, 0⟩ else none) }

/-- The operands of an outstanding instruction from its 32 bytes. -/
def Flight.load (b : List Byte) (f : Flight) : Flight :=
  { f with sa := BitVec.ofNat 64 (recNat b 16 8), sb := BitVec.ofNat 64 (recNat b 24 8) }

/-- The outstanding instructions of a page with the operands a save area holds. -/
def loadFlights (live : List Byte) (fs : List Flight) : List Flight :=
  fs.mapIdx fun i f => if i < 32 then f.load ((live.drop (0x6D00 + 32 * i)).take 32) else f

/-- A tenant from its 256 bytes; one that stands as they say goes on with what it has under way. -/
def Tenant.load (fs : List Flight) (b : List Byte) (t : Tenant) : Tenant :=
  if b = t.save fs then t
  else
  { t with fmt := if recNat b 0 2 = 0xFFFF then none else some (recNat b 0 2 % 16, recNat b 0 2 / 16)
           tiles := recNat b 2 2, left := if recNat b 4 4 = 0 then none else some (recNat b 4 4 - 1)
           ctr := tab 5 fun i => recNat b (16 + 8 * i) 8
           desc := tab 8 fun i =>
             let x := recNat b (56 + 8 * i) 8
             ⟨bits x 7 0, bits x 15 8, bits x 23 16, bits x 31 24, bits x 39 32⟩ }

/-- The tokens of the latch entries in their latches. -/
def loadLatches (ext : List Byte) (rs : List Route) : List Route :=
  (List.range 256).foldl (fun rs i =>
    let b := (ext.drop (0xA800 + 72 * i)).take 72
    let x := recNat b 0 2
    if x = 0xFFFF then rs
    else
      let i := recNat b 2 1
      let t : Tok := ⟨recNat b 3 1 % 8, bytesVec (b.drop 8)⟩
      rs.map fun (r : Route) => if r.ix % 2 ^ 14 + r.net * 2 ^ 14 = x then
        (if i = 255 then { r with replay := r.replay ++ [t] } else { r with latches := r.latches.set i (some t) }) else r) rs

/-- The interval number of a page's units, where a save area has another than the page. -/
def Page.setIvals (iv : Nat) (p : Page) : Page :=
  if iv = p.ivals.foldl max 0 then p
  else
  { p with
    pes := p.pes.map fun (e : Pe) => { e with ival := iv }
    mes := p.mes.map fun (m : Me) => { m with streams := m.streams.map fun (st : Stream) => { st with ival := iv } }
    mtx := { p.mtx with tens := p.mtx.tens.map fun (t : Tenant) => { t with ival := iv } }
    saf := { p.saf with graphs := p.saf.graphs.map fun (g : Graph) => { g with ival := iv } } }

/-- A page with the live state of a save area, and its outstanding instructions. -/
def Page.load (live ext : List Byte) (fs : List Flight) (p : Page) : Page :=
  let p := p.setIvals (recNat live 16 4)
  { p with
    pes := p.pes.mapIdx fun n e => Pe.load live ext n e
    mes := p.mes.mapIdx fun n m => m.load live n
    shapes := p.shapes.mapIdx fun n x => x.load ((live.drop (0x5500 + 320 * n)).take 320)
    mtx := { p.mtx with
      cells := tab 2048 fun i => BitVec.ofNat 64 (recNat ext (8 * i) 8)
      wts := tab 256 fun i => BitVec.ofNat 64 (recNat ext (0x4000 + 8 * i) 8)
      tens := p.mtx.tens.mapIdx fun i t => t.load fs ((live.drop (0x6700 + 256 * i)).take 256) }
    saf := { p.saf with vals := p.saf.vals.mapIdx fun i _ => BitVec.ofNat 64 (recNat ext (0xF000 + 8 * i) 8) }
    routes := loadLatches ext (p.routes.map fun (r : Route) =>
      if r.net = 3 then r.loadPulse live else { r with latches := r.latches.map fun _ => none, replay := [] }) }

/-- A restored page keeps no shadow and no undo log (R402). -/
def Page.unshadowed (p : Page) : Page :=
  { p with
    pes := p.pes.map fun (e : Pe) => { e with shadows := [] }
    mes := p.mes.map fun (m : Me) => { m with undo := [], streams := m.streams.map fun (st : Stream) => { st with shadows := [] } }
    mtx := { p.mtx with tens := p.mtx.tens.map fun (t : Tenant) => { t with shadows := [] } } }

/-- A name of a page renamed in an agent. -/
def Who.atPage (pg : Nat) : Who → Who
  | .elem _ pe cx n => .elem pg pe cx n
  | w => w

def Port.atPage (pg : Nat) : Port → Port
  | .me _ i => .me pg i
  | p => p

def ReqFor.atPage (pg : Nat) : ReqFor → ReqFor
  | .row _ si r n => .row pg si r n
  | .store _ si => .store pg si
  | .refill _ sx n => .refill pg sx n
  | .through _ sx n => .through pg sx n
  | .aux _ si k n => .aux pg si k n
  | .upd _ me uid => .upd pg me uid
  | .flight fid n => .flight fid n
  | .line t cx => .line t cx
  | .pref fid => .pref fid

def Flight.atPage (pg asid : Nat) (f : Flight) : Flight := { f with who := f.who.atPage pg, port := f.port.atPage pg, asid := asid }

def Shape.atPage (pg asid : Nat) (h : Shape) : Shape :=
  { h with refill := h.refill.map fun r => { r with who := r.who.atPage pg }
           through := h.through.map fun t => { t with by_ := t.by_.atPage pg asid } }

/-- A page put into a frame with the instructions and requests that belong to it; its region's cut is its interval number,
unusable until another is complete (R402). -/
def State.putPage (s : State) (pg : Nat) (p : Page) (fs : List Flight) (qs : List Req) (key : Nat) : State :=
  let p := p.unshadowed
  let p := { p with shapes := p.shapes.map (Shape.atPage pg p.asid) }
  let s := s.placePage pg p
  let s := { s with
    flights := s.flights ++ fs.map (Flight.atPage pg p.asid)
    reqs := s.reqs ++ qs.map fun (r : Req) => { r with port := r.port.atPage pg, job := r.job.atPage pg, asid := p.asid, due := s.fc + 14 }
    dies := s.dies.map fun (d : Die) => { d with banks := rehold key pg d.banks } }
  let s := s.modRegion p.rg fun r =>
    { r with pages := r.pages.set p.pidx (some pg), cut := p.ivals.foldl max r.cut, cutBad := true }
  { s with tasks := s.tasks.map fun (k : Task) =>
      if k.rgs.contains p.rg then
        let np := max 1 (((s.region? p.rg).map fun (r : Region) => r.imgs.length).getD 1)
        let i := if k.trec.seq then p.pidx else ((k.rgs.findIdx? (· == p.rg)).getD 0) * np + p.pidx
        { k with frames := k.frames.set i (if k.trec.seq then pg / 2 * 2 else pg) }
      else k }

/-- What a save area restores to: the page with what is outstanding, and the key its bank tokens stand under; or the fault
(R388, R402, R403). -/
def State.restored (s : State) (ptn die : Nat) (bytes : List Byte) : Except FaultInfo (Page × List Flight × List Req × Nat) :=
  let img := bytes.take 0x10000
  let live := img.drop 0x8000
  let ext := bytes.drop 0x10000
  let state : FaultInfo := { cls := clsRange, code := 0x031 }
  if !bitAt (recNat img 3 1) 0 then .error { cls := clsBadcfg, code := 0x029 }
  else if sha384 ext ≠ (live.drop 24).take 48 then .error { cls := clsBadcfg, code := 0x029 }
  else match s.task? ptn (recNat live 0 8) with
    | none => .error state
    | some k =>
      let pidx := recNat img 4 4
      let home := k.rgs.find? fun g => ((s.region? g).bind fun (r : Region) => r.pages[pidx]?) == some none
      if k.st ≠ .preempted then .error state
      else match (List.range s.saves.length).reverse.find? fun i => match s.saves[i]? with
          | some x => x.bytes == bytes && ((s.region? x.rg).bind fun (r : Region) => r.pages[x.page.pidx]?) == some none
          | none => false with
        | some i => match s.saves[i]? with
          | some x => .ok ({ x.page with asid := k.asid }, x.flights, x.reqs, savedKey i)
          | none => .error state
        | none => match home.bind fun g => s.region? g with
          | none => .error state
          | some r =>
            let kind := ((r.imgs.getD pidx (0, 0, 0)).2.1)
            let cfg := (img.take 0x8000).set 3 ((img.getD 3 0) &&& 0xFE)
            let p := s.graphed die (s.readPage die (pageOf s.fc r.rdesc r pidx kind cfg))
            match firstRej [p.wordRej, s.pageRej die r.ordered p, p.fmtBad.map fun i => { page := pidx, f := badcfg 0x012 i }] with
            | some e => .error e.f
            | none => match (List.range s.saves.length).reverse.find? fun i => match s.saves[i]? with
                | some x => x.rg == r.key && x.page.pidx == pidx && (area 0x8000 x.page.img).take 0x8000 == cfg
                | none => false with
              | some i => match s.saves[i]? with
                | some x =>
                  let fs := loadFlights live x.flights
                  .ok ({ (x.page.load live ext fs) with asid := k.asid, img := cfg }, fs, x.reqs, savedKey i)
                | none => .error state
              | none => .ok ({ (p.load live ext []) with img := cfg }, [], [], 2 ^ 30)

/-- The frame half a restored page goes to: the one named, or the lowest free one of the die (R331, R388). -/
def State.restoreAt (s : State) (ptn die kind : Nat) (b : Word) : Option Nat :=
  if b = BitVec.allOnes 64 then
    let free := s.freeHalves ptn die
    if kind = 0 then lowFrame free else free.find? fun h => h % 2 == kind - 1
  else match frameSel b.toNat with
    | none => none
    | some (pg, part) =>
      let free := s.freeHalves ptn (pg / 512)
      if part = kind ∧ free.contains pg ∧ (kind ≠ 0 ∨ free.contains (pg + 1)) then some pg else none

/-- The selector of a page's frame. -/
def selOf (pg kind : Nat) : Nat := pg / 512 * 2 ^ 12 + pg / 2 % 256 * 16 + kind

/-- `SYS.PGRS` fires: A 64 KiB aligned and readable; the time until the page is resident is open (log 4). -/
def execSysPgrs (o : FormR) (s : State) : Out :=
  fireJob o.g (fun w _ s f =>
    match ((alignFault 9 f.sa.toNat 65536).orElse fun _ => s.telAddr w f.asid f.sa.toNat .load false).orElse fun _ =>
        s.telAddr w f.asid (f.sa.toNat + 65536) .load false with
    | some e => .error e
    | none => .ok (jobHolds f o.d.toNat (s.fc + 1 + s.fresh.1 % 4096))) jobPost s

/-- `SYS.PGRS` performed. -/
def State.pgrsStep (s : State) (f : Flight) : State :=
  match s.readRec f.who.port.die f.asid none f.sa.toNat 0x20000 with
  | .error e => s.flightFault f e
  | .ok (bytes, _) =>
    let die := if f.sb = BitVec.allOnes 64 then ((s.task? f.ptn (recNat bytes 0x8000 8)).map fun (k : Task) => k.die).getD 0
      else bits f.sb.toNat 14 12
    match s.restored f.ptn die bytes with
    | .error e => s.flightFault f { e with opnd := f.sa.toNat }
    | .ok (p, fs, qs, key) => match s.restoreAt f.ptn die p.kind f.sb with
      | none => s.flightFault f { cls := clsRange, code := 0x036, opnd := f.sb.toNat }
      | some pg => (s.putPage pg p fs qs key).performVal f (w64 (selOf pg p.kind)) (selOf pg p.kind != 0) false

/-- System words performed. -/
def State.sysStep (s : State) (f : Flight) : State :=
  match fnOf f.word with
  | 5 => s.pgsvStep f
  | 6 => s.pgrsStep f
  | 7 => s.tlbiStep f
  | _ => s

end Sys2Proof.Machine
end

