-- ==== Sys2Proof/Machine/Ready.lean ====
section
/-!
DEFINITION. When a word may fire: the conditions of R16 for a slot, with what R125, R129, R130, R170, R171, R178 and R187
add for some words, and the guard of a teller's word (R25).
-/

namespace Sys2Proof.Machine

/-! ## What a word uses -/

/-- The registers, predicates, tile and shape registers a field names, read or written (R16 condition 5, R171, R178). -/
def fieldUses (k : OpK) (c : Nat) : List Res :=
  match k with
  | .sdst | .ssrc | .sreg | .srz | .vdst | .vsrc | .vreg | .vro | .vwo | .vcv | .asrc =>
    if 16 ≤ c ∧ c < 20 then [] else destHolds c
  | .pw | .pr => [.p c]
  | .zw | .zr' | .zrw => [.z c]
  | .sr | .sw => [.s c]
  | _ => []

/-- The out port a field writes (R16 condition 4). -/
def fieldOut (k : OpK) (c : Nat) : Option Nat :=
  match k with
  | .sdst | .vdst | .oport | .vout => if 16 ≤ c ∧ c < 20 then some (c - 16) else none
  | _ => none

/-- The control out port a field pulses (R117). -/
def fieldSig (k : OpK) (c : Nat) : Option Nat := if k = .cout then some (c - 16) else none

/-- The fields of a word with their kinds. -/
def wordFields (x : Word) : List (OpK × Nat) := opFields (wspec (opcOf x) (fnOf x)) x

/-- Everything condition 5 of R16 names for a word, PD among it. -/
def wordUses (x : Word) : List Res :=
  (wordFields x).flatMap (fun f => fieldUses f.1 f.2) ++ (pdOf x).toList.map .p

/-- Predicates a word reads as sources (R116). -/
def wordPreds (x : Word) : List Nat := (wordFields x).filterMap fun f => if f.1 = .pr then some f.2 else none

/-- The out ports a word writes. -/
def wordOuts (x : Word) : List Nat := (wordFields x).filterMap fun f => fieldOut f.1 f.2

/-- Shape registers a word writes (R171). -/
def wordShapes (x : Word) : List Nat := (wordFields x).filterMap fun f => if f.1 = .sw then some f.2 else none

/-- The guard tests no pending predicate (R16 condition 1, R25). -/
def State.predsKnown (s : State) (w : Who) (g : Guard) : Bool :=
  (List.range 8).all fun i => !g.pm.getLsbD i || s.readP w i != .pend

/-- Every tested predicate has the value the guard asks for. -/
def State.predsMatch (s : State) (w : Who) (g : Guard) : Bool :=
  (List.range 8).all fun i => !g.pm.getLsbD i || s.readP w i == (if g.pv.getLsbD i then .tt else .ff)

/-- A token a slot or a teller's word may take: neither SNAP nor DRAIN. -/
def openTok (t : Option Tok) : Bool := (visible t).isSome

/-- A resource has a write-back outstanding: in the context, or for a shape register in the page. -/
def State.outstanding (s : State) (w : Who) (r : Res) : Bool :=
  s.flights.any fun f => f.holds.contains r && (match r with
    | .s _ => f.who.isElem && f.who.page == w.page && decide (f.born < s.fc)
    | _ => f.who.sameCtx w)

/-- An earlier-fired instruction of the page still reads a shape register (R171). -/
def State.capturing (s : State) (w : Who) (n : Nat) : Bool :=
  s.flights.any fun f => f.reads.contains (.s n) && f.who.isElem && f.who.page == w.page && decide (f.born < s.fc)

/-- Condition 5 of R16, with R116 and R171. -/
def State.usesFree (s : State) (w : Who) (x : Word) : Bool :=
  ((wordUses x).all fun r => !s.outstanding w r) && ((wordPreds x).all fun n => s.readP w n != .pend) &&
  (wordShapes x).all fun n => !s.capturing w n

/-! ## Slots of an element (R16) -/

/-- An out port's latches are free, and no SNAP or DRAIN is owed to it (R22). -/
def Page.portFree (p : Page) (pe n : Nat) : Bool :=
  p.outFree false (epPe pe n) && ((p.pes[pe]?).map fun e => e.owed.all fun o => o.1 != n).getD true

/-- Condition 4 of R16, with R129 and R130: `MARK.SNAP` and `DRAIN` write every bound out port. -/
def Page.outsReady (p : Page) (pe : Nat) (x : Word) : Bool :=
  ((wordOuts x).all fun n => p.portFree pe n) &&
  ((wordFields x).all fun f => match fieldSig f.1 f.2 with
    | some n => p.outFree true (epPe pe n)
    | none => true) &&
  ((opcOf x != 0x1D && opcOf x != 0x1E) || (((p.pes[pe]?).map Pe.outPorts).getD []).all fun n => p.portFree pe n)

/-- Conditions 2 and 3 of R16, with R15 and R125. -/
def State.chansReady (s : State) (pg pe n : Nat) (e : Pe) (p : Page) (x : Word) : Bool :=
  let g := guardOf x
  if opcOf x = 0x1C then
    (s.mrgChoice pg pe n ((field x 14 5).toNat - 12) ((field x 9 5).toNat - 12) (fnOf x == 1)).1 != .none
  else
    ((chansOf g).all fun i => e.shows i && openTok (p.headAt (epPe pe i))) &&
    (g.te == 0 || ((p.headAt (epPe pe g.tch.toNat)).map (·.tag)) == some g.ttg.toNat)

/-- What R179 and R187 ask of a tile word: a free entry, and for an `MMA` a tile counter that is nonzero or absent. -/
def State.tileReady (s : State) (w : Who) (x : Word) : Bool :=
  if opcOf x < 0x40 ∨ 0x4E < opcOf x then true
  else match s.tenDriven w with
    | none => false
    | some ten => match s.ten? w.page ten with
      | none => false
      | some t => decide (t.q.length < 4) && (opcOf x != 0x46 || t.left != some 0)

/-- A slot's word meets every condition of R16 but the boundary window it may still need (R170). -/
def State.slotOpen (s : State) (pg pe n : Nat) : Bool :=
  match s.page? pg with
  | none => false
  | some p => match p.pes[pe]? with
    | none => false
    | some e => match e.live.slots[n]? with
      | none => false
      | some sl =>
        let x := sl.word
        let cx := bits x.toNat 63 62
        let w : Who := .elem pg pe cx n
        e.present && sl.valid && s.running pg && !e.ended && !((e.live.ctxs[cx]?).map (·.withheld)).getD true &&
        s.predsKnown w (guardOf x) && s.predsMatch w (guardOf x) && s.chansReady pg pe n e p x && p.outsReady pe x &&
        s.usesFree w x && s.tileReady w x

/-- The agent of a slot. -/
def State.slotWho (s : State) (pg pe n : Nat) : Who × Word :=
  let x := (((s.pe? pg pe).bind fun e => e.live.slots[n]?).map (·.word)).getD 0
  (.elem pg pe (bits x.toNat 63 62) n, x)

/-- `MARK.SNAP` acts as if SNAP stood at every input, so it waits where the skew limit would hold that SNAP (R129, R396;
DEDUCED, log 137). -/
def State.snapFree (s : State) (pg pe : Nat) (x : Word) : Bool :=
  opcOf x != 0x1D || s.snapMay pg (((s.pe? pg pe).map (·.ival)).getD 0)

/-- A slot is ready (R16, R170, R396). -/
def State.slotReady (s : State) (pg pe n : Nat) : Bool :=
  s.slotOpen pg pe n && (s.shapeStall (s.slotWho pg pe n).1 (s.slotWho pg pe n).2).isNone &&
  s.snapFree pg pe (s.slotWho pg pe n).2

/-- The slot the arbiter fires (R18): the first context after the pointer that has a ready slot, and its lowest ready
slot. -/
def State.arbiterPick (s : State) (pg pe : Nat) : Option Nat :=
  let arb := ((s.pe? pg pe).map (·.live.arb)).getD 3
  let ready := (List.range 16).filter fun n => s.slotReady pg pe n
  (List.range 4).findSome? fun i =>
    ready.find? fun n => bits (s.slotWho pg pe n).2.toNat 63 62 == (arb + 1 + i) % 4

/-! ## The guard of a teller's word (R25) -/

/-- What the guard of a teller's word comes to. -/
inductive Guarded where
  | stall | skip | fire
  deriving DecidableEq, Repr

/-- The port that a word's requests leave a teller through (R26): `out0`, `out1` or `out2`. -/
def unitPort (x : Word) : Option Nat :=
  match opcOf x with
  | 0x79 => some 0
  | 0x7B => some 1
  | 0x7C => some 2
  | _ => none

/-- The latches a teller's word writes are free. -/
def State.telOuts (s : State) (t cx : Nat) (w : Who) (x : Word) : Bool :=
  ((wordOuts x).all fun _ => ((s.tctx? t cx).map fun c => c.out3.isNone && !c.out3rsv).getD false) &&
  (match unitPort x with
   | none => true
   | some p => s.flights.all fun f => !(f.who.sameCtx w) || unitPort f.word != some p)

/-- The rows of R25, the first that applies. -/
def State.telGuard (s : State) (t cx : Nat) (w : Who) (x : Word) : Guarded :=
  let g := guardOf x
  if !s.predsKnown w g then .stall
  else if !(chansOf g).all fun i => openTok (s.telHead t cx i) then .stall
  else if !s.telOuts t cx w x || !s.usesFree w x then .stall
  else if g.te == 1 && ((s.telHead t cx g.tch.toNat).map (·.tag)) != some g.ttg.toNat then .skip
  else if !s.predsMatch w g then .skip
  else .fire

end Sys2Proof.Machine
end

