-- ==== Sys2Proof/Machine/Fabric.lean ====
section
/-!
DEFINITION. The fabric's own steps: the arbiter of a processing element (R18), write-back (R20), tokens advancing (R13),
router packets (R340, R411, R421), the intersection unit (R15), the markers an element handles itself (R22, R129, R130,
R271, R396, R397), control pulses (R23), and length and poison markers at a head (R228, R240).
-/

namespace Sys2Proof.Machine

/-! ## Firing and writing back -/

/-- Refills begun for the slots that wait for a boundary window only (R170). -/
def State.stallRefills (s : State) (pg pe : Nat) : State :=
  (List.range 16).foldl (fun s n =>
    if s.slotOpen pg pe n then
      let (w, x) := s.slotWho pg pe n
      match s.shapeStall w x with
      | some (sx, win) => s.startRefill pg sx win w x none
      | none => s
    else s) s

/-- `PE_ARBITER_FIRE` (R18): the arbiter's choice fires, and the pointer moves to its context; with no ready slot nothing
fires. -/
def execPeArbiterFire (pg pe : Nat) (s : State) : Out :=
  let s' := s.stallRefills pg pe
  match s.arbiterPick pg pe with
  | none => .next s'
  | some n =>
    let (w, x) := s.slotWho pg pe n
    .next { s'.modLive pg pe fun l => { l with arb := bits x.toNat 63 62 } with issue := some (w, x) }

/-- `WRITE_BACK` (R20, R265): at the end of its last fc a fired instruction writes back, behind a fence or release that its
tokens must follow. -/
def execWriteBack (fid : Nat) (s : State) : Out :=
  match s.flight? fid with
  | none => .next s
  | some f => match f.due with
    | none => .next s
    | some d => if d ≤ s.fc ∧ s.mayPublish f then .next (s.settle f f.wr) else .next s

/-! ## Routes (R13) -/

/-- Latches from the head backwards, moved up by one behind every hole; `hole` says that the latch in front has just
emptied. -/
def shiftFrom : Bool → List (Option Tok) → List (Option Tok)
  | true, [] => [none]
  | false, [] => []
  | true, b :: l => b :: shiftFrom true l
  | false, some a :: l => some a :: shiftFrom false l
  | false, none :: l => shiftFrom true l

/-- One fc of a route: a dequeued head leaves, every token moves up when the next latch is free or is being vacated, and
tokens delivered again after a rollback enter the head ahead of them (R399). A token placed in this fc stays. -/
def Route.advance (fc : Nat) (r : Route) : Route :=
  let back := r.latches.reverse
  let rest (h : Bool) (l : List (Option Tok)) : List (Option Tok) :=
    if r.fresh then shiftFrom h l.dropLast ++ l.getLast?.toList else shiftFrom h l
  let gone := r.taken || ((back.head?).join).isNone
  let new : List (Option Tok) × List Tok := match back with
    | [] => ([], r.replay)
    | [h] => if r.taken && !r.fresh then ([r.replay.head?], r.replay.drop 1)
        else if h.isNone then ([r.replay.head?], r.replay.drop 1) else ([h], r.replay)
    | h :: l =>
      if !gone then (h :: rest false l, r.replay)
      else match r.replay with
        | t :: more => (some t :: rest false l, more)
        | [] => (rest true l, [])
  let changed := gone && ((new.1.head?).join).isSome && !(r.fresh && r.latches.length == 1)
  { r with latches := new.1.reverse, replay := new.2, taken := false, since := if changed then fc + 1 else r.since
           stuck := if gone then 0 else (back.takeWhile Option.isSome).length }

/-- A route moves in its page while the region is not frozen (R400). -/
def State.flowing (s : State) (pg : Nat) : Bool :=
  match s.regionOf pg with
  | some r => r.st != .frozen && r.st != .loading
  | none => false

/-- `TOKEN_ADVANCE` (R13). -/
def execTokenAdvance (pg rt : Nat) (s : State) : Out :=
  match (s.page? pg).bind fun p => p.routes[rt]? with
  | none => .next s
  | some r =>
    if !s.flowing pg then .next s
    else
      let s' := s.modPage pg fun p => { p with routes := p.routes.modify rt (Route.advance s.fc) }
      .next (if (r.advance s.fc).latches = r.latches then s' else s'.stir pg)

/-! ## Between routers (R340, R411, R421) -/

/-- The consumer's page and route of a route that leaves its page. -/
def State.farRoute (s : State) (p : Page) (r : Route) : Option (Nat × Nat) :=
  match s.region? p.rg, r.edge with
  | some g, some n => match g.edges.find? fun e => e.num = n with
    | some e => match g.pages.getD e.dp none with
      | some q => ((s.page? q).bind fun d => d.routes.findIdx? fun x => x.viaRouter && x.src == 0xFFFF && x.edge == some n).map
          fun i => (q, i)
      | none => none
    | none => none
  | _, _ => none

/-- Tokens on their way to a route's ingress. -/
def State.onTheWay (s : State) (pg rt : Nat) : Nat :=
  (s.packets.filter fun k => k.pg = pg ∧ k.rt = rt).foldl (fun n k => n + k.toks.length) 0

/-- The flits of one token as RAW, or as ZSKIP where that is shorter. -/
def tokFlits (net : Nat) (t : Tok) : Nat :=
  if net = 1 then 1
  else if t.tag = tagSnap ∨ t.tag = tagDrain then 4
  else
    let words := ((List.range 8).filter fun i => bits t.pay.toNat (64 * i + 63) (64 * i) != 0).length
    min 4 (1 + (words + 1) / 2)

/-- The tokens one packet takes from those waiting, the head first: a run of equal ones, or one. -/
def packTokens (room : Nat) : List (Option Tok) → List Tok
  | some t :: l =>
    if t.tag = tagSnap ∨ t.tag = tagDrain then [t] else t :: ((l.takeWhile fun x => x == some t).filterMap id).take (room - 1)
  | _ => []

/-- Distance between two frames on the die's grid. -/
def frameDist (a b : Nat) : Nat :=
  absDiff (frameOfPage a / 16) (frameOfPage b / 16) + absDiff (frameOfPage a % 16) (frameOfPage b % 16)

/-- The links from one frame's router to another's: first along the row, then along the column (R421 leaves it open, log 100).
Directions 0 to 3 are north, east, south, west. -/
def nocPath (a b : Nat) : List Nat :=
  let (ra, ca, rb, cb) := (a / 16, a % 16, b / 16, b % 16)
  (tab (absDiff ca cb) fun i => if ca < cb then 4 * (ra * 16 + ca + i) + 1 else 4 * (ra * 16 + ca - i) + 3) ++
  (tab (absDiff ra rb) fun i => if ra < rb then 4 * ((ra + i) * 16 + cb) + 2 else 4 * ((ra - i) * 16 + cb))

/-- A packet of f flits follows its links from fc t on, each carrying one flit an fc: when it has come through, and the links'
times (R340). -/
def nocSend (f : Nat) : List Nat → Nat → List (Nat × Nat) → Nat × List (Nat × Nat)
  | [], t, noc => (t, noc)
  | l :: ls, t, noc =>
    let t := max t ((alGet l noc).getD 0) + f
    nocSend f ls t (alSet l t noc)

/-- The slot of this fc in a die's slot tables belongs to a partition (R411). -/
def State.slotMine (s : State) (ptn die : Nat) : Bool :=
  ((s.ptn? ptn).map fun p => p.res.slots.contains (die * 64 + s.fc % 64)).getD false

/-- `ROUTER_PACKET_EGRESS` (R340, R421): the tokens waiting at an egress leave as one packet once the far ingress has room;
it arrives within the bounds of R421, behind every earlier packet of its route (log 4). -/
def execRouterPacketEgress (pg rt : Nat) (s : State) : Out :=
  match s.page? pg with
  | none => .next s
  | some p => match p.routes[rt]? with
    | none => .next s
    | some r =>
      if !r.viaRouter ∨ r.dst ≠ 0xFFFF ∨ !s.flowing pg ∨ !s.slotMine p.ptn (dieOfPage pg) then .next s
      else match s.farRoute p r with
        | none => .next s
        | some (q, j) =>
          let free := (((s.page? q).bind fun d => d.routes[j]?).map fun x => ((x.latches.take 4).filter Option.isNone).length).getD 0
          let room := free - s.onTheWay q j
          let toks := packTokens (min 4 room) ((r.latches.reverse).take 4)
          if toks = [] ∨ room = 0 then .next s
          else
            let f := match toks with
              | [t] => tokFlits r.net t
              | _ => if r.net = 1 then 1 else 4
            let d := frameDist pg q
            let (x, s) := s.fresh
            let (id, s) := s.newId
            let last := (s.packets.filter fun k => k.pg = q ∧ k.rt = j).foldl (fun m k => max m k.due) 0
            let (came, noc) := nocSend f (nocPath (frameOfPage pg) (frameOfPage q)) (s.fc + x % (d * 64 + 1)) (s.die (dieOfPage pg)).noc
            let due := max last came
            let s := s.modDie (dieOfPage pg) fun d => { d with noc := noc }
            let s := s.modPage pg fun p => { p with routes := p.routes.modify rt fun r =>
              { r with latches := ((List.replicate toks.length none) ++ r.latches.reverse.drop toks.length).reverse } }
            let s := { s with packets := s.packets ++ [⟨id, q, j, toks, due⟩] }
            .next (if due ≤ s.fc then s.now (.routerPacketIngress id) else s)

/-- `ROUTER_PACKET_INGRESS` (R421): an arrived packet is expanded, one token an fc, in the order of its route. -/
def execRouterPacketIngress (pk : Nat) (s : State) : Out :=
  match s.packets.find? fun k => k.pk = pk with
  | none => .next s
  | some k =>
    let first := (s.packets.find? fun q => q.pg = k.pg ∧ q.rt = k.rt).map (·.pk)
    let open_ := (((s.page? k.pg).bind fun p => p.routes[k.rt]?).map Route.outFree).getD false
    if s.fc < k.due ∨ first ≠ some pk ∨ !open_ then .next s
    else match k.toks with
      | [] => .next { s with packets := s.packets.filter fun q => q.pk != pk }
      | t :: more =>
        let s := s.modPage k.pg fun p => { p with routes := p.routes.modify k.rt (Route.put s.fc t) }
        .next { s with packets := if more = [] then s.packets.filter fun q => q.pk != pk
                                  else s.packets.map fun q => if q.pk = pk then { q with toks := more } else q }

/-! ## An element withholds as a whole -/

/-- A fault of an element itself: one record, no slot named, and every context withholds. -/
def State.elemFault (s : State) (pg pe : Nat) (f : FaultInfo) : State :=
  let o := { s.originPage pg 0 pe with ts := s.tsOf (s.ttElem pg pe), intv := ((s.pe? pg pe).map (·.ival)).getD 0 }
  (s.mail o f 0).modLive pg pe fun l => { l with ctxs := l.ctxs.map fun c => { c with withheld := true } }

/-- Every context of an element is withheld. -/
def Pe.stopped (e : Pe) : Bool := e.live.ctxs.all (·.withheld)

/-! ## The intersection unit (R15) -/

/-- The coordinate of a DATA token. -/
def Tok.coord (t : Tok) : Nat := bits t.pay.toNat 63 32

/-- A DATA token that does not ascend in its run. -/
def Tok.descends (t : Tok) (prev : Option Nat) : Bool :=
  t.tag == tagData && ((prev.map fun c => decide (t.coord ≤ c)).getD false)

/-- The unit's memory of its runs after it has let a head go by. -/
def PeLive.ran (l : PeLive) (port : Nat) (t : Tok) : PeLive :=
  { l with isect := l.isect.set port (if t.tag = tagData then some t.coord else none) }

/-- `ISECT_PRESENT` (R15): the unit presents two heads, drops one, or raises RANGE, whose code the spec does not give
(log 11). -/
def execIsectPresent (pg pe : Nat) (s : State) : Out :=
  match s.page? pg, s.pe? pg pe with
  | some p, some e =>
    let prev (i : Nat) : Option Nat := (e.live.isect[i]?).join
    let bad (i : Nat) : Bool := ((p.headAt (epPe pe i)).map fun t => t.descends (prev i)).getD false
    if !e.isectOn ∨ e.live.isectUp ≠ 0 ∨ e.stopped ∨ !s.running pg then .next s
    else if bad 0 || bad 1 then
      let (x, s) := s.fresh
      .next (s.elemFault pg pe { cls := clsRange, code := x % 2 ^ 11 })
    else match p.headAt (epPe pe 0), p.headAt (epPe pe 1) with
      | some a, some b =>
        let drop (i : Nat) (t : Tok) : Out := .next ((s.takeElem pg pe i).modLive pg pe fun l => l.ran i t)
        let show_ : Out :=
          let up := (if openTok (some a) then 1 else 0) + if openTok (some b) then 2 else 0
          .next (s.modLive pg pe fun l => { (l.ran 0 a).ran 1 b with isectUp := up })
        if a.tag = tagData ∧ b.tag = tagData then
          if a.coord = b.coord then show_ else if a.coord < b.coord then drop 0 a else drop 1 b
        else if a.tag = tagData then drop 0 a
        else if b.tag = tagData then drop 1 b
        else show_
      | _, _ => .next s
  | _, _ => .next s

/-! ## Markers the element handles itself (R22, R396, R397) -/

/-- Markers owed to out ports enter their latches, the oldest of each port as that port's latch is free. -/
def payOwed (fc pe : Nat) : List (Nat × Nat) → Page → List Nat → Page × List (Nat × Nat)
  | [], p, _ => (p, [])
  | (n, tag) :: l, p, shut =>
    if !shut.contains n && p.outFree false (epPe pe n) then
      payOwed fc pe l (p.putAt fc false (epPe pe n) (marker tag)) (n :: shut)
    else
      let r := payOwed fc pe l p (n :: shut)
      (r.1, (n, tag) :: r.2)

/-- The owed markers of an element paid as far as latches are free, unless an earlier fence holds them (R265). -/
def State.pay (s : State) (pg pe : Nat) : State :=
  match s.page? pg, s.pe? pg pe with
  | some p, some e =>
    if s.markHeld pg pe e then s
    else
    let (p, owed) := payOwed s.fc pe e.owed p []
    (s.modPage pg fun _ => p).modPe pg pe fun e => { e with owed := owed }
  | _, _ => s

/-- An in port is on a back arc (R268, R397). -/
def Page.backPort (p : Page) (pe i : Nat) : Bool := ((p.inRoute (epPe pe i)).map (·.back)).getD false

/-- The tag at an element's in port. -/
def Page.tagAt (p : Page) (pe i : Nat) : Option Nat := (p.headAt (epPe pe i)).map (·.tag)

/-- Ports dequeued by an element itself. -/
def State.takePorts (s : State) (pg pe : Nat) (l : List Nat) : State := l.foldl (fun s i => s.takeElem pg pe i) s

/-- A SNAP on a back arc ends the log of the oldest shadow still open for it, and is absorbed (R397). -/
def Pe.shutLog (e : Pe) (port : Nat) : Pe :=
  let open_ := e.shadows.filter fun sh => !sh.shut.contains port
  match open_.getLast? with
  | none => e
  | some sh => { e with shadows := e.shadows.map fun x => if x.ival = sh.ival then { x with shut := port :: x.shut } else x }

/-- SNAP stands at every input of an element that waits for it, or its controller has delivered it. -/
def Page.snapReady (p : Page) (pe : Nat) (e : Pe) : Bool :=
  let l := e.inPorts.filter fun i => !p.backPort pe i
  if l = [] then e.snapDue && e.inPorts = [] else l.all fun i => p.tagAt pe i == some tagSnap

/-- An element passes SNAP, absorbs SNAPs of back arcs, and pays what it owes. -/
def State.snapElem (s : State) (pg pe : Nat) : State :=
  match s.page? pg, s.pe? pg pe with
  | some p, some e =>
    let backs := e.inPorts.filter fun i => p.backPort pe i && p.tagAt pe i == some tagSnap && e.shadows.any fun sh => !sh.shut.contains i
    let s := (s.takePorts pg pe backs).modPe pg pe fun e => backs.foldl Pe.shutLog e
    let s := if p.snapReady pe e && s.snapMay pg e.ival then
        (s.takePorts pg pe (e.inPorts.filter fun i => !p.backPort pe i)).modPe pg pe fun e =>
          { (e.shadow s.fc).owe tagSnap with snapDue := false }
      else s
    s.pay pg pe
  | _, _ => s

/-- A tenant at a stated step: no engine step of an `MMA` to come, or sixteen of them done, or a multiple (R181). -/
def Tenant.atStep (t : Tenant) : Bool :=
  match t.run with
  | none => true
  | some r => r.ct.isNone || decide (0 < r.step) && r.step % 16 == 0

/-- A tenant's state kept in a new shadow, with the instructions its queue holds. -/
def State.shadowTen (s : State) (p : Page) (t : Tenant) : Tenant :=
  let sh : TenShadow :=
    { ival := t.ival + 1, desc := t.desc, cells := p.mtx.cells, wts := p.mtx.wts, fmt := t.fmt, left := t.left, q := t.q
      tiles := t.tiles, flights := t.q.filterMap fun z => s.flight? z.fid, run := t.run, told := t.told, cnts := t.cnts }
  { t with ival := t.ival + 1, shadows := (t.shadows ++ [sh]).drop (t.shadows.length + 1 - 2) }

/-- The interval number of a tenant's driver element. -/
def Page.drvIval (p : Page) (t : Tenant) : Nat := ((t.drv.bind fun d => p.pes[d.1]?).map (·.ival)).getD 0

/-- A tenant passes SNAP with its `mtx.in` port, or after its driver when no route ends there. -/
def State.snapTen (s : State) (pg ten : Nat) : State :=
  match s.page? pg, s.ten? pg ten with
  | some p, some t =>
    let ep := epMtx ten
    let due := match p.inRoute ep with
      | some _ => ((p.headAt ep).map (·.tag)) == some tagSnap
      | none => decide (t.ival < p.drvIval t)
    if t.drv.isSome && due && t.atStep && s.snapMay pg t.ival then
      (s.modPage pg fun p => p.takeAt ep).modTen pg ten fun t => s.shadowTen p t
    else s
  | _, _ => s

/-- A graph's counts as they stand when it passes SNAP, two being kept (R90, R396). -/
def Graph.snap (g : Graph) : Graph :=
  { g with ival := g.ival + 1, marks := (g.marks ++ [(g.ival + 1, g.tiles, g.cnts)]).drop (g.marks.length + 1 - 2) }

/-- A marker goes through a graph whose pipeline is empty (R351). -/
def State.graphPass (s : State) (pg h tag : Nat) (f : Graph → Graph) : State :=
  match s.page? pg, s.graph? pg h with
  | some p, some g =>
    if g.bound ∧ g.pipe = [] ∧ !g.withheld ∧ ((p.headAt g.inEp).map (·.tag)) = some tag ∧ p.outFree false g.outEp then
      ((s.modPage pg fun p => p.takeAt g.inEp).modPage pg fun p => p.putAt s.fc false g.outEp (marker tag)).modGraph pg h f
    else s
  | _, _ => s

/-- `SNAP_PASS` (R22, R396, R397): an element, a tenant or a graph passes SNAP. -/
def execSnapPass (pg unit : Nat) (s : State) : Out :=
  if !s.running pg then .next s
  else if unit < 16 then .next (s.snapElem pg unit)
  else if unit = 20 ∨ unit = 21 then .next (s.snapTen pg (unit - 20))
  else if unit < 32 then .next s
  else if s.snapMay pg (((s.graph? pg (unit - 32)).map (·.ival)).getD 0) then
    .next (s.graphPass pg (unit - 32) tagSnap Graph.snap)
  else .next s

/-- An element has no instruction outstanding. -/
def State.elemQuiet (s : State) (pg pe : Nat) : Bool :=
  s.flights.all fun f => match f.who with
    | .elem g q _ _ => g != pg || q != pe
    | .tel .. => true

/-- DRAIN stands at every input of an element, or its controller has delivered it (R22). -/
def Page.drainReady (p : Page) (pe : Nat) (e : Pe) : Bool :=
  if e.inPorts = [] then e.drainDue else e.inPorts.all fun i => p.tagAt pe i == some tagDrain

/-- An element forwards DRAIN, and pays what it owes; one that has placed DRAIN itself absorbs it (R130). -/
def State.drainElem (s : State) (pg pe : Nat) : State :=
  match s.page? pg, s.pe? pg pe with
  | some p, some e =>
    let s :=
      if e.drained then s.modPe pg pe fun e => { e with drainDue := false }
      else if p.drainReady pe e && s.elemQuiet pg pe then
        (s.takePorts pg pe e.inPorts).modPe pg pe fun e => { e.owe tagDrain with drained := true, drainDue := false }
      else s
    s.pay pg pe
  | _, _ => s

/-- `DRAIN_FORWARD` (R22, R351): an element or a graph forwards DRAIN; a tenant with nothing queued takes it. -/
def execDrainForward (pg unit : Nat) (s : State) : Out :=
  if !s.running pg then .next s
  else if unit < 16 then .next (s.drainElem pg unit)
  else if unit = 20 ∨ unit = 21 then
    match s.page? pg, s.ten? pg (unit - 20) with
    | some p, some t =>
      if t.q = [] ∧ ((p.headAt (epMtx (unit - 20))).map (·.tag)) = some tagDrain then
        .next (s.modPage pg fun p => p.takeAt (epMtx (unit - 20)))
      else .next s
    | _, _ => .next s
  else if unit < 32 then .next s
  else .next (s.graphPass pg (unit - 32) tagDrain fun g => { g with drained := true })

/-- `DRAIN_ABSORB` (R271): a DRAIN behind the one an element has forwarded is dequeued and discarded. -/
def execDrainAbsorb (pg pe port : Nat) (s : State) : Out :=
  match s.page? pg, s.pe? pg pe with
  | some p, some e =>
    if e.drained ∧ p.tagAt pe port = some tagDrain ∧ s.running pg then .next (s.takeElem pg pe port) else .next s
  | _, _ => .next s

/-! ## Control pulses (R23) -/

/-- The pulse in a port's latch. -/
def Page.pulseAt (p : Page) (pe port : Nat) : Option Nat :=
  p.routes.findIdx? fun r => r.net == 3 && r.dst == epPe pe port && ((r.latches.getLast?).join).isSome

/-- A pulse leaves the head at the end of its fc: the pulses it held up move in that fc after all (R13). -/
def Route.pulseTaken (r : Route) : Route :=
  let l := r.latches.reverse.drop 1
  { r with latches := (l.take (r.stuck - 1) ++ none :: l.drop (r.stuck - 1)).reverse, stuck := 0 }

/-- `PULSE_APPLY` (R23): a pulse sets its bound predicate when that is false and not pending, and is consumed; otherwise it
waits. -/
def execPulseApply (pg pe port : Nat) (s : State) : Out :=
  match s.page? pg, s.pe? pg pe with
  | some p, some e => match p.pulseAt pe port, (e.pbind[port]?).join with
    | some rt, some (cx, n) =>
      if ((e.live.ctxs[cx]?).map fun c => c.p.getD n .pend) = some .ff then
        .next (((s.modCtx pg pe cx fun c => { c with p := c.p.set n .tt }).modPage pg fun p =>
          { p with routes := p.routes.modify rt Route.pulseTaken }).stir pg)
      else .next s
    | _, _ => .next s
  | _, _ => .next s

/-! ## Length and poison markers at a head (R228, R240) -/

/-- A CTL token of a kind that stands at an element's in port, unless the element has stopped already. -/
def State.markerAt (s : State) (pg pe port kind : Nat) : Option Tok :=
  match s.page? pg, s.pe? pg pe with
  | some p, some e =>
    if e.present ∧ e.inPorts.contains port ∧ !e.stopped ∧ s.running pg then
      (p.headAt (epPe pe port)).filter fun t => t.tag == tagCtl && t.kind == kind
    else none
  | _, _ => none

/-- `LENGTH_MARKER_AT_HEAD` (R228). -/
def execLengthMarkerAtHead (pg pe port : Nat) (s : State) : Out :=
  match s.markerAt pg pe port 3 with
  | some t => .next (s.elemFault pg pe { cls := clsLen, code := bits t.pay.toNat 49 48 })
  | none => .next s

/-- `POISON_MARKER_AT_HEAD` (R240). -/
def execPoisonMarkerAtHead (pg pe port : Nat) (s : State) : Out :=
  match s.markerAt pg pe port 4 with
  | some t => .next (s.elemFault pg pe { cls := clsPoison, code := 1, opnd := bits t.pay.toNat 55 0 })
  | none => .next s

end Sys2Proof.Machine
end

