-- ==== Sys2Proof/Machine/TellerUnit.lean ====
section
/-!
DEFINITION. A teller's own steps: issuing in rotation (R24, R25, R43), the fetch buffer (R422), and late traps (R419).
-/

namespace Sys2Proof.Machine

/-! ## The fetch buffer (R422) -/

/-- The line that holds an address. -/
def lineOf (pc : Word) : Nat := pc.toNat / 64 * 64

/-- The line behind a line. -/
def nextLine (l : Nat) : Nat := (l + 64) % 2 ^ 64

/-- A line is asked for, unless it is buffered, under way or found faulty, or its walk must wait. -/
def State.askLine (s : State) (t cx line : Nat) : State :=
  match s.tctx? t cx with
  | none => s
  | some c =>
    let job : ReqFor := .line t cx
    if (alGet line c.buf).isSome ∨ c.fetch.contains line ∨ c.bad.any (fun b => b.1 == line) ∨ !s.portRoom (.tel t) job 1 then s
    else
      let s := s.modTctx t cx fun c => { c with fetch := c.fetch ++ [line] }
      match s.ask job (.tel t) c.asid ⟨line, 64, none⟩ none (Who.tel t cx 0).node 0 with
      | .ok s => s
      | .error e => s.modTctx t cx fun c =>
          { c with fetch := c.fetch.filter (· != line), bad := (line, e.cause, e.opnd) :: c.bad }

/-- The lines a context needs and does not have are asked for: the one that holds PC, and the one behind the line from which
it has issued. -/
def State.wantLines (s : State) (t cx : Nat) : State :=
  match s.tctx? t cx with
  | none => s
  | some c =>
    if !c.run then s
    else
      let s := s.askLine t cx (lineOf c.pc)
      if c.line = lineOf c.pc + 1 then s.askLine t cx (nextLine (lineOf c.pc)) else s

/-- `TELLER_FETCH_LINE` (R422): a line arrives; the buffer keeps the line that holds PC and the one behind it. -/
def execTellerFetchLine (t cx line : Nat) (s : State) : Out :=
  match s.tctx? t cx with
  | none => .next s
  | some c =>
    if !c.fetch.contains line then .next s
    else
      let keep (l : Nat) : Bool := l == lineOf c.pc || l == nextLine (lineOf c.pc)
      match s.readRec (Port.tel t).die c.asid none line 64 with
      | .ok (bs, _) => .next (s.modTctx t cx fun c =>
          { c with fetch := c.fetch.filter (· != line), buf := (c.buf ++ [(line, bs)]).filter fun b => keep b.1 })
      | .error e => .next (s.modTctx t cx fun c =>
          { c with fetch := c.fetch.filter (· != line), bad := (line, e.cause, e.opnd) :: c.bad })

/-! ## Issuing (R24, R25) -/

/-- The word at a context's PC. -/
def wordAt (pc : Word) (line : List Byte) : Word := BitVec.ofNat 64 (recNat line (pc.toNat % 64 / 8 * 8) 8)

/-- What a context does when its turn comes. -/
inductive Turn where
  /-- halted, waiting for a fetch, not yet accepted, stalled, or pre-empted by the hypervisor -/
  | pass
  /-- a fault of the fetch, or a defect, raised at the PC -/
  | fault (f : FaultInfo) (x : Word)
  | skip (x : Word)
  | fire (x : Word)
  deriving DecidableEq, Repr

/-- The fault of a defective word in teller code (R43). -/
def defectFault (d : Nat) : FaultInfo := if d = 8 then { cls := clsPriv, code := 1 } else { cls := clsIllegal, code := d }

/-- A context's turn (R24, R25, R43, R422). -/
def State.turnOf (s : State) (t cx : Nat) : Turn :=
  match s.tctx? t cx with
  | none => .pass
  | some c =>
    if !c.run ∨ s.fc < c.after ∨ c.wait.isSome ∨ s.heldPtn (c.ptn.getD 0xFF) then .pass
    else match c.bad.find? fun b => b.1 == lineOf c.pc with
      | some (_, cause, opnd) => .fault { cls := cause / 2048, code := cause % 2048, opnd := opnd } 0
      | none => match alGet (lineOf c.pc) c.buf with
        | none => .pass
        | some bs =>
          let x := wordAt c.pc bs
          let d := defect .teller x
          if d ≠ 0 then .fault (defectFault d) x
          else match s.telGuard t cx (.tel t cx c.pc) x with
            | .stall => .pass
            | .skip => .skip x
            | .fire => .fire x

/-- The context whose turn it is: the first after the pointer that is not passed over. -/
def State.telPick (s : State) (t : Nat) : Option (Nat × Turn) :=
  let arb := ((s.tellers[t]?).map (·.arb)).getD 3
  (List.range 4).findSome? fun i =>
    let cx := (arb + 1 + i) % 4
    match s.turnOf t cx with
    | .pass => none
    | x => some (cx, x)

/-- A context issues from the line that holds its PC: lines before it leave the buffer, and the line behind it is asked
for. -/
def State.issuedFrom (s : State) (t cx : Nat) : State :=
  (s.modTctx t cx fun c =>
    { c with line := lineOf c.pc + 1
             buf := c.buf.filter fun b => b.1 == lineOf c.pc || b.1 == nextLine (lineOf c.pc) }).wantLines t cx

/-- `TELLER_ISSUE` (R24, R25, R43): the teller takes the next context in rotation, and its word fires, is skipped, or raises
its fault. -/
def execTellerIssue (t : Nat) (s : State) : Out :=
  let s' := (List.range 4).foldl (fun s cx => s.wantLines t cx) s
  match s.telPick t with
  | none => .next s'
  | some (cx, turn) =>
    let pc := ((s.tctx? t cx).map (·.pc)).getD 0
    let w : Who := .tel t cx pc
    let s := s'.modTeller t fun l => { l with arb := cx }
    match turn with
    | .fire x => .next { s.issuedFrom t cx with issue := some (w, x) }
    | .skip _ => .next ((s.issuedFrom t cx).modTctx t cx fun c => { c with pc := c.pc + 8, after := s.fc + 1 })
    | .fault f x => .next ((s.modTctx t cx fun c =>
        { c with bad := c.bad.filter fun b => b.1 != lineOf c.pc, after := s.fc + 1 }).raise w x f)
    | .pass => .next s

/-- `LATE_TRAP` (R419): a fault found when a teller's accepted word is performed. -/
def execLateTrap (fid : Nat) (s : State) : Out :=
  match s.flight? fid with
  | none => .next s
  | some f => match f.late with
    | some (cause, detail, opnd) =>
      .next (s.raiseFlight f { cls := cause / 2048, code := cause % 2048, detail := detail, opnd := opnd })
    | none => .next s

end Sys2Proof.Machine
end

