-- ==== Sys2Proof/Machine/Host.lean ====
section
/-!
DEFINITION. What comes from outside the fabric: the host's and the hypervisor's accesses, the strongroom's partitions, trust,
and bring-up (R77, R380, R405-R416). Each is a step that stands among the inputs (log 2).
-/

namespace Sys2Proof.Machine

/-- Something the device answers to the outside. Kinds: 0 `NOTIFY`, 1 CXL.mem, 2 VF BAR2, 3 SPDM, 4 manifest, 5 PFCMD. A device
whose firmware did not verify answers only SPDM (R416). -/
def State.tellHost (s : State) (kind ptn : Nat) (bs : List Byte) (poison : Bool) : State :=
  if !s.bring.fwOk && kind != 3 then s
  else { s with hostOut := s.hostOut ++ [({ kind := kind, ptn := ptn, bytes := bs, poison := poison } : HostOut)] }

/-- Bytes of all ones. -/
def onesBytes (n : Nat) : List Byte := List.replicate n 0xFF

/-! ## Registers of a function (R408, R409) -/

/-- `HOST_MBX_WRITE` (R408): a full mailbox of 64 words drops the write and sets MBXERR. -/
def execHostMbxWrite (ptn : Nat) (v : Word) (s : State) : Out :=
  .next (s.modPtn ptn fun p => if p.mbx.length < 64 then { p with mbx := p.mbx ++ [v] } else { p with mbxErr := true })

/-- Words that wait in `out3` latches of a partition's contexts enter its notify FIFO while there is room (R409). -/
def State.notifyAll (s : State) (ptn : Nat) : State :=
  ((((s.ptn? ptn).map (·.res.tctxs)).getD [])).foldl (fun s i => s.notifyOne (i / 4) (i % 4)) s

/-- `HOST_NOTIFY_READ` (R408, R409): the oldest notify word, or all ones. -/
def execHostNotifyRead (ptn : Nat) (s : State) : Out :=
  match (s.ptn? ptn).bind fun p => p.notify.head? with
  | none => .next (s.tellHost 0 ptn (onesBytes 8) false)
  | some w => .next (((s.modPtn ptn fun p => { p with notify := p.notify.drop 1 }).tellHost 0 ptn (leBytes 8 w.toNat) false).notifyAll ptn)

/-- `MBXERR_CLEAR` (R408). -/
def execMbxerrClear (ptn : Nat) (s : State) : Out := .next (s.modPtn ptn fun p => { p with mbxErr := false })

/-- `HOST_REGISTER_WRITE` (R408): NOTVEC takes a vector 0-63; the other registers are read-only or have a step of their own. -/
def execHostRegisterWrite (ptn off : Nat) (v : Word) (s : State) : Out :=
  if off = 0x20 then .next (s.modPtn ptn fun p => { p with notVec := v.toNat % 64 }) else .next s

/-- READY (R408): the dies, the anchor, the package, early service. -/
def Bring.readyWord (b : Bring) : Nat :=
  (List.range 8).foldl (fun n d => n + if b.ready.getD d false then 2 ^ d else 0) 0 +
  (if b.anchor then 2 ^ 8 else 0) + (if b.package then 2 ^ 9 else 0) + (if b.early then 2 ^ 10 else 0)

/-- What a read of a function's register gives, with 0xFF for the PF (R408). Only a read of `NOTIFY` changes anything, and has a
step of its own; the rule gives no value for the other offsets. -/
def State.hostRegister (s : State) (ptn off : Nat) : Option Word :=
  match off with
  | 0x00 => some (w64 s.bring.readyWord)
  | 0x10 => (s.ptn? ptn).map fun p => w64 (64 - p.mbx.length + if p.mbxErr then 2 ^ 63 else 0)
  | 0x20 => (s.ptn? ptn).map fun p => w64 p.notVec
  | 0x40 => some (w64 (if (s.ptn? ptn).isSome then ptn else 0xFF))
  | _ => none

/-- `PFCMD_REQUEST` (R408, R410): a request in the ring to the strongroom. -/
def execPfcmdRequest (req : List Word) (s : State) : Out := .next { s with pfcmd := s.pfcmd ++ [req] }

/-! ## Memory as the host reaches it (R239, R240, R380, R407) -/

/-- Bytes the host writes, block by block: one that covers a part of a poisoned block writes nothing there (R239). -/
def State.hostStore (s : State) (key : Nat) (bs : List Byte) : State :=
  (List.range ((key + bs.length + 63) / 64 - key / 64)).foldl (fun s i =>
    let a := max key ((key / 64 + i) * 64)
    let z := min (key + bs.length) ((key / 64 + i + 1) * 64)
    if s.poisoned a ∧ z - a < 64 then s else s.store a ((bs.drop (a - key)).take (z - a))) s

/-- The host's write would cover a part of a poisoned block. -/
def State.hostPartial (s : State) (key n : Nat) : Bool :=
  (s.poisoned key && (key % 64 != 0 || decide (n < 64))) || (s.poisoned (key + n - 1) && (key + n) % 64 != 0)

/-- Bytes read by the host, or written when it writes: with the poison indication of a read, and of a write that meets poison in
a block it covers in part (R239, R240; log 134). -/
def State.hostAccess (s : State) (kind ptn key len : Nat) : Option (List Byte) → State
  | none => s.tellHost kind ptn (memRead s.mem key len) (s.poisonIn key len).isSome
  | some bs =>
    let bs := bs.take len
    let t := s.hostStore key bs
    if bs ≠ [] ∧ s.hostPartial key bs.length then t.tellHost kind ptn [] true else t

/-- An access that reaches nothing: all ones, and nothing written. -/
def State.hostMiss (s : State) (kind ptn len : Nat) (w : Option (List Byte)) : State :=
  if w.isNone then s.tellHost kind ptn (onesBytes len) false else s

/-- The 64 KiB pages an access touches. -/
def pagesTouched (pa len : Nat) : List Nat := tab ((pa + len - 1) / 65536 + 1 - pa / 65536) fun i => pa / 65536 + i

/-- `CXL_MEM_ACCESS` (R380, R407): committed HBM of the function's own partition; anything else reads all ones and is not
written. -/
def execCxlMemAccess (ptn pa len : Nat) (w : Option (List Byte)) (s : State) : Out :=
  let own := ((s.ptn? ptn).map fun p => (pagesTouched pa len).all fun g => p.res.hbm.contains g).getD false
  if own && hbmOk pa len then .next (s.hostAccess 1 ptn pa len w) else .next (s.hostMiss 1 ptn len w)

/-- `BAR2_WINDOW_ACCESS` (R407): a VF's window onto vault pages by ASID 1, through the home teller's die (log 51); the PF's,
`ptn` 0xFF, reads zero. -/
def execBar2WindowAccess (ptn off len : Nat) (w : Option (List Byte)) (s : State) : Out :=
  match s.ptn? ptn with
  | none => if w.isNone then .next (s.tellHost 2 ptn (List.replicate len 0) false) else .next s
  | some p =>
    let acc : Acc := if w.isSome then .store else .load
    let ok (e : Tlb) : Bool := leafVlt e.leaf && (e.forbids acc).isNone && decide (off + len ≤ e.va + e.size)
    match if off + len ≤ 2 ^ 24 ∧ s.ownsAsid ptn 1 then (s.walk p.peerDie 1 off).toOption.filter ok else none with
    | some e => .next (s.hostAccess 2 ptn (e.key off) len w)
    | none => .next (s.hostMiss 2 ptn len w)

/-! ## Partitions (R410, R411, R413) -/

/-- The whole partition's resources as one list, each kind under numbers of its own. -/
def resAll (r : PtnRes) : List (Nat × Nat) :=
  r.halves.map (fun x => (0, x)) ++ r.banks.map (fun x => (1, x)) ++ r.engines.map (fun x => (2, x)) ++
  r.tctxs.map (fun x => (3, x)) ++ r.groups.map (fun x => (4, x)) ++ r.queues.map (fun x => (5, x.1)) ++
  r.asids.map (fun x => (6, x)) ++ [(7, r.keySlot)] ++ r.hbm.map (fun x => (8, x)) ++ r.slots.map (fun x => (9, x))

/-- A grant the strongroom can make: the device has come up with verified firmware (R416), nothing in it belongs to another partition, every number names something the device
has, and the home teller is one of its tellers (R409, R410). -/
def State.grantOk (s : State) (ptn : Nat) (r : PtnRes) : Bool :=
  let taken := s.ptns.flatMap fun (x : Nat × Ptn) => if x.1 = ptn then [] else resAll x.2.res
  s.bring.fwOk && decide (ptn < 63) && (resAll r).all (fun x => !taken.contains x) && decide (r.keySlot < 16) &&
  r.halves.all (fun x => decide (x < 4096)) && r.banks.all (fun x => decide (x < 16384)) && r.engines.all (fun x => decide (x < 24)) &&
  r.tctxs.all (fun x => decide (x < 72)) && r.groups.all (fun x => decide (x < 8192)) && r.queues.all (fun x => decide (x.1 < 128 ∧ x.2 < 4)) &&
  r.asids.all (fun x => decide (x < 512)) && r.slots.all (fun x => decide (x < 512)) && r.tctxs.any fun x => x / 4 == r.home

/-- The bank of a vault key. -/
def bankOfKey (k : Nat) : Nat := keyDie k * 2048 + keyVault k * 32 + keyBank k

/-- A key of memory lies in a resource that changes hands. -/
def resCovers (r : PtnRes) (k : Nat) : Bool :=
  if vaultKey ≤ k then r.banks.contains (bankOfKey k) else r.hbm.contains (k / 65536)

/-- What one grant has and another has not. -/
def resMinus (r q : PtnRes) : PtnRes :=
  { r with halves := r.halves.filter fun x => !q.halves.contains x, banks := r.banks.filter fun x => !q.banks.contains x
           engines := r.engines.filter fun x => !q.engines.contains x, tctxs := r.tctxs.filter fun x => !q.tctxs.contains x
           groups := r.groups.filter fun x => !q.groups.contains x
           queues := r.queues.filter fun x => !(q.queues.map (·.1)).contains x.1
           asids := r.asids.filter fun x => !q.asids.contains x, hbm := r.hbm.filter fun x => !q.hbm.contains x
           slots := r.slots.filter fun x => !q.slots.contains x }

/-- Scrubbing of resources before they change partition (R413): banks and HBM pages zero and free of poison, group entries,
queues and engines emptied, tokens of banks free, frames empty. -/
def State.scrub (s : State) (r : PtnRes) : State :=
  let s := r.halves.foldl (fun s h => { s.vacate h with shadows := alDel h s.shadows }) s
  { s with
    mem := s.mem.filter fun c => !resCovers r c.1
    poison := s.poison.filter fun b => !resCovers r (b * 64)
    codes := s.codes.filter fun c => !resCovers r (c.1 * 64)
    dies := s.dies.mapIdx fun di (d : Die) =>
      { d with
        groups := d.groups.filter fun g => !r.groups.contains (di * 1024 + g.1)
        banks := d.banks.filter fun b => !r.banks.contains (di * 2048 + b.1)
        bankRR := d.bankRR.filter fun b => !r.banks.contains (di * 2048 + b.1)
        asids := d.asids.filter fun a => !r.asids.contains a.1
        asidsNew := d.asidsNew.filter fun a => !r.asids.contains a.1
        lq := d.lq.mapIdx fun q l => if (r.queues.map (·.1)).contains (di * 16 + q) then [] else l
        engs := d.engs.mapIdx fun e x => if r.engines.contains (di * 3 + e) then Eng.idle else x } }

/-- A group entry as it is allocated to a partition (R256): no members, every barrier at generation 0. -/
def Grp.fresh (p : Nat) : Grp := ⟨some p, 0, List.replicate 4 0, List.replicate 4 0, []⟩

/-- Every context, queue, engine and group entry of a grant made to belong to it (R24, R256, R327, R367, R390); to nobody with
`none`. -/
def State.bindRes (s : State) (owner : Option Nat) (r : PtnRes) : State :=
  let s := r.tctxs.foldl (fun s i => s.modTctx (i / 4) (i % 4) fun _ =>
    { TCtx.reset with ptn := owner, asid := if owner.isSome then r.asids.headD 0 else 0 }) s
  { s with dies := s.dies.mapIdx fun di (d : Die) =>
    { d with
      lqBind := d.lqBind.mapIdx fun q w => match r.queues.find? fun x => x.1 == di * 16 + q with
        | some x => (match owner with
          | some p => w64 (2 ^ 15 + x.2 * 2 ^ 8 + p)
          | none => 0)
        | none => w
      groups := match owner with
        | some p => (r.groups.filter fun x => x / 1024 == di).foldl (fun l x => alSet (x % 1024) (Grp.fresh p) l) d.groups
        | none => d.groups
      engs := d.engs.mapIdx fun e (x : Eng) => if r.engines.contains (di * 3 + e) then { x with ptn := owner } else x } }

/-- `PARTITION_CREATE` (R409, R410, R413): the strongroom scrubs and grants the resources, and reports the home teller through
PFCMD. A request it cannot grant changes nothing. -/
def execPartitionCreate (ptn : Nat) (r : PtnRes) (s : State) : Out :=
  if (s.ptn? ptn).isSome || !s.grantOk ptn r then .next s
  else
    let s := s.scrub r
    let s := { s with ptns := alSet ptn (Ptn.fresh r) s.ptns }
    let s := s.bindRes (some ptn) r
    .next (s.tellHost 5 ptn (leBytes 8 (homeWord r.home)) false)

/-- `PARTITION_RESIZE` (R410, R413): what the partition loses is scrubbed, and what it gains; half-frames in use stay. -/
def execPartitionResize (ptn : Nat) (r : PtnRes) (s : State) : Out :=
  match s.ptn? ptn with
  | none => .next s
  | some p =>
    let lost := resMinus p.res r
    let gained := resMinus r p.res
    let busy := (s.tasks.filter fun k => k.ptn == ptn).flatMap s.taskHalves
    if !s.grantOk ptn r || lost.halves.any (fun h => busy.contains h) then .next s
    else
      let s := (s.scrub lost).bindRes none lost
      let s := (s.scrub gained).bindRes (some ptn) { gained with asids := r.asids }
      let s := s.modPtn ptn fun p => { p with res := r }
      .next (s.tellHost 5 ptn (leBytes 8 (homeWord r.home)) false)

/-- Everything a partition has under way ends, without a record. -/
def State.purgePtn (s : State) (ptn : Nat) : State :=
  let mine := s.regions.filter fun x => x.2.ptn == ptn
  let s := mine.foldl (fun s x => s.removeRegion x.1) s
  { s with
    tasks := s.tasks.filter fun k => k.ptn != ptn
    pages := s.pages.filter fun x => x.2.ptn != ptn
    shadows := s.shadows.filter fun x => x.2.ptn != ptn
    packets := s.packets.filter fun k => ((s.page? k.pg).map (·.ptn)) != some ptn
    flights := s.flights.filter fun f => f.ptn != ptn
    reqs := s.reqs.filter fun r => match r.job with
      | .line t cx => ((s.tctx? t cx).bind (·.ptn)) != some ptn
      | .flight fid _ | .pref fid => ((s.flight? fid).map (·.ptn)) != some ptn
      | .row pg _ _ _ | .store pg _ | .refill pg _ _ | .through pg _ _ | .aux pg _ _ _ | .upd pg _ _ =>
        ((s.page? pg).map (·.ptn)) != some ptn
    upds := s.upds.filter fun u => ((s.flight? u.fid).map (·.ptn)) != some ptn
    msgs := s.msgs.filter fun m => m.ptn != ptn
    peerq := s.peerq.filter fun q => q.2.2.1 != ptn
    saves := s.saves.map fun x => if x.page.ptn = ptn then { x with bytes := [], flights := [], reqs := [] } else x
    dies := s.dies.map fun (d : Die) =>
      { d with
        mbx := d.mbx.filter fun r => r.ptn != ptn
        nmq := alDel ptn d.nmq, evq := alDel ptn d.evq, evIn := alDel ptn d.evIn, evOut := alDel ptn d.evOut
        ptill := alDel ptn d.ptill } }

/-- `PARTITION_DESTROY` (R410, R411, R413): its work ends, its flits leave the routers, its resources are scrubbed. -/
def execPartitionDestroy (ptn : Nat) (s : State) : Out :=
  match s.ptn? ptn with
  | none => .next s
  | some p =>
    let s := ((s.purgePtn ptn).scrub p.res).bindRes none p.res
    .next { s with ptns := alDel ptn s.ptns }

/-! ## Resets and pre-emption of a function (R405) -/

/-- A VF reset (R183, R321, R405, R411): its tasks are cancelled, its matrix tenants flushed, its flits leave the routers. -/
def State.resetVf (s : State) (ptn : Nat) : State :=
  let live := s.tasks.filter fun k => k.ptn == ptn && k.st != .ended && !k.cancelled
  let s := live.foldl State.cancelTask s
  { s with
    pages := s.pages.map fun ((g, p) : Nat × Page) => (g, if p.ptn = ptn then p.flushed else p)
    packets := s.packets.filter fun k => ((s.page? k.pg).map (·.ptn)) != some ptn }

/-- `VF_RESET` (R405). -/
def execVfReset (ptn : Nat) (s : State) : Out := .next (s.resetVf ptn)

/-- The regions of a partition. -/
def State.ptnRegions (s : State) (ptn : Nat) : List (Nat × Region) := s.regions.filter fun x => x.2.ptn == ptn

/-- Every armed region of a partition begins to stop (R400). -/
def State.stopAll (s : State) (ptn : Nat) : State :=
  { s with regions := s.regions.map fun ((g, r) : Nat × Region) =>
      (g, if r.ptn = ptn ∧ r.st = .armed then { r with st := .stopping, stopAt := s.fc } else r) }

/-- An outstanding instruction or request of a teller context. -/
def Flight.ofCtx (f : Flight) (i : Nat) : Bool :=
  match f.who with
  | .tel t cx _ => t * 4 + cx == i
  | .elem .. => false

def Req.ofCtx (s : State) (r : Req) (i : Nat) : Bool :=
  match r.job with
  | .line t cx => t * 4 + cx == i
  | .flight fid _ => ((s.flight? fid).map fun f => f.ofCtx i).getD false
  | _ => false

/-- The partition has come to rest: every region is frozen, and no update of its teller words is on its way. -/
def State.ptnStill (s : State) (ptn : Nat) (ctxs : List Nat) : Bool :=
  (s.ptnRegions ptn).all (fun x => x.2.st == .frozen || x.2.st == .done) &&
  s.upds.all fun u => match s.flight? u.fid with
    | some f => !ctxs.any f.ofCtx
    | none => true

/-- Every page of a partition's tasks taken out of its frame, and where each stands among the saves; the page of a region that
has ended is no task's. -/
def State.takeAllPages (s : State) (ptn : Nat) : State × List Nat :=
  ((s.livePages.filter fun x => x.2.ptn == ptn).map (·.1)).foldl (fun (acc : State × List Nat) pg =>
    let s' := acc.1.landPackets pg
    match s'.page? pg, s'.regionOf pg with
    | some p, some r =>
      let fs := s'.flights.filter fun f => f.who.isElem && f.who.page == pg
      (s'.takePage pg (p.saveBytes r fs), acc.2 ++ [s'.saves.length])
    | _, _ => acc) (s, [])

/-- `HYPERVISOR_VF_PREEMPT` (R405): the VF's contexts issue nothing more and its regions stop; once all of them are frozen the
strongroom keeps pages, contexts and their outstanding words. -/
def execHypervisorVfPreempt (ptn : Nat) (s : State) : Out :=
  match s.ptn? ptn with
  | none => .next s
  | some p =>
    if p.held = 2 then .next s
    else
      let s := (s.stopAll ptn).modPtn ptn fun p => { p with held := 1 }
      let ctxs := p.res.tctxs
      if !s.ptnStill ptn ctxs then .next s
      else
        let (s', places) := s.takeAllPages ptn
        let s' := { s' with
          shadows := s'.shadows.filter fun x => x.2.ptn != ptn
          tasks := s'.tasks.map fun (k : Task) => if k.ptn = ptn then { k with fill := none } else k }
        let s' := s'.modPtn ptn fun p =>
          { p with held := 2, parkedSaves := places
                   parked := ctxs.filterMap fun i => (s'.tctx? (i / 4) (i % 4)).map fun c => (i, c)
                   parkedFlights := s'.flights.filter fun f => ctxs.any f.ofCtx
                   parkedReqs := s'.reqs.filter fun r => ctxs.any (r.ofCtx s') }
        let s' := { s' with flights := s'.flights.filter fun f => !ctxs.any f.ofCtx
                            reqs := s'.reqs.filter fun r => !ctxs.any (r.ofCtx s') }
        .next (ctxs.foldl (fun s i => s.modTctx (i / 4) (i % 4) fun c => { TCtx.reset with ptn := c.ptn, asid := c.asid }) s')

/-- The saved pages put back, each where it fits; none if one of them does not. -/
def State.putPages (s : State) (ptn : Nat) : List Nat → Option State
  | [] => some s
  | i :: l => match s.saves[i]? with
    | none => s.putPages ptn l
    | some x => match s.region? x.rg with
      | none => s.putPages ptn l
      | some r => match s.restoreAt ptn r.die x.page.kind (BitVec.allOnes 64) with
        | none => none
        | some pg => (s.putPage pg x.page x.flights x.reqs (savedKey i)).putPages ptn l

/-- `VF_RESTORE` (R405): pages and contexts are put back, the regions that ran are armed, and every context goes on from its
saved pc. -/
def execVfRestore (ptn : Nat) (s : State) : Out :=
  match s.ptn? ptn with
  | none => .next s
  | some p =>
    if p.held ≠ 2 then .next s
    else match s.putPages ptn p.parkedSaves with
      | none => .next s
      | some s =>
        let s := p.parked.foldl (fun s x => s.modTctx (x.1 / 4) (x.1 % 4) fun _ => x.2) s
        let s := { s with
          flights := s.flights ++ p.parkedFlights
          reqs := s.reqs ++ p.parkedReqs
          regions := s.regions.map fun ((g, r) : Nat × Region) =>
            let runs := ((s.taskOfRegion r).map fun (k : Task) => k.st == TaskState.running).getD false
            (g, if r.ptn = ptn ∧ r.st = RgState.frozen ∧ runs then { r with st := .armed, quiet := 0, swept := false } else r) }
        .next (s.modPtn ptn fun p =>
          { p with held := 0, parked := [], parkedFlights := [], parkedReqs := [], parkedSaves := [] })

/-! ## Trust (R77, R406, R415) -/

/-- `SPDM_REQUEST` (R415): the measurements under two signatures over one transcript, which the nonce opens. -/
def execSpdmRequest (nonce : List Byte) (s : State) : Out :=
  .next (s.tellHost 3 0xFF (Config.measurements ++ Config.signature (nonce ++ Config.measurements)) false)

/-- `TDI_STATE_CHANGE` (R415): leaving RUN, or entering ERROR, closes debug; ERROR and CONFIG_UNLOCKED reset the VF. -/
def execTdiStateChange (ptn : Nat) (st : Tdi) (s : State) : Out :=
  match s.ptn? ptn with
  | none => .next s
  | some p =>
    let shut := (p.tdi == .run && st != .run) || st == .error
    let s := s.modPtn ptn fun p => { p with tdi := st, debug := if shut then 0 else p.debug }
    if st = .error ∨ st = .unlocked then .next (s.resetVf ptn) else .next s

/-- `DEBUG_POLICY_SUPPLY` (R415): a policy signed with the tenant key bound at CONFIG_LOCKED opens what it names. -/
def execDebugPolicySupply (ptn sets : Nat) (signed : Bool) (s : State) : Out :=
  match s.ptn? ptn with
  | none => .next s
  | some p => if signed && (p.tdi == .locked || p.tdi == .run) then .next (s.modPtn ptn fun p => { p with debug := sets }) else .next s

/-- The entries of a manifest (R77). -/
def manEntries (man : List Byte) : List (List Byte) :=
  tab (recNat man 4 4) fun i => (man.drop (16 + 64 * i)).take 64

/-- `MANIFEST_SIGN` (R77, R415): refused when it is not version 1 or a FIRMWARE entry exceeds the running version; otherwise
the keys of ids 0-15 (R163) and the hashes are loaded, the running version written, and both signatures answered. -/
def execManifestSign (ptn : Nat) (man : List Byte) (s : State) : Out :=
  let es := manEntries man
  let kind (e : List Byte) : Nat := recNat e 0 2
  if recNat man 0 2 ≠ 1 ∨ es.any (fun e => kind e == 6 && decide (Config.firmware < recNat e 8 8)) then
    .next (s.tellHost 4 ptn [] false)
  else
    let signed := putBytes man 8 (leBytes 8 Config.firmware)
    let s := s.modPtn ptn fun p =>
      { p with man := signed
               keys := (es.filter fun e => kind e == 5 && decide (recNat e 4 4 < 16)).map fun e => (recNat e 4 4, (e.drop 8).take 16)
               hashes := (es.filter fun e => kind e == 1).map fun e => (e.drop 16).take 48 }
    .next (s.tellHost 4 ptn (signed ++ Config.signature signed) false)

/-! ## Bring-up (R416) -/

/-- `POWER_UP` (R416): anchor READY, unless a firmware image does not verify. -/
def execPowerUp (s : State) : Out := .next { s with bring := { s.bring with anchor := s.bring.fwOk } }

/-- `DIE_READY` (R416): the die's stacks are zero-filled and its READY bit set, once the anchor is ready. -/
def execDieReady (die : Nat) (s : State) : Out :=
  if !s.bring.anchor ∨ 8 ≤ die then .next s
  else
    let mine (k : Nat) : Bool := decide (k < vaultKey) && hbmDie k == die
    .next { s with bring := { s.bring with ready := s.bring.ready.set die true }
                   mem := s.mem.filter fun c => !mine c.1
                   poison := s.poison.filter fun b => !mine (b * 64)
                   codes := s.codes.filter fun c => !mine (c.1 * 64) }

/-- `EARLY_SERVICE_START` (R416): with the first die ready, EARLY is set and that die alone serves, at 470 MHz. Where several
dies are ready it is the one of the lowest number (log 114); EARLY is set once. -/
def execEarlyServiceStart (s : State) : Out :=
  match s.bring.ready.findIdx? id with
  | some die =>
    if s.bring.package || s.bring.early then .next s
    else .next ({ s with bring := { s.bring with early := true } }.modDie die fun d => { d with mhz := 470 })
  | none => .next s

/-- No region of a ready die has a tile-task under way: a boundary of every region (R416). -/
def State.atBoundary (s : State) : Bool :=
  s.regions.all fun x => !(s.bring.ready.getD x.2.die false) || x.2.tts.isEmpty || x.2.st == .frozen

/-- `PACKAGE_READY` (R416): every die is ready; early service ends at a tile-task boundary of every region of its die. -/
def execPackageReady (s : State) : Out :=
  if !s.bring.ready.all id then .next s
  else
    let s := { s with bring := { s.bring with package := true } }
    if s.bring.early ∧ s.atBoundary then
      .next { s with bring := { s.bring with early := false }
                     dies := s.dies.map fun (d : Die) => if d.mhz = 470 then { d with mhz := 940 } else d }
    else .next s

/-- `POWER_CAP` (R416): a die's clock is lowered, which changes no result. -/
def execPowerCap (die mhz : Nat) (s : State) : Out :=
  .next (s.modDie die fun d => if 0 < mhz ∧ mhz ≤ 940 then { d with mhz := mhz } else d)

/-- `WATCHDOG_SET` (R401): 10 us to 1 ms. -/
def execWatchdogSet (die n : Nat) (s : State) : Out :=
  .next (s.modDie die fun d => if 9400 ≤ n ∧ n ≤ 940000 then { d with watchdog := n } else d)

end Sys2Proof.Machine
end

