-- ==== Sys2Proof/Machine/Performed.lean ====
section
/-!
DEFINITION. `INSTRUCTION_PERFORMED`: an outstanding memory, condition-waiting or engine-issuing instruction goes on, and is
performed once its condition or access completes (R242, R243).
-/

namespace Sys2Proof.Machine

/-- Words that the matrix array's queue or the assay unit performs (R187, R294). -/
def isQueued (x : Word) : Bool := (0x40 ≤ opcOf x && opcOf x ≤ 0x4E) || (0x74 ≤ opcOf x && opcOf x ≤ 0x77)

/-- An outstanding instruction may go on: its results are not known yet, its time has come, no fault of it waits to trap, and
its page is not frozen (R243, R400). -/
def State.canGoOn (s : State) (f : Flight) : Bool :=
  f.due.isNone && decide (f.after ≤ s.fc) && f.late.isNone && !isQueued f.word &&
  !(f.who.isElem && ((s.regionOf f.who.page).map fun r => r.st == .frozen).getD false)

/-- An instruction goes on, by its opcode. -/
def State.performStep (s : State) (f : Flight) : State :=
  match opcOf f.word with
  | 0x58 | 0x59 | 0x5A | 0x5B | 0x5E => s.memStep f
  | 0x5F => if fnOf f.word = 1 then s.atomStep f else s.memStep f
  | 0x68 | 0x69 | 0x6A | 0x6B | 0x6C => s.atomStep f
  | 0x50 | 0x51 | 0x53 => s.shapeStep f
  | 0x5C => s.sopenStep f
  | 0x5D => s.sctlStep f
  | 0x60 => s.ldrStep f
  | 0x61 => s.prefStep f
  | 0x62 => if fnOf f.word = 0 then s.atomStep f else s.tillStep f
  | 0x63 => s.prmtStep f
  | 0x64 => s.xformStep f
  | 0x65 => s.bankStep f
  | 0x66 => s.evStep f
  | 0x6D => s.linkStep f
  | 0x6E => s.cfgStep f
  | 0x6F => s.rgnStep f
  | 0x70 => s.grpStep f
  | 0x71 => s.fenceStep f
  | 0x72 => s.qfenceStep f
  | 0x73 => s.tcntStep f
  | 0x78 => s.agStep f
  | 0x79 => s.taskStep f
  | 0x7A => s.rangeStep f
  | 0x7B | 0x7C => s.engStep f
  | 0x7F => s.sysStep f
  | _ => s

/-- `INSTRUCTION_PERFORMED` (R242). -/
def execInstructionPerformed (fid : Nat) (s : State) : Out :=
  match s.flight? fid with
  | none => .next s
  | some f => if s.canGoOn f then .next (s.performStep f) else .next s

end Sys2Proof.Machine
end

