-- ==== Sys2Proof/Machine/VectorStream.lean ====
section
/-!
DEFINITION. Vector instructions that keep slot state or match, rank and draw: `VACC`, `VNRM.STAT`, `VMATCH`, `VTOPK`,
`VRNG` (R151, R152, R158, R161-R163).
-/

namespace Sys2Proof.Machine

/-- closes(t, lev) of R151. -/
def closes (t lev : Nat) : Bool := t == lev || (decide (lev ≤ 3) && decide (1 ≤ t) && decide (t ≤ 3) && decide (lev ≤ t))

/-- The EMPTY bit of a segment companion (R175). -/
def Tok.isEmptySeg (t : Tok) : Bool := t.tag == tagCtl && t.kind == 2 && bitAt t.pay.toNat 55

/-- The identity of a `VACC` variant in every lane (R151). -/
def accIdent (fn ty : Nat) : Vec :=
  packLanes (tyWidth ty) (List.replicate (tyLanes ty) (if fn = 1 then identMax ty else if fn = 2 then identMin ty else 0))

/-- The slot of an element firing. -/
def State.slotOf (s : State) : Who → Option Slot
  | .elem pg pe _ n => (s.pe? pg pe).bind fun e => e.live.slots[n]?
  | .tel .. => none

/-- `VACC` (R151, R152): the accumulator reads as the identity while the count is zero. -/
def accR (o : FormR) (fn : Nat) (op : Nat → Nat → Nat → LaneRes) (s : State) : Out :=
  fireTimed o.g (fun w _ s =>
    match s.slotOf w with
    | none => .ok {}
    | some sl =>
      let ty := o.ty.toNat
      let lw := tyWidth ty
      let W := if tyFloat ty then 6 else 4
      let lev := o.b.toNat
      let t := (s.headOf w (o.a.toNat - 12)).getD ⟨0, 0⟩
      if t.isEmptySeg then
        if sl.half then
          .ok { w := W, wr := writeTok o.d.toNat ⟨lev, accIdent fn ty⟩, outcome := true, slot := some { sl with half := false } }
        else .ok { w := W, wr := writeTok o.d.toNat t, deq := some ((deqsOf o.g).filter fun i => i != o.a.toNat - 12)
                   slot := some { sl with half := true } }
      else if t.tag = tagCtl then .ok { w := W, wr := writeTok o.d.toNat t }
      else
        let cur := if sl.cnt = 0 then accIdent fn ty else sl.acc
        let rs := tab (512 / lw) fun j => op ty (lane lw cur j) (lane lw t.pay j)
        let acc := packLanes lw (rs.map (·.pat))
        let cnt := sl.cnt + 1
        let ev := sumEvents (rs.map (·.ev))
        if closes t.tag lev then
          let res := if fn = 3 then packLanes lw (List.replicate (512 / lw) cnt.toNat) else acc
          .ok { w := W, wr := writeTok o.d.toNat ⟨t.tag, res⟩, outcome := true, ev := ev
                slot := some { sl with acc := accIdent fn ty, cnt := 0 } }
        else .ok { w := W, ev := ev, slot := some { sl with acc := acc, cnt := cnt } }) s

def execVaccSum (o : FormR) (s : State) : Out := accR o 0 laneAdd s
def execVaccMax (o : FormR) (s : State) : Out := accR o 1 (fun ty => laneMm ty true false) s
def execVaccMin (o : FormR) (s : State) : Out := accR o 2 (fun ty => laneMm ty false false) s
def execVaccCnt (o : FormR) (s : State) : Out := accR o 3 (fun _ x _ => { pat := x }) s

/-! ## VNRM.STAT (R158) -/

/-- A lane absorbed into the exact sums: S in units of 2^-149, Q in units of 2^-298. -/
def statLane (sl : Slot) (v : FVal) : Slot :=
  match v with
  | .nan b => { sl with nan := true, sig := sl.sig || b }
  | .inf _ => { sl with inf := true }
  | .fin .. => { sl with sumS := sl.sumS + v.dy.at (-149), sumQ := sl.sumQ + (v.dy.mul v.dy).at (-298) }

/-- Lane 0: m = S / c (R158). -/
def statMean (sl : Slot) (rms : Bool) : FRes :=
  if rms then ⟨0, []⟩ else fmtF32.roundQ .rne (decide (sl.sumS < 0)) sl.sumS.natAbs sl.sumC (-149)

/-- Lane 1: r = 1 / √(V + ε), with V + ε = N / c² * 2^e exactly. -/
def statRsq (sl : Slot) (rms : Bool) (eps : FVal) : FRes :=
  match eps with
  | .nan b => fmtF32.nan b
  | .inf n => if n then fmtF32.nan true else ⟨0, []⟩
  | .fin .. =>
    let c : Int := sl.sumC
    let v : Dy := ⟨if rms then sl.sumQ * c else sl.sumQ * c - sl.sumS * sl.sumS, -298⟩
    let n := v.add ((Dy.ofInt (c * c)).mul eps.dy)
    if n.n = 0 then ⟨fmtF32.inf false, evDivZero⟩
    else if n.n < 0 then fmtF32.nan true
    else if n.e % 2 = 0 then fmtF32.roundSqrt .rne (sl.sumC * sl.sumC) n.n.natAbs (-n.e)
    else fmtF32.roundSqrt .rne (sl.sumC * sl.sumC) (2 * n.n.natAbs) (-(n.e - 1))

/-- The slot's sums back at zero. -/
def Slot.clearStat (sl : Slot) : Slot := { sl with sumS := 0, sumQ := 0, sumC := 0, inf := false, sig := false, nan := false }

/-- `VNRM.STAT`: a segment with NaN or infinite lanes counts one invalid event, on lane 0 of its row, where a lane was a
signalling NaN or none was a NaN; lane 1 counts one more where EPS is a signalling NaN (log 52). -/
def execVnrmStat (o : FormR) (s : State) : Out :=
  fireTimed o.g (fun w _ s =>
    match s.slotOf w with
    | none => .ok {}
    | some sl =>
      let ty := o.ty.toNat
      let L := tyLanes ty
      let b := (s.readS w o.b.toNat).toNat
      let lev := b % 8
      let vl := if bits b 15 8 = 0 then L else bits b 15 8
      let rms := bitAt b 3
      if lev = 0 ∨ 4 < lev ∨ L < vl then .error { cls := clsRange, code := 0x012, opnd := b }
      else
        let t := (s.headOf w (o.a.toNat - 12)).getD ⟨0, 0⟩
        if t.tag = tagCtl then .ok { w := 6, wr := writeTok o.d.toNat t }
        else
          let vs := tab vl fun j => (fmtOf ty).decode (lane (tyWidth ty) t.pay j)
          let sl := { vs.foldl statLane sl with sumC := sl.sumC + vl }
          if closes t.tag lev then
            let bad := sl.nan || sl.inf
            let eps := fmtF32.decode (bits b 63 32)
            let m := if bad then fmtF32.nan (sl.sig || !sl.nan) else statMean sl rms
            let r := if bad then fmtF32.nan eps.isSig else statRsq sl rms eps
            let lanes := [m.pat, r.pat, (fmtF32.ofInt .rne sl.sumC).pat, (fmtF32.ofInt .rne vl).pat]
            .ok { w := 6, wr := writeTok o.d.toNat ⟨t.tag, packLanes 32 lanes⟩, outcome := true
                  ev := addCnts m.ev r.ev, slot := some sl.clearStat }
          else .ok { w := 6, slot := some sl }) s

/-! ## VMATCH (R161) -/

/-- The longest t ≤ n with the first t bytes of the pattern a suffix of the text. -/
def longestSuffix (pat text : List Nat) : Nat → Nat
  | 0 => 0
  | t + 1 => if t + 1 ≤ text.length ∧ text.drop (text.length - (t + 1)) = pat.take (t + 1) then t + 1
             else longestSuffix pat text t

/-- The loop of R161 over the chunk's bytes: state, and the hit if there is one. -/
def matchLoop (pat : List Nat) : List Nat → Nat → Nat → Nat × Nat
  | [], _, q => (q, 0)
  | c :: cs, i, q =>
    let q := if q = pat.length then longestSuffix pat pat (pat.length - 1) else q
    let q := longestSuffix pat (pat.take q ++ [c]) pat.length
    if q = pat.length then (q, i + 1) else matchLoop pat cs (i + 1) q

def execVmatch (o : FormR) (s : State) : Out :=
  fireTimed o.g (fun w _ s =>
    let a := lanesOf 8 (s.readV w o.a.toNat)
    let b := lanesOf 8 (s.readV w o.b.toNat)
    let d := s.readS w o.d.toNat
    let k := a.getD 63 0
    let l := b.getD 63 0
    let q := d.toNat % 256
    if 64 ≤ k ∨ l = 0 ∨ 64 ≤ l ∨ l < q then .error { cls := clsRange, code := 0x013, opnd := d.toNat }
    else
      let (q, hit) := matchLoop (b.take l) (a.take k) 0 q
      .ok { w := 4, wr := writeS o.d.toNat tagData (BitVec.ofNat 64 (hit * 256 + q))
            outcome := hit != 0, flag := hit != 0 }) s

/-! ## VTOPK (R162) -/

/-- An entry: key pattern, index, and whether it came from D. -/
structure TopEnt where
  key : Nat
  ix : Nat
  old : Bool
  deriving DecidableEq, Repr

/-- The order of R162: x stands before y. -/
def TopEnt.before (x y : TopEnt) : Bool :=
  let a := fmtF32.decode x.key
  let b := fmtF32.decode y.key
  if b.lt a then true else if a.lt b then false
  else if x.ix < y.ix then true else if y.ix < x.ix then false else x.old && !y.old

/-- Insertion behind everything that stands before it or ties with it. -/
def topInsert (x : TopEnt) : List TopEnt → List TopEnt
  | [] => [x]
  | y :: l => if x.before y then x :: y :: l else y :: topInsert x l

def execVtopk (o : FormR) (s : State) : Out :=
  fireTimed o.g (fun w _ s =>
    let d := lanesOf 64 (s.readV w o.d.toNat)
    let a := lanesOf 32 (s.readV w o.a.toNat)
    let base := (s.readS w o.b.toNat).toNat
    let olds := d.map fun x => { key := x / 2 ^ 32, ix := x % 2 ^ 32, old := true : TopEnt }
    let news := a.mapIdx fun j x => { key := x, ix := (base + j) % 2 ^ 32, old := false : TopEnt }
    let cands := (olds ++ news).filter fun e => !(fmtF32.decode e.key).isNan
    let best := (cands.foldl (fun l e => topInsert e l) []).take 8
    let lanes := tab 8 fun j => match best[j]? with
      | some e => e.key * 2 ^ 32 + e.ix
      | none => 2 ^ 64 - 1
    .ok { w := 4, wr := writeV o.d.toNat tagData (packLanes 64 lanes), outcome := !best.isEmpty
          flag := best.any fun e => !e.old
          ev := event 1 (a.countP fun x => (fmtF32.decode x).isSig) }) s

/-! ## VRNG (R163) -/

/-- The RNG key of an id, 0-15, in an agent's partition (R163). -/
def State.rngKey (s : State) (w : Who) (id : Nat) : Option (List Byte) :=
  if 15 < id then none else (s.ptn? (s.ptnOf w)).bind fun p => alGet id p.keys

def execVrng (o : FormR) (s : State) : Out :=
  fireTimed o.g (fun w _ s =>
    let a := (s.readS w o.a.toNat).toNat
    let b := (s.readS w o.b.toNat).toNat
    match s.rngKey w (bits b 39 32) with
    | none => .error { cls := clsRange, code := 0x014, opnd := b }
    | some key =>
      let k := key.map BitVec.toNat
      let words := (List.range 4).flatMap fun blk =>
        let ctr := leBytes 4 (a % 2 ^ 32) ++ leBytes 4 (a / 2 ^ 32) ++ leBytes 4 (b % 2 ^ 32) ++ leBytes 4 blk
        let out := aes128 k (ctr.map BitVec.toNat)
        tab 4 fun i => leNat ((tab 4 fun j => BitVec.ofNat 8 (out.getD (4 * i + j) 0)))
      let lanes := words.map fun x => if o.ty = 10 then (fmtF32.round .rne false (x / 256) (-24) false).pat else x
      .ok { w := 12, wr := writeV o.d.toNat (s.tagOf w o.a.toNat o.b.toNat) (packLanes 32 lanes), outcome := true }) s

end Sys2Proof.Machine
end

