-- ==== Sys2Proof/Machine/Dispatch.lean ====
section
/-!
DEFINITION. The dispatch: one arm per row of the opcode table, each a direct call of that row's meaning.
-/

namespace Sys2Proof.Machine

/-- The meaning of a step of the machine: an instruction word acts for the agent that is firing it (`State.issue`); a
unit's step acts on the unit it names. -/
def exec (i : Instr) (s : State) : Host.Outcome State Fault Refusal :=
  match i with
  | .peArbiterFire pg pe => Sys2Proof.Machine.execPeArbiterFire pg pe s
  | .writeBack fid => Sys2Proof.Machine.execWriteBack fid s
  | .tokenAdvance pg rt => Sys2Proof.Machine.execTokenAdvance pg rt s
  | .routerPacketEgress pg rt => Sys2Proof.Machine.execRouterPacketEgress pg rt s
  | .routerPacketIngress pk => Sys2Proof.Machine.execRouterPacketIngress pk s
  | .isectPresent pg pe => Sys2Proof.Machine.execIsectPresent pg pe s
  | .snapPass pg unit => Sys2Proof.Machine.execSnapPass pg unit s
  | .drainForward pg unit => Sys2Proof.Machine.execDrainForward pg unit s
  | .drainAbsorb pg pe port => Sys2Proof.Machine.execDrainAbsorb pg pe port s
  | .pulseApply pg pe port => Sys2Proof.Machine.execPulseApply pg pe port s
  | .tellerIssue t => Sys2Proof.Machine.execTellerIssue t s
  | .tellerFetchLine t cx line => Sys2Proof.Machine.execTellerFetchLine t cx line s
  | .lateTrap fid => Sys2Proof.Machine.execLateTrap fid s
  | .mintLoad rg page => Sys2Proof.Machine.execMintLoad rg page s
  | .regionArm rg => Sys2Proof.Machine.execRegionArm rg s
  | .shadowFillComplete rg => Sys2Proof.Machine.execShadowFillComplete rg s
  | .sequenceSwap rg => Sys2Proof.Machine.execSequenceSwap rg s
  | .streamHeaderCapture pg si => Sys2Proof.Machine.execStreamHeaderCapture pg si s
  | .streamRowIssue pg si => Sys2Proof.Machine.execStreamRowIssue pg si s
  | .streamWindowRead pg si => Sys2Proof.Machine.execStreamWindowRead pg si s
  | .lengthMarkerAtHead pg pe port => Sys2Proof.Machine.execLengthMarkerAtHead pg pe port s
  | .poisonMarkerAtHead pg pe port => Sys2Proof.Machine.execPoisonMarkerAtHead pg pe port s
  | .storeStreamToken pg si => Sys2Proof.Machine.execStoreStreamToken pg si s
  | .shapeWindowRefill pg sx => Sys2Proof.Machine.execShapeWindowRefill pg sx s
  | .shsetWriteThrough pg sx => Sys2Proof.Machine.execShsetWriteThrough pg sx s
  | .tileQueuePerform pg ten => Sys2Proof.Machine.execTileQueuePerform pg ten s
  | .mmaEngineStep pg ten => Sys2Proof.Machine.execMmaEngineStep pg ten s
  | .tenantFlush pg ten => Sys2Proof.Machine.execTenantFlush pg ten s
  | .armRecordWalk rg => Sys2Proof.Machine.execArmRecordWalk rg s
  | .bankAccess die bank => Sys2Proof.Machine.execBankAccess die bank s
  | .hbmAccessComplete rid => Sys2Proof.Machine.execHbmAccessComplete rid s
  | .translationWalk rid => Sys2Proof.Machine.execTranslationWalk rid s
  | .updateTokenArrive uid => Sys2Proof.Machine.execUpdateTokenArrive uid s
  | .ownerUpdateApply pg me => Sys2Proof.Machine.execOwnerUpdateApply pg me s
  | .atomicResultReturn fid => Sys2Proof.Machine.execAtomicResultReturn fid s
  | .instructionPerformed fid => Sys2Proof.Machine.execInstructionPerformed fid s
  | .tillAppend mid => Sys2Proof.Machine.execTillAppend mid s
  | .spanMessageArrive port ptn till res bytes => Sys2Proof.Machine.execSpanMessageArrive port ptn till res bytes s
  | .uncorrectableError pa => Sys2Proof.Machine.execUncorrectableError pa s
  | .latchParityError pg rt pos => Sys2Proof.Machine.execLatchParityError pg rt pos s
  | .correctedError die cls => Sys2Proof.Machine.execCorrectedError die cls s
  | .grpEntryApply die ix => Sys2Proof.Machine.execGrpEntryApply die ix s
  | .tcntApply rg => Sys2Proof.Machine.execTcntApply rg s
  | .drainStart rg => Sys2Proof.Machine.execDrainStart rg s
  | .meDrainPass pg me => Sys2Proof.Machine.execMeDrainPass pg me s
  | .pageDrained pg => Sys2Proof.Machine.execPageDrained pg s
  | .regionComplete rg => Sys2Proof.Machine.execRegionComplete rg s
  | .quietCountExpire rg => Sys2Proof.Machine.execQuietCountExpire rg s
  | .statCountEmit pg unit => Sys2Proof.Machine.execStatCountEmit pg unit s
  | .statRecordWrite pg => Sys2Proof.Machine.execStatRecordWrite pg s
  | .tileTaskIssue rg => Sys2Proof.Machine.execTileTaskIssue rg s
  | .tileTaskSeal rg ix => Sys2Proof.Machine.execTileTaskSeal rg ix s
  | .escrowReserveStall rg ix => Sys2Proof.Machine.execEscrowReserveStall rg ix s
  | .writeThroughStart rg ix => Sys2Proof.Machine.execWriteThroughStart rg ix s
  | .commitTileTask rg ix => Sys2Proof.Machine.execCommitTileTask rg ix s
  | .rerunIssue rg ix => Sys2Proof.Machine.execRerunIssue rg ix s
  | .cutSnapInject rg => Sys2Proof.Machine.execCutSnapInject rg s
  | .schedulerCycle die => Sys2Proof.Machine.execSchedulerCycle die s
  | .priorityAging die q => Sys2Proof.Machine.execPriorityAging die q s
  | .stealRequestServe rg => Sys2Proof.Machine.execStealRequestServe rg s
  | .safSlice pg g => Sys2Proof.Machine.execSafSlice pg g s
  | .safOutput pg g => Sys2Proof.Machine.execSafOutput pg g s
  | .safCtlHandle pg g => Sys2Proof.Machine.execSafCtlHandle pg g s
  | .linkFifoApply l => Sys2Proof.Machine.execLinkFifoApply l s
  | .groupTurnComplete l g => Sys2Proof.Machine.execGroupTurnComplete l g s
  | .linkHoldExpire l => Sys2Proof.Machine.execLinkHoldExpire l s
  | .linkFlitFailure rg => Sys2Proof.Machine.execLinkFlitFailure rg s
  | .copyCommandExecute die e => Sys2Proof.Machine.execCopyCommandExecute die e s
  | .nmcCommandExecute die ptn => Sys2Proof.Machine.execNmcCommandExecute die ptn s
  | .engineCompletionPost die q => Sys2Proof.Machine.execEngineCompletionPost die q s
  | .undoLogLow pg me => Sys2Proof.Machine.execUndoLogLow pg me s
  | .preemptFreeze rg => Sys2Proof.Machine.execPreemptFreeze rg s
  | .preemptWatchdogExpire rg => Sys2Proof.Machine.execPreemptWatchdogExpire rg s
  | .vfReset ptn => Sys2Proof.Machine.execVfReset ptn s
  | .hypervisorVfPreempt ptn => Sys2Proof.Machine.execHypervisorVfPreempt ptn s
  | .hostMbxWrite ptn v => Sys2Proof.Machine.execHostMbxWrite ptn v s
  | .hostNotifyRead ptn => Sys2Proof.Machine.execHostNotifyRead ptn s
  | .mbxerrClear ptn => Sys2Proof.Machine.execMbxerrClear ptn s
  | .hostRegisterWrite ptn off v => Sys2Proof.Machine.execHostRegisterWrite ptn off v s
  | .pfcmdRequest req => Sys2Proof.Machine.execPfcmdRequest req s
  | .partitionCreate ptn r => Sys2Proof.Machine.execPartitionCreate ptn r s
  | .partitionResize ptn r => Sys2Proof.Machine.execPartitionResize ptn r s
  | .partitionDestroy ptn => Sys2Proof.Machine.execPartitionDestroy ptn s
  | .cxlMemAccess ptn pa len w => Sys2Proof.Machine.execCxlMemAccess ptn pa len w s
  | .spdmRequest nonce => Sys2Proof.Machine.execSpdmRequest nonce s
  | .tdiStateChange ptn st => Sys2Proof.Machine.execTdiStateChange ptn st s
  | .debugPolicySupply ptn sets signed => Sys2Proof.Machine.execDebugPolicySupply ptn sets signed s
  | .manifestSign ptn man => Sys2Proof.Machine.execManifestSign ptn man s
  | .powerUp => Sys2Proof.Machine.execPowerUp s
  | .dieReady die => Sys2Proof.Machine.execDieReady die s
  | .earlyServiceStart => Sys2Proof.Machine.execEarlyServiceStart s
  | .packageReady => Sys2Proof.Machine.execPackageReady s
  | .powerCap die mhz => Sys2Proof.Machine.execPowerCap die mhz s
  | .watchdogSet die n => Sys2Proof.Machine.execWatchdogSet die n s
  | .csrCtlWrite t cx n v => Sys2Proof.Machine.execCsrCtlWrite t cx n v s
  | .csrAsidhiWrite t cx v => Sys2Proof.Machine.execCsrAsidhiWrite t cx v s
  | .csrAsidselWrite t cx v => Sys2Proof.Machine.execCsrAsidselWrite t cx v s
  | .csrPtillWrite t cx v => Sys2Proof.Machine.execCsrPtillWrite t cx v s
  | .assayOperation die => Sys2Proof.Machine.execAssayOperation die s
  | .groupEligible l g => Sys2Proof.Machine.execGroupEligible l g s
  | .peerPermitRequest port ptn till r get => Sys2Proof.Machine.execPeerPermitRequest port ptn till r get s
  | .vfRestore ptn => Sys2Proof.Machine.execVfRestore ptn s
  | .bar2WindowAccess ptn off len w => Sys2Proof.Machine.execBar2WindowAccess ptn off len w s
  | .nop o => Sys2Proof.Machine.execNop o s
  | .addW o => Sys2Proof.Machine.execAddW o s
  | .addSs o => Sys2Proof.Machine.execAddSs o s
  | .addSn o => Sys2Proof.Machine.execAddSn o s
  | .subW o => Sys2Proof.Machine.execSubW o s
  | .subSs o => Sys2Proof.Machine.execSubSs o s
  | .subSn o => Sys2Proof.Machine.execSubSn o s
  | .addi o => Sys2Proof.Machine.execAddi o s
  | .mulLo o => Sys2Proof.Machine.execMulLo o s
  | .mulHs o => Sys2Proof.Machine.execMulHs o s
  | .mulHn o => Sys2Proof.Machine.execMulHn o s
  | .macW o => Sys2Proof.Machine.execMacW o s
  | .macSs o => Sys2Proof.Machine.execMacSs o s
  | .divQs o => Sys2Proof.Machine.execDivQs o s
  | .divQn o => Sys2Proof.Machine.execDivQn o s
  | .divMs o => Sys2Proof.Machine.execDivMs o s
  | .divMn o => Sys2Proof.Machine.execDivMn o s
  | .logAnd o => Sys2Proof.Machine.execLogAnd o s
  | .logOr o => Sys2Proof.Machine.execLogOr o s
  | .logXor o => Sys2Proof.Machine.execLogXor o s
  | .logAndn o => Sys2Proof.Machine.execLogAndn o s
  | .logOrn o => Sys2Proof.Machine.execLogOrn o s
  | .logXnor o => Sys2Proof.Machine.execLogXnor o s
  | .shfShl o => Sys2Proof.Machine.execShfShl o s
  | .shfShr o => Sys2Proof.Machine.execShfShr o s
  | .shfSar o => Sys2Proof.Machine.execShfSar o s
  | .shfRol o => Sys2Proof.Machine.execShfRol o s
  | .shfiShl o => Sys2Proof.Machine.execShfiShl o s
  | .shfiShr o => Sys2Proof.Machine.execShfiShr o s
  | .shfiSar o => Sys2Proof.Machine.execShfiSar o s
  | .shfiRol o => Sys2Proof.Machine.execShfiRol o s
  | .mmxMins o => Sys2Proof.Machine.execMmxMins o s
  | .mmxMaxs o => Sys2Proof.Machine.execMmxMaxs o s
  | .mmxMinn o => Sys2Proof.Machine.execMmxMinn o s
  | .mmxMaxn o => Sys2Proof.Machine.execMmxMaxn o s
  | .bitPopc o => Sys2Proof.Machine.execBitPopc o s
  | .bitClz o => Sys2Proof.Machine.execBitClz o s
  | .bitCtz o => Sys2Proof.Machine.execBitCtz o s
  | .bitBrev o => Sys2Proof.Machine.execBitBrev o s
  | .bitBext o => Sys2Proof.Machine.execBitBext o s
  | .bitBins o => Sys2Proof.Machine.execBitBins o s
  | .movMov o => Sys2Proof.Machine.execMovMov o s
  | .movMovk o => Sys2Proof.Machine.execMovMovk o s
  | .movSel o => Sys2Proof.Machine.execMovSel o s
  | .movAbs o => Sys2Proof.Machine.execMovAbs o s
  | .movNeg o => Sys2Proof.Machine.execMovNeg o s
  | .movSext o => Sys2Proof.Machine.execMovSext o s
  | .movZext o => Sys2Proof.Machine.execMovZext o s
  | .li o => Sys2Proof.Machine.execLi o s
  | .lis fn o => Sys2Proof.Machine.execLis fn o s
  | .addr fn o => Sys2Proof.Machine.execAddr fn o s
  | .cmpEq o => Sys2Proof.Machine.execCmpEq o s
  | .cmpNe o => Sys2Proof.Machine.execCmpNe o s
  | .cmpLt o => Sys2Proof.Machine.execCmpLt o s
  | .cmpLe o => Sys2Proof.Machine.execCmpLe o s
  | .cmpLtn o => Sys2Proof.Machine.execCmpLtn o s
  | .cmpLen o => Sys2Proof.Machine.execCmpLen o s
  | .cmpTst o => Sys2Proof.Machine.execCmpTst o s
  | .cmpiEq o => Sys2Proof.Machine.execCmpiEq o s
  | .cmpiNe o => Sys2Proof.Machine.execCmpiNe o s
  | .cmpiLt o => Sys2Proof.Machine.execCmpiLt o s
  | .cmpiLe o => Sys2Proof.Machine.execCmpiLe o s
  | .cmpiLtn o => Sys2Proof.Machine.execCmpiLtn o s
  | .cmpiLen o => Sys2Proof.Machine.execCmpiLen o s
  | .cmpiTst o => Sys2Proof.Machine.execCmpiTst o s
  | .fcmpEq o => Sys2Proof.Machine.execFcmpEq o s
  | .fcmpNe o => Sys2Proof.Machine.execFcmpNe o s
  | .fcmpLt o => Sys2Proof.Machine.execFcmpLt o s
  | .fcmpLe o => Sys2Proof.Machine.execFcmpLe o s
  | .fcmpUn o => Sys2Proof.Machine.execFcmpUn o s
  | .fcmpOr o => Sys2Proof.Machine.execFcmpOr o s
  | .psetSet o => Sys2Proof.Machine.execPsetSet o s
  | .psetClr o => Sys2Proof.Machine.execPsetClr o s
  | .psetCpy o => Sys2Proof.Machine.execPsetCpy o s
  | .psetNot o => Sys2Proof.Machine.execPsetNot o s
  | .psetSig o => Sys2Proof.Machine.execPsetSig o s
  | .plogAnd o => Sys2Proof.Machine.execPlogAnd o s
  | .plogOr o => Sys2Proof.Machine.execPlogOr o s
  | .plogXor o => Sys2Proof.Machine.execPlogXor o s
  | .plogAndn o => Sys2Proof.Machine.execPlogAndn o s
  | .pmovToa o => Sys2Proof.Machine.execPmovToa o s
  | .pmovFra o => Sys2Proof.Machine.execPmovFra o s
  | .sendD o => Sys2Proof.Machine.execSendD o s
  | .sendEor o => Sys2Proof.Machine.execSendEor o s
  | .sendEot o => Sys2Proof.Machine.execSendEot o s
  | .sendEos o => Sys2Proof.Machine.execSendEos o s
  | .sendLvl o => Sys2Proof.Machine.execSendLvl o s
  | .sendCtl o => Sys2Proof.Machine.execSendCtl o s
  | .fwd o => Sys2Proof.Machine.execFwd o s
  | .repl o => Sys2Proof.Machine.execRepl o s
  | .tagr o => Sys2Proof.Machine.execTagr o s
  | .mrgArr o => Sys2Proof.Machine.execMrgArr o s
  | .mrgRot o => Sys2Proof.Machine.execMrgRot o s
  | .markSnap o => Sys2Proof.Machine.execMarkSnap o s
  | .drain o => Sys2Proof.Machine.execDrain o s
  | .vadd o => Sys2Proof.Machine.execVadd o s
  | .vsub o => Sys2Proof.Machine.execVsub o s
  | .vmul o => Sys2Proof.Machine.execVmul o s
  | .vfmaFma o => Sys2Proof.Machine.execVfmaFma o s
  | .vfmaFms o => Sys2Proof.Machine.execVfmaFms o s
  | .vfmaFnma o => Sys2Proof.Machine.execVfmaFnma o s
  | .vdivDiv o => Sys2Proof.Machine.execVdivDiv o s
  | .vdivRcp o => Sys2Proof.Machine.execVdivRcp o s
  | .vdivRsq o => Sys2Proof.Machine.execVdivRsq o s
  | .vdivSqrt o => Sys2Proof.Machine.execVdivSqrt o s
  | .vmmxMin o => Sys2Proof.Machine.execVmmxMin o s
  | .vmmxMax o => Sys2Proof.Machine.execVmmxMax o s
  | .vmmxMinn o => Sys2Proof.Machine.execVmmxMinn o s
  | .vmmxMaxn o => Sys2Proof.Machine.execVmmxMaxn o s
  | .vsgnAbs o => Sys2Proof.Machine.execVsgnAbs o s
  | .vsgnNeg o => Sys2Proof.Machine.execVsgnNeg o s
  | .vsgnCsgn o => Sys2Proof.Machine.execVsgnCsgn o s
  | .vcmp o => Sys2Proof.Machine.execVcmp o s
  | .vsel o => Sys2Proof.Machine.execVsel o s
  | .vlog o => Sys2Proof.Machine.execVlog o s
  | .vshf o => Sys2Proof.Machine.execVshf o s
  | .vclmp o => Sys2Proof.Machine.execVclmp o s
  | .vcvtRne o => Sys2Proof.Machine.execVcvtRne o s
  | .vcvtRz o => Sys2Proof.Machine.execVcvtRz o s
  | .vcvtRu o => Sys2Proof.Machine.execVcvtRu o s
  | .vcvtRd o => Sys2Proof.Machine.execVcvtRd o s
  | .vcvtRna o => Sys2Proof.Machine.execVcvtRna o s
  | .vtrnExp o => Sys2Proof.Machine.execVtrnExp o s
  | .vtrnExp2 o => Sys2Proof.Machine.execVtrnExp2 o s
  | .vtrnLog o => Sys2Proof.Machine.execVtrnLog o s
  | .vtrnLog2 o => Sys2Proof.Machine.execVtrnLog2 o s
  | .vtrnTanh o => Sys2Proof.Machine.execVtrnTanh o s
  | .vtrnSigm o => Sys2Proof.Machine.execVtrnSigm o s
  | .vdot o => Sys2Proof.Machine.execVdot o s
  | .vredSum o => Sys2Proof.Machine.execVredSum o s
  | .vredMax o => Sys2Proof.Machine.execVredMax o s
  | .vredMin o => Sys2Proof.Machine.execVredMin o s
  | .vredAnd o => Sys2Proof.Machine.execVredAnd o s
  | .vredOr o => Sys2Proof.Machine.execVredOr o s
  | .vaccSum o => Sys2Proof.Machine.execVaccSum o s
  | .vaccMax o => Sys2Proof.Machine.execVaccMax o s
  | .vaccMin o => Sys2Proof.Machine.execVaccMin o s
  | .vaccCnt o => Sys2Proof.Machine.execVaccCnt o s
  | .vscanIsum o => Sys2Proof.Machine.execVscanIsum o s
  | .vscanXsum o => Sys2Proof.Machine.execVscanXsum o s
  | .vscanImax o => Sys2Proof.Machine.execVscanImax o s
  | .vprmIdx o => Sys2Proof.Machine.execVprmIdx o s
  | .vprmRot o => Sys2Proof.Machine.execVprmRot o s
  | .vprmBcl o => Sys2Proof.Machine.execVprmBcl o s
  | .vprmPair o => Sys2Proof.Machine.execVprmPair o s
  | .vqnt o => Sys2Proof.Machine.execVqnt o s
  | .vdq o => Sys2Proof.Machine.execVdq o s
  | .bppk o => Sys2Proof.Machine.execBppk o s
  | .bpun o => Sys2Proof.Machine.execBpun o s
  | .vnrmStat o => Sys2Proof.Machine.execVnrmStat o s
  | .vnrmApply o => Sys2Proof.Machine.execVnrmApply o s
  | .vinsIns o => Sys2Proof.Machine.execVinsIns o s
  | .vinsExt o => Sys2Proof.Machine.execVinsExt o s
  | .viota o => Sys2Proof.Machine.execViota o s
  | .vbmpExpd o => Sys2Proof.Machine.execVbmpExpd o s
  | .vbmpCnt o => Sys2Proof.Machine.execVbmpCnt o s
  | .vbmpSetb o => Sys2Proof.Machine.execVbmpSetb o s
  | .vmatch o => Sys2Proof.Machine.execVmatch o s
  | .vtopk o => Sys2Proof.Machine.execVtopk o s
  | .vrng o => Sys2Proof.Machine.execVrng o s
  | .vhead o => Sys2Proof.Machine.execVhead o s
  | .zcfgTy o => Sys2Proof.Machine.execZcfgTy o s
  | .zcfgRow o => Sys2Proof.Machine.execZcfgRow o s
  | .zcfgCol o => Sys2Proof.Machine.execZcfgCol o s
  | .zcfgAll o => Sys2Proof.Machine.execZcfgAll o s
  | .zrd o => Sys2Proof.Machine.execZrd o s
  | .zld o => Sys2Proof.Machine.execZld o s
  | .zst o => Sys2Proof.Machine.execZst o s
  | .zfillZero o => Sys2Proof.Machine.execZfillZero o s
  | .zfillOnes o => Sys2Proof.Machine.execZfillOnes o s
  | .zfillIden o => Sys2Proof.Machine.execZfillIden o s
  | .zfillTril o => Sys2Proof.Machine.execZfillTril o s
  | .zfillTrls o => Sys2Proof.Machine.execZfillTrls o s
  | .zfillTriu o => Sys2Proof.Machine.execZfillTriu o s
  | .zfillBcst o => Sys2Proof.Machine.execZfillBcst o s
  | .zwld o => Sys2Proof.Machine.execZwld o s
  | .mmaD o => Sys2Proof.Machine.execMmaD o s
  | .mmaR o => Sys2Proof.Machine.execMmaR o s
  | .mmaDt o => Sys2Proof.Machine.execMmaDt o s
  | .mmaRt o => Sys2Proof.Machine.execMmaRt o s
  | .ztrn o => Sys2Proof.Machine.execZtrn o s
  | .zaddAdd o => Sys2Proof.Machine.execZaddAdd o s
  | .zaddScl o => Sys2Proof.Machine.execZaddScl o s
  | .zcvt o => Sys2Proof.Machine.execZcvt o s
  | .zarm o => Sys2Proof.Machine.execZarm o s
  | .zsplit o => Sys2Proof.Machine.execZsplit o s
  | .zstat o => Sys2Proof.Machine.execZstat o s
  | .zwait o => Sys2Proof.Machine.execZwait o s
  | .zmovTov o => Sys2Proof.Machine.execZmovTov o s
  | .zmovFrv o => Sys2Proof.Machine.execZmovFrv o s
  | .shbind o => Sys2Proof.Machine.execShbind o s
  | .shset o => Sys2Proof.Machine.execShset o s
  | .shget o => Sys2Proof.Machine.execShget o s
  | .shinv o => Sys2Proof.Machine.execShinv o s
  | .shseg o => Sys2Proof.Machine.execShseg o s
  | .shrow o => Sys2Proof.Machine.execShrow o s
  | .ldPl o => Sys2Proof.Machine.execLdPl o s
  | .ldAcq o => Sys2Proof.Machine.execLdAcq o s
  | .stPl o => Sys2Proof.Machine.execStPl o s
  | .stRel o => Sys2Proof.Machine.execStRel o s
  | .vld o => Sys2Proof.Machine.execVld o s
  | .vstPl o => Sys2Proof.Machine.execVstPl o s
  | .vstMsk o => Sys2Proof.Machine.execVstMsk o s
  | .vstRel o => Sys2Proof.Machine.execVstRel o s
  | .sopen o => Sys2Proof.Machine.execSopen o s
  | .sctlClose o => Sys2Proof.Machine.execSctlClose o s
  | .sctlRewind o => Sys2Proof.Machine.execSctlRewind o s
  | .sctlSkip o => Sys2Proof.Machine.execSctlSkip o s
  | .gath o => Sys2Proof.Machine.execGath o s
  | .scatSt o => Sys2Proof.Machine.execScatSt o s
  | .scatAdd o => Sys2Proof.Machine.execScatAdd o s
  | .ldr o => Sys2Proof.Machine.execLdr o s
  | .pref o => Sys2Proof.Machine.execPref o s
  | .xform o => Sys2Proof.Machine.execXform o s
  | .tillApp o => Sys2Proof.Machine.execTillApp o s
  | .tillPoll o => Sys2Proof.Machine.execTillPoll o s
  | .tillWait o => Sys2Proof.Machine.execTillWait o s
  | .tillAdv o => Sys2Proof.Machine.execTillAdv o s
  | .prmtGet o => Sys2Proof.Machine.execPrmtGet o s
  | .prmtRet o => Sys2Proof.Machine.execPrmtRet o s
  | .bankGive o => Sys2Proof.Machine.execBankGive o s
  | .bankTake o => Sys2Proof.Machine.execBankTake o s
  | .bankQry o => Sys2Proof.Machine.execBankQry o s
  | .evPost o => Sys2Proof.Machine.execEvPost o s
  | .evPop o => Sys2Proof.Machine.execEvPop o s
  | .evWait o => Sys2Proof.Machine.execEvWait o s
  | .evPeek o => Sys2Proof.Machine.execEvPeek o s
  | .aupdAdd o => Sys2Proof.Machine.execAupdAdd o s
  | .aupdMin o => Sys2Proof.Machine.execAupdMin o s
  | .aupdMax o => Sys2Proof.Machine.execAupdMax o s
  | .aupdOr o => Sys2Proof.Machine.execAupdOr o s
  | .aupdAnd o => Sys2Proof.Machine.execAupdAnd o s
  | .aupdXor o => Sys2Proof.Machine.execAupdXor o s
  | .aupdSwp o => Sys2Proof.Machine.execAupdSwp o s
  | .afetAdd o => Sys2Proof.Machine.execAfetAdd o s
  | .afetMin o => Sys2Proof.Machine.execAfetMin o s
  | .afetMax o => Sys2Proof.Machine.execAfetMax o s
  | .afetOr o => Sys2Proof.Machine.execAfetOr o s
  | .afetAnd o => Sys2Proof.Machine.execAfetAnd o s
  | .afetXor o => Sys2Proof.Machine.execAfetXor o s
  | .afetSwp o => Sys2Proof.Machine.execAfetSwp o s
  | .acas o => Sys2Proof.Machine.execAcas o s
  | .atas o => Sys2Proof.Machine.execAtas o s
  | .afadd o => Sys2Proof.Machine.execAfadd o s
  | .grpJoin o => Sys2Proof.Machine.execGrpJoin o s
  | .grpLeave o => Sys2Proof.Machine.execGrpLeave o s
  | .grpArrive o => Sys2Proof.Machine.execGrpArrive o s
  | .grpWait o => Sys2Proof.Machine.execGrpWait o s
  | .grpBar o => Sys2Proof.Machine.execGrpBar o s
  | .grpQry o => Sys2Proof.Machine.execGrpQry o s
  | .fenceCtx o => Sys2Proof.Machine.execFenceCtx o s
  | .fencePage o => Sys2Proof.Machine.execFencePage o s
  | .fenceRgn o => Sys2Proof.Machine.execFenceRgn o s
  | .fenceDie o => Sys2Proof.Machine.execFenceDie o s
  | .fenceDev o => Sys2Proof.Machine.execFenceDev o s
  | .fenceSys o => Sys2Proof.Machine.execFenceSys o s
  | .qfence o => Sys2Proof.Machine.execQfence o s
  | .tcntAdd o => Sys2Proof.Machine.execTcntAdd o s
  | .tcntSub o => Sys2Proof.Machine.execTcntSub o s
  | .tcntRd o => Sys2Proof.Machine.execTcntRd o s
  | .tcntWz o => Sys2Proof.Machine.execTcntWz o s
  | .smIns o => Sys2Proof.Machine.execSmIns o s
  | .smSeal o => Sys2Proof.Machine.execSmSeal o s
  | .smMrg o => Sys2Proof.Machine.execSmMrg o s
  | .smSpl o => Sys2Proof.Machine.execSmSpl o s
  | .smFork o => Sys2Proof.Machine.execSmFork o s
  | .smEvct o => Sys2Proof.Machine.execSmEvct o s
  | .smFree o => Sys2Proof.Machine.execSmFree o s
  | .smbnd o => Sys2Proof.Machine.execSmbnd o s
  | .smdsc o => Sys2Proof.Machine.execSmdsc o s
  | .smaccNode o => Sys2Proof.Machine.execSmaccNode o s
  | .smaccLeaf o => Sys2Proof.Machine.execSmaccLeaf o s
  | .smaccFin o => Sys2Proof.Machine.execSmaccFin o s
  | .agLoad o => Sys2Proof.Machine.execAgLoad o s
  | .agBind o => Sys2Proof.Machine.execAgBind o s
  | .agUnld o => Sys2Proof.Machine.execAgUnld o s
  | .agQry o => Sys2Proof.Machine.execAgQry o s
  | .taskLnch o => Sys2Proof.Machine.execTaskLnch o s
  | .taskSeq o => Sys2Proof.Machine.execTaskSeq o s
  | .taskCncl o => Sys2Proof.Machine.execTaskCncl o s
  | .taskQry o => Sys2Proof.Machine.execTaskQry o s
  | .taskPrio o => Sys2Proof.Machine.execTaskPrio o s
  | .rangeGet o => Sys2Proof.Machine.execRangeGet o s
  | .rangeSteal o => Sys2Proof.Machine.execRangeSteal o s
  | .rangeSplit o => Sys2Proof.Machine.execRangeSplit o s
  | .rangeDone o => Sys2Proof.Machine.execRangeDone o s
  | .linkTurn o => Sys2Proof.Machine.execLinkTurn o s
  | .linkQry o => Sys2Proof.Machine.execLinkQry o s
  | .linkHold o => Sys2Proof.Machine.execLinkHold o s
  | .statEmit o => Sys2Proof.Machine.execStatEmit o s
  | .statCfg o => Sys2Proof.Machine.execStatCfg o s
  | .statRd o => Sys2Proof.Machine.execStatRd o s
  | .rgnPreempt o => Sys2Proof.Machine.execRgnPreempt o s
  | .rgnResume o => Sys2Proof.Machine.execRgnResume o s
  | .rgnRollback o => Sys2Proof.Machine.execRgnRollback o s
  | .rgnQuiesce o => Sys2Proof.Machine.execRgnQuiesce o s
  | .rgnAsid o => Sys2Proof.Machine.execRgnAsid o s
  | .cpyCpy o => Sys2Proof.Machine.execCpyCpy o s
  | .cpyXf o => Sys2Proof.Machine.execCpyXf o s
  | .cpyFill o => Sys2Proof.Machine.execCpyFill o s
  | .cpyStat o => Sys2Proof.Machine.execCpyStat o s
  | .nmcIssue o => Sys2Proof.Machine.execNmcIssue o s
  | .nmcFence o => Sys2Proof.Machine.execNmcFence o s
  | .nmcStat o => Sys2Proof.Machine.execNmcStat o s
  | .brBr o => Sys2Proof.Machine.execBrBr o s
  | .brCall o => Sys2Proof.Machine.execBrCall o s
  | .jrJr o => Sys2Proof.Machine.execJrJr o s
  | .jrRet o => Sys2Proof.Machine.execJrRet o s
  | .jrHalt o => Sys2Proof.Machine.execJrHalt o s
  | .sysTrap o => Sys2Proof.Machine.execSysTrap o s
  | .sysEret o => Sys2Proof.Machine.execSysEret o s
  | .sysCsrr o => Sys2Proof.Machine.execSysCsrr o s
  | .sysCsrw o => Sys2Proof.Machine.execSysCsrw o s
  | .sysMbx o => Sys2Proof.Machine.execSysMbx o s
  | .sysPgsv o => Sys2Proof.Machine.execSysPgsv o s
  | .sysPgrs o => Sys2Proof.Machine.execSysPgrs o s
  | .sysTlbi o => Sys2Proof.Machine.execSysTlbi o s

end Sys2Proof.Machine
end

