-- ==== Sys2Proof/Machine/Schedule.lean ====
section
/-!
DEFINITION. The order of the device's steps inside one fc, and what passes from one fc to the next (R18, R20, R24, R218, R234,
R273, R330, R335, R417; log 2): `State.due` lists the steps of an fc that has begun, `State.closing` those that end it, and
`State.tick` begins the next one. A step whose condition no longer holds when its turn comes changes nothing.
-/

namespace Sys2Proof.Machine

/-! ## Quiet (R273) -/

/-- A tenant has work that is not waiting for tokens. -/
def State.tenBusy (s : State) (pg ten : Nat) : Bool :=
  match s.ten? pg ten with
  | none => false
  | some t => match t.q.head? with
    | none => false
    | some z => !t.withheld && !s.splitHolds pg ten z.fid &&
        (s.engineReady pg ten || !((t.run.map fun r => r.ct.isNone).getD false))

/-- An ME has an access of its own under way. -/
def Me.busy (m : Me) : Bool :=
  !m.ownq.isEmpty || !m.ownRun.isEmpty ||
  (!m.withheld && m.streams.any fun st => !st.withheld && (!st.todo.isEmpty || st.busy != 0 || st.winAt.isSome || st.hdrAt.isSome))

/-- An outstanding instruction keeps its region from being quiet: its write-back is outstanding, or it waits for something
other than tokens. -/
def Flight.busy (f : Flight) (fc : Nat) : Bool :=
  if f.due.isSome then true
  else if 0x40 ≤ opcOf f.word ∧ opcOf f.word ≤ 0x4E then false
  else if opcOf f.word = 0x60 then decide (fc < f.after)
  else true

/-- A page is not quiet. -/
def State.pageBusy (s : State) (pg : Nat) (p : Page) : Bool :=
  p.routes.any (fun (r : Route) => r.fresh) || p.mes.any (fun (m : Me) => m.busy) ||
  p.saf.graphs.any (fun (g : Graph) => g.pipe != [] && p.outFree false g.outEp) ||
  p.shapes.any (fun (x : Shape) => x.refill.isSome || x.through != []) || s.tenBusy pg 0 || s.tenBusy pg 1

/-- This fc is not quiet in a region (R273). -/
def State.regionBusy (s : State) (r : Region) : Bool :=
  r.stirred || (s.pagesOf r).any (fun x => s.pageBusy x.1 x.2) ||
  s.flights.any (fun f => f.who.isElem && r.keys.contains f.who.page && f.busy s.fc) ||
  s.reqs.any (fun q => match q.port with
    | .me pg _ => r.keys.contains pg
    | .tel _ => false) ||
  s.dies.any (fun d => (d.engs ++ d.nmq.map (·.2)).any fun (e : Eng) => e.q.any fun c => c.who.isElem && r.keys.contains c.who.page) ||
  s.packets.any fun k => r.keys.contains k.pg

/-- The quiet count at the end of an fc: stopped while the region is pre-empted, and not kept while a context withholds. -/
def State.countQuiet (s : State) (r : Region) : Region :=
  match r.st with
  | .armed | .stopping =>
    if s.regionBusy r then { r with quiet := 0, swept := false, stirred := false }
    else { r with quiet := if s.anyWithheld r then 1 else r.quiet + 1, stirred := false }
  | _ => { r with stirred := false }

/-! ## From one fc to the next -/

/-- A page's routes at the start of an fc: every token may move and be seen. -/
def Page.settled (p : Page) : Page := { p with routes := p.routes.map fun (r : Route) => { r with fresh := false } }

/-- The next fc begins: quiet counts, cuts, records owed, walks that waited, the mint's next pages. -/
def State.tick (s : State) : State :=
  let s := { s with regions := s.regions.map fun (x : Nat × Region) => (x.1, s.countQuiet x.2) }
  let s := { s with
    fc := s.fc + 1
    hbmUse := []
    pages := s.pages.map fun (x : Nat × Page) => (x.1, x.2.settled)
    shadows := s.shadows.map fun (x : Nat × Page) => (x.1, x.2.settled) }
  let s := (s.regions.map (·.1)).foldl State.raiseCut s
  let s := (s.tasks.filter (·.owesRec)).foldl (fun s k => s.postRecord k.ptn k.lseq) s
  s.walkOn.mintOn

/-! ## The steps of an fc -/

/-- Numbers 0 to n - 1 for which a step is due. -/
def each (n : Nat) (c : Nat → Bool) (f : Nat → Instr) : List Instr := ((List.range n).filter c).map f

/-- A list in rising order of a number, equal ones as they stand. -/
def sortIn {α : Type} (key : α → Nat) (x : α) : List α → List α
  | [] => [x]
  | y :: l => if key x < key y then x :: y :: l else y :: sortIn key x l

def sortOn {α : Type} (key : α → Nat) (l : List α) : List α := l.foldl (fun acc x => sortIn key x acc) []

/-- Units that end a tile, and what elements do before their arbiters. -/
def State.earlySteps (s : State) (pg : Nat) (p : Page) : List Instr :=
  each 23 (fun u => p.owesCounts u) (.statCountEmit pg) ++
  (List.range p.pes.length).flatMap fun pe => match p.pes[pe]? with
    | none => []
    | some e =>
      (if e.isectOn then [.isectPresent pg pe] else []) ++
      each 4 (fun i => (s.markerAt pg pe i 3).isSome) (.lengthMarkerAtHead pg pe) ++
      each 4 (fun i => (s.markerAt pg pe i 4).isSome) (.poisonMarkerAtHead pg pe)

/-- The arbiters of a page. -/
def State.arbiters (s : State) (pg : Nat) (p : Page) : List Instr :=
  if s.running pg then
    each p.pes.length (fun pe => ((p.pes[pe]?).map fun e => e.present && e.live.slots.any (·.valid)).getD false) (.peArbiterFire pg)
  else []

/-- Streams and graphs that take a token, and tenants. -/
def State.unitSteps (s : State) (pg : Nat) (p : Page) : List Instr :=
  if !s.flowing pg then []
  else
    each 16 (fun si => ((s.stream? pg si).map fun m => m.todo != [] || (p.headAt (epMe (si / 4) (si % 4))).isSome).getD false)
      (.storeStreamToken pg) ++
    (p.saf.graphs.flatMap fun (g : Graph) => if (p.headAt g.inEp).isSome then [.safSlice pg g.handle, .safCtlHandle pg g.handle] else []) ++
    each 2 (fun t => ((s.ten? pg t).map fun x => x.flush).getD false) (.tenantFlush pg) ++
    each 2 (fun t => ((s.ten? pg t).map fun x => x.q != []).getD false) (.tileQueuePerform pg) ++
    each 2 (fun t => s.engineReady pg t) (.mmaEngineStep pg)

/-- Shapes and streams whose reads end. -/
def State.readSteps (s : State) (pg : Nat) (p : Page) : List Instr :=
  each p.shapes.length (fun x => ((p.shapes[x]?).map fun (h : Shape) => h.through != []).getD false) (.shsetWriteThrough pg) ++
  each p.shapes.length (fun x => ((p.shapes[x]?).map fun (h : Shape) => h.refill.isSome).getD false)
    (.shapeWindowRefill pg) ++
  each 16 (fun si => ((s.stream? pg si).map fun m => m.hdrAt.isSome && m.desc.shape != 0).getD false) (.streamHeaderCapture pg) ++
  each 16 (fun si => ((s.stream? pg si).map fun m => m.winAt.isSome).getD false) (.streamWindowRead pg) ++
  each p.mes.length (fun me => ((p.mes[me]?).map fun (m : Me) => m.ownq != [] || m.ownRun != []).getD false) (.ownerUpdateApply pg)

/-- The banks that can serve a request, each once. -/
def State.banksDue (s : State) : List (Nat × Nat) :=
  (s.reqs.filterMap fun r => match r.pa with
    | some k => if vaultKey ≤ k ∧ !r.own ∧ r.due ≤ s.fc then some (keyDie k, keyVault k * 32 + keyBank k) else none
    | none => none).eraseDups

/-- The walks that end (R219). -/
def State.walksDue (s : State) : List Instr :=
  (s.reqs.filter fun r => r.walking && decide (r.due ≤ s.fc)).map fun r => .translationWalk r.rid

/-- What memories, owners, tills, groups and counters do. -/
def State.memorySteps (s : State) : List Instr :=
  (s.banksDue.map fun b => .bankAccess b.1 b.2) ++
  ((s.reqs.filter fun r => (r.pa.map fun k => decide (k < vaultKey)).getD false && !r.own && decide (r.due ≤ s.fc)).map fun r =>
    .hbmAccessComplete r.rid) ++
  s.walksDue ++
  ((sortOn (·.port) (s.upds.filter fun u => decide (u.due ≤ s.fc))).map fun u => .updateTokenArrive u.uid) ++
  (s.livePages.flatMap fun x => s.readSteps x.1 x.2) ++
  ((s.flights.filter fun f => isAtomicOp f.word && decide (f.plan.length ≤ f.stage) && f.left == 0 && decide (f.after ≤ s.fc)).map fun f =>
    .atomicResultReturn f.fid) ++
  ((List.range 8).flatMap fun d => (s.die d).groups.flatMap fun (g : Nat × Grp) => if g.2.q = [] then [] else [.grpEntryApply d g.1]) ++
  ((s.regions.filter fun (x : Nat × Region) => x.2.tcq != []).map fun x => .tcntApply x.1) ++
  ((s.msgs.filter fun m => decide (m.due ≤ s.fc)).map fun m => .tillAppend m.mid) ++
  each 8 (fun d => (s.die d).assay != []) .assayOperation

/-- Engines and links. -/
def State.engineSteps (s : State) : List Instr :=
  ((List.range 8).flatMap fun d =>
    let ready (e : Eng) : Bool := e.q != [] && e.held.isNone && decide (e.after ≤ s.fc)
    each 3 (fun q => (s.eng d q 0).held.isSome) (.engineCompletionPost d) ++
    ((s.die d).nmq.flatMap fun (x : Nat × Eng) => if x.2.held.isSome then [.engineCompletionPost d (3 + x.1)] else []) ++
    each 3 (fun q => ready (s.eng d q 0)) (.copyCommandExecute d) ++
    ((s.die d).nmq.flatMap fun (x : Nat × Eng) => if ready x.2 then [.nmcCommandExecute d x.1] else [])) ++
  (List.range 12).flatMap fun l =>
    let x := s.link l
    (if x.hold.isSome then [.linkHoldExpire l] else []) ++
    each 16 (fun g => ((x.groups[g]?).map fun q => q.turning && decide (q.ends ≤ s.fc)).getD false) (.groupTurnComplete l) ++
    each 16 (fun g => (x.cur.map fun c => c.2.2.contains g).getD false) (.groupEligible l) ++
    (if x.cur.isNone ∧ x.fifo ≠ [] then [.linkFifoApply l] else [])

/-- A region's tile-tasks, snapshots, drain and end. A sequence swaps in the fc after its step has drained and its shadow is
full, as they stand when the fc begins (R335). -/
def State.regionSteps (s : State) (rg : Nat) (r : Region) : List Instr :=
  if r.st = .done then [] else
  (if !r.persist ∧ r.next < r.hi then [.tileTaskIssue rg] else []) ++
  (if r.armAddr ≠ 0 ∧ !r.armEnd ∧ r.st = .armed then [.armRecordWalk rg] else []) ++
  (if (s.nextSteal r).isSome then [.stealRequestServe rg] else []) ++
  (r.tts.map fun (t : TileTask) => .tileTaskSeal rg t.ix) ++
  (r.rerun.map fun ix => .rerunIssue rg ix) ++
  (if s.wantsCut r then [.cutSnapInject rg] else []) ++
  ((s.pagesOf r).flatMap fun x => each 4 (fun me => ((x.2.mes[me]?).map Me.logLow).getD false) (.undoLogLow x.1)) ++
  ((s.pagesOf r).flatMap fun x =>
    if (x.2.stat.map fun (y : Stat) => y.tiles.any (x.2.recordDue y)).getD false then [.statRecordWrite x.1] else []) ++
  (if r.st = .armed ∧ !r.drain then [.drainStart rg] else []) ++
  (if r.drain ∧ r.st ≠ .frozen then (s.pagesOf r).flatMap fun x =>
      each 4 (fun me => ((x.2.mes[me]?).map fun (m : Me) => m.present && !m.drained).getD false) (.meDrainPass x.1) ++
      (if x.2.drained then [] else [.pageDrained x.1])
    else []) ++
  (if r.quiet < 256 ∨ r.swept then [] else [.quietCountExpire rg]) ++
  (if r.st = .stopping then [.preemptFreeze rg, .preemptWatchdogExpire rg] else []) ++
  [.regionComplete rg] ++ (if s.swapDue r then [.sequenceSwap rg] else []) ++
  (if r.st = .loading ∧ r.imgs.length ≤ r.loaded then [.regionArm rg] else [])

/-- Tile-tasks that may write through or commit, in key order. -/
def State.commitSteps (s : State) : List Instr :=
  let ts := s.regions.flatMap fun (x : Nat × Region) =>
    (x.2.tts.filter fun (t : TileTask) => t.st == .sealed || t.st == .stalled).map fun t => (x.1, t.ix, t.st == .stalled, x.2.key2 t.ix)
  (sortOn (fun t => t.2.2.2.1) (sortOn (fun t => t.2.2.2.2) ts)).map fun t =>
    if t.2.2.1 then .writeThroughStart t.1 t.2.1 else .commitTileTask t.1 t.2.1

/-- The scheduler and the mint of each die. -/
def State.dieSteps (s : State) : List Instr :=
  (List.range 8).flatMap fun d =>
    each 16 (fun q => (((s.die d).lq.getD q []).head?.map fun e => decide (e.aged < (s.fc - e.since) / 940000)).getD false) (.priorityAging d) ++
    (if (s.die d).lq.any fun l => l != [] then [.schedulerCycle d] else []) ++
    (match (s.die d).mint with
     | some (rg, i, sh, t) => if s.fc < t then [] else if sh then [.shadowFillComplete rg] else [.mintLoad rg i]
     | none => [])

/-- SNAP and DRAIN at elements, tenants and graphs. -/
def State.markerSteps (s : State) (pg : Nat) (p : Page) : List Instr :=
  if !s.running pg then []
  else
    let head (ep tag : Nat) : Bool := ((p.headAt ep).map (·.tag)) == some tag
    ((List.range p.pes.length).flatMap fun pe => match p.pes[pe]? with
      | none => []
      | some e =>
        let at_ (tag : Nat) : Bool := (List.range 4).any fun i => head (epPe pe i) tag
        (if e.owed ≠ [] ∨ e.snapDue ∨ at_ tagSnap then [.snapPass pg pe] else []) ++
        (if e.drainDue ∨ at_ tagDrain then [.drainForward pg pe] else []) ++
        (if e.drained then each 4 (fun i => head (epPe pe i) tagDrain) (.drainAbsorb pg pe) else [])) ++
    each 2 (fun t => ((s.ten? pg t).map fun x => x.drv.isSome).getD false) (fun t => .snapPass pg (20 + t)) ++
    each 2 (fun t => head (epMtx t) tagDrain) (fun t => .drainForward pg (20 + t)) ++
    p.saf.graphs.flatMap fun (g : Graph) =>
      (if head g.inEp tagSnap then [.snapPass pg (32 + g.handle)] else []) ++
      (if head g.inEp tagDrain then [.drainForward pg (32 + g.handle)] else [])

/-- A route holds something that may move. -/
def Route.live (r : Route) : Bool := r.taken || r.replay != [] || r.latches.any Option.isSome

/-- Routers, routes and the units that place tokens behind them. -/
def State.flowSteps (s : State) (pg : Nat) (p : Page) : List Instr :=
  if !s.flowing pg then []
  else
    each p.routes.length (fun i => ((p.routes[i]?).map fun r => r.viaRouter && r.dst == 0xFFFF && r.live).getD false)
      (.routerPacketEgress pg) ++
    each p.routes.length (fun _ => true) (.tokenAdvance pg) ++
    each 16 (fun si => ((s.stream? pg si).map fun m => (m.valid && !m.desc.isStore) || (m.drainDue && !m.drained) || m.snapDue).getD false)
      (.streamRowIssue pg) ++
    p.saf.graphs.map fun (g : Graph) => .safOutput pg g.handle

/-- What arrives from outside in this fc (log 2). -/
def State.arriving (s : State) : List Instr := (s.inputs.filter fun x => decide (x.1 ≤ s.fc)).map (·.2)

/-- The steps of an fc that has begun, but for those that end it. -/
def State.due (s : State) : List Instr :=
  s.arriving ++
  ((s.ptns.filter fun (x : Nat × Ptn) => x.2.held == 1).map fun x => .hypervisorVfPreempt x.1) ++
  (if s.bring.package ∧ s.bring.early then [.packageReady] else []) ++
  ((s.flights.filter fun f => f.late.isSome).map fun f => .lateTrap f.fid) ++
  (s.livePages.flatMap fun x => s.earlySteps x.1 x.2) ++
  s.dieSteps ++
  (s.livePages.flatMap fun x => s.arbiters x.1 x.2) ++
  each 18 (fun t => ((s.tellers[t]?).map fun l => l.ctxs.any (·.run)).getD false) .tellerIssue ++
  (s.livePages.flatMap fun x => s.markerSteps x.1 x.2) ++
  (s.livePages.flatMap fun x => s.unitSteps x.1 x.2) ++
  s.memorySteps ++
  ((s.flights.filter fun f => s.canGoOn f).map fun f => .instructionPerformed f.fid) ++
  s.engineSteps ++
  (s.regions.flatMap fun x => s.regionSteps x.1 x.2) ++
  s.commitSteps ++
  (s.livePages.flatMap fun x => s.flowSteps x.1 x.2) ++
  (s.packets.filter fun k => decide (k.due ≤ s.fc)).map fun k => .routerPacketIngress k.pk

/-- A pulse that would set its predicate now (R23). -/
def State.pulseDue (s : State) (pg pe port : Nat) (p : Page) (e : Pe) : Bool :=
  s.running pg && (p.pulseAt pe port).isSome && (match (e.pbind[port]?).join with
    | some (cx, n) => ((e.live.ctxs[cx]?).map fun c => c.p.getD n .pend) == some .ff
    | none => false)

/-- The steps that end an fc: write-backs, then pulses (R20, R23). -/
def State.closing (s : State) : List Instr :=
  match (s.flights.filter fun f => (f.due.map fun d => decide (d ≤ s.fc)).getD false && s.mayPublish f).map fun f => Instr.writeBack f.fid with
  | [] => s.pages.flatMap fun (x : Nat × Page) => (List.range x.2.pes.length).flatMap fun pe => match x.2.pes[pe]? with
    | none => []
    | some e => each e.pbind.length (fun i => s.pulseDue x.1 pe i x.2 e) (.pulseApply x.1 pe)
  | l => l

/-- The next fc with its steps. -/
def State.begin_ (s : State) : State :=
  let s := s.tick
  { s with agenda := s.due, inputs := s.inputs.filter fun x => decide (s.fc < x.1) }

end Sys2Proof.Machine
end

