-- ==== Sys2Proof/Machine/Step.lean ====
section
/-!
DEFINITION. One step of the device (log 2, 3): the next step of the fc at hand, with the word that an arbiter or a teller has
chosen in it; and the placement of one instruction where the next step fetches it.
-/

namespace Sys2Proof.Machine

/-- The word that has been chosen is decoded and acts; a word that decodes to nothing is a defect (R42, R43). -/
noncomputable def runIssue (s : State) : Host.Outcome State Fault Refusal :=
  match s.issue with
  | none => .next s
  | some (w, x) => match decode x with
    | .ok i => exec i s
    | .error _ => .next (State.raise { s with issue := none } w x (defectFault (defect (if w.isElem then .elem else .teller) x)))

/-- One step: the next of this fc, then those that end it, then the next fc. -/
noncomputable def step (s : State) : Host.Outcome State Fault Refusal :=
  match s.agenda with
  | i :: l => match exec i { s with agenda := l } with
    | .next t => runIssue t
    | .fault r => .fault r
    | .refused r => .refused r
  | [] => match s.closing with
    | [] => .next s.begin_
    | l => .next { s with agenda := l }

/-! ## Placing an instruction -/

/-- A teller context that runs from address 0, with the word in its fetch buffer. -/
def TCtx.holding (c : TCtx) (x : Word) : TCtx :=
  { c with run := true, pc := 0, after := 0, wait := none, fetch := [], bad := [], line := 0
           buf := [(0, bytesOfWord x ++ List.replicate 56 0)] }

/-- An armed region of one page, of a free task. -/
def Region.placed : Region :=
  { Region.make 0 0 0 0 0 0 ⟨0, 0, [], [], [], []⟩ (trecOf []) 0 with st := .armed, pages := [some 0], ts := tsFree, ordered := false }

/-- A page with one element that drives the matrix array and holds the word in its slot 0. -/
def Page.holding (x : Word) : Page where
  kind := 0
  pidx := 0
  rg := 0
  ptn := 0
  asid := 0
  det := false
  rollback := false
  img := []
  pes := [{ Pe.absent with present := true, live := { Pe.absent.live with slots := [Slot.fresh x true] } }]
  mes := List.replicate 4 Me.absent
  mtx := ⟨16, List.replicate 2048 0, List.replicate 256 0, [Tenant.fresh (some (0, 0)) false, Tenant.fresh none false]⟩
  shapes := List.replicate 8 Shape.empty
  saf := ⟨[], [], 0⟩
  routes := []
  snapEvery := 0
  snapMask := 0
  stat := none
  drained := false

/-- The instruction whose bits are `w` stored where the next step fetches: in the fetch buffer of context 0 of teller 0, whose
turn it then is; a word that only elements execute in a slot of an armed page, whose arbiter then has its turn (log 1). -/
def State.withFetchWord (s : State) (nbits w : Nat) : State :=
  let x : Word := BitVec.ofNat 64 (w % 2 ^ nbits)
  if defect .teller x ≠ 0 ∧ defect .elem x = 0 then
    { s with issue := none, agenda := [.peArbiterFire 0 0], regions := alSet 0 Region.placed s.regions
             pages := alSet 0 (Page.holding x) s.pages }
  else
    { s with issue := none, agenda := [.tellerIssue 0]
             tellers := s.tellers.modify 0 fun t => { t with arb := 3, ctxs := t.ctxs.modify 0 fun c => c.holding x } }

end Sys2Proof.Machine
end

