-- ==== Sys2Proof/WellFormed.lean ====
section
/-!
DEFINITION. When an instruction is well formed on an agent: its word has no defect of R42 there. A unit's step has no
word and is well formed; `LIS` in a variant of R108 that does not exist has no word and is not.
-/

namespace Sys2Proof

/-- An instruction is well formed on an agent when its word has none of the defects of R42. -/
def Instr.wellFormed (ag : AgentKind) (i : Instr) : Bool :=
  match encode i with
  | some w => defect ag w == 0
  | none => match i with
    | .lis _ _ => false
    | _ => true

end Sys2Proof
end

