-- ==== Sys2Proof/Safety.lean ====
section
/-!
DEFINITION. What counts as a safe run, in the terms the statements use: the invariant, when a word fires, and what a firing
and a write-back come to.
-/

namespace Sys2Proof.Machine

/-- The invariant: memory is in its one canonical form. -/
def State.inv (s : State) : Prop := Memory.wf s.mem = true

/-- The state once the chosen word has been taken up. -/
def State.taken (s : State) : State := { s with issue := none }

/-- The word `x` of instruction `i` has been chosen for agent `w`, and neither the format check of R95 nor R416 stops it:
from here the instruction acts. `g` is the word's guard. -/
def Fires (s : State) (i : Instr) (g : Guard) (w : Who) (x : Word) : Prop :=
  s.issue = some (w, x) ∧ encode i = some x ∧ s.taken.guardFault w g x = none

/-- The state in which the word has fired with known results (R20). -/
def State.fired (s : State) (w : Who) (x : Word) (g : Guard) (d : Done) : State := s.taken.launchDone w x g d

/-- The word a unit performs later (R242): `f` is the flight it leaves outstanding. -/
def State.handed (s : State) (w : Who) (g : Guard) (f : Flight) : State :=
  State.launch { s.taken with free := s.free + 1 } w (deqsOf g) f none 1

/-- The flight of a word that a unit performs, its operands captured and its predicate held (R20, R37). -/
def State.jobOf (s : State) (w : Who) (x : Word) : Flight :=
  { s.taken.newFlight w x with holds := (pdOf x).toList.map .p }

/-- What a scalar source holds, read at the word's TY (R97). -/
def State.valAt (s : State) (w : Who) (ty : BitVec 4) (c : BitVec 5) : Int := readTy ty.toNat (s.taken.readS w c.toNat).toNat

/-- The low w bits of a scalar source, w the width of TY (R97). -/
def State.patAt (s : State) (w : Who) (ty : BitVec 4) (c : BitVec 5) : Nat :=
  (s.taken.readS w c.toNat).toNat % 2 ^ tyWidth ty.toNat

/-- A scalar word has fired with result `r` for D, at its TY: outcome "nonzero", the flag and the events given (R36, R98). -/
def State.scalarFired (s : State) (w : Who) (x : Word) (o : FormR) (r : Int) (flag : Bool) (ev : List Nat) : State :=
  s.fired w x o.g
    { wr := writeS o.d.toNat (s.taken.tagOf w o.a.toNat o.b.toNat) (extTy o.ty.toNat r)
      outcome := pattern r (tyWidth o.ty.toNat) != 0, flag := flag, ev := ev }

/-- A Form I scalar word has fired with 64-bit result `r` for D. -/
def State.immFired (s : State) (w : Who) (x : Word) (o : FormI) (r : Word) : State :=
  s.fired w x o.g { wr := writeS o.d.toNat (s.taken.tagOf w o.a.toNat 26) r }

/-- A compare has fired: D gets the condition, which is also the outcome (R114, R115). -/
def State.condFired (s : State) (w : Who) (x : Word) (o : FormR) (c flag : Bool) (ev : List Nat) : State :=
  s.fired w x o.g { wr := writeS o.d.toNat (s.taken.tagOf w o.a.toNat o.b.toNat) (if c then 1 else 0)
                    outcome := c, flag := flag, ev := ev }

/-- A word has fired whose one result is the predicate `n` (R116). -/
def State.predFired (s : State) (w : Who) (x : Word) (g : Guard) (n : BitVec 5) (v : Bool) : State :=
  s.fired w x g { wr := writeP n.toNat v }

/-- A word has fired, at W, that writes a vector of `lw`-bit lanes to D: lane j holds `r j` below `n`, and zero above (R136,
R138). The tag is that of the source codes `a` and `b` (R14). -/
def State.LanesFired (s : State) (w : Who) (x : Word) (o : FormR) (W lw n a b : Nat) (r : Nat → LaneRes) (t : State) : Prop :=
  ∃ v : Vec, (∀ j, j < 512 / lw → lane lw v j = if j < n then (r j).pat % 2 ^ lw else 0) ∧
    t = s.fired w x o.g { w := W, wr := writeV o.d.toNat (s.taken.tagOf w a b) v, outcome := true
                          flag := (tab n fun j => (r j).flag).any id, ev := sumEvents (tab n fun j => (r j).ev) }

/-- Lane j of a vector source at TY (R136, R137). -/
def State.laneAt (s : State) (w : Who) (ty : BitVec 4) (c : BitVec 5) (j : Nat) : Nat :=
  lane (tyWidth ty.toNat) (s.taken.readV w c.toNat) j

/-- A scalar result of W has fired, a `w`-bit pattern at the type `rt` (R36, R98). -/
def State.patFired (s : State) (w : Who) (x : Word) (o : FormR) (W rt b pat : Nat) (flag : Bool) (ev : List Nat) : State :=
  s.fired w x o.g
    { w := W, wr := writeS o.d.toNat (s.taken.tagOf w o.a.toNat b) (extTy rt (readTy rt pat))
      outcome := pat % 2 ^ (if tyFloat rt then tyWidth rt - 1 else tyWidth rt) != 0, flag := flag, ev := ev }

/-- The word of instruction `i` is outstanding as flight `f`, and `f` may go on: its time has come, no fault of it waits, and
its page is not frozen (R243, R400). -/
def State.Performing (s : State) (i : Instr) (f : Flight) : Prop :=
  s.flight? f.fid = some f ∧ s.canGoOn f = true ∧ encode i = some f.word

/-- Flight `f` is at the head of tenant `ten`'s queue on page `pg`, and it is performed now (R187). -/
def State.AtHead (s : State) (pg ten : Nat) (p : Page) (t : Tenant) (f : Flight) : Prop :=
  s.page? pg = some p ∧ s.ten? pg ten = some t ∧ p.tenRows ten ≠ 0 ∧ t.withheld = false ∧
  ∃ z, t.q.head? = some z ∧ s.flight? z.fid = some f ∧ z.after ≤ s.fc ∧ s.splitHolds pg ten f.fid = false

end Sys2Proof.Machine
end

