-- ==== Sys2Proof/Certificates/Slice0/Obligations.lean ====
section
/-!
DEFINITION. What the provers are to prove of the model, from the rules of the spec: one statement of a `Prop` each. Where a
clause rests on a choice of the model, its docstring names the log entry.
-/

open Sys2Proof Sys2Proof.Machine

/-! ## Words and their encodings -/

/-- R135, R166, R207, R261, R310, R363, R391: the words the chapters write out. Each is the word of the instruction it stands
for, and decodes to it. Fields not listed are zero. -/
def Obligations.WordsOfTheSpec : Prop :=
  let g0 : Guard := ⟨0, 0, 0, 0, 0, 0, 0, 0⟩
  let r (d a b : BitVec 5) (pd : BitVec 3) (pu : BitVec 2) (ty : BitVec 4) (g : Guard) : FormR := ⟨g, d, a, b, pd, pu, ty⟩
  let table : List (Instr × Word) :=
    [ (.addSs (r 2 2 13 1 3 1 { g0 with cr := 2 }), 0x0000080009109A71)
    , (.lis 4 ⟨⟨2, 1, 1, 0, 0, 0, 0, 0⟩, 5, 0, 0x3F⟩, 0x804040007428003F)
    , (.mrgArr (r 18 12 13 0 0 0 { g0 with cr := 3 }), 0x00000C00E0931A00)
    , (.psetSig (r 19 0 0 0 0 0 { g0 with pm := 0x40 }), 0x100000009C980000)
    , (.cmpiLtn ⟨g0, 3, 1, 0xC⟩, 0x000000008C18400C)
    , (.brCall ⟨g0, 20, 0, 0x3FFB⟩, 0x00000003E9A03FFB)
    , (.vfmaFma (r 10 8 9 0 0 10 g0), 0x000000011852120A)
    , (.vaccSum (r 17 12 2 0 0 10 { g0 with cr := 1 }), 0x00000401688B040A)
    , (.vhead (r 11 3 0 3 1 10 { g0 with pm := 0x3A, pv := 0x20 }), 0x0E880001F058C0DA)
    , (.shbind (r 0 20 0 4 1 0 { g0 with pm := 0x30 }), 0x0C00000280050110)
    , (.zfillTril (r 0 0 0 5 1 8 { g0 with pm := 0x30, pv := 0x10 }), 0x0C04000223000158)
    , (.zwld (r 0 0 0 4 2 8 { g0 with pm := 0x30, pv := 0x30 }), 0x0C0C000228000128)
    , (.zrd (r 16 1 0 0 2 10 { g0 with pm := 1, pv := 1 }), 0x004040020880402A)
    , (.atas (r 3 20 12 1 1 14 { g0 with pm := 2, cr := 1, pk := 1, te := 1 }), 0x00800703581D185E)
    , (.tcntSub (r 1 26 6 2 3 3 { g0 with pm := 0x1E, pv := 0x0C }), 0x07830003990E8CB3)
    , (.stPl (r 1 4 26 2 1 6 { g0 with pm := 7, pv := 3 }), 0x01C0C002C8093496)
    , (.smIns (r 1 23 12 2 2 8 { g0 with pm := 0x0E, pv := 0x0C, cr := 1, te := 1 }), 0x03830503A00DD8A8)
    , (.smaccLeaf (r 3 0 9 2 2 0 { g0 with pm := 0x1C, pv := 0x1C, cr := 2, te := 1, tch := 1, ttg := 3 }), 0x0707095BB91812A0)
    , (.smSpl (r 4 0 6 0 0 0 g0), 0x00000003A3200C00)
    , (.taskLnch (r 26 1 0 0 0 0 g0), 0x00000003C8D04000)
    , (.taskCncl (r 4 2 0 0 0 0 g0), 0x00000003CA208000)
    , (.agLoad (r 3 1 22 0 0 0 g0), 0x00000003C0186C00)
    , (.rangeGet (r 2 0 0 1 3 0 { g0 with pm := 2 }), 0x00800003D0100070)
    , (.sysEret (r 0 0 0 0 0 0 g0), 0x00000003F9000000)
    , (.sysCsrw (r 0 1 2 0 0 0 g0), 0x00000003FB004400)
    , (.linkTurn (r 1 2 3 0 0 0 g0), 0x0000000368088600)
    , (.rgnRollback (r 4 5 0 0 0 0 g0), 0x000000037A214000) ]
  ∀ e ∈ table, encode e.1 = some e.2 ∧ decode e.2 = .ok e.1

/-- Every word of an instruction decodes to that instruction, whatever its operands: no bit of an encoding is dropped
(R28-R30, R38). -/
def Obligations.WordsDecodeBack : Prop := ∀ (i : Instr) (x : Word), encode i = some x → decode x = .ok i

/-- R28-R30, R38, R42: a word stands for one instruction. A word that decodes is the word of its instruction; a word without
a defect on an agent decodes, and to an instruction that is well formed there; a word decodes to nothing only for defects 1,
2 and 4 of R42. -/
def Obligations.WordsEncodeBack : Prop := ∀ (x : Word) (ag : AgentKind),
  (∀ i, decode x = .ok i → encode i = some x) ∧
  (defect ag x = 0 → ∃ i, decode x = .ok i ∧ i.wellFormed ag = true) ∧
  (∀ e, decode x = .error e → defect ag x = 1 ∨ defect ag x = 2 ∨ (x.getLsbD 34 = true ∧ defect ag x ≠ 0))

/-! ## The machine as a whole -/

/-- R1, R18, R24, R42, R43: one step. The next step of this fc acts as its event says; the word it leaves chosen, if it
leaves one, is decoded and acts as its instruction says, and a word that decodes to nothing is taken as an illegal word. When
no step of this fc is left, those that end it follow, and then the next fc begins. The order of the steps is the model's
choice (log 2). -/
def Obligations.StepRunsWord : Prop := ∀ (s : State),
  (∀ e l, s.agenda = e :: l →
    (∀ t, exec e { s with agenda := l } = .next t →
      (t.issue = none → step s = .next t) ∧
      (∀ w x, t.issue = some (w, x) →
        (∀ i, decode x = .ok i → step s = exec i t) ∧
        (∀ r, decode x = .error r → ∃ q : FaultInfo, step s = .next (t.taken.raise w x q) ∧
          q.cls = clsIllegal ∧ q.code = defect (if w.isElem then .elem else .teller) x))) ∧
    (∀ r, exec e { s with agenda := l } = .fault r → step s = .fault r)) ∧
  (s.agenda = [] →
    (s.closing ≠ [] → step s = .next { s with agenda := s.closing }) ∧
    (s.closing = [] → step s = .next s.begin_ ∧ s.begin_.fc = s.fc + 1))

/-- R376, R390, R9, R416 and log 5-8: reset. FCOUNT is 0; each of the 12 links has u = 8, its groups 0 to 7 upward; no page
is loaded and no partition exists; a context of a freshly loaded page holds zeros and false predicates. The rest is the
model's choice: bytes nothing has written read zero, and teller contexts halt with zeros. -/
def Obligations.ResetState : Prop :=
  let s := State.reset
  s.inv ∧ s.fc = 0 ∧ s.issue = none ∧ s.flights = [] ∧
  s.links.length = 12 ∧
  (∀ l ∈ s.links, l.u = 8 ∧ l.groups.length = 16 ∧ ∀ i, i < 16 → (l.groups.getD i ⟨true, false, none, 0⟩).up = decide (i < 8)) ∧
  s.dies.length = 9 ∧ s.tellers.length = 18 ∧ s.pages = [] ∧ s.regions = [] ∧ s.ptns = [] ∧ s.bring.ready = List.replicate 8 false ∧
  (∀ k, memGet k s.mem = 0) ∧
  (∀ t cx, t < 18 → cx < 4 → ∃ c, s.tctx? t cx = some c ∧ c.run = false ∧ c.pc = 0 ∧ c.tvec = 0 ∧ c.tstat = 0 ∧
    c.a = List.replicate 14 0 ∧ c.v = List.replicate 4 0 ∧ c.p = List.replicate 8 .ff) ∧
  (Ctx.fresh.a = List.replicate 8 0 ∧ Ctx.fresh.v = List.replicate 4 0 ∧ Ctx.fresh.p = List.replicate 8 .ff ∧
    Ctx.fresh.withheld = false)

/-- Memory keeps its canonical form: keys rise, and no listed byte is zero (log 5). The reset state has it (ResetState). -/
def Obligations.StepKeepsMemoryCanonical : Prop := ∀ s t : State, s.inv → step s = .next t → t.inv

/-- R45, R241 and log 5: the bytes of a store. Reading them back gives what was written, little-endian and lowest address
first; every other byte reads as before; a masked store writes only the bytes its mask selects; nothing but memory, its
poison and the codes of HBM blocks (R229) changes; and memories that read alike are equal. -/
def Obligations.MemoryReadsBack : Prop := ∀ (s : State) (k : Nat) (bs : List Byte) (mask : List Bool), s.inv →
  (let t := s.store k bs
   t.inv ∧ memRead t.mem k bs.length = bs ∧
   (∀ a, a < k ∨ k + bs.length ≤ a → memGet a t.mem = memGet a s.mem) ∧
   { t with mem := s.mem, poison := s.poison, codes := s.codes } = s ∧ (vaultKey ≤ k → t.codes = s.codes) ∧
   (∀ b, b ∈ t.poison ↔ b ∈ s.poison ∧ ¬ (k ≤ 64 * b ∧ 64 * b + 64 ≤ k + bs.length))) ∧
  (let t := s.storeMasked k mask bs
   t.inv ∧ ∀ a, memGet a t.mem =
     if k ≤ a ∧ a < k + bs.length ∧ mask.getD (a - k) false = true then bs.getD (a - k) 0 else memGet a s.mem) ∧
  (∀ t : State, t.inv → (∀ a, memGet a t.mem = memGet a s.mem) → t.mem = s.mem)

/-- R20, R37 and the frame of every word that fires with known results: until it writes back, no register of any context, no
tile register, no shape and no byte of memory has changed; the predicates it will write, and no others, are pending. A
teller's pc moves on to the next word, or where the word sends it (R131). -/
def Obligations.FiringFrame : Prop := ∀ (s : State) (i : Instr) (g : Guard) (w : Who) (x : Word) (d : Done), Fires s i g w x →
  let t := s.fired w x g d
  let pend (n : Nat) : Prop := n ∈ (d.wr.p ++ puWrites x d.outcome d.flag).map (·.1)
  t.mem = s.mem ∧ t.poison = s.poison ∧ t.issue = none ∧ t.tasks = s.tasks ∧ t.links = s.links ∧ t.reqs = s.reqs ∧
  (∃ f : Flight, t.flights = s.flights ++ [f] ∧ f.who = w ∧ f.word = x ∧ f.due = some (s.fc + d.w - 1) ∧
    f.wr = { d.wr with p := d.wr.p ++ puWrites x d.outcome d.flag }) ∧
  (∀ pg, ((t.page? pg).map fun p => (p.mtx, p.shapes)) = (s.page? pg).map fun p => (p.mtx, p.shapes)) ∧
  (∀ pg pe, ((t.pe? pg pe).map fun e => (e.k, e.ports)) = (s.pe? pg pe).map fun e => (e.k, e.ports)) ∧
  (∀ pg pe cx, ((t.ctx? pg pe cx).map fun c => (c.a, c.v, c.withheld, c.groups)) =
    (s.ctx? pg pe cx).map fun c => (c.a, c.v, c.withheld, c.groups)) ∧
  (∀ pg pe cx c c', s.ctx? pg pe cx = some c → t.ctx? pg pe cx = some c' → ∀ n,
    ((∃ sl, w = .elem pg pe cx sl) → pend n → n < c.p.length → c'.p[n]? = some .pend) ∧
    (((∀ sl, w ≠ .elem pg pe cx sl) ∨ ¬ pend n) → c'.p[n]? = c.p[n]?)) ∧
  (∀ te cx, ((t.tctx? te cx).map fun c => (c.a, c.v, c.run, c.tvec, c.epc, c.cause, c.tval, c.fpc, c.tstat, c.asid, c.ptn)) =
    (s.tctx? te cx).map fun c => (c.a, c.v, c.run, c.tvec, c.epc, c.cause, c.tval, c.fpc, c.tstat, c.asid, c.ptn)) ∧
  (∀ te cx c c', s.tctx? te cx = some c → t.tctx? te cx = some c' →
    ((∃ pc, w = .tel te cx pc) → c'.pc = d.pc.getD (c.pc + 8) ∧
      ∀ n, (pend n → n < c.p.length → c'.p[n]? = some .pend) ∧ (¬ pend n → c'.p[n]? = c.p[n]?)) ∧
    ((∀ pc, w ≠ .tel te cx pc) → c'.pc = c.pc ∧ c'.p = c.p))

/-- R20, R37, R242 and the frame of every word that a unit performs later: when it fires, no register of any context, no tile
register, no shape and no byte of memory has changed; the predicate it will write, and no other, is pending; it is
outstanding. -/
def Obligations.HandingFrame : Prop := ∀ (s : State) (i : Instr) (g : Guard) (w : Who) (x : Word) (f : Flight), Fires s i g w x →
  let t := s.handed w g f
  let pend (n : Nat) : Prop := Res.p n ∈ f.holds
  t.mem = s.mem ∧ t.poison = s.poison ∧ t.issue = none ∧ t.tasks = s.tasks ∧ t.links = s.links ∧ t.reqs = s.reqs ∧
  t.flights = s.flights ++ [f] ∧
  (∀ pg, ((t.page? pg).map fun p => (p.mtx, p.shapes, p.saf)) = (s.page? pg).map fun p => (p.mtx, p.shapes, p.saf)) ∧
  (∀ pg pe, ((t.pe? pg pe).map fun e => (e.k, e.ports, e.live.slots)) = (s.pe? pg pe).map fun e => (e.k, e.ports, e.live.slots)) ∧
  (∀ pg pe cx c, s.ctx? pg pe cx = some c → ∃ c', t.ctx? pg pe cx = some c' ∧
    c'.a = c.a ∧ c'.v = c.v ∧ c'.withheld = c.withheld ∧ c'.groups = c.groups ∧ ∀ n,
    ((∃ sl, w = .elem pg pe cx sl) → pend n → n < c.p.length → c'.p[n]? = some .pend) ∧
    (((∀ sl, w ≠ .elem pg pe cx sl) ∨ ¬ pend n) → c'.p[n]? = c.p[n]?)) ∧
  (∀ te cx c, s.tctx? te cx = some c → ∃ c', t.tctx? te cx = some c' ∧
    c'.a = c.a ∧ c'.v = c.v ∧ c'.tvec = c.tvec ∧ c'.epc = c.epc ∧ c'.cause = c.cause ∧ c'.tval = c.tval ∧ c'.tstat = c.tstat ∧
    c'.asid = c.asid ∧
    ((∃ pc, w = .tel te cx pc) → c'.pc = c.pc + 8 ∧
      ∀ n, (pend n → n < c.p.length → c'.p[n]? = some .pend) ∧ (¬ pend n → c'.p[n]? = c.p[n]?)) ∧
    ((∀ pc, w ≠ .tel te cx pc) → c'.pc = c.pc ∧ c'.p = c.p))

/-- R20, R25: what a word's write-back changes. The flight ends. The registers and predicates that its writes name hold the
values written; every other register of its context, every other context, every tile register and all of memory are as
before. -/
def Obligations.WriteBackFrame : Prop := ∀ (s : State) (f : Flight) (wr : Writes),
  let t := s.settle f wr
  let writes {α : Type} (l l' : List α) (ws : List (Nat × α)) : Prop :=
    l'.length = l.length ∧ ∀ n, ((∀ v, (n, v) ∉ ws) → l'[n]? = l[n]?) ∧ (∀ v, ws = [(n, v)] → n < l.length → l'[n]? = some v)
  let tri (ws : List (Nat × Bool)) : List (Nat × Tri) := ws.map fun p => (p.1, if p.2 then .tt else .ff)
  t.flight? f.fid = none ∧ (∀ i, i ≠ f.fid → t.flight? i = s.flight? i) ∧
  t.mem = s.mem ∧ t.poison = s.poison ∧ t.tasks = s.tasks ∧ t.regions = s.regions ∧ t.dies = s.dies ∧ t.links = s.links ∧
  (∀ pg, ((t.page? pg).map fun p => (p.mtx, p.shapes, p.saf)) = (s.page? pg).map fun p => (p.mtx, p.shapes, p.saf)) ∧
  (∀ pg pe, ((t.pe? pg pe).map fun e => (e.k, e.ports, e.live.slots)) = (s.pe? pg pe).map fun e => (e.k, e.ports, e.live.slots)) ∧
  (∀ pg pe cx c, s.ctx? pg pe cx = some c →
    ((∀ sl, f.who ≠ .elem pg pe cx sl) → t.ctx? pg pe cx = some c) ∧
    (∀ sl, f.who = .elem pg pe cx sl → ∃ c', t.ctx? pg pe cx = some c' ∧ c'.withheld = c.withheld ∧ c'.groups = c.groups ∧
      writes c.a c'.a wr.a ∧ writes c.v c'.v wr.v ∧ writes c.p c'.p (tri wr.p))) ∧
  (∀ te cx c, s.tctx? te cx = some c →
    ((∀ pc, f.who ≠ .tel te cx pc) → t.tctx? te cx = some c) ∧
    (∀ pc, f.who = .tel te cx pc → ∃ c', t.tctx? te cx = some c' ∧ c'.pc = c.pc ∧ c'.tstat = c.tstat ∧ c'.run = c.run ∧
      writes c.a c'.a wr.a ∧ writes c.v c'.v wr.v ∧ writes c.p c'.p (tri wr.p)))

/-- R95, R416, R37, R392, R393: a word whose guard names a header of another format, or an f64 element word in early service,
faults instead of firing, whatever the instruction (a shape word also forgets the entries fetched for it; `MARK.SNAP` and
`DRAIN` fire only where no header comes, R129, R130, and only tellers run `JR`). An element context then withholds: its
registers stay, the predicates it would have written, PD and those that are its result, are pending, and no byte of memory
changes; the record goes to its die's mailbox. -/
def Obligations.WordsFaultAtFiring : Prop := ∀ (s : State) (i : Instr) (w : Who) (x : Word) (q : FaultInfo),
  (s.issue = some (w, x) → encode i = some x → s.taken.guardFault w (guardOf x) x = some q →
    (∀ o, i ≠ .markSnap o ∧ i ≠ .drain o ∧ i ≠ .jrRet o ∧ i ≠ .jrHalt o) →
    exec i s = .next (s.taken.raise w x q) ∨
    ∃ pg pe cx n sx, w = .elem pg pe cx n ∧ exec i s = .next ((s.taken.raise w x q).clearStash pg sx w none)) ∧
  (∀ pg pe cx sl c, w = .elem pg pe cx sl → s.ctx? pg pe cx = some c →
    let t := s.raise w x q
    t.mem = s.mem ∧ t.flights = s.flights ∧ t.tellers = s.tellers ∧
    (∃ c', t.ctx? pg pe cx = some c' ∧ c'.withheld = true ∧ c'.a = c.a ∧ c'.v = c.v ∧
      ∀ n, c'.p[n]? = if n ∈ predDsts x ∧ n < c.p.length then some .pend else c.p[n]?) ∧
    (∀ pg' pe' cx', (pg', pe', cx') ≠ (pg, pe, cx) → t.ctx? pg' pe' cx' = s.ctx? pg' pe' cx'))

/-! ## Scalar words -/

/-- R102: `ADD` and `SUB` write the sum or difference wrapped or clamped into the range of TY; the flag is set when it does
not fit, and a clamp counts one saturation. Any other TY than those accepted is defect 3. R107, R109: the bitwise operations
on the w-bit patterns of A and B, with no flag; the lesser and the greater of the two values. -/
def Obligations.AddLogicAndMinMax : Prop :=
  (∀ (o : FormR) (s : State) (w : Who) (x : Word),
  let ty := o.ty.toNat
  let a := s.valAt w o.ty o.a
  let b := s.valAt w o.ty o.b
  let wrapped (e : Int) : State := s.scalarFired w x o (wrapTy ty e) (wrapTy ty e != e) []
  let clamped (e : Int) : State := s.scalarFired w x o (clampTy ty e) (clampTy ty e != e) (if clampTy ty e = e then [] else evSat)
  (∀ ag, (encode (.addW o) = some x ∨ encode (.subW o) = some x → (defect ag x = 3 ↔ ¬ ty < 8)) ∧
    (encode (.addSs o) = some x ∨ encode (.subSs o) = some x → (defect ag x = 3 ↔ ¬ ty < 4)) ∧
    (encode (.addSn o) = some x ∨ encode (.subSn o) = some x → (defect ag x = 3 ↔ ¬ (4 ≤ ty ∧ ty < 8)))) ∧
  (Fires s (.addW o) o.g w x → exec (.addW o) s = .next (wrapped (a + b))) ∧
  (Fires s (.addSs o) o.g w x → exec (.addSs o) s = .next (clamped (a + b))) ∧
  (Fires s (.addSn o) o.g w x → exec (.addSn o) s = .next (clamped (a + b))) ∧
  (Fires s (.subW o) o.g w x → exec (.subW o) s = .next (wrapped (a - b))) ∧
  (Fires s (.subSs o) o.g w x → exec (.subSs o) s = .next (clamped (a - b))) ∧
  (Fires s (.subSn o) o.g w x → exec (.subSn o) s = .next (clamped (a - b)))) ∧
  (∀ (o : FormR) (s : State) (w : Who) (x : Word),
  let ty := o.ty.toNat
  let p := s.patAt w o.ty o.a
  let q := s.patAt w o.ty o.b
  let ones := 2 ^ tyWidth ty - 1
  let log (r : Nat) : State := s.scalarFired w x o (readTy ty r) false []
  let a := s.valAt w o.ty o.a
  let b := s.valAt w o.ty o.b
  let val (r : Int) : State := s.scalarFired w x o r false []
  (∀ ag, (encode (.logAnd o) = some x ∨ encode (.logOr o) = some x ∨ encode (.logXor o) = some x ∨ encode (.logAndn o) = some x ∨
      encode (.logOrn o) = some x ∨ encode (.logXnor o) = some x → (defect ag x = 3 ↔ ¬ (ty < 8 ∨ ty = 14))) ∧
    (encode (.mmxMins o) = some x ∨ encode (.mmxMaxs o) = some x → (defect ag x = 3 ↔ ¬ ty < 4)) ∧
    (encode (.mmxMinn o) = some x ∨ encode (.mmxMaxn o) = some x → (defect ag x = 3 ↔ ¬ (4 ≤ ty ∧ ty < 8)))) ∧
  (Fires s (.logAnd o) o.g w x → exec (.logAnd o) s = .next (log (p &&& q))) ∧
  (Fires s (.logOr o) o.g w x → exec (.logOr o) s = .next (log (p ||| q))) ∧
  (Fires s (.logXor o) o.g w x → exec (.logXor o) s = .next (log (p ^^^ q))) ∧
  (Fires s (.logAndn o) o.g w x → exec (.logAndn o) s = .next (log (p &&& (q ^^^ ones)))) ∧
  (Fires s (.logOrn o) o.g w x → exec (.logOrn o) s = .next (log (p ||| (q ^^^ ones)))) ∧
  (Fires s (.logXnor o) o.g w x → exec (.logXnor o) s = .next (log (p ^^^ q ^^^ ones))) ∧
  (Fires s (.mmxMins o) o.g w x → exec (.mmxMins o) s = .next (val (if a ≤ b then a else b))) ∧
  (Fires s (.mmxMaxs o) o.g w x → exec (.mmxMaxs o) s = .next (val (if a ≤ b then b else a))) ∧
  (Fires s (.mmxMinn o) o.g w x → exec (.mmxMinn o) s = .next (val (if a ≤ b then a else b))) ∧
  (Fires s (.mmxMaxn o) o.g w x → exec (.mmxMaxn o) s = .next (val (if a ≤ b then b else a))))

/-- R104, R105: `MUL` writes the low half of the exact product, or its high half as floor(p / 2^w) read at TY; `MAC` adds the
product to D exactly, and wraps or clamps. R106, R99: division truncates towards zero and the remainder takes the sign of the
dividend; a zero divisor gives an end of the range or the dividend, and counts one divide-by-zero event unless the dividend
is zero too. -/
def Obligations.MultiplyAndDivide : Prop :=
  (∀ (o : FormR) (s : State) (w : Who) (x : Word),
  let ty := o.ty.toNat
  let p := s.valAt w o.ty o.a * s.valAt w o.ty o.b
  let e := s.valAt w o.ty o.d + p
  let high : State := s.scalarFired w x o (wrapTy ty (p / (2 ^ tyWidth ty : Nat))) false []
  (Fires s (.mulLo o) o.g w x → exec (.mulLo o) s = .next (s.scalarFired w x o (wrapTy ty p) (wrapTy ty p != p) [])) ∧
  (Fires s (.mulHs o) o.g w x → exec (.mulHs o) s = .next high) ∧
  (Fires s (.mulHn o) o.g w x → exec (.mulHn o) s = .next high) ∧
  (Fires s (.macW o) o.g w x → exec (.macW o) s = .next (s.scalarFired w x o (wrapTy ty e) (wrapTy ty e != e) [])) ∧
  (Fires s (.macSs o) o.g w x → exec (.macSs o) s = .next
    (s.scalarFired w x o (clampTy ty e) (clampTy ty e != e) (if clampTy ty e = e then [] else evSat)))) ∧
  (∀ (o : FormR) (s : State) (w : Who) (x : Word),
  let ty := o.ty.toNat
  let a := s.valAt w o.ty o.a
  let b := s.valAt w o.ty o.b
  let odd := tySigned ty && a == tyMin ty && b == -1
  let ev : List Nat := if b = 0 ∧ a ≠ 0 then evDivZero else []
  let quot : State := s.scalarFired w x o (if b = 0 then (if a < 0 then tyMin ty else tyMax ty) else wrapTy ty (a.tdiv b))
    (b == 0 || odd) ev
  let rest : State := s.scalarFired w x o (if b = 0 then a else a - b * a.tdiv b) (b == 0 || odd) ev
  (Fires s (.divQs o) o.g w x → exec (.divQs o) s = .next quot) ∧
  (Fires s (.divQn o) o.g w x → exec (.divQn o) s = .next quot) ∧
  (Fires s (.divMs o) o.g w x → exec (.divMs o) s = .next rest) ∧
  (Fires s (.divMn o) o.g w x → exec (.divMn o) s = .next rest))

/-- R108: `SHF` shifts the w-bit pattern, or the value by floor division for `.SAR`, by B mod w; its flag says that a 1 bit
was shifted out. `SHFI` shifts the 64 bits of A by its immediate. R110: the bit counts, the reversal, and the extraction and
insertion of the field of A or D that B gives. -/
def Obligations.ShiftsAndBitOperations : Prop :=
  (∀ (o : FormR) (m : FormI) (s : State) (w : Who) (x : Word),
  let ty := o.ty.toNat
  let W := tyWidth ty
  let p := s.patAt w o.ty o.a
  let n := (s.taken.readS w o.b.toNat).toNat % W
  let lost := p % 2 ^ n != 0
  let y := s.taken.readS w m.a.toNat
  let k := m.imm.toNat
  (Fires s (.shfShl o) o.g w x → exec (.shfShl o) s =
    .next (s.scalarFired w x o (readTy ty (p * 2 ^ n)) (decide (2 ^ W ≤ p * 2 ^ n)) [])) ∧
  (Fires s (.shfShr o) o.g w x → exec (.shfShr o) s = .next (s.scalarFired w x o (readTy ty (p / 2 ^ n)) lost [])) ∧
  (Fires s (.shfSar o) o.g w x → exec (.shfSar o) s =
    .next (s.scalarFired w x o (s.valAt w o.ty o.a / (2 ^ n : Nat)) lost [])) ∧
  (Fires s (.shfRol o) o.g w x → exec (.shfRol o) s =
    .next (s.scalarFired w x o (readTy ty (p * 2 ^ n % 2 ^ W + p * 2 ^ n / 2 ^ W)) false [])) ∧
  (k < 64 → Fires s (.shfiShl m) m.g w x → exec (.shfiShl m) s = .next (s.immFired w x m (y <<< k))) ∧
  (k < 64 → Fires s (.shfiShr m) m.g w x → exec (.shfiShr m) s = .next (s.immFired w x m (y >>> k))) ∧
  (k < 64 → Fires s (.shfiSar m) m.g w x → exec (.shfiSar m) s = .next (s.immFired w x m (y.sshiftRight k))) ∧
  (k < 64 → Fires s (.shfiRol m) m.g w x → exec (.shfiRol m) s = .next (s.immFired w x m (y.rotateLeft k)))) ∧
  (∀ (o : FormR) (s : State) (w : Who) (x : Word),
  let ty := o.ty.toNat
  let W := tyWidth ty
  let p := s.patAt w o.ty o.a
  let b := (s.taken.readS w o.b.toNat).toNat
  let lo := bits b 5 0
  let len := bits b 13 8
  let l := min len (W - lo)
  let short := len == 0 || decide (l < len)
  let mask := (2 ^ l - 1) * 2 ^ lo
  let plain (r : Int) : State := s.scalarFired w x o r false []
  (Fires s (.bitPopc o) o.g w x → exec (.bitPopc o) s = .next (plain ((List.range W).countP fun i => p.testBit i))) ∧
  (Fires s (.bitClz o) o.g w x → exec (.bitClz o) s = .next (plain ((List.range W).findIdx fun i => p.testBit (W - 1 - i)))) ∧
  (Fires s (.bitCtz o) o.g w x → exec (.bitCtz o) s = .next (plain ((List.range W).findIdx fun i => p.testBit i))) ∧
  (Fires s (.bitBrev o) o.g w x → exec (.bitBrev o) s =
    .next (plain (readTy ty ((List.range W).foldl (fun r i => 2 * r + (p.testBit i).toNat) 0)))) ∧
  (Fires s (.bitBext o) o.g w x → exec (.bitBext o) s = .next (s.scalarFired w x o
    (if tySigned ty then signed (p / 2 ^ lo) l else ((p / 2 ^ lo % 2 ^ l : Nat) : Int)) short [])) ∧
  (Fires s (.bitBins o) o.g w x → exec (.bitBins o) s = .next (s.scalarFired w x o
    (readTy ty ((s.patAt w o.ty o.d &&& (mask ^^^ (2 ^ W - 1))) ||| (p % 2 ^ l * 2 ^ lo))) short [])))

/-- R101, R103, R111-R113: `NOP` has no result; the moves; `ADDI`, `LI` and `LIS.SLn` at 64 bits; and `ADDR.SHn`, whose flag
says that the address leaves the 56-bit space. -/
def Obligations.MovesAndConstants : Prop := ∀ (o : FormR) (m : FormI) (fn : BitVec 3) (s : State) (w : Who) (x : Word),
  let ty := o.ty.toNat
  let W := tyWidth ty
  let a := s.valAt w o.ty o.a
  let p := s.patAt w o.ty o.a
  let q := s.patAt w o.ty o.b
  let plain (r : Int) : State := s.scalarFired w x o r false []
  let ext (v : Word) : State := s.fired w x o.g
    { wr := writeS o.d.toNat (s.taken.tagOf w o.a.toNat o.b.toNat) v, outcome := p != 0 }
  let imm : Word := BitVec.ofInt 64 m.imm.toInt
  let lo := 14 * fn.toNat
  let mask : Word := (if fn = 4 then 0xFF else 0x3FFF) <<< lo
  let sum : Word := s.taken.readS w o.a.toNat + BitVec.ofInt 64 (s.valAt w o.ty o.b * (2 ^ fn.toNat : Nat))
  (Fires s (.nop o) o.g w x → exec (.nop o) s = .next (s.fired w x o.g {})) ∧
  (Fires s (.movMov o) o.g w x → exec (.movMov o) s = .next (plain a)) ∧
  (Fires s (.movMovk o) o.g w x → exec (.movMovk o) s =
    .next (plain (readTy ty ((s.patAt w o.ty o.d &&& (q ^^^ (2 ^ W - 1))) ||| (p &&& q))))) ∧
  (Fires s (.movSel o) o.g w x → exec (.movSel o) s =
    .next (plain (if s.patAt w o.ty o.d = 0 then s.valAt w o.ty o.b else a))) ∧
  (Fires s (.movAbs o) o.g w x → exec (.movAbs o) s =
    .next (s.scalarFired w x o (if a = tyMin ty then a else (a.natAbs : Int)) (a == tyMin ty) [])) ∧
  (Fires s (.movNeg o) o.g w x → exec (.movNeg o) s =
    .next (s.scalarFired w x o (wrapTy ty (-a)) (if tySigned ty then a == tyMin ty else a != 0) [])) ∧
  (Fires s (.movSext o) o.g w x → exec (.movSext o) s = .next (ext (BitVec.ofInt 64 (signed p W)))) ∧
  (Fires s (.movZext o) o.g w x → exec (.movZext o) s = .next (ext (BitVec.ofNat 64 p))) ∧
  (Fires s (.addi m) m.g w x → exec (.addi m) s = .next (s.immFired w x m (s.taken.readS w m.a.toNat + imm))) ∧
  (Fires s (.li m) m.g w x → exec (.li m) s = .next (s.immFired w x m imm)) ∧
  (fn.toNat < 5 → (fn = 4 → m.imm.toNat < 256) → Fires s (.lis fn m) m.g w x → exec (.lis fn m) s = .next (s.fired w x m.g
    { wr := writeS m.d.toNat tagData ((s.taken.readS w m.d.toNat &&& ~~~mask) ||| (m.imm.setWidth 64 <<< lo)) })) ∧
  (Fires s (.addr fn o) o.g w x → exec (.addr fn o) s = .next (s.fired w x o.g
    { wr := writeS o.d.toNat (s.taken.tagOf w o.a.toNat o.b.toNat) sum, outcome := sum != 0
      flag := decide (2 ^ 56 ≤ sum.toNat) }))

/-- R114: `CMP` at TY and `CMPI` at 64 bits, signed or unsigned as the condition says. R115: `FCMP` compares two values of
the format TY; with a NaN only `.NE` and `.UN` hold, the flag says that there is one, and the ordered conditions count
invalid for any NaN, the others for a signalling one. -/
def Obligations.Compares : Prop :=
  (∀ (o : FormR) (m : FormI) (s : State) (w : Who) (x : Word),
  let a := s.valAt w o.ty o.a
  let b := s.valAt w o.ty o.b
  let cmp (c : Bool) : State := s.condFired w x o c false []
  let y := s.taken.readS w m.a.toNat
  let i : Word := BitVec.ofInt 64 m.imm.toInt
  let n : Word := m.imm.setWidth 64
  let cmpi (c : Bool) : State := s.predFired w x m.g m.d c
  (Fires s (.cmpEq o) o.g w x → exec (.cmpEq o) s = .next (cmp (decide (a = b)))) ∧
  (Fires s (.cmpNe o) o.g w x → exec (.cmpNe o) s = .next (cmp (decide (a ≠ b)))) ∧
  (Fires s (.cmpLt o) o.g w x → exec (.cmpLt o) s = .next (cmp (decide (a < b)))) ∧
  (Fires s (.cmpLe o) o.g w x → exec (.cmpLe o) s = .next (cmp (decide (a ≤ b)))) ∧
  (Fires s (.cmpLtn o) o.g w x → exec (.cmpLtn o) s = .next (cmp (decide (a < b)))) ∧
  (Fires s (.cmpLen o) o.g w x → exec (.cmpLen o) s = .next (cmp (decide (a ≤ b)))) ∧
  (Fires s (.cmpTst o) o.g w x → exec (.cmpTst o) s = .next (cmp (s.patAt w o.ty o.a &&& s.patAt w o.ty o.b != 0))) ∧
  (Fires s (.cmpiEq m) m.g w x → exec (.cmpiEq m) s = .next (cmpi (y == i))) ∧
  (Fires s (.cmpiNe m) m.g w x → exec (.cmpiNe m) s = .next (cmpi (y != i))) ∧
  (Fires s (.cmpiLt m) m.g w x → exec (.cmpiLt m) s = .next (cmpi (y.slt i))) ∧
  (Fires s (.cmpiLe m) m.g w x → exec (.cmpiLe m) s = .next (cmpi (y.sle i))) ∧
  (Fires s (.cmpiLtn m) m.g w x → exec (.cmpiLtn m) s = .next (cmpi (y.ult n))) ∧
  (Fires s (.cmpiLen m) m.g w x → exec (.cmpiLen m) s = .next (cmpi (y.ule n))) ∧
  (Fires s (.cmpiTst m) m.g w x → exec (.cmpiTst m) s = .next (cmpi (y &&& n != 0)))) ∧
  (∀ (o : FormR) (s : State) (w : Who) (x : Word),
  let m := fmtOf o.ty.toNat
  let a := m.decode ((s.taken.readS w o.a.toNat).toNat % 2 ^ m.width)
  let b := m.decode ((s.taken.readS w o.b.toNat).toNat % 2 ^ m.width)
  let nan := a.isNan || b.isNan
  let sig := a.isSig || b.isSig
  let quiet (c : Bool) : State := s.condFired w x o c nan (if sig then evInvalid else [])
  let ordered (c : Bool) : State := s.condFired w x o (!nan && c) nan (if nan then evInvalid else [])
  (Fires s (.fcmpEq o) o.g w x → exec (.fcmpEq o) s = .next (quiet (!nan && a.feq b))) ∧
  (Fires s (.fcmpNe o) o.g w x → exec (.fcmpNe o) s = .next (quiet (nan || !a.feq b))) ∧
  (Fires s (.fcmpLt o) o.g w x → exec (.fcmpLt o) s = .next (ordered (a.lt b))) ∧
  (Fires s (.fcmpLe o) o.g w x → exec (.fcmpLe o) s = .next (ordered (a.lt b || a.feq b))) ∧
  (Fires s (.fcmpUn o) o.g w x → exec (.fcmpUn o) s = .next (quiet nan)) ∧
  (Fires s (.fcmpOr o) o.g w x → exec (.fcmpOr o) s = .next (quiet (!nan))))

/-- R116-R119: the words that write a predicate from predicates, a pulse, and the moves between predicates and registers.
R121-R124: `SEND` and `TAGR` make a token of A's payload with the tag given, `TAGR` faulting on SNAP and DRAIN; `FWD` moves
A's head token; `REPL` fills every lane with the low w bits of A. -/
def Obligations.PredicateAndTokenWords : Prop :=
  (∀ (o : FormR) (s : State) (w : Who) (x : Word),
  let a := s.taken.truth w o.a.toNat
  let b := s.taken.truth w o.b.toNat
  let put (v : Bool) : State := s.predFired w x o.g o.d v
  (Fires s (.psetSet o) o.g w x → exec (.psetSet o) s = .next (put true)) ∧
  (Fires s (.psetClr o) o.g w x → exec (.psetClr o) s = .next (put false)) ∧
  (Fires s (.psetCpy o) o.g w x → exec (.psetCpy o) s = .next (put a)) ∧
  (Fires s (.psetNot o) o.g w x → exec (.psetNot o) s = .next (put (!a))) ∧
  (Fires s (.psetSig o) o.g w x → exec (.psetSig o) s =
    .next (s.fired w x o.g { wr := { Writes.none with sig := [o.d.toNat - 16] } })) ∧
  (Fires s (.plogAnd o) o.g w x → exec (.plogAnd o) s = .next (put (a && b))) ∧
  (Fires s (.plogOr o) o.g w x → exec (.plogOr o) s = .next (put (a || b))) ∧
  (Fires s (.plogXor o) o.g w x → exec (.plogXor o) s = .next (put (a ^^ b))) ∧
  (Fires s (.plogAndn o) o.g w x → exec (.plogAndn o) s = .next (put (a && !b))) ∧
  (Fires s (.pmovToa o) o.g w x → exec (.pmovToa o) s =
    .next (s.fired w x o.g { wr := writeS o.d.toNat tagData (if a then 1 else 0), outcome := a })) ∧
  (Fires s (.pmovFra o) o.g w x → exec (.pmovFra o) s = .next (put (s.taken.readS w o.a.toNat != 0)))) ∧
  (∀ (o : FormR) (s : State) (w : Who) (x : Word),
  let net := (s.taken.outCfg w (o.d.toNat - 16)).net
  let v := s.taken.readAny w o.a.toNat
  let mask := if tyFloat o.ty.toNat then 2 ^ (tyWidth o.ty.toNat - 1) else 2 ^ tyWidth o.ty.toNat
  let sent (tag : Nat) : State := s.fired w x o.g
    { wr := writeTok o.d.toNat ⟨tag, if net = 2 then v else (v.setWidth 64).setWidth 512⟩
      outcome := net == 2 || v.toNat % mask != 0 }
  let b := (s.taken.readS w o.b.toNat).toNat
  (Fires s (.sendD o) o.g w x → exec (.sendD o) s = .next (sent 0)) ∧
  (Fires s (.sendEor o) o.g w x → exec (.sendEor o) s = .next (sent 1)) ∧
  (Fires s (.sendEot o) o.g w x → exec (.sendEot o) s = .next (sent 2)) ∧
  (Fires s (.sendEos o) o.g w x → exec (.sendEos o) s = .next (sent 3)) ∧
  (Fires s (.sendLvl o) o.g w x → exec (.sendLvl o) s = .next (sent 4)) ∧
  (Fires s (.sendCtl o) o.g w x → exec (.sendCtl o) s = .next (sent 7)) ∧
  (∀ t, s.taken.headOf w (o.a.toNat - 12) = some t → Fires s (.fwd o) o.g w x → exec (.fwd o) s = .next (s.fired w x o.g
    { wr := writeTok o.d.toNat t, outcome := net == 2 || t.pay.setWidth 64 != (0 : Word) })) ∧
  (Fires s (.repl o) o.g w x → ∃ p : Vec,
    (∀ j, j < 512 / tyWidth o.ty.toNat → lane (tyWidth o.ty.toNat) p j = s.patAt w o.ty o.a) ∧
    exec (.repl o) s = .next (s.fired w x o.g
      { wr := writeTok o.d.toNat ⟨s.taken.tagOf w o.a.toNat 26, p⟩, outcome := true })) ∧
  (Fires s (.tagr o) o.g w x → exec (.tagr o) s =
    if b % 8 = 5 ∨ b % 8 = 6 then .next (s.taken.raise w x { cls := clsRange, code := 0x010, opnd := b })
    else .next (sent (b % 8))))

/-- R125-R127: which head a merge takes: two DATA heads by age or by turn, DATA past a held marker, two equal markers at
once, and unequal ones raise SHAPE 0x020 with both tags; the token moves unchanged, with the outcome of `FWD`, and the slot's
bit tells the next choice. R129, R130: a word that places a marker fires with no result; `MARK.SNAP` copies the element's
state into a shadow and begins an interval, `DRAIN`, once it has written back, ends the firing of its element's slots, and
each owes its marker to every scalar and vector out port, as the firing it is, whose markers publish (R265). -/
def Obligations.MergeAndMarkerWords : Prop :=
  (∀ (rot : Bool) (o : FormR) (s : State) (pg pe cx n : Nat) (x : Word) (ha hb : Option Tok)
    (ta tb : Tok) (last : Bool) (sa sb : Nat),
  let i : Instr := if rot then .mrgRot o else .mrgArr o
  let w : Who := .elem pg pe cx n
  let a := o.a.toNat - 12
  let b := o.b.toNat - 12
  let net := (s.taken.outCfg w (o.d.toNat - 16)).net
  let marker (t : Tok) : Bool := !([tagData, tagSnap, tagDrain] : List Nat).contains t.tag
  let pick := mrgPick rot last (some ta) (some tb) sa sb
  let moved (t : Tok) (deq : List Nat) (m : Bool) : State := s.fired w x o.g
    { wr := writeTok o.d.toNat t, outcome := net == 2 || t.pay.setWidth 64 != (0 : Word), deq := some deq
      slot := ((s.taken.pe? pg pe).bind fun e => e.live.slots[n]?).map fun sl => { sl with mrg := m } }
  (ta.tag = tagData → tb.tag = tagData → pick =
    if rot then (if last then .b else .a) else if sa < sb then .a else if sb < sa then .b else if last then .a else .b) ∧
  (ta.tag = tagData → marker tb = true → pick = .a) ∧ (marker ta = true → tb.tag = tagData → pick = .b) ∧
  (marker ta = true → marker tb = true → pick = if ta.tag = tb.tag then .both else .clash) ∧
  (Fires s i o.g w x → s.taken.mrgChoice pg pe n a b rot = (.a, some ta, hb, last) →
    exec i s = .next (moved ta [a] (rot && !hb.any marker))) ∧
  (Fires s i o.g w x → s.taken.mrgChoice pg pe n a b rot = (.b, ha, some tb, last) →
    exec i s = .next (moved tb [b] (!rot || ha.any marker))) ∧
  (Fires s i o.g w x → s.taken.mrgChoice pg pe n a b rot = (.both, some ta, some tb, last) →
    exec i s = .next (moved ta [a, b] (!rot && last))) ∧
  (Fires s i o.g w x → s.taken.mrgChoice pg pe n a b rot = (.clash, some ta, some tb, last) → exec i s =
    .next (s.taken.raise w x { cls := clsShape, code := 0x020, detail := ta.tag + 16 * tb.tag }))) ∧
  (∀ (o : FormR) (s : State) (pg pe cx n : Nat) (x : Word),
  let w : Who := .elem pg pe cx n
  let ports (e : Pe) : List Nat := (List.range 4).filter fun k => e.ports[4 + k]?.any fun c => c.net == 1 || c.net == 2
  let owes (tag : Nat) (e : Pe) : Pe :=
    { e with owed := e.owed ++ (ports e).map fun k => (k, tag), markBy := some (cx, s.ids) }
  let snap (e : Pe) : Pe :=
    { e with ival := e.ival + 1, shadows := (⟨e.ival + 1, s.fc, e.live, [], [], false⟩ :: e.shadows).take 2 }
  (Fires s (.markSnap o) o.g w x → exec (.markSnap o) s = .next ((s.fired w x o.g {}).modPe pg pe fun e => owes tagSnap (snap e))) ∧
  (Fires s (.drain o) o.g w x → exec (.drain o) s =
    .next ((s.fired w x o.g {}).modPe pg pe (owes tagDrain))) ∧
  (∀ f d, s.flight? f.fid = some f → f.who = w → opcOf f.word = 0x1E → f.due = some d → d ≤ s.fc → s.mayPublish f = true →
    exec (.writeBack f.fid) s = .next ((((s.dropFlight f.fid).applyWrites w f.born f.wr).releaseOuts w f.holds f.wr).modPe pg pe
      fun e => { e with drained := true, ended := true })))

/-- R131-R133: branches and jumps of a teller set its pc, the link goes to D, and the next word issues two fc later; a target
that is no multiple of 8 raises ALIGN 0x001 and nothing else changes; `.HALT` writes the pc and the context stops. -/
def Obligations.TellerControl : Prop := ∀ (m : FormI) (o : FormR) (s : State) (t cx : Nat) (pc x : Word),
  let w : Who := .tel t cx pc
  let far : Word := pc + BitVec.ofInt 64 (m.imm.toInt * 8)
  let a := s.taken.readS w o.a.toNat
  let bad : State := s.taken.raise w x { cls := clsAlign, code := 0x001, opnd := a.toNat }
  let depth (u : State) (k : BitVec 8) : State := u.modTctx t cx fun c =>
    { c with tstat := c.tstat.extractLsb' 16 48 ++ (c.tstat.extractLsb' 8 8 + k) ++ c.tstat.extractLsb' 0 8 }
  (Fires s (.brBr m) m.g w x → exec (.brBr m) s = .next (s.fired w x m.g { pc := some far, gap := 2 })) ∧
  (Fires s (.brCall m) m.g w x → exec (.brCall m) s = .next
    (depth (s.fired w x m.g { wr := writeS m.d.toNat tagData (pc + 8), pc := some far, gap := 2 }) 1)) ∧
  (Fires s (.jrJr o) o.g w x → exec (.jrJr o) s = .next (if a.toNat % 8 ≠ 0 then bad
    else s.fired w x o.g { wr := writeS o.d.toNat tagData (pc + 8), pc := some a, gap := 2 })) ∧
  (Fires s (.jrRet o) o.g w x → exec (.jrRet o) s = .next (if a.toNat % 8 ≠ 0 then bad
    else depth (s.fired w x o.g { pc := some a, gap := 2 }) 255)) ∧
  (Fires s (.jrHalt o) o.g w x → exec (.jrHalt o) s = .next
    ((s.fired w x o.g { wr := writeS o.d.toNat tagData pc }).modTctx t cx fun c => { c with run := false }))

/-! ## Vector words -/

/-- R140, R141: lane-wise arithmetic. An integer lane is the exact result modulo 2^w, and the flag says that one does not
fit; a floating lane is the exact result rounded once to TY. -/
def Obligations.VectorArithmetic : Prop := ∀ (o : FormR) (s : State) (w : Who) (x : Word),
  let ty := o.ty.toNat
  let W := tyWidth ty
  let f := fmtOf ty
  let d (j : Nat) : Nat := s.laneAt w o.ty o.d j
  let a (j : Nat) : Nat := s.laneAt w o.ty o.a j
  let b (j : Nat) : Nat := s.laneAt w o.ty o.b j
  let lanes (i : Instr) (int : Nat → Int) (flt : Nat → FRes) : Prop := Fires s i o.g w x → ∃ t, exec i s = .next t ∧
    s.LanesFired w x o (if tyFloat ty then 6 else 2) W (512 / W) o.a.toNat o.b.toNat (fun j =>
      if tyFloat ty then { pat := (flt j).pat, ev := (flt j).ev }
      else { pat := pattern (int j) W, flag := wrapTy ty (int j) != int j }) t
  let floats (i : Instr) (flt : Nat → FRes) : Prop := Fires s i o.g w x → ∃ t, exec i s = .next t ∧
    s.LanesFired w x o (if tyFloat ty then 6 else 2) W (512 / W) o.a.toNat o.b.toNat
      (fun j => { pat := (flt j).pat, ev := (flt j).ev }) t
  let ri (n : Nat) : Int := readTy ty n
  let rf (n : Nat) : FVal := f.decode n
  lanes (.vadd o) (fun j => ri (a j) + ri (b j)) (fun j => f.addV .rne (rf (a j)) (rf (b j))) ∧
  lanes (.vsub o) (fun j => ri (a j) - ri (b j)) (fun j => f.addV .rne (rf (a j)) (rf (b j)).neg) ∧
  lanes (.vmul o) (fun j => ri (a j) * ri (b j)) (fun j => f.mulV .rne (rf (a j)) (rf (b j))) ∧
  lanes (.vfmaFma o) (fun j => ri (a j) * ri (b j) + ri (d j)) (fun j => f.fmaV .rne (rf (a j)) (rf (b j)) (rf (d j))) ∧
  lanes (.vfmaFms o) (fun j => ri (a j) * ri (b j) - ri (d j)) (fun j => f.fmaV .rne (rf (a j)) (rf (b j)) (rf (d j)).neg) ∧
  lanes (.vfmaFnma o) (fun j => ri (d j) - ri (a j) * ri (b j)) (fun j => f.fmaV .rne (rf (a j)).neg (rf (b j)) (rf (d j))) ∧
  floats (.vdivDiv o) (fun j => f.divV .rne (rf (a j)) (rf (b j))) ∧
  floats (.vdivRcp o) (fun j => f.divV .rne (.fin false 1 0) (rf (a j))) ∧
  floats (.vdivRsq o) (fun j => f.rsqV .rne (rf (a j))) ∧
  floats (.vdivSqrt o) (fun j => f.sqrtV .rne (rf (a j)))

/-- R142-R146: minimum and maximum, signs, relation codes, lane and bit selection, shifts by signed lanes, and clamping.
R154, R155, R160: lane permutations, one lane put in or taken out, the arithmetic sequence, and bitmaps. -/
def Obligations.VectorSelectionAndMovement : Prop :=
  (∀ (o : FormR) (s : State) (w : Who) (x : Word),
  let ty := o.ty.toNat
  let W := tyWidth ty
  let f := fmtOf ty
  let W6 := if tyFloat ty then 6 else 2
  let d (j : Nat) : Nat := s.laneAt w o.ty o.d j
  let a (j : Nat) : Nat := s.laneAt w o.ty o.a j
  let b (j : Nat) : Nat := s.laneAt w o.ty o.b j
  let lanes (i : Instr) (n : Nat) (r : Nat → LaneRes) : Prop := Fires s i o.g w x → ∃ t, exec i s = .next t ∧
    s.LanesFired w x o n W (512 / W) o.a.toNat o.b.toNat r t
  let nan (n : Nat) : Bool := tyFloat ty && (f.decode n).isNan
  let sig (m n : Nat) : List Nat := if tyFloat ty ∧ ((f.decode m).isSig ∨ (f.decode n).isSig) then evInvalid else []
  let below (m n : Nat) : Bool := if tyFloat ty then ltTotal (f.decode m) (f.decode n) else decide (readTy ty m < readTy ty n)
  let pick (num : Bool) (m n : Nat) (lo : Bool) : LaneRes :=
    { pat := if nan m && nan n then f.nanPat else if nan m then (if num then n else f.nanPat)
             else if nan n then (if num then m else f.nanPat)
             else if lo then (if below n m then n else m) else (if below m n then n else m), ev := sig m n }
  let sign (n : Nat) (flt : Nat) (int : Int) : LaneRes :=
    if tyFloat ty then { pat := if nan n then f.nanPat else flt }
    else { pat := pattern int W, flag := readTy ty n == tyMin ty }
  let rel (m n : Nat) : LaneRes :=
    if nan m ∨ nan n then { pat := 8, flag := true, ev := sig m n }
    else if tyFloat ty then { pat := if (f.decode m).lt (f.decode n) then 1 else if (f.decode m).feq (f.decode n) then 2 else 4 }
    else { pat := if readTy ty m < readTy ty n then 1 else if readTy ty m = readTy ty n then 2 else 4 }
  let sh (m : Nat) (k : Int) : LaneRes :=
    if 0 ≤ k then { pat := m * 2 ^ k.toNat % 2 ^ W, flag := decide (2 ^ W ≤ m * 2 ^ k.toNat) }
    else { pat := pattern (readTy ty m / (2 ^ (-k).toNat : Nat)) W }
  lanes (.vmmxMin o) W6 (fun j => pick false (a j) (b j) true) ∧
  lanes (.vmmxMax o) W6 (fun j => pick false (a j) (b j) false) ∧
  lanes (.vmmxMinn o) W6 (fun j => pick true (a j) (b j) true) ∧
  lanes (.vmmxMaxn o) W6 (fun j => pick true (a j) (b j) false) ∧
  lanes (.vsgnAbs o) W6 (fun j => sign (a j) (a j % 2 ^ (W - 1)) (readTy ty (a j)).natAbs) ∧
  lanes (.vsgnNeg o) W6 (fun j => sign (a j) (a j ^^^ 2 ^ (W - 1)) (-(readTy ty (a j)))) ∧
  (tyFloat ty → lanes (.vsgnCsgn o) 6 (fun j => sign (a j) (a j % 2 ^ (W - 1) + b j / 2 ^ (W - 1) * 2 ^ (W - 1)) 0)) ∧
  (Fires s (.vcmp o) o.g w x → ∃ v : Vec, (∀ j, j < 512 / W → lane W v j = (rel (a j) (b j)).pat % 2 ^ W) ∧
    exec (.vcmp o) s = .next (s.fired w x o.g
      { w := W6, wr := writeV o.d.toNat (s.taken.tagOf w o.a.toNat o.b.toNat) v
        outcome := (tab (512 / W) fun j => (rel (a j) (b j)).pat == 2).all id
        flag := (tab (512 / W) fun j => (rel (a j) (b j)).flag).any id
        ev := sumEvents (tab (512 / W) fun j => (rel (a j) (b j)).ev) })) ∧
  lanes (.vsel o) 2 (fun j => { pat := if d j ≠ 0 then a j else b j }) ∧
  (Fires s (.vlog o) o.g w x → exec (.vlog o) s = .next (s.fired w x o.g
    { wr := writeV o.d.toNat tagData ((s.taken.readV w o.d.toNat &&& s.taken.readV w o.a.toNat) |||
        (~~~(s.taken.readV w o.d.toNat) &&& s.taken.readV w o.b.toNat)), outcome := true })) ∧
  (ty < 8 → lanes (.vshf o) 2 (fun j => sh (a j) (signed (b j) W))) ∧
  (ty < 8 → lanes (.vclmp o) 2 (fun j =>
    let r := min (max (readTy ty (d j)) (readTy ty (a j))) (readTy ty (b j))
    { pat := pattern r W, flag := r != readTy ty (d j), ev := if r = readTy ty (d j) then [] else evSat })) ∧
  (tyFloat ty → lanes (.vclmp o) 6 (fun j =>
    let m := pick false (d j) (a j) false
    let r := pick false m.pat (b j) true
    { pat := r.pat, ev := if m.ev = [] ∧ r.ev = [] then [] else evInvalid }))) ∧
  (∀ (o : FormR) (s : State) (w : Who) (x : Word),
  let ty := o.ty.toNat
  let W := tyWidth ty
  let L := 512 / W
  let a (j : Nat) : Nat := s.laneAt w o.ty o.a j
  let b (j : Nat) : Nat := s.laneAt w o.ty o.b j
  let va := s.taken.readV w o.a.toNat
  let vd := s.taken.readV w o.d.toNat
  let k := (s.taken.readS w o.b.toNat).toNat
  let n := if k = 0 ∨ L < k then L else k
  let lanes (i : Instr) (r : Nat → LaneRes) : Prop := Fires s i o.g w x → ∃ t, exec i s = .next t ∧
    s.LanesFired w x o 2 W L o.a.toNat o.b.toNat r t
  lanes (.vprmIdx o) (fun j => { pat := if b j < L then a (b j) else 0, flag := decide (L ≤ b j) }) ∧
  lanes (.vprmRot o) (fun j => { pat := a ((j + k) % L) }) ∧
  lanes (.vprmBcl o) (fun _ => { pat := a (k % L) }) ∧
  lanes (.vprmPair o) (fun j => { pat := if j % 2 = 0 then a (j / 2) else b (j / 2) }) ∧
  (Fires s (.vinsIns o) o.g w x → ∃ v : Vec,
    (∀ j, j < L → lane W v j = if j = k then s.patAt w o.ty o.a else s.laneAt w o.ty o.d j) ∧
    exec (.vinsIns o) s = .next (s.fired w x o.g
      { wr := writeV o.d.toNat tagData v, outcome := decide (k < L), flag := decide (L ≤ k) })) ∧
  (Fires s (.vinsExt o) o.g w x → exec (.vinsExt o) s =
    .next (s.patFired w x o 2 ty o.b.toNat (if k < L then a k else 0) (decide (L ≤ k)) [])) ∧
  lanes (.viota o) (fun j => { pat := (s.taken.readS w o.a.toNat + BitVec.ofNat 64 j * s.taken.readS w o.b.toNat).toNat % 2 ^ W }) ∧
  lanes (.vbmpExpd o) (fun j => { pat := if k + j < 512 ∧ va.getLsbD (k + j) then 2 ^ W - 1 else 0 }) ∧
  (Fires s (.vbmpCnt o) o.g w x → exec (.vbmpCnt o) s = .next (s.fired w x o.g
    { wr := writeS o.d.toNat (s.taken.tagOf w o.a.toNat 26)
              (BitVec.ofNat 64 ((List.range 512).countP fun i => va.getLsbD i)), outcome := va != 0 })) ∧
  (Fires s (.vbmpSetb o) o.g w x → ∃ v : Vec,
    (∀ i, i < 512 → v.getLsbD i = (vd.getLsbD i || (List.range n).any fun j => a j == i)) ∧
    exec (.vbmpSetb o) s = .next (s.fired w x o.g
      { wr := writeV o.d.toNat tagData v, outcome := (List.range n).any fun j => decide (a j < 512)
        flag := (List.range n).any fun j => decide (512 ≤ a j) })))

/-- R147, R148: a conversion of the first n lanes, n the lesser lane count, with the rounding its name says and +0 above; and
the exact function value of every lane rounded once. -/
def Obligations.VectorConversion : Prop := ∀ (o : FormR) (s : State) (w : Who) (x : Word),
  let ty := o.ty.toNat
  let src := o.b.toNat
  let W := tyWidth ty
  let f := fmtOf ty
  let conv (i : Instr) (rm : Rm) : Prop := Fires s i o.g w x → ∃ t, exec i s = .next t ∧
    s.LanesFired w x o 6 W (min (512 / tyWidth src) (512 / W)) o.a.toNat 26 (fun j =>
      let r := convert rm src ty (lane (tyWidth src) (s.taken.readV w o.a.toNat) j) false
      { pat := r.pat, flag := r.ev.getD 4 0 != 0, ev := r.ev }) t
  let fun_ (i : Instr) (g : FVal → FRes) : Prop := Fires s i o.g w x → ∃ t, exec i s = .next t ∧
    s.LanesFired w x o (if tyFloat ty then 6 else 2) W (512 / W) o.a.toNat o.b.toNat
      (fun j => { pat := (g (f.decode (s.laneAt w o.ty o.a j))).pat, ev := (g (f.decode (s.laneAt w o.ty o.a j))).ev }) t
  conv (.vcvtRne o) .rne ∧ conv (.vcvtRz o) .rz ∧ conv (.vcvtRu o) .ru ∧ conv (.vcvtRd o) .rd ∧ conv (.vcvtRna o) .rna ∧
  fun_ (.vtrnExp o) f.expV ∧ fun_ (.vtrnExp2 o) f.exp2V ∧ fun_ (.vtrnLog o) (f.logV false) ∧ fun_ (.vtrnLog2 o) (f.logV true) ∧
  fun_ (.vtrnTanh o) f.tanhV ∧ fun_ (.vtrnSigm o) f.sigmV

/-- R149, R150, R153: the dot product and the reductions of integer lanes as exact sums, maxima, minima, ands and ors; the
floating ones by the tree of R88 at f32 or f64; and the prefix scans, each lane from the one before it unless a head begins a
run. -/
def Obligations.VectorReductions : Prop := ∀ (o : FormR) (s : State) (w : Who) (x : Word),
  let ty := o.ty.toNat
  let W := tyWidth ty
  let L := 512 / W
  let f := fmtOf ty
  let a (j : Nat) : Nat := s.laneAt w o.ty o.a j
  let b (j : Nat) : Nat := s.laneAt w o.ty o.b j
  let ri (n : Nat) : Int := readTy ty n
  let none5 : List Nat := List.replicate 5 0
  let int (i : Instr) (r : Int) : Prop := ty < 8 → Fires s i o.g w x →
    exec i s = .next (s.patFired w x o 4 ty 26 (pattern r W) false none5)
  let rt := if ty = 11 then 11 else 10
  let wide (j : Nat) : LaneRes := if ty < 10 then fLane (fmtF32.ofV .rne (f.decode (a j))) else { pat := a j }
  let node (op : Nat → Nat → LaneRes) (m n : LaneRes) : LaneRes :=
    { pat := (op m.pat n.pat).pat, ev := addCnts (addCnts m.ev n.ev) (op m.pat n.pat).ev }
  let flt (i : Instr) (op : Nat → Nat → LaneRes) : Prop := tyFloat ty → Fires s i o.g w x →
    let r := treeOf (node op) 10 (tab L wide)
    exec i s = .next (s.patFired w x o 4 rt 26 r.pat false r.ev)
  let heads := s.taken.readV w o.b.toNat
  let begins (j : Nat) : Prop := j = 0 ∨ heads.getLsbD j
  let scan (i : Instr) (op : Nat → Nat → LaneRes) (ident : Nat) (excl : Bool) : Prop := Fires s i o.g w x →
    ∃ (r : Nat → LaneRes) (t : State),
      (∀ j, j < L → (begins j → r j = op ident (a j)) ∧ (¬ begins j → r j = op (r (j - 1)).pat (a j))) ∧
      exec i s = .next t ∧ s.LanesFired w x o 4 W L o.a.toNat o.b.toNat (fun j =>
        { pat := if excl then (if j = 0 ∨ heads.getLsbD j then ident else (r (j - 1)).pat) else (r j).pat, ev := (r j).ev }) t
  (ty < 8 → Fires s (.vdot o) o.g w x → exec (.vdot o) s = .next (s.patFired w x o 6 (if ty < 4 then 3 else 7) o.b.toNat
    (pattern ((tab L fun j => ri (a j) * ri (b j)).foldl (· + ·) 0) 64) false [])) ∧
  (tyFloat ty → Fires s (.vdot o) o.g w x →
    let ps := tab L fun j => (f.decode (a j), f.decode (b j))
    let r := (fmtOf rt).dot ps
    exec (.vdot o) s = .next (s.patFired w x o 6 rt o.b.toNat r.pat false
      (if ps.any nanProduct then event 1 (ps.countP badProduct) else r.ev))) ∧
  int (.vredSum o) ((tab L fun j => ri (a j)).foldl (· + ·) 0) ∧
  int (.vredMax o) ((tab L fun j => ri (a j)).foldl max (tyMin ty)) ∧
  int (.vredMin o) ((tab L fun j => ri (a j)).foldl min (tyMax ty)) ∧
  int (.vredAnd o) (((tab L a).foldl (· &&& ·) (2 ^ W - 1) : Nat) : Int) ∧
  int (.vredOr o) (((tab L a).foldl (· ||| ·) 0 : Nat) : Int) ∧
  flt (.vredSum o) (laneAdd rt) ∧ flt (.vredMax o) (laneMm rt true false) ∧ flt (.vredMin o) (laneMm rt false false) ∧
  scan (.vscanIsum o) (laneAdd ty) 0 false ∧ scan (.vscanXsum o) (laneAdd ty) 0 true ∧
  scan (.vscanImax o) (laneMm ty true false) (identMax ty) false

/-- R156, R157, R159: quantisation by a scale and back, bit planes made and read bit by bit, with RANGE 0x011 for a plane
count outside its range, and the application of a row's mean and reciprocal deviation. -/
def Obligations.VectorQuantisation : Prop := ∀ (o : FormR) (s : State) (w : Who) (x : Word),
  let ty := o.ty.toNat
  let W := tyWidth ty
  let f := fmtOf ty
  let k := (s.taken.readS w o.b.toNat).toNat
  let scale := fmtF32.decode (k % 2 ^ 32)
  let va := s.taken.readV w o.a.toNat
  let vb := s.taken.readV w o.b.toNat
  let n := k % 256
  let m := bits k 15 8
  let bad : State := s.taken.raise w x { cls := clsRange, code := 0x011, opnd := k }
  let lim : Int := (2 ^ (n - 1) : Nat)
  let el (j : Nat) : Int := max (-lim) (min (lim - 1) (signed (lane 8 va j) 8))
  let sat := (List.range 64).countP fun j => el j != signed (lane 8 va j) 8
  let plane (j p : Nat) : Bool := va.getLsbD (32 * (8 * (j / 32) + p) + j % 32)
  let top (j : Nat) : Nat := (List.range m).foldl (fun r p => 2 * r + (plane j p).toNat) 0
  let mu := fmtF32.decode (lane 32 vb 0)
  let rs := fmtF32.decode (lane 32 vb 1)
  (Fires s (.vqnt o) o.g w x → ∃ t, exec (.vqnt o) s = .next t ∧ s.LanesFired w x o 6 W 16 o.a.toNat o.b.toNat (fun j =>
    let r := intOfV ty .rne (mulX (fmtF32.decode (lane 32 va j)) scale)
    { pat := pattern r.1 W, flag := r.2.getD 4 0 != 0, ev := r.2 }) t) ∧
  (Fires s (.vdq o) o.g w x → ∃ t, exec (.vdq o) s = .next t ∧ s.LanesFired w x o 6 32 16 o.a.toNat o.b.toNat (fun j =>
    let v := readTy ty (lane W va j)
    let r := fmtF32.mulV .rne (.fin (decide (v < 0)) v.natAbs 0) scale
    { pat := r.pat, ev := r.ev }) t) ∧
  (2 ≤ n → n ≤ 8 → Fires s (.bppk o) o.g w x → ∃ v : Vec,
    (∀ b p i, b < 2 → p < 8 → i < 32 → v.getLsbD (32 * (8 * b + p) + i) =
      (decide (p < n) && (pattern (el (32 * b + i)) n).testBit (n - 1 - p))) ∧
    exec (.bppk o) s = .next (s.fired w x o.g { wr := writeV o.d.toNat (s.taken.tagOf w o.a.toNat o.b.toNat) v
                                                outcome := true, flag := sat != 0, ev := event 5 sat })) ∧
  (n < 2 ∨ 8 < n → Fires s (.bppk o) o.g w x → exec (.bppk o) s = .next bad) ∧
  (2 ≤ n → n ≤ 8 → 1 ≤ m → m ≤ n → Fires s (.bpun o) o.g w x → ∃ v : Vec,
    (∀ j, j < 64 → lane 8 v j = pattern (signed (top j) m) 8) ∧
    exec (.bpun o) s = .next (s.fired w x o.g
      { wr := writeV o.d.toNat (s.taken.tagOf w o.a.toNat o.b.toNat) v, outcome := true })) ∧
  (n < 2 ∨ 8 < n ∨ m < 1 ∨ n < m → Fires s (.bpun o) o.g w x → exec (.bpun o) s = .next bad) ∧
  (Fires s (.vnrmApply o) o.g w x → ∃ t, exec (.vnrmApply o) s = .next t ∧
    s.LanesFired w x o 6 W (vlOf (fmtF32.decode (lane 32 vb 3)) (512 / W)) o.a.toNat o.b.toNat (fun j =>
      let y := f.decode (lane W va j)
      let r := f.ofV .rne (mulX (subX y mu) rs)
      { pat := r.pat
        ev := if y.isNan ∨ mu.isNan ∨ rs.isNan then (if y.isSig ∨ mu.isSig ∨ rs.isSig then evInvalid else []) else r.ev }) t)

/-- R161-R163: one chunk of the string automaton, or RANGE 0x013; the eight best entries in the order of R162; and the words
of AES-128 under the partition's key of an id of 0 to 15, or RANGE 0x014 where it has none. -/
def Obligations.VectorMatchRankDraw : Prop := ∀ (o : FormR) (s : State) (w : Who) (x : Word),
  let va := s.taken.readV w o.a.toNat
  let vb := s.taken.readV w o.b.toNat
  let vd := s.taken.readV w o.d.toNat
  let d := (s.taken.readS w o.d.toNat).toNat
  let a := (s.taken.readS w o.a.toNat).toNat
  let b := (s.taken.readS w o.b.toNat).toNat
  let k := lane 8 va 63
  let l := lane 8 vb 63
  let badMatch := 64 ≤ k ∨ l = 0 ∨ 64 ≤ l ∨ l < d % 256
  let run := matchLoop (tab l fun j => lane 8 vb j) (tab k fun j => lane 8 va j) 0 (d % 256)
  let olds : List TopEnt := tab 8 fun j => { key := lane 64 vd j / 2 ^ 32, ix := lane 64 vd j % 2 ^ 32, old := true }
  let news : List TopEnt := tab 16 fun j => { key := lane 32 va j, ix := (b + j) % 2 ^ 32, old := false }
  let cands := (olds ++ news).filter fun e => !(fmtF32.decode e.key).isNan
  let key := if 15 < bits b 39 32 then none else (s.taken.ptn? (s.taken.ptnOf w)).bind fun p => alGet (bits b 39 32) p.keys
  let ctr (n : Nat) : List Nat :=
    (leBytes 4 (a % 2 ^ 32) ++ leBytes 4 (a / 2 ^ 32) ++ leBytes 4 (b % 2 ^ 32) ++ leBytes 4 n).map BitVec.toNat
  let raw (ky : List Byte) (j : Nat) : Nat :=
    leNat (tab 4 fun i => BitVec.ofNat 8 ((aes128 (ky.map BitVec.toNat) (ctr (j / 4))).getD (4 * (j % 4) + i) 0))
  (¬ badMatch → Fires s (.vmatch o) o.g w x → exec (.vmatch o) s = .next (s.fired w x o.g
    { w := 4, wr := writeS o.d.toNat tagData (BitVec.ofNat 64 (run.2 * 256 + run.1)), outcome := run.2 != 0, flag := run.2 != 0 })) ∧
  (badMatch → Fires s (.vmatch o) o.g w x → exec (.vmatch o) s =
    .next (s.taken.raise w x { cls := clsRange, code := 0x013, opnd := d })) ∧
  (Fires s (.vtopk o) o.g w x → ∃ (sorted : List TopEnt) (v : Vec),
    sorted.Perm cands ∧ (∀ i e e', sorted[i]? = some e → sorted[i + 1]? = some e' → e'.before e = false) ∧
    (∀ j, j < 8 → lane 64 v j = match sorted[j]? with
      | some e => e.key * 2 ^ 32 + e.ix
      | none => 2 ^ 64 - 1) ∧
    exec (.vtopk o) s = .next (s.fired w x o.g
      { w := 4, wr := writeV o.d.toNat tagData v, outcome := !(sorted.take 8).isEmpty
        flag := (sorted.take 8).any fun e => !e.old
        ev := event 1 ((List.range 16).countP fun j => (fmtF32.decode (lane 32 va j)).isSig) })) ∧
  (∀ ky, key = some ky → Fires s (.vrng o) o.g w x → ∃ v : Vec,
    (∀ j, j < 16 → lane 32 v j =
      (if o.ty = 10 then (fmtF32.round .rne false (raw ky j / 256) (-24) false).pat else raw ky j) % 2 ^ 32) ∧
    exec (.vrng o) s = .next (s.fired w x o.g
      { w := 12, wr := writeV o.d.toNat (s.taken.tagOf w o.a.toNat o.b.toNat) v, outcome := true })) ∧
  (key = none → Fires s (.vrng o) o.g w x → exec (.vrng o) s =
    .next (s.taken.raise w x { cls := clsRange, code := 0x014, opnd := b }))

/-- R151, R152, R158: words that keep slot state take one token; `VACC` adds its lanes to the accumulator and emits it, with
the slot's state fresh again, at a tag that closes its level; `VNRM.STAT` absorbs its lanes, emits mean and reciprocal
deviation at a closing tag, and raises RANGE 0x012 for a level or lane count outside its range; both pass a plain CTL token
on. -/
def Obligations.SlotStateWords : Prop := ∀ (o : FormR) (s : State) (pg pe cx n : Nat) (x : Word) (sl : Slot) (t : Tok),
  let w : Who := .elem pg pe cx n
  let ty := o.ty.toNat
  let W := tyWidth ty
  let lev := o.b.toNat
  let here := s.taken.slotOf w = some sl ∧ s.taken.headOf w (o.a.toNat - 12) = some t
  let acc (i : Instr) (ident : Nat) (count : Bool) (op : Nat → Nat → LaneRes) : Prop :=
    let same : Vec := packLanes W (List.replicate (512 / W) ident)
    let cur (j : Nat) : Nat := if sl.cnt = 0 then ident % 2 ^ W else lane W sl.acc j
    let res (j : Nat) : LaneRes := op (cur j) (lane W t.pay j)
    let ev := sumEvents (tab (512 / W) fun j => (res j).ev)
    let q : Nat := if tyFloat ty then 6 else 4
    here → Fires s i o.g w x →
      (t.tag ≠ tagCtl → ∃ v : Vec, (∀ j, j < 512 / W → lane W v j = (res j).pat % 2 ^ W) ∧ exec i s = .next (s.fired w x o.g
        (if closes t.tag lev then
          { w := q, outcome := true, ev := ev, slot := some { sl with acc := same, cnt := 0 }
            wr := writeTok o.d.toNat ⟨t.tag, if count then packLanes W (List.replicate (512 / W) (sl.cnt + 1).toNat) else v⟩ }
        else { w := q, ev := ev, slot := some { sl with acc := v, cnt := sl.cnt + 1 } }))) ∧
      (t.tag = tagCtl → t.isEmptySeg = false → exec i s = .next (s.fired w x o.g { w := q, wr := writeTok o.d.toNat t })) ∧
      (t.isEmptySeg = true → exec i s = .next (s.fired w x o.g
        (if sl.half then { w := q, wr := writeTok o.d.toNat ⟨lev, same⟩, outcome := true, slot := some { sl with half := false } }
        else { w := q, wr := writeTok o.d.toNat t, slot := some { sl with half := true }
               deq := some ((deqsOf o.g).filter fun c => c != o.a.toNat - 12) })))
  let b := (s.taken.readS w o.b.toNat).toNat
  let vl := if bits b 15 8 = 0 then 512 / W else bits b 15 8
  let badLevel := b % 8 = 0 ∨ 4 < b % 8 ∨ 512 / W < vl
  let sum : Slot :=
    { (tab vl fun j => (fmtOf ty).decode (lane W t.pay j)).foldl statLane sl with sumC := sl.sumC + vl }
  let wrong := sum.nan || sum.inf
  let mean := if wrong then fmtF32.nan (sum.sig || !sum.nan) else statMean sum (bitAt b 3)
  let eps := fmtF32.decode (bits b 63 32)
  let dev := if wrong then fmtF32.nan eps.isSig else statRsq sum (bitAt b 3) eps
  acc (.vaccSum o) 0 false (laneAdd ty) ∧ acc (.vaccMax o) (identMax ty) false (laneMm ty true false) ∧
  acc (.vaccMin o) (identMin ty) false (laneMm ty false false) ∧ acc (.vaccCnt o) 0 true (fun m _ => { pat := m }) ∧
  (here → Fires s (.vnrmStat o) o.g w x →
    (badLevel → exec (.vnrmStat o) s = .next (s.taken.raise w x { cls := clsRange, code := 0x012, opnd := b })) ∧
    (¬ badLevel → t.tag = tagCtl → exec (.vnrmStat o) s = .next (s.fired w x o.g { w := 6, wr := writeTok o.d.toNat t })) ∧
    (¬ badLevel → t.tag ≠ tagCtl → exec (.vnrmStat o) s = .next (s.fired w x o.g
      (if closes t.tag (b % 8) then
        { w := 6, outcome := true, ev := addCnts mean.ev dev.ev, slot := some sum.clearStat
          wr := writeTok o.d.toNat ⟨t.tag, packLanes 32
            [mean.pat, dev.pat, (fmtF32.ofInt .rne sum.sumC).pat, (fmtF32.ofInt .rne vl).pat]⟩ }
      else { w := 6, slot := some sum }))))

/-! ## Memory, shape and tile words -/

/-- R243, R244, R245, R247: a load, store, gather or scatter whose address is aligned and translates is handed to its unit
with its accesses planned, holding its destination; a misaligned one raises ALIGN, code 0x004. R241, R244, R247: the accesses
of a load, store, gather or scatter: one element at A + B, or 64 bytes there cut at 64-byte units, or each lane at base +
index * w/8; a store carries the low bytes of D, and `VST.MSK` only the lanes whose bit of B is set, with no access to a unit
that holds none of them. -/
def Obligations.MemoryWordsFireAndAccess : Prop :=
  (∀ (o : FormR) (s : State) (w : Who) (x : Word),
  let f : Flight := { s.jobOf w x with plan := (s.jobOf w x).makePlan }
  let held (dest : Bool) : Flight := { f with holds := f.holds ++ if dest then destHolds o.d.toNat else [] }
  ∀ p ∈ [(Instr.ldPl o, true, f.ea), (.ldAcq o, true, f.ea), (.stPl o, false, f.ea), (.stRel o, false, f.ea),
         (.vld o, true, f.ea), (.vstPl o, false, f.ea), (.vstMsk o, false, f.sa.toNat), (.vstRel o, false, f.ea),
         (.gath o, true, f.sa.toNat), (.scatSt o, false, f.sa.toNat)],
    Fires s p.1 o.g w x →
    (p.2.2 % (tyWidth o.ty.toNat / 8) ≠ 0 →
      exec p.1 s = .next (s.taken.raise w x { cls := clsAlign, code := 4, opnd := p.2.2 })) ∧
    (p.2.2 % (tyWidth o.ty.toNat / 8) = 0 →
      (∀ e, s.taken.telParts w f = some e → exec p.1 s = .next (s.taken.raise w x e)) ∧
      (s.taken.telParts w f = none →
        exec p.1 s = .next (memPost (held p.2.1) (s.handed w o.g (held p.2.1)))))) ∧
  (∀ (o : FormR) (f : Flight),
  let n := tyWidth o.ty.toNat / 8
  let at_ (j : Nat) : Nat := (f.sa.toNat + lane (tyWidth o.ty.toNat) f.vb j * n) % 2 ^ 64
  let keeps (j : Nat) : Byte := if j / n < min (512 / tyWidth o.ty.toNat) 64 ∧ f.sb.getLsbD (j / n) then 0xFF else 0
  (∀ i ∈ [Instr.ldPl o, .ldAcq o], encode i = some f.word → f.makePlan = [⟨f.ea, n, none⟩]) ∧
  (∀ i ∈ [Instr.stPl o, .stRel o], encode i = some f.word →
    f.makePlan = [⟨f.ea, n, some (leBytes n f.sd.toNat, List.replicate n 0xFF)⟩]) ∧
  (encode (.vld o) = some f.word → f.makePlan = loadParts f.ea 64) ∧
  (∀ i ∈ [Instr.vstPl o, .vstRel o], encode i = some f.word →
    f.makePlan = storeParts f.ea (vecBytes f.vd) (List.replicate 64 0xFF)) ∧
  (encode (.vstMsk o) = some f.word →
    f.makePlan = (storeParts f.sa.toNat (vecBytes f.vd) ((List.range 64).map keeps)).filter
      fun p => p.data.any fun d => d.2.any (· != 0)) ∧
  (encode (.gath o) = some f.word → f.makePlan.map (·.va) = (List.range (512 / tyWidth o.ty.toNat)).map at_ ∧
    f.makePlan.all (fun p => p.data.isNone && p.len == n) = true) ∧
  (encode (.scatSt o) = some f.word → f.makePlan.map (·.va) = (List.range (512 / tyWidth o.ty.toNat)).map at_ ∧
    f.makePlan.map (·.data) = (List.range (512 / tyWidth o.ty.toNat)).map fun j =>
      some (leBytes n (lane (tyWidth o.ty.toNat) f.vd j), List.replicate n 0xFF)) ∧
  (encode (.scatAdd o) = some f.word → f.makePlan.map (·.va) = (List.range (512 / tyWidth o.ty.toNat)).map at_))

/-- R242, R244, R247: once the last of its bytes has arrived, a load is performed: `LD` writes the value extended at TY,
`VLD` and `GATH` the bytes as a vector, with outcome nonzero; a store writes nothing back. -/
def Obligations.MemoryWordsPerform : Prop := ∀ (o : FormR) (s : State) (f : Flight),
  let done (wr : Writes) (outcome : Bool) : State := (s.accept f).perform f wr outcome false []
  f.plan.length ≤ f.stage → f.left = 0 →
  (∀ i ∈ [Instr.ldPl o, .ldAcq o], s.Performing i f →
    exec (.instructionPerformed f.fid) s = .next (done (writeS o.d.toNat f.tag (extTy o.ty.toNat (leNat f.bytes))) true)) ∧
  (∀ i ∈ [Instr.vld o, .gath o], s.Performing i f →
    exec (.instructionPerformed f.fid) s = .next (done (writeV o.d.toNat f.tag (bytesVec f.bytes)) true)) ∧
  (∀ i ∈ [Instr.stPl o, .stRel o, .vstPl o, .vstRel o, .scatSt o], s.Performing i f →
    exec (.instructionPerformed f.fid) s = .next (done Writes.none true)) ∧
  (s.Performing (.vstMsk o) f → exec (.instructionPerformed f.fid) s =
    .next (done Writes.none (f.sb.toNat % 2 ^ min (512 / tyWidth o.ty.toNat) 64 != 0)))

/-- R243, R247, R255: an atomic, `SCAT.ADD` or `TILL.APP` whose target is aligned is sent on its way to the owner; a
misaligned target raises ALIGN, code 0x005, or 0x006 for a till descriptor. -/
def Obligations.AtomicWordsFire : Prop := ∀ (o : FormR) (s : State) (w : Who) (x : Word),
  let f : Flight := { s.jobOf w x with plan := (s.jobOf w x).makePlan }
  let held (dest : Bool) : Flight := { f with holds := f.holds ++ if dest then destHolds o.d.toNat else [] }
  let n := tyWidth o.ty.toNat / 8
  let misaligned (code va : Nat) : State := s.taken.raise w x { cls := clsAlign, code := code, opnd := va }
  (∀ p ∈ [(Instr.aupdAdd o, false), (.aupdMin o, false), (.aupdMax o, false), (.aupdOr o, false), (.aupdAnd o, false),
          (.aupdXor o, false), (.aupdSwp o, false), (.afetAdd o, true), (.afetMin o, true), (.afetMax o, true),
          (.afetOr o, true), (.afetAnd o, true), (.afetXor o, true), (.afetSwp o, true), (.acas o, true), (.afadd o, true)],
    Fires s p.1 o.g w x →
    (f.sa.toNat % n ≠ 0 → exec p.1 s = .next (misaligned 5 f.sa.toNat)) ∧
    (f.sa.toNat % n = 0 →
      (∀ e, s.taken.telParts w f = some e → exec p.1 s = .next (s.taken.raise w x e)) ∧
      (s.taken.telParts w f = none →
        exec p.1 s = .next (memPost (held p.2) (s.handed w o.g (held p.2)))))) ∧
  (Fires s (.atas o) o.g w x →
    (∀ e, s.taken.telParts w f = some e → exec (.atas o) s = .next (s.taken.raise w x e)) ∧
    (s.taken.telParts w f = none → exec (.atas o) s = .next (memPost (held true) (s.handed w o.g (held true))))) ∧
  (Fires s (.scatAdd o) o.g w x →
    (f.sa.toNat % n ≠ 0 → exec (.scatAdd o) s = .next (misaligned 5 f.sa.toNat)) ∧
    (f.sa.toNat % n = 0 → exec (.scatAdd o) s = .next (memPost f (s.handed w o.g f)))) ∧
  (Fires s (.tillApp o) o.g w x →
    (f.sa.toNat % 64 ≠ 0 → exec (.tillApp o) s = .next (misaligned 6 f.sa.toNat)) ∧
    (f.sa.toNat % 64 = 0 →
      (∀ e, s.taken.telAddr w f.asid f.sa.toNat .store true = some e → exec (.tillApp o) s = .next (s.taken.raise w x e)) ∧
      (s.taken.telAddr w f.asid f.sa.toNat .store true = none → exec (.tillApp o) s = .next (memPost f (s.handed w o.g f)))))

/-- R255: the value an atomic writes to its target, from the old one: wrapped sum, minimum, maximum, or, and, exclusive or,
or B; B if the old value equals D; the bit set; the rounded sum. `ATAS` accesses the byte A + B/8. R242, R255: when its last
result or acknowledgement has come back, an atomic is performed: a fetching one writes the old value, `ATAS` the old bit,
with outcome 1; the flag says that `ACAS` swapped and that `ATAS` found the bit set. -/
def Obligations.AtomicsPerform : Prop :=
  (∀ (o : FormR) (f : Flight) (old k due back uid : Nat),
  let ty := o.ty.toNat
  let w := tyWidth ty
  let u := f.update 0 k due back uid
  let b := f.sb.toNat % 2 ^ w
  old < 2 ^ w →
  (∀ i ∈ [Instr.aupdAdd o, .afetAdd o], encode i = some f.word → u.apply old = ((old + b) % 2 ^ w, [])) ∧
  (∀ i ∈ [Instr.aupdMin o, .afetMin o], encode i = some f.word →
    u.apply old = (if readTy ty b < readTy ty old then b else old, [])) ∧
  (∀ i ∈ [Instr.aupdMax o, .afetMax o], encode i = some f.word →
    u.apply old = (if readTy ty old < readTy ty b then b else old, [])) ∧
  (∀ i ∈ [Instr.aupdOr o, .afetOr o], encode i = some f.word → u.apply old = (old ||| b, [])) ∧
  (∀ i ∈ [Instr.aupdAnd o, .afetAnd o], encode i = some f.word → u.apply old = (old &&& b, [])) ∧
  (∀ i ∈ [Instr.aupdXor o, .afetXor o], encode i = some f.word → u.apply old = (old ^^^ b, [])) ∧
  (∀ i ∈ [Instr.aupdSwp o, .afetSwp o], encode i = some f.word → u.apply old = (b, [])) ∧
  (encode (.acas o) = some f.word → u.apply old = (if old = f.sd.toNat % 2 ^ w then b else old, [])) ∧
  (encode (.afadd o) = some f.word →
    let r := (fmtOf ty).addV .rne ((fmtOf ty).decode old) ((fmtOf ty).decode b)
    u.apply old = (r.pat, r.ev)) ∧
  (encode (.atas o) = some f.word → f.target = ((f.sa.toNat + f.sb.toNat / 8) % 2 ^ 64, 1) ∧
    u.size = 1 ∧ (u.apply old).1 = old ||| 2 ^ (f.sb.toNat % 8))) ∧
  (∀ (o : FormR) (s : State) (f : Flight) (fid : Nat),
  let ty := o.ty.toNat
  let old := leNat ((alGet 0 f.got).getD [])
  let bit := old / 2 ^ (f.sb.toNat % 8) % 2
  let done (wr : Writes) (flag : Bool) : State := (s.accept f).perform f wr true flag []
  s.flight? fid = some f → f.plan.length ≤ f.stage → f.left = 0 → f.after ≤ s.fc →
  (∀ i ∈ [Instr.aupdAdd o, .aupdMin o, .aupdMax o, .aupdOr o, .aupdAnd o, .aupdXor o, .aupdSwp o, .scatAdd o, .tillApp o],
    encode i = some f.word → exec (.atomicResultReturn fid) s = .next (done Writes.none false)) ∧
  (∀ i ∈ [Instr.afetAdd o, .afetMin o, .afetMax o, .afetOr o, .afetAnd o, .afetXor o, .afetSwp o, .afadd o],
    encode i = some f.word →
      exec (.atomicResultReturn fid) s = .next (done (writeS o.d.toNat f.tag (extTy ty old)) false)) ∧
  (encode (.acas o) = some f.word → exec (.atomicResultReturn fid) s =
    .next (done (writeS o.d.toNat f.tag (extTy ty old)) (old == f.sd.toNat % 2 ^ tyWidth ty))) ∧
  (encode (.atas o) = some f.word → exec (.atomicResultReturn fid) s =
    .next (done (writeS o.d.toNat f.tag (BitVec.ofNat 64 bit)) (bit == 1))))

/-- R251, R252: the till and permit words. Each fires on a descriptor aligned to 64 bytes and reads it; once it has been
read, `POLL` and `WAIT` give TAIL - HEAD, `ADV` moves HEAD on, `GET`, in its turn among the requests that have reached the
till, moves GRANT up and gives its old value, `RET` moves it down and gives the new one. R253, R254: the event and bank
words. `POST` appends 24 bytes of D and the poster's `cid` to a queue with room; `POP`, `WAIT` and `PEEK` give the head
record, or zeros from an empty queue (`WAIT` waits). `GIVE` frees a held bank token with a tag, `TAKE` takes one free with
that tag, `QRY` gives the held banks of a vault. -/
def Obligations.TillEventAndBankWords : Prop :=
  (∀ (o : FormR) (s : State) (w : Who) (x : Word) (f : Flight) (k : Nat),
  let j := s.jobOf w x
  let held (dest : Bool) : Flight :=
    { jobHolds j (if dest then o.d.toNat else 26) s.fc with plan := recParts j.sa.toNat 64 }
  let t := s.tillAt k
  let r := f.sb.toNat
  let left : Word := BitVec.ofNat 64 (t.tail - t.head)
  let bad (code : Nat) : State := s.flightFault f { cls := clsRange, code := code, opnd := f.sa.toNat }
  let (id, v) := match f.aux.head? with
    | some id => (id, s)
    | none => ((s.newId).1, (s.newId).2.modFlight f.fid fun g => { g with aux := [(s.newId).1, k] })
  (∀ p ∈ [(Instr.tillPoll o, true), (.tillWait o, true), (.tillAdv o, false), (.prmtGet o, true), (.prmtRet o, true)],
    Fires s p.1 o.g w x →
    (j.sa.toNat % 64 ≠ 0 → exec p.1 s = .next (s.taken.raise w x { cls := clsAlign, code := 6, opnd := j.sa.toNat })) ∧
    (j.sa.toNat % 64 = 0 → s.taken.telAddr w j.asid j.sa.toNat .load false = none →
      exec p.1 s = .next (memPost (held p.2) (s.handed w o.g (held p.2))))) ∧
  (f.plan.length ≤ f.stage → f.left = 0 →
    (s.descKey f f.sa.toNat .load = .ok k →
      (s.Performing (.tillPoll o) f →
        exec (.instructionPerformed f.fid) s = .next (s.performVal f left (t.tail - t.head != 0) false)) ∧
      (s.Performing (.tillWait o) f → r ≤ t.tail - t.head →
        exec (.instructionPerformed f.fid) s = .next (s.performVal f left (t.tail - t.head != 0) false)) ∧
      (s.Performing (.tillWait o) f → t.tail - t.head < r → exec (.instructionPerformed f.fid) s = .next s)) ∧
    (s.descKey f f.sa.toNat .store = .ok k →
      (s.Performing (.tillAdv o) f → t.tail - t.head < r → exec (.instructionPerformed f.fid) s = .next (bad 0x01F)) ∧
      (∀ u, s.Performing (.tillAdv o) f → r ≤ t.tail - t.head → s.logUndo f.port f.ival k = some u →
        exec (.instructionPerformed f.fid) s = .next ((u.store (k + 0x10) (leBytes 8 (t.head + r))).perform f Writes.none (r != 0) false []).servePeers) ∧
      (∀ i ∈ [Instr.prmtGet o, .prmtRet o], s.Performing i f → r = 0 ∨ t.n < r →
        exec (.instructionPerformed f.fid) s = .next (bad 0x020)) ∧
      (s.Performing (.prmtGet o) f → 0 < r → r ≤ t.n →
        (v.permitTurn id k = false ∨ t.n < t.grant + r - t.head → exec (.instructionPerformed f.fid) s = .next v) ∧
        (∀ u, v.permitTurn id k = true → t.grant + r - t.head ≤ t.n → v.logUndo f.port f.ival k = some u →
          exec (.instructionPerformed f.fid) s = .next
            (State.performVal { u.store (k + 0x20) (leBytes 8 (t.grant + r)) with
              permits := alSet k ((alGet k u.permits).getD [] ++ [r]) u.permits } f (BitVec.ofNat 64 t.grant) true false))) ∧
      (s.Performing (.prmtRet o) f → 0 < r → r ≤ t.n →
        (t.grant - t.tail < r → exec (.instructionPerformed f.fid) s = .next (bad 0x020)) ∧
        (∀ u, r ≤ t.grant - t.tail → s.logUndo f.port f.ival k = some u → exec (.instructionPerformed f.fid) s = .next
          (State.performVal { u.store (k + 0x20) (leBytes 8 (t.grant - r)) with
            permits := alSet k (unreserve r ((alGet k u.permits).getD []).reverse).reverse u.permits }
            f (BitVec.ofNat 64 (t.grant - r)) true false).servePeers))))) ∧
  (∀ (o : FormR) (s : State) (w : Who) (x : Word) (f : Flight) (r : List Byte),
  let held (dest : Bool) : Flight := jobHolds (s.jobOf w x) (if dest then o.d.toNat else 26) (s.fc + 1)
  let d := f.sa.toNat
  let home := f.who.die
  let put (s : State) (r : List Byte) (oc : Bool) : State := s.perform f (writeV o.d.toNat f.tag (bytesVec r)) oc false []
  let die := bits d 30 28
  let bank := bits d 27 22 * 32 + bits d 10 6
  let tag := f.sb.toNat % 2 ^ 16
  let mine : Nat := (List.range 32).foldl (fun acc n =>
    if s.bankTok die (bank / 32 * 32 + n) = .held f.who.page then acc + 2 ^ n else acc) 0
  let bad (code : Nat) : State := s.flightFault f { cls := clsRange, code := code, opnd := d }
  (∀ p ∈ [(Instr.evPost o, false), (.evPop o, true), (.evWait o, true), (.evPeek o, true), (.bankGive o, false),
          (.bankTake o, false), (.bankQry o, true)],
    Fires s p.1 o.g w x → exec p.1 s = .next (jobPost (held p.2) (s.handed w o.g (held p.2)))) ∧
  (s.Performing (.evPost o) f →
    (7 < d ∨ f.vd.toNat % 2 ^ 16 < 0x100 → exec (.instructionPerformed f.fid) s = .next (bad 0x021)) ∧
    (d ≤ 7 → 0x100 ≤ f.vd.toNat % 2 ^ 16 → s.evRoom d f.ptn = true → s.evFreeIn d f.ptn = true →
      exec (.instructionPerformed f.fid) s = .next
        ((s.evPush d f.ptn ((vecBytes f.vd).take 24 ++ leBytes 8 (cidOf f.who).toNat)).perform f Writes.none true false [])) ∧
    (d ≤ 7 → 0x100 ≤ f.vd.toNat % 2 ^ 16 → s.evRoom d f.ptn = false → exec (.instructionPerformed f.fid) s = .next s)) ∧
  (s.evHead home f.ptn = some r →
    (s.Performing (.evPeek o) f → exec (.instructionPerformed f.fid) s = .next (put s r true)) ∧
    (∀ i ∈ [Instr.evPop o, .evWait o], s.Performing i f → s.evFreeOut home f.ptn = true →
      exec (.instructionPerformed f.fid) s = .next (put (s.evDrop home f.ptn) r true))) ∧
  (s.evHead home f.ptn = none →
    (∀ i ∈ [Instr.evPop o, .evPeek o], s.Performing i f → exec (.instructionPerformed f.fid) s = .next (put s [] false)) ∧
    (s.Performing (.evWait o) f → exec (.instructionPerformed f.fid) s = .next s)) ∧
  (s.Performing (.bankGive o) f →
    (s.bankTok die bank ≠ .held f.who.page → exec (.instructionPerformed f.fid) s = .next (bad 0x022)) ∧
    (s.bankTok die bank = .held f.who.page → s.bankQuiet f.who.page die bank f = true →
      exec (.instructionPerformed f.fid) s = .next ((s.setBank die bank (.free tag)).perform f Writes.none true false []))) ∧
  (s.Performing (.bankTake o) f →
    (s.bankTok die bank = .free tag → exec (.instructionPerformed f.fid) s =
      .next ((s.setBank die bank (.held f.who.page)).perform f Writes.none true false [])) ∧
    (s.bankTok die bank ≠ .free tag → exec (.instructionPerformed f.fid) s = .next s)) ∧
  (s.Performing (.bankQry o) f →
    exec (.instructionPerformed f.fid) s = .next (s.performVal f (BitVec.ofNat 64 mine) (mine != 0) false)))

/-- R256, R257: the group words. Each sets out for the entry its A names, over the links of its way, and is performed when
the answer arrives; a die above 7 has no entry, and faults at firing. At the entry `JOIN` adds a member, `LEAVE` removes one,
`ARRIVE` counts an arrival and completes the barrier with the last, `WAIT` waits for another generation, `QRY` gives the
counts; a nonmember's arrival faults. R258, R259, R260: a fence is performed when no earlier memory operation of its context
is outstanding; `QFENCE` when the commands it found in the queues of its mask are gone, a mask out of range faulting; `TCNT`
adds to, subtracts from or reads a counter of its region, `.WZ` only when it is 0. -/
def Obligations.GroupFenceAndCounterWords : Prop :=
  (∀ (o : FormR) (s : State) (w : Who) (x : Word) (f : Flight) (g : Grp) (mem : List GMem)
    (m : GMem) (b word : Nat),
  let j := s.jobOf w x
  let gdie := bits j.sa.toNat 13 10
  let out : Flight := jobHolds j o.d.toNat (s.fc + grpTime w gdie + (s.taken.grpWait w gdie).1)
  let cur := g.gen.getD b 0
  let up : Grp := { g with arr := g.arr.set b (g.arr.getD b 0 + 1) }
  let mine := mem.find? fun y => y.die = m.die ∧ y.ix = m.ix
  let op (fn : Nat) : GrpRes := g.op fn m.die m.ix b mem word none
  let arrived : List GMem := mem.map fun y => if y = m then { y with arr := y.arr.set b (some cur) } else y
  (∀ i ∈ [Instr.grpJoin o, .grpLeave o, .grpArrive o, .grpWait o, .grpBar o, .grpQry o], Fires s i o.g w x →
    (7 < gdie → exec i s = .next (s.taken.raise w x { cls := clsRange, code := 0x023, opnd := j.sa.toNat })) ∧
    (gdie ≤ 7 → exec i s = .next ((((s.handed w o.g out).grpWait w gdie).2.accept out).modDie gdie fun y => { y with groups := match alGet (bits j.sa.toNat 9 0) y.groups with
          | some e => alSet (bits j.sa.toNat 9 0) { e with q := e.q ++ [(out.fid, out.after)] } y.groups
          | none => y.groups }))) ∧
  (∀ i ∈ [Instr.grpJoin o, .grpLeave o, .grpArrive o, .grpWait o, .grpBar o, .grpQry o], s.Performing i f → f.stage = 2 →
    exec (.instructionPerformed f.fid) s = .next
      (s.performVal f (BitVec.ofNat 64 (f.aux.getD 0 0)) (f.aux.getD 0 0 != 0) (f.aux.getD 1 0 == 1))) ∧
  (mine = none →
    op 0 = (if 4 ≤ mem.length then .fault 0x024
            else .done { g with members := g.members + 1 } (mem ++ [⟨m.die, m.ix, List.replicate 4 none⟩]) (g.members + 1) false) ∧
    op 1 = .done g mem g.members true ∧ op 2 = .fault 0x023 ∧ op 4 = .fault 0x023) ∧
  (mine = some m → op 0 = .done g mem g.members true ∧
    (g.arrived m b = true → op 2 = .wait g mem none) ∧
    (g.arrived m b = false → b < g.arr.length →
      op 2 = .done (if 0 < g.members ∧ g.arr.getD b 0 + 1 = g.members then up.complete b else up) arrived cur false)) ∧
  op 3 = (if cur = word % 2 ^ 32 then .wait g mem none else .done g mem cur false) ∧
  op 5 = .done g mem (g.members + g.arr.getD b 0 % 2 ^ 16 * 2 ^ 32 + cur % 2 ^ 16 * 2 ^ 48) false) ∧
  (∀ (o : FormR) (s : State) (w : Who) (x : Word) (f : Flight),
  let j := s.jobOf w x
  let out : Flight := { j with aux := [s.taken.memBefore j], after := s.fc + 1 }
  let asks : Flight := { j with aux := s.taken.queued w j.ptn j.sa.toNat, after := s.fc + 1 }
  let cnt : Flight := jobHolds j o.d.toNat (s.fc + 1)
  let fences := [Instr.fenceCtx o, .fencePage o, .fenceRgn o, .fenceDie o, .fenceDev o, .fenceSys o]
  (∀ i ∈ fences, Fires s i o.g w x → exec i s = .next (jobPost out (s.handed w o.g out))) ∧
  (∀ i ∈ fences, s.Performing i f →
    (s.memBefore f = 0 → exec (.instructionPerformed f.fid) s = .next (s.perform f Writes.none (f.aux.headD 0 != 0) false [])) ∧
    (s.memBefore f ≠ 0 → exec (.instructionPerformed f.fid) s = .next s)) ∧
  (Fires s (.qfence o) o.g w x →
    (64 ≤ j.sa.toNat ∨ (w.isElem = false ∧ 16 ≤ j.sa.toNat) →
      exec (.qfence o) s = .next (s.taken.raise w x { cls := clsRange, code := 0x025, opnd := j.sa.toNat })) ∧
    (j.sa.toNat < 64 → w.isElem = true ∨ j.sa.toNat < 16 → exec (.qfence o) s = .next (jobPost asks (s.handed w o.g asks)))) ∧
  (s.Performing (.qfence o) f → (∀ c ∈ f.aux, c ∉ s.queued f.who f.ptn f.sa.toNat) →
    exec (.instructionPerformed f.fid) s = .next (s.perform f Writes.none (f.aux != []) false [])) ∧
  (∀ i ∈ [Instr.tcntAdd o, .tcntSub o, .tcntRd o, .tcntWz o], Fires s i o.g w x →
    (∀ rg, (s.handed w o.g cnt).tcntRegion cnt = some rg → exec i s = .next (((s.handed w o.g cnt).accept cnt).modRegion rg fun r =>
      { r with tcq := r.tcq ++ [⟨cnt.fid, cnt.after⟩] })) ∧
    ((s.handed w o.g cnt).tcntRegion cnt = none → exec i s = .next (((s.handed w o.g cnt).accept cnt).modFlight cnt.fid fun y =>
      { y with stage := 9 }))) ∧
  (∀ rg r op, s.region? rg = some r → (r.tcq.find? fun q => s.tcntReady r q) = some op → s.flight? op.fid = some f →
    let c := f.sa.toNat % 4
    let counted (v : Word) : State := (s.modRegion rg fun r => { r with tcq := r.tcq.filter fun q => q.fid != op.fid }).modRegion rg
      fun r => { r with fl := r.fl.set c v }
    let answer (v : Word) : Prop := exec (.tcntApply rg) s = .next ((counted v).performVal f v (v != 0) false)
    (encode (.tcntAdd o) = some f.word → answer (r.fl.getD c 0 + f.sb)) ∧
    (encode (.tcntSub o) = some f.word → answer (r.fl.getD c 0 - f.sb)) ∧
    (∀ i ∈ [Instr.tcntRd o, .tcntWz o], encode i = some f.word → answer (r.fl.getD c 0))))

/-- R202, R205, R164: the shape reads, on a bound register `sh` of the element's page: `SHGET` gives the selected field,
`SHSEG` the segment of a row, `SHROW` a segment's start and length, `VHEAD` ones when no row of A's tile up to A is a head.
An unbound register raises UNBOUND, and an index out of range SHIDX. -/
def Obligations.ShapeReads : Prop := ∀ (o : FormR) (s : State) (pg pe cx n : Nat) (x : Word) (sh : Shape),
  let W := Who.elem pg pe cx n
  let sel := (s.taken.readS W o.b.toNat).toNat
  let a := (s.taken.readS W o.a.toNat).toNat
  let kn := sh.known W none
  let bnd (i : Nat) : Nat := (entryOf kn i).getD 0
  let give (v : Nat) (flag : Bool) : State :=
    (s.fired W x o.g { wr := writeS o.d.toNat (s.taken.tagOf W 26 o.b.toNat) (BitVec.ofNat 64 v)
                       outcome := v != 0, flag := flag }).clearStash pg o.a.toNat W none
  let bad (f : FaultInfo) : State := (s.taken.raise W x f).clearStash pg o.a.toNat W none
  let index : FaultInfo := { cls := clsRange, code := 0x018, opnd := sel }
  let ix := bits sel 15 0
  let isHead (y : Nat) : Bool := ((segOf kn y).map fun p => p.2 == y).getD false
  let ones (one : Bool) : State :=
    (s.fired W x o.g { w := 4, wr := writeV o.d.toNat (s.taken.tagOf W o.a.toNat 26) (packLanes (tyWidth o.ty.toNat)
      (List.replicate (tyLanes o.ty.toNat) (if one then oneOf o.ty.toNat else 0))), outcome := true }).clearStash pg o.b.toNat W none
  (s.taken.shape? pg o.a.toNat = some sh →
    (sh.bound = false → ∀ i ∈ [Instr.shget o, .shseg o, .shrow o], Fires s i o.g W x →
      exec i s = .next (bad { cls := clsShape, code := 0x030 })) ∧
    (sh.bound = true →
      (Fires s (.shget o) o.g W x →
        (bits sel 19 16 = 0 → exec (.shget o) s = .next (if ix ≤ sh.hdr.segs then give (bnd ix) false else bad index)) ∧
        (∀ p ∈ [(1, sh.hdr.rows), (2, if sh.hdr.strict then 1 else 0), (3, sh.hdr.segs), (4, sh.hdr.width),
                (5, sh.hdr.pitch), (6, sh.hdr.ty), (7, sh.addr)],
          bits sel 19 16 = p.1 → exec (.shget o) s = .next (give p.2 false)) ∧
        (7 < bits sel 19 16 → exec (.shget o) s = .next (bad index))) ∧
      (Fires s (.shseg o) o.g W x →
        (sh.hdr.rows ≤ sel → exec (.shseg o) s = .next (give sh.hdr.segs false)) ∧
        (sel < sh.hdr.rows → ∀ i b, segOf kn sel = some (i, b) → exec (.shseg o) s = .next (give i (b == sel)))) ∧
      (Fires s (.shrow o) o.g W x →
        (sh.hdr.segs ≤ sel → exec (.shrow o) s = .next (bad index)) ∧
        (sel < sh.hdr.segs → exec (.shrow o) s =
          .next (give (bnd sel + (bnd (sel + 1) - bnd sel) * 2 ^ 32) (bnd (sel + 1) - bnd sel == 0)))))) ∧
  (s.taken.shape? pg o.b.toNat = some sh → sh.bound = true → Fires s (.vhead o) o.g W x →
    ((a < sh.hdr.rows ∧ ∀ i ≤ a % 16, isHead (a / 16 * 16 + i) = false) → exec (.vhead o) s = .next (ones true)) ∧
    ((sh.hdr.rows ≤ a ∨ ∃ i ≤ a % 16, isHead (a / 16 * 16 + i) = true) → exec (.vhead o) s = .next (ones false)))

/-- R203, R204, R173: the shape writes. `SHBIND` reads an aligned record; once it has been read, it binds the register to a
header and a window that keep R167, or raises BADREC with the offset of what does not. `SHSET` changes the register and owes
the record the changed fields; `SHINV` unbinds it. A refill of the register that was under way is dropped. R204: what `SHSET`
changes, by the kind in its selector, and when it may not. -/
def Obligations.ShapeWritesAndChanges : Prop :=
  (∀ (o : FormR) (s : State) (pg pe cx n : Nat) (x : Word) (f : Flight) (sh : Shape),
  let W := Who.elem pg pe cx n
  let j := s.jobOf W x
  let there : Flight := { j with port := s.taken.shapePort pg }
  let reads : Flight := { there with holds := j.holds ++ [.s o.d.toNat], plan := recParts j.sa.toNat (s.taken.recLength there) }
  let soon : Flight := { j with holds := j.holds ++ [.s o.d.toNat], after := s.fc + 1 }
  let sx := o.d.toNat
  let at_ := f.who.page
  (Fires s (.shbind o) o.g W x →
    (j.sa.toNat % 32 ≠ 0 →
      exec (.shbind o) s = .next (s.taken.raise W x { cls := clsAlign, code := 2, opnd := j.sa.toNat })) ∧
    (j.sa.toNat % 32 = 0 → exec (.shbind o) s = .next ((s.handed W o.g reads).shbindAsk reads))) ∧
  (Fires s (.shinv o) o.g W x → exec (.shinv o) s = .next (s.handed W o.g soon)) ∧
  (s.taken.shape? pg sx = some sh → Fires s (.shset o) o.g W x →
    (sh.bound = false → exec (.shset o) s = .next (s.taken.raise W x { cls := clsShape, code := 0x030 })) ∧
    (sh.bound = true →
      (∀ e, shChange sh (sh.known W none) j.sa.toNat j.sb.toNat = .error e →
        exec (.shset o) s = .next (s.taken.raise W x e)) ∧
      (∀ c, shChange sh (sh.known W none) j.sa.toNat j.sb.toNat = .ok c → exec (.shset o) s = .next (s.handed W o.g soon)))) ∧
  (s.Performing (.shbind o) f → f.plan.length ≤ f.stage → f.left = 0 →
    let hdr := hdrOf f.bytes
    let need := 32 + 4 * min 64 (hdr.segs + 1)
    let table := bndOf ((f.bytes.take need).drop 32)
    let refused (off : Nat) : State := s.flightFault f { cls := clsShape, code := 0x031, detail := off, opnd := f.sa.toNat }
    (∀ off, hdrBad f.bytes = some off → exec (.instructionPerformed f.fid) s = .next (refused off)) ∧
    (hdrBad f.bytes = none → f.bytes.length < need → exec (.instructionPerformed f.fid) s = .next (s.modFlight f.fid fun f =>
      { f with plan := f.plan ++ recParts (f.sa.toNat + f.bytes.length) (need - f.bytes.length) })) ∧
    (∀ off, hdrBad f.bytes = none → need ≤ f.bytes.length → bndBad hdr 0 table none none = some off →
      exec (.instructionPerformed f.fid) s = .next (refused off)) ∧
    (hdrBad f.bytes = none → need ≤ f.bytes.length → bndBad hdr 0 table none none = none →
      exec (.instructionPerformed f.fid) s = .next (((s.dropRefill at_ sx).modShape at_ sx fun old =>
        { bound := true, addr := f.sa.toNat, hdr := hdr, win := 0, bnd := table, refill := none, stash := []
          through := old.through }).perform f Writes.none true false []))) ∧
  (∀ c, s.Performing (.shset o) f → s.shape? at_ sx = some sh →
    shChange sh (sh.known f.who none) f.sa.toNat f.sb.toNat = .ok c →
      let (owed, t) := throughs f sh.addr (s.fc + 1) c.thru s
      (owed.map fun y => (y.va, y.size, y.val, y.due, y.sent)) = (c.thru.map fun y => (sh.addr + y.1, y.2.1, y.2.2, s.fc + 1, false)) ∧
      exec (.instructionPerformed f.fid) s = .next (((t.dropRefill at_ sx).modShape at_ sx fun sh => { sh with
        hdr := c.hdr, bnd := setEntries sh.win sh.bnd c.ents, stash := [], refill := none
        through := sh.through ++ owed }).perform f Writes.none true false [])) ∧
  (s.Performing (.shinv o) f → s.shape? at_ sx = some sh → exec (.instructionPerformed f.fid) s =
    .next (((s.dropRefill at_ sx).modShape at_ sx fun sh => { sh with bound := false, stash := [] }).perform f
      Writes.none sh.bound false []))) ∧
  (∀ (sh : Shape) (kn : List (Nat × Nat)) (sel v : Nat),
  let h := sh.hdr
  let ix := bits sel 15 0
  let kind := bits sel 19 16
  let bnd (i : Nat) : Nat := (entryOf kn i).getD 0
  let refused : FaultInfo := { cls := clsShape, code := 0x031, opnd := v }
  let index : FaultInfo := { cls := clsRange, code := 0x018, opnd := sel }
  let r := shChange sh kn sel v
  (kind = 0 → (ix = 0 ∨ h.segs ≤ ix) → r = .error index) ∧
  (kind = 0 → 0 < ix → ix < h.segs → r = if bnd (ix - 1) ≤ v ∧ v ≤ bnd (ix + 1)
    then .ok ⟨h, [(ix, v)], [(0x20 + 4 * ix, 4, v)], 1⟩ else .error refused) ∧
  (kind = 1 → r = if bnd (h.segs - 1) ≤ v ∧ v ≤ 2 ^ 20
    then .ok ⟨{ h with rows := v }, [(h.segs, v)], [(0xC, 4, v), (0x20 + 4 * h.segs, 4, v)], 2⟩ else .error refused) ∧
  (kind = 2 → r = .ok ⟨{ h with strict := v.testBit 0 }, [], [(3, 1, v % 2)], 1⟩) ∧
  (kind = 3 → r = if h.rows ≤ v ∧ v ≤ 2 ^ 20 ∧ h.segs + 1 ≤ 4096
    then .ok ⟨{ h with segs := h.segs + 1, rows := v }, [(h.segs + 1, v)],
      [(0x10, 4, h.segs + 1), (0x20 + 4 * (h.segs + 1), 4, v), (0xC, 4, v)], 3⟩ else .error refused) ∧
  (3 < kind → r = .error index))

/-- R187, R189: a tile word fires into the queue of the tenant its slot drives, with the next QSEQ, holding what it writes. A
ragged `MMA` captures its shape, `ZWAIT` the entries ahead of it. A shadow that the tenant has taken and its driver has not
gets the entry too, which is the model's choice (log 118). -/
def Obligations.TileWordsEnter : Prop := ∀ (o : FormR) (s : State) (w : Who) (x : Word),
  let j := s.jobOf w x
  let held (h : List Res) : Flight := { j with holds := j.holds ++ h }
  let ahead : Nat := ((s.taken.tenDriven w).bind fun i => (s.taken.ten? w.page i).map fun t => t.q.length).getD 0
  let z := [Res.z o.d.toNat]
  let dst := destHolds o.d.toNat
  ∀ p ∈ [(Instr.zcfgTy o, held z), (.zcfgRow o, held z), (.zcfgCol o, held z), (.zcfgAll o, held z), (.zrd o, held dst),
         (.zld o, held z), (.zst o, held []), (.zfillZero o, held z), (.zfillOnes o, held z), (.zfillIden o, held z),
         (.zfillTril o, held z), (.zfillTrls o, held z), (.zfillTriu o, held z), (.zfillBcst o, held z), (.zwld o, held []),
         (.mmaD o, held z), (.mmaDt o, held z), (.mmaR o, captureShape o.b.toNat s.taken (held z)),
         (.mmaRt o, captureShape o.b.toNat s.taken (held z)), (.ztrn o, held z), (.zaddAdd o, held z), (.zaddScl o, held z),
         (.zcvt o, held z), (.zarm o, held []), (.zsplit o, held []), (.zstat o, held dst),
         (.zwait o, { held [] with aux := [ahead] }), (.zmovTov o, held dst), (.zmovFrv o, held z)],
    Fires s p.1 o.g w x →
    exec p.1 s = .next ((s.handed w o.g p.2).enqueue p.2) ∧
    (∀ i, (s.handed w o.g p.2).tenDriven w = some i →
      (s.handed w o.g p.2).enqueue p.2 = (s.handed w o.g p.2).modTen w.page i fun t =>
        let ent : ZEnt := ⟨t.qseq + 1, p.2.fid, if t.q = [] then s.fc + tileTime x - 1 else 0⟩
        { t with qseq := t.qseq + 1
                 q := t.q ++ [ent]
                 shadows := t.shadows.map fun sh =>
                   if p.2.ival < sh.ival then { sh with q := sh.q ++ [ent], flights := sh.flights ++ [p.2] } else sh })

/-- R190, R194, R195, R197-R201: a tile word at the head of its queue is performed: the tile register or the array it writes,
its outcome, and its fault. -/
def Obligations.TileWordsPerform : Prop := ∀ (o : FormR) (s : State) (pg ten : Nat) (p : Page) (t : Tenant) (f : Flight),
  let step := exec (.tileQueuePerform pg ten) s
  let D := o.d.toNat
  let A := p.tile ten o.a.toNat
  let B := p.tile ten o.b.toNat
  let ty := o.ty.toNat
  let put (z : Nat) (d : ZDesc) (v : Nat → Nat → Nat) (oc : Bool) : Prop :=
    step = .next ((s.modPage pg fun p => p.setTile ten z d v).tileDone pg ten f Writes.none oc false [])
  let stop (e : FaultInfo) : Prop := step = .next (s.tenFault f e)
  let dim (v : Nat) : FaultInfo := { cls := clsRange, code := 0x015, opnd := v }
  let bad (v : Nat) : FaultInfo := { cls := clsFmt, code := 4, opnd := v }
  let one := oneOf ty
  s.AtHead pg ten p t f →
  (∀ q ∈ [(Instr.zfillZero o, fun (_ _ : Nat) => 0), (.zfillOnes o, fun _ _ => one),
          (.zfillIden o, fun i k => if k = i then one else 0), (.zfillTril o, fun i k => if k ≤ i then one else 0),
          (.zfillTrls o, fun i k => if k < i then one else 0), (.zfillTriu o, fun i k => if i ≤ k then one else 0),
          (.zfillBcst o, fun _ _ => f.sa.toNat)],
    encode q.1 = some f.word → put D ⟨ty, 0, p.tenRows ten, 16, 2⟩ q.2 true) ∧
  (∀ q ∈ [(Instr.zcfgTy o, true, false, false), (.zcfgRow o, false, true, false), (.zcfgCol o, false, false, true),
          (.zcfgAll o, true, true, true)],
    encode q.1 = some f.word →
    let old := (p.tile ten D).desc
    let a := f.sa.toNat
    let d : ZDesc := ⟨if q.2.1 then ty else old.ty, if q.2.1 then (if ty = 12 then bits a 21 16 else 0) else old.pln,
                      if q.2.2.1 then bits a 4 0 else old.rows, if q.2.2.2 then bits a 12 8 else old.cols, old.ct⟩
    if d.rows ≤ p.tenRows ten ∧ d.cols ≤ 16 ∧ (d.ty = 12 → 2 ≤ d.pln ∧ d.pln ≤ 8)
    then put D d (p.tile ten D).at (d.rows * d.cols != 0) else stop (dim a)) ∧
  (encode (.ztrn o) = some f.word →
    (A.desc.cols ≤ p.tenRows ten →
      put D { A.desc with rows := A.desc.cols, cols := A.desc.rows } (fun i k => A.at k i) (A.desc.cols * A.desc.rows != 0)) ∧
    (p.tenRows ten < A.desc.cols → stop (dim A.desc.cols))) ∧
  (∀ i ∈ [Instr.zaddAdd o, .zaddScl o], encode i = some f.word → A.desc.ty ≠ ty → stop (bad A.desc.ty)) ∧
  (encode (.zaddAdd o) = some f.word → A.desc.ty = ty →
    (B.desc.ty ≠ ty → stop (bad B.desc.ty)) ∧
    (B.desc.ty = ty → (A.desc.rows ≠ B.desc.rows ∨ A.desc.cols ≠ B.desc.cols) → stop (dim B.desc.rows)) ∧
    (B.desc.ty = ty → A.desc.rows = B.desc.rows → A.desc.cols = B.desc.cols → step = .next
      (s.tileRes pg ten f (.ok (gridRes D A.desc fun i k => laneAdd ty (A.at i k) (B.at i k)))))) ∧
  (encode (.zaddScl o) = some f.word → A.desc.ty = ty → step = .next
    (s.tileRes pg ten f (.ok (gridRes D A.desc fun i k => laneMul ty (A.at i k) (f.sb.toNat % 2 ^ tyWidth ty))))) ∧
  (encode (.zcvt o) = some f.word → o.b.toNat = 26 → step = .next
    (s.tileRes pg ten f (.ok (gridRes D { A.desc with ty := ty, pln := 0 } fun i k =>
      let r := convert .rne (if A.desc.ty = 12 then 0 else A.desc.ty) ty (A.at i k) false
      { pat := r.pat, ev := r.ev })))) ∧
  (encode (.zarm o) = some f.word →
    let a := f.sa.toNat % 2 ^ 32
    step = .next ((s.modTen pg ten fun t => { t with left := some (min (t.left.getD 0 + a) (2 ^ 32 - 1)) }).tileDone pg ten f
      Writes.none (a != 0) false [])) ∧
  (encode (.zstat o) = some f.word → step = .next
    (s.tileDone pg ten f (writeS D tagData (BitVec.ofNat 64 (zstat t o.a.toNat))) (zstat t o.a.toNat != 0) false [])) ∧
  (encode (.zwait o) = some f.word → step = .next (s.tileDone pg ten f Writes.none (f.aux.headD 0 != 0) false [])) ∧
  (encode (.zmovTov o) = some f.word →
    let row := f.sb.toNat % 32
    let (off, n) := zmovCols A.desc f.sb.toNat
    (A.desc.ty ≠ ty → stop (bad A.desc.ty)) ∧
    (A.desc.ty = ty → A.desc.rows ≤ row → stop (dim f.sb.toNat)) ∧
    (A.desc.ty = ty → row < A.desc.rows → step = .next (s.tileDone pg ten f
      (writeV D tagData (packLanes (cellW A.desc.ty) ((List.range n).map fun j => A.at row (off + j)))) (n != 0) false []))) ∧
  (encode (.zmovFrv o) = some f.word →
    let old := p.tile ten D
    let row := f.sb.toNat % 32
    let (off, n) := zmovCols old.desc f.sb.toNat
    (old.desc.ty ≠ ty → stop (bad old.desc.ty)) ∧
    (old.desc.ty = ty → old.desc.rows ≤ row → stop (dim f.sb.toNat)) ∧
    (old.desc.ty = ty → row < old.desc.rows → put D old.desc (fun i k =>
      if i = row ∧ off ≤ k ∧ k < off + n then lane (cellW old.desc.ty) f.va (k - off) else old.at i k) (n != 0)))

/-- R178, R179, R186: a tile register that has been written reads back, in its tenant, as the descriptor and the elements
written, every element outside the shape reading zero; every other register reads as before. -/
def Obligations.TileReadsBack : Prop := ∀ (p : Page) (ten z y : Nat) (d : ZDesc) (f : Nat → Nat → Nat) (i k : Nat),
  p.mtx.cells.length = 2048 → p.mtx.tens.length = 2 → (∀ t ∈ p.mtx.tens, t.desc.length = 8) → p.mtx.r0 ≤ 16 →
  ten < 2 → z < 8 → y < 8 → y ≠ z → d.rows ≤ p.tenRows ten → d.cols ≤ 16 →
  let q := p.setTile ten z d f
  (q.tile ten z).desc = d ∧
  (q.tile ten z).at i k = (if i < d.rows ∧ k < d.cols then f i k % 2 ^ cellW d.ty else 0) ∧
  q.tile ten y = p.tile ten y ∧ q.tile (1 - ten) z = p.tile (1 - ten) z

/-- R246, R249, R250: the stream words. `SOPEN` reads a descriptor and arms a free stream from it where it keeps R221, a
shaped one once its header has been read too; `SCTL` closes, rewinds or skips an open one; `PREF` asks for a translation
through its port and never faults; `XFORM` reads and installs a transform, and rows read ahead under the old one are read
again. -/
def Obligations.StreamWords : Prop := ∀ (o : FormR) (s : State) (w : Who) (x : Word) (f : Flight) (p : Page) (me : Me)
    (m : Stream),
  let j := s.jobOf w x
  let reads : Flight := { j with plan := recParts j.sa.toNat 128 }
  let soon : Flight := jobHolds j 26 (s.fc + 1)
  let pref : Flight := if s.taken.held j then { j with after := s.fc + 2, aux := [1] } else j
  let pg := f.who.page
  let si := o.d.toNat
  let rows := (m.desc.eff m.cap (m.desc.xf me)).rows
  let left := rows - m.cur.row
  let desc : FaultInfo := { cls := clsRange, code := 0x01C, opnd := f.sa.toNat }
  let step := exec (.instructionPerformed f.fid) s
  let read : Prop := f.plan.length ≤ f.stage ∧ f.left = 0
  let d := sdescOf f.bytes
  let arm (u : State) (d : SDesc) (cap : Option ShapeHdr) : Prop :=
    (d.bad (d.eff cap (d.xf me)) (d.xf me) (p.streamNet si) = true → step = .next (u.flightFault f desc)) ∧
    (d.bad (d.eff cap (d.xf me)) (d.xf me) (p.streamNet si) = false → step = .next
      ((u.modStream pg si fun m => { m with valid := true }).perform f Writes.none ((d.eff cap (d.xf me)).rows != 0) false []))
  let skip := min f.sa.toNat left
  let moved (c : Cursor) (fresh : Bool) : State := (if fresh then s.dropAux pg si else s).modStream pg si fun m =>
    { m with cur := c, ask := c, buf := [], todo := if m.desc.isStore then m.todo else [], eos := m.eos && m.desc.isStore
             win := if fresh then [] else m.win, dec := if fresh then none else m.dec, pat := (0, 0) }
  (∀ i ∈ [Instr.sopen o, .xform o], Fires s i o.g w x → exec i s = .next (memPost reads (s.handed w o.g reads))) ∧
  (∀ i ∈ [Instr.sctlClose o, .sctlRewind o, .sctlSkip o], Fires s i o.g w x → exec i s = .next (jobPost soon (s.handed w o.g soon))) ∧
  (Fires s (.pref o) o.g w x → exec (.pref o) s = .next (((s.handed w o.g pref).prefAsk pref).accept pref)) ∧
  (s.page? pg = some p → s.me? pg (si / 4) = some me → s.stream? pg si = some m →
    (s.Performing (.sopen o) f →
      (f.aux ≠ [1] → m.valid = true → step = .next (s.flightFault f { cls := clsRange, code := 0x01D, opnd := si })) ∧
      (f.aux ≠ [1] → m.valid = false → read →
        let u := (s.dropAux pg si).modStream pg si fun m => m.opened d false
        (d.shape = 0 → arm u d none) ∧
        (d.shape ≠ 0 → step = .next (((u.modFlight f.fid fun f => { f with aux := [1] }).modStream pg si fun m =>
          { m with hdrAt := some 0 }).askHeader pg si { m with desc := d }))) ∧
      (f.aux = [1] → (m.cap.isSome = true → arm s m.desc m.cap) ∧ (m.cap = none → step = .next s))) ∧
    (∀ i ∈ [Instr.sctlClose o, .sctlRewind o, .sctlSkip o], s.Performing i f → m.valid = false →
      step = .next (s.flightFault f { cls := clsRange, code := 0x01C, opnd := si })) ∧
    (m.valid = true →
      (s.Performing (.sctlClose o) f → step = .next ((s.modStream pg si fun m =>
        { m with valid := false, eos := true, buf := [], todo := if m.desc.isStore then m.todo else []
                 desc := { m.desc with flags := m.desc.flags / 2 * 2 }, reported := m.reported || m.sink }).perform f
          Writes.none (left != 0) false [])) ∧
      (s.Performing (.sctlRewind o) f → step = .next
        ((moved { m.cur with row := 0, back := none, hdr := false } true).perform f Writes.none (rows != 0) false [])) ∧
      (s.Performing (.sctlSkip o) f → step = .next
        ((moved { m.cur with row := m.cur.row + skip, back := if skip = 0 then m.cur.back else none
                             hdr := m.cur.hdr && (m.cur.row + skip) / m.desc.tile == m.cur.row / m.desc.tile } false).perform f
          Writes.none (left - skip != 0) false [])))) ∧
  (s.Performing (.pref o) f →
    (∀ v l, f.aux = v :: l → step = .next (s.perform f Writes.none (v == 1) false [])) ∧
    (f.aux = [] → step = .next (if f.stage = 0 then s.prefAsk f else s))) ∧
  (s.Performing (.xform o) f → s.me? pg (si / 2) = some me →
    let store := si % 2 == 1
    let t := xfOf f.bytes
    let ahead (m : Stream) : Bool := m.desc.flags.testBit 2 && !m.desc.isStore && !store
    let u := (List.range 4).foldl (fun s i =>
      if ((me.streams[i]?).map ahead).getD false then s.dropStr pg (si / 2 * 4 + i) else s) s
    ((∃ m ∈ me.streams, m.valid = true ∧ m.desc.isStore = true ∧ store = true ∧ m.todo ≠ []) → step = .next s) ∧
    ((∀ m ∈ me.streams, m.valid = true → m.desc.isStore = true → store = true → m.todo = []) → read →
      (xfBad t store = true → step = .next (s.flightFault f desc)) ∧
      (xfBad t store = false → step = .next ((u.modMe pg (si / 2) fun m =>
        { m with rd := if store then m.rd else t, wr := if store then t else m.wr
                 streams := m.streams.map fun m =>
                   let m := if m.desc.isStore == store then { m with pat := (0, 0) } else m
                   if ahead m then { m with buf := [], todo := [], ask := m.cur, dec := none } else m }).perform f
          Writes.none true false []))))

/-- R248: `LDR` fires on a shape it captures, whose TY is the word's and whose rows fit 512 bits. With no rows it emits a
header with TROWS 0, an empty companion for each segment, and a zero token tagged EOS; a row is emitted when its bytes have
come. -/
def Obligations.RaggedLoad : Prop := ∀ (o : FormR) (s : State) (w : Who) (x : Word) (h : ShapeHdr) (addr win : Nat)
    (bnd : List Nat) (f : Flight) (kn : List (Nat × Nat)) (k : Nat),
  let c := captureShape o.b.toNat s.taken (s.jobOf w x)
  let ew := tyWidth o.ty.toNat
  let run : Flight := { c with holds := c.holds ++ destHolds o.d.toNat, aux := [0, 0, 0, 0], after := s.fc + 1 }
  let at_ (row seg : Nat) (hdr : Bool) : LdrAt := ⟨row, f.aux.getD 1 0, hdr, seg⟩
  (Fires s (.ldr o) o.g w x →
    (c.cap = none → exec (.ldr o) s = .next (s.taken.raise w x { cls := clsShape, code := 0x030 })) ∧
    (c.cap = some (h, addr, win, bnd) →
      (h.ty ≠ o.ty.toNat → exec (.ldr o) s = .next (s.taken.raise w x { cls := clsFmt, code := 5, opnd := h.ty })) ∧
      (h.ty = o.ty.toNat →
        (512 < h.width * ew → exec (.ldr o) s = .next (s.taken.raise w x { cls := clsRange, code := 0x01C, opnd := h.width })) ∧
        (h.width * ew ≤ 512 → c.sa.toNat % (ew / 8) ≠ 0 →
          exec (.ldr o) s = .next (s.taken.raise w x { cls := clsAlign, code := 4, opnd := c.sa.toNat })) ∧
        (h.width * ew ≤ 512 → c.sa.toNat % (ew / 8) = 0 → exec (.ldr o) s = .next (jobPost run (s.handed w o.g run)))))) ∧
  (f.ldrAt.hdr = false → f.ldrAt.row = 0 → h.rows = 0 →
    ldrToken f h kn = some (headerTok 2 h.strict none 0 h.ty 0 h.width, { f.ldrAt with hdr := true }, false)) ∧
  (f.ldrAt.hdr = true → f.ldrAt.row = 0 → h.rows = 0 → (∀ i, (entryOf kn i).getD 0 = 0) →
    (f.ldrAt.seg < h.segs →
      ldrToken f h kn = some (companion true f.ldrAt.seg 0, { f.ldrAt with seg := f.ldrAt.seg + 1 }, false)) ∧
    (h.segs ≤ f.ldrAt.seg → ldrToken f h kn = some (⟨tagEos, 0⟩, f.ldrAt, true))) ∧
  (f.ldrAt = at_ k h.segs true → k < h.rows →
    (∀ i < (ldrParts h f.sa.toNat k).length, ∃ b, alGet (k * 4 + i) f.got = some b ∧ b ≠ []) →
    let n := leNat ((List.range (ldrParts h f.sa.toNat k).length).map fun i => (alGet (k * 4 + i) f.got).getD []).flatten
    let closes := decide (k + 1 = min h.rows ((k / 16 + 1) * 16))
    ldrToken f h kn = some
      (⟨if h.rows ≤ k + 1 then tagEos else if closes then tagEot else tagEor,
        packLanes (tyWidth h.ty) ((List.range h.width).map fun j => n / 2 ^ (tyWidth h.ty * j) % 2 ^ tyWidth h.ty)⟩,
       at_ (k + 1) h.segs (!closes), decide (h.rows ≤ k + 1)))

/-! ## Words of the other units -/

/-- R294: an assay word whose operands are aligned sets out for the home die of its tree; the die's assay unit performs the
operation that has waited longest as one indivisible step, writing its result back, or raises its fault. -/
def Obligations.AssayWords : Prop := ∀ (o : FormR) (s : State) (w : Who) (x : Word),
  let j := s.jobOf w x
  let out : Flight := { j with holds := j.holds ++ destHolds o.d.toNat }
  let u := s.handed w o.g out
  let home := u.assayHome out
  let arrives := s.fc + 28 * linkHops w.access.1 w.access.2.1 home.1
  let bad (v : Nat) : FaultInfo := { cls := clsAlign, code := 7, opnd := v }
  (∀ p ∈ [(Instr.smIns o, true), (.smSeal o, false), (.smMrg o, false), (.smSpl o, false), (.smFork o, false), (.smEvct o, false),
          (.smFree o, false), (.smbnd o, false), (.smdsc o, false), (.smaccNode o, false), (.smaccLeaf o, false),
          (.smaccFin o, false)],
    Fires s p.1 o.g w x →
    (j.sa.toNat % 64 ≠ 0 → exec p.1 s = .next (s.taken.raise w x (bad j.sa.toNat))) ∧
    (j.sa.toNat % 64 = 0 → p.2 = true → j.sb.toNat % 2 ≠ 0 → exec p.1 s = .next (s.taken.raise w x (bad j.sa.toNat))) ∧
    (j.sa.toNat % 64 = 0 → (p.2 = true → j.sb.toNat % 2 = 0) → ∃ (v : State) (done : Nat),
      exec p.1 s = .next ((v.modFlight out.fid fun f => { f with after := done }).modDie home.1 fun d =>
        { d with assay := assayIn ⟨out.fid, arrives⟩ d.assay }) ∧ arrives ≤ done ∧ v = { u with free := v.free, links := v.links })) ∧
  (∀ (die : Nat) (q : Assay) (rest : List Assay) (f : Flight),
    (s.die die).assay = q :: rest → s.flight? q.fid = some f → f.after ≤ s.fc → s.mayIssue f = true →
    let pop (t : State) : State := t.modDie die fun d => { d with assay := rest }
    (∀ wr oc a, (assayOp f).run ⟨s, [], 0, []⟩ = .ok ((wr, oc), a) →
      exec (.assayOperation die) s = .next ((pop a.s).perform f wr oc false a.ev)) ∧
    (∀ e, (assayOp f).run ⟨s, [], 0, []⟩ = .error (.fault e) → exec (.assayOperation die) s = .next ((pop s).assayFault f e)))

/-- R354-R357: the shift-add words. `AG.LOAD` places a graph whose node words keep R343 and R344, `AG.BIND` binds its lanes,
`AG.UNLD` removes it once its pipeline is empty, `AG.QRY` reads its state; a handle of no graph raises AGHANDLE. -/
def Obligations.ShiftAddWords : Prop := ∀ (o : FormR) (s : State) (w : Who) (x : Word) (f : Flight) (p : Page) (g : Graph),
  let j := s.jobOf w x
  let n := j.sb.toNat
  let reads (va k : Nat) : Flight := { j with plan := recParts va k, holds := j.holds ++ destHolds o.d.toNat }
  let loads := reads j.sa.toNat (8 * n)
  let known := s.taken.mayIssue loads && loads.plan.all fun q => s.taken.inTurn loads q.va q.len
  let soon : Flight := jobHolds j o.d.toNat (s.fc + 1)
  let lanes := safLanes (((s.taken.page? w.page).map (·.kind)).getD 0)
  let go (i : Instr) (q : Flight) : Prop := exec i s = .next (memPost q (s.handed w o.g q))
  let stop (i : Instr) (e : FaultInfo) : Prop := exec i s = .next (s.taken.raise w x e)
  let pg := f.who.page
  let h := f.sa.toNat
  let read : Prop := f.plan.length ≤ f.stage ∧ f.left = 0
  let graph := recWords f.bytes
  let step := exec (.instructionPerformed f.fid) s
  let noGraph : FaultInfo := { cls := clsRange, code := 0x02A, opnd := h }
  (Fires s (.agLoad o) o.g w x →
    (n = 0 ∨ 256 < n → stop (.agLoad o) { cls := clsRange, code := 0x02A, opnd := n }) ∧
    (0 < n → n ≤ 256 →
      (j.sa.toNat % 8 ≠ 0 → stop (.agLoad o) { cls := clsAlign, code := 8, opnd := j.sa.toNat }) ∧
      (j.sa.toNat % 8 = 0 →
        (∀ bs t, s.taken.readRec w.port.die j.asid j.tt j.sa.toNat (8 * n) = .ok (bs, t) →
          (∀ e, known = true → graphFault (recWords bs) lanes = some e → stop (.agLoad o) e) ∧
          (known = false ∨ graphFault (recWords bs) lanes = none → go (.agLoad o) loads)) ∧
        (∀ e, s.taken.readRec w.port.die j.asid j.tt j.sa.toNat (8 * n) = .error e → go (.agLoad o) loads)))) ∧
  (Fires s (.agBind o) o.g w x →
    (j.sb.toNat % 32 ≠ 0 → stop (.agBind o) { cls := clsAlign, code := 8, opnd := j.sb.toNat }) ∧
    (j.sb.toNat % 32 = 0 → go (.agBind o) (reads j.sb.toNat 32))) ∧
  (∀ i ∈ [Instr.agUnld o, .agQry o], Fires s i o.g w x → exec i s = .next (jobPost soon (s.handed w o.g soon))) ∧
  (s.page? pg = some p → s.agTurn f = true →
    (s.Performing (.agLoad o) f → read →
      (f.aux = [] → step = .next (s.modFlight f.fid fun f => { f with aux := [1], after := s.fc + (f.sb.toNat + 15) / 16 })) ∧
      (f.aux ≠ [] →
        (∀ e, graphFault graph (safLanes p.kind) = some e → step = .next (s.flightFault f e)) ∧
        (∀ e, graphFault graph (safLanes p.kind) = none → p.saf.place p.kind graph none = .error e →
          step = .next (s.flightFault f e)) ∧
        (∀ at_ saf, graphFault graph (safLanes p.kind) = none → p.saf.place p.kind graph none = .ok (at_, saf) →
          step = .next ((s.modPage pg fun p => { p with saf := saf }).performVal f (BitVec.ofNat 64 at_) true false)))) ∧
    ((∀ g ∈ p.saf.graphs, g.handle ≠ h) →
      (s.Performing (.agUnld o) f → step = .next (s.flightFault f noGraph)) ∧
      (s.Performing (.agBind o) f → read → step = .next (s.flightFault f noGraph))) ∧
    ((p.saf.graphs.find? fun g => g.handle = h) = some g → g.pipe = [] →
      (s.Performing (.agUnld o) f → step = .next ((s.modPage pg fun p => { p with saf := { p.saf with
        graphs := p.saf.graphs.filter fun g => g.handle != h } }).performVal f (BitVec.ofNat 64 g.words.length) true false)) ∧
      (s.Performing (.agBind o) f → read →
        let inb := (f.bytes.take 16).map (·.toNat)
        let outb := (f.bytes.drop 16).map (·.toNat)
        let k := ((inb ++ outb).filter bindV).length
        p.bindFault g inb outb = none → step = .next ((s.modGraph pg h fun g =>
          { g with inb := inb, outb := outb, bound := (inb ++ outb).any bindV, unloading := false }).performVal f (BitVec.ofNat 64 k) (k != 0) g.bound))) ∧
    (s.Performing (.agQry o) f →
      (256 < h → step = .next (s.flightFault f noGraph)) ∧
      (h ≤ 256 → step = .next (s.performVal f (BitVec.ofNat 64 (agQry p h)) (agQry p h != 0) false))))

/-- R353, R358-R361: the task words. Each reaches its die's scheduler, `LNCH` once everything its context did before is
performed, and is served in its turn; it is answered with a status in bits 63-56 and, where it was accepted, the handle
below: `LNCH` reads and checks a record that needs a place in its queue, `SEQ` and `PRIO` a live task; `CNCL` marks a group,
`QRY` reads a task's state. -/
def Obligations.TaskWords : Prop := ∀ (o : FormR) (s : State) (w : Who) (x : Word) (f g : Flight) (k : Task),
  let j := s.jobOf w x
  let soon : Flight := jobHolds j o.d.toNat (s.fc + 1)
  let reads : Flight := { soon with plan := recParts j.sa.toNat 64 }
  let step := exec (.instructionPerformed f.fid) s
  let v := s.taskArrive f
  let answer (t : State) (st h : Nat) : State :=
    t.performVal g (BitVec.ofNat 64 (st * 2 ^ 56 + (if st = 0 then h else 0) % 2 ^ 56)) (st == 0) (st != 0)
  let b := f.sb.toNat
  (Fires s (.taskLnch o) o.g w x →
    (j.sa.toNat % 64 ≠ 0 → exec (.taskLnch o) s = .next (s.taken.raise w x { cls := clsAlign, code := 8, opnd := j.sa.toNat })) ∧
    (j.sa.toNat % 64 = 0 → s.taken.telAddr w j.asid j.sa.toNat .load false = none →
      exec (.taskLnch o) s = .next (jobPost reads (s.handed w o.g reads)))) ∧
  (∀ i ∈ [Instr.taskSeq o, .taskCncl o, .taskQry o, .taskPrio o], Fires s i o.g w x →
    exec i s = .next (jobPost soon (s.handed w o.g soon))) ∧
  (f.aux = [] → (fnOf f.word = 0 → s.mayIssue f = true) →
    v = (s.newId).2.modFlight f.fid fun f => { f with aux := [(s.newId).1] }) ∧
  (v.flight? f.fid = some g →
    (∀ i ∈ [Instr.taskLnch o, .taskSeq o, .taskCncl o, .taskQry o, .taskPrio o], s.Performing i f → v.taskTurn g = false →
      step = .next v) ∧
    (v.taskTurn g = true →
      (s.Performing (.taskLnch o) f → g.plan.length ≤ g.stage → g.left = 0 →
        let st := v.lnchStatus g.who.port.die g.ptn (if recNat g.bytes 0x20 2 = 0 then g.asid else recNat g.bytes 0x20 2) g.bytes
        (st.1 ≠ 0 → step = .next (answer v st.1 0)) ∧
        (∀ l q, st = (0, some l) → v.queueFor l.die g.ptn (trecOf g.bytes).prio = some q →
          (((v.die l.die).lq.getD q []).length < 32 → step = .next (v.launchTask g g.bytes l q)) ∧
          (32 ≤ ((v.die l.die).lq.getD q []).length → step = .next v))) ∧
      (v.liveTask g = none → ∀ i ∈ [Instr.taskSeq o, .taskPrio o], s.Performing i f → step = .next (answer v 8 0)) ∧
      (v.liveTask g = some k →
        (s.Performing (.taskSeq o) f →
          (k.trec.seq = false → step = .next (answer v 9 0)) ∧
          (k.trec.seq = true → k.steps.length ≤ b → step = .next (answer v 10 0)) ∧
          (k.trec.seq = true → b < k.steps.length →
            step = .next (answer (v.modTask k.ptn k.lseq fun k => { k with pending := some b }) 0 k.lseq))) ∧
        (s.Performing (.taskPrio o) f →
          (k.st ≠ .queued → step = .next (answer v 11 0)) ∧
          (k.st = .queued → 3 < b → step = .next (answer v 1 0)) ∧
          (k.st = .queued → b ≤ 3 →
            (v.queueFor k.die k.ptn b = none → step = .next (answer v 2 0)) ∧
            (∀ q, v.queueFor k.die k.ptn b = some q →
              let t := v.lqDrop k.die k.queue k.ptn k.lseq
              ((t.die k.die).lq.getD q []).length < 32 →
                step = .next (answer ((t.lqPush k.die q k.ptn k.lseq).modTask k.ptn k.lseq
                  fun k => { k with queue := q, trec := { k.trec with prio := b } }) 0 k.lseq))))) ∧
      (s.Performing (.taskCncl o) f →
        (f.sa.toNat = 0 ∨ 255 < f.sa.toNat → step = .next (v.flightFault g { cls := clsRange, code := 0x02D, opnd := f.sa.toNat })) ∧
        (0 < f.sa.toNat → f.sa.toNat ≤ 255 →
          let ks := v.tasks.filter fun k => k.ptn == g.ptn && k.trec.cgroup == f.sa.toNat && k.st != .ended && !k.cancelled
          step = .next ((ks.foldl State.cancelTask v).performVal g (BitVec.ofNat 64 ks.length) (ks ≠ []) false))) ∧
      (s.Performing (.taskQry o) f →
        (v.task? g.ptn f.sa.toNat = none → step = .next (v.performVal g 0 false true)) ∧
        (v.task? g.ptn f.sa.toNat = some k → step = .next (v.performVal g (v.qryWord k) (v.qryWord k != 0) false)))))

/-- R332, R362: the range words. Each joins the requests at its instance's controller, or raises NORANGE; in its turn `GET`
issues a doomed tile-task again or the next index, `SPLIT` gives the upper half to an instance that holds nothing, `STEAL`
asks another instance, `DONE` ends the range; an exhausted range answers all ones with the flag set. R332: a steal request in
its turn at the victim. The victim gives the upper half of what it holds to the asking instance, and a `STEAL` is answered
with the count; one that cannot split refuses: 0 for `STEAL`, and `RANGE.GET` asks the next. -/
def Obligations.RangeWordsAndSteals : Prop :=
  (∀ (o : FormR) (s : State) (w : Who) (x : Word) (f : Flight) (r v : Region),
  let j := s.jobOf w x
  let soon : Flight := jobHolds j o.d.toNat (s.fc + 1)
  let u := s.handed w o.g soon
  let names : List (Instr × Option Nat) := [(.rangeGet o, none), (.rangeDone o, none), (.rangeSteal o, some j.sa.toNat),
    (.rangeSplit o, some j.sa.toNat)]
  let step := exec (.instructionPerformed f.fid) s
  let answer (t : State) (v : Word) (oc fl : Bool) : State :=
    (t.modRegion r.key fun r => { r with stealq := r.stealq.filter fun x => x.1 != f.fid }).performVal f v oc fl
  let gone := ((s.taskOfRegion r).map (·.cancelled)).getD true
  (∀ p ∈ names, Fires s p.1 o.g w x →
    (s.taken.noRange w p.2 = true →
      exec p.1 s = .next (s.taken.raise w x { cls := clsRange, code := 0x02B, opnd := j.sa.toNat })) ∧
    (∀ q, s.taken.noRange w p.2 = false → u.rangeRegion soon = some q → exec p.1 s = .next
      (u.modRegion q.key fun q => { q with stealq := q.stealq ++ [(soon.fid, q.inst)] }))) ∧
  (s.rangeRegion f = some r → s.rangeTurn r f.fid = true →
    (s.Performing (.rangeGet o) f → (∀ ix, r.rerun.head? = some ix → gone = false → r.st = .armed →
      step = .next (answer (s.modRegion r.key fun r => r.reissue ix) (BitVec.ofNat 64 ix) true false))) ∧
    (s.Performing (.rangeGet o) f → r.rerun = [] ∨ gone = true ∨ r.st ≠ .armed →
      (r.cur < r.lim → gone = false → r.finished = false → s.mayIssueTile r r.cur = true → step = .next
        (answer ((s.issueTile r r.cur).modRegion r.key fun r => { r with cur := r.cur + 1 }) (BitVec.ofNat 64 r.cur) true false)) ∧
      (r.finished = true ∨ gone = true → step = .next (answer s (BitVec.allOnes 64) false true))) ∧
    (s.Performing (.rangeDone o) f → step = .next (answer (s.modRegion r.key fun r => { r with finished := true })
      (BitVec.ofNat 64 (r.lim - r.cur)) (r.lim - r.cur != 0) false)) ∧
    (s.Performing (.rangeSplit o) f → s.instanceAt r f.sa.toNat = some v →
      let mid := r.cur + (r.lim - r.cur + 1) / 2
      ((r.lim - r.cur < 2 ∨ v.lim - v.cur ≠ 0) → step = .next (answer s 0 false true)) ∧
      (2 ≤ r.lim - r.cur → v.lim - v.cur = 0 → step = .next
        (answer ((s.modRegion r.key fun r => { r with lim := mid }).modRegion v.key fun v => { v with cur := mid, lim := r.lim })
          (BitVec.ofNat 64 (r.lim - mid)) true false))) ∧
    (s.Performing (.rangeSteal o) f →
      (r.lim - r.cur ≠ 0 → step = .next ((s.modRegion r.key fun r => { r with stealq := r.stealq.filter fun x => x.1 != f.fid }).flightFault f
        { cls := clsRange, code := 0x02C, opnd := f.sa.toNat })) ∧
      (r.lim - r.cur = 0 → s.instanceAt r f.sa.toNat = some v → step = .next
        ((s.modFlight f.fid fun f => { f with stage := 1, aux := [0] }).modRegion v.key fun v =>
          { v with stealq := v.stealq ++ [(f.fid, r.inst)] }))))) ∧
  (∀ (s : State) (rg fid i : Nat) (v t : Region) (f : Flight) (o : FormR),
  let u := s.unrange rg fid
  let mid := v.cur + (v.lim - v.cur + 1) / 2
  let given := (u.modRegion v.key fun v => { v with lim := mid }).modRegion t.key fun t => { t with cur := mid, lim := v.lim }
  let again (s : State) : State := (s.modFlight fid fun f => { f with stage := 0 }).now (.instructionPerformed fid)
  let step := exec (.stealRequestServe rg) s
  s.region? rg = some v → s.nextSteal v = some (fid, i) → s.flight? fid = some f → s.instanceAt v i = some t →
  (2 ≤ v.lim - v.cur → t.lim - t.cur = 0 →
    (encode (.rangeSteal o) = some f.word → step = .next (given.rangeDone t f (BitVec.ofNat 64 (v.lim - mid)) true false)) ∧
    (encode (.rangeGet o) = some f.word → step = .next (again given))) ∧
  (v.lim - v.cur < 2 ∨ t.lim - t.cur ≠ 0 →
    (encode (.rangeSteal o) = some f.word → step = .next (u.rangeDone t f 0 false true)) ∧
    (encode (.rangeGet o) = some f.word →
      (t.lim - t.cur ≠ 0 → step = .next (again u)) ∧
      (t.lim - t.cur = 0 → step = .next (u.getAsk t f (f.aux.headD 0 + 1))))))

/-- R367, R374, R387: the engine words. An issue whose record is aligned and mapped, on an engine of the partition, reads it
and, where the queue has a place, enters it with the next QSEQ; `STAT` gives the last QSEQ and the length, its flag saying
idle; `NMC.FENCE` waits for what was queued before it. -/
def Obligations.EngineWords : Prop := ∀ (o : FormR) (s : State) (w : Who) (x : Word) (f : Flight),
  let j := s.jobOf w x
  let soon : Flight := jobHolds j o.d.toNat (s.fc + 1)
  let reads : Flight := { soon with plan := recParts j.sa.toNat 64 }
  let waits : Flight := { j with aux := (s.taken.eng w.port.die 3 j.ptn).q.map (·.qseq), after := s.fc + 1 }
  let stop (i : Instr) (e : FaultInfo) : Prop := exec i s = .next (s.taken.raise w x e)
  let go (i : Instr) (q : Flight) : Prop := exec i s = .next (jobPost q (s.handed w o.g q))
  let step := exec (.instructionPerformed f.fid) s
  let enter (die q fn : Nat) : Prop :=
    let e := s.eng die q f.ptn
    (32 ≤ e.q.length → step = .next s) ∧
    (e.q.length < 32 → f.plan.length ≤ f.stage → f.left = 0 → step = .next
      ((s.setEng die q f.ptn { e with qseq := e.qseq + 1, q := e.q ++
        [{ qseq := e.qseq + 1, record := f.bytes, who := f.who, asid := f.asid, ptn := f.ptn, fn := fn, tt := f.tt
           ival := f.ival }] }).performVal f
        (BitVec.ofNat 64 (e.qseq + 1)) true false))
  let stat (die q : Nat) : Prop :=
    let e := s.eng die q f.ptn
    step = .next (s.performVal f (BitVec.ofNat 64 (e.last * 2 ^ 8 + e.q.length)) (e.last % 2 ^ 56 != 0 || e.q ≠ []) (e.q == []))
  let noEngine : FaultInfo := { cls := clsRange, code := 0x02E, opnd := j.sb.toNat }
  let copies : List (Instr × Nat) := [(.cpyCpy o, 0), (.cpyXf o, 1), (.cpyFill o, 2)]
  (∀ p ∈ copies ++ [(.nmcIssue o, 0)], Fires s p.1 o.g w x → j.sa.toNat % 64 ≠ 0 →
    stop p.1 { cls := clsAlign, code := 9, opnd := j.sa.toNat }) ∧
  (∀ p ∈ copies, Fires s p.1 o.g w x → j.sa.toNat % 64 = 0 →
    (s.taken.noEng w j.ptn j.sb.toNat = true → stop p.1 noEngine) ∧
    (s.taken.noEng w j.ptn j.sb.toNat = false → s.taken.telAddr w j.asid j.sa.toNat .load false = none → go p.1 reads)) ∧
  (Fires s (.nmcIssue o) o.g w x → j.sa.toNat % 64 = 0 →
    (s.taken.ttOrdered j.tt = true → stop (.nmcIssue o) { cls := clsAtomic, code := 3, opnd := j.sa.toNat }) ∧
    (s.taken.ttOrdered j.tt = false → s.taken.telAddr w j.asid j.sa.toNat .load false = none → go (.nmcIssue o) reads)) ∧
  (Fires s (.cpyStat o) o.g w x →
    (s.taken.noEng w j.ptn j.sb.toNat = true → stop (.cpyStat o) noEngine) ∧
    (s.taken.noEng w j.ptn j.sb.toNat = false → go (.cpyStat o) soon)) ∧
  (Fires s (.nmcStat o) o.g w x → go (.nmcStat o) soon) ∧ (Fires s (.nmcFence o) o.g w x → go (.nmcFence o) waits) ∧
  (∀ p ∈ copies, s.Performing p.1 f → enter f.who.die f.sb.toNat p.2) ∧
  (s.Performing (.nmcIssue o) f → enter f.who.port.die 3 0) ∧
  (s.Performing (.cpyStat o) f → stat f.who.die f.sb.toNat) ∧ (s.Performing (.nmcStat o) f → stat f.who.port.die 3) ∧
  (s.Performing (.nmcFence o) f → (∀ n ∈ f.aux, ∀ c ∈ (s.eng f.who.port.die 3 f.ptn).q, c.qseq ≠ n) →
    step = .next (s.perform f Writes.none (f.aux ≠ []) false []))

/-- R376, R378, R384: the link words. A link above 11 raises NOLINK. `TURN` enters a request within the partition's grant
into the FIFO, or answers why not; `QRY` reads the split; `HOLD` takes or releases the bias. -/
def Obligations.LinkWords : Prop := ∀ (o : FormR) (s : State) (w : Who) (x : Word) (f : Flight) (lo hi : Nat),
  let j := s.jobOf w x
  let soon : Flight := jobHolds j o.d.toNat (s.fc + 1)
  let l := f.sa.toNat
  let k := s.link l
  let step := exec (.instructionPerformed f.fid) s
  let status (t : State) (st : Nat) : State := t.performVal f (BitVec.ofNat 64 st) (st == 0) (st != 0)
  let refuse (st : Nat) : State := status (s.modLink l fun x => { x with refused := x.refused + 1 }) st
  let word := ((k.hold.map (·.1)).getD 0xFF) * 2 ^ 16 + k.fifo.length * 2 ^ 5 + k.u
  (∀ i ∈ [Instr.linkTurn o, .linkQry o, .linkHold o], Fires s i o.g w x →
    (11 < j.sa.toNat → exec i s = .next (s.taken.raise w x { cls := clsRange, code := 0x033, opnd := j.sa.toNat })) ∧
    (j.sa.toNat ≤ 11 → exec i s = .next (jobPost soon (s.handed w o.g soon)))) ∧
  (s.Performing (.linkTurn o) f → s.mayIssue f = true →
    (s.grantOn f.ptn l = none → step = .next (refuse 1)) ∧
    (s.grantOn f.ptn l = some (lo, hi) →
      ((f.sb.toNat < lo ∨ hi < f.sb.toNat) → step = .next (refuse 2)) ∧
      (lo ≤ f.sb.toNat → f.sb.toNat ≤ hi →
        (8 ≤ (k.fifo.filter fun q => q.1 == f.ptn).length → step = .next (refuse 3)) ∧
        ((k.fifo.filter fun q => q.1 == f.ptn).length < 8 → k.fifo.length < 16 → step = .next
          (status (s.modLink l fun x => { x with fifo := x.fifo ++ [(f.ptn, f.sb.toNat)] }) 0))))) ∧
  (s.Performing (.linkQry o) f → step = .next (s.performVal f (BitVec.ofNat 64 word) (k.u != 0) k.hold.isSome)) ∧
  (s.Performing (.linkHold o) f →
    (f.sb = 1 → s.grantOn f.ptn l = none → step = .next (status s 1)) ∧
    (f.sb = 1 → s.grantOn f.ptn l = some (lo, hi) → k.hold = none → (∀ q ∈ k.fifo, q.1 = f.ptn) → s.holdTurn f = true →
      step = .next (status (s.modLink l fun x => { x with hold := some (f.ptn, s.fc) }) 0)) ∧
    (∀ t, f.sb = 0 → k.hold = some (f.ptn, t) → step = .next (status (s.modLink l fun x => x.unhold s.fc) 0)) ∧
    (f.sb = 0 → (k.hold.map (·.1)) ≠ some f.ptn → step = .next (status s 4)))

/-- R386, R399-R402: the region words, in turn for one task. A handle of no task raises NOTASK and a task in the wrong state
RGNSTATE; `PREEMPT` asks every region to stop, `RESUME` arms them again, `ROLLBACK` returns them to their cut, `QUIESCE`
waits for their sweeps, `ASID` gives the task's pages another address space. -/
def Obligations.RegionWords : Prop := ∀ (o : FormR) (s : State) (w : Who) (x : Word) (f : Flight) (k : Task) (d : Nat),
  let soon : Flight := jobHolds (s.jobOf w x) o.d.toNat (s.fc + 1)
  let words := [Instr.rgnPreempt o, .rgnResume o, .rgnRollback o, .rgnQuiesce o, .rgnAsid o]
  let step := exec (.instructionPerformed f.fid) s
  let wrong : State := s.flightFault f { cls := clsRange, code := 0x031, opnd := f.sa.toNat }
  let answer (t : State) (v : Nat) : State := t.performVal f (BitVec.ofNat 64 v) (BitVec.ofNat 64 v != 0) false
  let rs := s.regionsOf k
  (∀ i ∈ words, Fires s i o.g w x → exec i s = .next (jobPost soon (s.handed w o.g soon))) ∧
  (s.rgnTurn f = true → f.stage = 0 →
    (s.task? f.ptn f.sa.toNat = none → ∀ i ∈ words, s.Performing i f →
      step = .next (s.flightFault f { cls := clsRange, code := 0x030, opnd := f.sa.toNat })) ∧
    (s.task? f.ptn f.sa.toNat = some k →
      (k.cancelled = true → ∀ i ∈ words, s.Performing i f → step = .next wrong) ∧
      (k.cancelled = false →
        (s.Performing (.rgnPreempt o) f → k.st = .running → step = .next
          ((k.rgs.foldl (fun s g => s.modRegion g fun r => r.stopping s.fc f.fid) s).modFlight f.fid fun f => { f with stage := 1 })) ∧
        (s.Performing (.rgnResume o) f → k.st = .preempted → s.resident k = some d → step = .next
          (answer ((k.rgs.foldl (fun s g => s.modRegion g fun r =>
            { r with st := .armed, die := d, quiet := 0, swept := false, watchdog := (s.die d).watchdog }) s).modTask k.ptn k.lseq
              fun k => { k with st := .running, die := d }) 0)) ∧
        (s.Performing (.rgnRollback o) f → k.st = .running ∨ k.st = .preempted → rs.all Region.still = true → s.resident k = some d →
          ((∃ r ∈ rs, r.rollback = false ∨ r.cutBad = true) →
            step = .next (s.flightFault f { cls := clsRange, code := 0x032, opnd := f.sa.toNat })) ∧
          ((∀ r ∈ rs, r.rollback = true ∧ r.cutBad = false) → step = .next
            (answer ((k.rgs.foldl State.rollback s).modTask k.ptn k.lseq fun k => { k with st := .running })
              (((rs.head?).map (·.cut)).getD 0)))) ∧
        (s.Performing (.rgnQuiesce o) f → k.st = .running → (∀ r ∈ rs, r.swept = true) →
          step = .next (answer s (rs.foldl (fun m r => max m r.decided) 0))) ∧
        (s.Performing (.rgnAsid o) f → k.st = .preempted →
          (((s.ptn? k.ptn).map (·.res.asids)).getD []).contains f.sb.toNat = true → s.asidLive k.die f.sb.toNat = true →
          ∃ t : State, step = .next (t.performVal f (BitVec.ofNat 64 k.asid) (BitVec.ofNat 64 k.asid != 0) false) ∧
            (∀ g ∈ k.rgs, ∀ r, t.region? g = some r → r.asid = f.sb.toNat) ∧
            (∀ q ∈ t.pages, k.rgs.contains q.2.rg = true → q.2.asid = f.sb.toNat)))))

/-- R385: the statistics words. `STAT.EMIT` adds to the unit's count of a class 1 to 5, which stops at 2^32 - 1, and writes
the new count; `STAT.RD` writes the counter its selector names, at the level the set asks for; `STAT.CFG` reads its entries
one by one and configures the pages of a task that is queued or pre-empted. -/
def Obligations.StatisticsWords : Prop := ∀ (o : FormR) (s : State) (w : Who) (x : Word) (f : Flight),
  let a := (s.taken.readS w o.a.toNat).toNat
  let n := (s.taken.readS w o.b.toNat).toNat % 2 ^ 32
  let tag := s.taken.tagOf w o.a.toNat o.b.toNat
  let stop (i : Instr) (cls code opnd : Nat) : Prop :=
    exec i s = .next (s.taken.raise w x { cls := cls, code := code, opnd := opnd })
  let j := s.jobOf w x
  let q : Flight := { jobHolds j o.d.toNat (s.fc + 1) with plan := recParts j.sa.toNat 32 }
  let step := exec (.instructionPerformed f.fid) s
  let noTask : FaultInfo := { cls := clsRange, code := 0x031, opnd := f.sb.toNat }
  (Fires s (.statEmit o) o.g w x →
    (a < 1 ∨ 5 < a → stop (.statEmit o) clsRange 0x034 a) ∧
    (1 ≤ a → a ≤ 5 →
      (∀ t cx pc, w = .tel t cx pc →
        exec (.statEmit o) s = .next (s.fired w x o.g { wr := writeS o.d.toNat tag 0 })) ∧
      (∀ pg pe cx sl e, w = .elem pg pe cx sl → s.pe? pg pe = some e →
        let c := min (2 ^ 32 - 1) (e.live.cnts.getD (a - 1) 0 + n)
        exec (.statEmit o) s = .next (s.fired w x o.g
          { wr := writeS o.d.toNat tag (BitVec.ofNat 64 c), outcome := c != 0
            ev := tab 5 fun i => if i + 1 = a then n else 0 })))) ∧
  (Fires s (.statRd o) o.g w x →
    (1024 ≤ a → stop (.statRd o) clsRange 0x034 a) ∧
    (a < 1024 → s.taken.statLevel w (a / 256) = false → stop (.statRd o) clsPriv 2 a) ∧
    (a < 1024 → s.taken.statLevel w (a / 256) = true →
      (s.taken.statCtr w (a / 256) (a % 256) = none → stop (.statRd o) clsRange 0x034 a) ∧
      (∀ v, s.taken.statCtr w (a / 256) (a % 256) = some v → exec (.statRd o) s = .next (s.fired w x o.g
        { wr := writeS o.d.toNat tag (BitVec.ofNat 64 v), outcome := BitVec.ofNat 64 v != 0 })))) ∧
  (Fires s (.statCfg o) o.g w x →
    (j.sa.toNat % 8 ≠ 0 → stop (.statCfg o) clsAlign 9 j.sa.toNat) ∧
    (j.sa.toNat % 8 = 0 → s.taken.telAddr w j.asid j.sa.toNat .load false = none →
      exec (.statCfg o) s = .next (jobPost q (s.handed w o.g q)))) ∧
  (s.Performing (.statCfg o) f →
    (s.task? f.ptn f.sb.toNat = none → step = .next (s.flightFault f noTask)) ∧
    (∀ k, s.task? f.ptn f.sb.toNat = some k → k.st ≠ .queued → k.st ≠ .preempted → step = .next (s.flightFault f noTask)) ∧
    (∀ k, s.task? f.ptn f.sb.toNat = some k → (k.st = .queued ∨ k.st = .preempted) → f.plan.length ≤ f.stage → f.left = 0 →
      let es := statList f.bytes
      let l := statPages es
      (es.length < 257 → (∀ e ∈ es, e ≠ none) → step = .next (s.modFlight f.fid fun f =>
        { f with plan := f.plan ++ recParts (f.sa.toNat + f.bytes.length) 32 })) ∧
      (257 ≤ es.length ∨ (∃ e ∈ es, e = none) → ∃ u : State, step = .next (u.performVal f (BitVec.ofNat 64 l.length) (l ≠ []) false) ∧
        (∀ g p, (g, p) ∈ u.pages → k.rgs.contains p.rg = true → ∀ y, alGet p.pidx l = some y → p.stat = some y))))

/-- R389, R419: what a trap does. `SYS.TRAP` traps with class 31, its return address the word behind it; a fault at a word
traps with the word's own PC; a late one returns to the oldest word not yet issued. CAUSE, TVAL, FPC, INTRAP and LATE are
written and the PC is TVEC; with INTRAP set, or TVEC zero, the context halts and the fault is posted to the mailbox. -/
def Obligations.TrapEntry : Prop := ∀ (s : State) (t cx : Nat) (pc : Word) (x : Word) (c : TCtx) (q : FaultInfo),
  let trapped (c : TCtx) (epc : Word) (q : FaultInfo) (late : Bool) : TCtx :=
    { c with epc := epc, fpc := pc, cause := BitVec.ofNat 64 (q.cls * 2 ^ 11 + q.code), tval := BitVec.ofNat 64 q.opnd
             tstat := (c.tstat &&& ~~~3#64) ||| (if late then 3#64 else 1#64), pc := c.tvec, line := 0, wait := none }
  let open_ (c : TCtx) : Prop := c.tstat.getLsbD 0 = false ∧ c.tvec ≠ 0
  let posted (u v : State) (c : TCtx) (q : FaultInfo) : Prop := v.tctx? t cx = some { c with run := false } ∧
    v = (u.modTctx t cx fun c => { c with run := false }).mail (u.originWho (.tel t cx pc)) q x
  q.code < 2 ^ 11 →
  (s.tctx? t cx = some c →
    (open_ c → (s.raise (.tel t cx pc) x q).tctx? t cx = some (trapped c pc q false)) ∧
    (¬ open_ c → posted s (s.raise (.tel t cx pc) x q) c q)) ∧
  (∀ f : Flight, f.who = .tel t cx pc → f.accepted = true → s.tctx? t cx = some c → open_ c →
    ∃ d, (s.raiseFlight f q).tctx? t cx = some (trapped { c with out3rsv := d } c.pc q true)) ∧
  (∀ o : FormR, Fires s (.sysTrap o) o.g (.tel t cx pc) x →
    let code := (s.taken.readS (.tel t cx pc) o.a.toNat).toNat % 2048
    let u := s.fired (.tel t cx pc) x o.g {}
    ∃ v, exec (.sysTrap o) s = .next v ∧ (u.tctx? t cx = some c →
      (open_ c → v.tctx? t cx = some (trapped c (pc + 8) { cls := 31, code := code } false)) ∧
      (¬ open_ c → posted u v c { cls := 31, code := code })))

/-- R388, R390: `ERET` puts EPC in the PC and clears INTRAP; `CSRR` writes a control register to D; `CSRW` writes the old
value to D and the register; one whose number is not listed raises CSRNUM, and one the context may not write raises PRIV.
R388, R390: the events by which `CSRW` writes the registers that act on more than themselves: RUN starts a halted context of
the partition at the PC given and changes nothing in a running one; ASIDSEL and ASIDHI take only what is the partition's;
PTILL must be aligned to 64 bytes. -/
def Obligations.ControlRegisters : Prop :=
  (∀ (o : FormR) (s : State) (t cx : Nat) (pc : Word) (x : Word) (c : TCtx),
  let w : Who := .tel t cx pc
  let n := (s.taken.readS w o.a.toNat).toNat % 4096
  let v := s.taken.readS w o.b.toNat
  let d := s.die (dieOfTeller t)
  let d' (v : Word) : Done := { wr := writeS o.d.toNat (s.taken.tagOf w o.a.toNat o.b.toNat) v, outcome := v != 0 }
  let ptn := s.ptnOf w
  let reads : List (Nat × Word) := [(0x000, c.tvec), (0x001, c.epc), (0x002, c.cause), (0x003, c.tval), (0x004, c.tstat),
    (0x005, c.fpc), (0x020, BitVec.ofNat 64 c.asidSel), (0x030, d.lqBind.getD 0 0), (0x03F, d.lqBind.getD 15 0),
    (0x040, d.mbxOvf), (0x050, BitVec.ofNat 64 s.fc), (0x060, (alGet ptn d.ptill).getD 0)]
  let writes : List (Nat × (State → State)) := [
    (0x000, fun u => u.modTctx t cx fun c => { c with tvec := v &&& ~~~7#64 }),
    (0x001, fun u => u.modTctx t cx fun c => { c with epc := v }),
    (0x004, fun u => u.modTctx t cx fun c => { c with tstat := v &&& 0xFF03#64 }),
    (0x021, fun u => u.modTctx t cx fun c => { c with asidLo := v }),
    (0x040, fun u => u.modDie (dieOfTeller t) fun d => { d with mbxOvf := v })]
  let denied : List Nat := [0x002, 0x003, 0x005, 0x030, 0x03F, 0x050, 0x061]
  s.tctx? t cx = some c → c.ptn = some ptn →
  (Fires s (.sysEret o) o.g w x → ∃ u, exec (.sysEret o) s = .next u ∧ ∀ b, (s.fired w x o.g { gap := 2 }).tctx? t cx = some b →
    u.tctx? t cx = some { b with pc := b.epc, tstat := b.tstat &&& ~~~1#64 }) ∧
  (Fires s (.sysCsrr o) o.g w x →
    (∀ p ∈ reads, n = p.1 → exec (.sysCsrr o) s = .next (s.fired w x o.g (d' p.2))) ∧
    (n ∈ [0x006, 0x00F, 0x014, 0x01F, 0x023, 0x02F, 0x041, 0x04F, 0x051, 0x05F, 0x062, 0xFFF] → exec (.sysCsrr o) s =
      .next (s.taken.raise w x { cls := clsRange, code := 0x035, opnd := n }))) ∧
  (Fires s (.sysCsrw o) o.g w x →
    (∀ p ∈ writes, n = p.1 → ∃ old, s.taken.csrRead t cx n = .ok old ∧
      exec (.sysCsrw o) s = .next (p.2 (s.fired w x o.g (d' old)))) ∧
    (∀ old i, s.taken.csrRead t cx n = .ok old → s.taken.csrDeny t cx n v = none → csrStep t cx n v = some i →
      exec (.sysCsrw o) s = .next ((s.fired w x o.g (d' old)).now i)) ∧
    (∀ old, s.taken.csrRead t cx n = .ok old → n ∈ denied →
      exec (.sysCsrw o) s = .next (s.taken.raise w x { cls := clsPriv, code := 2, opnd := n })))) ∧
  (∀ (s : State) (t cx n : Nat) (v : Word) (c : TCtx) (ptn : Nat),
  let stop (cls code opnd : Nat) : State := s.raise (.tel t cx c.pc) 0 { cls := cls, code := code, opnd := opnd }
  let owns (a : Nat) : Prop := s.ownsAsid ptn a = true
  let slot := ((s.ptn? ptn).map (·.res.keySlot)).getD 32
  s.tctx? t cx = some c → c.ptn = some ptn →
  (n < 4 →
    (∀ k, s.tctx? t n = some k → k.ptn = some ptn → ∃ u, exec (.csrCtlWrite t cx n v) s = .next u ∧
      u.tctx? t n = some (if v.getLsbD 63 ∧ k.run = false then
        { k with run := true, pc := BitVec.ofNat 64 (v.toNat / 8 % 2 ^ 53 * 8), line := 0 } else k)) ∧
    (∀ k, s.tctx? t n = some k → k.ptn ≠ some ptn → exec (.csrCtlWrite t cx n v) s = .next (stop clsPriv 2 (0x010 + n)))) ∧
  (owns v.toNat → exec (.csrAsidselWrite t cx v) s = .next (s.modTctx t cx fun c => { c with asidSel := v.toNat % 512 })) ∧
  (¬ owns v.toNat → exec (.csrAsidselWrite t cx v) s = .next (stop clsPriv 2 0x020)) ∧
  (owns c.asidSel → v.toNat / 2 ^ 40 % 32 = slot → exec (.csrAsidhiWrite t cx v) s = .next
    (s.modDie (dieOfTeller t) fun d => { d with asidsNew := alSet c.asidSel (v ++ c.asidLo) d.asidsNew })) ∧
  (¬ owns c.asidSel ∨ v.toNat / 2 ^ 40 % 32 ≠ slot → exec (.csrAsidhiWrite t cx v) s = .next (stop clsPriv 2 0x022)) ∧
  (v.toNat % 64 = 0 → exec (.csrPtillWrite t cx v) s = .next
    (s.modDie (dieOfTeller t) fun d => { d with ptill := alSet ptn v d.ptill })) ∧
  (v.toNat % 64 ≠ 0 → exec (.csrPtillWrite t cx v) s = .next (stop clsAlign 6 v.toNat)))

/-- R388, R402: the mailbox word, and the words that save and restore a page and drop translations. -/
def Obligations.MailboxAndPageWords : Prop := ∀ (o : FormR) (s : State) (w : Who) (x : Word) (f : Flight) (p : Page) (r : Region),
  let a := (s.taken.readS w o.a.toNat).toNat
  let head := s.mbxHead w.die (s.ptnOf w)
  let out : Done := { wr := writeV o.d.toNat (s.taken.tagOf w o.a.toNat o.b.toNat) (bytesVec ((head.map (·.bytes)).getD []))
                      outcome := head.isSome }
  let j := s.jobOf w x
  let step := exec (.instructionPerformed f.fid) s
  let stop (i : Instr) (e : FaultInfo) : Prop := exec i s = .next (s.taken.raise w x e)
  let go (i : Instr) (q : Flight) : Prop := exec i s = .next (jobPost q (s.handed w o.g q))
  let reads : Flight := jobHolds j o.d.toNat (s.fc + 1 + s.taken.fresh.1 % 4096)
  let open_ (va : Nat) (k : Acc) : Prop := s.taken.telAddr w j.asid va k false = none ∧ s.taken.telAddr w j.asid (va + 65536) k false = none
  (Fires s (.sysMbx o) o.g w x →
    (1 < a → stop (.sysMbx o) { cls := clsRange, code := 0x038, opnd := a }) ∧
    (a = 1 → exec (.sysMbx o) s = .next (s.fired w x o.g out)) ∧
    (a = 0 → exec (.sysMbx o) s = .next ((s.fired w x o.g out).modDie w.die fun d =>
      { d with mbx := dropRec (s.ptnOf w) d.mbx }))) ∧
  (Fires s (.sysPgsv o) o.g w x →
    (j.sb.toNat % 65536 ≠ 0 → stop (.sysPgsv o) { cls := clsAlign, code := 9, opnd := j.sb.toNat }) ∧
    (j.sb.toNat % 65536 = 0 → open_ j.sb.toNat .store → go (.sysPgsv o) (jobHolds j o.d.toNat (s.fc + 1)))) ∧
  (Fires s (.sysPgrs o) o.g w x →
    (j.sa.toNat % 65536 ≠ 0 → stop (.sysPgrs o) { cls := clsAlign, code := 9, opnd := j.sa.toNat }) ∧
    (j.sa.toNat % 65536 = 0 → open_ j.sa.toNat .load → go (.sysPgrs o) reads)) ∧
  (Fires s (.sysTlbi o) o.g w x →
    (s.ownsAsid j.ptn j.sa.toNat = false → stop (.sysTlbi o) { cls := clsPriv, code := 2, opnd := j.sa.toNat }) ∧
    (s.ownsAsid j.ptn j.sa.toNat = true → go (.sysTlbi o) { j with after := s.fc + 1 })) ∧
  (s.Performing (.sysPgsv o) f → s.mayIssue f = true →
    (frameSel f.sa.toNat = none → step = .next (s.flightFault f { cls := clsRange, code := 0x031, opnd := f.sa.toNat })) ∧
    (∀ pg part, frameSel f.sa.toNat = some (pg, part) → s.page? pg = some p → s.regionOf pg = some r →
      let pre := ((s.taskOfRegion r).map fun (k : Machine.Task) => k.st == .preempted).getD false
      (p.kind ≠ part ∨ p.ptn ≠ f.ptn ∨ pre = false →
        step = .next (s.flightFault f { cls := clsRange, code := 0x031, opnd := f.sa.toNat })) ∧
      (p.kind = part → p.ptn = f.ptn → pre = true →
        ∀ bs u, bs = (((s.landPackets pg).page? pg).getD p).saveBytes r
            (s.flights.filter fun z => z.who.isElem && z.who.page == pg) →
          (s.landPackets pg).storeVa f.who.port.die f.asid f.sb.toNat bs = .ok u →
          step = .next ((u.takePage pg bs).performVal f f.sa (f.sa != 0) false) ∧ (u.takePage pg bs).page? pg = none))) ∧
  (s.Performing (.sysPgrs o) f → ∀ bs u fs qs key, s.readRec f.who.port.die f.asid none f.sa.toNat 0x20000 = .ok (bs, u) →
    let die := if f.sb = BitVec.allOnes 64 then ((s.task? f.ptn (recNat bs 0x8000 8)).map fun (k : Machine.Task) => k.die).getD 0
      else f.sb.toNat / 2 ^ 12 % 8
    s.restored f.ptn die bs = .ok (p, fs, qs, key) →
    (s.restoreAt f.ptn die p.kind f.sb = none →
      step = .next (s.flightFault f { cls := clsRange, code := 0x036, opnd := f.sb.toNat })) ∧
    (∀ pg, s.restoreAt f.ptn die p.kind f.sb = some pg → step = .next ((s.putPage pg p fs qs key).performVal f
      (BitVec.ofNat 64 (selOf pg p.kind)) (selOf pg p.kind != 0) false))) ∧
  (s.Performing (.sysTlbi o) f →
    (f.stage = 0 → s.memBefore f ≠ 0 → step = .next s) ∧
    (f.stage = 0 → s.memBefore f = 0 →
      step = .next ((s.dropTlbs f.sa.toNat f.sb).modFlight f.fid fun f => { f with stage := 1, aux := [s.ids] })) ∧
    (f.stage ≠ 0 → (∃ q ∈ s.reqs, q.rid < f.aux.headD 0 ∧ q.asid = f.sa.toNat) → step = .next s) ∧
    (f.stage ≠ 0 → (∀ q ∈ s.reqs, q.rid < f.aux.headD 0 → q.asid ≠ f.sa.toNat) →
      step = .next ((s.dropTlbs f.sa.toNat f.sb).perform f Writes.none false false []))) ∧
  (∀ (b m : Nat) (z : Teller), (s.dropTlbs b (BitVec.allOnes 64)).tellers[m]? = some z → ∀ e ∈ z.tlb, e.asid ≠ b)

/-! ## The steps of units, in their own events -/

/-- R13, R15, R18, R20, R22, R23, R228, R240, R421: the steps by which words fire and tokens move in a page. The arbiter's
choice is taken up; a due result is written back; a route's tokens move on; a packet's next token enters its route; two heads
at the intersection unit are presented or the lower coordinate dropped; a pulse sets its predicate and is consumed; a DRAIN
behind the first is discarded; a length or poison marker raises its fault. In every state each of these steps completes. R24,
R25, R43, R419, R422: a teller's own steps. The context whose turn it is fires its word, or skips it, or traps at it, a
defective word as ILLEGAL with its defect's number or PRIV 0x001; an awaited line enters the fetch buffer, which keeps the
line of the PC and the one behind it; a fault found late traps late. In every state each of these steps completes. -/
def Obligations.FabricAndTellerEvents : Prop :=
  (∀ (s : State) (pg pe rt n port : Nat) (p : Page) (e : Pe) (f : Flight) (k : Packet),
  let drop (i : Nat) (t : Tok) : State := (s.takeElem pg pe i).modLive pg pe fun l => l.ran i t
  let bothHeads (a b : Tok) : Prop := s.page? pg = some p ∧ s.pe? pg pe = some e ∧ e.isectOn = true ∧ e.live.isectUp = 0 ∧
    e.stopped = false ∧ s.running pg = true ∧ p.headAt (epPe pe 0) = some a ∧ p.headAt (epPe pe 1) = some b ∧
    (∀ i < 2, ∀ t, p.headAt (epPe pe i) = some t → t.descends (e.live.isect[i]?).join = false)
  let completes (i : Instr) : Prop := ∃ u, exec i s = .next u
  (completes (.peArbiterFire pg pe) ∧ completes (.writeBack f.fid) ∧ completes (.tokenAdvance pg rt) ∧
    completes (.routerPacketEgress pg rt) ∧ completes (.routerPacketIngress k.pk) ∧ completes (.isectPresent pg pe) ∧
    completes (.pulseApply pg pe port) ∧ completes (.drainAbsorb pg pe port) ∧ completes (.lengthMarkerAtHead pg pe port) ∧
    completes (.poisonMarkerAtHead pg pe port)) ∧
  (s.arbiterPick pg pe = some n → ∃ u, exec (.peArbiterFire pg pe) s = .next u ∧ u.issue = some (s.slotWho pg pe n)) ∧
  (∀ d, s.flight? f.fid = some f → f.due = some d → d ≤ s.fc → s.mayPublish f = true →
    exec (.writeBack f.fid) s = .next (s.settle f f.wr)) ∧
  (s.page? pg = some p → rt < p.routes.length → s.flowing pg = true → ∃ u, exec (.tokenAdvance pg rt) s = .next u ∧
    u.page? pg = some { p with routes := p.routes.modify rt (Route.advance s.fc) }) ∧
  (∀ r q j, s.page? pg = some p → p.routes[rt]? = some r → r.viaRouter = true → r.dst = 0xFFFF → s.flowing pg = true →
    s.slotMine p.ptn (dieOfPage pg) = true → s.farRoute p r = some (q, j) →
    let space := (((s.page? q).bind fun d => d.routes[j]?).map fun x => ((x.latches.take 4).filter Option.isNone).length).getD 0
    let toks := packTokens (min 4 (space - s.onTheWay q j)) ((r.latches.reverse).take 4)
    toks ≠ [] → space - s.onTheWay q j ≠ 0 →
    ∃ u due, exec (.routerPacketEgress pg rt) s = .next u ∧ u.packets = s.packets ++ [⟨s.ids, q, j, toks, due⟩] ∧
      s.fc + frameDist pg q ≤ due ∧ (∀ z ∈ s.packets, z.pg = q → z.rt = j → z.due ≤ due)) ∧
  (∀ t more, s.packets.find? (fun q => q.pk = k.pk) = some k → s.fc ≥ k.due →
    (s.packets.find? fun q => q.pg = k.pg ∧ q.rt = k.rt) = some k →
    (((s.page? k.pg).bind fun d => d.routes[k.rt]?).map Route.outFree) = some true → k.toks = t :: more →
    ∃ u, exec (.routerPacketIngress k.pk) s = .next u ∧
      u.page? k.pg = (s.page? k.pg).map fun d => { d with routes := d.routes.modify k.rt (Route.put s.fc t) }) ∧
  (∀ a b, bothHeads a b →
    (a.tag = tagData → (b.tag = tagData → a.coord < b.coord) → exec (.isectPresent pg pe) s = .next (drop 0 a)) ∧
    (b.tag = tagData → (a.tag = tagData → b.coord < a.coord) → exec (.isectPresent pg pe) s = .next (drop 1 b)) ∧
    (((a.tag = tagData ∧ b.tag = tagData ∧ a.coord = b.coord) ∨ (a.tag ≠ tagData ∧ b.tag ≠ tagData)) →
      exec (.isectPresent pg pe) s = .next (s.modLive pg pe fun l => { (l.ran 0 a).ran 1 b with
        isectUp := (if openTok (some a) then 1 else 0) + if openTok (some b) then 2 else 0 }))) ∧
  (∀ cx i c, s.page? pg = some p → s.pe? pg pe = some e → p.pulseAt pe port = some rt →
    (e.pbind[port]?).join = some (cx, i) → e.live.ctxs[cx]? = some c →
    (c.p.getD i .pend = .ff → ∃ u, exec (.pulseApply pg pe port) s = .next u ∧
      (i < c.p.length → (u.ctx? pg pe cx).map (·.p[i]?) = some (some .tt)) ∧
      ((u.page? pg).bind fun d => d.routes[rt]?) = p.routes[rt]?.map Route.pulseTaken) ∧
    (c.p.getD i .pend ≠ .ff → exec (.pulseApply pg pe port) s = .next s)) ∧
  (s.page? pg = some p → s.pe? pg pe = some e → e.drained = true → p.tagAt pe port = some tagDrain → s.running pg = true →
    exec (.drainAbsorb pg pe port) s = .next (s.takeElem pg pe port)) ∧
  (∀ t, (s.markerAt pg pe port 3 = some t →
      exec (.lengthMarkerAtHead pg pe port) s = .next (s.elemFault pg pe { cls := clsLen, code := t.pay.toNat / 2 ^ 48 % 4 })) ∧
    (s.markerAt pg pe port 4 = some t →
      exec (.poisonMarkerAtHead pg pe port) s = .next (s.elemFault pg pe
        { cls := clsPoison, code := 1, opnd := t.pay.toNat % 2 ^ 56 })))) ∧
  (∀ (s : State) (t cx line : Nat) (x : Word) (c : TCtx) (f : Flight),
  let w : Who := .tel t cx c.pc
  let sees (d : Nat) : Prop := ∃ bs, s.tctx? t cx = some c ∧ c.run = true ∧ c.after ≤ s.fc ∧ c.wait = none ∧
    s.heldPtn (c.ptn.getD 0xFF) = false ∧ c.bad = [] ∧ alGet (lineOf c.pc) c.buf = some bs ∧ wordAt c.pc bs = x ∧
    defect .teller x = d
  let completes (i : Instr) : Prop := ∃ u, exec i s = .next u
  (completes (.tellerIssue t) ∧ completes (.tellerFetchLine t cx line) ∧ completes (.lateTrap f.fid)) ∧
  (s.tctx? t cx = some c → s.telPick t = some (cx, .fire x) → ∃ u, exec (.tellerIssue t) s = .next u ∧ u.issue = some (w, x)) ∧
  (s.tctx? t cx = some c → s.telPick t = some (cx, .skip x) → ∃ (u : State) (v : Nat), exec (.tellerIssue t) s = .next
    (u.modTctx t cx fun c => { c with pc := c.pc + 8, after := v + 1 })) ∧
  (∀ q, s.tctx? t cx = some c → s.telPick t = some (cx, .fault q x) → ∃ u : State, exec (.tellerIssue t) s = .next (u.raise w x q)) ∧
  (∀ d, sees d → d ≠ 0 → s.turnOf t cx = .fault (if d = 8 then { cls := clsPriv, code := 1 } else { cls := clsIllegal, code := d }) x) ∧
  (sees 0 → s.turnOf t cx = match s.telGuard t cx w x with
    | .stall => .pass
    | .skip => .skip x
    | .fire => .fire x) ∧
  (∀ bs u, s.tctx? t cx = some c → c.fetch.contains line = true → s.readRec (Port.tel t).die c.asid none line 64 = .ok (bs, u) →
    exec (.tellerFetchLine t cx line) s = .next (s.modTctx t cx fun c =>
      { c with fetch := c.fetch.filter (· != line)
               buf := (c.buf ++ [(line, bs)]).filter fun b => b.1 == lineOf c.pc || b.1 == nextLine (lineOf c.pc) })) ∧
  (∀ q, s.tctx? t cx = some c → c.fetch.contains line = true → s.readRec (Port.tel t).die c.asid none line 64 = .error q →
    exec (.tellerFetchLine t cx line) s = .next (s.modTctx t cx fun c =>
      { c with fetch := c.fetch.filter (· != line), bad := (line, q.cls * 2048 + q.code, q.opnd) :: c.bad })) ∧
  (∀ cls code detail opnd, s.flight? f.fid = some f → f.late = some (cls * 2 ^ 11 + code, detail, opnd) → code < 2 ^ 11 →
    exec (.lateTrap f.fid) s = .next (s.raiseFlight f { cls := cls, code := code, detail := detail, opnd := opnd })))

/-- R22, R181, R183, R185, R348-R351, R396: markers and the units of a page. An element, tenant or graph passes SNAP into a
new interval, and forwards DRAIN; a graph computes a slice, moves its pipeline and handles CTL tokens; a tenant's engine
takes its steps in turn with the tenant that shares the array, and counts the fcs it waits for it; its queue is flushed, but
for an `MMA` on its way to its next stated step; an arm record sets its counter. -/
def Obligations.UnitEvents : Prop := ∀ (s : State) (pg pe ten h rg : Nat) (p : Page) (e : Pe) (t : Tenant) (g : Graph) (tok : Tok),
  let enters (t : Tok) : State := s.safEnter pg h g t
  let through (tag : Nat) (f : Graph → Graph) : State :=
    ((s.modPage pg fun p => p.takeAt g.inEp).modPage pg fun p => p.putAt s.fc false g.outEp (marker tag)).modGraph pg h f
  let head (ep : Nat) : Prop := p.headAt ep = some tok
  let stopped (x : FaultInfo) : State := s.safFault pg h g x
  s.page? pg = some p →
  (s.pe? pg pe = some e → pe < 16 → s.running pg = true →
    (p.snapReady pe e = true → s.snapMay pg e.ival = true →
      ∃ u, exec (.snapPass pg pe) s = .next u ∧ (u.pe? pg pe).map (·.ival) = some (e.ival + 1)) ∧
    (e.drained = false → p.drainReady pe e = true → s.elemQuiet pg pe = true →
      ∃ u, exec (.drainForward pg pe) s = .next u ∧ (u.pe? pg pe).map (·.drained) = some true)) ∧
  (s.ten? pg ten = some t → ten < 2 → s.running pg = true → head (epMtx ten) →
    (∀ r, p.inRoute (epMtx ten) = some r → t.drv.isSome = true → tok.tag = tagSnap → t.atStep = true →
      s.snapMay pg t.ival = true → exec (.snapPass pg (20 + ten)) s = .next
        ((s.modPage pg fun p => p.takeAt (epMtx ten)).modTen pg ten fun t => s.shadowTen p t)) ∧
    (t.q = [] → tok.tag = tagDrain → exec (.drainForward pg (20 + ten)) s = .next (s.modPage pg fun p => p.takeAt (epMtx ten)))) ∧
  (s.graph? pg h = some g → s.running pg = true → head g.inEp → g.bound = true → g.withheld = false → g.pipe = [] →
      p.outFree false g.outEp = true →
    (tok.tag = tagSnap → s.snapMay pg g.ival = true →
      exec (.snapPass pg (32 + h)) s = .next (through tagSnap Graph.snap)) ∧
    (tok.tag = tagDrain → exec (.drainForward pg (32 + h)) s = .next (through tagDrain fun g => { g with drained := true }))) ∧
  (s.graph? pg h = some g → s.safOpen pg p g = true → head g.inEp →
    (∀ r, p.inRoute g.inEp = some r → tok.tag ≤ 4 →
      (∀ l x, g.badInput r.ty tok.pay = some (l, x) → exec (.safSlice pg h) s = .next
        ((stopped { cls := clsRange, code := 0x029, detail := l, opnd := pattern x 64 }).withholdProducer pg g.inEp)) ∧
      (g.badInput r.ty tok.pay = none → ∃ u, exec (.safSlice pg h) s = .next u ∧ (∀ k, u.graph? pg k =
        (enters (resultTok tok.tag (g.results (g.values r.ty tok.pay)))).graph? pg k))) ∧
    (tok.tag = tagCtl →
      (tok.kind = 1 → exec (.safCtlHandle pg h) s = .next (enters (g.reissue tok))) ∧
      (tok.kind = 3 → exec (.safCtlHandle pg h) s = .next (stopped { cls := clsLen, code := tok.pay.toNat / 2 ^ 48 % 4 })) ∧
      (tok.kind = 4 → exec (.safCtlHandle pg h) s = .next
        (stopped { cls := clsPoison, code := 1, opnd := tok.pay.toNat % 2 ^ 56 })) ∧
      (tok.kind ∉ [1, 3, 4] → exec (.safCtlHandle pg h) s = .next (enters tok)))) ∧
  (s.graph? pg h = some g → p.outFree false g.outEp = true →
    (∀ rest, g.pipe = (tok, 1) :: rest → exec (.safOutput pg h) s = .next
      ((s.modGraph pg h fun g => { g with pipe := rest.map fun x => (x.1, x.2 - 1) }).modPage pg fun p =>
        p.putAt s.fc false g.outEp tok)) ∧
    (∀ n rest, g.pipe = (tok, n + 2) :: rest → exec (.safOutput pg h) s = .next
      (s.modGraph pg h fun g' => { g' with pipe := g.pipe.map fun x => (x.1, x.2 - 1) }))) ∧
  (s.ten? pg ten = some t → ten < 2 → s.engineReady pg ten = true → t.stepAt ≠ s.fc + 1 →
    (s.yields pg ten = false → ∃ u, exec (.mmaEngineStep pg ten) s = .next u ∧
      (u.ten? pg ten).map (·.stepAt) = some (s.fc + 1)) ∧
    (s.yields pg ten = true → exec (.mmaEngineStep pg ten) s = .next
      (s.modTen pg ten fun t => { t with ctr := t.ctr.modify 3 (· + 1) }))) ∧
  (s.ten? pg ten = some t →
    ∃ u, exec (.tenantFlush pg ten) s = .next u ∧ ∃ x, u.ten? pg ten = some x ∧ x.flush = false ∧
      (t.run = none → x.q = [] ∧ x.run = none) ∧
      (∀ r, t.run = some r → (r.ct = none ∨ (r.step ≠ 0 ∧ r.step % 16 = 0)) → x.q = [] ∧ x.run = none) ∧
      (∀ r, t.run = some r → r.ct ≠ none → (r.step = 0 ∨ r.step % 16 ≠ 0) → x.q = t.q.filter (fun z => z.fid == r.fid) ∧
        x.run = some { r with stop := true })) ∧
  (∀ r bs u q x, s.region? rg = some r → r.armEnd = false → r.armAddr ≠ 0 →
    (64 ≤ r.armIx → exec (.armRecordWalk rg) s = .next (s.armFault r)) ∧
    (r.armIx < 64 → s.readRec r.die r.asid none (r.armAddr + 16 * r.armIx) 16 = .ok (bs, u) →
      (u.armGood r bs = false → exec (.armRecordWalk rg) s = .next (u.armFault r)) ∧
      (u.armGood r bs = true → (recNat bs 3 1 % 2 = 1 → u.armExpired r = true) → r.pages.getD (recNat bs 0 2) none = some q →
        u.ten? q (recNat bs 2 1) = some x → x.left.getD 0 = 0 → exec (.armRecordWalk rg) s = .next
          ((u.modTen q (recNat bs 2 1) fun t => { t with left := some (recNat bs 4 4) }).modRegion rg fun r =>
            { r with armIx := r.armIx + 1, armEnd := recNat bs 3 1 / 2 % 2 == 1 }))))

/-- R44, R329, R330, R331, R334, R335: how a task comes to run. The scheduler starts at most one task; the mint reads, checks
and places a page, rejecting the task at the first thing wrong; a loaded region is armed; a sequence's next step is filled
into the shadow banks and swapped in, or the task ends; a waiting record ages. -/
def Obligations.SchedulerAndMintEvents : Prop := ∀ (s : State) (rg page die q t : Nat) (r : Region) (k : Machine.Task) (img : List Byte),
  let v := s.mintFree r.die
  let made (d : RDesc) (r : Region) (i : Nat) : Page :=
    v.graphed r.die (v.readPage r.die (pageOf s.fc d r i ((d.imgs.getD i (0, 0, 0)).2.1) img))
  let p := made r.rdesc r page
  let step := exec (.mintLoad rg page) s
  let d := s.readRegion k.die k.asid (k.steps.getD k.nextStep 0)
  (∀ k fr, s.pickStart die (s.headOrder die) [] none = some (q, k, fr) →
    exec (.schedulerCycle die) s = .next (s.startTask q k fr)) ∧
  (s.pickStart die (s.headOrder die) [] none = none → exec (.schedulerCycle die) s = .next s) ∧
  (∀ e l, (s.die die).lq[q]? = some (e :: l) → exec (.priorityAging die q) s = .next (s.modDie die fun d =>
    { d with lq := d.lq.set q ({ e with aged := (s.fc - e.since) / 940000 } :: l) })) ∧
  (s.region? rg = some r → (s.die r.die).mint = some (rg, page, false, t) → t ≤ s.fc → r.st = .loading →
    (∀ f, v.readImage r.die r.asid (r.imgs.getD page (0, 0, 0)).1 = .error f → step = .next (v.reject r { page := page, f := f })) ∧
    (∀ pg, v.readImage r.die r.asid (r.imgs.getD page (0, 0, 0)).1 = .ok img → v.frameFor r page = some pg →
      (∀ e, p.wordRej = some e → step = .next (v.reject r e)) ∧
      (p.wordRej = none →
        let u := (v.placePage pg (v.withStats r page p)).modRegion rg fun r =>
          { r.flagged p with pages := r.pages.set page (some pg), loaded := r.loaded + 1 }
        (r.loaded + 1 < r.imgs.length ∨ u.mintRej r r.rdesc = none → step = .next u) ∧
        (∀ e, r.imgs.length ≤ r.loaded + 1 → u.mintRej r r.rdesc = some e → step = .next (u.reject r e))))) ∧
  (s.region? rg = some r → r.st = .loading → r.imgs.length ≤ r.loaded →
    (∀ e, s.ownerClash r = some e → exec (.regionArm rg) s = .next (s.reject r e)) ∧
    (s.ownerClash r = none → ∃ u, exec (.regionArm rg) s = .next u ∧
      u.region? rg = some { r with st := .armed, watchdog := (s.die r.die).watchdog })) ∧
  (s.region? rg = some r → s.taskOfRegion r = some k →
    (∀ d i pg n, (s.die r.die).mint = some (rg, i, true, t) → t ≤ s.fc →
      v.readRegion k.die k.asid (k.steps.getD k.nextStep 0) = some d → k.fill = some (k.nextStep, i, n) →
      let r' := Region.make r.key r.ptn r.lseq 0 r.asid (k.steps.getD k.nextStep 0) d k.trec (k.execs + 1)
      v.readImage r.die r.asid (d.imgs.getD i (0, 0, 0)).1 = .ok img → v.frameFor r' i = some pg →
      ∃ u : State, exec (.shadowFillComplete rg) s = .next
          (u.modTask k.ptn k.lseq fun k => { k with fill := some (k.nextStep, i + 1, s.fc) }) ∧
        alGet pg u.shadows = some (v.withStats r i (made d r' i))) ∧
    (k.goesOn = true → s.taskDrained k = true →
      (k.wraps = true → exec (.sequenceSwap rg) s = .next
        ((s.modTask k.ptn k.lseq fun k => { k with execs := k.execs + 1 }).endTask k.ptn k.lseq 2)) ∧
      (k.wraps = false → s.shadowReady k = false → exec (.sequenceSwap rg) s = .next s) ∧
      (∀ x, k.wraps = false → s.shadowReady k = true → d = some x → ∃ u : State,
        let r0 := Region.make r.key r.ptn r.lseq 0 r.asid (k.steps.getD k.nextStep 0) x k.trec (k.execs + 1)
        let put := (List.range x.imgs.length).map fun i => s.frameFor r0 i
        let r' := (put.filterMap fun y => y.bind fun pg => alGet pg s.shadows).foldl Region.flagged r0
        u.region? rg = some { r' with pages := put, loaded := x.imgs.length } ∧
        ((∃ e, exec (.sequenceSwap rg) s = .next (u.reject r' e)) ∨ exec (.sequenceSwap rg) s = .next (u.arm rg)))))

/-- R223, R224, R228, R240, R271, R396, R418: the streams' own steps. A load stream that runs asks for rows and places its
next token; a header or window read ends in the record's header or boundaries, or in its fault; a store stream takes SNAP,
DRAIN, a header or a marker at its head, or stores the row. R90, R91, R92, R170, R173: shape windows, writes through to a
record, and the counts of tiles. A window whose reads have all come back is checked and takes its place; the oldest write
owed goes to its port; a unit that has ended a tile tells its counts, 32 bits each, which are cleared; the record of a tile
every source has told is written, but for an abandoned execution. -/
def Obligations.StreamAndRecordEvents : Prop :=
  (∀ (s : State) (pg si : Nat) (p : Page) (me : Me) (m : Stream) (r : Region) (tok : Tok),
  let upd (u : State) (f : Stream → Stream) : State := u.modStream pg si f
  let take := s.storeTake pg si
  let step := exec (.storeStreamToken pg si) s
  let row := exec (.streamRowIssue pg si) s
  s.page? pg = some p → s.me? pg (si / 4) = some me → s.stream? pg si = some m → s.regionOf pg = some r →
  (s.streamRuns pg si = true → row = .next (((s.streamDecode pg si).streamFetch pg si).streamEmit pg si)) ∧
  (s.streamRuns pg si = false → r.st ≠ .frozen → p.outFree false (epMe (si / 4) (si % 4)) = true →
    (m.drainDue = true → m.drained = false →
      row = .next (upd (s.streamPut pg si (marker tagDrain)) fun m => { m with drained := true })) ∧
    (m.drainDue = false → m.snapDue = true → s.snapMay pg m.ival = true →
      row = .next (upd (s.streamPut pg si (marker tagSnap)) Stream.snap))) ∧
  (∀ j, m.hdrAt = some j → m.desc.shape ≠ 0 → m.cap = none →
    let hdr := exec (.streamHeaderCapture pg si) s
    let got := piecesOf m.desc.shape 32 (m.got 0)
    let u := upd s fun m => { m with hdrAt := none, recs := m.recs.filter fun x => x.1 != 0 }
    (j = 0 → hdr = .next (s.askHeader pg si m)) ∧ (j ≠ 0 → got = none → hdr = .next s) ∧
    (∀ bs, j ≠ 0 → got = some bs →
      (∀ off, hdrBad bs = some off → hdr = .next (u.streamFault pg si (badRec off m.desc.shape))) ∧
      (hdrBad bs = none → hdr = .next (upd u fun m => { m with cap := some (hdrOf bs) })))) ∧
  (∀ j h, m.winAt = some j → m.cap = some h →
    let win := exec (.streamWindowRead pg si) s
    let (va, k, n) := m.nextWin h
    let got := piecesOf va n (m.got 1)
    let short := 4 - winReads h k
    let u := upd s fun m => { m with winAt := none, recs := m.recs.filter fun x => x.1 != 1 }
    (got = none → win = .next (s.askWindow pg si m)) ∧
    (∀ bs, got = some bs →
      (j < 8 → short ≠ 0 → win = .next (upd s fun m => { m with winAt := some (8 + s.fc + short) })) ∧
      (8 ≤ j → s.fc < j - 8 → win = .next s) ∧
      ((if j < 8 then short = 0 else j - 8 ≤ s.fc) →
        (∀ e, windowOf h m.desc.shape k bs m.win.getLast? none = .error e → win = .next (u.streamFault pg si e)) ∧
        (∀ l, windowOf h m.desc.shape k bs m.win.getLast? none = .ok l →
          win = .next (upd u fun m => { m with win := m.win ++ l }))))) ∧
  (m.todo ≠ [] → s.streamRuns pg si = true → step = .next (s.streamAsk pg si)) ∧
  (m.todo = [] → p.headAt (epMe (si / 4) (si % 4)) = some tok →
    (tok.tag = tagSnap → s.snapMay pg m.ival = true → step = .next (upd take Stream.snap)) ∧
    (tok.tag = tagDrain → step = .next (upd take fun m => { m with drained := true })) ∧
    (m.valid = true → m.desc.isStore = true → s.streamRuns pg si = true → (m.desc.shape ≠ 0 → m.cap ≠ none) →
      (tok.tag = tagCtl →
        (tok.kind = 1 → step = .next (upd take fun m => { m with cur := { m.cur with row := tok.hRow0 } })) ∧
        (tok.kind = 3 → step = .next (s.raiseMe pg si { cls := clsLen, code := tok.pay.toNat / 2 ^ 48 % 4 })) ∧
        (tok.kind = 4 → step = .next (s.raiseMe pg si { cls := clsPoison, code := 1, opnd := tok.pay.toNat % 2 ^ 56 }))) ∧
      (tok.tag ≤ 4 →
        let e := m.desc.eff m.cap (m.desc.xf me)
        (e.rows ≤ m.cur.row → ∃ u : State, step = .next u ∧
          (u.me? pg (si / 4)).map (·.withheld) = some true) ∧
        (m.cur.row < e.rows → (e.kind = 3 → patBad (m.desc.xf me) e (p.streamNet si) (m.desc.efmt % 16) = false) →
          step = .next (s.storeRowTok pg si me m (p.streamNet si) tok)))))) ∧
  (∀ (s : State) (pg sx unit : Nat) (p : Page) (r : Region) (sh : Shape),
  let upd (u : State) (f : Shape → Shape) : State := u.modShape pg sx f
  (∀ q, (s.refillAsk pg sx).shape? pg sx = some sh → sh.refill = some q →
    let u := s.refillAsk pg sx
    let step := exec (.shapeWindowRefill pg sx) s
    let got := piecesOf (sh.addr + 0x20 + 256 * q.win) (4 * winCount sh.hdr q.win) q.got
    let short := 4 - winReads sh.hdr q.win
    let before := if sh.win + 1 = q.win then sh.bnd.getLast? else none
    let behind := if q.win + 1 = sh.win then sh.bnd.head? else none
    (got = none → step = .next u) ∧
    (∀ bs, got = some bs →
      (q.asked < 5 → short ≠ 0 → step = .next
        (upd u fun sh => { sh with refill := sh.refill.map fun x => { x with asked := 5, next := u.fc + short } })) ∧
      (5 ≤ q.asked ∨ short = 0 →
        (u.fc < q.next → step = .next u) ∧
        (∀ l, q.next ≤ u.fc → windowOf sh.hdr sh.addr q.win bs before behind = .ok l → step = .next (upd u fun y =>
          { y with win := q.win, bnd := l, refill := none, stash := y.stash ++ u.stashFor pg sx sh q })) ∧
        (∀ e, q.next ≤ u.fc → windowOf sh.hdr sh.addr q.win bs before behind = .error e →
          step = .next (u.refillFault pg sx e) ∧
          (q.fid = none → u.refillFault pg sx e = (u.dropRefill pg sx).raise q.who q.word e) ∧
          (∀ i f, q.fid = some i → u.flight? i = some f → u.refillFault pg sx e = (u.dropRefill pg sx).flightFault f e))))) ∧
  (∀ t, s.shape? pg sx = some sh → (sh.through.find? fun t => !t.sent) = some t → t.due ≤ s.fc → s.pageStored pg t.name = true →
    s.portRoom (s.shapePort pg) (.through pg sx t.name) 1 = true →
    let step := exec (.shsetWriteThrough pg sx) s
    let u := upd s fun sh => { sh with through := sh.through.map fun x => if x.name = t.name then { x with sent := true } else x }
    let asked := u.ask (.through pg sx t.name) (s.shapePort pg) t.by_.asid
      ⟨t.va, t.size, some (leBytes t.size t.val, List.replicate t.size 0xFF)⟩ t.by_.tt t.by_.who.node t.by_.ival
    (∀ v, asked = .ok v → step = .next v) ∧ (∀ e, asked = .error e → step = .next (u.throughFault pg sx t.name e))) ∧
  (s.page? pg = some p → s.regionOf pg = some r → unit < 23 → p.owesCounts unit = true →
    ∃ u q, exec (.statCountEmit pg unit) s = .next u ∧ u.page? pg = some q ∧
      (unit < 16 ∨ unit = 20 ∨ unit = 21 → q.unitCnts unit = List.replicate 5 0) ∧
      (∀ m, q.mes[unit - 16]? = some m → 16 ≤ unit → unit < 20 → m.cnts = List.replicate 5 0 ∧
        ∀ x ∈ m.streams, alGet (p.unitTold unit) x.cnts = none) ∧
      (unit = 22 → ∀ g ∈ q.saf.graphs, alGet (p.unitTold unit) g.cnts = none) ∧
      q.unitTold unit = p.unitTold unit + 1 ∧
      (∀ z, p.stat = some z → z.mask.testBit (unitGroup unit) = true → q.stat = some { z with
        tiles := joinTile (p.unitTold unit) unit (tab 5 fun i => min ((p.unitCnts unit).getD i 0) (2 ^ 32 - 1)) z.tiles })) ∧
  (∀ z t e u, s.page? pg = some p → s.regionOf pg = some r → p.stat = some z →
    z.tiles.find? (p.recordDue z) = some t →
    let me := z.endp / 2 ^ 8 % 2 ^ 6 % 4
    let ix := r.tileOf t.pos
    let va := z.base + 64 * (ix % max 1 z.nrec)
    s.abandoned r t.pos = false → s.walk (dieOfPage pg) p.asid va = .ok e → s.accessFault (some (r.key, ix)) e .store false va = none →
    s.write (.me pg me) (some (r.key, ix)) (((s.me? pg me).map (·.ival)).getD 0) e.leaf (e.key va) (t.record r p ix)
      (allOnes 64) = .ok u →
    ∃ f : Page → Page, exec (.statRecordWrite pg) s = .next (u.modPage pg f) ∧
      ∀ y, (f y).stat = y.stat.map fun w => { w with
        tiles := if y.rollback = true then w.tiles.map (fun x => if x = t then { x with written := true } else x)
                 else w.tiles.filter (fun x => x != t) }))

/-- R218, R219, R234, R239, R417: how memory serves accesses. A bank serves one request of its round of ports, an HBM access
is served when due, once its stack can move a block in the fc; a walk loads its entry and the access goes on, or XLATE is
raised; an update enters its owner's queue, or raises NOOWNER, asks for its access through the owner's port queue, and once
that is served writes the new value; an error that cannot be corrected poisons its block or token. -/
def Obligations.MemoryEvents : Prop := ∀ (s : State) (die bank rid uid pg me rt pos pa cls k : Nat) (r : Req) (u : Upd) (p : Page),
  let gone : State := { s with reqs := s.reqs.filter fun q => q.rid != rid }
  let left : State := { s with upds := s.upds.filter fun v => v.uid != uid }
  let old := memNat s.mem u.pa u.size
  let turned : State := s.modMe pg me fun m => { m with ownRun := m.ownRun.filter fun v => v.uid != u.uid, ownFc := s.fc + 1 }
  let block (s : State) (a : Nat) : Bool := s.poison.contains (a / 64)
  (s.bankFree die bank = true → pickPort ((alGet bank (s.die die).bankRR).getD (2 ^ 15 - 1)) (s.bankReady die bank) = some r →
    exec (.bankAccess die bank) s =
      .next ((s.modDie die fun d => { d with
        bankRR := alSet bank r.port.number d.bankRR, bankAt := alSet bank (s.fc + 1) d.bankAt }).serve r)) ∧
  (s.bankFree die bank = false → exec (.bankAccess die bank) s = .next s) ∧
  (s.reqs.find? (fun q => q.rid = rid) = some r →
    (r.pa = some k → k < vaultKey → r.due ≤ s.fc → s.reqFree r = true → s.gateOpen r = true → s.hbmFree k = true →
      exec (.hbmAccessComplete rid) s = .next ((s.useBlock k).serve r)) ∧
    (r.pa = none → r.walking = true → r.due ≤ s.fc →
      (∀ c, gone.walk r.port.die r.asid r.va = .error c →
        exec (.translationWalk rid) s = .next (gone.reqFault r { cls := clsXlate, code := c, opnd := r.va })) ∧
      (∀ e i, gone.walk r.port.die r.asid r.va = .ok e → r.job = .pref i →
        exec (.translationWalk rid) s = .next ((gone.setTlb r.port r.job e).modFlight i fun f => { f with aux := [1] })) ∧
      (∀ e f, (∀ i, r.job ≠ .pref i) → gone.walk r.port.die r.asid r.va = .ok e → (gone.setTlb r.port r.job e).place r e = .error f →
        exec (.translationWalk rid) s = .next ((gone.setTlb r.port r.job e).reqFault r f)) ∧
      (∀ e v, (∀ i, r.job ≠ .pref i) → gone.walk r.port.die r.asid r.va = .ok e → (gone.setTlb r.port r.job e).place r e = .ok v →
        exec (.translationWalk rid) s = .next (match r.job with
          | .flight fid _ => v.tryAccept fid
          | _ => v)))) ∧
  (s.upds.find? (fun v => v.uid = uid) = some u → u.due ≤ s.fc →
    (s.ownerOf u.pa = none → exec (.updateTokenArrive uid) s =
      .next (left.updFault u { cls := clsAtomic, code := 1, opnd := s.updVa u })) ∧
    (∀ m, s.ownerOf u.pa = some (pg, me) → s.me? pg me = some m →
      (m.ownq.length < 16 → exec (.updateTokenArrive uid) s =
        .next (State.modMe { left with ids := s.ids + 1 } pg me fun m => { m with ownq := m.ownq ++ [{ u with arr := s.ids }] })) ∧
      (16 ≤ m.ownq.length → exec (.updateTokenArrive uid) s = .next s))) ∧
  (∀ m, s.me? pg me = some m → (∀ v, m.ownRun.head? = some v → s.updAsked v = true) →
    (m.ownq.find? (fun v => !s.appWaits v) = none → exec (.ownerUpdateApply pg me) s = .next s) ∧
    (m.ownq.find? (fun v => !s.appWaits v) = some u → s.portRoom (.me pg me) (.upd pg me u.uid) 1 = false →
      exec (.ownerUpdateApply pg me) s = .next s) ∧
    (m.ownq.find? (fun v => !s.appWaits v) = some u → s.portRoom (.me pg me) (.upd pg me u.uid) 1 = true →
      ∃ (q : Req), q.job = .upd pg me u.uid ∧ q.pa = some u.pa ∧
        q.due = s.fc + vaultLatency (Port.me pg me).who.access u.pa - 1 ∧
        exec (.ownerUpdateApply pg me) s = .next (State.modMe { s with ids := s.ids + 1, reqs := s.reqs ++ [q] } pg me fun m =>
          { m with ownq := m.ownq.filter (fun v => v.uid != u.uid), ownRun := m.ownRun ++ [u] }))) ∧
  ((s.me? pg me).bind (fun m => m.ownRun.head?) = some u → s.updAsked u = false →
    (u.op = 0 → s.reqs.find? (fun q => q.rid = u.uid) = some r → exec (.ownerUpdateApply pg me) s = .next (turned.serve r)) ∧
    (∀ f, u.op = 0x62 → s.flight? u.fid = some f → exec (.ownerUpdateApply pg me) s = .next (turned.tillAppend pg me u f)) ∧
    (u.op ≠ 0 → u.op ≠ 0x62 → s.poisoned u.pa = true →
      exec (.ownerUpdateApply pg me) s = .next (turned.updFault u { cls := clsPoison, code := 1, opnd := s.updVa u })) ∧
    (∀ v, u.op ≠ 0 → u.op ≠ 0x62 → s.poisoned u.pa = false →
      turned.logUndo (.me pg me) (((s.flight? u.fid).map (·.ival)).getD 0) u.pa = some v →
      exec (.ownerUpdateApply pg me) s = .next (((v.store u.pa (leBytes u.size (u.apply old).1)).modMe pg me fun m =>
        { m with cnts := addCnts m.cnts (u.apply old).2 }).answer u old))) ∧
  (∃ v, exec (.uncorrectableError pa) s = .next v ∧ block v pa = true ∧
    ∀ a, a / 64 ≠ pa / 64 → block v a = block s a) ∧
  (∀ q t, s.page? pg = some p → p.routes[rt]? = some q → q.net ≠ 3 → q.latches[pos]? = some (some t) →
    ∃ v, exec (.latchParityError pg rt pos) s = .next v ∧
      ∃ w, ((v.page? pg).bind fun d => d.routes[rt]?.bind fun x => x.latches[pos]?) = some (some w) ∧ w.tag = tagCtl ∧ w.kind = 4) ∧
  (∃ v, exec (.correctedError die cls) s = .next v ∧ ∀ d n, s.dies[die]? = some d → d.corr[cls]? = some n →
    ((v.dies[die]?).bind fun e => e.corr[cls]?) = some (n + 1))

/-- R231, R252, R256, R379: messages and groups. An arriving message is written into its till, or its fault recorded; a
peer's message joins the appends; a peer's permit request is granted, queued, returned or refused with all ones; a group
entry applies the operation that arrived first, then answers those that wait. -/
def Obligations.MessageAndGroupEvents : Prop :=
  ∀ (s : State) (mid port ptn till res r die ix : Nat) (bytes : List Byte) (m : Msg) (p : Ptn) (e : Tlb) (g : Grp),
  let gone : State := { s with msgs := s.msgs.filter fun x => x.mid != mid }
  let k := e.key till
  let t := s.tillAt k
  let refused : State := s.peerAnswer port ptn till (2 ^ 64 - 1)
  let ask (get : Bool) := exec (.peerPermitRequest port ptn till r get) s
  let grp := exec (.grpEntryApply die ix) s
  let isNew (x : Nat × Nat) : Bool := decide (x.2 ≤ s.fc) && ((s.flight? x.1).map fun f => f.stage == 0 && s.mayIssue f).getD false
  let answers (s : State) : State := ((alGet ix (s.die die).groups).elim [] fun g => g.q.filter fun x =>
    ((s.flight? x.1).map fun f => f.stage == 1).getD false).foldl (fun s x => s.grpTry die ix x.1) s
  (s.msgs.find? (fun x => x.mid = mid) = some m → m.due ≤ s.fc →
    (∀ c, gone.walk m.die m.asid m.till = .error c →
      exec (.tillAppend mid) s = .next (gone.tillFault m { cls := clsXlate, code := c, opnd := m.till })) ∧
    (gone.walk m.die m.asid m.till = .ok e → exec (.tillAppend mid) s = .next (gone.append m (e.key m.till)))) ∧
  (s.ptn? ptn = some p →
    (∃ v n, exec (.spanMessageArrive port ptn till res bytes) s = .next v ∧ v.agenda.head? = some (.tillAppend s.ids) ∧
      v.msgs = s.msgs ++ [{ mid := s.ids, die := p.peerDie, ptn := ptn, asid := p.res.asids.headD 0, till := till
                            bytes := bytes, res := some res, src := n % 2 ^ 16, by_ := 2 ^ 8 + port, due := s.fc }]) ∧
    (∀ c get, s.walk p.peerDie (p.res.asids.headD 0) till = .error c → ask get = .next refused) ∧
    (s.walk p.peerDie (p.res.asids.headD 0) till = .ok e →
      (∀ get, r = 0 ∨ t.n < r → ask get = .next refused) ∧
      (0 < r → r ≤ t.n →
        ask true = .next (State.servePeers { s with ids := s.ids + 1, peerq := s.peerq ++ [(s.ids, port, ptn, till, r)] }) ∧
        (t.grant - t.tail < r → ask false = .next refused) ∧
        (r ≤ t.grant - t.tail → ask false = .next (State.servePeers (State.peerAnswer
          { s.setTill k 0x20 (t.grant - r) with
            permits := alSet k (unreserve r ((alGet k s.permits).getD []).reverse).reverse s.permits }
          port ptn till (t.grant - r))))))) ∧
  (alGet ix (s.die die).groups = some g →
    (∀ x, g.q.find? (fun y => isNew y && g.q.all fun z => !isNew z || decide (y.2 ≤ z.2)) = some x → grp = .next (answers (s.grpTry die ix x.1))) ∧
    (g.q.find? isNew = none → grp = .next (answers s)))

/-- R270-R274, R320, R398, R400, R401: how a region ends, is cut and is stopped. DRAIN starts once every sink has reported,
passes MEs and pages; the completion word and record are written; at 256 quiet fc the controller decides once; SNAPs go in
for a cut or a low undo log; a stopping region is frozen in a quiet fc, or at the watchdog rolled back and frozen. The pages
of a region that is done stay in their frames. R312-R320: the life of a tile-task. The next index is issued; at its end an
ordered one is SEALED, or COMMITTED from WRITETHRU, or waits for its re-run if doomed; a free one is complete, a cancelled
one ends; one whose store finds the reserve full is stalled, or doomed behind an older doomed one, or cancelled with its
task; the oldest live one writes through, or commits once sealed and cut. -/
def Obligations.RegionAndTileTaskEvents : Prop :=
  (∀ (s : State) (rg pg me : Nat) (r : Region) (k : Machine.Task) (p : Page) (m : Me),
  let from_ (x : Region → Region) (u : State) : Prop := u.region? rg = some (x r)
  let step (i : Instr) (u : State) : Prop := exec i s = .next u
  let here : Origin := { die := r.die, kind := 6, asid := r.asid, ptn := r.ptn }
  (s.region? rg = some r →
    (r.drain = false → r.st = .armed → (s.sinks r).1 ≤ (s.sinks r).2 →
      ∃ u, step (.drainStart rg) u ∧ from_ (fun r => { r with drain := true }) u) ∧
    (256 ≤ r.quiet → r.swept = false →
      (s.allDrained r = true → step (.quietCountExpire rg) (s.modRegion rg fun r => { r with swept := true, decided := 0 })) ∧
      (s.allDrained r = false → r.drain = false →
        step (.quietCountExpire rg) ((s.sweep r 1).modRegion rg fun r => { r with swept := true, decided := 1 })) ∧
      (s.allDrained r = false → r.drain = true →
        step (.quietCountExpire rg) ((s.sweep r 2).modRegion rg fun r => { r with swept := true, decided := 2 }))) ∧
    (s.wantsCut r = true → step (.cutSnapInject rg) (s.injectSnap r true)) ∧
    (r.st = .stopping → 1 ≤ r.quiet → step (.preemptFreeze rg) (s.freeze rg false)) ∧
    (r.st = .stopping → r.stopAt + r.watchdog ≤ s.fc →
      (r.rollback = true → r.cutBad = false → step (.preemptWatchdogExpire rg) (State.freeze
        (((s.mail { here with intv := r.cut } { cls := clsWatch, code := 1 } 0).rollback rg).modRegion rg fun x =>
          { x with stopBy := r.stopBy }) rg true)) ∧
      (r.rollback = false ∨ r.cutBad = true → step (.preemptWatchdogExpire rg)
        ((s.mail { here with intv := s.topIval r } { cls := clsWatch, code := 2 } 0).freeze rg true))) ∧
    (∃ u, step (.linkFlitFailure rg) u ∧ from_ (fun r => { r with withheld := true }) u ∧
      u.dies = (s.mail here { cls := clsLink, code := 1 } 0).dies)) ∧
  (s.region? rg = some r → s.taskOfRegion r = some k → (k.st = .running ∨ k.st = .preempted) →
    (k.cancelled = true → s.cancelDone k = true →
      step (.regionComplete rg) (s.endTask k.ptn k.lseq (if k.faulted then 3 else 1))) ∧
    (k.cancelled = false → k.goesOn = false → s.taskDrained k = true → step (.regionComplete rg)
      (((s.storeDone k k.lseq).modTask k.ptn k.lseq fun k => { k with execs := k.execs + 1 }).endTask k.ptn k.lseq 0)) ∧
    (k.cancelled = false → s.taskDrained k = false → step (.regionComplete rg) s)) ∧
  (s.region? rg = some r → (s.retire rg).pages.map Prod.fst = s.pages.map Prod.fst) ∧
  (s.page? pg = some p → p.drained = false → p.passed = true → ∃ u, step (.pageDrained pg) u ∧
    (u.page? pg).map (·.drained) = some true ∧
    ∀ d ∈ u.dies, ∀ b t, (b, t) ∈ d.banks → t ≠ .held pg) ∧
  (s.page? pg = some p → s.me? pg me = some m → s.region? p.rg = some r → r.drain = true → m.drained = false →
    s.meQuiet pg me m = true →
    (∀ j < 4, ∀ x, m.streams[j]? = some x → p.streamRouted (4 * me + j) = true → x.valid = true → x.drained = true) →
    (m.streams.any (·.valid) = true ∨ p.elemsDrained = true) →
    step (.meDrainPass pg me) (s.modMe pg me fun m => { m with drained := true, armed := false })) ∧
  (s.me? pg me = some m → s.regionOf pg = some r → 846 < m.undo.length → m.undo.length ≤ 910 → r.rollback = true →
    s.snapMoving r = false → r.drain = false → step (.undoLogLow pg me) (s.injectSnap r true))) ∧
  (∀ (s : State) (rg ix : Nat) (r : Region) (t : TileTask),
  let upd (f : TileTask → TileTask) : State := s.modRegion rg fun r => r.modTt ix f
  let ends (u : State) (done : Bool) : State := u.modRegion rg fun r => r.endTt ix done
  let step (i : Instr) (u : State) : Prop := exec i s = .next u
  s.region? rg = some r → r.key = rg →
  (r.persist = false → r.next < r.hi → s.mayIssueTile r r.next = true → ∃ u, step (.tileTaskIssue rg) u ∧
    u.region? rg = some { r with next := r.next + 1, issued := r.issued ++ [r.next], tts := r.tts ++ [⟨r.next, .issued, [], 0, 0, 0⟩] }) ∧
  (r.rerun.contains ix = true → r.persist = true → step (.rerunIssue rg ix) s) ∧
  (r.rerun.contains ix = true → r.persist = false → r.st = .armed → step (.rerunIssue rg ix) (s.modRegion rg fun r =>
    { (r.modTt ix fun t => { t with st := .issued, lines := [], sig := 0, runs := t.runs + 1 }) with
      rerun := r.rerun.filter (· != ix), issued := r.issued ++ [ix] })) ∧
  (r.tt? ix = some t →
    (s.sealing r ix = true →
      (s.cancelled r = true → step (.tileTaskSeal rg ix) (ends s false)) ∧
      (s.cancelled r = false → r.ordered = false → step (.tileTaskSeal rg ix) (ends s true)) ∧
      (s.cancelled r = false → r.ordered = true →
        (t.st = .issued → step (.tileTaskSeal rg ix) (upd fun t => { t with st := .sealed, close := s.topIval r })) ∧
        (t.st = .writethru → step (.tileTaskSeal rg ix) ((ends s true).raiseFloor r.ptn (r.ts + ix))) ∧
        (t.st = .doomed → ix ∉ r.rerun → step (.tileTaskSeal rg ix)
          (s.modRegion rg fun r => { r with rerun := if r.rerun.contains ix then r.rerun else r.rerun ++ [ix] })))) ∧
    (s.sealing r ix = false → step (.tileTaskSeal rg ix) s) ∧
    (t.st = .issued → r.escCap ≤ r.lineCount → s.cancelled r = true → step (.escrowReserveStall rg ix) (ends s false)) ∧
    (t.st = .issued → r.escCap ≤ r.lineCount → s.cancelled r = false →
      ((∃ x ∈ r.tts, x.st = .doomed ∧ x.ix < ix) →
        step (.escrowReserveStall rg ix) (upd fun t => { t with st := .doomed, lines := [] })) ∧
      ((∀ x ∈ r.tts, x.st = .doomed → ix ≤ x.ix) → step (.escrowReserveStall rg ix) (upd fun t => { t with st := .stalled }))) ∧
    (t.st = .stalled → s.cancelled r = false → s.olderLive r.ptn (r.key2 ix) = false → step (.writeThroughStart rg ix)
      ((s.commitLines r t).modRegion rg fun r => r.modTt ix fun t => { t with st := .writethru, lines := [] })) ∧
    (t.st = .sealed → s.cancelled r = false → s.olderLive r.ptn (r.key2 ix) = false → s.cutMet r t = true →
      step (.commitTileTask rg ix) ((ends (s.commitLines r t) true).raiseFloor r.ptn (r.ts + ix))) ∧
    (t.st = .sealed → s.cancelled r = true ∨ s.olderLive r.ptn (r.key2 ix) = true ∨ s.cutMet r t = false → step (.commitTileTask rg ix) s)))

/-- R368-R374, R377, R378: links and engines at work. The next request's groups are chosen, those eligible turn, and a turned
group carries the other direction; a hold ends at its limit; a copy engine or near-memory queue takes its first command on by
a block, ends it, refuses its record or stops it at a fault; a held completion is posted once there is room. The limits in fc
are the model's (notes/assumptions). -/
def Obligations.LinkAndEngineEvents : Prop := ∀ (s : State) (l g die q ptn pos : Nat) (x : Link) (k : LGroup) (c : Cmd) (rest : List Cmd),
  let e := s.eng die q 0
  let n := s.eng die 3 ptn
  let r := copyRecOf c.record
  let m := nmRecOf c.record
  let step := exec (.copyCommandExecute die q) s
  let nmc := exec (.nmcCommandExecute die ptn) s
  s.links[l]? = some x →
  (∀ p n more, x.cur = none → x.fifo = (p, n) :: more → (∀ h, x.hold = some h → h.1 = p) →
    ∃ u, exec (.linkFifoApply l) s = .next u ∧ (s.fc = u.fc) ∧
      (x.chosen n s.fc = [] → u.links[l]? = some { x with fifo := more, cur := none }) ∧
      (x.chosen n s.fc ≠ [] → (u.links[l]?).map (fun y => (y.fifo, y.cur)) = some (more, some (p, n, x.chosen n s.fc)))) ∧
  (∀ p n gs, x.groups[g]? = some k →
    (x.cur = some (p, n, gs) → g ∈ gs → k.turning = false → k.eligible s.fc = true →
      exec (.groupEligible l g) s = .next (s.turnGroup l g)) ∧
    (k.turning = true → k.ends ≤ s.fc → ∃ u y, exec (.groupTurnComplete l g) s = .next u ∧ u.links[l]? = some y ∧
      y.groups[g]? = some { k with turning := false, up := !k.up } ∧ y.turned = x.turned + 1 ∧
      y.u = (if k.up then x.u - 1 else x.u + 1))) ∧
  (∀ p t, x.hold = some (p, t) →
    (t + 47000 ≤ s.fc → ∃ u, exec (.linkHoldExpire l) s = .next u ∧
      u.links[l]? = some { x with hold := none, holdFc := x.holdFc + (s.fc - t) }) ∧
    (s.fc < t + 47000 → exec (.linkHoldExpire l) s = .next s)) ∧
  (q < 3 → e.q = c :: rest → e.held = none → e.after ≤ s.fc →
    (copyBad c.record c.fn = true → step = .next (s.endCmd die q c 2 1 0)) ∧
    (copyBad c.record c.fn = false → r.op ≠ 2 →
      (r.rows ≤ e.pos / 2 ^ 24 → step = .next (s.endCmd die q c (if e.nfail = 0 then 0 else 1) e.nfail e.first)) ∧
      (e.pos / 2 ^ 24 < r.rows →
        (r.flags % 2 = 1 → step = .next (s.copyMessage die q c r none (e.pos / 2 ^ 24))) ∧
        (r.flags % 2 = 0 → step = .next (s.copyBlock die q c r none (e.pos / 2 ^ 24) (e.pos % 2 ^ 24))))) ∧
    (copyBad c.record c.fn = false → r.op = 2 → ∀ bs u, s.readRec die c.asid c.tt r.xfa 128 = .ok (bs, u) →
      ((xfOf bs).copyOk = false → step = .next (s.endCmd die q c 2 1 0)) ∧
      ((xfOf bs).copyOk = true → e.pos / 2 ^ 24 < r.rows → r.flags % 2 = 0 →
        step = .next (s.copyBlock die q c r (some (xfOf bs)) (e.pos / 2 ^ 24) (e.pos % 2 ^ 24))))) ∧
  (n.q = c :: rest → n.held = none → n.after ≤ s.fc →
    (n.pos = 0 →
      (∀ i, nmBad c.record c.fn = some i → nmc = .next (s.endCmd die 3 c 2 i 0)) ∧
      (nmBad c.record c.fn = none →
        (∀ f, s.nmMaps die c m = .error f → nmc = .next (s.stopCmd die 3 c f m.blocks)) ∧
        (∀ maps, s.nmMaps die c m = .ok maps →
          (∀ i, m.refused die maps = some i → nmc = .next (s.endCmd die 3 c 2 i 0)) ∧
          (m.refused die maps = none → ∃ (u : State) (t : Nat), nmc = .next (u.setEng die 3 ptn { n with
            pos := 1, maps := maps, after := t }) ∧ s.fc + 270 ≤ t ∧ u.mem = s.mem)))) ∧
    (n.pos = pos + 1 →
      (m.blocks ≤ pos → nmc = .next (s.endCmd die 3 c (if n.nfail = 0 then 0 else 1) n.nfail n.first)) ∧
      (pos < m.blocks → nmc = .next (s.nmBlock die c m n.maps pos)))) ∧
  (∀ d b p, q < 3 → e.held = some (d, b) → e.ptn = some p → s.evRoom d p = true → s.evFreeIn d p = true →
    exec (.engineCompletionPost die q) s = .next ((s.setEng die q p { e with held := none }).evPush d p b)) ∧
  (∀ d b, n.held = some (d, b) → s.evRoom d ptn = true → s.evFreeIn d ptn = true →
    exec (.engineCompletionPost die (ptn + 3)) s = .next ((s.setEng die 3 ptn { n with held := none }).evPush d ptn b))

/-- R405, R407-R409, R415: what the host does to a function. Mailbox writes and reads, NOTVEC, PFCMD and MBXERR; accesses by
CXL and through BAR2 reach the partition's own memory or read all ones, and a write leaves a poisoned block that it covers in
part as it is; the registers read as R408 lays them out; SPDM, the TDI states, a debug policy and a manifest act as named.
The layouts of the answers are the model's own (notes/assumptions). -/
def Obligations.HostEvents : Prop := ∀ (s : State) (ptn off pa len sets : Nat) (v : Word) (req : List Word) (bs man : List Byte)
    (st : Tdi) (p : Ptn),
  let upd (f : Ptn → Ptn) : State := s.modPtn ptn f
  let step (i : Instr) (u : State) : Prop := exec i s = .next u
  let newer : Prop := ∃ e ∈ manEntries man, recNat e 0 2 = 6 ∧ Config.firmware < recNat e 8 8
  let signed := putBytes man 8 (leBytes 8 Config.firmware)
  let mine (g : Nat) : Prop := g ∈ p.res.hbm
  let n := min len bs.length
  let takes (k a : Nat) : Bool := decide (k ≤ a) && decide (a < k + n) &&
    (!s.poisoned a || (decide (k ≤ a / 64 * 64) && decide (a / 64 * 64 + 64 ≤ k + n)))
  let ready := s.hostRegister ptn 0
  let tdi : State := upd fun p => { p with tdi := st, debug := if (p.tdi = .run ∧ st ≠ .run) ∨ st = .error then 0 else p.debug }
  s.ptn? ptn = some p →
  (∃ u, step (.hostMbxWrite ptn v) u ∧
    (p.mbx.length < 64 → u.ptn? ptn = some { p with mbx := p.mbx ++ [v] }) ∧
    (64 ≤ p.mbx.length → u.ptn? ptn = some { p with mbxErr := true })) ∧
  (p.notify = [] → step (.hostNotifyRead ptn) (s.tellHost 0 ptn (List.replicate 8 0xFF) false)) ∧
  (∀ w l, p.notify = w :: l → step (.hostNotifyRead ptn)
    (((upd fun p => { p with notify := p.notify.drop 1 }).tellHost 0 ptn (leBytes 8 w.toNat) false).notifyAll ptn)) ∧
  step (.mbxerrClear ptn) (upd fun p => { p with mbxErr := false }) ∧
  (step (.hostRegisterWrite ptn 0x20 v) (upd fun p => { p with notVec := v.toNat % 64 }) ∧
    (off ≠ 0x20 → step (.hostRegisterWrite ptn off v) s)) ∧
  step (.pfcmdRequest req) { s with pfcmd := s.pfcmd ++ [req] } ∧
  ((∀ i ≤ (pa + len - 1) / 65536 - pa / 65536, mine (pa / 65536 + i)) → 0 < len → hbmOk pa len = true →
    step (.cxlMemAccess ptn pa len none) (s.tellHost 1 ptn (memRead s.mem pa len) (s.poisonIn pa len).isSome) ∧
    step (.cxlMemAccess ptn pa len (some bs)) (s.hostAccess 1 ptn pa len (some bs))) ∧
  ((¬ mine (pa / 65536) ∨ hbmOk pa len = false) → 0 < len →
    step (.cxlMemAccess ptn pa len none) (s.tellHost 1 ptn (List.replicate len 0xFF) false) ∧
    step (.cxlMemAccess ptn pa len (some bs)) s) ∧
  (∀ e : Tlb, off + len ≤ 2 ^ 24 → s.ownsAsid ptn 1 = true → s.walk p.peerDie 1 off = .ok e → leafVlt e.leaf = true →
      off + len ≤ e.va + e.size →
    (e.forbids .load = none → step (.bar2WindowAccess ptn off len none)
      (s.tellHost 2 ptn (memRead s.mem (e.key off) len) (s.poisonIn (e.key off) len).isSome)) ∧
    (e.forbids .store = none → step (.bar2WindowAccess ptn off len (some bs)) (s.hostAccess 2 ptn (e.key off) len (some bs)))) ∧
  (s.inv → ∀ kind k a, memGet a (s.hostAccess kind ptn k len (some bs)).mem =
    if takes k a = true then bs.getD (a - k) 0 else memGet a s.mem) ∧
  (s.ptn? 0xFF = none → step (.bar2WindowAccess 0xFF off len none) (s.tellHost 2 0xFF (List.replicate len 0) false) ∧
    step (.bar2WindowAccess 0xFF off len (some bs)) s) ∧
  ((∀ d < 8, ready.map (·.getLsbD d) = some (s.bring.ready.getD d false)) ∧
    ready.map (·.getLsbD 8) = some s.bring.anchor ∧ ready.map (·.getLsbD 9) = some s.bring.package ∧
    ready.map (·.getLsbD 10) = some s.bring.early ∧ (∀ d, 11 ≤ d → ready.map (·.getLsbD d) = some false) ∧
    (p.mbx.length ≤ 64 → (s.hostRegister ptn 0x10).map (·.getLsbD 63) = some p.mbxErr ∧
      (s.hostRegister ptn 0x10).map (fun v => v.toNat % 2 ^ 63) = some (64 - p.mbx.length)) ∧
    s.hostRegister ptn 0x20 = some (w64 p.notVec) ∧ s.hostRegister ptn 0x40 = some (w64 ptn) ∧
    (s.ptn? 0xFF = none → s.hostRegister 0xFF 0x40 = some 0xFF)) ∧
  ((2 ^ 24 < off + len ∨ s.ownsAsid ptn 1 = false) →
    step (.bar2WindowAccess ptn off len none) (s.tellHost 2 ptn (List.replicate len 0xFF) false) ∧
    step (.bar2WindowAccess ptn off len (some bs)) s) ∧
  step (.spdmRequest bs) (s.tellHost 3 0xFF (Config.measurements ++ Config.signature (bs ++ Config.measurements)) false) ∧
  (p.tdi = .locked ∨ p.tdi = .run →
    step (.debugPolicySupply ptn sets true) (upd fun p => { p with debug := sets }) ∧ step (.debugPolicySupply ptn sets false) s) ∧
  (p.tdi = .unlocked ∨ p.tdi = .error → step (.debugPolicySupply ptn sets true) s) ∧
  (recNat man 0 2 ≠ 1 ∨ newer → step (.manifestSign ptn man) (s.tellHost 4 ptn [] false)) ∧
  (recNat man 0 2 = 1 → ¬ newer → ∃ u, step (.manifestSign ptn man)
      (State.tellHost u 4 ptn (signed ++ Config.signature signed) false) ∧ ∃ q, u.ptn? ptn = some q ∧ q.man = signed ∧
    (∀ n k, (n, k) ∈ q.keys ↔ n < 16 ∧ ∃ e ∈ manEntries man, recNat e 0 2 = 5 ∧ recNat e 4 4 = n ∧ (e.drop 8).take 16 = k)) ∧
  ((st = .locked ∨ st = .run) → step (.tdiStateChange ptn st) tdi) ∧
  ((st = .error ∨ st = .unlocked) → step (.tdiStateChange ptn st) (tdi.resetVf ptn)) ∧
  (∃ u, step (.vfReset ptn) u ∧ (∀ k ∈ u.tasks, k.ptn = ptn → k.st = .ended ∨ k.cancelled = true))

/-- R401, R405, R409-R411, R413, R416: partitions and bring-up. A partition is created, resized and destroyed with scrubbing;
the hypervisor parks and restores a function; power-up, each die's READY, early service and package readiness follow one
another; a die takes a lower clock, and a watchdog within its limits. -/
def Obligations.PartitionAndBringUpEvents : Prop := ∀ (s : State) (ptn die mhz n k : Nat) (r : PtnRes) (p : Ptn) (d : Die),
  let step (i : Instr) (u : State) : Prop := exec i s = .next u
  let listed (u : State) (k : Nat) : Prop := ∃ c ∈ u.mem, c.1 = k
  (s.ptn? ptn = none → s.grantOk ptn r = true → ∃ u, step (.partitionCreate ptn r) u ∧ u.ptn? ptn = some (Ptn.fresh r) ∧
    (resCovers r k = true → ¬ listed u k) ∧
    u.hostOut = s.hostOut ++ [⟨5, ptn, leBytes 8 (homeWord r.home), false⟩]) ∧
  (s.ptn? ptn = none → s.grantOk ptn r = false → step (.partitionCreate ptn r) s) ∧
  (s.ptn? ptn = some p →
    (s.grantOk ptn r = true → (∀ t ∈ s.tasks, t.ptn = ptn → ∀ h ∈ s.taskHalves t, h ∈ p.res.halves → h ∈ r.halves) →
      ∃ u, step (.partitionResize ptn r) u ∧ u.ptn? ptn = some { p with res := r } ∧
        (resCovers (resMinus p.res r) k = true → ¬ listed u k)) ∧
    (s.grantOk ptn r = false → step (.partitionResize ptn r) s) ∧
    (∃ u, step (.partitionDestroy ptn) u ∧ u.ptn? ptn = none ∧ (resCovers p.res k = true → ¬ listed u k) ∧
      (∀ t ∈ u.tasks, t.ptn ≠ ptn)) ∧
    (p.held ≠ 2 →
      let u := (s.stopAll ptn).modPtn ptn fun p => { p with held := 1 }
      (u.ptnStill ptn p.res.tctxs = false → step (.hypervisorVfPreempt ptn) u) ∧
      (u.ptnStill ptn p.res.tctxs = true → ∃ v, step (.hypervisorVfPreempt ptn) v ∧ (v.ptn? ptn).map (·.held) = some 2 ∧
        (∀ f ∈ v.flights, ∀ i ∈ p.res.tctxs, f.ofCtx i = false))) ∧
    (∀ u, p.held = 2 → s.putPages ptn p.parkedSaves = some u →
      ∃ v, step (.vfRestore ptn) v ∧ (v.ptn? ptn).map (fun q => (q.held, q.parked)) = (u.ptn? ptn).map (fun _ => (0, [])) ∧
        v.flights = u.flights ++ p.parkedFlights)) ∧
  (∃ u, step .powerUp u ∧ u.bring.anchor = s.bring.fwOk) ∧
  (die < 8 → s.bring.anchor = true → s.bring.ready.length = 8 → ∃ u, step (.dieReady die) u ∧
    u.bring.ready = s.bring.ready.set die true ∧ (k < vaultKey → hbmDie k = die → memGet k u.mem = 0)) ∧
  (s.bring.anchor = false → step (.dieReady die) s) ∧
  (s.dies[die]? = some d →
    (s.bring.ready.findIdx? id = some die → s.bring.package = false → s.bring.early = false →
      ∃ u, step .earlyServiceStart u ∧ u.bring.early = true ∧ u.dies[die]? = some { d with mhz := 470 } ∧
        (∀ j, j ≠ die → u.dies[j]? = s.dies[j]?)) ∧
    (s.bring.early = true → step .earlyServiceStart s) ∧
    (s.bring.ready.all id = true → ∃ u, step .packageReady u ∧ u.bring.package = true ∧
      (s.bring.early = true → s.atBoundary = true → u.bring.early = false ∧ (d.mhz = 470 → u.dies[die]? = some { d with mhz := 940 }))) ∧
    (0 < mhz → mhz ≤ 940 → ∃ u, step (.powerCap die mhz) u ∧ u.dies[die]? = some { d with mhz := mhz }) ∧
    (9400 ≤ n → n ≤ 940000 → ∃ u, step (.watchdogSet die n) u ∧ u.dies[die]? = some { d with watchdog := n }) ∧
    (n < 9400 ∨ 940000 < n → ∃ u, step (.watchdogSet die n) u ∧ u.dies[die]? = some d))
end

