-- ==== Sys2Proof/Laws/Codec.lean ====
section
/-!
SUPPORT. The fields of a packed word are those it was packed from, and decoding a packed word gives the row's instruction.
-/

set_option Elab.async false

namespace Sys2Proof

/-! ## Fields of a Form R word -/

theorem field_packR_opc (opc : BitVec 7) (fn : BitVec 3) (o : FormR) :
    field (packR opc fn o) 27 7 = opc := by
  simp only [field, packR, guardBits]
  apply BitVec.eq_of_getLsbD_eq
  intro i hi
  simp only [BitVec.getLsbD_extractLsb', BitVec.getLsbD_append]
  interval_cases i <;> simp

theorem field_packR_fn (opc : BitVec 7) (fn : BitVec 3) (o : FormR) :
    field (packR opc fn o) 24 3 = fn := by
  simp only [field, packR, guardBits]
  apply BitVec.eq_of_getLsbD_eq
  intro i hi
  simp only [BitVec.getLsbD_extractLsb', BitVec.getLsbD_append]
  interval_cases i <;> simp

theorem field_packR_cx (opc : BitVec 7) (fn : BitVec 3) (o : FormR) :
    field (packR opc fn o) 62 2 = o.g.cx := by
  simp only [field, packR, guardBits]
  apply BitVec.eq_of_getLsbD_eq
  intro i hi
  simp only [BitVec.getLsbD_extractLsb', BitVec.getLsbD_append]
  interval_cases i <;> simp

theorem field_packR_pm (opc : BitVec 7) (fn : BitVec 3) (o : FormR) :
    field (packR opc fn o) 54 8 = o.g.pm := by
  simp only [field, packR, guardBits]
  apply BitVec.eq_of_getLsbD_eq
  intro i hi
  simp only [BitVec.getLsbD_extractLsb', BitVec.getLsbD_append]
  interval_cases i <;> simp

theorem field_packR_pv (opc : BitVec 7) (fn : BitVec 3) (o : FormR) :
    field (packR opc fn o) 46 8 = o.g.pv := by
  simp only [field, packR, guardBits]
  apply BitVec.eq_of_getLsbD_eq
  intro i hi
  simp only [BitVec.getLsbD_extractLsb', BitVec.getLsbD_append]
  interval_cases i <;> simp

theorem field_packR_cr (opc : BitVec 7) (fn : BitVec 3) (o : FormR) :
    field (packR opc fn o) 42 4 = o.g.cr := by
  simp only [field, packR, guardBits]
  apply BitVec.eq_of_getLsbD_eq
  intro i hi
  simp only [BitVec.getLsbD_extractLsb', BitVec.getLsbD_append]
  interval_cases i <;> simp

theorem field_packR_pk (opc : BitVec 7) (fn : BitVec 3) (o : FormR) :
    field (packR opc fn o) 41 1 = o.g.pk := by
  simp only [field, packR, guardBits]
  apply BitVec.eq_of_getLsbD_eq
  intro i hi
  simp only [BitVec.getLsbD_extractLsb', BitVec.getLsbD_append]
  interval_cases i; simp

theorem field_packR_te (opc : BitVec 7) (fn : BitVec 3) (o : FormR) :
    field (packR opc fn o) 40 1 = o.g.te := by
  simp only [field, packR, guardBits]
  apply BitVec.eq_of_getLsbD_eq
  intro i hi
  simp only [BitVec.getLsbD_extractLsb', BitVec.getLsbD_append]
  interval_cases i; simp

theorem field_packR_tch (opc : BitVec 7) (fn : BitVec 3) (o : FormR) :
    field (packR opc fn o) 38 2 = o.g.tch := by
  simp only [field, packR, guardBits]
  apply BitVec.eq_of_getLsbD_eq
  intro i hi
  simp only [BitVec.getLsbD_extractLsb', BitVec.getLsbD_append]
  interval_cases i <;> simp

theorem field_packR_ttg (opc : BitVec 7) (fn : BitVec 3) (o : FormR) :
    field (packR opc fn o) 35 3 = o.g.ttg := by
  simp only [field, packR, guardBits]
  apply BitVec.eq_of_getLsbD_eq
  intro i hi
  simp only [BitVec.getLsbD_extractLsb', BitVec.getLsbD_append]
  interval_cases i <;> simp

theorem field_packR_d (opc : BitVec 7) (fn : BitVec 3) (o : FormR) :
    field (packR opc fn o) 19 5 = o.d := by
  simp only [field, packR, guardBits]
  apply BitVec.eq_of_getLsbD_eq
  intro i hi
  simp only [BitVec.getLsbD_extractLsb', BitVec.getLsbD_append]
  interval_cases i <;> simp

theorem field_packR_a (opc : BitVec 7) (fn : BitVec 3) (o : FormR) :
    field (packR opc fn o) 14 5 = o.a := by
  simp only [field, packR, guardBits]
  apply BitVec.eq_of_getLsbD_eq
  intro i hi
  simp only [BitVec.getLsbD_extractLsb', BitVec.getLsbD_append]
  interval_cases i <;> simp

theorem field_packR_b (opc : BitVec 7) (fn : BitVec 3) (o : FormR) :
    field (packR opc fn o) 9 5 = o.b := by
  simp only [field, packR, guardBits]
  apply BitVec.eq_of_getLsbD_eq
  intro i hi
  simp only [BitVec.getLsbD_extractLsb', BitVec.getLsbD_append]
  interval_cases i <;> simp

theorem field_packR_pd (opc : BitVec 7) (fn : BitVec 3) (o : FormR) :
    field (packR opc fn o) 6 3 = o.pd := by
  simp only [field, packR, guardBits]
  apply BitVec.eq_of_getLsbD_eq
  intro i hi
  simp only [BitVec.getLsbD_extractLsb', BitVec.getLsbD_append]
  interval_cases i <;> simp

theorem field_packR_pu (opc : BitVec 7) (fn : BitVec 3) (o : FormR) :
    field (packR opc fn o) 4 2 = o.pu := by
  simp only [field, packR, guardBits]
  apply BitVec.eq_of_getLsbD_eq
  intro i hi
  simp only [BitVec.getLsbD_extractLsb', BitVec.getLsbD_append]
  interval_cases i <;> simp

theorem field_packR_ty (opc : BitVec 7) (fn : BitVec 3) (o : FormR) :
    field (packR opc fn o) 0 4 = o.ty := by
  simp only [field, packR, guardBits]
  apply BitVec.eq_of_getLsbD_eq
  intro i hi
  simp only [BitVec.getLsbD_extractLsb', BitVec.getLsbD_append]
  interval_cases i <;> simp

/-- Bit 34 of a packed word is zero (R31). -/
theorem bit34_packR (opc : BitVec 7) (fn : BitVec 3) (o : FormR) : (packR opc fn o).getLsbD 34 = false := by
  simp only [packR, guardBits, BitVec.getLsbD_append]
  simp

theorem opcOf_packR (opc : BitVec 7) (fn : BitVec 3) (o : FormR) : opcOf (packR opc fn o) = opc.toNat := by
  rw [opcOf, field_packR_opc]

theorem fnOf_packR (opc : BitVec 7) (fn : BitVec 3) (o : FormR) : fnOf (packR opc fn o) = fn.toNat := by
  rw [fnOf, field_packR_fn]

theorem formROf_packR (opc : BitVec 7) (fn : BitVec 3) (o : FormR) : formROf (packR opc fn o) = o := by
  simp only [formROf, guardOf, field_packR_cx, field_packR_pm, field_packR_pv, field_packR_cr, field_packR_pk, field_packR_te, field_packR_tch, field_packR_ttg, field_packR_d, field_packR_a, field_packR_b, field_packR_pd, field_packR_pu, field_packR_ty]

/-- Decoding a Form R word gives the instruction of its row of the opcode map. -/
theorem decode_packR (opc : BitVec 7) (fn : BitVec 3) (o : FormR) (f : FormR → Instr)
    (h : reservedOpc.contains opc.toNat = false)
    (hr : (findRow opc.toNat fn.toNat opRows).map (·.build) = some (.r f)) :
    decode (packR opc fn o) = .ok (f o) := by
  obtain ⟨r, hr, hb⟩ := Option.map_eq_some_iff.mp hr
  simp only [decode, opcOf_packR, fnOf_packR, h, hr, hb, bit34_packR, formROf_packR, Bool.false_eq_true, if_false]

/-! ## Fields of a Form I word -/

theorem field_packI_opc (opc : BitVec 7) (fn : BitVec 3) (o : FormI) :
    field (packI opc fn o) 27 7 = opc := by
  simp only [field, packI, guardBits]
  apply BitVec.eq_of_getLsbD_eq
  intro i hi
  simp only [BitVec.getLsbD_extractLsb', BitVec.getLsbD_append]
  interval_cases i <;> simp

theorem field_packI_fn (opc : BitVec 7) (fn : BitVec 3) (o : FormI) :
    field (packI opc fn o) 24 3 = fn := by
  simp only [field, packI, guardBits]
  apply BitVec.eq_of_getLsbD_eq
  intro i hi
  simp only [BitVec.getLsbD_extractLsb', BitVec.getLsbD_append]
  interval_cases i <;> simp

theorem field_packI_cx (opc : BitVec 7) (fn : BitVec 3) (o : FormI) :
    field (packI opc fn o) 62 2 = o.g.cx := by
  simp only [field, packI, guardBits]
  apply BitVec.eq_of_getLsbD_eq
  intro i hi
  simp only [BitVec.getLsbD_extractLsb', BitVec.getLsbD_append]
  interval_cases i <;> simp

theorem field_packI_pm (opc : BitVec 7) (fn : BitVec 3) (o : FormI) :
    field (packI opc fn o) 54 8 = o.g.pm := by
  simp only [field, packI, guardBits]
  apply BitVec.eq_of_getLsbD_eq
  intro i hi
  simp only [BitVec.getLsbD_extractLsb', BitVec.getLsbD_append]
  interval_cases i <;> simp

theorem field_packI_pv (opc : BitVec 7) (fn : BitVec 3) (o : FormI) :
    field (packI opc fn o) 46 8 = o.g.pv := by
  simp only [field, packI, guardBits]
  apply BitVec.eq_of_getLsbD_eq
  intro i hi
  simp only [BitVec.getLsbD_extractLsb', BitVec.getLsbD_append]
  interval_cases i <;> simp

theorem field_packI_cr (opc : BitVec 7) (fn : BitVec 3) (o : FormI) :
    field (packI opc fn o) 42 4 = o.g.cr := by
  simp only [field, packI, guardBits]
  apply BitVec.eq_of_getLsbD_eq
  intro i hi
  simp only [BitVec.getLsbD_extractLsb', BitVec.getLsbD_append]
  interval_cases i <;> simp

theorem field_packI_pk (opc : BitVec 7) (fn : BitVec 3) (o : FormI) :
    field (packI opc fn o) 41 1 = o.g.pk := by
  simp only [field, packI, guardBits]
  apply BitVec.eq_of_getLsbD_eq
  intro i hi
  simp only [BitVec.getLsbD_extractLsb', BitVec.getLsbD_append]
  interval_cases i; simp

theorem field_packI_te (opc : BitVec 7) (fn : BitVec 3) (o : FormI) :
    field (packI opc fn o) 40 1 = o.g.te := by
  simp only [field, packI, guardBits]
  apply BitVec.eq_of_getLsbD_eq
  intro i hi
  simp only [BitVec.getLsbD_extractLsb', BitVec.getLsbD_append]
  interval_cases i; simp

theorem field_packI_tch (opc : BitVec 7) (fn : BitVec 3) (o : FormI) :
    field (packI opc fn o) 38 2 = o.g.tch := by
  simp only [field, packI, guardBits]
  apply BitVec.eq_of_getLsbD_eq
  intro i hi
  simp only [BitVec.getLsbD_extractLsb', BitVec.getLsbD_append]
  interval_cases i <;> simp

theorem field_packI_ttg (opc : BitVec 7) (fn : BitVec 3) (o : FormI) :
    field (packI opc fn o) 35 3 = o.g.ttg := by
  simp only [field, packI, guardBits]
  apply BitVec.eq_of_getLsbD_eq
  intro i hi
  simp only [BitVec.getLsbD_extractLsb', BitVec.getLsbD_append]
  interval_cases i <;> simp

theorem field_packI_d (opc : BitVec 7) (fn : BitVec 3) (o : FormI) :
    field (packI opc fn o) 19 5 = o.d := by
  simp only [field, packI, guardBits]
  apply BitVec.eq_of_getLsbD_eq
  intro i hi
  simp only [BitVec.getLsbD_extractLsb', BitVec.getLsbD_append]
  interval_cases i <;> simp

theorem field_packI_a (opc : BitVec 7) (fn : BitVec 3) (o : FormI) :
    field (packI opc fn o) 14 5 = o.a := by
  simp only [field, packI, guardBits]
  apply BitVec.eq_of_getLsbD_eq
  intro i hi
  simp only [BitVec.getLsbD_extractLsb', BitVec.getLsbD_append]
  interval_cases i <;> simp

theorem field_packI_imm (opc : BitVec 7) (fn : BitVec 3) (o : FormI) :
    field (packI opc fn o) 0 14 = o.imm := by
  simp only [field, packI, guardBits]
  apply BitVec.eq_of_getLsbD_eq
  intro i hi
  simp only [BitVec.getLsbD_extractLsb', BitVec.getLsbD_append]
  interval_cases i <;> simp

/-- Bit 34 of a packed word is zero (R31). -/
theorem bit34_packI (opc : BitVec 7) (fn : BitVec 3) (o : FormI) : (packI opc fn o).getLsbD 34 = false := by
  simp only [packI, guardBits, BitVec.getLsbD_append]
  simp

theorem opcOf_packI (opc : BitVec 7) (fn : BitVec 3) (o : FormI) : opcOf (packI opc fn o) = opc.toNat := by
  rw [opcOf, field_packI_opc]

theorem fnOf_packI (opc : BitVec 7) (fn : BitVec 3) (o : FormI) : fnOf (packI opc fn o) = fn.toNat := by
  rw [fnOf, field_packI_fn]

theorem formIOf_packI (opc : BitVec 7) (fn : BitVec 3) (o : FormI) : formIOf (packI opc fn o) = o := by
  simp only [formIOf, guardOf, field_packI_cx, field_packI_pm, field_packI_pv, field_packI_cr, field_packI_pk, field_packI_te, field_packI_tch, field_packI_ttg, field_packI_d, field_packI_a, field_packI_imm]

/-- Decoding a Form I word gives the instruction of its row of the opcode map. -/
theorem decode_packI (opc : BitVec 7) (fn : BitVec 3) (o : FormI) (f : FormI → Instr)
    (h : reservedOpc.contains opc.toNat = false)
    (hr : (findRow opc.toNat fn.toNat opRows).map (·.build) = some (.i f)) :
    decode (packI opc fn o) = .ok (f o) := by
  obtain ⟨r, hr, hb⟩ := Option.map_eq_some_iff.mp hr
  simp only [decode, opcOf_packI, fnOf_packI, h, hr, hb, bit34_packI, formIOf_packI, Bool.false_eq_true, if_false]

end Sys2Proof
end

