-- ==== Sys2Proof/Laws/State.lean ====
section
/-!
SUPPORT. What each update of the state leaves as it was, one lemma per update and field, and what it makes of its own field.
-/

namespace Sys2Proof.Machine

/-! ## modPage -/

@[simp] theorem modPage_fc (s : State) (pg : Nat) (f : Page → Page) : (s.modPage pg f).fc = s.fc := rfl
@[simp] theorem modPage_agenda (s : State) (pg : Nat) (f : Page → Page) : (s.modPage pg f).agenda = s.agenda := rfl
@[simp] theorem modPage_inputs (s : State) (pg : Nat) (f : Page → Page) : (s.modPage pg f).inputs = s.inputs := rfl
@[simp] theorem modPage_issue (s : State) (pg : Nat) (f : Page → Page) : (s.modPage pg f).issue = s.issue := rfl
@[simp] theorem modPage_free (s : State) (pg : Nat) (f : Page → Page) : (s.modPage pg f).free = s.free := rfl
@[simp] theorem modPage_ids (s : State) (pg : Nat) (f : Page → Page) : (s.modPage pg f).ids = s.ids := rfl
@[simp] theorem modPage_mem (s : State) (pg : Nat) (f : Page → Page) : (s.modPage pg f).mem = s.mem := rfl
@[simp] theorem modPage_poison (s : State) (pg : Nat) (f : Page → Page) : (s.modPage pg f).poison = s.poison := rfl
@[simp] theorem modPage_codes (s : State) (pg : Nat) (f : Page → Page) : (s.modPage pg f).codes = s.codes := rfl
@[simp] theorem modPage_hbmUse (s : State) (pg : Nat) (f : Page → Page) : (s.modPage pg f).hbmUse = s.hbmUse := rfl
@[simp] theorem modPage_bring (s : State) (pg : Nat) (f : Page → Page) : (s.modPage pg f).bring = s.bring := rfl
@[simp] theorem modPage_flights (s : State) (pg : Nat) (f : Page → Page) : (s.modPage pg f).flights = s.flights := rfl
@[simp] theorem modPage_reqs (s : State) (pg : Nat) (f : Page → Page) : (s.modPage pg f).reqs = s.reqs := rfl
@[simp] theorem modPage_shadows (s : State) (pg : Nat) (f : Page → Page) : (s.modPage pg f).shadows = s.shadows := rfl
@[simp] theorem modPage_regions (s : State) (pg : Nat) (f : Page → Page) : (s.modPage pg f).regions = s.regions := rfl
@[simp] theorem modPage_tasks (s : State) (pg : Nat) (f : Page → Page) : (s.modPage pg f).tasks = s.tasks := rfl
@[simp] theorem modPage_tellers (s : State) (pg : Nat) (f : Page → Page) : (s.modPage pg f).tellers = s.tellers := rfl
@[simp] theorem modPage_dies (s : State) (pg : Nat) (f : Page → Page) : (s.modPage pg f).dies = s.dies := rfl
@[simp] theorem modPage_links (s : State) (pg : Nat) (f : Page → Page) : (s.modPage pg f).links = s.links := rfl
@[simp] theorem modPage_ptns (s : State) (pg : Nat) (f : Page → Page) : (s.modPage pg f).ptns = s.ptns := rfl
@[simp] theorem modPage_upds (s : State) (pg : Nat) (f : Page → Page) : (s.modPage pg f).upds = s.upds := rfl
@[simp] theorem modPage_packets (s : State) (pg : Nat) (f : Page → Page) : (s.modPage pg f).packets = s.packets := rfl
@[simp] theorem modPage_msgs (s : State) (pg : Nat) (f : Page → Page) : (s.modPage pg f).msgs = s.msgs := rfl
@[simp] theorem modPage_permits (s : State) (pg : Nat) (f : Page → Page) : (s.modPage pg f).permits = s.permits := rfl
@[simp] theorem modPage_peerq (s : State) (pg : Nat) (f : Page → Page) : (s.modPage pg f).peerq = s.peerq := rfl
@[simp] theorem modPage_spanOut (s : State) (pg : Nat) (f : Page → Page) : (s.modPage pg f).spanOut = s.spanOut := rfl
@[simp] theorem modPage_spanUse (s : State) (pg : Nat) (f : Page → Page) : (s.modPage pg f).spanUse = s.spanUse := rfl
@[simp] theorem modPage_hostOut (s : State) (pg : Nat) (f : Page → Page) : (s.modPage pg f).hostOut = s.hostOut := rfl
@[simp] theorem modPage_pfcmd (s : State) (pg : Nat) (f : Page → Page) : (s.modPage pg f).pfcmd = s.pfcmd := rfl
@[simp] theorem modPage_saves (s : State) (pg : Nat) (f : Page → Page) : (s.modPage pg f).saves = s.saves := rfl
theorem modPage_pages (s : State) (pg : Nat) (f : Page → Page) :
    (s.modPage pg f).pages = alMod pg f s.pages := rfl

/-! ## modRegion -/

@[simp] theorem modRegion_fc (s : State) (rg : Nat) (f : Region → Region) : (s.modRegion rg f).fc = s.fc := rfl
@[simp] theorem modRegion_agenda (s : State) (rg : Nat) (f : Region → Region) : (s.modRegion rg f).agenda = s.agenda := rfl
@[simp] theorem modRegion_inputs (s : State) (rg : Nat) (f : Region → Region) : (s.modRegion rg f).inputs = s.inputs := rfl
@[simp] theorem modRegion_issue (s : State) (rg : Nat) (f : Region → Region) : (s.modRegion rg f).issue = s.issue := rfl
@[simp] theorem modRegion_free (s : State) (rg : Nat) (f : Region → Region) : (s.modRegion rg f).free = s.free := rfl
@[simp] theorem modRegion_ids (s : State) (rg : Nat) (f : Region → Region) : (s.modRegion rg f).ids = s.ids := rfl
@[simp] theorem modRegion_mem (s : State) (rg : Nat) (f : Region → Region) : (s.modRegion rg f).mem = s.mem := rfl
@[simp] theorem modRegion_poison (s : State) (rg : Nat) (f : Region → Region) : (s.modRegion rg f).poison = s.poison := rfl
@[simp] theorem modRegion_codes (s : State) (rg : Nat) (f : Region → Region) : (s.modRegion rg f).codes = s.codes := rfl
@[simp] theorem modRegion_hbmUse (s : State) (rg : Nat) (f : Region → Region) : (s.modRegion rg f).hbmUse = s.hbmUse := rfl
@[simp] theorem modRegion_bring (s : State) (rg : Nat) (f : Region → Region) : (s.modRegion rg f).bring = s.bring := rfl
@[simp] theorem modRegion_flights (s : State) (rg : Nat) (f : Region → Region) : (s.modRegion rg f).flights = s.flights := rfl
@[simp] theorem modRegion_reqs (s : State) (rg : Nat) (f : Region → Region) : (s.modRegion rg f).reqs = s.reqs := rfl
@[simp] theorem modRegion_pages (s : State) (rg : Nat) (f : Region → Region) : (s.modRegion rg f).pages = s.pages := rfl
@[simp] theorem modRegion_shadows (s : State) (rg : Nat) (f : Region → Region) : (s.modRegion rg f).shadows = s.shadows := rfl
@[simp] theorem modRegion_tasks (s : State) (rg : Nat) (f : Region → Region) : (s.modRegion rg f).tasks = s.tasks := rfl
@[simp] theorem modRegion_tellers (s : State) (rg : Nat) (f : Region → Region) : (s.modRegion rg f).tellers = s.tellers := rfl
@[simp] theorem modRegion_dies (s : State) (rg : Nat) (f : Region → Region) : (s.modRegion rg f).dies = s.dies := rfl
@[simp] theorem modRegion_links (s : State) (rg : Nat) (f : Region → Region) : (s.modRegion rg f).links = s.links := rfl
@[simp] theorem modRegion_ptns (s : State) (rg : Nat) (f : Region → Region) : (s.modRegion rg f).ptns = s.ptns := rfl
@[simp] theorem modRegion_upds (s : State) (rg : Nat) (f : Region → Region) : (s.modRegion rg f).upds = s.upds := rfl
@[simp] theorem modRegion_packets (s : State) (rg : Nat) (f : Region → Region) : (s.modRegion rg f).packets = s.packets := rfl
@[simp] theorem modRegion_msgs (s : State) (rg : Nat) (f : Region → Region) : (s.modRegion rg f).msgs = s.msgs := rfl
@[simp] theorem modRegion_permits (s : State) (rg : Nat) (f : Region → Region) : (s.modRegion rg f).permits = s.permits := rfl
@[simp] theorem modRegion_peerq (s : State) (rg : Nat) (f : Region → Region) : (s.modRegion rg f).peerq = s.peerq := rfl
@[simp] theorem modRegion_spanOut (s : State) (rg : Nat) (f : Region → Region) : (s.modRegion rg f).spanOut = s.spanOut := rfl
@[simp] theorem modRegion_spanUse (s : State) (rg : Nat) (f : Region → Region) : (s.modRegion rg f).spanUse = s.spanUse := rfl
@[simp] theorem modRegion_hostOut (s : State) (rg : Nat) (f : Region → Region) : (s.modRegion rg f).hostOut = s.hostOut := rfl
@[simp] theorem modRegion_pfcmd (s : State) (rg : Nat) (f : Region → Region) : (s.modRegion rg f).pfcmd = s.pfcmd := rfl
@[simp] theorem modRegion_saves (s : State) (rg : Nat) (f : Region → Region) : (s.modRegion rg f).saves = s.saves := rfl
theorem modRegion_regions (s : State) (rg : Nat) (f : Region → Region) :
    (s.modRegion rg f).regions = alMod rg f s.regions := rfl

/-! ## modPtn -/

@[simp] theorem modPtn_fc (s : State) (p : Nat) (f : Ptn → Ptn) : (s.modPtn p f).fc = s.fc := rfl
@[simp] theorem modPtn_agenda (s : State) (p : Nat) (f : Ptn → Ptn) : (s.modPtn p f).agenda = s.agenda := rfl
@[simp] theorem modPtn_inputs (s : State) (p : Nat) (f : Ptn → Ptn) : (s.modPtn p f).inputs = s.inputs := rfl
@[simp] theorem modPtn_issue (s : State) (p : Nat) (f : Ptn → Ptn) : (s.modPtn p f).issue = s.issue := rfl
@[simp] theorem modPtn_free (s : State) (p : Nat) (f : Ptn → Ptn) : (s.modPtn p f).free = s.free := rfl
@[simp] theorem modPtn_ids (s : State) (p : Nat) (f : Ptn → Ptn) : (s.modPtn p f).ids = s.ids := rfl
@[simp] theorem modPtn_mem (s : State) (p : Nat) (f : Ptn → Ptn) : (s.modPtn p f).mem = s.mem := rfl
@[simp] theorem modPtn_poison (s : State) (p : Nat) (f : Ptn → Ptn) : (s.modPtn p f).poison = s.poison := rfl
@[simp] theorem modPtn_codes (s : State) (p : Nat) (f : Ptn → Ptn) : (s.modPtn p f).codes = s.codes := rfl
@[simp] theorem modPtn_hbmUse (s : State) (p : Nat) (f : Ptn → Ptn) : (s.modPtn p f).hbmUse = s.hbmUse := rfl
@[simp] theorem modPtn_bring (s : State) (p : Nat) (f : Ptn → Ptn) : (s.modPtn p f).bring = s.bring := rfl
@[simp] theorem modPtn_flights (s : State) (p : Nat) (f : Ptn → Ptn) : (s.modPtn p f).flights = s.flights := rfl
@[simp] theorem modPtn_reqs (s : State) (p : Nat) (f : Ptn → Ptn) : (s.modPtn p f).reqs = s.reqs := rfl
@[simp] theorem modPtn_pages (s : State) (p : Nat) (f : Ptn → Ptn) : (s.modPtn p f).pages = s.pages := rfl
@[simp] theorem modPtn_shadows (s : State) (p : Nat) (f : Ptn → Ptn) : (s.modPtn p f).shadows = s.shadows := rfl
@[simp] theorem modPtn_regions (s : State) (p : Nat) (f : Ptn → Ptn) : (s.modPtn p f).regions = s.regions := rfl
@[simp] theorem modPtn_tasks (s : State) (p : Nat) (f : Ptn → Ptn) : (s.modPtn p f).tasks = s.tasks := rfl
@[simp] theorem modPtn_tellers (s : State) (p : Nat) (f : Ptn → Ptn) : (s.modPtn p f).tellers = s.tellers := rfl
@[simp] theorem modPtn_dies (s : State) (p : Nat) (f : Ptn → Ptn) : (s.modPtn p f).dies = s.dies := rfl
@[simp] theorem modPtn_links (s : State) (p : Nat) (f : Ptn → Ptn) : (s.modPtn p f).links = s.links := rfl
@[simp] theorem modPtn_upds (s : State) (p : Nat) (f : Ptn → Ptn) : (s.modPtn p f).upds = s.upds := rfl
@[simp] theorem modPtn_packets (s : State) (p : Nat) (f : Ptn → Ptn) : (s.modPtn p f).packets = s.packets := rfl
@[simp] theorem modPtn_msgs (s : State) (p : Nat) (f : Ptn → Ptn) : (s.modPtn p f).msgs = s.msgs := rfl
@[simp] theorem modPtn_permits (s : State) (p : Nat) (f : Ptn → Ptn) : (s.modPtn p f).permits = s.permits := rfl
@[simp] theorem modPtn_peerq (s : State) (p : Nat) (f : Ptn → Ptn) : (s.modPtn p f).peerq = s.peerq := rfl
@[simp] theorem modPtn_spanOut (s : State) (p : Nat) (f : Ptn → Ptn) : (s.modPtn p f).spanOut = s.spanOut := rfl
@[simp] theorem modPtn_spanUse (s : State) (p : Nat) (f : Ptn → Ptn) : (s.modPtn p f).spanUse = s.spanUse := rfl
@[simp] theorem modPtn_hostOut (s : State) (p : Nat) (f : Ptn → Ptn) : (s.modPtn p f).hostOut = s.hostOut := rfl
@[simp] theorem modPtn_pfcmd (s : State) (p : Nat) (f : Ptn → Ptn) : (s.modPtn p f).pfcmd = s.pfcmd := rfl
@[simp] theorem modPtn_saves (s : State) (p : Nat) (f : Ptn → Ptn) : (s.modPtn p f).saves = s.saves := rfl
theorem modPtn_ptns (s : State) (p : Nat) (f : Ptn → Ptn) :
    (s.modPtn p f).ptns = alMod p f s.ptns := rfl

/-! ## modDie -/

@[simp] theorem modDie_fc (s : State) (d : Nat) (f : Die → Die) : (s.modDie d f).fc = s.fc := rfl
@[simp] theorem modDie_agenda (s : State) (d : Nat) (f : Die → Die) : (s.modDie d f).agenda = s.agenda := rfl
@[simp] theorem modDie_inputs (s : State) (d : Nat) (f : Die → Die) : (s.modDie d f).inputs = s.inputs := rfl
@[simp] theorem modDie_issue (s : State) (d : Nat) (f : Die → Die) : (s.modDie d f).issue = s.issue := rfl
@[simp] theorem modDie_free (s : State) (d : Nat) (f : Die → Die) : (s.modDie d f).free = s.free := rfl
@[simp] theorem modDie_ids (s : State) (d : Nat) (f : Die → Die) : (s.modDie d f).ids = s.ids := rfl
@[simp] theorem modDie_mem (s : State) (d : Nat) (f : Die → Die) : (s.modDie d f).mem = s.mem := rfl
@[simp] theorem modDie_poison (s : State) (d : Nat) (f : Die → Die) : (s.modDie d f).poison = s.poison := rfl
@[simp] theorem modDie_codes (s : State) (d : Nat) (f : Die → Die) : (s.modDie d f).codes = s.codes := rfl
@[simp] theorem modDie_hbmUse (s : State) (d : Nat) (f : Die → Die) : (s.modDie d f).hbmUse = s.hbmUse := rfl
@[simp] theorem modDie_bring (s : State) (d : Nat) (f : Die → Die) : (s.modDie d f).bring = s.bring := rfl
@[simp] theorem modDie_flights (s : State) (d : Nat) (f : Die → Die) : (s.modDie d f).flights = s.flights := rfl
@[simp] theorem modDie_reqs (s : State) (d : Nat) (f : Die → Die) : (s.modDie d f).reqs = s.reqs := rfl
@[simp] theorem modDie_pages (s : State) (d : Nat) (f : Die → Die) : (s.modDie d f).pages = s.pages := rfl
@[simp] theorem modDie_shadows (s : State) (d : Nat) (f : Die → Die) : (s.modDie d f).shadows = s.shadows := rfl
@[simp] theorem modDie_regions (s : State) (d : Nat) (f : Die → Die) : (s.modDie d f).regions = s.regions := rfl
@[simp] theorem modDie_tasks (s : State) (d : Nat) (f : Die → Die) : (s.modDie d f).tasks = s.tasks := rfl
@[simp] theorem modDie_tellers (s : State) (d : Nat) (f : Die → Die) : (s.modDie d f).tellers = s.tellers := rfl
@[simp] theorem modDie_links (s : State) (d : Nat) (f : Die → Die) : (s.modDie d f).links = s.links := rfl
@[simp] theorem modDie_ptns (s : State) (d : Nat) (f : Die → Die) : (s.modDie d f).ptns = s.ptns := rfl
@[simp] theorem modDie_upds (s : State) (d : Nat) (f : Die → Die) : (s.modDie d f).upds = s.upds := rfl
@[simp] theorem modDie_packets (s : State) (d : Nat) (f : Die → Die) : (s.modDie d f).packets = s.packets := rfl
@[simp] theorem modDie_msgs (s : State) (d : Nat) (f : Die → Die) : (s.modDie d f).msgs = s.msgs := rfl
@[simp] theorem modDie_permits (s : State) (d : Nat) (f : Die → Die) : (s.modDie d f).permits = s.permits := rfl
@[simp] theorem modDie_peerq (s : State) (d : Nat) (f : Die → Die) : (s.modDie d f).peerq = s.peerq := rfl
@[simp] theorem modDie_spanOut (s : State) (d : Nat) (f : Die → Die) : (s.modDie d f).spanOut = s.spanOut := rfl
@[simp] theorem modDie_spanUse (s : State) (d : Nat) (f : Die → Die) : (s.modDie d f).spanUse = s.spanUse := rfl
@[simp] theorem modDie_hostOut (s : State) (d : Nat) (f : Die → Die) : (s.modDie d f).hostOut = s.hostOut := rfl
@[simp] theorem modDie_pfcmd (s : State) (d : Nat) (f : Die → Die) : (s.modDie d f).pfcmd = s.pfcmd := rfl
@[simp] theorem modDie_saves (s : State) (d : Nat) (f : Die → Die) : (s.modDie d f).saves = s.saves := rfl
theorem modDie_dies (s : State) (d : Nat) (f : Die → Die) :
    (s.modDie d f).dies = s.dies.modify d f := rfl

/-! ## modLink -/

@[simp] theorem modLink_fc (s : State) (l : Nat) (f : Link → Link) : (s.modLink l f).fc = s.fc := rfl
@[simp] theorem modLink_agenda (s : State) (l : Nat) (f : Link → Link) : (s.modLink l f).agenda = s.agenda := rfl
@[simp] theorem modLink_inputs (s : State) (l : Nat) (f : Link → Link) : (s.modLink l f).inputs = s.inputs := rfl
@[simp] theorem modLink_issue (s : State) (l : Nat) (f : Link → Link) : (s.modLink l f).issue = s.issue := rfl
@[simp] theorem modLink_free (s : State) (l : Nat) (f : Link → Link) : (s.modLink l f).free = s.free := rfl
@[simp] theorem modLink_ids (s : State) (l : Nat) (f : Link → Link) : (s.modLink l f).ids = s.ids := rfl
@[simp] theorem modLink_mem (s : State) (l : Nat) (f : Link → Link) : (s.modLink l f).mem = s.mem := rfl
@[simp] theorem modLink_poison (s : State) (l : Nat) (f : Link → Link) : (s.modLink l f).poison = s.poison := rfl
@[simp] theorem modLink_codes (s : State) (l : Nat) (f : Link → Link) : (s.modLink l f).codes = s.codes := rfl
@[simp] theorem modLink_hbmUse (s : State) (l : Nat) (f : Link → Link) : (s.modLink l f).hbmUse = s.hbmUse := rfl
@[simp] theorem modLink_bring (s : State) (l : Nat) (f : Link → Link) : (s.modLink l f).bring = s.bring := rfl
@[simp] theorem modLink_flights (s : State) (l : Nat) (f : Link → Link) : (s.modLink l f).flights = s.flights := rfl
@[simp] theorem modLink_reqs (s : State) (l : Nat) (f : Link → Link) : (s.modLink l f).reqs = s.reqs := rfl
@[simp] theorem modLink_pages (s : State) (l : Nat) (f : Link → Link) : (s.modLink l f).pages = s.pages := rfl
@[simp] theorem modLink_shadows (s : State) (l : Nat) (f : Link → Link) : (s.modLink l f).shadows = s.shadows := rfl
@[simp] theorem modLink_regions (s : State) (l : Nat) (f : Link → Link) : (s.modLink l f).regions = s.regions := rfl
@[simp] theorem modLink_tasks (s : State) (l : Nat) (f : Link → Link) : (s.modLink l f).tasks = s.tasks := rfl
@[simp] theorem modLink_tellers (s : State) (l : Nat) (f : Link → Link) : (s.modLink l f).tellers = s.tellers := rfl
@[simp] theorem modLink_dies (s : State) (l : Nat) (f : Link → Link) : (s.modLink l f).dies = s.dies := rfl
@[simp] theorem modLink_ptns (s : State) (l : Nat) (f : Link → Link) : (s.modLink l f).ptns = s.ptns := rfl
@[simp] theorem modLink_upds (s : State) (l : Nat) (f : Link → Link) : (s.modLink l f).upds = s.upds := rfl
@[simp] theorem modLink_packets (s : State) (l : Nat) (f : Link → Link) : (s.modLink l f).packets = s.packets := rfl
@[simp] theorem modLink_msgs (s : State) (l : Nat) (f : Link → Link) : (s.modLink l f).msgs = s.msgs := rfl
@[simp] theorem modLink_permits (s : State) (l : Nat) (f : Link → Link) : (s.modLink l f).permits = s.permits := rfl
@[simp] theorem modLink_peerq (s : State) (l : Nat) (f : Link → Link) : (s.modLink l f).peerq = s.peerq := rfl
@[simp] theorem modLink_spanOut (s : State) (l : Nat) (f : Link → Link) : (s.modLink l f).spanOut = s.spanOut := rfl
@[simp] theorem modLink_spanUse (s : State) (l : Nat) (f : Link → Link) : (s.modLink l f).spanUse = s.spanUse := rfl
@[simp] theorem modLink_hostOut (s : State) (l : Nat) (f : Link → Link) : (s.modLink l f).hostOut = s.hostOut := rfl
@[simp] theorem modLink_pfcmd (s : State) (l : Nat) (f : Link → Link) : (s.modLink l f).pfcmd = s.pfcmd := rfl
@[simp] theorem modLink_saves (s : State) (l : Nat) (f : Link → Link) : (s.modLink l f).saves = s.saves := rfl
theorem modLink_links (s : State) (l : Nat) (f : Link → Link) :
    (s.modLink l f).links = s.links.modify l f := rfl

/-! ## modTeller -/

@[simp] theorem modTeller_fc (s : State) (t : Nat) (f : Teller → Teller) : (s.modTeller t f).fc = s.fc := rfl
@[simp] theorem modTeller_agenda (s : State) (t : Nat) (f : Teller → Teller) : (s.modTeller t f).agenda = s.agenda := rfl
@[simp] theorem modTeller_inputs (s : State) (t : Nat) (f : Teller → Teller) : (s.modTeller t f).inputs = s.inputs := rfl
@[simp] theorem modTeller_issue (s : State) (t : Nat) (f : Teller → Teller) : (s.modTeller t f).issue = s.issue := rfl
@[simp] theorem modTeller_free (s : State) (t : Nat) (f : Teller → Teller) : (s.modTeller t f).free = s.free := rfl
@[simp] theorem modTeller_ids (s : State) (t : Nat) (f : Teller → Teller) : (s.modTeller t f).ids = s.ids := rfl
@[simp] theorem modTeller_mem (s : State) (t : Nat) (f : Teller → Teller) : (s.modTeller t f).mem = s.mem := rfl
@[simp] theorem modTeller_poison (s : State) (t : Nat) (f : Teller → Teller) : (s.modTeller t f).poison = s.poison := rfl
@[simp] theorem modTeller_codes (s : State) (t : Nat) (f : Teller → Teller) : (s.modTeller t f).codes = s.codes := rfl
@[simp] theorem modTeller_hbmUse (s : State) (t : Nat) (f : Teller → Teller) : (s.modTeller t f).hbmUse = s.hbmUse := rfl
@[simp] theorem modTeller_bring (s : State) (t : Nat) (f : Teller → Teller) : (s.modTeller t f).bring = s.bring := rfl
@[simp] theorem modTeller_flights (s : State) (t : Nat) (f : Teller → Teller) : (s.modTeller t f).flights = s.flights := rfl
@[simp] theorem modTeller_reqs (s : State) (t : Nat) (f : Teller → Teller) : (s.modTeller t f).reqs = s.reqs := rfl
@[simp] theorem modTeller_pages (s : State) (t : Nat) (f : Teller → Teller) : (s.modTeller t f).pages = s.pages := rfl
@[simp] theorem modTeller_shadows (s : State) (t : Nat) (f : Teller → Teller) : (s.modTeller t f).shadows = s.shadows := rfl
@[simp] theorem modTeller_regions (s : State) (t : Nat) (f : Teller → Teller) : (s.modTeller t f).regions = s.regions := rfl
@[simp] theorem modTeller_tasks (s : State) (t : Nat) (f : Teller → Teller) : (s.modTeller t f).tasks = s.tasks := rfl
@[simp] theorem modTeller_dies (s : State) (t : Nat) (f : Teller → Teller) : (s.modTeller t f).dies = s.dies := rfl
@[simp] theorem modTeller_links (s : State) (t : Nat) (f : Teller → Teller) : (s.modTeller t f).links = s.links := rfl
@[simp] theorem modTeller_ptns (s : State) (t : Nat) (f : Teller → Teller) : (s.modTeller t f).ptns = s.ptns := rfl
@[simp] theorem modTeller_upds (s : State) (t : Nat) (f : Teller → Teller) : (s.modTeller t f).upds = s.upds := rfl
@[simp] theorem modTeller_packets (s : State) (t : Nat) (f : Teller → Teller) : (s.modTeller t f).packets = s.packets := rfl
@[simp] theorem modTeller_msgs (s : State) (t : Nat) (f : Teller → Teller) : (s.modTeller t f).msgs = s.msgs := rfl
@[simp] theorem modTeller_permits (s : State) (t : Nat) (f : Teller → Teller) : (s.modTeller t f).permits = s.permits := rfl
@[simp] theorem modTeller_peerq (s : State) (t : Nat) (f : Teller → Teller) : (s.modTeller t f).peerq = s.peerq := rfl
@[simp] theorem modTeller_spanOut (s : State) (t : Nat) (f : Teller → Teller) : (s.modTeller t f).spanOut = s.spanOut := rfl
@[simp] theorem modTeller_spanUse (s : State) (t : Nat) (f : Teller → Teller) : (s.modTeller t f).spanUse = s.spanUse := rfl
@[simp] theorem modTeller_hostOut (s : State) (t : Nat) (f : Teller → Teller) : (s.modTeller t f).hostOut = s.hostOut := rfl
@[simp] theorem modTeller_pfcmd (s : State) (t : Nat) (f : Teller → Teller) : (s.modTeller t f).pfcmd = s.pfcmd := rfl
@[simp] theorem modTeller_saves (s : State) (t : Nat) (f : Teller → Teller) : (s.modTeller t f).saves = s.saves := rfl
theorem modTeller_tellers (s : State) (t : Nat) (f : Teller → Teller) :
    (s.modTeller t f).tellers = s.tellers.modify t f := rfl

/-! ## modTctx -/

@[simp] theorem modTctx_fc (s : State) (t cx : Nat) (f : TCtx → TCtx) : (s.modTctx t cx f).fc = s.fc := rfl
@[simp] theorem modTctx_agenda (s : State) (t cx : Nat) (f : TCtx → TCtx) : (s.modTctx t cx f).agenda = s.agenda := rfl
@[simp] theorem modTctx_inputs (s : State) (t cx : Nat) (f : TCtx → TCtx) : (s.modTctx t cx f).inputs = s.inputs := rfl
@[simp] theorem modTctx_issue (s : State) (t cx : Nat) (f : TCtx → TCtx) : (s.modTctx t cx f).issue = s.issue := rfl
@[simp] theorem modTctx_free (s : State) (t cx : Nat) (f : TCtx → TCtx) : (s.modTctx t cx f).free = s.free := rfl
@[simp] theorem modTctx_ids (s : State) (t cx : Nat) (f : TCtx → TCtx) : (s.modTctx t cx f).ids = s.ids := rfl
@[simp] theorem modTctx_mem (s : State) (t cx : Nat) (f : TCtx → TCtx) : (s.modTctx t cx f).mem = s.mem := rfl
@[simp] theorem modTctx_poison (s : State) (t cx : Nat) (f : TCtx → TCtx) : (s.modTctx t cx f).poison = s.poison := rfl
@[simp] theorem modTctx_codes (s : State) (t cx : Nat) (f : TCtx → TCtx) : (s.modTctx t cx f).codes = s.codes := rfl
@[simp] theorem modTctx_hbmUse (s : State) (t cx : Nat) (f : TCtx → TCtx) : (s.modTctx t cx f).hbmUse = s.hbmUse := rfl
@[simp] theorem modTctx_bring (s : State) (t cx : Nat) (f : TCtx → TCtx) : (s.modTctx t cx f).bring = s.bring := rfl
@[simp] theorem modTctx_flights (s : State) (t cx : Nat) (f : TCtx → TCtx) : (s.modTctx t cx f).flights = s.flights := rfl
@[simp] theorem modTctx_reqs (s : State) (t cx : Nat) (f : TCtx → TCtx) : (s.modTctx t cx f).reqs = s.reqs := rfl
@[simp] theorem modTctx_pages (s : State) (t cx : Nat) (f : TCtx → TCtx) : (s.modTctx t cx f).pages = s.pages := rfl
@[simp] theorem modTctx_shadows (s : State) (t cx : Nat) (f : TCtx → TCtx) : (s.modTctx t cx f).shadows = s.shadows := rfl
@[simp] theorem modTctx_regions (s : State) (t cx : Nat) (f : TCtx → TCtx) : (s.modTctx t cx f).regions = s.regions := rfl
@[simp] theorem modTctx_tasks (s : State) (t cx : Nat) (f : TCtx → TCtx) : (s.modTctx t cx f).tasks = s.tasks := rfl
@[simp] theorem modTctx_dies (s : State) (t cx : Nat) (f : TCtx → TCtx) : (s.modTctx t cx f).dies = s.dies := rfl
@[simp] theorem modTctx_links (s : State) (t cx : Nat) (f : TCtx → TCtx) : (s.modTctx t cx f).links = s.links := rfl
@[simp] theorem modTctx_ptns (s : State) (t cx : Nat) (f : TCtx → TCtx) : (s.modTctx t cx f).ptns = s.ptns := rfl
@[simp] theorem modTctx_upds (s : State) (t cx : Nat) (f : TCtx → TCtx) : (s.modTctx t cx f).upds = s.upds := rfl
@[simp] theorem modTctx_packets (s : State) (t cx : Nat) (f : TCtx → TCtx) : (s.modTctx t cx f).packets = s.packets := rfl
@[simp] theorem modTctx_msgs (s : State) (t cx : Nat) (f : TCtx → TCtx) : (s.modTctx t cx f).msgs = s.msgs := rfl
@[simp] theorem modTctx_permits (s : State) (t cx : Nat) (f : TCtx → TCtx) : (s.modTctx t cx f).permits = s.permits := rfl
@[simp] theorem modTctx_peerq (s : State) (t cx : Nat) (f : TCtx → TCtx) : (s.modTctx t cx f).peerq = s.peerq := rfl
@[simp] theorem modTctx_spanOut (s : State) (t cx : Nat) (f : TCtx → TCtx) : (s.modTctx t cx f).spanOut = s.spanOut := rfl
@[simp] theorem modTctx_spanUse (s : State) (t cx : Nat) (f : TCtx → TCtx) : (s.modTctx t cx f).spanUse = s.spanUse := rfl
@[simp] theorem modTctx_hostOut (s : State) (t cx : Nat) (f : TCtx → TCtx) : (s.modTctx t cx f).hostOut = s.hostOut := rfl
@[simp] theorem modTctx_pfcmd (s : State) (t cx : Nat) (f : TCtx → TCtx) : (s.modTctx t cx f).pfcmd = s.pfcmd := rfl
@[simp] theorem modTctx_saves (s : State) (t cx : Nat) (f : TCtx → TCtx) : (s.modTctx t cx f).saves = s.saves := rfl
theorem modTctx_tellers (s : State) (t cx : Nat) (f : TCtx → TCtx) :
    (s.modTctx t cx f).tellers = s.tellers.modify t fun l => { l with ctxs := l.ctxs.modify cx f } := rfl

/-! ## modTask -/

@[simp] theorem modTask_fc (s : State) (p q : Nat) (f : Task → Task) : (s.modTask p q f).fc = s.fc := rfl
@[simp] theorem modTask_agenda (s : State) (p q : Nat) (f : Task → Task) : (s.modTask p q f).agenda = s.agenda := rfl
@[simp] theorem modTask_inputs (s : State) (p q : Nat) (f : Task → Task) : (s.modTask p q f).inputs = s.inputs := rfl
@[simp] theorem modTask_issue (s : State) (p q : Nat) (f : Task → Task) : (s.modTask p q f).issue = s.issue := rfl
@[simp] theorem modTask_free (s : State) (p q : Nat) (f : Task → Task) : (s.modTask p q f).free = s.free := rfl
@[simp] theorem modTask_ids (s : State) (p q : Nat) (f : Task → Task) : (s.modTask p q f).ids = s.ids := rfl
@[simp] theorem modTask_mem (s : State) (p q : Nat) (f : Task → Task) : (s.modTask p q f).mem = s.mem := rfl
@[simp] theorem modTask_poison (s : State) (p q : Nat) (f : Task → Task) : (s.modTask p q f).poison = s.poison := rfl
@[simp] theorem modTask_codes (s : State) (p q : Nat) (f : Task → Task) : (s.modTask p q f).codes = s.codes := rfl
@[simp] theorem modTask_hbmUse (s : State) (p q : Nat) (f : Task → Task) : (s.modTask p q f).hbmUse = s.hbmUse := rfl
@[simp] theorem modTask_bring (s : State) (p q : Nat) (f : Task → Task) : (s.modTask p q f).bring = s.bring := rfl
@[simp] theorem modTask_flights (s : State) (p q : Nat) (f : Task → Task) : (s.modTask p q f).flights = s.flights := rfl
@[simp] theorem modTask_reqs (s : State) (p q : Nat) (f : Task → Task) : (s.modTask p q f).reqs = s.reqs := rfl
@[simp] theorem modTask_pages (s : State) (p q : Nat) (f : Task → Task) : (s.modTask p q f).pages = s.pages := rfl
@[simp] theorem modTask_shadows (s : State) (p q : Nat) (f : Task → Task) : (s.modTask p q f).shadows = s.shadows := rfl
@[simp] theorem modTask_regions (s : State) (p q : Nat) (f : Task → Task) : (s.modTask p q f).regions = s.regions := rfl
@[simp] theorem modTask_tellers (s : State) (p q : Nat) (f : Task → Task) : (s.modTask p q f).tellers = s.tellers := rfl
@[simp] theorem modTask_dies (s : State) (p q : Nat) (f : Task → Task) : (s.modTask p q f).dies = s.dies := rfl
@[simp] theorem modTask_links (s : State) (p q : Nat) (f : Task → Task) : (s.modTask p q f).links = s.links := rfl
@[simp] theorem modTask_ptns (s : State) (p q : Nat) (f : Task → Task) : (s.modTask p q f).ptns = s.ptns := rfl
@[simp] theorem modTask_upds (s : State) (p q : Nat) (f : Task → Task) : (s.modTask p q f).upds = s.upds := rfl
@[simp] theorem modTask_packets (s : State) (p q : Nat) (f : Task → Task) : (s.modTask p q f).packets = s.packets := rfl
@[simp] theorem modTask_msgs (s : State) (p q : Nat) (f : Task → Task) : (s.modTask p q f).msgs = s.msgs := rfl
@[simp] theorem modTask_permits (s : State) (p q : Nat) (f : Task → Task) : (s.modTask p q f).permits = s.permits := rfl
@[simp] theorem modTask_peerq (s : State) (p q : Nat) (f : Task → Task) : (s.modTask p q f).peerq = s.peerq := rfl
@[simp] theorem modTask_spanOut (s : State) (p q : Nat) (f : Task → Task) : (s.modTask p q f).spanOut = s.spanOut := rfl
@[simp] theorem modTask_spanUse (s : State) (p q : Nat) (f : Task → Task) : (s.modTask p q f).spanUse = s.spanUse := rfl
@[simp] theorem modTask_hostOut (s : State) (p q : Nat) (f : Task → Task) : (s.modTask p q f).hostOut = s.hostOut := rfl
@[simp] theorem modTask_pfcmd (s : State) (p q : Nat) (f : Task → Task) : (s.modTask p q f).pfcmd = s.pfcmd := rfl
@[simp] theorem modTask_saves (s : State) (p q : Nat) (f : Task → Task) : (s.modTask p q f).saves = s.saves := rfl

/-! ## modFlight -/

@[simp] theorem modFlight_fc (s : State) (fid : Nat) (f : Flight → Flight) : (s.modFlight fid f).fc = s.fc := rfl
@[simp] theorem modFlight_agenda (s : State) (fid : Nat) (f : Flight → Flight) : (s.modFlight fid f).agenda = s.agenda := rfl
@[simp] theorem modFlight_inputs (s : State) (fid : Nat) (f : Flight → Flight) : (s.modFlight fid f).inputs = s.inputs := rfl
@[simp] theorem modFlight_issue (s : State) (fid : Nat) (f : Flight → Flight) : (s.modFlight fid f).issue = s.issue := rfl
@[simp] theorem modFlight_free (s : State) (fid : Nat) (f : Flight → Flight) : (s.modFlight fid f).free = s.free := rfl
@[simp] theorem modFlight_ids (s : State) (fid : Nat) (f : Flight → Flight) : (s.modFlight fid f).ids = s.ids := rfl
@[simp] theorem modFlight_mem (s : State) (fid : Nat) (f : Flight → Flight) : (s.modFlight fid f).mem = s.mem := rfl
@[simp] theorem modFlight_poison (s : State) (fid : Nat) (f : Flight → Flight) : (s.modFlight fid f).poison = s.poison := rfl
@[simp] theorem modFlight_codes (s : State) (fid : Nat) (f : Flight → Flight) : (s.modFlight fid f).codes = s.codes := rfl
@[simp] theorem modFlight_hbmUse (s : State) (fid : Nat) (f : Flight → Flight) : (s.modFlight fid f).hbmUse = s.hbmUse := rfl
@[simp] theorem modFlight_bring (s : State) (fid : Nat) (f : Flight → Flight) : (s.modFlight fid f).bring = s.bring := rfl
@[simp] theorem modFlight_reqs (s : State) (fid : Nat) (f : Flight → Flight) : (s.modFlight fid f).reqs = s.reqs := rfl
@[simp] theorem modFlight_pages (s : State) (fid : Nat) (f : Flight → Flight) : (s.modFlight fid f).pages = s.pages := rfl
@[simp] theorem modFlight_shadows (s : State) (fid : Nat) (f : Flight → Flight) : (s.modFlight fid f).shadows = s.shadows := rfl
@[simp] theorem modFlight_regions (s : State) (fid : Nat) (f : Flight → Flight) : (s.modFlight fid f).regions = s.regions := rfl
@[simp] theorem modFlight_tasks (s : State) (fid : Nat) (f : Flight → Flight) : (s.modFlight fid f).tasks = s.tasks := rfl
@[simp] theorem modFlight_tellers (s : State) (fid : Nat) (f : Flight → Flight) : (s.modFlight fid f).tellers = s.tellers := rfl
@[simp] theorem modFlight_dies (s : State) (fid : Nat) (f : Flight → Flight) : (s.modFlight fid f).dies = s.dies := rfl
@[simp] theorem modFlight_links (s : State) (fid : Nat) (f : Flight → Flight) : (s.modFlight fid f).links = s.links := rfl
@[simp] theorem modFlight_ptns (s : State) (fid : Nat) (f : Flight → Flight) : (s.modFlight fid f).ptns = s.ptns := rfl
@[simp] theorem modFlight_upds (s : State) (fid : Nat) (f : Flight → Flight) : (s.modFlight fid f).upds = s.upds := rfl
@[simp] theorem modFlight_packets (s : State) (fid : Nat) (f : Flight → Flight) : (s.modFlight fid f).packets = s.packets := rfl
@[simp] theorem modFlight_msgs (s : State) (fid : Nat) (f : Flight → Flight) : (s.modFlight fid f).msgs = s.msgs := rfl
@[simp] theorem modFlight_permits (s : State) (fid : Nat) (f : Flight → Flight) : (s.modFlight fid f).permits = s.permits := rfl
@[simp] theorem modFlight_peerq (s : State) (fid : Nat) (f : Flight → Flight) : (s.modFlight fid f).peerq = s.peerq := rfl
@[simp] theorem modFlight_spanOut (s : State) (fid : Nat) (f : Flight → Flight) : (s.modFlight fid f).spanOut = s.spanOut := rfl
@[simp] theorem modFlight_spanUse (s : State) (fid : Nat) (f : Flight → Flight) : (s.modFlight fid f).spanUse = s.spanUse := rfl
@[simp] theorem modFlight_hostOut (s : State) (fid : Nat) (f : Flight → Flight) : (s.modFlight fid f).hostOut = s.hostOut := rfl
@[simp] theorem modFlight_pfcmd (s : State) (fid : Nat) (f : Flight → Flight) : (s.modFlight fid f).pfcmd = s.pfcmd := rfl
@[simp] theorem modFlight_saves (s : State) (fid : Nat) (f : Flight → Flight) : (s.modFlight fid f).saves = s.saves := rfl

/-! ## dropFlight -/

@[simp] theorem dropFlight_fc (s : State) (fid : Nat) : (s.dropFlight fid).fc = s.fc := rfl
@[simp] theorem dropFlight_agenda (s : State) (fid : Nat) : (s.dropFlight fid).agenda = s.agenda := rfl
@[simp] theorem dropFlight_inputs (s : State) (fid : Nat) : (s.dropFlight fid).inputs = s.inputs := rfl
@[simp] theorem dropFlight_issue (s : State) (fid : Nat) : (s.dropFlight fid).issue = s.issue := rfl
@[simp] theorem dropFlight_free (s : State) (fid : Nat) : (s.dropFlight fid).free = s.free := rfl
@[simp] theorem dropFlight_ids (s : State) (fid : Nat) : (s.dropFlight fid).ids = s.ids := rfl
@[simp] theorem dropFlight_mem (s : State) (fid : Nat) : (s.dropFlight fid).mem = s.mem := rfl
@[simp] theorem dropFlight_poison (s : State) (fid : Nat) : (s.dropFlight fid).poison = s.poison := rfl
@[simp] theorem dropFlight_codes (s : State) (fid : Nat) : (s.dropFlight fid).codes = s.codes := rfl
@[simp] theorem dropFlight_hbmUse (s : State) (fid : Nat) : (s.dropFlight fid).hbmUse = s.hbmUse := rfl
@[simp] theorem dropFlight_bring (s : State) (fid : Nat) : (s.dropFlight fid).bring = s.bring := rfl
@[simp] theorem dropFlight_pages (s : State) (fid : Nat) : (s.dropFlight fid).pages = s.pages := rfl
@[simp] theorem dropFlight_shadows (s : State) (fid : Nat) : (s.dropFlight fid).shadows = s.shadows := rfl
@[simp] theorem dropFlight_regions (s : State) (fid : Nat) : (s.dropFlight fid).regions = s.regions := rfl
@[simp] theorem dropFlight_tasks (s : State) (fid : Nat) : (s.dropFlight fid).tasks = s.tasks := rfl
@[simp] theorem dropFlight_tellers (s : State) (fid : Nat) : (s.dropFlight fid).tellers = s.tellers := rfl
@[simp] theorem dropFlight_dies (s : State) (fid : Nat) : (s.dropFlight fid).dies = s.dies := rfl
@[simp] theorem dropFlight_links (s : State) (fid : Nat) : (s.dropFlight fid).links = s.links := rfl
@[simp] theorem dropFlight_ptns (s : State) (fid : Nat) : (s.dropFlight fid).ptns = s.ptns := rfl
@[simp] theorem dropFlight_upds (s : State) (fid : Nat) : (s.dropFlight fid).upds = s.upds := rfl
@[simp] theorem dropFlight_packets (s : State) (fid : Nat) : (s.dropFlight fid).packets = s.packets := rfl
@[simp] theorem dropFlight_msgs (s : State) (fid : Nat) : (s.dropFlight fid).msgs = s.msgs := rfl
@[simp] theorem dropFlight_permits (s : State) (fid : Nat) : (s.dropFlight fid).permits = s.permits := rfl
@[simp] theorem dropFlight_peerq (s : State) (fid : Nat) : (s.dropFlight fid).peerq = s.peerq := rfl
@[simp] theorem dropFlight_spanOut (s : State) (fid : Nat) : (s.dropFlight fid).spanOut = s.spanOut := rfl
@[simp] theorem dropFlight_spanUse (s : State) (fid : Nat) : (s.dropFlight fid).spanUse = s.spanUse := rfl
@[simp] theorem dropFlight_hostOut (s : State) (fid : Nat) : (s.dropFlight fid).hostOut = s.hostOut := rfl
@[simp] theorem dropFlight_pfcmd (s : State) (fid : Nat) : (s.dropFlight fid).pfcmd = s.pfcmd := rfl
@[simp] theorem dropFlight_saves (s : State) (fid : Nat) : (s.dropFlight fid).saves = s.saves := rfl
theorem dropFlight_flights (s : State) (fid : Nat) :
    (s.dropFlight fid).flights = s.flights.filter fun x => x.fid != fid := rfl

/-! ## modPe -/

@[simp] theorem modPe_fc (s : State) (pg pe : Nat) (f : Pe → Pe) : (s.modPe pg pe f).fc = s.fc := rfl
@[simp] theorem modPe_agenda (s : State) (pg pe : Nat) (f : Pe → Pe) : (s.modPe pg pe f).agenda = s.agenda := rfl
@[simp] theorem modPe_inputs (s : State) (pg pe : Nat) (f : Pe → Pe) : (s.modPe pg pe f).inputs = s.inputs := rfl
@[simp] theorem modPe_issue (s : State) (pg pe : Nat) (f : Pe → Pe) : (s.modPe pg pe f).issue = s.issue := rfl
@[simp] theorem modPe_free (s : State) (pg pe : Nat) (f : Pe → Pe) : (s.modPe pg pe f).free = s.free := rfl
@[simp] theorem modPe_ids (s : State) (pg pe : Nat) (f : Pe → Pe) : (s.modPe pg pe f).ids = s.ids := rfl
@[simp] theorem modPe_mem (s : State) (pg pe : Nat) (f : Pe → Pe) : (s.modPe pg pe f).mem = s.mem := rfl
@[simp] theorem modPe_poison (s : State) (pg pe : Nat) (f : Pe → Pe) : (s.modPe pg pe f).poison = s.poison := rfl
@[simp] theorem modPe_codes (s : State) (pg pe : Nat) (f : Pe → Pe) : (s.modPe pg pe f).codes = s.codes := rfl
@[simp] theorem modPe_hbmUse (s : State) (pg pe : Nat) (f : Pe → Pe) : (s.modPe pg pe f).hbmUse = s.hbmUse := rfl
@[simp] theorem modPe_bring (s : State) (pg pe : Nat) (f : Pe → Pe) : (s.modPe pg pe f).bring = s.bring := rfl
@[simp] theorem modPe_flights (s : State) (pg pe : Nat) (f : Pe → Pe) : (s.modPe pg pe f).flights = s.flights := rfl
@[simp] theorem modPe_reqs (s : State) (pg pe : Nat) (f : Pe → Pe) : (s.modPe pg pe f).reqs = s.reqs := rfl
@[simp] theorem modPe_shadows (s : State) (pg pe : Nat) (f : Pe → Pe) : (s.modPe pg pe f).shadows = s.shadows := rfl
@[simp] theorem modPe_regions (s : State) (pg pe : Nat) (f : Pe → Pe) : (s.modPe pg pe f).regions = s.regions := rfl
@[simp] theorem modPe_tasks (s : State) (pg pe : Nat) (f : Pe → Pe) : (s.modPe pg pe f).tasks = s.tasks := rfl
@[simp] theorem modPe_tellers (s : State) (pg pe : Nat) (f : Pe → Pe) : (s.modPe pg pe f).tellers = s.tellers := rfl
@[simp] theorem modPe_dies (s : State) (pg pe : Nat) (f : Pe → Pe) : (s.modPe pg pe f).dies = s.dies := rfl
@[simp] theorem modPe_links (s : State) (pg pe : Nat) (f : Pe → Pe) : (s.modPe pg pe f).links = s.links := rfl
@[simp] theorem modPe_ptns (s : State) (pg pe : Nat) (f : Pe → Pe) : (s.modPe pg pe f).ptns = s.ptns := rfl
@[simp] theorem modPe_upds (s : State) (pg pe : Nat) (f : Pe → Pe) : (s.modPe pg pe f).upds = s.upds := rfl
@[simp] theorem modPe_packets (s : State) (pg pe : Nat) (f : Pe → Pe) : (s.modPe pg pe f).packets = s.packets := rfl
@[simp] theorem modPe_msgs (s : State) (pg pe : Nat) (f : Pe → Pe) : (s.modPe pg pe f).msgs = s.msgs := rfl
@[simp] theorem modPe_permits (s : State) (pg pe : Nat) (f : Pe → Pe) : (s.modPe pg pe f).permits = s.permits := rfl
@[simp] theorem modPe_peerq (s : State) (pg pe : Nat) (f : Pe → Pe) : (s.modPe pg pe f).peerq = s.peerq := rfl
@[simp] theorem modPe_spanOut (s : State) (pg pe : Nat) (f : Pe → Pe) : (s.modPe pg pe f).spanOut = s.spanOut := rfl
@[simp] theorem modPe_spanUse (s : State) (pg pe : Nat) (f : Pe → Pe) : (s.modPe pg pe f).spanUse = s.spanUse := rfl
@[simp] theorem modPe_hostOut (s : State) (pg pe : Nat) (f : Pe → Pe) : (s.modPe pg pe f).hostOut = s.hostOut := rfl
@[simp] theorem modPe_pfcmd (s : State) (pg pe : Nat) (f : Pe → Pe) : (s.modPe pg pe f).pfcmd = s.pfcmd := rfl
@[simp] theorem modPe_saves (s : State) (pg pe : Nat) (f : Pe → Pe) : (s.modPe pg pe f).saves = s.saves := rfl

/-! ## modCtx -/

@[simp] theorem modCtx_fc (s : State) (pg pe cx : Nat) (f : Ctx → Ctx) : (s.modCtx pg pe cx f).fc = s.fc := rfl
@[simp] theorem modCtx_agenda (s : State) (pg pe cx : Nat) (f : Ctx → Ctx) : (s.modCtx pg pe cx f).agenda = s.agenda := rfl
@[simp] theorem modCtx_inputs (s : State) (pg pe cx : Nat) (f : Ctx → Ctx) : (s.modCtx pg pe cx f).inputs = s.inputs := rfl
@[simp] theorem modCtx_issue (s : State) (pg pe cx : Nat) (f : Ctx → Ctx) : (s.modCtx pg pe cx f).issue = s.issue := rfl
@[simp] theorem modCtx_free (s : State) (pg pe cx : Nat) (f : Ctx → Ctx) : (s.modCtx pg pe cx f).free = s.free := rfl
@[simp] theorem modCtx_ids (s : State) (pg pe cx : Nat) (f : Ctx → Ctx) : (s.modCtx pg pe cx f).ids = s.ids := rfl
@[simp] theorem modCtx_mem (s : State) (pg pe cx : Nat) (f : Ctx → Ctx) : (s.modCtx pg pe cx f).mem = s.mem := rfl
@[simp] theorem modCtx_poison (s : State) (pg pe cx : Nat) (f : Ctx → Ctx) : (s.modCtx pg pe cx f).poison = s.poison := rfl
@[simp] theorem modCtx_codes (s : State) (pg pe cx : Nat) (f : Ctx → Ctx) : (s.modCtx pg pe cx f).codes = s.codes := rfl
@[simp] theorem modCtx_hbmUse (s : State) (pg pe cx : Nat) (f : Ctx → Ctx) : (s.modCtx pg pe cx f).hbmUse = s.hbmUse := rfl
@[simp] theorem modCtx_bring (s : State) (pg pe cx : Nat) (f : Ctx → Ctx) : (s.modCtx pg pe cx f).bring = s.bring := rfl
@[simp] theorem modCtx_flights (s : State) (pg pe cx : Nat) (f : Ctx → Ctx) : (s.modCtx pg pe cx f).flights = s.flights := rfl
@[simp] theorem modCtx_reqs (s : State) (pg pe cx : Nat) (f : Ctx → Ctx) : (s.modCtx pg pe cx f).reqs = s.reqs := rfl
@[simp] theorem modCtx_shadows (s : State) (pg pe cx : Nat) (f : Ctx → Ctx) : (s.modCtx pg pe cx f).shadows = s.shadows := rfl
@[simp] theorem modCtx_regions (s : State) (pg pe cx : Nat) (f : Ctx → Ctx) : (s.modCtx pg pe cx f).regions = s.regions := rfl
@[simp] theorem modCtx_tasks (s : State) (pg pe cx : Nat) (f : Ctx → Ctx) : (s.modCtx pg pe cx f).tasks = s.tasks := rfl
@[simp] theorem modCtx_tellers (s : State) (pg pe cx : Nat) (f : Ctx → Ctx) : (s.modCtx pg pe cx f).tellers = s.tellers := rfl
@[simp] theorem modCtx_dies (s : State) (pg pe cx : Nat) (f : Ctx → Ctx) : (s.modCtx pg pe cx f).dies = s.dies := rfl
@[simp] theorem modCtx_links (s : State) (pg pe cx : Nat) (f : Ctx → Ctx) : (s.modCtx pg pe cx f).links = s.links := rfl
@[simp] theorem modCtx_ptns (s : State) (pg pe cx : Nat) (f : Ctx → Ctx) : (s.modCtx pg pe cx f).ptns = s.ptns := rfl
@[simp] theorem modCtx_upds (s : State) (pg pe cx : Nat) (f : Ctx → Ctx) : (s.modCtx pg pe cx f).upds = s.upds := rfl
@[simp] theorem modCtx_packets (s : State) (pg pe cx : Nat) (f : Ctx → Ctx) : (s.modCtx pg pe cx f).packets = s.packets := rfl
@[simp] theorem modCtx_msgs (s : State) (pg pe cx : Nat) (f : Ctx → Ctx) : (s.modCtx pg pe cx f).msgs = s.msgs := rfl
@[simp] theorem modCtx_permits (s : State) (pg pe cx : Nat) (f : Ctx → Ctx) : (s.modCtx pg pe cx f).permits = s.permits := rfl
@[simp] theorem modCtx_peerq (s : State) (pg pe cx : Nat) (f : Ctx → Ctx) : (s.modCtx pg pe cx f).peerq = s.peerq := rfl
@[simp] theorem modCtx_spanOut (s : State) (pg pe cx : Nat) (f : Ctx → Ctx) : (s.modCtx pg pe cx f).spanOut = s.spanOut := rfl
@[simp] theorem modCtx_spanUse (s : State) (pg pe cx : Nat) (f : Ctx → Ctx) : (s.modCtx pg pe cx f).spanUse = s.spanUse := rfl
@[simp] theorem modCtx_hostOut (s : State) (pg pe cx : Nat) (f : Ctx → Ctx) : (s.modCtx pg pe cx f).hostOut = s.hostOut := rfl
@[simp] theorem modCtx_pfcmd (s : State) (pg pe cx : Nat) (f : Ctx → Ctx) : (s.modCtx pg pe cx f).pfcmd = s.pfcmd := rfl
@[simp] theorem modCtx_saves (s : State) (pg pe cx : Nat) (f : Ctx → Ctx) : (s.modCtx pg pe cx f).saves = s.saves := rfl

/-! ## modSlot -/

@[simp] theorem modSlot_fc (s : State) (pg pe n : Nat) (f : Slot → Slot) : (s.modSlot pg pe n f).fc = s.fc := rfl
@[simp] theorem modSlot_agenda (s : State) (pg pe n : Nat) (f : Slot → Slot) : (s.modSlot pg pe n f).agenda = s.agenda := rfl
@[simp] theorem modSlot_inputs (s : State) (pg pe n : Nat) (f : Slot → Slot) : (s.modSlot pg pe n f).inputs = s.inputs := rfl
@[simp] theorem modSlot_issue (s : State) (pg pe n : Nat) (f : Slot → Slot) : (s.modSlot pg pe n f).issue = s.issue := rfl
@[simp] theorem modSlot_free (s : State) (pg pe n : Nat) (f : Slot → Slot) : (s.modSlot pg pe n f).free = s.free := rfl
@[simp] theorem modSlot_ids (s : State) (pg pe n : Nat) (f : Slot → Slot) : (s.modSlot pg pe n f).ids = s.ids := rfl
@[simp] theorem modSlot_mem (s : State) (pg pe n : Nat) (f : Slot → Slot) : (s.modSlot pg pe n f).mem = s.mem := rfl
@[simp] theorem modSlot_poison (s : State) (pg pe n : Nat) (f : Slot → Slot) : (s.modSlot pg pe n f).poison = s.poison := rfl
@[simp] theorem modSlot_codes (s : State) (pg pe n : Nat) (f : Slot → Slot) : (s.modSlot pg pe n f).codes = s.codes := rfl
@[simp] theorem modSlot_hbmUse (s : State) (pg pe n : Nat) (f : Slot → Slot) : (s.modSlot pg pe n f).hbmUse = s.hbmUse := rfl
@[simp] theorem modSlot_bring (s : State) (pg pe n : Nat) (f : Slot → Slot) : (s.modSlot pg pe n f).bring = s.bring := rfl
@[simp] theorem modSlot_flights (s : State) (pg pe n : Nat) (f : Slot → Slot) : (s.modSlot pg pe n f).flights = s.flights := rfl
@[simp] theorem modSlot_reqs (s : State) (pg pe n : Nat) (f : Slot → Slot) : (s.modSlot pg pe n f).reqs = s.reqs := rfl
@[simp] theorem modSlot_shadows (s : State) (pg pe n : Nat) (f : Slot → Slot) : (s.modSlot pg pe n f).shadows = s.shadows := rfl
@[simp] theorem modSlot_regions (s : State) (pg pe n : Nat) (f : Slot → Slot) : (s.modSlot pg pe n f).regions = s.regions := rfl
@[simp] theorem modSlot_tasks (s : State) (pg pe n : Nat) (f : Slot → Slot) : (s.modSlot pg pe n f).tasks = s.tasks := rfl
@[simp] theorem modSlot_tellers (s : State) (pg pe n : Nat) (f : Slot → Slot) : (s.modSlot pg pe n f).tellers = s.tellers := rfl
@[simp] theorem modSlot_dies (s : State) (pg pe n : Nat) (f : Slot → Slot) : (s.modSlot pg pe n f).dies = s.dies := rfl
@[simp] theorem modSlot_links (s : State) (pg pe n : Nat) (f : Slot → Slot) : (s.modSlot pg pe n f).links = s.links := rfl
@[simp] theorem modSlot_ptns (s : State) (pg pe n : Nat) (f : Slot → Slot) : (s.modSlot pg pe n f).ptns = s.ptns := rfl
@[simp] theorem modSlot_upds (s : State) (pg pe n : Nat) (f : Slot → Slot) : (s.modSlot pg pe n f).upds = s.upds := rfl
@[simp] theorem modSlot_packets (s : State) (pg pe n : Nat) (f : Slot → Slot) : (s.modSlot pg pe n f).packets = s.packets := rfl
@[simp] theorem modSlot_msgs (s : State) (pg pe n : Nat) (f : Slot → Slot) : (s.modSlot pg pe n f).msgs = s.msgs := rfl
@[simp] theorem modSlot_permits (s : State) (pg pe n : Nat) (f : Slot → Slot) : (s.modSlot pg pe n f).permits = s.permits := rfl
@[simp] theorem modSlot_peerq (s : State) (pg pe n : Nat) (f : Slot → Slot) : (s.modSlot pg pe n f).peerq = s.peerq := rfl
@[simp] theorem modSlot_spanOut (s : State) (pg pe n : Nat) (f : Slot → Slot) : (s.modSlot pg pe n f).spanOut = s.spanOut := rfl
@[simp] theorem modSlot_spanUse (s : State) (pg pe n : Nat) (f : Slot → Slot) : (s.modSlot pg pe n f).spanUse = s.spanUse := rfl
@[simp] theorem modSlot_hostOut (s : State) (pg pe n : Nat) (f : Slot → Slot) : (s.modSlot pg pe n f).hostOut = s.hostOut := rfl
@[simp] theorem modSlot_pfcmd (s : State) (pg pe n : Nat) (f : Slot → Slot) : (s.modSlot pg pe n f).pfcmd = s.pfcmd := rfl
@[simp] theorem modSlot_saves (s : State) (pg pe n : Nat) (f : Slot → Slot) : (s.modSlot pg pe n f).saves = s.saves := rfl

/-! ## modMe -/

@[simp] theorem modMe_fc (s : State) (pg me : Nat) (f : Me → Me) : (s.modMe pg me f).fc = s.fc := rfl
@[simp] theorem modMe_agenda (s : State) (pg me : Nat) (f : Me → Me) : (s.modMe pg me f).agenda = s.agenda := rfl
@[simp] theorem modMe_inputs (s : State) (pg me : Nat) (f : Me → Me) : (s.modMe pg me f).inputs = s.inputs := rfl
@[simp] theorem modMe_issue (s : State) (pg me : Nat) (f : Me → Me) : (s.modMe pg me f).issue = s.issue := rfl
@[simp] theorem modMe_free (s : State) (pg me : Nat) (f : Me → Me) : (s.modMe pg me f).free = s.free := rfl
@[simp] theorem modMe_ids (s : State) (pg me : Nat) (f : Me → Me) : (s.modMe pg me f).ids = s.ids := rfl
@[simp] theorem modMe_mem (s : State) (pg me : Nat) (f : Me → Me) : (s.modMe pg me f).mem = s.mem := rfl
@[simp] theorem modMe_poison (s : State) (pg me : Nat) (f : Me → Me) : (s.modMe pg me f).poison = s.poison := rfl
@[simp] theorem modMe_codes (s : State) (pg me : Nat) (f : Me → Me) : (s.modMe pg me f).codes = s.codes := rfl
@[simp] theorem modMe_hbmUse (s : State) (pg me : Nat) (f : Me → Me) : (s.modMe pg me f).hbmUse = s.hbmUse := rfl
@[simp] theorem modMe_bring (s : State) (pg me : Nat) (f : Me → Me) : (s.modMe pg me f).bring = s.bring := rfl
@[simp] theorem modMe_flights (s : State) (pg me : Nat) (f : Me → Me) : (s.modMe pg me f).flights = s.flights := rfl
@[simp] theorem modMe_reqs (s : State) (pg me : Nat) (f : Me → Me) : (s.modMe pg me f).reqs = s.reqs := rfl
@[simp] theorem modMe_shadows (s : State) (pg me : Nat) (f : Me → Me) : (s.modMe pg me f).shadows = s.shadows := rfl
@[simp] theorem modMe_regions (s : State) (pg me : Nat) (f : Me → Me) : (s.modMe pg me f).regions = s.regions := rfl
@[simp] theorem modMe_tasks (s : State) (pg me : Nat) (f : Me → Me) : (s.modMe pg me f).tasks = s.tasks := rfl
@[simp] theorem modMe_tellers (s : State) (pg me : Nat) (f : Me → Me) : (s.modMe pg me f).tellers = s.tellers := rfl
@[simp] theorem modMe_dies (s : State) (pg me : Nat) (f : Me → Me) : (s.modMe pg me f).dies = s.dies := rfl
@[simp] theorem modMe_links (s : State) (pg me : Nat) (f : Me → Me) : (s.modMe pg me f).links = s.links := rfl
@[simp] theorem modMe_ptns (s : State) (pg me : Nat) (f : Me → Me) : (s.modMe pg me f).ptns = s.ptns := rfl
@[simp] theorem modMe_upds (s : State) (pg me : Nat) (f : Me → Me) : (s.modMe pg me f).upds = s.upds := rfl
@[simp] theorem modMe_packets (s : State) (pg me : Nat) (f : Me → Me) : (s.modMe pg me f).packets = s.packets := rfl
@[simp] theorem modMe_msgs (s : State) (pg me : Nat) (f : Me → Me) : (s.modMe pg me f).msgs = s.msgs := rfl
@[simp] theorem modMe_permits (s : State) (pg me : Nat) (f : Me → Me) : (s.modMe pg me f).permits = s.permits := rfl
@[simp] theorem modMe_peerq (s : State) (pg me : Nat) (f : Me → Me) : (s.modMe pg me f).peerq = s.peerq := rfl
@[simp] theorem modMe_spanOut (s : State) (pg me : Nat) (f : Me → Me) : (s.modMe pg me f).spanOut = s.spanOut := rfl
@[simp] theorem modMe_spanUse (s : State) (pg me : Nat) (f : Me → Me) : (s.modMe pg me f).spanUse = s.spanUse := rfl
@[simp] theorem modMe_hostOut (s : State) (pg me : Nat) (f : Me → Me) : (s.modMe pg me f).hostOut = s.hostOut := rfl
@[simp] theorem modMe_pfcmd (s : State) (pg me : Nat) (f : Me → Me) : (s.modMe pg me f).pfcmd = s.pfcmd := rfl
@[simp] theorem modMe_saves (s : State) (pg me : Nat) (f : Me → Me) : (s.modMe pg me f).saves = s.saves := rfl

/-! ## modStream -/

@[simp] theorem modStream_fc (s : State) (pg si : Nat) (f : Stream → Stream) : (s.modStream pg si f).fc = s.fc := rfl
@[simp] theorem modStream_agenda (s : State) (pg si : Nat) (f : Stream → Stream) : (s.modStream pg si f).agenda = s.agenda := rfl
@[simp] theorem modStream_inputs (s : State) (pg si : Nat) (f : Stream → Stream) : (s.modStream pg si f).inputs = s.inputs := rfl
@[simp] theorem modStream_issue (s : State) (pg si : Nat) (f : Stream → Stream) : (s.modStream pg si f).issue = s.issue := rfl
@[simp] theorem modStream_free (s : State) (pg si : Nat) (f : Stream → Stream) : (s.modStream pg si f).free = s.free := rfl
@[simp] theorem modStream_ids (s : State) (pg si : Nat) (f : Stream → Stream) : (s.modStream pg si f).ids = s.ids := rfl
@[simp] theorem modStream_mem (s : State) (pg si : Nat) (f : Stream → Stream) : (s.modStream pg si f).mem = s.mem := rfl
@[simp] theorem modStream_poison (s : State) (pg si : Nat) (f : Stream → Stream) : (s.modStream pg si f).poison = s.poison := rfl
@[simp] theorem modStream_codes (s : State) (pg si : Nat) (f : Stream → Stream) : (s.modStream pg si f).codes = s.codes := rfl
@[simp] theorem modStream_hbmUse (s : State) (pg si : Nat) (f : Stream → Stream) : (s.modStream pg si f).hbmUse = s.hbmUse := rfl
@[simp] theorem modStream_bring (s : State) (pg si : Nat) (f : Stream → Stream) : (s.modStream pg si f).bring = s.bring := rfl
@[simp] theorem modStream_flights (s : State) (pg si : Nat) (f : Stream → Stream) : (s.modStream pg si f).flights = s.flights := rfl
@[simp] theorem modStream_reqs (s : State) (pg si : Nat) (f : Stream → Stream) : (s.modStream pg si f).reqs = s.reqs := rfl
@[simp] theorem modStream_shadows (s : State) (pg si : Nat) (f : Stream → Stream) : (s.modStream pg si f).shadows = s.shadows := rfl
@[simp] theorem modStream_regions (s : State) (pg si : Nat) (f : Stream → Stream) : (s.modStream pg si f).regions = s.regions := rfl
@[simp] theorem modStream_tasks (s : State) (pg si : Nat) (f : Stream → Stream) : (s.modStream pg si f).tasks = s.tasks := rfl
@[simp] theorem modStream_tellers (s : State) (pg si : Nat) (f : Stream → Stream) : (s.modStream pg si f).tellers = s.tellers := rfl
@[simp] theorem modStream_dies (s : State) (pg si : Nat) (f : Stream → Stream) : (s.modStream pg si f).dies = s.dies := rfl
@[simp] theorem modStream_links (s : State) (pg si : Nat) (f : Stream → Stream) : (s.modStream pg si f).links = s.links := rfl
@[simp] theorem modStream_ptns (s : State) (pg si : Nat) (f : Stream → Stream) : (s.modStream pg si f).ptns = s.ptns := rfl
@[simp] theorem modStream_upds (s : State) (pg si : Nat) (f : Stream → Stream) : (s.modStream pg si f).upds = s.upds := rfl
@[simp] theorem modStream_packets (s : State) (pg si : Nat) (f : Stream → Stream) : (s.modStream pg si f).packets = s.packets := rfl
@[simp] theorem modStream_msgs (s : State) (pg si : Nat) (f : Stream → Stream) : (s.modStream pg si f).msgs = s.msgs := rfl
@[simp] theorem modStream_permits (s : State) (pg si : Nat) (f : Stream → Stream) : (s.modStream pg si f).permits = s.permits := rfl
@[simp] theorem modStream_peerq (s : State) (pg si : Nat) (f : Stream → Stream) : (s.modStream pg si f).peerq = s.peerq := rfl
@[simp] theorem modStream_spanOut (s : State) (pg si : Nat) (f : Stream → Stream) : (s.modStream pg si f).spanOut = s.spanOut := rfl
@[simp] theorem modStream_spanUse (s : State) (pg si : Nat) (f : Stream → Stream) : (s.modStream pg si f).spanUse = s.spanUse := rfl
@[simp] theorem modStream_hostOut (s : State) (pg si : Nat) (f : Stream → Stream) : (s.modStream pg si f).hostOut = s.hostOut := rfl
@[simp] theorem modStream_pfcmd (s : State) (pg si : Nat) (f : Stream → Stream) : (s.modStream pg si f).pfcmd = s.pfcmd := rfl
@[simp] theorem modStream_saves (s : State) (pg si : Nat) (f : Stream → Stream) : (s.modStream pg si f).saves = s.saves := rfl

/-! ## modTen -/

@[simp] theorem modTen_fc (s : State) (pg ten : Nat) (f : Tenant → Tenant) : (s.modTen pg ten f).fc = s.fc := rfl
@[simp] theorem modTen_agenda (s : State) (pg ten : Nat) (f : Tenant → Tenant) : (s.modTen pg ten f).agenda = s.agenda := rfl
@[simp] theorem modTen_inputs (s : State) (pg ten : Nat) (f : Tenant → Tenant) : (s.modTen pg ten f).inputs = s.inputs := rfl
@[simp] theorem modTen_issue (s : State) (pg ten : Nat) (f : Tenant → Tenant) : (s.modTen pg ten f).issue = s.issue := rfl
@[simp] theorem modTen_free (s : State) (pg ten : Nat) (f : Tenant → Tenant) : (s.modTen pg ten f).free = s.free := rfl
@[simp] theorem modTen_ids (s : State) (pg ten : Nat) (f : Tenant → Tenant) : (s.modTen pg ten f).ids = s.ids := rfl
@[simp] theorem modTen_mem (s : State) (pg ten : Nat) (f : Tenant → Tenant) : (s.modTen pg ten f).mem = s.mem := rfl
@[simp] theorem modTen_poison (s : State) (pg ten : Nat) (f : Tenant → Tenant) : (s.modTen pg ten f).poison = s.poison := rfl
@[simp] theorem modTen_codes (s : State) (pg ten : Nat) (f : Tenant → Tenant) : (s.modTen pg ten f).codes = s.codes := rfl
@[simp] theorem modTen_hbmUse (s : State) (pg ten : Nat) (f : Tenant → Tenant) : (s.modTen pg ten f).hbmUse = s.hbmUse := rfl
@[simp] theorem modTen_bring (s : State) (pg ten : Nat) (f : Tenant → Tenant) : (s.modTen pg ten f).bring = s.bring := rfl
@[simp] theorem modTen_flights (s : State) (pg ten : Nat) (f : Tenant → Tenant) : (s.modTen pg ten f).flights = s.flights := rfl
@[simp] theorem modTen_reqs (s : State) (pg ten : Nat) (f : Tenant → Tenant) : (s.modTen pg ten f).reqs = s.reqs := rfl
@[simp] theorem modTen_shadows (s : State) (pg ten : Nat) (f : Tenant → Tenant) : (s.modTen pg ten f).shadows = s.shadows := rfl
@[simp] theorem modTen_regions (s : State) (pg ten : Nat) (f : Tenant → Tenant) : (s.modTen pg ten f).regions = s.regions := rfl
@[simp] theorem modTen_tasks (s : State) (pg ten : Nat) (f : Tenant → Tenant) : (s.modTen pg ten f).tasks = s.tasks := rfl
@[simp] theorem modTen_tellers (s : State) (pg ten : Nat) (f : Tenant → Tenant) : (s.modTen pg ten f).tellers = s.tellers := rfl
@[simp] theorem modTen_dies (s : State) (pg ten : Nat) (f : Tenant → Tenant) : (s.modTen pg ten f).dies = s.dies := rfl
@[simp] theorem modTen_links (s : State) (pg ten : Nat) (f : Tenant → Tenant) : (s.modTen pg ten f).links = s.links := rfl
@[simp] theorem modTen_ptns (s : State) (pg ten : Nat) (f : Tenant → Tenant) : (s.modTen pg ten f).ptns = s.ptns := rfl
@[simp] theorem modTen_upds (s : State) (pg ten : Nat) (f : Tenant → Tenant) : (s.modTen pg ten f).upds = s.upds := rfl
@[simp] theorem modTen_packets (s : State) (pg ten : Nat) (f : Tenant → Tenant) : (s.modTen pg ten f).packets = s.packets := rfl
@[simp] theorem modTen_msgs (s : State) (pg ten : Nat) (f : Tenant → Tenant) : (s.modTen pg ten f).msgs = s.msgs := rfl
@[simp] theorem modTen_permits (s : State) (pg ten : Nat) (f : Tenant → Tenant) : (s.modTen pg ten f).permits = s.permits := rfl
@[simp] theorem modTen_peerq (s : State) (pg ten : Nat) (f : Tenant → Tenant) : (s.modTen pg ten f).peerq = s.peerq := rfl
@[simp] theorem modTen_spanOut (s : State) (pg ten : Nat) (f : Tenant → Tenant) : (s.modTen pg ten f).spanOut = s.spanOut := rfl
@[simp] theorem modTen_spanUse (s : State) (pg ten : Nat) (f : Tenant → Tenant) : (s.modTen pg ten f).spanUse = s.spanUse := rfl
@[simp] theorem modTen_hostOut (s : State) (pg ten : Nat) (f : Tenant → Tenant) : (s.modTen pg ten f).hostOut = s.hostOut := rfl
@[simp] theorem modTen_pfcmd (s : State) (pg ten : Nat) (f : Tenant → Tenant) : (s.modTen pg ten f).pfcmd = s.pfcmd := rfl
@[simp] theorem modTen_saves (s : State) (pg ten : Nat) (f : Tenant → Tenant) : (s.modTen pg ten f).saves = s.saves := rfl

/-! ## modGraph -/

@[simp] theorem modGraph_fc (s : State) (pg h : Nat) (f : Graph → Graph) : (s.modGraph pg h f).fc = s.fc := rfl
@[simp] theorem modGraph_agenda (s : State) (pg h : Nat) (f : Graph → Graph) : (s.modGraph pg h f).agenda = s.agenda := rfl
@[simp] theorem modGraph_inputs (s : State) (pg h : Nat) (f : Graph → Graph) : (s.modGraph pg h f).inputs = s.inputs := rfl
@[simp] theorem modGraph_issue (s : State) (pg h : Nat) (f : Graph → Graph) : (s.modGraph pg h f).issue = s.issue := rfl
@[simp] theorem modGraph_free (s : State) (pg h : Nat) (f : Graph → Graph) : (s.modGraph pg h f).free = s.free := rfl
@[simp] theorem modGraph_ids (s : State) (pg h : Nat) (f : Graph → Graph) : (s.modGraph pg h f).ids = s.ids := rfl
@[simp] theorem modGraph_mem (s : State) (pg h : Nat) (f : Graph → Graph) : (s.modGraph pg h f).mem = s.mem := rfl
@[simp] theorem modGraph_poison (s : State) (pg h : Nat) (f : Graph → Graph) : (s.modGraph pg h f).poison = s.poison := rfl
@[simp] theorem modGraph_codes (s : State) (pg h : Nat) (f : Graph → Graph) : (s.modGraph pg h f).codes = s.codes := rfl
@[simp] theorem modGraph_hbmUse (s : State) (pg h : Nat) (f : Graph → Graph) : (s.modGraph pg h f).hbmUse = s.hbmUse := rfl
@[simp] theorem modGraph_bring (s : State) (pg h : Nat) (f : Graph → Graph) : (s.modGraph pg h f).bring = s.bring := rfl
@[simp] theorem modGraph_flights (s : State) (pg h : Nat) (f : Graph → Graph) : (s.modGraph pg h f).flights = s.flights := rfl
@[simp] theorem modGraph_reqs (s : State) (pg h : Nat) (f : Graph → Graph) : (s.modGraph pg h f).reqs = s.reqs := rfl
@[simp] theorem modGraph_shadows (s : State) (pg h : Nat) (f : Graph → Graph) : (s.modGraph pg h f).shadows = s.shadows := rfl
@[simp] theorem modGraph_regions (s : State) (pg h : Nat) (f : Graph → Graph) : (s.modGraph pg h f).regions = s.regions := rfl
@[simp] theorem modGraph_tasks (s : State) (pg h : Nat) (f : Graph → Graph) : (s.modGraph pg h f).tasks = s.tasks := rfl
@[simp] theorem modGraph_tellers (s : State) (pg h : Nat) (f : Graph → Graph) : (s.modGraph pg h f).tellers = s.tellers := rfl
@[simp] theorem modGraph_dies (s : State) (pg h : Nat) (f : Graph → Graph) : (s.modGraph pg h f).dies = s.dies := rfl
@[simp] theorem modGraph_links (s : State) (pg h : Nat) (f : Graph → Graph) : (s.modGraph pg h f).links = s.links := rfl
@[simp] theorem modGraph_ptns (s : State) (pg h : Nat) (f : Graph → Graph) : (s.modGraph pg h f).ptns = s.ptns := rfl
@[simp] theorem modGraph_upds (s : State) (pg h : Nat) (f : Graph → Graph) : (s.modGraph pg h f).upds = s.upds := rfl
@[simp] theorem modGraph_packets (s : State) (pg h : Nat) (f : Graph → Graph) : (s.modGraph pg h f).packets = s.packets := rfl
@[simp] theorem modGraph_msgs (s : State) (pg h : Nat) (f : Graph → Graph) : (s.modGraph pg h f).msgs = s.msgs := rfl
@[simp] theorem modGraph_permits (s : State) (pg h : Nat) (f : Graph → Graph) : (s.modGraph pg h f).permits = s.permits := rfl
@[simp] theorem modGraph_peerq (s : State) (pg h : Nat) (f : Graph → Graph) : (s.modGraph pg h f).peerq = s.peerq := rfl
@[simp] theorem modGraph_spanOut (s : State) (pg h : Nat) (f : Graph → Graph) : (s.modGraph pg h f).spanOut = s.spanOut := rfl
@[simp] theorem modGraph_spanUse (s : State) (pg h : Nat) (f : Graph → Graph) : (s.modGraph pg h f).spanUse = s.spanUse := rfl
@[simp] theorem modGraph_hostOut (s : State) (pg h : Nat) (f : Graph → Graph) : (s.modGraph pg h f).hostOut = s.hostOut := rfl
@[simp] theorem modGraph_pfcmd (s : State) (pg h : Nat) (f : Graph → Graph) : (s.modGraph pg h f).pfcmd = s.pfcmd := rfl
@[simp] theorem modGraph_saves (s : State) (pg h : Nat) (f : Graph → Graph) : (s.modGraph pg h f).saves = s.saves := rfl

/-! ## store -/

@[simp] theorem store_fc (s : State) (k : Nat) (bs : List Byte) : (s.store k bs).fc = s.fc := rfl
@[simp] theorem store_agenda (s : State) (k : Nat) (bs : List Byte) : (s.store k bs).agenda = s.agenda := rfl
@[simp] theorem store_inputs (s : State) (k : Nat) (bs : List Byte) : (s.store k bs).inputs = s.inputs := rfl
@[simp] theorem store_issue (s : State) (k : Nat) (bs : List Byte) : (s.store k bs).issue = s.issue := rfl
@[simp] theorem store_free (s : State) (k : Nat) (bs : List Byte) : (s.store k bs).free = s.free := rfl
@[simp] theorem store_ids (s : State) (k : Nat) (bs : List Byte) : (s.store k bs).ids = s.ids := rfl
@[simp] theorem store_hbmUse (s : State) (k : Nat) (bs : List Byte) : (s.store k bs).hbmUse = s.hbmUse := rfl
@[simp] theorem store_bring (s : State) (k : Nat) (bs : List Byte) : (s.store k bs).bring = s.bring := rfl
@[simp] theorem store_flights (s : State) (k : Nat) (bs : List Byte) : (s.store k bs).flights = s.flights := rfl
@[simp] theorem store_reqs (s : State) (k : Nat) (bs : List Byte) : (s.store k bs).reqs = s.reqs := rfl
@[simp] theorem store_pages (s : State) (k : Nat) (bs : List Byte) : (s.store k bs).pages = s.pages := rfl
@[simp] theorem store_shadows (s : State) (k : Nat) (bs : List Byte) : (s.store k bs).shadows = s.shadows := rfl
@[simp] theorem store_regions (s : State) (k : Nat) (bs : List Byte) : (s.store k bs).regions = s.regions := rfl
@[simp] theorem store_tasks (s : State) (k : Nat) (bs : List Byte) : (s.store k bs).tasks = s.tasks := rfl
@[simp] theorem store_tellers (s : State) (k : Nat) (bs : List Byte) : (s.store k bs).tellers = s.tellers := rfl
@[simp] theorem store_dies (s : State) (k : Nat) (bs : List Byte) : (s.store k bs).dies = s.dies := rfl
@[simp] theorem store_links (s : State) (k : Nat) (bs : List Byte) : (s.store k bs).links = s.links := rfl
@[simp] theorem store_ptns (s : State) (k : Nat) (bs : List Byte) : (s.store k bs).ptns = s.ptns := rfl
@[simp] theorem store_upds (s : State) (k : Nat) (bs : List Byte) : (s.store k bs).upds = s.upds := rfl
@[simp] theorem store_packets (s : State) (k : Nat) (bs : List Byte) : (s.store k bs).packets = s.packets := rfl
@[simp] theorem store_msgs (s : State) (k : Nat) (bs : List Byte) : (s.store k bs).msgs = s.msgs := rfl
@[simp] theorem store_permits (s : State) (k : Nat) (bs : List Byte) : (s.store k bs).permits = s.permits := rfl
@[simp] theorem store_peerq (s : State) (k : Nat) (bs : List Byte) : (s.store k bs).peerq = s.peerq := rfl
@[simp] theorem store_spanOut (s : State) (k : Nat) (bs : List Byte) : (s.store k bs).spanOut = s.spanOut := rfl
@[simp] theorem store_spanUse (s : State) (k : Nat) (bs : List Byte) : (s.store k bs).spanUse = s.spanUse := rfl
@[simp] theorem store_hostOut (s : State) (k : Nat) (bs : List Byte) : (s.store k bs).hostOut = s.hostOut := rfl
@[simp] theorem store_pfcmd (s : State) (k : Nat) (bs : List Byte) : (s.store k bs).pfcmd = s.pfcmd := rfl
@[simp] theorem store_saves (s : State) (k : Nat) (bs : List Byte) : (s.store k bs).saves = s.saves := rfl
theorem store_mem (s : State) (k : Nat) (bs : List Byte) :
    (s.store k bs).mem = memWrite s.mem k bs := rfl

/-! ## Keyed lists -/

theorem alGet_alMod_same {α : Type} (k : Nat) (f : α → α) (l : List (Nat × α)) :
    alGet k (alMod k f l) = (alGet k l).map f := by
  induction l with
  | nil => rfl
  | cons c l ih =>
    obtain ⟨j, v⟩ := c
    by_cases h : j = k <;> simp [alMod, alGet, h, ih]

theorem alGet_alMod_other {α : Type} {j k : Nat} (h : j ≠ k) (f : α → α) (l : List (Nat × α)) :
    alGet j (alMod k f l) = alGet j l := by
  induction l with
  | nil => rfl
  | cons c l ih =>
    obtain ⟨i, v⟩ := c
    have h' : k ≠ j := fun e => h e.symm
    by_cases hk : i = k
    · subst hk; simp [alMod, alGet, h']
    · by_cases hj : i = j
      · subst hj; simp [alMod, alGet, hk]
      · simp [alMod, alGet, hk, hj, ih]

theorem alGet_alSet_same {α : Type} (k : Nat) (v : α) (l : List (Nat × α)) : alGet k (alSet k v l) = some v := by
  induction l with
  | nil => simp [alSet, alGet]
  | cons c l ih =>
    obtain ⟨j, w⟩ := c
    by_cases h : j = k <;> simp [alSet, alGet, h, ih]

theorem alGet_alSet_other {α : Type} {j k : Nat} (h : j ≠ k) (v : α) (l : List (Nat × α)) :
    alGet j (alSet k v l) = alGet j l := by
  have h' : k ≠ j := fun e => h e.symm
  induction l with
  | nil => simp [alSet, alGet, h']
  | cons c l ih =>
    obtain ⟨i, w⟩ := c
    by_cases hk : i = k
    · subst hk; simp [alSet, alGet, h']
    · by_cases hj : i = j
      · subst hj; simp [alSet, alGet, hk]
      · simp [alSet, alGet, hk, hj, ih]

/-! ## Reading back a modified part -/

theorem page?_modPage_same (s : State) (pg : Nat) (f : Page → Page) : (s.modPage pg f).page? pg = (s.page? pg).map f :=
  alGet_alMod_same pg f s.pages

theorem page?_modPage_other (s : State) {pg q : Nat} (h : q ≠ pg) (f : Page → Page) :
    (s.modPage pg f).page? q = s.page? q := alGet_alMod_other h f s.pages

theorem region?_modRegion_same (s : State) (rg : Nat) (f : Region → Region) :
    (s.modRegion rg f).region? rg = (s.region? rg).map f := alGet_alMod_same rg f s.regions

theorem region?_modRegion_other (s : State) {rg q : Nat} (h : q ≠ rg) (f : Region → Region) :
    (s.modRegion rg f).region? q = s.region? q := alGet_alMod_other h f s.regions

theorem ptn?_modPtn_same (s : State) (p : Nat) (f : Ptn → Ptn) : (s.modPtn p f).ptn? p = (s.ptn? p).map f :=
  alGet_alMod_same p f s.ptns

theorem ptn?_modPtn_other (s : State) {p q : Nat} (h : q ≠ p) (f : Ptn → Ptn) : (s.modPtn p f).ptn? q = s.ptn? q :=
  alGet_alMod_other h f s.ptns

theorem tctx?_modTctx_same (s : State) (t cx : Nat) (f : TCtx → TCtx) :
    (s.modTctx t cx f).tctx? t cx = (s.tctx? t cx).map f := by
  simp only [State.tctx?, State.modTctx, State.modTeller, List.getElem?_modify, if_true]
  cases s.tellers[t]? <;> simp

theorem tctx?_modTctx_other (s : State) {t cx u cy : Nat} (h : (u, cy) ≠ (t, cx)) (f : TCtx → TCtx) :
    (s.modTctx t cx f).tctx? u cy = s.tctx? u cy := by
  simp only [State.tctx?, State.modTctx, State.modTeller, List.getElem?_modify]
  by_cases ht : t = u
  · subst ht
    have hc : cx ≠ cy := fun e => h (by rw [e])
    cases s.tellers[t]? <;> simp [hc]
  · cases s.tellers[u]? <;> simp [ht]

theorem ctx?_modCtx_same (s : State) (pg pe cx : Nat) (f : Ctx → Ctx) :
    (s.modCtx pg pe cx f).ctx? pg pe cx = (s.ctx? pg pe cx).map f := by
  simp only [State.ctx?, State.pe?, State.modCtx, State.modLive, State.modPe, page?_modPage_same]
  cases s.page? pg with
  | none => rfl
  | some p =>
    simp only [Option.map_some, Option.bind_some, List.getElem?_modify, if_true]
    cases p.pes[pe]? <;> simp

theorem ctx?_modCtx_other (s : State) {pg pe cx qg qe cy : Nat} (h : (qg, qe, cy) ≠ (pg, pe, cx)) (f : Ctx → Ctx) :
    (s.modCtx pg pe cx f).ctx? qg qe cy = s.ctx? qg qe cy := by
  simp only [State.ctx?, State.pe?, State.modCtx, State.modLive, State.modPe]
  by_cases hp : qg = pg
  · subst hp
    rw [page?_modPage_same]
    cases s.page? qg with
    | none => rfl
    | some p =>
      simp only [Option.map_some, Option.bind_some, List.getElem?_modify]
      by_cases he : pe = qe
      · subst he
        have hc : cx ≠ cy := fun e => h (by rw [e])
        cases p.pes[pe]? <;> simp [hc]
      · cases p.pes[qe]? <;> simp [he]
  · rw [page?_modPage_other s hp]

end Sys2Proof.Machine
end

