-- ==== Sys2Proof/Laws/Fire.lean ====
section
/-!
SUPPORT. What the operations do through which every instruction word takes effect: a word that knows its results when it fires,
a word that a unit performs, and a word with an effect of its own on the state. Each answers a next state, and says which.
-/

set_option Elab.async false

namespace Sys2Proof.Machine

variable {s : State} {i : Instr} {g : Guard} {w : Who} {x : Word} {f : FaultInfo}

/-! ## A word that knows its results when it fires -/

theorem fireTimed_ok {k : Who → Word → State → Except FaultInfo Done} {d : Done}
    (h : Fires s i g w x) (hk : k w x s.taken = .ok d) : fireTimed g k s = .next (s.fired w x g d) := by
  obtain ⟨h1, _, h3⟩ := h
  simp only [State.taken] at h3 hk
  simp only [fireTimed, h1, h3, hk]; rfl

theorem fireTimed_error {k : Who → Word → State → Except FaultInfo Done}
    (h : Fires s i g w x) (hk : k w x s.taken = .error f) : fireTimed g k s = .next (s.taken.raise w x f) := by
  obtain ⟨h1, _, h3⟩ := h
  simp only [State.taken] at h3 hk
  simp only [fireTimed, h1, h3, hk]; rfl

theorem fireTimed_guard (k : Who → Word → State → Except FaultInfo Done)
    (h : s.issue = some (w, x)) (hf : s.taken.guardFault w g x = some f) : fireTimed g k s = .next (s.taken.raise w x f) := by
  simp only [State.taken] at hf
  simp only [fireTimed, h, hf]; rfl

/-- Everything such a word can do. -/
theorem fireTimed_cases (g : Guard) (k : Who → Word → State → Except FaultInfo Done) (s : State) :
    (s.issue = none ∧ fireTimed g k s = .fault .noAgent) ∨
    (∃ w x f, s.issue = some (w, x) ∧ fireTimed g k s = .next (s.taken.raise w x f)) ∨
    (∃ w x d, s.issue = some (w, x) ∧ s.taken.guardFault w g x = none ∧ k w x s.taken = .ok d ∧
      fireTimed g k s = .next (s.fired w x g d)) := by
  cases h : s.issue with
  | none => exact .inl ⟨rfl, by simp only [fireTimed, h]⟩
  | some p =>
    obtain ⟨w, x⟩ := p
    refine .inr ?_
    cases hg : s.taken.guardFault w g x with
    | some f => exact .inl ⟨w, x, f, rfl, fireTimed_guard k h hg⟩
    | none =>
      simp only [State.taken] at hg
      cases hk : k w x s.taken with
      | error f => exact .inl ⟨w, x, f, rfl, by simp only [State.taken] at hk; simp only [fireTimed, h, hg, hk]; rfl⟩
      | ok d => exact .inr ⟨w, x, d, rfl, hg, hk, by simp only [State.taken] at hk; simp only [fireTimed, h, hg, hk]; rfl⟩

/-! ## A word that a unit performs -/

theorem fireJob_ok {k : Who → Word → State → Flight → Except FaultInfo Flight} {post : Flight → State → State} {j : Flight}
    (h : Fires s i g w x) (hk : k w x s.taken (s.jobOf w x) = .ok j) :
    fireJob g k post s = .next (post j (s.handed w g j)) := by
  obtain ⟨h1, _, h3⟩ := h
  simp only [State.taken, State.jobOf] at h3 hk
  simp only [fireJob, h1, h3, hk]; rfl

theorem fireJob_error {k : Who → Word → State → Flight → Except FaultInfo Flight} {post : Flight → State → State}
    (h : Fires s i g w x) (hk : k w x s.taken (s.jobOf w x) = .error f) :
    fireJob g k post s = .next (s.taken.raise w x f) := by
  obtain ⟨h1, _, h3⟩ := h
  simp only [State.taken, State.jobOf] at h3 hk
  simp only [fireJob, h1, h3, hk]; rfl

theorem fireJob_guard (k : Who → Word → State → Flight → Except FaultInfo Flight) (post : Flight → State → State)
    (h : s.issue = some (w, x)) (hf : s.taken.guardFault w g x = some f) : fireJob g k post s = .next (s.taken.raise w x f) := by
  simp only [State.taken] at hf
  simp only [fireJob, h, hf]; rfl

/-- Everything such a word can do. -/
theorem fireJob_cases (g : Guard) (k : Who → Word → State → Flight → Except FaultInfo Flight) (post : Flight → State → State)
    (s : State) :
    (s.issue = none ∧ fireJob g k post s = .fault .noAgent) ∨
    (∃ w x f, s.issue = some (w, x) ∧ fireJob g k post s = .next (s.taken.raise w x f)) ∨
    (∃ w x j, s.issue = some (w, x) ∧ s.taken.guardFault w g x = none ∧ k w x s.taken (s.jobOf w x) = .ok j ∧
      fireJob g k post s = .next (post j (s.handed w g j))) := by
  cases h : s.issue with
  | none => exact .inl ⟨rfl, by simp only [fireJob, h]⟩
  | some p =>
    obtain ⟨w, x⟩ := p
    refine .inr ?_
    cases hg : s.taken.guardFault w g x with
    | some f => exact .inl ⟨w, x, f, rfl, fireJob_guard k post h hg⟩
    | none =>
      simp only [State.taken] at hg
      cases hk : k w x s.taken (s.jobOf w x) with
      | error f =>
        exact .inl ⟨w, x, f, rfl, by simp only [State.taken, State.jobOf] at hk; simp only [fireJob, h, hg, hk]; rfl⟩
      | ok j =>
        exact .inr ⟨w, x, j, rfl, hg, hk, by simp only [State.taken, State.jobOf] at hk; simp only [fireJob, h, hg, hk]; rfl⟩

/-! ## A word with an effect of its own on the state -/

theorem fireSys_ok {k : Who → Word → State → Except FaultInfo (Done × (State → State))} {d : Done} {post : State → State}
    (h : Fires s i g w x) (hk : k w x s.taken = .ok (d, post)) : fireSys g k s = .next (post (s.fired w x g d)) := by
  obtain ⟨h1, _, h3⟩ := h
  simp only [State.taken] at h3 hk
  simp only [fireSys, h1, h3, hk]; rfl

theorem fireSys_error {k : Who → Word → State → Except FaultInfo (Done × (State → State))}
    (h : Fires s i g w x) (hk : k w x s.taken = .error f) : fireSys g k s = .next (s.taken.raise w x f) := by
  obtain ⟨h1, _, h3⟩ := h
  simp only [State.taken] at h3 hk
  simp only [fireSys, h1, h3, hk]; rfl

theorem fireSys_guard (k : Who → Word → State → Except FaultInfo (Done × (State → State)))
    (h : s.issue = some (w, x)) (hf : s.taken.guardFault w g x = some f) : fireSys g k s = .next (s.taken.raise w x f) := by
  simp only [State.taken] at hf
  simp only [fireSys, h, hf]; rfl

/-! ## The scalar forms -/

theorem scalarR_ok {o : FormR} (f : Int → Int → IntRes) (h : Fires s i o.g w x) :
    scalarR o f s = .next (s.scalarFired w x o (f (s.valAt w o.ty o.a) (s.valAt w o.ty o.b)).r
      (f (s.valAt w o.ty o.a) (s.valAt w o.ty o.b)).flag (f (s.valAt w o.ty o.a) (s.valAt w o.ty o.b)).ev) :=
  fireTimed_ok h rfl

theorem scalarR3_ok {o : FormR} (f : Int → Int → Int → IntRes) (h : Fires s i o.g w x) :
    scalarR3 o f s = .next (s.scalarFired w x o (f (s.valAt w o.ty o.d) (s.valAt w o.ty o.a) (s.valAt w o.ty o.b)).r
      (f (s.valAt w o.ty o.d) (s.valAt w o.ty o.a) (s.valAt w o.ty o.b)).flag
      (f (s.valAt w o.ty o.d) (s.valAt w o.ty o.a) (s.valAt w o.ty o.b)).ev) :=
  fireTimed_ok h rfl

theorem scalarI_ok {o : FormI} (f : Word → Nat → Word) (h : Fires s i o.g w x) :
    scalarI o f s = .next (s.immFired w x o (f (s.taken.readS w o.a.toNat) o.imm.toNat)) :=
  fireTimed_ok h rfl

theorem shiftR_ok {o : FormR} (f : Nat → Nat → Nat → Nat × Bool) (h : Fires s i o.g w x) :
    shiftR o f s = .next (s.scalarFired w x o
      (readTy o.ty.toNat (f (tyWidth o.ty.toNat) (s.patAt w o.ty o.a) ((s.taken.readS w o.b.toNat).toNat % tyWidth o.ty.toNat)).1)
      (f (tyWidth o.ty.toNat) (s.patAt w o.ty o.a) ((s.taken.readS w o.b.toNat).toNat % tyWidth o.ty.toNat)).2 []) :=
  fireTimed_ok h rfl

/-! ## Nothing but an access writes memory -/

@[simp] theorem takeElem_mem (s : State) (pg pe port : Nat) : (s.takeElem pg pe port).mem = s.mem := by
  unfold State.takeElem; repeat' split <;> try rfl

@[simp] theorem count_mem (s : State) (w : Who) (ev : List Nat) : (s.count w ev).mem = s.mem := by
  unfold State.count; cases w <;> rfl

@[simp] theorem reserve_mem (w : Who) (h : List Res) (s : State) : (s.reserve w h).mem = s.mem := by
  unfold State.reserve
  induction h generalizing s with
  | nil => rfl
  | cons r l ih => rw [List.foldl_cons, ih]; split <;> rfl

@[simp] theorem setPred_mem (s : State) (w : Who) (n : Nat) (v : Tri) : (s.setPred w n v).mem = s.mem := by
  unfold State.setPred; cases w <;> rfl

@[simp] theorem pend_mem (w : Who) (h : List Res) (s : State) : (s.pend w h).mem = s.mem := by
  unfold State.pend
  induction h generalizing s with
  | nil => rfl
  | cons r l ih => rw [List.foldl_cons, ih]; split <;> first | exact setPred_mem .. | rfl

end Sys2Proof.Machine
end

