-- ==== Sys2Proof/Laws/Memory.lean ====
section
/-!
SUPPORT. Memory: reading after writing, and the canonical form that every memory operation keeps.
-/

set_option Elab.async false

namespace Sys2Proof.Machine

/-! ## The canonical form -/

theorem memOrdered_mono {j k : Nat} (h : j ≤ k) {m : List Host.Cell} (hm : memOrdered k m = true) :
    memOrdered j m = true := by
  cases m with
  | nil => rfl
  | cons c l =>
    obtain ⟨i, b⟩ := c
    simp only [memOrdered, Bool.and_eq_true, decide_eq_true_eq] at hm ⊢
    exact ⟨⟨h.trans hm.1.1, hm.1.2⟩, hm.2⟩

/-- A key below every listed one reads zero. -/
theorem memGet_below {k a : Nat} {m : List Host.Cell} (hm : memOrdered k m = true) (ha : a < k) : memGet a m = 0 := by
  induction m generalizing k with
  | nil => rfl
  | cons c l ih =>
    obtain ⟨i, b⟩ := c
    simp only [memOrdered, Bool.and_eq_true, decide_eq_true_eq] at hm
    have hne : i ≠ a := by omega
    simp only [memGet, hne, if_false]
    exact ih hm.2 (by omega)

/-- Writing one byte keeps keys rising from j and every listed byte nonzero. -/
theorem memOrdered_memPut {j k : Nat} (b : Byte) {m : List Host.Cell} (hm : memOrdered j m = true) (hk : j ≤ k) :
    memOrdered j (memPut k b m) = true := by
  induction m generalizing j with
  | nil =>
    by_cases hb : b = 0#8 <;> simp [memPut, memOrdered, hb, hk]
  | cons c l ih =>
    obtain ⟨i, v⟩ := c
    simp only [memOrdered, Bool.and_eq_true, decide_eq_true_eq] at hm
    obtain ⟨⟨hi, hv⟩, hl⟩ := hm
    rcases Nat.lt_trichotomy i k with h | h | h
    · simp only [memPut, h, if_true, memOrdered, Bool.and_eq_true, decide_eq_true_eq]
      exact ⟨⟨hi, hv⟩, ih hl h⟩
    · subst h
      by_cases hb : b = 0
      · simp only [memPut, Nat.lt_irrefl, if_false, if_true, hb]
        exact memOrdered_mono (by omega) hl
      · simp only [memPut, Nat.lt_irrefl, if_false, if_true, hb, memOrdered, Bool.and_eq_true, decide_eq_true_eq]
        exact ⟨⟨hi, by simpa using hb⟩, hl⟩
    · have h1 : ¬i < k := by omega
      have h2 : i ≠ k := by omega
      by_cases hb : b = 0
      · simp only [memPut, h1, h2, if_false, hb, if_true, memOrdered, Bool.and_eq_true, decide_eq_true_eq]
        exact ⟨⟨hi, hv⟩, hl⟩
      · simp only [memPut, h1, h2, if_false, hb, memOrdered, Bool.and_eq_true, decide_eq_true_eq]
        exact ⟨⟨hk, by simpa using hb⟩, ⟨h, hv⟩, hl⟩

/-- Writing one byte keeps the canonical form. -/
theorem wf_memPut (k : Nat) (b : Byte) {m : List Host.Cell} (hm : Memory.wf m = true) : Memory.wf (memPut k b m) = true :=
  memOrdered_memPut b hm (Nat.zero_le k)

/-- Writing bytes keeps the canonical form. -/
theorem wf_memWrite (k : Nat) (bs : List Byte) {m : List Host.Cell} (hm : Memory.wf m = true) :
    Memory.wf (memWrite m k bs) = true := by
  induction bs generalizing k m with
  | nil => exact hm
  | cons b bs ih => exact ih (k + 1) (wf_memPut k b hm)

/-- Unlisting cells keeps the canonical form. -/
theorem wf_filter (p : Host.Cell → Bool) {m : List Host.Cell} (hm : Memory.wf m = true) :
    Memory.wf (m.filter p) = true := by
  suffices h : ∀ j, memOrdered j m = true → memOrdered j (m.filter p) = true from h 0 hm
  induction m with
  | nil => intro _ _; rfl
  | cons c l ih =>
    obtain ⟨i, v⟩ := c
    intro j hj
    simp only [memOrdered, Bool.and_eq_true, decide_eq_true_eq] at hj
    have hl := ih (memOrdered_mono (Nat.zero_le _) hj.2) _ hj.2
    by_cases hp : p (i, v) = true
    · simp only [List.filter_cons, hp, if_true, memOrdered, Bool.and_eq_true, decide_eq_true_eq]
      exact ⟨hj.1, hl⟩
    · simp only [List.filter_cons, hp, Bool.false_eq_true, if_false]
      exact memOrdered_mono (by omega) hl

/-! ## Reading after writing -/

theorem memGet_memPut_same {j k : Nat} (b : Byte) {m : List Host.Cell} (hm : memOrdered j m = true) :
    memGet k (memPut k b m) = b := by
  induction m generalizing j with
  | nil => by_cases hb : b = 0#8 <;> simp [memPut, memGet, hb]
  | cons c l ih =>
    obtain ⟨i, v⟩ := c
    simp only [memOrdered, Bool.and_eq_true, decide_eq_true_eq] at hm
    rcases Nat.lt_trichotomy i k with h | h | h
    · have h2 : i ≠ k := by omega
      simp only [memPut, h, if_true, memGet, h2, if_false]
      exact ih hm.2
    · subst h
      by_cases hb : b = 0#8
      · simp only [memPut, Nat.lt_irrefl, if_false, if_true, hb]
        exact memGet_below hm.2 (by omega)
      · simp [memPut, hb, memGet]
    · have h1 : ¬i < k := by omega
      have h2 : i ≠ k := by omega
      by_cases hb : b = 0#8
      · subst hb
        simp only [memPut, h1, h2, if_false]
        simpa [memGet, h2] using memGet_below hm.2 (by omega : k < i + 1)
      · simp [memPut, h1, h2, hb, memGet]

theorem memGet_memPut_other {a k : Nat} (b : Byte) (h : a ≠ k) (m : List Host.Cell) :
    memGet a (memPut k b m) = memGet a m := by
  have h' : k ≠ a := fun e => h e.symm
  induction m with
  | nil => by_cases hb : b = 0#8 <;> simp [memPut, memGet, hb, h']
  | cons c l ih =>
    obtain ⟨i, v⟩ := c
    rcases Nat.lt_trichotomy i k with hi | hi | hi
    · simp only [memPut, hi, if_true, memGet, ih]
    · subst hi
      by_cases hb : b = 0#8 <;> simp [memPut, hb, memGet, h']
    · have h1 : ¬i < k := by omega
      have h2 : i ≠ k := by omega
      by_cases hb : b = 0#8 <;> simp [memPut, h1, h2, hb, memGet, h']

/-- A byte read after a write to consecutive keys: the byte written there, or the old one outside. -/
theorem memGet_memWrite (k : Nat) (bs : List Byte) {m : List Host.Cell} (hm : Memory.wf m = true) (a : Nat) :
    memGet a (memWrite m k bs) = if k ≤ a ∧ a < k + bs.length then bs.getD (a - k) 0 else memGet a m := by
  induction bs generalizing k m with
  | nil => simp [memWrite]
  | cons b bs ih =>
    rw [memWrite, ih (k + 1) (wf_memPut k b hm)]
    by_cases h : k = a
    · subst h
      rw [if_neg (by omega), if_pos (by simp), memGet_memPut_same b hm]
      simp
    · rw [memGet_memPut_other b (fun e => h e.symm)]
      by_cases h2 : k + 1 ≤ a ∧ a < k + 1 + bs.length
      · rw [if_pos h2, if_pos (by simp only [List.length_cons]; omega)]
        obtain ⟨n, rfl⟩ : ∃ n, a = k + 1 + n := ⟨a - (k + 1), by omega⟩
        have e1 : k + 1 + n - (k + 1) = n := by omega
        have e2 : k + 1 + n - k = n + 1 := by omega
        rw [e1, e2, List.getD_cons_succ]
      · rw [if_neg h2, if_neg (by simp only [List.length_cons]; omega)]

/-- Two memories in canonical form that read alike at every key are equal. -/
theorem wf_ext {m n : List Host.Cell} (hm : Memory.wf m = true) (hn : Memory.wf n = true)
    (h : ∀ a, memGet a m = memGet a n) : m = n := by
  suffices H : ∀ j, memOrdered j m = true → memOrdered j n = true → m = n from H 0 hm hn
  clear hm hn
  induction m generalizing n with
  | nil =>
    intro j _ hn
    cases n with
    | nil => rfl
    | cons c l =>
      obtain ⟨i, v⟩ := c
      simp only [memOrdered, Bool.and_eq_true, decide_eq_true_eq, bne_iff_ne] at hn
      have := h i
      simp only [memGet, if_true] at this
      exact absurd this.symm hn.1.2
  | cons c l ih =>
    obtain ⟨i, v⟩ := c
    intro j hm hn
    simp only [memOrdered, Bool.and_eq_true, decide_eq_true_eq, bne_iff_ne] at hm
    cases n with
    | nil =>
      have := h i
      simp only [memGet, if_true] at this
      exact absurd this hm.1.2
    | cons d r =>
      obtain ⟨k, u⟩ := d
      simp only [memOrdered, Bool.and_eq_true, decide_eq_true_eq, bne_iff_ne] at hn
      have hik : i = k := by
        rcases Nat.lt_trichotomy i k with hlt | he | hgt
        · have := h i
          have hne : k ≠ i := by omega
          simp only [memGet, if_true, hne, if_false] at this
          rw [memGet_below hn.2 (by omega)] at this
          exact absurd this hm.1.2
        · exact he
        · have := h k
          have hne : i ≠ k := by omega
          simp only [memGet, if_true, hne, if_false] at this
          rw [memGet_below hm.2 (by omega)] at this
          exact absurd this.symm hn.1.2
      subst hik
      have hv : v = u := by simpa [memGet] using h i
      subst hv
      have hl : l = r := by
        refine ih (fun a => ?_) (i + 1) hm.2 hn.2
        by_cases ha : i = a
        · subst ha
          rw [memGet_below hm.2 (by omega), memGet_below hn.2 (by omega)]
        · simpa [memGet, ha] using h a
      rw [hl]

/-! ## Stores of the state -/

theorem wf_store (s : State) (k : Nat) (bs : List Byte) (h : Memory.wf s.mem = true) :
    Memory.wf (s.store k bs).mem = true := wf_memWrite k bs h

theorem wf_storeMasked (s : State) (k : Nat) (mask : List Bool) (bs : List Byte) (h : Memory.wf s.mem = true) :
    Memory.wf (s.storeMasked k mask bs).mem = true := wf_store s k _ h

/-- Memory right after reset is in its canonical form. -/
theorem wf_reset : Memory.wf State.reset.mem = true := rfl

end Sys2Proof.Machine
end

