-- ==== Sys2Proof/Laws/PerInstr.lean ====
section
/-!
SUPPORT. Family Codec: an instruction's word decodes to it, one lemma per constructor; a unit's step has no word.
-/

set_option Elab.async false

namespace Sys2Proof.Laws.Codec

set_option maxRecDepth 4096

/-- The word of an instruction, if it has one, decodes to that instruction, with every operand at every value. -/
def Statement (i : Instr) : Prop := ∀ w : Word, encode i = some w → decode w = .ok i

/-- An instruction without a word. -/
theorem of_none {i : Instr} (h : encode i = none) : Statement i := fun w hw => by simp [h] at hw

/-- A Form R word. -/
theorem of_packR {i : Instr} {opc : BitVec 7} {fn : BitVec 3} {o : FormR} (f : FormR → Instr)
    (he : encode i = some (packR opc fn o)) (hi : f o = i) (h : reservedOpc.contains opc.toNat = false)
    (hr : (findRow opc.toNat fn.toNat opRows).map (·.build) = some (.r f)) : Statement i := fun w hw => by
  rw [he] at hw; cases hw; rw [← hi]; exact decode_packR opc fn o f h hr

/-- A Form I word. -/
theorem of_packI {i : Instr} {opc : BitVec 7} {fn : BitVec 3} {o : FormI} (f : FormI → Instr)
    (he : encode i = some (packI opc fn o)) (hi : f o = i) (h : reservedOpc.contains opc.toNat = false)
    (hr : (findRow opc.toNat fn.toNat opRows).map (·.build) = some (.i f)) : Statement i := fun w hw => by
  rw [he] at hw; cases hw; rw [← hi]; exact decode_packI opc fn o f h hr

theorem peArbiterFire (pg pe : Nat) :
    Statement (.peArbiterFire pg pe) := of_none rfl
theorem writeBack (fid : Nat) :
    Statement (.writeBack fid) := of_none rfl
theorem tokenAdvance (pg rt : Nat) :
    Statement (.tokenAdvance pg rt) := of_none rfl
theorem routerPacketEgress (pg rt : Nat) :
    Statement (.routerPacketEgress pg rt) := of_none rfl
theorem routerPacketIngress (pk : Nat) :
    Statement (.routerPacketIngress pk) := of_none rfl
theorem isectPresent (pg pe : Nat) :
    Statement (.isectPresent pg pe) := of_none rfl
theorem snapPass (pg unit : Nat) :
    Statement (.snapPass pg unit) := of_none rfl
theorem drainForward (pg unit : Nat) :
    Statement (.drainForward pg unit) := of_none rfl
theorem drainAbsorb (pg pe port : Nat) :
    Statement (.drainAbsorb pg pe port) := of_none rfl
theorem pulseApply (pg pe port : Nat) :
    Statement (.pulseApply pg pe port) := of_none rfl
theorem tellerIssue (t : Nat) :
    Statement (.tellerIssue t) := of_none rfl
theorem tellerFetchLine (t cx line : Nat) :
    Statement (.tellerFetchLine t cx line) := of_none rfl
theorem lateTrap (fid : Nat) :
    Statement (.lateTrap fid) := of_none rfl
theorem mintLoad (rg page : Nat) :
    Statement (.mintLoad rg page) := of_none rfl
theorem regionArm (rg : Nat) :
    Statement (.regionArm rg) := of_none rfl
theorem shadowFillComplete (rg : Nat) :
    Statement (.shadowFillComplete rg) := of_none rfl
theorem sequenceSwap (rg : Nat) :
    Statement (.sequenceSwap rg) := of_none rfl
theorem streamHeaderCapture (pg si : Nat) :
    Statement (.streamHeaderCapture pg si) := of_none rfl
theorem streamRowIssue (pg si : Nat) :
    Statement (.streamRowIssue pg si) := of_none rfl
theorem streamWindowRead (pg si : Nat) :
    Statement (.streamWindowRead pg si) := of_none rfl
theorem lengthMarkerAtHead (pg pe port : Nat) :
    Statement (.lengthMarkerAtHead pg pe port) := of_none rfl
theorem poisonMarkerAtHead (pg pe port : Nat) :
    Statement (.poisonMarkerAtHead pg pe port) := of_none rfl
theorem storeStreamToken (pg si : Nat) :
    Statement (.storeStreamToken pg si) := of_none rfl
theorem shapeWindowRefill (pg sx : Nat) :
    Statement (.shapeWindowRefill pg sx) := of_none rfl
theorem shsetWriteThrough (pg sx : Nat) :
    Statement (.shsetWriteThrough pg sx) := of_none rfl
theorem tileQueuePerform (pg ten : Nat) :
    Statement (.tileQueuePerform pg ten) := of_none rfl
theorem mmaEngineStep (pg ten : Nat) :
    Statement (.mmaEngineStep pg ten) := of_none rfl
theorem tenantFlush (pg ten : Nat) :
    Statement (.tenantFlush pg ten) := of_none rfl
theorem armRecordWalk (rg : Nat) :
    Statement (.armRecordWalk rg) := of_none rfl
theorem bankAccess (die bank : Nat) :
    Statement (.bankAccess die bank) := of_none rfl
theorem hbmAccessComplete (rid : Nat) :
    Statement (.hbmAccessComplete rid) := of_none rfl
theorem translationWalk (rid : Nat) :
    Statement (.translationWalk rid) := of_none rfl
theorem updateTokenArrive (uid : Nat) :
    Statement (.updateTokenArrive uid) := of_none rfl
theorem ownerUpdateApply (pg me : Nat) :
    Statement (.ownerUpdateApply pg me) := of_none rfl
theorem atomicResultReturn (fid : Nat) :
    Statement (.atomicResultReturn fid) := of_none rfl
theorem instructionPerformed (fid : Nat) :
    Statement (.instructionPerformed fid) := of_none rfl
theorem tillAppend (mid : Nat) :
    Statement (.tillAppend mid) := of_none rfl
theorem spanMessageArrive (port ptn till res : Nat) (bytes : List Byte) :
    Statement (.spanMessageArrive port ptn till res bytes) := of_none rfl
theorem uncorrectableError (pa : Nat) :
    Statement (.uncorrectableError pa) := of_none rfl
theorem latchParityError (pg rt pos : Nat) :
    Statement (.latchParityError pg rt pos) := of_none rfl
theorem correctedError (die cls : Nat) :
    Statement (.correctedError die cls) := of_none rfl
theorem grpEntryApply (die ix : Nat) :
    Statement (.grpEntryApply die ix) := of_none rfl
theorem tcntApply (rg : Nat) :
    Statement (.tcntApply rg) := of_none rfl
theorem drainStart (rg : Nat) :
    Statement (.drainStart rg) := of_none rfl
theorem meDrainPass (pg me : Nat) :
    Statement (.meDrainPass pg me) := of_none rfl
theorem pageDrained (pg : Nat) :
    Statement (.pageDrained pg) := of_none rfl
theorem regionComplete (rg : Nat) :
    Statement (.regionComplete rg) := of_none rfl
theorem quietCountExpire (rg : Nat) :
    Statement (.quietCountExpire rg) := of_none rfl
theorem statCountEmit (pg unit : Nat) :
    Statement (.statCountEmit pg unit) := of_none rfl
theorem statRecordWrite (pg : Nat) :
    Statement (.statRecordWrite pg) := of_none rfl
theorem tileTaskIssue (rg : Nat) :
    Statement (.tileTaskIssue rg) := of_none rfl
theorem tileTaskSeal (rg ix : Nat) :
    Statement (.tileTaskSeal rg ix) := of_none rfl
theorem escrowReserveStall (rg ix : Nat) :
    Statement (.escrowReserveStall rg ix) := of_none rfl
theorem writeThroughStart (rg ix : Nat) :
    Statement (.writeThroughStart rg ix) := of_none rfl
theorem commitTileTask (rg ix : Nat) :
    Statement (.commitTileTask rg ix) := of_none rfl
theorem rerunIssue (rg ix : Nat) :
    Statement (.rerunIssue rg ix) := of_none rfl
theorem cutSnapInject (rg : Nat) :
    Statement (.cutSnapInject rg) := of_none rfl
theorem schedulerCycle (die : Nat) :
    Statement (.schedulerCycle die) := of_none rfl
theorem priorityAging (die q : Nat) :
    Statement (.priorityAging die q) := of_none rfl
theorem stealRequestServe (rg : Nat) :
    Statement (.stealRequestServe rg) := of_none rfl
theorem safSlice (pg g : Nat) :
    Statement (.safSlice pg g) := of_none rfl
theorem safOutput (pg g : Nat) :
    Statement (.safOutput pg g) := of_none rfl
theorem safCtlHandle (pg g : Nat) :
    Statement (.safCtlHandle pg g) := of_none rfl
theorem linkFifoApply (l : Nat) :
    Statement (.linkFifoApply l) := of_none rfl
theorem groupTurnComplete (l g : Nat) :
    Statement (.groupTurnComplete l g) := of_none rfl
theorem linkHoldExpire (l : Nat) :
    Statement (.linkHoldExpire l) := of_none rfl
theorem linkFlitFailure (rg : Nat) :
    Statement (.linkFlitFailure rg) := of_none rfl
theorem copyCommandExecute (die e : Nat) :
    Statement (.copyCommandExecute die e) := of_none rfl
theorem nmcCommandExecute (die ptn : Nat) :
    Statement (.nmcCommandExecute die ptn) := of_none rfl
theorem engineCompletionPost (die q : Nat) :
    Statement (.engineCompletionPost die q) := of_none rfl
theorem undoLogLow (pg me : Nat) :
    Statement (.undoLogLow pg me) := of_none rfl
theorem preemptFreeze (rg : Nat) :
    Statement (.preemptFreeze rg) := of_none rfl
theorem preemptWatchdogExpire (rg : Nat) :
    Statement (.preemptWatchdogExpire rg) := of_none rfl
theorem vfReset (ptn : Nat) :
    Statement (.vfReset ptn) := of_none rfl
theorem hypervisorVfPreempt (ptn : Nat) :
    Statement (.hypervisorVfPreempt ptn) := of_none rfl
theorem hostMbxWrite (ptn : Nat) (v : Word) :
    Statement (.hostMbxWrite ptn v) := of_none rfl
theorem hostNotifyRead (ptn : Nat) :
    Statement (.hostNotifyRead ptn) := of_none rfl
theorem mbxerrClear (ptn : Nat) :
    Statement (.mbxerrClear ptn) := of_none rfl
theorem hostRegisterWrite (ptn off : Nat) (v : Word) :
    Statement (.hostRegisterWrite ptn off v) := of_none rfl
theorem pfcmdRequest (req : List Word) :
    Statement (.pfcmdRequest req) := of_none rfl
theorem partitionCreate (ptn : Nat) (r : PtnRes) :
    Statement (.partitionCreate ptn r) := of_none rfl
theorem partitionResize (ptn : Nat) (r : PtnRes) :
    Statement (.partitionResize ptn r) := of_none rfl
theorem partitionDestroy (ptn : Nat) :
    Statement (.partitionDestroy ptn) := of_none rfl
theorem cxlMemAccess (ptn pa len : Nat) (w : Option (List Byte)) :
    Statement (.cxlMemAccess ptn pa len w) := of_none rfl
theorem spdmRequest (nonce : List Byte) :
    Statement (.spdmRequest nonce) := of_none rfl
theorem tdiStateChange (ptn : Nat) (st : Tdi) :
    Statement (.tdiStateChange ptn st) := of_none rfl
theorem debugPolicySupply (ptn sets : Nat) (signed : Bool) :
    Statement (.debugPolicySupply ptn sets signed) := of_none rfl
theorem manifestSign (ptn : Nat) (man : List Byte) :
    Statement (.manifestSign ptn man) := of_none rfl
theorem powerUp :
    Statement (.powerUp) := of_none rfl
theorem dieReady (die : Nat) :
    Statement (.dieReady die) := of_none rfl
theorem earlyServiceStart :
    Statement (.earlyServiceStart) := of_none rfl
theorem packageReady :
    Statement (.packageReady) := of_none rfl
theorem powerCap (die mhz : Nat) :
    Statement (.powerCap die mhz) := of_none rfl
theorem watchdogSet (die n : Nat) :
    Statement (.watchdogSet die n) := of_none rfl
theorem csrCtlWrite (t cx n : Nat) (v : Word) :
    Statement (.csrCtlWrite t cx n v) := of_none rfl
theorem csrAsidhiWrite (t cx : Nat) (v : Word) :
    Statement (.csrAsidhiWrite t cx v) := of_none rfl
theorem csrAsidselWrite (t cx : Nat) (v : Word) :
    Statement (.csrAsidselWrite t cx v) := of_none rfl
theorem csrPtillWrite (t cx : Nat) (v : Word) :
    Statement (.csrPtillWrite t cx v) := of_none rfl
theorem assayOperation (die : Nat) :
    Statement (.assayOperation die) := of_none rfl
theorem groupEligible (l g : Nat) :
    Statement (.groupEligible l g) := of_none rfl
theorem peerPermitRequest (port ptn till r : Nat) (get : Bool) :
    Statement (.peerPermitRequest port ptn till r get) := of_none rfl
theorem vfRestore (ptn : Nat) :
    Statement (.vfRestore ptn) := of_none rfl
theorem bar2WindowAccess (ptn off len : Nat) (w : Option (List Byte)) :
    Statement (.bar2WindowAccess ptn off len w) := of_none rfl
theorem nop (o : FormR) : Statement (.nop o) :=
  of_packR (opc := 0x00) (fn := 0) (o := o) Instr.nop rfl rfl rfl rfl
theorem addW (o : FormR) : Statement (.addW o) :=
  of_packR (opc := 0x01) (fn := 0) (o := o) Instr.addW rfl rfl rfl rfl
theorem addSs (o : FormR) : Statement (.addSs o) :=
  of_packR (opc := 0x01) (fn := 1) (o := o) Instr.addSs rfl rfl rfl rfl
theorem addSn (o : FormR) : Statement (.addSn o) :=
  of_packR (opc := 0x01) (fn := 2) (o := o) Instr.addSn rfl rfl rfl rfl
theorem subW (o : FormR) : Statement (.subW o) :=
  of_packR (opc := 0x02) (fn := 0) (o := o) Instr.subW rfl rfl rfl rfl
theorem subSs (o : FormR) : Statement (.subSs o) :=
  of_packR (opc := 0x02) (fn := 1) (o := o) Instr.subSs rfl rfl rfl rfl
theorem subSn (o : FormR) : Statement (.subSn o) :=
  of_packR (opc := 0x02) (fn := 2) (o := o) Instr.subSn rfl rfl rfl rfl
theorem addi (o : FormI) : Statement (.addi o) :=
  of_packI (opc := 0x03) (fn := 0) (o := o) Instr.addi rfl rfl rfl rfl
theorem mulLo (o : FormR) : Statement (.mulLo o) :=
  of_packR (opc := 0x04) (fn := 0) (o := o) Instr.mulLo rfl rfl rfl rfl
theorem mulHs (o : FormR) : Statement (.mulHs o) :=
  of_packR (opc := 0x04) (fn := 1) (o := o) Instr.mulHs rfl rfl rfl rfl
theorem mulHn (o : FormR) : Statement (.mulHn o) :=
  of_packR (opc := 0x04) (fn := 2) (o := o) Instr.mulHn rfl rfl rfl rfl
theorem macW (o : FormR) : Statement (.macW o) :=
  of_packR (opc := 0x05) (fn := 0) (o := o) Instr.macW rfl rfl rfl rfl
theorem macSs (o : FormR) : Statement (.macSs o) :=
  of_packR (opc := 0x05) (fn := 1) (o := o) Instr.macSs rfl rfl rfl rfl
theorem divQs (o : FormR) : Statement (.divQs o) :=
  of_packR (opc := 0x06) (fn := 0) (o := o) Instr.divQs rfl rfl rfl rfl
theorem divQn (o : FormR) : Statement (.divQn o) :=
  of_packR (opc := 0x06) (fn := 1) (o := o) Instr.divQn rfl rfl rfl rfl
theorem divMs (o : FormR) : Statement (.divMs o) :=
  of_packR (opc := 0x06) (fn := 2) (o := o) Instr.divMs rfl rfl rfl rfl
theorem divMn (o : FormR) : Statement (.divMn o) :=
  of_packR (opc := 0x06) (fn := 3) (o := o) Instr.divMn rfl rfl rfl rfl
theorem logAnd (o : FormR) : Statement (.logAnd o) :=
  of_packR (opc := 0x07) (fn := 0) (o := o) Instr.logAnd rfl rfl rfl rfl
theorem logOr (o : FormR) : Statement (.logOr o) :=
  of_packR (opc := 0x07) (fn := 1) (o := o) Instr.logOr rfl rfl rfl rfl
theorem logXor (o : FormR) : Statement (.logXor o) :=
  of_packR (opc := 0x07) (fn := 2) (o := o) Instr.logXor rfl rfl rfl rfl
theorem logAndn (o : FormR) : Statement (.logAndn o) :=
  of_packR (opc := 0x07) (fn := 3) (o := o) Instr.logAndn rfl rfl rfl rfl
theorem logOrn (o : FormR) : Statement (.logOrn o) :=
  of_packR (opc := 0x07) (fn := 4) (o := o) Instr.logOrn rfl rfl rfl rfl
theorem logXnor (o : FormR) : Statement (.logXnor o) :=
  of_packR (opc := 0x07) (fn := 5) (o := o) Instr.logXnor rfl rfl rfl rfl
theorem shfShl (o : FormR) : Statement (.shfShl o) :=
  of_packR (opc := 0x08) (fn := 0) (o := o) Instr.shfShl rfl rfl rfl rfl
theorem shfShr (o : FormR) : Statement (.shfShr o) :=
  of_packR (opc := 0x08) (fn := 1) (o := o) Instr.shfShr rfl rfl rfl rfl
theorem shfSar (o : FormR) : Statement (.shfSar o) :=
  of_packR (opc := 0x08) (fn := 2) (o := o) Instr.shfSar rfl rfl rfl rfl
theorem shfRol (o : FormR) : Statement (.shfRol o) :=
  of_packR (opc := 0x08) (fn := 3) (o := o) Instr.shfRol rfl rfl rfl rfl
theorem shfiShl (o : FormI) : Statement (.shfiShl o) :=
  of_packI (opc := 0x09) (fn := 0) (o := o) Instr.shfiShl rfl rfl rfl rfl
theorem shfiShr (o : FormI) : Statement (.shfiShr o) :=
  of_packI (opc := 0x09) (fn := 1) (o := o) Instr.shfiShr rfl rfl rfl rfl
theorem shfiSar (o : FormI) : Statement (.shfiSar o) :=
  of_packI (opc := 0x09) (fn := 2) (o := o) Instr.shfiSar rfl rfl rfl rfl
theorem shfiRol (o : FormI) : Statement (.shfiRol o) :=
  of_packI (opc := 0x09) (fn := 3) (o := o) Instr.shfiRol rfl rfl rfl rfl
theorem mmxMins (o : FormR) : Statement (.mmxMins o) :=
  of_packR (opc := 0x0A) (fn := 0) (o := o) Instr.mmxMins rfl rfl rfl rfl
theorem mmxMaxs (o : FormR) : Statement (.mmxMaxs o) :=
  of_packR (opc := 0x0A) (fn := 1) (o := o) Instr.mmxMaxs rfl rfl rfl rfl
theorem mmxMinn (o : FormR) : Statement (.mmxMinn o) :=
  of_packR (opc := 0x0A) (fn := 2) (o := o) Instr.mmxMinn rfl rfl rfl rfl
theorem mmxMaxn (o : FormR) : Statement (.mmxMaxn o) :=
  of_packR (opc := 0x0A) (fn := 3) (o := o) Instr.mmxMaxn rfl rfl rfl rfl
theorem bitPopc (o : FormR) : Statement (.bitPopc o) :=
  of_packR (opc := 0x0B) (fn := 0) (o := o) Instr.bitPopc rfl rfl rfl rfl
theorem bitClz (o : FormR) : Statement (.bitClz o) :=
  of_packR (opc := 0x0B) (fn := 1) (o := o) Instr.bitClz rfl rfl rfl rfl
theorem bitCtz (o : FormR) : Statement (.bitCtz o) :=
  of_packR (opc := 0x0B) (fn := 2) (o := o) Instr.bitCtz rfl rfl rfl rfl
theorem bitBrev (o : FormR) : Statement (.bitBrev o) :=
  of_packR (opc := 0x0B) (fn := 3) (o := o) Instr.bitBrev rfl rfl rfl rfl
theorem bitBext (o : FormR) : Statement (.bitBext o) :=
  of_packR (opc := 0x0B) (fn := 4) (o := o) Instr.bitBext rfl rfl rfl rfl
theorem bitBins (o : FormR) : Statement (.bitBins o) :=
  of_packR (opc := 0x0B) (fn := 5) (o := o) Instr.bitBins rfl rfl rfl rfl
theorem movMov (o : FormR) : Statement (.movMov o) :=
  of_packR (opc := 0x0C) (fn := 0) (o := o) Instr.movMov rfl rfl rfl rfl
theorem movMovk (o : FormR) : Statement (.movMovk o) :=
  of_packR (opc := 0x0C) (fn := 1) (o := o) Instr.movMovk rfl rfl rfl rfl
theorem movSel (o : FormR) : Statement (.movSel o) :=
  of_packR (opc := 0x0C) (fn := 2) (o := o) Instr.movSel rfl rfl rfl rfl
theorem movAbs (o : FormR) : Statement (.movAbs o) :=
  of_packR (opc := 0x0C) (fn := 3) (o := o) Instr.movAbs rfl rfl rfl rfl
theorem movNeg (o : FormR) : Statement (.movNeg o) :=
  of_packR (opc := 0x0C) (fn := 4) (o := o) Instr.movNeg rfl rfl rfl rfl
theorem movSext (o : FormR) : Statement (.movSext o) :=
  of_packR (opc := 0x0C) (fn := 5) (o := o) Instr.movSext rfl rfl rfl rfl
theorem movZext (o : FormR) : Statement (.movZext o) :=
  of_packR (opc := 0x0C) (fn := 6) (o := o) Instr.movZext rfl rfl rfl rfl
theorem li (o : FormI) : Statement (.li o) :=
  of_packI (opc := 0x0D) (fn := 0) (o := o) Instr.li rfl rfl rfl rfl
theorem lis (fn : BitVec 3) (o : FormI) : Statement (.lis fn o) := by
  obtain ⟨⟨n, hn⟩⟩ := fn
  match n, hn with
  | 0, _ => exact of_packI (opc := 0x0E) (fn := 0) (o := o) (Instr.lis 0) rfl rfl rfl rfl
  | 1, _ => exact of_packI (opc := 0x0E) (fn := 1) (o := o) (Instr.lis 1) rfl rfl rfl rfl
  | 2, _ => exact of_packI (opc := 0x0E) (fn := 2) (o := o) (Instr.lis 2) rfl rfl rfl rfl
  | 3, _ => exact of_packI (opc := 0x0E) (fn := 3) (o := o) (Instr.lis 3) rfl rfl rfl rfl
  | 4, _ => exact of_packI (opc := 0x0E) (fn := 4) (o := o) (Instr.lis 4) rfl rfl rfl rfl
  | 5, _ => exact of_none rfl
  | 6, _ => exact of_none rfl
  | 7, _ => exact of_none rfl
theorem addr (fn : BitVec 3) (o : FormR) : Statement (.addr fn o) := by
  obtain ⟨⟨n, hn⟩⟩ := fn
  match n, hn with
  | 0, _ => exact of_packR (opc := 0x0F) (fn := 0) (o := o) (Instr.addr 0) rfl rfl rfl rfl
  | 1, _ => exact of_packR (opc := 0x0F) (fn := 1) (o := o) (Instr.addr 1) rfl rfl rfl rfl
  | 2, _ => exact of_packR (opc := 0x0F) (fn := 2) (o := o) (Instr.addr 2) rfl rfl rfl rfl
  | 3, _ => exact of_packR (opc := 0x0F) (fn := 3) (o := o) (Instr.addr 3) rfl rfl rfl rfl
  | 4, _ => exact of_packR (opc := 0x0F) (fn := 4) (o := o) (Instr.addr 4) rfl rfl rfl rfl
  | 5, _ => exact of_packR (opc := 0x0F) (fn := 5) (o := o) (Instr.addr 5) rfl rfl rfl rfl
  | 6, _ => exact of_packR (opc := 0x0F) (fn := 6) (o := o) (Instr.addr 6) rfl rfl rfl rfl
  | 7, _ => exact of_packR (opc := 0x0F) (fn := 7) (o := o) (Instr.addr 7) rfl rfl rfl rfl
theorem cmpEq (o : FormR) : Statement (.cmpEq o) :=
  of_packR (opc := 0x10) (fn := 0) (o := o) Instr.cmpEq rfl rfl rfl rfl
theorem cmpNe (o : FormR) : Statement (.cmpNe o) :=
  of_packR (opc := 0x10) (fn := 1) (o := o) Instr.cmpNe rfl rfl rfl rfl
theorem cmpLt (o : FormR) : Statement (.cmpLt o) :=
  of_packR (opc := 0x10) (fn := 2) (o := o) Instr.cmpLt rfl rfl rfl rfl
theorem cmpLe (o : FormR) : Statement (.cmpLe o) :=
  of_packR (opc := 0x10) (fn := 3) (o := o) Instr.cmpLe rfl rfl rfl rfl
theorem cmpLtn (o : FormR) : Statement (.cmpLtn o) :=
  of_packR (opc := 0x10) (fn := 4) (o := o) Instr.cmpLtn rfl rfl rfl rfl
theorem cmpLen (o : FormR) : Statement (.cmpLen o) :=
  of_packR (opc := 0x10) (fn := 5) (o := o) Instr.cmpLen rfl rfl rfl rfl
theorem cmpTst (o : FormR) : Statement (.cmpTst o) :=
  of_packR (opc := 0x10) (fn := 6) (o := o) Instr.cmpTst rfl rfl rfl rfl
theorem cmpiEq (o : FormI) : Statement (.cmpiEq o) :=
  of_packI (opc := 0x11) (fn := 0) (o := o) Instr.cmpiEq rfl rfl rfl rfl
theorem cmpiNe (o : FormI) : Statement (.cmpiNe o) :=
  of_packI (opc := 0x11) (fn := 1) (o := o) Instr.cmpiNe rfl rfl rfl rfl
theorem cmpiLt (o : FormI) : Statement (.cmpiLt o) :=
  of_packI (opc := 0x11) (fn := 2) (o := o) Instr.cmpiLt rfl rfl rfl rfl
theorem cmpiLe (o : FormI) : Statement (.cmpiLe o) :=
  of_packI (opc := 0x11) (fn := 3) (o := o) Instr.cmpiLe rfl rfl rfl rfl
theorem cmpiLtn (o : FormI) : Statement (.cmpiLtn o) :=
  of_packI (opc := 0x11) (fn := 4) (o := o) Instr.cmpiLtn rfl rfl rfl rfl
theorem cmpiLen (o : FormI) : Statement (.cmpiLen o) :=
  of_packI (opc := 0x11) (fn := 5) (o := o) Instr.cmpiLen rfl rfl rfl rfl
theorem cmpiTst (o : FormI) : Statement (.cmpiTst o) :=
  of_packI (opc := 0x11) (fn := 6) (o := o) Instr.cmpiTst rfl rfl rfl rfl
theorem fcmpEq (o : FormR) : Statement (.fcmpEq o) :=
  of_packR (opc := 0x12) (fn := 0) (o := o) Instr.fcmpEq rfl rfl rfl rfl
theorem fcmpNe (o : FormR) : Statement (.fcmpNe o) :=
  of_packR (opc := 0x12) (fn := 1) (o := o) Instr.fcmpNe rfl rfl rfl rfl
theorem fcmpLt (o : FormR) : Statement (.fcmpLt o) :=
  of_packR (opc := 0x12) (fn := 2) (o := o) Instr.fcmpLt rfl rfl rfl rfl
theorem fcmpLe (o : FormR) : Statement (.fcmpLe o) :=
  of_packR (opc := 0x12) (fn := 3) (o := o) Instr.fcmpLe rfl rfl rfl rfl
theorem fcmpUn (o : FormR) : Statement (.fcmpUn o) :=
  of_packR (opc := 0x12) (fn := 4) (o := o) Instr.fcmpUn rfl rfl rfl rfl
theorem fcmpOr (o : FormR) : Statement (.fcmpOr o) :=
  of_packR (opc := 0x12) (fn := 5) (o := o) Instr.fcmpOr rfl rfl rfl rfl
theorem psetSet (o : FormR) : Statement (.psetSet o) :=
  of_packR (opc := 0x13) (fn := 0) (o := o) Instr.psetSet rfl rfl rfl rfl
theorem psetClr (o : FormR) : Statement (.psetClr o) :=
  of_packR (opc := 0x13) (fn := 1) (o := o) Instr.psetClr rfl rfl rfl rfl
theorem psetCpy (o : FormR) : Statement (.psetCpy o) :=
  of_packR (opc := 0x13) (fn := 2) (o := o) Instr.psetCpy rfl rfl rfl rfl
theorem psetNot (o : FormR) : Statement (.psetNot o) :=
  of_packR (opc := 0x13) (fn := 3) (o := o) Instr.psetNot rfl rfl rfl rfl
theorem psetSig (o : FormR) : Statement (.psetSig o) :=
  of_packR (opc := 0x13) (fn := 4) (o := o) Instr.psetSig rfl rfl rfl rfl
theorem plogAnd (o : FormR) : Statement (.plogAnd o) :=
  of_packR (opc := 0x14) (fn := 0) (o := o) Instr.plogAnd rfl rfl rfl rfl
theorem plogOr (o : FormR) : Statement (.plogOr o) :=
  of_packR (opc := 0x14) (fn := 1) (o := o) Instr.plogOr rfl rfl rfl rfl
theorem plogXor (o : FormR) : Statement (.plogXor o) :=
  of_packR (opc := 0x14) (fn := 2) (o := o) Instr.plogXor rfl rfl rfl rfl
theorem plogAndn (o : FormR) : Statement (.plogAndn o) :=
  of_packR (opc := 0x14) (fn := 3) (o := o) Instr.plogAndn rfl rfl rfl rfl
theorem pmovToa (o : FormR) : Statement (.pmovToa o) :=
  of_packR (opc := 0x15) (fn := 0) (o := o) Instr.pmovToa rfl rfl rfl rfl
theorem pmovFra (o : FormR) : Statement (.pmovFra o) :=
  of_packR (opc := 0x15) (fn := 1) (o := o) Instr.pmovFra rfl rfl rfl rfl
theorem sendD (o : FormR) : Statement (.sendD o) :=
  of_packR (opc := 0x18) (fn := 0) (o := o) Instr.sendD rfl rfl rfl rfl
theorem sendEor (o : FormR) : Statement (.sendEor o) :=
  of_packR (opc := 0x18) (fn := 1) (o := o) Instr.sendEor rfl rfl rfl rfl
theorem sendEot (o : FormR) : Statement (.sendEot o) :=
  of_packR (opc := 0x18) (fn := 2) (o := o) Instr.sendEot rfl rfl rfl rfl
theorem sendEos (o : FormR) : Statement (.sendEos o) :=
  of_packR (opc := 0x18) (fn := 3) (o := o) Instr.sendEos rfl rfl rfl rfl
theorem sendLvl (o : FormR) : Statement (.sendLvl o) :=
  of_packR (opc := 0x18) (fn := 4) (o := o) Instr.sendLvl rfl rfl rfl rfl
theorem sendCtl (o : FormR) : Statement (.sendCtl o) :=
  of_packR (opc := 0x18) (fn := 5) (o := o) Instr.sendCtl rfl rfl rfl rfl
theorem fwd (o : FormR) : Statement (.fwd o) :=
  of_packR (opc := 0x19) (fn := 0) (o := o) Instr.fwd rfl rfl rfl rfl
theorem repl (o : FormR) : Statement (.repl o) :=
  of_packR (opc := 0x1A) (fn := 0) (o := o) Instr.repl rfl rfl rfl rfl
theorem tagr (o : FormR) : Statement (.tagr o) :=
  of_packR (opc := 0x1B) (fn := 0) (o := o) Instr.tagr rfl rfl rfl rfl
theorem mrgArr (o : FormR) : Statement (.mrgArr o) :=
  of_packR (opc := 0x1C) (fn := 0) (o := o) Instr.mrgArr rfl rfl rfl rfl
theorem mrgRot (o : FormR) : Statement (.mrgRot o) :=
  of_packR (opc := 0x1C) (fn := 1) (o := o) Instr.mrgRot rfl rfl rfl rfl
theorem markSnap (o : FormR) : Statement (.markSnap o) :=
  of_packR (opc := 0x1D) (fn := 0) (o := o) Instr.markSnap rfl rfl rfl rfl
theorem drain (o : FormR) : Statement (.drain o) :=
  of_packR (opc := 0x1E) (fn := 0) (o := o) Instr.drain rfl rfl rfl rfl
theorem vadd (o : FormR) : Statement (.vadd o) :=
  of_packR (opc := 0x20) (fn := 0) (o := o) Instr.vadd rfl rfl rfl rfl
theorem vsub (o : FormR) : Statement (.vsub o) :=
  of_packR (opc := 0x21) (fn := 0) (o := o) Instr.vsub rfl rfl rfl rfl
theorem vmul (o : FormR) : Statement (.vmul o) :=
  of_packR (opc := 0x22) (fn := 0) (o := o) Instr.vmul rfl rfl rfl rfl
theorem vfmaFma (o : FormR) : Statement (.vfmaFma o) :=
  of_packR (opc := 0x23) (fn := 0) (o := o) Instr.vfmaFma rfl rfl rfl rfl
theorem vfmaFms (o : FormR) : Statement (.vfmaFms o) :=
  of_packR (opc := 0x23) (fn := 1) (o := o) Instr.vfmaFms rfl rfl rfl rfl
theorem vfmaFnma (o : FormR) : Statement (.vfmaFnma o) :=
  of_packR (opc := 0x23) (fn := 2) (o := o) Instr.vfmaFnma rfl rfl rfl rfl
theorem vdivDiv (o : FormR) : Statement (.vdivDiv o) :=
  of_packR (opc := 0x24) (fn := 0) (o := o) Instr.vdivDiv rfl rfl rfl rfl
theorem vdivRcp (o : FormR) : Statement (.vdivRcp o) :=
  of_packR (opc := 0x24) (fn := 1) (o := o) Instr.vdivRcp rfl rfl rfl rfl
theorem vdivRsq (o : FormR) : Statement (.vdivRsq o) :=
  of_packR (opc := 0x24) (fn := 2) (o := o) Instr.vdivRsq rfl rfl rfl rfl
theorem vdivSqrt (o : FormR) : Statement (.vdivSqrt o) :=
  of_packR (opc := 0x24) (fn := 3) (o := o) Instr.vdivSqrt rfl rfl rfl rfl
theorem vmmxMin (o : FormR) : Statement (.vmmxMin o) :=
  of_packR (opc := 0x25) (fn := 0) (o := o) Instr.vmmxMin rfl rfl rfl rfl
theorem vmmxMax (o : FormR) : Statement (.vmmxMax o) :=
  of_packR (opc := 0x25) (fn := 1) (o := o) Instr.vmmxMax rfl rfl rfl rfl
theorem vmmxMinn (o : FormR) : Statement (.vmmxMinn o) :=
  of_packR (opc := 0x25) (fn := 2) (o := o) Instr.vmmxMinn rfl rfl rfl rfl
theorem vmmxMaxn (o : FormR) : Statement (.vmmxMaxn o) :=
  of_packR (opc := 0x25) (fn := 3) (o := o) Instr.vmmxMaxn rfl rfl rfl rfl
theorem vsgnAbs (o : FormR) : Statement (.vsgnAbs o) :=
  of_packR (opc := 0x26) (fn := 0) (o := o) Instr.vsgnAbs rfl rfl rfl rfl
theorem vsgnNeg (o : FormR) : Statement (.vsgnNeg o) :=
  of_packR (opc := 0x26) (fn := 1) (o := o) Instr.vsgnNeg rfl rfl rfl rfl
theorem vsgnCsgn (o : FormR) : Statement (.vsgnCsgn o) :=
  of_packR (opc := 0x26) (fn := 2) (o := o) Instr.vsgnCsgn rfl rfl rfl rfl
theorem vcmp (o : FormR) : Statement (.vcmp o) :=
  of_packR (opc := 0x27) (fn := 0) (o := o) Instr.vcmp rfl rfl rfl rfl
theorem vsel (o : FormR) : Statement (.vsel o) :=
  of_packR (opc := 0x28) (fn := 0) (o := o) Instr.vsel rfl rfl rfl rfl
theorem vlog (o : FormR) : Statement (.vlog o) :=
  of_packR (opc := 0x30) (fn := 0) (o := o) Instr.vlog rfl rfl rfl rfl
theorem vshf (o : FormR) : Statement (.vshf o) :=
  of_packR (opc := 0x31) (fn := 0) (o := o) Instr.vshf rfl rfl rfl rfl
theorem vclmp (o : FormR) : Statement (.vclmp o) :=
  of_packR (opc := 0x32) (fn := 0) (o := o) Instr.vclmp rfl rfl rfl rfl
theorem vcvtRne (o : FormR) : Statement (.vcvtRne o) :=
  of_packR (opc := 0x29) (fn := 0) (o := o) Instr.vcvtRne rfl rfl rfl rfl
theorem vcvtRz (o : FormR) : Statement (.vcvtRz o) :=
  of_packR (opc := 0x29) (fn := 1) (o := o) Instr.vcvtRz rfl rfl rfl rfl
theorem vcvtRu (o : FormR) : Statement (.vcvtRu o) :=
  of_packR (opc := 0x29) (fn := 2) (o := o) Instr.vcvtRu rfl rfl rfl rfl
theorem vcvtRd (o : FormR) : Statement (.vcvtRd o) :=
  of_packR (opc := 0x29) (fn := 3) (o := o) Instr.vcvtRd rfl rfl rfl rfl
theorem vcvtRna (o : FormR) : Statement (.vcvtRna o) :=
  of_packR (opc := 0x29) (fn := 4) (o := o) Instr.vcvtRna rfl rfl rfl rfl
theorem vtrnExp (o : FormR) : Statement (.vtrnExp o) :=
  of_packR (opc := 0x2A) (fn := 0) (o := o) Instr.vtrnExp rfl rfl rfl rfl
theorem vtrnExp2 (o : FormR) : Statement (.vtrnExp2 o) :=
  of_packR (opc := 0x2A) (fn := 1) (o := o) Instr.vtrnExp2 rfl rfl rfl rfl
theorem vtrnLog (o : FormR) : Statement (.vtrnLog o) :=
  of_packR (opc := 0x2A) (fn := 2) (o := o) Instr.vtrnLog rfl rfl rfl rfl
theorem vtrnLog2 (o : FormR) : Statement (.vtrnLog2 o) :=
  of_packR (opc := 0x2A) (fn := 3) (o := o) Instr.vtrnLog2 rfl rfl rfl rfl
theorem vtrnTanh (o : FormR) : Statement (.vtrnTanh o) :=
  of_packR (opc := 0x2A) (fn := 4) (o := o) Instr.vtrnTanh rfl rfl rfl rfl
theorem vtrnSigm (o : FormR) : Statement (.vtrnSigm o) :=
  of_packR (opc := 0x2A) (fn := 5) (o := o) Instr.vtrnSigm rfl rfl rfl rfl
theorem vdot (o : FormR) : Statement (.vdot o) :=
  of_packR (opc := 0x2B) (fn := 0) (o := o) Instr.vdot rfl rfl rfl rfl
theorem vredSum (o : FormR) : Statement (.vredSum o) :=
  of_packR (opc := 0x2C) (fn := 0) (o := o) Instr.vredSum rfl rfl rfl rfl
theorem vredMax (o : FormR) : Statement (.vredMax o) :=
  of_packR (opc := 0x2C) (fn := 1) (o := o) Instr.vredMax rfl rfl rfl rfl
theorem vredMin (o : FormR) : Statement (.vredMin o) :=
  of_packR (opc := 0x2C) (fn := 2) (o := o) Instr.vredMin rfl rfl rfl rfl
theorem vredAnd (o : FormR) : Statement (.vredAnd o) :=
  of_packR (opc := 0x2C) (fn := 3) (o := o) Instr.vredAnd rfl rfl rfl rfl
theorem vredOr (o : FormR) : Statement (.vredOr o) :=
  of_packR (opc := 0x2C) (fn := 4) (o := o) Instr.vredOr rfl rfl rfl rfl
theorem vaccSum (o : FormR) : Statement (.vaccSum o) :=
  of_packR (opc := 0x2D) (fn := 0) (o := o) Instr.vaccSum rfl rfl rfl rfl
theorem vaccMax (o : FormR) : Statement (.vaccMax o) :=
  of_packR (opc := 0x2D) (fn := 1) (o := o) Instr.vaccMax rfl rfl rfl rfl
theorem vaccMin (o : FormR) : Statement (.vaccMin o) :=
  of_packR (opc := 0x2D) (fn := 2) (o := o) Instr.vaccMin rfl rfl rfl rfl
theorem vaccCnt (o : FormR) : Statement (.vaccCnt o) :=
  of_packR (opc := 0x2D) (fn := 3) (o := o) Instr.vaccCnt rfl rfl rfl rfl
theorem vscanIsum (o : FormR) : Statement (.vscanIsum o) :=
  of_packR (opc := 0x2E) (fn := 0) (o := o) Instr.vscanIsum rfl rfl rfl rfl
theorem vscanXsum (o : FormR) : Statement (.vscanXsum o) :=
  of_packR (opc := 0x2E) (fn := 1) (o := o) Instr.vscanXsum rfl rfl rfl rfl
theorem vscanImax (o : FormR) : Statement (.vscanImax o) :=
  of_packR (opc := 0x2E) (fn := 2) (o := o) Instr.vscanImax rfl rfl rfl rfl
theorem vprmIdx (o : FormR) : Statement (.vprmIdx o) :=
  of_packR (opc := 0x2F) (fn := 0) (o := o) Instr.vprmIdx rfl rfl rfl rfl
theorem vprmRot (o : FormR) : Statement (.vprmRot o) :=
  of_packR (opc := 0x2F) (fn := 1) (o := o) Instr.vprmRot rfl rfl rfl rfl
theorem vprmBcl (o : FormR) : Statement (.vprmBcl o) :=
  of_packR (opc := 0x2F) (fn := 2) (o := o) Instr.vprmBcl rfl rfl rfl rfl
theorem vprmPair (o : FormR) : Statement (.vprmPair o) :=
  of_packR (opc := 0x2F) (fn := 3) (o := o) Instr.vprmPair rfl rfl rfl rfl
theorem vqnt (o : FormR) : Statement (.vqnt o) :=
  of_packR (opc := 0x33) (fn := 0) (o := o) Instr.vqnt rfl rfl rfl rfl
theorem vdq (o : FormR) : Statement (.vdq o) :=
  of_packR (opc := 0x34) (fn := 0) (o := o) Instr.vdq rfl rfl rfl rfl
theorem bppk (o : FormR) : Statement (.bppk o) :=
  of_packR (opc := 0x35) (fn := 0) (o := o) Instr.bppk rfl rfl rfl rfl
theorem bpun (o : FormR) : Statement (.bpun o) :=
  of_packR (opc := 0x36) (fn := 0) (o := o) Instr.bpun rfl rfl rfl rfl
theorem vnrmStat (o : FormR) : Statement (.vnrmStat o) :=
  of_packR (opc := 0x37) (fn := 0) (o := o) Instr.vnrmStat rfl rfl rfl rfl
theorem vnrmApply (o : FormR) : Statement (.vnrmApply o) :=
  of_packR (opc := 0x37) (fn := 1) (o := o) Instr.vnrmApply rfl rfl rfl rfl
theorem vinsIns (o : FormR) : Statement (.vinsIns o) :=
  of_packR (opc := 0x38) (fn := 0) (o := o) Instr.vinsIns rfl rfl rfl rfl
theorem vinsExt (o : FormR) : Statement (.vinsExt o) :=
  of_packR (opc := 0x38) (fn := 1) (o := o) Instr.vinsExt rfl rfl rfl rfl
theorem viota (o : FormR) : Statement (.viota o) :=
  of_packR (opc := 0x39) (fn := 0) (o := o) Instr.viota rfl rfl rfl rfl
theorem vbmpExpd (o : FormR) : Statement (.vbmpExpd o) :=
  of_packR (opc := 0x3A) (fn := 0) (o := o) Instr.vbmpExpd rfl rfl rfl rfl
theorem vbmpCnt (o : FormR) : Statement (.vbmpCnt o) :=
  of_packR (opc := 0x3A) (fn := 1) (o := o) Instr.vbmpCnt rfl rfl rfl rfl
theorem vbmpSetb (o : FormR) : Statement (.vbmpSetb o) :=
  of_packR (opc := 0x3A) (fn := 2) (o := o) Instr.vbmpSetb rfl rfl rfl rfl
theorem vmatch (o : FormR) : Statement (.vmatch o) :=
  of_packR (opc := 0x3B) (fn := 0) (o := o) Instr.vmatch rfl rfl rfl rfl
theorem vtopk (o : FormR) : Statement (.vtopk o) :=
  of_packR (opc := 0x3C) (fn := 0) (o := o) Instr.vtopk rfl rfl rfl rfl
theorem vrng (o : FormR) : Statement (.vrng o) :=
  of_packR (opc := 0x3D) (fn := 0) (o := o) Instr.vrng rfl rfl rfl rfl
theorem vhead (o : FormR) : Statement (.vhead o) :=
  of_packR (opc := 0x3E) (fn := 0) (o := o) Instr.vhead rfl rfl rfl rfl
theorem zcfgTy (o : FormR) : Statement (.zcfgTy o) :=
  of_packR (opc := 0x40) (fn := 0) (o := o) Instr.zcfgTy rfl rfl rfl rfl
theorem zcfgRow (o : FormR) : Statement (.zcfgRow o) :=
  of_packR (opc := 0x40) (fn := 1) (o := o) Instr.zcfgRow rfl rfl rfl rfl
theorem zcfgCol (o : FormR) : Statement (.zcfgCol o) :=
  of_packR (opc := 0x40) (fn := 2) (o := o) Instr.zcfgCol rfl rfl rfl rfl
theorem zcfgAll (o : FormR) : Statement (.zcfgAll o) :=
  of_packR (opc := 0x40) (fn := 3) (o := o) Instr.zcfgAll rfl rfl rfl rfl
theorem zrd (o : FormR) : Statement (.zrd o) :=
  of_packR (opc := 0x41) (fn := 0) (o := o) Instr.zrd rfl rfl rfl rfl
theorem zld (o : FormR) : Statement (.zld o) :=
  of_packR (opc := 0x42) (fn := 0) (o := o) Instr.zld rfl rfl rfl rfl
theorem zst (o : FormR) : Statement (.zst o) :=
  of_packR (opc := 0x43) (fn := 0) (o := o) Instr.zst rfl rfl rfl rfl
theorem zfillZero (o : FormR) : Statement (.zfillZero o) :=
  of_packR (opc := 0x44) (fn := 0) (o := o) Instr.zfillZero rfl rfl rfl rfl
theorem zfillOnes (o : FormR) : Statement (.zfillOnes o) :=
  of_packR (opc := 0x44) (fn := 1) (o := o) Instr.zfillOnes rfl rfl rfl rfl
theorem zfillIden (o : FormR) : Statement (.zfillIden o) :=
  of_packR (opc := 0x44) (fn := 2) (o := o) Instr.zfillIden rfl rfl rfl rfl
theorem zfillTril (o : FormR) : Statement (.zfillTril o) :=
  of_packR (opc := 0x44) (fn := 3) (o := o) Instr.zfillTril rfl rfl rfl rfl
theorem zfillTrls (o : FormR) : Statement (.zfillTrls o) :=
  of_packR (opc := 0x44) (fn := 4) (o := o) Instr.zfillTrls rfl rfl rfl rfl
theorem zfillTriu (o : FormR) : Statement (.zfillTriu o) :=
  of_packR (opc := 0x44) (fn := 5) (o := o) Instr.zfillTriu rfl rfl rfl rfl
theorem zfillBcst (o : FormR) : Statement (.zfillBcst o) :=
  of_packR (opc := 0x44) (fn := 6) (o := o) Instr.zfillBcst rfl rfl rfl rfl
theorem zwld (o : FormR) : Statement (.zwld o) :=
  of_packR (opc := 0x45) (fn := 0) (o := o) Instr.zwld rfl rfl rfl rfl
theorem mmaD (o : FormR) : Statement (.mmaD o) :=
  of_packR (opc := 0x46) (fn := 0) (o := o) Instr.mmaD rfl rfl rfl rfl
theorem mmaR (o : FormR) : Statement (.mmaR o) :=
  of_packR (opc := 0x46) (fn := 1) (o := o) Instr.mmaR rfl rfl rfl rfl
theorem mmaDt (o : FormR) : Statement (.mmaDt o) :=
  of_packR (opc := 0x46) (fn := 2) (o := o) Instr.mmaDt rfl rfl rfl rfl
theorem mmaRt (o : FormR) : Statement (.mmaRt o) :=
  of_packR (opc := 0x46) (fn := 3) (o := o) Instr.mmaRt rfl rfl rfl rfl
theorem ztrn (o : FormR) : Statement (.ztrn o) :=
  of_packR (opc := 0x47) (fn := 0) (o := o) Instr.ztrn rfl rfl rfl rfl
theorem zaddAdd (o : FormR) : Statement (.zaddAdd o) :=
  of_packR (opc := 0x48) (fn := 0) (o := o) Instr.zaddAdd rfl rfl rfl rfl
theorem zaddScl (o : FormR) : Statement (.zaddScl o) :=
  of_packR (opc := 0x48) (fn := 1) (o := o) Instr.zaddScl rfl rfl rfl rfl
theorem zcvt (o : FormR) : Statement (.zcvt o) :=
  of_packR (opc := 0x49) (fn := 0) (o := o) Instr.zcvt rfl rfl rfl rfl
theorem zarm (o : FormR) : Statement (.zarm o) :=
  of_packR (opc := 0x4A) (fn := 0) (o := o) Instr.zarm rfl rfl rfl rfl
theorem zsplit (o : FormR) : Statement (.zsplit o) :=
  of_packR (opc := 0x4B) (fn := 0) (o := o) Instr.zsplit rfl rfl rfl rfl
theorem zstat (o : FormR) : Statement (.zstat o) :=
  of_packR (opc := 0x4C) (fn := 0) (o := o) Instr.zstat rfl rfl rfl rfl
theorem zwait (o : FormR) : Statement (.zwait o) :=
  of_packR (opc := 0x4D) (fn := 0) (o := o) Instr.zwait rfl rfl rfl rfl
theorem zmovTov (o : FormR) : Statement (.zmovTov o) :=
  of_packR (opc := 0x4E) (fn := 0) (o := o) Instr.zmovTov rfl rfl rfl rfl
theorem zmovFrv (o : FormR) : Statement (.zmovFrv o) :=
  of_packR (opc := 0x4E) (fn := 1) (o := o) Instr.zmovFrv rfl rfl rfl rfl
theorem shbind (o : FormR) : Statement (.shbind o) :=
  of_packR (opc := 0x50) (fn := 0) (o := o) Instr.shbind rfl rfl rfl rfl
theorem shset (o : FormR) : Statement (.shset o) :=
  of_packR (opc := 0x51) (fn := 0) (o := o) Instr.shset rfl rfl rfl rfl
theorem shget (o : FormR) : Statement (.shget o) :=
  of_packR (opc := 0x52) (fn := 0) (o := o) Instr.shget rfl rfl rfl rfl
theorem shinv (o : FormR) : Statement (.shinv o) :=
  of_packR (opc := 0x53) (fn := 0) (o := o) Instr.shinv rfl rfl rfl rfl
theorem shseg (o : FormR) : Statement (.shseg o) :=
  of_packR (opc := 0x54) (fn := 0) (o := o) Instr.shseg rfl rfl rfl rfl
theorem shrow (o : FormR) : Statement (.shrow o) :=
  of_packR (opc := 0x55) (fn := 0) (o := o) Instr.shrow rfl rfl rfl rfl
theorem ldPl (o : FormR) : Statement (.ldPl o) :=
  of_packR (opc := 0x58) (fn := 0) (o := o) Instr.ldPl rfl rfl rfl rfl
theorem ldAcq (o : FormR) : Statement (.ldAcq o) :=
  of_packR (opc := 0x58) (fn := 1) (o := o) Instr.ldAcq rfl rfl rfl rfl
theorem stPl (o : FormR) : Statement (.stPl o) :=
  of_packR (opc := 0x59) (fn := 0) (o := o) Instr.stPl rfl rfl rfl rfl
theorem stRel (o : FormR) : Statement (.stRel o) :=
  of_packR (opc := 0x59) (fn := 1) (o := o) Instr.stRel rfl rfl rfl rfl
theorem vld (o : FormR) : Statement (.vld o) :=
  of_packR (opc := 0x5A) (fn := 0) (o := o) Instr.vld rfl rfl rfl rfl
theorem vstPl (o : FormR) : Statement (.vstPl o) :=
  of_packR (opc := 0x5B) (fn := 0) (o := o) Instr.vstPl rfl rfl rfl rfl
theorem vstMsk (o : FormR) : Statement (.vstMsk o) :=
  of_packR (opc := 0x5B) (fn := 1) (o := o) Instr.vstMsk rfl rfl rfl rfl
theorem vstRel (o : FormR) : Statement (.vstRel o) :=
  of_packR (opc := 0x5B) (fn := 2) (o := o) Instr.vstRel rfl rfl rfl rfl
theorem sopen (o : FormR) : Statement (.sopen o) :=
  of_packR (opc := 0x5C) (fn := 0) (o := o) Instr.sopen rfl rfl rfl rfl
theorem sctlClose (o : FormR) : Statement (.sctlClose o) :=
  of_packR (opc := 0x5D) (fn := 0) (o := o) Instr.sctlClose rfl rfl rfl rfl
theorem sctlRewind (o : FormR) : Statement (.sctlRewind o) :=
  of_packR (opc := 0x5D) (fn := 1) (o := o) Instr.sctlRewind rfl rfl rfl rfl
theorem sctlSkip (o : FormR) : Statement (.sctlSkip o) :=
  of_packR (opc := 0x5D) (fn := 2) (o := o) Instr.sctlSkip rfl rfl rfl rfl
theorem gath (o : FormR) : Statement (.gath o) :=
  of_packR (opc := 0x5E) (fn := 0) (o := o) Instr.gath rfl rfl rfl rfl
theorem scatSt (o : FormR) : Statement (.scatSt o) :=
  of_packR (opc := 0x5F) (fn := 0) (o := o) Instr.scatSt rfl rfl rfl rfl
theorem scatAdd (o : FormR) : Statement (.scatAdd o) :=
  of_packR (opc := 0x5F) (fn := 1) (o := o) Instr.scatAdd rfl rfl rfl rfl
theorem ldr (o : FormR) : Statement (.ldr o) :=
  of_packR (opc := 0x60) (fn := 0) (o := o) Instr.ldr rfl rfl rfl rfl
theorem pref (o : FormR) : Statement (.pref o) :=
  of_packR (opc := 0x61) (fn := 0) (o := o) Instr.pref rfl rfl rfl rfl
theorem xform (o : FormR) : Statement (.xform o) :=
  of_packR (opc := 0x64) (fn := 0) (o := o) Instr.xform rfl rfl rfl rfl
theorem tillApp (o : FormR) : Statement (.tillApp o) :=
  of_packR (opc := 0x62) (fn := 0) (o := o) Instr.tillApp rfl rfl rfl rfl
theorem tillPoll (o : FormR) : Statement (.tillPoll o) :=
  of_packR (opc := 0x62) (fn := 1) (o := o) Instr.tillPoll rfl rfl rfl rfl
theorem tillWait (o : FormR) : Statement (.tillWait o) :=
  of_packR (opc := 0x62) (fn := 2) (o := o) Instr.tillWait rfl rfl rfl rfl
theorem tillAdv (o : FormR) : Statement (.tillAdv o) :=
  of_packR (opc := 0x62) (fn := 3) (o := o) Instr.tillAdv rfl rfl rfl rfl
theorem prmtGet (o : FormR) : Statement (.prmtGet o) :=
  of_packR (opc := 0x63) (fn := 0) (o := o) Instr.prmtGet rfl rfl rfl rfl
theorem prmtRet (o : FormR) : Statement (.prmtRet o) :=
  of_packR (opc := 0x63) (fn := 1) (o := o) Instr.prmtRet rfl rfl rfl rfl
theorem bankGive (o : FormR) : Statement (.bankGive o) :=
  of_packR (opc := 0x65) (fn := 0) (o := o) Instr.bankGive rfl rfl rfl rfl
theorem bankTake (o : FormR) : Statement (.bankTake o) :=
  of_packR (opc := 0x65) (fn := 1) (o := o) Instr.bankTake rfl rfl rfl rfl
theorem bankQry (o : FormR) : Statement (.bankQry o) :=
  of_packR (opc := 0x65) (fn := 2) (o := o) Instr.bankQry rfl rfl rfl rfl
theorem evPost (o : FormR) : Statement (.evPost o) :=
  of_packR (opc := 0x66) (fn := 0) (o := o) Instr.evPost rfl rfl rfl rfl
theorem evPop (o : FormR) : Statement (.evPop o) :=
  of_packR (opc := 0x66) (fn := 1) (o := o) Instr.evPop rfl rfl rfl rfl
theorem evWait (o : FormR) : Statement (.evWait o) :=
  of_packR (opc := 0x66) (fn := 2) (o := o) Instr.evWait rfl rfl rfl rfl
theorem evPeek (o : FormR) : Statement (.evPeek o) :=
  of_packR (opc := 0x66) (fn := 3) (o := o) Instr.evPeek rfl rfl rfl rfl
theorem aupdAdd (o : FormR) : Statement (.aupdAdd o) :=
  of_packR (opc := 0x68) (fn := 0) (o := o) Instr.aupdAdd rfl rfl rfl rfl
theorem aupdMin (o : FormR) : Statement (.aupdMin o) :=
  of_packR (opc := 0x68) (fn := 1) (o := o) Instr.aupdMin rfl rfl rfl rfl
theorem aupdMax (o : FormR) : Statement (.aupdMax o) :=
  of_packR (opc := 0x68) (fn := 2) (o := o) Instr.aupdMax rfl rfl rfl rfl
theorem aupdOr (o : FormR) : Statement (.aupdOr o) :=
  of_packR (opc := 0x68) (fn := 3) (o := o) Instr.aupdOr rfl rfl rfl rfl
theorem aupdAnd (o : FormR) : Statement (.aupdAnd o) :=
  of_packR (opc := 0x68) (fn := 4) (o := o) Instr.aupdAnd rfl rfl rfl rfl
theorem aupdXor (o : FormR) : Statement (.aupdXor o) :=
  of_packR (opc := 0x68) (fn := 5) (o := o) Instr.aupdXor rfl rfl rfl rfl
theorem aupdSwp (o : FormR) : Statement (.aupdSwp o) :=
  of_packR (opc := 0x68) (fn := 6) (o := o) Instr.aupdSwp rfl rfl rfl rfl
theorem afetAdd (o : FormR) : Statement (.afetAdd o) :=
  of_packR (opc := 0x69) (fn := 0) (o := o) Instr.afetAdd rfl rfl rfl rfl
theorem afetMin (o : FormR) : Statement (.afetMin o) :=
  of_packR (opc := 0x69) (fn := 1) (o := o) Instr.afetMin rfl rfl rfl rfl
theorem afetMax (o : FormR) : Statement (.afetMax o) :=
  of_packR (opc := 0x69) (fn := 2) (o := o) Instr.afetMax rfl rfl rfl rfl
theorem afetOr (o : FormR) : Statement (.afetOr o) :=
  of_packR (opc := 0x69) (fn := 3) (o := o) Instr.afetOr rfl rfl rfl rfl
theorem afetAnd (o : FormR) : Statement (.afetAnd o) :=
  of_packR (opc := 0x69) (fn := 4) (o := o) Instr.afetAnd rfl rfl rfl rfl
theorem afetXor (o : FormR) : Statement (.afetXor o) :=
  of_packR (opc := 0x69) (fn := 5) (o := o) Instr.afetXor rfl rfl rfl rfl
theorem afetSwp (o : FormR) : Statement (.afetSwp o) :=
  of_packR (opc := 0x69) (fn := 6) (o := o) Instr.afetSwp rfl rfl rfl rfl
theorem acas (o : FormR) : Statement (.acas o) :=
  of_packR (opc := 0x6A) (fn := 0) (o := o) Instr.acas rfl rfl rfl rfl
theorem atas (o : FormR) : Statement (.atas o) :=
  of_packR (opc := 0x6B) (fn := 0) (o := o) Instr.atas rfl rfl rfl rfl
theorem afadd (o : FormR) : Statement (.afadd o) :=
  of_packR (opc := 0x6C) (fn := 0) (o := o) Instr.afadd rfl rfl rfl rfl
theorem grpJoin (o : FormR) : Statement (.grpJoin o) :=
  of_packR (opc := 0x70) (fn := 0) (o := o) Instr.grpJoin rfl rfl rfl rfl
theorem grpLeave (o : FormR) : Statement (.grpLeave o) :=
  of_packR (opc := 0x70) (fn := 1) (o := o) Instr.grpLeave rfl rfl rfl rfl
theorem grpArrive (o : FormR) : Statement (.grpArrive o) :=
  of_packR (opc := 0x70) (fn := 2) (o := o) Instr.grpArrive rfl rfl rfl rfl
theorem grpWait (o : FormR) : Statement (.grpWait o) :=
  of_packR (opc := 0x70) (fn := 3) (o := o) Instr.grpWait rfl rfl rfl rfl
theorem grpBar (o : FormR) : Statement (.grpBar o) :=
  of_packR (opc := 0x70) (fn := 4) (o := o) Instr.grpBar rfl rfl rfl rfl
theorem grpQry (o : FormR) : Statement (.grpQry o) :=
  of_packR (opc := 0x70) (fn := 5) (o := o) Instr.grpQry rfl rfl rfl rfl
theorem fenceCtx (o : FormR) : Statement (.fenceCtx o) :=
  of_packR (opc := 0x71) (fn := 0) (o := o) Instr.fenceCtx rfl rfl rfl rfl
theorem fencePage (o : FormR) : Statement (.fencePage o) :=
  of_packR (opc := 0x71) (fn := 1) (o := o) Instr.fencePage rfl rfl rfl rfl
theorem fenceRgn (o : FormR) : Statement (.fenceRgn o) :=
  of_packR (opc := 0x71) (fn := 2) (o := o) Instr.fenceRgn rfl rfl rfl rfl
theorem fenceDie (o : FormR) : Statement (.fenceDie o) :=
  of_packR (opc := 0x71) (fn := 3) (o := o) Instr.fenceDie rfl rfl rfl rfl
theorem fenceDev (o : FormR) : Statement (.fenceDev o) :=
  of_packR (opc := 0x71) (fn := 4) (o := o) Instr.fenceDev rfl rfl rfl rfl
theorem fenceSys (o : FormR) : Statement (.fenceSys o) :=
  of_packR (opc := 0x71) (fn := 5) (o := o) Instr.fenceSys rfl rfl rfl rfl
theorem qfence (o : FormR) : Statement (.qfence o) :=
  of_packR (opc := 0x72) (fn := 0) (o := o) Instr.qfence rfl rfl rfl rfl
theorem tcntAdd (o : FormR) : Statement (.tcntAdd o) :=
  of_packR (opc := 0x73) (fn := 0) (o := o) Instr.tcntAdd rfl rfl rfl rfl
theorem tcntSub (o : FormR) : Statement (.tcntSub o) :=
  of_packR (opc := 0x73) (fn := 1) (o := o) Instr.tcntSub rfl rfl rfl rfl
theorem tcntRd (o : FormR) : Statement (.tcntRd o) :=
  of_packR (opc := 0x73) (fn := 2) (o := o) Instr.tcntRd rfl rfl rfl rfl
theorem tcntWz (o : FormR) : Statement (.tcntWz o) :=
  of_packR (opc := 0x73) (fn := 3) (o := o) Instr.tcntWz rfl rfl rfl rfl
theorem smIns (o : FormR) : Statement (.smIns o) :=
  of_packR (opc := 0x74) (fn := 0) (o := o) Instr.smIns rfl rfl rfl rfl
theorem smSeal (o : FormR) : Statement (.smSeal o) :=
  of_packR (opc := 0x74) (fn := 1) (o := o) Instr.smSeal rfl rfl rfl rfl
theorem smMrg (o : FormR) : Statement (.smMrg o) :=
  of_packR (opc := 0x74) (fn := 2) (o := o) Instr.smMrg rfl rfl rfl rfl
theorem smSpl (o : FormR) : Statement (.smSpl o) :=
  of_packR (opc := 0x74) (fn := 3) (o := o) Instr.smSpl rfl rfl rfl rfl
theorem smFork (o : FormR) : Statement (.smFork o) :=
  of_packR (opc := 0x74) (fn := 4) (o := o) Instr.smFork rfl rfl rfl rfl
theorem smEvct (o : FormR) : Statement (.smEvct o) :=
  of_packR (opc := 0x74) (fn := 5) (o := o) Instr.smEvct rfl rfl rfl rfl
theorem smFree (o : FormR) : Statement (.smFree o) :=
  of_packR (opc := 0x74) (fn := 6) (o := o) Instr.smFree rfl rfl rfl rfl
theorem smbnd (o : FormR) : Statement (.smbnd o) :=
  of_packR (opc := 0x75) (fn := 0) (o := o) Instr.smbnd rfl rfl rfl rfl
theorem smdsc (o : FormR) : Statement (.smdsc o) :=
  of_packR (opc := 0x76) (fn := 0) (o := o) Instr.smdsc rfl rfl rfl rfl
theorem smaccNode (o : FormR) : Statement (.smaccNode o) :=
  of_packR (opc := 0x77) (fn := 0) (o := o) Instr.smaccNode rfl rfl rfl rfl
theorem smaccLeaf (o : FormR) : Statement (.smaccLeaf o) :=
  of_packR (opc := 0x77) (fn := 1) (o := o) Instr.smaccLeaf rfl rfl rfl rfl
theorem smaccFin (o : FormR) : Statement (.smaccFin o) :=
  of_packR (opc := 0x77) (fn := 2) (o := o) Instr.smaccFin rfl rfl rfl rfl
theorem agLoad (o : FormR) : Statement (.agLoad o) :=
  of_packR (opc := 0x78) (fn := 0) (o := o) Instr.agLoad rfl rfl rfl rfl
theorem agBind (o : FormR) : Statement (.agBind o) :=
  of_packR (opc := 0x78) (fn := 1) (o := o) Instr.agBind rfl rfl rfl rfl
theorem agUnld (o : FormR) : Statement (.agUnld o) :=
  of_packR (opc := 0x78) (fn := 2) (o := o) Instr.agUnld rfl rfl rfl rfl
theorem agQry (o : FormR) : Statement (.agQry o) :=
  of_packR (opc := 0x78) (fn := 3) (o := o) Instr.agQry rfl rfl rfl rfl
theorem taskLnch (o : FormR) : Statement (.taskLnch o) :=
  of_packR (opc := 0x79) (fn := 0) (o := o) Instr.taskLnch rfl rfl rfl rfl
theorem taskSeq (o : FormR) : Statement (.taskSeq o) :=
  of_packR (opc := 0x79) (fn := 1) (o := o) Instr.taskSeq rfl rfl rfl rfl
theorem taskCncl (o : FormR) : Statement (.taskCncl o) :=
  of_packR (opc := 0x79) (fn := 2) (o := o) Instr.taskCncl rfl rfl rfl rfl
theorem taskQry (o : FormR) : Statement (.taskQry o) :=
  of_packR (opc := 0x79) (fn := 3) (o := o) Instr.taskQry rfl rfl rfl rfl
theorem taskPrio (o : FormR) : Statement (.taskPrio o) :=
  of_packR (opc := 0x79) (fn := 4) (o := o) Instr.taskPrio rfl rfl rfl rfl
theorem rangeGet (o : FormR) : Statement (.rangeGet o) :=
  of_packR (opc := 0x7A) (fn := 0) (o := o) Instr.rangeGet rfl rfl rfl rfl
theorem rangeSteal (o : FormR) : Statement (.rangeSteal o) :=
  of_packR (opc := 0x7A) (fn := 1) (o := o) Instr.rangeSteal rfl rfl rfl rfl
theorem rangeSplit (o : FormR) : Statement (.rangeSplit o) :=
  of_packR (opc := 0x7A) (fn := 2) (o := o) Instr.rangeSplit rfl rfl rfl rfl
theorem rangeDone (o : FormR) : Statement (.rangeDone o) :=
  of_packR (opc := 0x7A) (fn := 3) (o := o) Instr.rangeDone rfl rfl rfl rfl
theorem linkTurn (o : FormR) : Statement (.linkTurn o) :=
  of_packR (opc := 0x6D) (fn := 0) (o := o) Instr.linkTurn rfl rfl rfl rfl
theorem linkQry (o : FormR) : Statement (.linkQry o) :=
  of_packR (opc := 0x6D) (fn := 1) (o := o) Instr.linkQry rfl rfl rfl rfl
theorem linkHold (o : FormR) : Statement (.linkHold o) :=
  of_packR (opc := 0x6D) (fn := 2) (o := o) Instr.linkHold rfl rfl rfl rfl
theorem statEmit (o : FormR) : Statement (.statEmit o) :=
  of_packR (opc := 0x6E) (fn := 0) (o := o) Instr.statEmit rfl rfl rfl rfl
theorem statCfg (o : FormR) : Statement (.statCfg o) :=
  of_packR (opc := 0x6E) (fn := 1) (o := o) Instr.statCfg rfl rfl rfl rfl
theorem statRd (o : FormR) : Statement (.statRd o) :=
  of_packR (opc := 0x6E) (fn := 2) (o := o) Instr.statRd rfl rfl rfl rfl
theorem rgnPreempt (o : FormR) : Statement (.rgnPreempt o) :=
  of_packR (opc := 0x6F) (fn := 0) (o := o) Instr.rgnPreempt rfl rfl rfl rfl
theorem rgnResume (o : FormR) : Statement (.rgnResume o) :=
  of_packR (opc := 0x6F) (fn := 1) (o := o) Instr.rgnResume rfl rfl rfl rfl
theorem rgnRollback (o : FormR) : Statement (.rgnRollback o) :=
  of_packR (opc := 0x6F) (fn := 2) (o := o) Instr.rgnRollback rfl rfl rfl rfl
theorem rgnQuiesce (o : FormR) : Statement (.rgnQuiesce o) :=
  of_packR (opc := 0x6F) (fn := 3) (o := o) Instr.rgnQuiesce rfl rfl rfl rfl
theorem rgnAsid (o : FormR) : Statement (.rgnAsid o) :=
  of_packR (opc := 0x6F) (fn := 4) (o := o) Instr.rgnAsid rfl rfl rfl rfl
theorem cpyCpy (o : FormR) : Statement (.cpyCpy o) :=
  of_packR (opc := 0x7B) (fn := 0) (o := o) Instr.cpyCpy rfl rfl rfl rfl
theorem cpyXf (o : FormR) : Statement (.cpyXf o) :=
  of_packR (opc := 0x7B) (fn := 1) (o := o) Instr.cpyXf rfl rfl rfl rfl
theorem cpyFill (o : FormR) : Statement (.cpyFill o) :=
  of_packR (opc := 0x7B) (fn := 2) (o := o) Instr.cpyFill rfl rfl rfl rfl
theorem cpyStat (o : FormR) : Statement (.cpyStat o) :=
  of_packR (opc := 0x7B) (fn := 3) (o := o) Instr.cpyStat rfl rfl rfl rfl
theorem nmcIssue (o : FormR) : Statement (.nmcIssue o) :=
  of_packR (opc := 0x7C) (fn := 0) (o := o) Instr.nmcIssue rfl rfl rfl rfl
theorem nmcFence (o : FormR) : Statement (.nmcFence o) :=
  of_packR (opc := 0x7C) (fn := 1) (o := o) Instr.nmcFence rfl rfl rfl rfl
theorem nmcStat (o : FormR) : Statement (.nmcStat o) :=
  of_packR (opc := 0x7C) (fn := 2) (o := o) Instr.nmcStat rfl rfl rfl rfl
theorem brBr (o : FormI) : Statement (.brBr o) :=
  of_packI (opc := 0x7D) (fn := 0) (o := o) Instr.brBr rfl rfl rfl rfl
theorem brCall (o : FormI) : Statement (.brCall o) :=
  of_packI (opc := 0x7D) (fn := 1) (o := o) Instr.brCall rfl rfl rfl rfl
theorem jrJr (o : FormR) : Statement (.jrJr o) :=
  of_packR (opc := 0x7E) (fn := 0) (o := o) Instr.jrJr rfl rfl rfl rfl
theorem jrRet (o : FormR) : Statement (.jrRet o) :=
  of_packR (opc := 0x7E) (fn := 1) (o := o) Instr.jrRet rfl rfl rfl rfl
theorem jrHalt (o : FormR) : Statement (.jrHalt o) :=
  of_packR (opc := 0x7E) (fn := 2) (o := o) Instr.jrHalt rfl rfl rfl rfl
theorem sysTrap (o : FormR) : Statement (.sysTrap o) :=
  of_packR (opc := 0x7F) (fn := 0) (o := o) Instr.sysTrap rfl rfl rfl rfl
theorem sysEret (o : FormR) : Statement (.sysEret o) :=
  of_packR (opc := 0x7F) (fn := 1) (o := o) Instr.sysEret rfl rfl rfl rfl
theorem sysCsrr (o : FormR) : Statement (.sysCsrr o) :=
  of_packR (opc := 0x7F) (fn := 2) (o := o) Instr.sysCsrr rfl rfl rfl rfl
theorem sysCsrw (o : FormR) : Statement (.sysCsrw o) :=
  of_packR (opc := 0x7F) (fn := 3) (o := o) Instr.sysCsrw rfl rfl rfl rfl
theorem sysMbx (o : FormR) : Statement (.sysMbx o) :=
  of_packR (opc := 0x7F) (fn := 4) (o := o) Instr.sysMbx rfl rfl rfl rfl
theorem sysPgsv (o : FormR) : Statement (.sysPgsv o) :=
  of_packR (opc := 0x7F) (fn := 5) (o := o) Instr.sysPgsv rfl rfl rfl rfl
theorem sysPgrs (o : FormR) : Statement (.sysPgrs o) :=
  of_packR (opc := 0x7F) (fn := 6) (o := o) Instr.sysPgrs rfl rfl rfl rfl
theorem sysTlbi (o : FormR) : Statement (.sysTlbi o) :=
  of_packR (opc := 0x7F) (fn := 7) (o := o) Instr.sysTlbi rfl rfl rfl rfl

end Sys2Proof.Laws.Codec
end

