-- ==== Sys2Proof/Laws/Perform.lean ====
section
/-!
SUPPORT. An outstanding word goes on: which step its opcode takes, and what the shared operations of the job words come to.
-/

namespace Sys2Proof.Machine

/-- The word of an instruction whose encoding is known. -/
theorem word_eq {i : Instr} {opc : BitVec 7} {fn : BitVec 3} {o : FormR} {x : Word} (h : encode i = some x)
    (he : encode i = some (packR opc fn o)) : x = packR opc fn o := by
  rw [he] at h; exact (Option.some.inj h).symm

theorem tyOf_packR (opc : BitVec 7) (fn : BitVec 3) (o : FormR) : tyOf (packR opc fn o) = o.ty.toNat := by
  simp [tyOf, field_packR_ty]

/-- A word that may go on takes the step of its opcode. -/
theorem performed_ok {s t : State} {i : Instr} {f : Flight} (h : s.Performing i f) (hs : s.performStep f = t) :
    exec (.instructionPerformed f.fid) s = .next t := by
  obtain ⟨h1, h2, _⟩ := h
  change execInstructionPerformed f.fid s = _
  simp only [execInstructionPerformed, h1, h2, hs]; rfl

/-! ## The step of each opcode -/

section
variable {s : State} {f : Flight}

theorem step_mem58 (h : opcOf f.word = 0x58) : s.performStep f = s.memStep f := by rw [State.performStep, h]; rfl
theorem step_mem59 (h : opcOf f.word = 0x59) : s.performStep f = s.memStep f := by rw [State.performStep, h]; rfl
theorem step_mem5A (h : opcOf f.word = 0x5A) : s.performStep f = s.memStep f := by rw [State.performStep, h]; rfl
theorem step_mem5B (h : opcOf f.word = 0x5B) : s.performStep f = s.memStep f := by rw [State.performStep, h]; rfl
theorem step_mem5E (h : opcOf f.word = 0x5E) : s.performStep f = s.memStep f := by rw [State.performStep, h]; rfl
theorem step_atom68 (h : opcOf f.word = 0x68) : s.performStep f = s.atomStep f := by rw [State.performStep, h]; rfl
theorem step_atom69 (h : opcOf f.word = 0x69) : s.performStep f = s.atomStep f := by rw [State.performStep, h]; rfl
theorem step_atom6A (h : opcOf f.word = 0x6A) : s.performStep f = s.atomStep f := by rw [State.performStep, h]; rfl
theorem step_atom6B (h : opcOf f.word = 0x6B) : s.performStep f = s.atomStep f := by rw [State.performStep, h]; rfl
theorem step_atom6C (h : opcOf f.word = 0x6C) : s.performStep f = s.atomStep f := by rw [State.performStep, h]; rfl
theorem step_shape50 (h : opcOf f.word = 0x50) : s.performStep f = s.shapeStep f := by rw [State.performStep, h]; rfl
theorem step_shape51 (h : opcOf f.word = 0x51) : s.performStep f = s.shapeStep f := by rw [State.performStep, h]; rfl
theorem step_shape53 (h : opcOf f.word = 0x53) : s.performStep f = s.shapeStep f := by rw [State.performStep, h]; rfl
theorem step_sopen (h : opcOf f.word = 0x5C) : s.performStep f = s.sopenStep f := by rw [State.performStep, h]; rfl
theorem step_sctl (h : opcOf f.word = 0x5D) : s.performStep f = s.sctlStep f := by rw [State.performStep, h]; rfl
theorem step_ldr (h : opcOf f.word = 0x60) : s.performStep f = s.ldrStep f := by rw [State.performStep, h]; rfl
theorem step_pref (h : opcOf f.word = 0x61) : s.performStep f = s.prefStep f := by rw [State.performStep, h]; rfl
theorem step_xform (h : opcOf f.word = 0x64) : s.performStep f = s.xformStep f := by rw [State.performStep, h]; rfl
theorem step_bank (h : opcOf f.word = 0x65) : s.performStep f = s.bankStep f := by rw [State.performStep, h]; rfl
theorem step_ev (h : opcOf f.word = 0x66) : s.performStep f = s.evStep f := by rw [State.performStep, h]; rfl
theorem step_link (h : opcOf f.word = 0x6D) : s.performStep f = s.linkStep f := by rw [State.performStep, h]; rfl
theorem step_cfg (h : opcOf f.word = 0x6E) : s.performStep f = s.cfgStep f := by rw [State.performStep, h]; rfl
theorem step_rgn (h : opcOf f.word = 0x6F) : s.performStep f = s.rgnStep f := by rw [State.performStep, h]; rfl
theorem step_grp (h : opcOf f.word = 0x70) : s.performStep f = s.grpStep f := by rw [State.performStep, h]; rfl
theorem step_fence (h : opcOf f.word = 0x71) : s.performStep f = s.fenceStep f := by rw [State.performStep, h]; rfl
theorem step_qfence (h : opcOf f.word = 0x72) : s.performStep f = s.qfenceStep f := by rw [State.performStep, h]; rfl
theorem step_tcnt (h : opcOf f.word = 0x73) : s.performStep f = s.tcntStep f := by rw [State.performStep, h]; rfl
theorem step_ag (h : opcOf f.word = 0x78) : s.performStep f = s.agStep f := by rw [State.performStep, h]; rfl
theorem step_task (h : opcOf f.word = 0x79) : s.performStep f = s.taskStep f := by rw [State.performStep, h]; rfl
theorem step_range (h : opcOf f.word = 0x7A) : s.performStep f = s.rangeStep f := by rw [State.performStep, h]; rfl
theorem step_eng7B (h : opcOf f.word = 0x7B) : s.performStep f = s.engStep f := by rw [State.performStep, h]; rfl
theorem step_eng7C (h : opcOf f.word = 0x7C) : s.performStep f = s.engStep f := by rw [State.performStep, h]; rfl
theorem step_sys (h : opcOf f.word = 0x7F) : s.performStep f = s.sysStep f := by rw [State.performStep, h]; rfl

theorem step_scat (h : opcOf f.word = 0x5F) : s.performStep f = if fnOf f.word = 1 then s.atomStep f else s.memStep f := by
  rw [State.performStep, h]; rfl
theorem step_till (h : opcOf f.word = 0x62) :
    s.performStep f = if fnOf f.word = 0 then s.atomStep f else s.tillStep f := by
  rw [State.performStep, h]; rfl
theorem step_prmt (h : opcOf f.word = 0x63) : s.performStep f = s.prmtStep f := by
  rw [State.performStep, h]; rfl

end

/-! ## The shared firings -/

section
variable {s : State} {i : Instr} {w : Who} {x : Word} {o : FormR}

/-- A word that asks its unit in the next fc. -/
theorem soonR_ok (dest : Bool) (h : Fires s i o.g w x) :
    let j := jobHolds (s.jobOf w x) (if dest then o.d.toNat else 26) (s.fc + 1)
    soonR o dest s = .next (jobPost j (s.handed w o.g j)) := by
  unfold soonR; exact fireJob_ok h rfl

end

end Sys2Proof.Machine
end

