-- ==== Sys2Proof/Laws/Vector.lean ====
section
/-!
SUPPORT. Lanes: what a packed vector holds, and what the shared lane-wise forms do when they fire.
-/

set_option Elab.async false

namespace Sys2Proof.Machine

theorem tyWidth_pos (ty : Nat) : 0 < tyWidth ty := by
  rcases Nat.lt_or_ge ty 16 with h | h
  · have : ∀ t, t < 16 → 0 < tyWidth t := by decide
    exact this ty h
  · have e : tyWidth ty = 64 := by
      unfold tyWidth; rw [List.getD_eq_getElem?_getD, List.getElem?_eq_none (by simpa using h)]; rfl
    omega

theorem packNat_lane (w : Nat) (xs : List Nat) (j : Nat) :
    packNat w xs / 2 ^ (w * j) % 2 ^ w = xs.getD j 0 % 2 ^ w := by
  have hp : 0 < 2 ^ w := Nat.pow_pos (by decide)
  induction xs generalizing j with
  | nil => simp [packNat]
  | cons x l ih =>
    cases j with
    | zero => simp [packNat, Nat.add_mul_mod_self_left]
    | succ j =>
      simp only [packNat, List.getD_cons_succ]
      rw [← ih j, Nat.mul_succ, Nat.add_comm (w * j) w, Nat.pow_add, ← Nat.div_div_eq_div_mul,
        Nat.add_mul_div_left _ _ hp, Nat.div_eq_of_lt (Nat.mod_lt _ hp), Nat.zero_add]

theorem mod_pow_field (x n k w : Nat) (h : k + w ≤ n) : x % 2 ^ n / 2 ^ k % 2 ^ w = x / 2 ^ k % 2 ^ w := by
  obtain ⟨r, rfl⟩ : ∃ r, n = k + (w + r) := ⟨n - (k + w), by omega⟩
  rw [Nat.pow_add, Nat.mod_mul_right_div_self, Nat.pow_add, Nat.mod_mul_right_mod]

set_option exponentiation.threshold 600 in
/-- Lane j of a vector packed from lanes (R136). -/
theorem lane_packLanes {w : Nat} (xs : List Nat) {j : Nat} (hj : j < 512 / w) :
    lane w (packLanes w xs) j = xs.getD j 0 % 2 ^ w := by
  have hle : w * j + w ≤ 512 := by
    have := Nat.mul_div_le 512 w
    have h2 : w * (j + 1) ≤ w * (512 / w) := Nat.mul_le_mul_left w hj
    rw [Nat.mul_succ] at h2; omega
  unfold lane packLanes
  rw [BitVec.toNat_ofNat, mod_pow_field _ _ _ _ hle, packNat_lane]

theorem getD_tab {α : Type} (n : Nat) (f : Nat → α) (j : Nat) (d : α) : (tab n f).getD j d = if j < n then f j else d := by
  unfold tab
  by_cases h : j < n
  · simp [h, List.getD]
  · rw [if_neg h, List.getD_eq_getElem?_getD, List.getElem?_eq_none (by simpa using h)]; rfl

/-- A timed word that packs `n` lanes leaves them in D. -/
theorem lanesDone_fired {s : State} {w : Who} {x : Word} {o : FormR} {W lw n a b : Nat} (r : Nat → LaneRes) :
    s.LanesFired w x o W lw n a b r (s.fired w x o.g (lanesDone s.taken w o.d.toNat a b lw W (tab n r))) := by
  refine ⟨packLanes lw (tab n fun j => (r j).pat), fun j hj => ?_, ?_⟩
  · rw [lane_packLanes _ hj, getD_tab]; split <;> simp
  · unfold lanesDone tab; simp only [List.map_map, List.any_map]; rfl

/-- A lane-wise word of two sources. -/
theorem vecR_ok {s : State} {i : Instr} {w : Who} {x : Word} {o : FormR} (f : Nat → Nat → LaneRes) (h : Fires s i o.g w x) :
    ∃ t, vecR o f s = .next t ∧ s.LanesFired w x o (laneW o.ty.toNat) (tyWidth o.ty.toNat) (512 / tyWidth o.ty.toNat)
      o.a.toNat o.b.toNat (fun j => f (s.laneAt w o.ty o.a j) (s.laneAt w o.ty o.b j)) t :=
  ⟨_, fireTimed_ok h rfl, lanesDone_fired _⟩

/-- A lane-wise word that also reads D. -/
theorem vecR3_ok {s : State} {i : Instr} {w : Who} {x : Word} {o : FormR} (W : Nat) (f : Nat → Nat → Nat → LaneRes)
    (h : Fires s i o.g w x) :
    ∃ t, vecR3 o W f s = .next t ∧ s.LanesFired w x o W (tyWidth o.ty.toNat) (512 / tyWidth o.ty.toNat) o.a.toNat o.b.toNat
      (fun j => f (s.laneAt w o.ty o.d j) (s.laneAt w o.ty o.a j) (s.laneAt w o.ty o.b j)) t :=
  ⟨_, fireTimed_ok h rfl, lanesDone_fired _⟩

/-- The lanes of a word depend on what it holds in each lane only. -/
theorem LanesFired_congr {s t : State} {w : Who} {x : Word} {o : FormR} {W lw n a b : Nat} {r r' : Nat → LaneRes}
    (h : s.LanesFired w x o W lw n a b r t) (e : ∀ j, r j = r' j) : s.LanesFired w x o W lw n a b r' t := by
  have : r = r' := funext e
  exact this ▸ h

/-- The lanes of a vector as a list. -/
theorem lanesOf_getD (w : Nat) (v : Vec) (j d : Nat) : (lanesOf w v).getD j d = if j < 512 / w then lane w v j else d :=
  getD_tab _ _ _ _

end Sys2Proof.Machine
end

