-- ==== Sys2Proof/Tests/Slice0.lean ====
section
/-!
SUPPORT. Tests of the model, and for each statement states and operands that meet its hypotheses. Expected results are those the
spec gives (R134, R165, R206), or follow from its rules by hand; words are written from the encodings of R28-R30.
-/

set_option Elab.async false
set_option linter.unusedSimpArgs false

open Sys2Proof Sys2Proof.Machine

namespace Sys2Proof.Tests

/-- The guard that names nothing. -/
def g0 : Guard := ⟨0, 0, 0, 0, 0, 0, 0, 0⟩

/-- A Form R operand list without guard: D, A, B, PD, PU, TY. -/
def ops (d a b : BitVec 5) (pd : BitVec 3) (pu : BitVec 2) (ty : BitVec 4) : FormR := ⟨g0, d, a, b, pd, pu, ty⟩

/-! ## Words in a teller and in an element -/

/-- A teller context that is to fire a word, with its address registers. -/
def telS (x : Word) (a : List Word) : State :=
  { State.reset with
    issue := some (.tel 0 0 0, x)
    tellers := State.reset.tellers.modify 0 fun t => { t with ctxs := t.ctxs.modify 0 fun c =>
      { c with a := a ++ List.replicate (14 - a.length) 0, ptn := some 0, tvec := 0x1000 } } }

/-- An element context of an armed region that is to fire a word, with its registers. -/
def elS (x : Word) (a : List Word) (v : List Vec) : State :=
  let s := { State.reset with regions := [(0, Region.placed)], pages := [(0, Page.holding x)], issue := some (.elem 0 0 0 0, x) }
  s.modCtx 0 0 0 fun c => { c with a := a ++ List.replicate (8 - a.length) 0, v := v ++ List.replicate (4 - v.length) 0 }

/-- What a word writes when an element fires it, and the event counts after it. -/
noncomputable def shot (x : Word) (a : List Word) (v : List Vec) : Option (Writes × List Nat) :=
  match decode x with
  | .error _ => none
  | .ok i => match exec i (elS x a v) with
    | .next t => (t.flights.getLast?).bind fun f => (t.pe? 0 0).map fun e => (f.wr, e.live.cnts)
    | _ => none

/-- A scalar result in `a0`, its flag in `p0`, and the event counts. -/
noncomputable def scal (opc : BitVec 7) (fn : BitVec 3) (ty : BitVec 4) (a b : Int) : Option (Int × Bool × List Nat) :=
  (shot (packR opc fn (ops 0 1 2 0 3 ty)) [0, BitVec.ofInt 64 a, BitVec.ofInt 64 b] []).bind fun r =>
    match r.1.a, r.1.p with
    | [(0, y)], [(0, f)] => some (y.toInt, f, r.2)
    | _, _ => none

/-! The results of R134: `D written`, flag, events (1 divide-by-zero is class 2, saturation class 5). -/
theorem test_add_ss_clamps : scal 0x01 1 1 32000 1000 = some (32767, true, [0, 0, 0, 0, 1]) := by decide +kernel
theorem test_add_w_wraps : scal 0x01 0 1 32000 1000 = some (-32536, true, [0, 0, 0, 0, 0]) := by decide +kernel
theorem test_add_sn_clamps : scal 0x01 2 5 40000 30000 = some (65535, true, [0, 0, 0, 0, 1]) := by decide +kernel
theorem test_mul_lo : scal 0x04 0 1 (-300) 200 = some (5536, true, [0, 0, 0, 0, 0]) := by decide +kernel
theorem test_mul_hs : scal 0x04 1 1 (-300) 200 = some (-1, false, [0, 0, 0, 0, 0]) := by decide +kernel
theorem test_div_truncates : scal 0x06 0 1 (-7) 2 = some (-3, false, [0, 0, 0, 0, 0]) := by decide +kernel
theorem test_div_remainder : scal 0x06 2 1 (-7) 2 = some (-1, false, [0, 0, 0, 0, 0]) := by decide +kernel
theorem test_div_min_by_minus_one : scal 0x06 0 1 (-32768) (-1) = some (-32768, true, [0, 0, 0, 0, 0]) := by decide +kernel
theorem test_div_by_zero : (scal 0x06 1 5 5 0).map (fun r => (r.1, r.2.1, r.2.2.foldl (· + ·) 0)) = some (65535, true, 1) := by decide +kernel
theorem test_shf_sar : scal 0x08 2 1 (-5) 1 = some (-3, true, [0, 0, 0, 0, 0]) := by decide +kernel
theorem test_bit_clz : scal 0x0B 1 5 0x0100 0 = some (7, false, [0, 0, 0, 0, 0]) := by decide +kernel
theorem test_bit_bext : scal 0x0B 4 1 0x00F0 0x0404 = some (-1, false, [0, 0, 0, 0, 0]) := by decide +kernel

/-- A vector result in `v2` from `v0`, `v1` and the old `v2`: the first lanes, the flag, the counts. -/
noncomputable def vect (opc : BitVec 7) (fn : BitVec 3) (ty : BitVec 4) (b : BitVec 5) (w n : Nat) (x y d : List Nat) (k : Word) :
    Option (List Nat × Bool × List Nat) :=
  (shot (packR opc fn (ops 10 8 b 0 3 ty)) [0, k] [packLanes 32 x, packLanes 32 y, packLanes 32 d]).bind fun r =>
    match r.1.v, r.1.p with
    | [(2, v)], [(0, f)] => some (tab n fun j => lane w v j, f, r.2)
    | _, _ => none

/-! The results of R165. -/
theorem test_vadd_ties_to_even : (vect 0x20 0 8 9 16 1 [0x3F80] [0x3B80] [] 0).map (·.1) = some [0x3F80] := by decide +kernel
theorem test_vfma_once : (vect 0x23 0 10 9 32 1 [0x3F800800] [0x3F800800] [0xBF801000] 0).map (·.1) = some [0x33800000] := by decide +kernel
theorem test_vred_tree :
    ((shot (packR 0x2C 0 (ops 0 8 0 0 0 10)) [] [packLanes 32 [0x4CBEBC20, 0x3F800000, 0xCCBEBC20, 0x3F800000]]).map
      fun r => r.1.a) = some [(0, 0)] := by decide +kernel
theorem test_vcvt_rne : (vect 0x29 0 0 10 8 3 [0x40200000, 0xC0200000, 0x43960000] [] [] 0) =
    some ([2, 254, 127], true, [0, 0, 0, 0, 1]) := by decide +kernel
theorem test_vcvt_rna : (vect 0x29 4 0 10 8 1 [0x40200000] [] [] 0) = some ([3], false, [0, 0, 0, 0, 0]) := by decide +kernel
theorem test_vqnt : (vect 0x33 0 0 1 8 2 [0x40A00000, 0x43C80000] [] [] 0x3F000000) =
    some ([2, 127], true, [0, 0, 0, 0, 1]) := by decide +kernel
theorem test_vdiv_rsq : (vect 0x24 2 10 0 32 1 [0x40800000] [] [] 0).map (·.1) = some [0x3F000000] := by decide +kernel
theorem test_vtrn_sigm : (vect 0x2A 5 10 0 32 1 [] [] [] 0).map (·.1) = some [0x3F000000] := by decide +kernel
theorem test_vscan_isum : (vect 0x2E 0 2 9 32 4 [1, 2, 3, 4] [4] [] 0).map (·.1) = some [1, 3, 3, 7] := by decide +kernel

/-! ## Every word of the opcode map, written from R28-R30: D = 3, A = 5, B = 6 (Form R) or IMM14 = 0xC00 (Form I) -/

/-- Each word decodes to its instruction and is the word the instruction encodes to. -/
noncomputable def decodesTo (l : List (Word × Instr)) : Bool :=
  l.all fun e => decide (decode e.1 = .ok e.2) && decide (encode e.2 = some e.1)
def r356 : FormR := ⟨g0, 3, 5, 6, 0, 0, 0⟩
def i356 : FormI := ⟨g0, 3, 5, 0xC00⟩

noncomputable def words_scalar : List (Word × Instr) := [
    (0x194C00, .nop r356), (0x8194C00, .addW r356), (0x9194C00, .addSs r356), (0xA194C00, .addSn r356),
    (0x10194C00, .subW r356), (0x11194C00, .subSs r356), (0x12194C00, .subSn r356), (0x18194C00, .addi i356),
    (0x20194C00, .mulLo r356), (0x21194C00, .mulHs r356), (0x22194C00, .mulHn r356), (0x28194C00, .macW r356),
    (0x29194C00, .macSs r356), (0x30194C00, .divQs r356), (0x31194C00, .divQn r356), (0x32194C00, .divMs r356),
    (0x33194C00, .divMn r356), (0x38194C00, .logAnd r356), (0x39194C00, .logOr r356), (0x3A194C00, .logXor r356),
    (0x3B194C00, .logAndn r356), (0x3C194C00, .logOrn r356), (0x3D194C00, .logXnor r356), (0x40194C00, .shfShl r356),
    (0x41194C00, .shfShr r356), (0x42194C00, .shfSar r356), (0x43194C00, .shfRol r356), (0x48194C00, .shfiShl i356),
    (0x49194C00, .shfiShr i356), (0x4A194C00, .shfiSar i356), (0x4B194C00, .shfiRol i356), (0x50194C00, .mmxMins r356),
    (0x51194C00, .mmxMaxs r356), (0x52194C00, .mmxMinn r356), (0x53194C00, .mmxMaxn r356), (0x58194C00, .bitPopc r356),
    (0x59194C00, .bitClz r356), (0x5A194C00, .bitCtz r356), (0x5B194C00, .bitBrev r356), (0x5C194C00, .bitBext r356),
    (0x5D194C00, .bitBins r356), (0x60194C00, .movMov r356), (0x61194C00, .movMovk r356), (0x62194C00, .movSel r356),
    (0x63194C00, .movAbs r356), (0x64194C00, .movNeg r356), (0x65194C00, .movSext r356), (0x66194C00, .movZext r356)]
theorem test_decode_scalar : decodesTo words_scalar = true := by decide +kernel

noncomputable def words_scalar_1 : List (Word × Instr) := [
    (0x68194C00, .li i356), (0x70194C00, .lis 0 i356), (0x71194C00, .lis 1 i356), (0x72194C00, .lis 2 i356),
    (0x73194C00, .lis 3 i356), (0x74194C00, .lis 4 i356), (0x78194C00, .addr 0 r356), (0x79194C00, .addr 1 r356),
    (0x7A194C00, .addr 2 r356), (0x7B194C00, .addr 3 r356)]
theorem test_decode_scalar_1 : decodesTo words_scalar_1 = true := by decide +kernel

noncomputable def words_control : List (Word × Instr) := [
    (0x80194C00, .cmpEq r356), (0x81194C00, .cmpNe r356), (0x82194C00, .cmpLt r356), (0x83194C00, .cmpLe r356),
    (0x84194C00, .cmpLtn r356), (0x85194C00, .cmpLen r356), (0x86194C00, .cmpTst r356), (0x88194C00, .cmpiEq i356),
    (0x89194C00, .cmpiNe i356), (0x8A194C00, .cmpiLt i356), (0x8B194C00, .cmpiLe i356), (0x8C194C00, .cmpiLtn i356),
    (0x8D194C00, .cmpiLen i356), (0x8E194C00, .cmpiTst i356), (0x90194C00, .fcmpEq r356), (0x91194C00, .fcmpNe r356),
    (0x92194C00, .fcmpLt r356), (0x93194C00, .fcmpLe r356), (0x94194C00, .fcmpUn r356), (0x95194C00, .fcmpOr r356),
    (0x98194C00, .psetSet r356), (0x99194C00, .psetClr r356), (0x9A194C00, .psetCpy r356), (0x9B194C00, .psetNot r356),
    (0x9C194C00, .psetSig r356), (0xA0194C00, .plogAnd r356), (0xA1194C00, .plogOr r356), (0xA2194C00, .plogXor r356),
    (0xA3194C00, .plogAndn r356), (0xA8194C00, .pmovToa r356), (0xA9194C00, .pmovFra r356), (0xC0194C00, .sendD r356),
    (0xC1194C00, .sendEor r356), (0xC2194C00, .sendEot r356), (0xC3194C00, .sendEos r356), (0xC4194C00, .sendLvl r356),
    (0xC5194C00, .sendCtl r356), (0xC8194C00, .fwd r356), (0xD0194C00, .repl r356), (0xD8194C00, .tagr r356),
    (0xE0194C00, .mrgArr r356), (0xE1194C00, .mrgRot r356), (0xE8194C00, .markSnap r356), (0xF0194C00, .drain r356)]
theorem test_decode_control : decodesTo words_control = true := by decide +kernel

noncomputable def words_vector : List (Word × Instr) := [
    (0x100194C00, .vadd r356), (0x108194C00, .vsub r356), (0x110194C00, .vmul r356), (0x118194C00, .vfmaFma r356),
    (0x119194C00, .vfmaFms r356), (0x11A194C00, .vfmaFnma r356), (0x120194C00, .vdivDiv r356),
    (0x121194C00, .vdivRcp r356), (0x122194C00, .vdivRsq r356), (0x123194C00, .vdivSqrt r356),
    (0x128194C00, .vmmxMin r356), (0x129194C00, .vmmxMax r356), (0x12A194C00, .vmmxMinn r356),
    (0x12B194C00, .vmmxMaxn r356), (0x130194C00, .vsgnAbs r356), (0x131194C00, .vsgnNeg r356),
    (0x132194C00, .vsgnCsgn r356), (0x138194C00, .vcmp r356), (0x140194C00, .vsel r356), (0x148194C00, .vcvtRne r356),
    (0x149194C00, .vcvtRz r356), (0x14A194C00, .vcvtRu r356), (0x14B194C00, .vcvtRd r356), (0x14C194C00, .vcvtRna r356),
    (0x150194C00, .vtrnExp r356), (0x151194C00, .vtrnExp2 r356), (0x152194C00, .vtrnLog r356),
    (0x153194C00, .vtrnLog2 r356), (0x154194C00, .vtrnTanh r356), (0x155194C00, .vtrnSigm r356), (0x158194C00, .vdot r356),
    (0x160194C00, .vredSum r356), (0x161194C00, .vredMax r356), (0x162194C00, .vredMin r356), (0x163194C00, .vredAnd r356),
    (0x164194C00, .vredOr r356), (0x168194C00, .vaccSum r356), (0x169194C00, .vaccMax r356), (0x16A194C00, .vaccMin r356),
    (0x16B194C00, .vaccCnt r356), (0x170194C00, .vscanIsum r356), (0x171194C00, .vscanXsum r356),
    (0x172194C00, .vscanImax r356), (0x178194C00, .vprmIdx r356), (0x179194C00, .vprmRot r356),
    (0x17A194C00, .vprmBcl r356), (0x17B194C00, .vprmPair r356)]
theorem test_decode_vector : decodesTo words_vector = true := by decide +kernel

noncomputable def words_lanes : List (Word × Instr) := [
    (0x180194C00, .vlog r356), (0x188194C00, .vshf r356), (0x190194C00, .vclmp r356), (0x198194C00, .vqnt r356),
    (0x1A0194C00, .vdq r356), (0x1A8194C00, .bppk r356), (0x1B0194C00, .bpun r356), (0x1B8194C00, .vnrmStat r356),
    (0x1B9194C00, .vnrmApply r356), (0x1C0194C00, .vinsIns r356), (0x1C1194C00, .vinsExt r356), (0x1C8194C00, .viota r356),
    (0x1D0194C00, .vbmpExpd r356), (0x1D1194C00, .vbmpCnt r356), (0x1D2194C00, .vbmpSetb r356),
    (0x1D8194C00, .vmatch r356), (0x1E0194C00, .vtopk r356), (0x1E8194C00, .vrng r356), (0x1F0194C00, .vhead r356)]
theorem test_decode_lanes : decodesTo words_lanes = true := by decide +kernel

noncomputable def words_tile : List (Word × Instr) := [
    (0x200194C00, .zcfgTy r356), (0x201194C00, .zcfgRow r356), (0x202194C00, .zcfgCol r356), (0x203194C00, .zcfgAll r356),
    (0x208194C00, .zrd r356), (0x210194C00, .zld r356), (0x218194C00, .zst r356), (0x220194C00, .zfillZero r356),
    (0x221194C00, .zfillOnes r356), (0x222194C00, .zfillIden r356), (0x223194C00, .zfillTril r356),
    (0x224194C00, .zfillTrls r356), (0x225194C00, .zfillTriu r356), (0x226194C00, .zfillBcst r356),
    (0x228194C00, .zwld r356), (0x230194C00, .mmaD r356), (0x231194C00, .mmaR r356), (0x232194C00, .mmaDt r356),
    (0x233194C00, .mmaRt r356), (0x238194C00, .ztrn r356), (0x240194C00, .zaddAdd r356), (0x241194C00, .zaddScl r356),
    (0x248194C00, .zcvt r356), (0x250194C00, .zarm r356), (0x258194C00, .zsplit r356), (0x260194C00, .zstat r356),
    (0x268194C00, .zwait r356), (0x270194C00, .zmovTov r356), (0x271194C00, .zmovFrv r356)]
theorem test_decode_tile : decodesTo words_tile = true := by decide +kernel

noncomputable def words_memory : List (Word × Instr) := [
    (0x280194C00, .shbind r356), (0x288194C00, .shset r356), (0x290194C00, .shget r356), (0x298194C00, .shinv r356),
    (0x2A0194C00, .shseg r356), (0x2A8194C00, .shrow r356), (0x2C0194C00, .ldPl r356), (0x2C1194C00, .ldAcq r356),
    (0x2C8194C00, .stPl r356), (0x2C9194C00, .stRel r356), (0x2D0194C00, .vld r356), (0x2D8194C00, .vstPl r356),
    (0x2D9194C00, .vstMsk r356), (0x2DA194C00, .vstRel r356), (0x2E0194C00, .sopen r356), (0x2E8194C00, .sctlClose r356),
    (0x2E9194C00, .sctlRewind r356), (0x2EA194C00, .sctlSkip r356), (0x2F0194C00, .gath r356), (0x2F8194C00, .scatSt r356),
    (0x2F9194C00, .scatAdd r356)]
theorem test_decode_memory : decodesTo words_memory = true := by decide +kernel

noncomputable def words_atomic : List (Word × Instr) := [
    (0x300194C00, .ldr r356), (0x308194C00, .pref r356), (0x310194C00, .tillApp r356), (0x311194C00, .tillPoll r356),
    (0x312194C00, .tillWait r356), (0x313194C00, .tillAdv r356), (0x318194C00, .prmtGet r356),
    (0x319194C00, .prmtRet r356), (0x320194C00, .xform r356), (0x328194C00, .bankGive r356), (0x329194C00, .bankTake r356),
    (0x32A194C00, .bankQry r356), (0x330194C00, .evPost r356), (0x331194C00, .evPop r356), (0x332194C00, .evWait r356),
    (0x333194C00, .evPeek r356), (0x340194C00, .aupdAdd r356), (0x341194C00, .aupdMin r356), (0x342194C00, .aupdMax r356),
    (0x343194C00, .aupdOr r356), (0x344194C00, .aupdAnd r356), (0x345194C00, .aupdXor r356), (0x346194C00, .aupdSwp r356),
    (0x348194C00, .afetAdd r356), (0x349194C00, .afetMin r356), (0x34A194C00, .afetMax r356), (0x34B194C00, .afetOr r356),
    (0x34C194C00, .afetAnd r356), (0x34D194C00, .afetXor r356), (0x34E194C00, .afetSwp r356), (0x350194C00, .acas r356),
    (0x358194C00, .atas r356), (0x360194C00, .afadd r356), (0x368194C00, .linkTurn r356), (0x369194C00, .linkQry r356),
    (0x36A194C00, .linkHold r356), (0x370194C00, .statEmit r356), (0x371194C00, .statCfg r356),
    (0x372194C00, .statRd r356), (0x378194C00, .rgnPreempt r356), (0x379194C00, .rgnResume r356),
    (0x37A194C00, .rgnRollback r356), (0x37B194C00, .rgnQuiesce r356), (0x37C194C00, .rgnAsid r356)]
theorem test_decode_atomic : decodesTo words_atomic = true := by decide +kernel

noncomputable def words_system : List (Word × Instr) := [
    (0x380194C00, .grpJoin r356), (0x381194C00, .grpLeave r356), (0x382194C00, .grpArrive r356),
    (0x383194C00, .grpWait r356), (0x384194C00, .grpBar r356), (0x385194C00, .grpQry r356), (0x388194C00, .fenceCtx r356),
    (0x389194C00, .fencePage r356), (0x38A194C00, .fenceRgn r356), (0x38B194C00, .fenceDie r356),
    (0x38C194C00, .fenceDev r356), (0x38D194C00, .fenceSys r356), (0x390194C00, .qfence r356),
    (0x398194C00, .tcntAdd r356), (0x399194C00, .tcntSub r356), (0x39A194C00, .tcntRd r356), (0x39B194C00, .tcntWz r356),
    (0x3A0194C00, .smIns r356), (0x3A1194C00, .smSeal r356), (0x3A2194C00, .smMrg r356), (0x3A3194C00, .smSpl r356),
    (0x3A4194C00, .smFork r356), (0x3A5194C00, .smEvct r356), (0x3A6194C00, .smFree r356), (0x3A8194C00, .smbnd r356),
    (0x3B0194C00, .smdsc r356), (0x3B8194C00, .smaccNode r356), (0x3B9194C00, .smaccLeaf r356),
    (0x3BA194C00, .smaccFin r356), (0x3C0194C00, .agLoad r356), (0x3C1194C00, .agBind r356), (0x3C2194C00, .agUnld r356),
    (0x3C3194C00, .agQry r356), (0x3C8194C00, .taskLnch r356), (0x3C9194C00, .taskSeq r356), (0x3CA194C00, .taskCncl r356),
    (0x3CB194C00, .taskQry r356), (0x3CC194C00, .taskPrio r356), (0x3D0194C00, .rangeGet r356),
    (0x3D1194C00, .rangeSteal r356), (0x3D2194C00, .rangeSplit r356), (0x3D3194C00, .rangeDone r356),
    (0x3D8194C00, .cpyCpy r356), (0x3D9194C00, .cpyXf r356), (0x3DA194C00, .cpyFill r356), (0x3DB194C00, .cpyStat r356),
    (0x3E0194C00, .nmcIssue r356), (0x3E1194C00, .nmcFence r356)]
theorem test_decode_system : decodesTo words_system = true := by decide +kernel

noncomputable def words_system_1 : List (Word × Instr) := [
    (0x3E2194C00, .nmcStat r356), (0x3E8194C00, .brBr i356), (0x3E9194C00, .brCall i356), (0x3F0194C00, .jrJr r356),
    (0x3F1194C00, .jrRet r356), (0x3F2194C00, .jrHalt r356), (0x3F8194C00, .sysTrap r356), (0x3F9194C00, .sysEret r356),
    (0x3FA194C00, .sysCsrr r356), (0x3FB194C00, .sysCsrw r356), (0x3FC194C00, .sysMbx r356), (0x3FD194C00, .sysPgsv r356),
    (0x3FE194C00, .sysPgrs r356), (0x3FF194C00, .sysTlbi r356)]
theorem test_decode_system_1 : decodesTo words_system_1 = true := by decide +kernel

/-! ## A mapped address space -/

/-- ASID 0 and 1 of die 0 map the first GiB to HBM, readable, writable and executable, and the next 2 MiB to vault 0, owned. -/
def mapped (s : State) : State :=
  let put (m : List Host.Cell) (k v : Nat) := memWrite m k (leBytes 8 v)
  { s with
    mem := put (put (put (put s.mem 0x10000 0x20001) 0x20000 0xC3) 0x20008 0x30001) 0x30000 0x9C3
    dies := s.dies.modify 0 fun d => { d with asids := [(0, BitVec.ofNat 128 (1 + 2 ^ 64)), (1, BitVec.ofNat 128 (1 + 2 ^ 64))] } }

def res0 : PtnRes :=
  ⟨[0, 1], [0], [0], [0], 0, [0], [(0, 1)], [0, 1], 0, [0], [(0, 2, 14)], [0]⟩

/-- A partition with an RNG key, a mailbox word and a notify word. -/
def ptn0 : Ptn := { Ptn.fresh res0 with keys := [(0, List.replicate 16 0)], mbx := [1], notify := [2] }

/-- An element with operands A and B in `a1` and `a2`, its address space mapped. -/
def elM (x a b : Word) : State := { mapped (elS x [0, a, b] []) with ptns := [(0, ptn0)] }

/-- A teller with the same. -/
def telM (x a b : Word) : State := { mapped (telS x [0, a, b]) with ptns := [(0, ptn0)] }

/-- The element's word, outstanding as flight 7. -/
def flE (x a b : Word) : Flight :=
  { (elM x a b).newFlight (.elem 0 0 0 0) x with fid := 7, accepted := true }

/-- The same of a teller's word. -/
def flT (x a b : Word) : Flight :=
  { (telM x a b).newFlight (.tel 0 0 0) x with fid := 7, accepted := true }

/-- A flight whose record has been read. -/
def fed (f : Flight) (b : List Byte) : Flight := { f with plan := [⟨0, 0, none⟩], stage := 1, got := [(0, b)] }

/-- A state in which a flight is outstanding. -/
def outS (s : State) (f : Flight) : State := { s with issue := none, flights := [f] }

/-- The word of a Form R row with D = 0, A = `a1`, B = `a2`, at a TY. -/
def wd (opc : BitVec 7) (fn : BitVec 3) (ty : BitVec 4) : Word := packR opc fn (ops 0 1 2 0 0 ty)

theorem fires_tel (i : Instr) (g : Guard) (x : Word) (a : List Word) (h : encode i = some x) :
    Fires (telS x a) i g (.tel 0 0 0) x := ⟨rfl, h, rfl⟩

theorem fires_telM (i : Instr) (g : Guard) (x a b : Word) (h : encode i = some x) :
    Fires (telM x a b) i g (.tel 0 0 0) x := ⟨rfl, h, rfl⟩

theorem fires_el (i : Instr) (x a b : Word) (h : encode i = some x) : Fires (elM x a b) i g0 (.elem 0 0 0 0) x := by
  refine ⟨rfl, h, ?_⟩
  have h1 : (elM x a b).taken.headerFault (.elem 0 0 0 0) g0 x = none := by
    unfold State.headerFault; dsimp only; split
    · rfl
    · exact rfl
  simp only [State.guardFault, h1]; rfl

theorem performing_el (i : Instr) (x a b : Word) (h : encode i = some x) (hq : isQueued x = false) :
    (outS (elM x a b) (flE x a b)).Performing i (flE x a b) := by
  refine ⟨rfl, ?_, h⟩
  have : isQueued (flE x a b).word = false := hq
  simp only [State.canGoOn, this]; rfl

theorem performing_tel (i : Instr) (x a b : Word) (h : encode i = some x) (hq : isQueued x = false) :
    (outS (telM x a b) (flT x a b)).Performing i (flT x a b) := by
  refine ⟨rfl, ?_, h⟩
  have : isQueued (flT x a b).word = false := hq
  simp only [State.canGoOn, this]; rfl

/-- Every word of the tables above fires: the condition that most statements rest on is met for each. -/
theorem witness_fires (l : List (Word × Instr)) (h : decodesTo l = true) (e : Word × Instr) (he : e ∈ l) (a b : Word) :
    Fires (elM e.1 a b) e.2 g0 (.elem 0 0 0 0) e.1 ∧ Fires (telM e.1 a b) e.2 g0 (.tel 0 0 0) e.1 := by
  have := List.all_eq_true.mp h e he
  simp only [Bool.and_eq_true, decide_eq_true_eq] at this
  exact ⟨fires_el _ _ _ _ this.2, fires_telM _ _ _ _ _ this.2⟩

/-- Every word of the tables that no tile queue holds is performed. -/
theorem witness_performing (l : List (Word × Instr)) (h : decodesTo l = true) (e : Word × Instr) (he : e ∈ l) (hq : isQueued e.1 = false) (a b : Word) :
    (outS (elM e.1 a b) (flE e.1 a b)).Performing e.2 (flE e.1 a b) := by
  have := List.all_eq_true.mp h e he
  simp only [Bool.and_eq_true, decide_eq_true_eq] at this
  exact performing_el _ _ _ _ this.2 hq

/-- A table that maps the first GiB. -/
theorem walkFrom_low (m : List Host.Cell) (va : Nat) (h : va < 2 ^ 30) (h1 : memNat m 0x10000 8 = 0x20001) (h2 : memNat m 0x20000 8 = 0xC3) :
    walkFrom m 0 0 va 4 0x10000 = .ok (0xC3, 2 ^ 30) := by
  have b1 : bits va 38 39 = 0 := by simp [bits, Nat.mod_one]
  have b2 : bits va 38 30 = 0 := by unfold bits; rw [Nat.div_eq_of_lt h, Nat.zero_mod]
  have c1 : checkLeaf 0xC3 2 0 false = none := by decide +kernel
  rw [walkFrom]; simp only [Nat.add_zero, b1, b2, h1, if_true, Nat.mul_zero]
  rw [if_neg (by decide), if_neg (by decide), if_neg (by decide), show bits 0x20001 55 8 * 256 = 0x20000 from by decide +kernel, walkFrom]
  simp [b2, h2, c1, leafSize, bitAt, Nat.testBit]

theorem readRec_loads (s : State) (die asid va n : Nat) (tab : Nat → Tlb) (hp : ∀ k n, s.poisonIn k n = none)
    (hw : ∀ q ∈ State.readRec.unitsLong va n, s.walk die asid q.1 = .ok (tab q.1)) : ∃ bs, s.readRec die asid none va n = .ok (bs, s) := by
  unfold State.readRec
  generalize State.readRec.unitsLong va n = l at hw
  suffices ∀ (l : List (Nat × Nat)) (bs : List Byte), (∀ q ∈ l, s.walk die asid q.1 = .ok (tab q.1)) → ∃ bs', l.foldl (fun (acc : Except FaultInfo (List Byte × State)) (q : Nat × Nat) => match acc with
      | .error e => .error e
      | .ok (bs, s) => match s.walk die asid q.1 with
        | .error c => .error { cls := clsXlate, code := c, opnd := q.1 }
        | .ok e => match s.load none e.leaf (e.key q.1) q.2 with
          | .error _ => .error { cls := clsPoison, code := 1, opnd := q.1 }
          | .ok (b, s) => .ok (bs ++ b, s)) (.ok (bs, s)) = .ok (bs', s) from this l [] hw
  intro l
  induction l with
  | nil => exact fun bs _ => ⟨bs, rfl⟩
  | cons q l ih =>
    intro bs hq
    have h1 : s.load none (tab q.1).leaf ((tab q.1).key q.1) q.2 = .ok (memRead s.mem ((tab q.1).key q.1) q.2, s) := by
      simp [State.load, hp, State.ttLive]
    simp only [List.foldl_cons, hq q (by simp), h1]
    exact ih _ fun r hr => hq r (by simp [hr])

theorem unitsLong_lt (va n : Nat) : ∀ q ∈ State.readRec.unitsLong va n, q.1 < va + n := by
  intro q hq
  simp only [State.readRec.unitsLong, List.mem_filterMap] at hq
  obtain ⟨i, -, hi⟩ := hq
  split at hi
  · rename_i h
    obtain rfl := Option.some.inj hi
    exact lt_of_lt_of_le h (min_le_left _ _)
  · exact absurd hi (by simp)

theorem readImage_low (s : State) (h1 : memNat s.mem 0x10000 8 = 0x20001) (h2 : memNat s.mem 0x20000 8 = 0xC3) (h3 : s.poison = [])
    (h4 : ((alGet 0 (s.die 0).asids).getD 0).toNat = 1 + 2 ^ 64) (va : Nat) (h : va + 0x10000 ≤ 2 ^ 30) : ∃ img, s.readImage 0 0 va = .ok img := by
  obtain ⟨bs, hb⟩ := readRec_loads s 0 0 va 0x10000 (fun _ => ⟨0, 0, 0, 2 ^ 30, 0xC3⟩) (fun k n => by simp [State.poisonIn, h3]) fun q hq => by
    have hq' : q.1 < 2 ^ 30 := lt_of_lt_of_le (unitsLong_lt va 0x10000 q hq) h
    have r : bits (1 + 2 ^ 64) 119 112 = 0 ∧ bits (1 + 2 ^ 64) 108 104 = 0 ∧ bits (1 + 2 ^ 64) 103 56 * 256 = 0x10000 := by decide +kernel
    simp only [State.walk, h4, r, walkFrom_low s.mem q.1 hq' h1 h2]
    rw [if_neg (by omega), if_neg (by decide +kernel), if_neg (by omega)]
    simp [Nat.div_eq_of_lt hq', bits, bitAt, Nat.testBit]
    exact hq'
  exact ⟨bs, by rw [State.readImage, hb]⟩

/-! ## Ill-formed terms, one for each defect of R42 -/

theorem test_defect_reserved_opcode : defect .elem (BitVec.ofNat 64 (0x16 * 2 ^ 27)) = 1 := by decide +kernel
theorem test_defect_unassigned_fn : defect .elem (BitVec.ofNat 64 (0x01 * 2 ^ 27 + 3 * 2 ^ 24)) = 2 := by decide +kernel
theorem test_decode_rejects :
    (decode (BitVec.ofNat 64 (0x16 * 2 ^ 27))).toOption.isNone ∧ (decode (BitVec.ofNat 64 (0x01 * 2 ^ 27 + 3 * 2 ^ 24))).toOption.isNone ∧
    (decode (BitVec.ofNat 64 (0x01 * 2 ^ 27 + 2 ^ 34))).toOption.isNone := by decide +kernel
/-- The first defect of an instruction's word, 0 when it has none or no word. -/
def defectOf (ag : AgentKind) (i : Instr) : Nat := ((encode i).map (defect ag)).getD 0
theorem test_ill_formed_ty : defectOf .elem (.addW (ops 0 1 2 0 0 8)) = 3 ∧ (Instr.addW (ops 0 1 2 0 0 8)).wellFormed .elem = false := by
  decide +kernel
theorem test_ill_formed_guard :
    defectOf .elem (.addW { ops 0 1 2 0 0 1 with g := { g0 with pv := 1 } }) = 4 ∧
    (Instr.addW { ops 0 1 2 0 0 1 with g := { g0 with pv := 1 } }).wellFormed .elem = false ∧
    defectOf .elem (.addW (ops 0 1 2 1 0 1)) = 4 := by decide +kernel
theorem test_ill_formed_reserved : defectOf .elem (.addW (ops 0 31 2 0 0 1)) = 5 ∧ (Instr.addW (ops 0 31 2 0 0 1)).wellFormed .elem = false := by
  decide +kernel
theorem test_ill_formed_role : defectOf .elem (.addW (ops 12 1 2 0 0 1)) = 6 ∧ (Instr.addW (ops 12 1 2 0 0 1)).wellFormed .elem = false := by
  decide +kernel
theorem test_ill_formed_agent : defectOf .elem (.brBr ⟨g0, 0, 0, 1⟩) = 7 ∧ (Instr.brBr ⟨g0, 0, 0, 1⟩).wellFormed .elem = false ∧
    defectOf .teller (.repl (ops 16 1 0 0 0 1)) ≠ 0 := by decide +kernel
theorem test_ill_formed_privilege : defectOf .elem (.statCfg (ops 0 1 2 0 0 0)) = 8 ∧ (Instr.statCfg (ops 0 1 2 0 0 0)).wellFormed .elem = false ∧
    (Instr.statCfg (ops 0 1 2 0 0 0)).wellFormed .teller = true := by decide +kernel
theorem test_ill_formed_lis : (Instr.lis 5 ⟨g0, 0, 0, 1⟩).wellFormed .elem = false := by decide +kernel

/-! ## The first step after a word has been placed -/

/-- The first step fires a teller's `ADD.W.i64 a2, a1, a3`, and an element's `VADD.f32`. -/
theorem test_step_runs_word :
    (match step (State.reset.withFetchWord 64 (BitVec.toNat (packR 0x01 0 (ops 2 1 3 0 0 3)))) with
     | .next t => t.flights.map (fun f => (f.who, f.wr.a)) | _ => []) = [(.tel 0 0 0, [(2, 0)])] := by decide +kernel
theorem test_step_runs_element_word :
    (match step (State.reset.withFetchWord 64 (BitVec.toNat (packR 0x3E 0 (ops 10 1 0 0 0 10)))) with
     | .next t => (t.pages.map fun p => (t.ctx? p.1 0 0).map (·.withheld)) | _ => []) = [some true] := by decide +kernel

/-! ## Witnesses: states and operands that meet the hypotheses of the statements -/

/-- A route of a data network into an in port of PE0, with the tokens of its latches. -/
def route (port : Nat) (toks : List (Option Tok)) : Route :=
  ⟨port, 2, epMe 0 0, epPe 0 port, false, 0, none, 0, 0, 10, 0, toks, false, false, false, port, false, [], 0⟩

/-- The element of `elM` with routes into its ports. -/
def withRoutes (rs : List Route) (s : State) : State := s.modPage 0 fun p => { p with routes := rs }

/-- The element at `in0` and `in1` with one token each. -/
def merging (x : Word) (a b : Tok) : State := withRoutes [route 0 [some a], route 1 [some b]] (elM x 0 0)

def dataTok : Tok := ⟨0, 1⟩

theorem witness_StepRunsWord_word : ∃ (s t : State) (w : Who) (x : Word) (i : Instr), s.agenda = [.tellerIssue 0] ∧ exec (.tellerIssue 0) { s with agenda := [] } = .next t ∧
    t.issue = some (w, x) ∧ decode x = .ok i :=
  ⟨State.reset.withFetchWord 64 0, _, .tel 0 0 0, 0, .nop ⟨g0, 0, 0, 0, 0, 0, 0⟩, rfl, rfl, rfl, rfl⟩
theorem witness_StepRunsWord_bad : ∃ (s t : State) (w : Who) (x : Word), s.agenda = [.mbxerrClear 9] ∧ exec (.mbxerrClear 9) { s with agenda := [] } = .next t ∧
    t.issue = some (w, x) ∧ (decode x).toOption = none :=
  ⟨{ State.reset with agenda := [.mbxerrClear 9], issue := some (.tel 0 0 0, BitVec.ofNat 64 (0x16 * 2 ^ 27)) }, _, .tel 0 0 0,
    BitVec.ofNat 64 (0x16 * 2 ^ 27), rfl, rfl, rfl,
    by decide +kernel⟩
theorem witness_StepRunsWord_fault :
    exec (.nop ⟨g0, 0, 0, 0, 0, 0, 0⟩) { State.reset with agenda := [] } = .fault .noAgent := rfl
theorem witness_StepRunsWord_closing : ∃ s : State, s.agenda = [] ∧ s.closing ≠ [] :=
  ⟨{ State.reset with flights := [{ flE 0 0 0 with due := some 0 }] }, rfl, by decide +kernel⟩
theorem witness_StepRunsWord_begin : State.reset.agenda = [] ∧ State.reset.closing = [] := ⟨rfl, rfl⟩
theorem witness_StepKeepsMemoryCanonical : State.reset.inv ∧ ∃ t, step State.reset = .next t := ⟨rfl, _, rfl⟩
theorem witness_MemoryReadsBack : (State.reset.store 5 [1, 0, 2]).inv ∧ (State.reset.store 5 [1, 0, 2]).mem = [(5, 1), (7, 2)] := ⟨rfl, rfl⟩
theorem witness_FiringFrame : Fires (elM (wd 0x01 0 3) 1 2) (.addW (ops 0 1 2 0 0 3)) g0 (.elem 0 0 0 0) (wd 0x01 0 3) ∧
    Fires (telM (wd 0x01 0 3) 1 2) (.addW (ops 0 1 2 0 0 3)) g0 (.tel 0 0 0) (wd 0x01 0 3) := ⟨fires_el _ _ _ _ rfl, fires_telM _ _ _ _ _ rfl⟩
theorem witness_HandingFrame : Fires (elM (wd 0x58 0 3) 0 0) (.ldPl (ops 0 1 2 0 0 3)) g0 (.elem 0 0 0 0) (wd 0x58 0 3) := fires_el _ _ _ _ rfl

/-- A word that peeks at `in0`, where a header of f64 stands on a route of f32. -/
def peeks : FormR := { ops 0 1 2 0 0 3 with g := { g0 with cr := 1, pk := 1 } }
theorem witness_WordsFaultAtFiring_header :
    (withRoutes [route 0 [some (headerTok 2 false none 4 11 0 8)]] (elM (packR 0x01 0 peeks) 0 0)).taken.guardFault (.elem 0 0 0 0)
      (guardOf (packR 0x01 0 peeks)) (packR 0x01 0 peeks) = some { cls := clsFmt, code := 1, detail := 10, opnd := 11 } := by decide +kernel
theorem witness_WordsFaultAtFiring_early :
    ({ elM (wd 0x20 0 11) 0 0 with bring := ⟨true :: List.replicate 7 false, true, false, true, true⟩ }).taken.guardFault (.elem 0 0 0 0)
      g0 (wd 0x20 0 11) = some { cls := clsRange, code := 0x037 } := by decide +kernel

theorem witness_AddLogicAndMinMax_ty : encode (.addW (ops 0 1 2 0 0 8)) = some (wd 0x01 0 8) ∧ encode (.addSs (ops 0 1 2 0 0 4)) = some (wd 0x01 1 4) ∧
    encode (.addSn (ops 0 1 2 0 0 3)) = some (wd 0x01 2 3) ∧ encode (.logXor (ops 0 1 2 0 0 14)) = some (wd 0x07 2 14) ∧
    encode (.mmxMinn (ops 0 1 2 0 0 7)) = some (wd 0x0A 2 7) := ⟨rfl, rfl, rfl, rfl, rfl⟩
theorem test_ty_boundaries : [defect .elem (wd 0x01 0 7), defect .elem (wd 0x01 0 8), defect .elem (wd 0x01 1 3), defect .elem (wd 0x01 1 4),
    defect .elem (wd 0x01 2 3), defect .elem (wd 0x01 2 4), defect .elem (wd 0x07 2 14), defect .elem (wd 0x07 2 13)] = [0, 3, 0, 3, 3, 0, 0, 3] := by
  decide +kernel
theorem witness_ShiftsAndBitOperations_count : encode (.shfiShl ⟨g0, 0, 1, 63⟩) = some (packI 0x09 0 ⟨g0, 0, 1, 63⟩) := rfl
theorem witness_MovesAndConstants_lis : encode (.lis 4 ⟨g0, 0, 0, 255⟩) = some (packI 0x0E 4 ⟨g0, 0, 0, 255⟩) := rfl

theorem witness_PredicateAndTokenWords_fwd : (merging (packR 0x19 0 (ops 16 12 0 0 0 0)) dataTok dataTok).taken.headOf (.elem 0 0 0 0) (12 - 12) = some dataTok := by
  decide +kernel
theorem witness_PredicateAndTokenWords_tagr : (elM (packR 0x1B 0 (ops 16 1 2 0 0 3)) 0 5).taken.readS (.elem 0 0 0 0) 2 = 5 ∧
    (elM (packR 0x1B 0 (ops 16 1 2 0 0 3)) 0 7).taken.readS (.elem 0 0 0 0) 2 = 7 := by decide +kernel

/-- The merge of `in0` and `in1`. -/
def merges : FormR := { ops 16 12 13 0 0 0 with g := { g0 with cr := 3 } }
theorem witness_MergeAndMarkerWords : Fires (merging (packR 0x1C 0 merges) dataTok ⟨1, 2⟩) (.mrgArr merges) merges.g (.elem 0 0 0 0) (packR 0x1C 0 merges) :=
  ⟨rfl, rfl, by decide +kernel⟩
theorem witness_MergeAndMarkerWords_choices :
    (merging 0 dataTok ⟨1, 2⟩).taken.mrgChoice 0 0 0 0 1 false = (.a, some dataTok, some ⟨1, 2⟩, false) ∧
    (merging 0 ⟨1, 2⟩ dataTok).taken.mrgChoice 0 0 0 0 1 false = (.b, some ⟨1, 2⟩, some dataTok, false) ∧
    (merging 0 ⟨2, 1⟩ ⟨2, 2⟩).taken.mrgChoice 0 0 0 0 1 false = (.both, some ⟨2, 1⟩, some ⟨2, 2⟩, false) ∧
    (merging 0 ⟨1, 1⟩ ⟨2, 2⟩).taken.mrgChoice 0 0 0 0 1 false = (.clash, some ⟨1, 1⟩, some ⟨2, 2⟩, false) := by decide +kernel

theorem witness_TellerControl : Fires (telM (packR 0x7E 0 (ops 0 1 0 0 0 0)) 0x1001 0) (.jrJr (ops 0 1 0 0 0 0)) g0 (.tel 0 0 0) (packR 0x7E 0 (ops 0 1 0 0 0 0)) ∧
    ((telM 0 0x1001 0).taken.readS (.tel 0 0 0) 1).toNat % 8 ≠ 0 ∧ ((telM 0 0x1000 0).taken.readS (.tel 0 0 0) 1).toNat % 8 = 0 :=
  ⟨fires_telM _ _ _ _ _ rfl, by decide +kernel, by decide +kernel⟩

/-! Vector words: their conditions are on TY and on scalar or vector operands. -/
theorem witness_VectorQuantisation_planes : (elM 0 0 0x0202).taken.readS (.elem 0 0 0 0) 2 = 0x0202 ∧ (0x0202 : Nat) % 256 = 2 ∧ bits 0x0202 15 8 = 2 ∧
    (0x0808 : Nat) % 256 = 8 ∧ bits 0x0808 15 8 = 8 ∧ bits 0x0008 15 8 < 1 ∧ (8 : Nat) % 256 < bits 0x0908 15 8 := by decide +kernel
theorem witness_VectorMatchRankDraw_match :
    (let va := (elS 0 [0] [0, BitVec.ofNat 512 (63 * 2 ^ 504)]).taken.readV (.elem 0 0 0 0) 8
     let vb := (elS 0 [0] [0, BitVec.ofNat 512 (63 * 2 ^ 504)]).taken.readV (.elem 0 0 0 0) 9
     lane 8 va 63 = 0 ∧ lane 8 vb 63 = 63) ∧
    (let vb := (elS 0 [64] [0, BitVec.ofNat 512 (64 * 2 ^ 504)]).taken.readV (.elem 0 0 0 0) 9
     lane 8 vb 63 = 64) := by decide +kernel
theorem witness_VectorMatchRankDraw_keys : (elM 0 0 0).taken.ptnOf (.elem 0 0 0 0) = 0 ∧
    (((elM 0 0 0).taken.ptn? 0).bind fun p => alGet 0 p.keys) = some (List.replicate 16 0) ∧
    (((elM 0 0 0).taken.ptn? 0).bind fun p => alGet 1 p.keys) = none := by decide +kernel

/-- Tokens of a `VACC` or a `VNRM.STAT`: data, the end of a row, a plain control token, an empty segment's companion. -/
theorem witness_SlotStateWords : ∀ t ∈ [dataTok, ⟨1, 5⟩, headerTok 2 false none 4 10 0 8, companion true 1 0],
    ((merging (packR 0x2D 0 (ops 17 12 2 0 0 10)) t dataTok).taken.slotOf (.elem 0 0 0 0)).isSome ∧
    (merging (packR 0x2D 0 (ops 17 12 2 0 0 10)) t dataTok).taken.headOf (.elem 0 0 0 0) 0 = some t := by decide +kernel
theorem witness_SlotStateWords_kinds : (companion true 1 0).isEmptySeg = true ∧ (headerTok 2 false none 4 10 0 8).isEmptySeg = false ∧
    (headerTok 2 false none 4 10 0 8).tag = tagCtl ∧ closes 1 1 = true ∧ closes 0 1 = false ∧ (0 : Nat) % 8 = 0 ∧ (4 : Nat) % 8 ≤ 4 ∧ 4 < (5 : Nat) % 8 := by
  decide +kernel

/-! Memory words. -/
theorem witness_MemoryWordsFireAndAccess_aligned :
    (∀ p ∈ [(Instr.ldPl (ops 0 1 2 0 0 3), (0x58 : BitVec 7), (0 : BitVec 3)), (.stRel (ops 0 1 2 0 0 3), 0x59, 1), (.vld (ops 0 1 2 0 0 3), 0x5A, 0),
        (.vstPl (ops 0 1 2 0 0 3), 0x5B, 0), (.gath (ops 0 1 2 0 0 3), 0x5E, 0), (.scatSt (ops 0 1 2 0 0 3), 0x5F, 0)],
      Fires (elM (wd p.2.1 p.2.2 3) 0x1000 8) p.1 g0 (.elem 0 0 0 0) (wd p.2.1 p.2.2 3)) ∧
    ((elM (wd 0x58 0 3) 0x1000 8).jobOf (.elem 0 0 0 0) (wd 0x58 0 3)).ea = 0x1008 := by
  refine ⟨?_, by decide +kernel⟩
  simp only [List.forall_mem_cons, List.not_mem_nil, false_imp_iff, implies_true, and_true]
  exact ⟨fires_el _ _ _ _ rfl, fires_el _ _ _ _ rfl, fires_el _ _ _ _ rfl, fires_el _ _ _ _ rfl, fires_el _ _ _ _ rfl, fires_el _ _ _ _ rfl⟩
theorem witness_MemoryWordsFireAndAccess_parts :
    let f (s : State) (w : Who) : Flight := { s.jobOf w (wd 0x58 0 3) with plan := (s.jobOf w (wd 0x58 0 3)).makePlan }
    (elM (wd 0x58 0 3) 0x1000 8).taken.telParts (.elem 0 0 0 0) (f (elM (wd 0x58 0 3) 0x1000 8) (.elem 0 0 0 0)) = none ∧
    (telM (wd 0x58 0 3) 0x1000 8).taken.telParts (.tel 0 0 0) (f (telM (wd 0x58 0 3) 0x1000 8) (.tel 0 0 0)) = none ∧
    (telM (wd 0x58 0 3) (2 ^ 31) 8).taken.telParts (.tel 0 0 0) (f (telM (wd 0x58 0 3) (2 ^ 31) 8) (.tel 0 0 0)) =
      some { cls := clsXlate, code := 1, opnd := 2 ^ 31 + 8 } := by decide +kernel
theorem witness_MemoryWordsFireAndAccess_parts2 : encode (.vstMsk (ops 0 1 2 0 0 3)) = some (flE (wd 0x5B 1 3) 0 5).word := rfl
theorem witness_MemoryWordsPerform : (outS (elM (wd 0x58 0 3) 0x1000 8) (flE (wd 0x58 0 3) 0x1000 8)).Performing (.ldPl (ops 0 1 2 0 0 3)) (flE (wd 0x58 0 3) 0x1000 8) ∧
    (flE (wd 0x58 0 3) 0x1000 8).plan.length ≤ (flE (wd 0x58 0 3) 0x1000 8).stage ∧ (flE (wd 0x58 0 3) 0x1000 8).left = 0 :=
  ⟨performing_el _ _ _ _ rfl (by decide +kernel), by decide +kernel, rfl⟩
theorem witness_AtomicWordsFire :
    Fires (elM (wd 0x69 0 3) 0x40000008 1) (.afetAdd (ops 0 1 2 0 0 3)) g0 (.elem 0 0 0 0) (wd 0x69 0 3) ∧
    ((elM (wd 0x69 0 3) 0x40000004 1).jobOf (.elem 0 0 0 0) (wd 0x69 0 3)).sa.toNat % 8 ≠ 0 ∧
    (telM (wd 0x62 0 3) (2 ^ 30) 8).taken.telAddr (.tel 0 0 0) 0 (2 ^ 30) .store true = some { cls := clsAtomic, code := 1, opnd := 2 ^ 30 } ∧
    (elM (wd 0x62 0 3) (2 ^ 30) 8).taken.telAddr (.elem 0 0 0 0) 0 (2 ^ 30) .store true = none :=
  ⟨fires_el _ _ _ _ rfl, by decide +kernel⟩
theorem witness_AtomicsPerform_operations : encode (.aupdMin (ops 0 1 2 0 0 1)) = some (flE (wd 0x68 1 1) 0 5).word ∧ (65535 : Nat) < 2 ^ tyWidth 1 := by decide +kernel
theorem witness_AtomicsPerform_results : (outS (elM 0 0 0) (flE (wd 0x6A 0 3) (2 ^ 30) 5)).flight? 7 = some (flE (wd 0x6A 0 3) (2 ^ 30) 5) ∧
    encode (.acas (ops 0 1 2 0 0 3)) = some (flE (wd 0x6A 0 3) (2 ^ 30) 5).word ∧ (flE (wd 0x6A 0 3) (2 ^ 30) 5).after ≤ (elM 0 0 0).fc := by decide +kernel

/-- A till at VA 2^30: 8 slots, HEAD 0, TAIL 3, GRANT 4. -/
def tillS (s : State) : State :=
  s.store vaultKey (leBytes 8 0x40001000 ++ leBytes 4 64 ++ leBytes 4 8 ++ leBytes 8 0 ++ leBytes 8 3 ++ leBytes 8 4 ++ List.replicate 24 0)
theorem witness_TillEventAndBankWords_till_words :
    (tillS (elM 0 0 0)).descKey (flE (wd 0x62 1 0) (2 ^ 30) 3) (2 ^ 30) .load = .ok vaultKey ∧
    (tillS (elM 0 0 0)).descKey (flE (wd 0x62 1 0) (2 ^ 30) 3) (2 ^ 30) .store = .ok vaultKey ∧
    (let t := (tillS (elM 0 0 0)).tillAt vaultKey
     t.tail - t.head = 3 ∧ t.n = 8 ∧ t.grant + 4 - t.head ≤ t.n ∧ t.n < t.grant + 5 - t.head ∧ 1 ≤ t.grant - t.tail ∧ t.grant - t.tail < 2) ∧
    (let s := outS (tillS (elM 0 0 0)) (flE (wd 0x63 0 0) (2 ^ 30) 3)
     let v := (s.newId).2.modFlight 7 fun g => { g with aux := [(s.newId).1, vaultKey] }
     (flE (wd 0x63 0 0) (2 ^ 30) 3).aux = [] ∧ (flE (wd 0x63 0 0) (2 ^ 30) 3).plan = [] ∧ v.permitTurn (s.newId).1 vaultKey = true ∧
     v.permitTurn ((s.newId).1 + 1) vaultKey = false ∧ (v.logUndo (.me 0 0) 0 vaultKey).isSome ∧ (s.logUndo (.me 0 0) 0 vaultKey).isSome) ∧
    (elM 0 0 0).taken.telAddr (.elem 0 0 0 0) 0 (2 ^ 30) .load false = none := by decide +kernel
theorem witness_TillEventAndBankWords_till_performing : ∀ p ∈ [(Instr.tillPoll (ops 0 1 2 0 0 0), (1 : BitVec 3)), (.tillWait (ops 0 1 2 0 0 0), 2), (.tillAdv (ops 0 1 2 0 0 0), 3)],
    (outS (tillS (elM 0 0 0)) (flE (wd 0x62 p.2 0) (2 ^ 30) 3)).Performing p.1 (flE (wd 0x62 p.2 0) (2 ^ 30) 3) := by
  simp only [List.forall_mem_cons, List.not_mem_nil, false_imp_iff, implies_true, and_true]
  repeat' apply And.intro
  all_goals decide +kernel
theorem witness_TillEventAndBankWords_permit_performing : ∀ p ∈ [(Instr.prmtGet (ops 0 1 2 0 0 0), (0 : BitVec 3)), (.prmtRet (ops 0 1 2 0 0 0), 1)],
    (outS (tillS (elM 0 0 0)) (flE (wd 0x63 p.2 0) (2 ^ 30) 1)).Performing p.1 (flE (wd 0x63 p.2 0) (2 ^ 30) 1) := by
  simp only [List.forall_mem_cons, List.not_mem_nil, false_imp_iff, implies_true, and_true]
  repeat' apply And.intro
  all_goals decide +kernel

/-- An `EV.POST` of a record of kind 0x100 to die 0, and one that is refused. -/
def posts (k d : Word) : Flight := { flE (wd 0x66 0 0) d 0 with vd := k.setWidth 512 }
theorem witness_TillEventAndBankWords_event_words :
    (outS (elM 0 0 0) (posts 0x100 7)).Performing (.evPost (ops 0 1 2 0 0 0)) (posts 0x100 7) ∧
    (outS (elM 0 0 0) (posts 0x100 7)).evRoom 7 0 = true ∧ (outS (elM 0 0 0) (posts 0x100 7)).evFreeIn 7 0 = true ∧
    (posts 0x100 7).vd.toNat % 2 ^ 16 = 0x100 ∧ (posts 0xFF 7).vd.toNat % 2 ^ 16 < 0x100 ∧
    (elM 0 0 0).evHead 0 0 = none ∧ ((elM 0 0 0).evPush 0 0 [1]).evHead 0 0 = some [1] ∧ ((elM 0 0 0).evPush 0 0 [1]).evFreeOut 0 0 = true ∧
    ({ elM 0 0 0 with dies := (elM 0 0 0).dies.modify 0 fun d => { d with evq := [(0, List.replicate 1024 [])] } }).evRoom 0 0 = false :=
  ⟨⟨rfl, by decide +kernel, rfl⟩, by decide +kernel⟩
theorem witness_TillEventAndBankWords_event_performing : ∀ p ∈ [(Instr.evPop (ops 8 0 0 0 0 0), (1 : BitVec 3)), (.evWait (ops 8 0 0 0 0 0), 2), (.evPeek (ops 8 0 0 0 0 0), 3)],
    (outS ((elM 0 0 0).evPush 0 0 [1]) (flE (packR 0x66 p.2 (ops 8 0 0 0 0 0)) 0 0)).Performing p.1 (flE (packR 0x66 p.2 (ops 8 0 0 0 0 0)) 0 0) := by
  simp only [List.forall_mem_cons, List.not_mem_nil, false_imp_iff, implies_true, and_true]
  repeat' apply And.intro
  all_goals decide +kernel

/-- The token of bank 0 of die 0, free with a tag or held by page 0. -/
def bankS (t : BankTok) : State := (elM 0 0 0).setBank 0 0 t
theorem witness_TillEventAndBankWords_bank_words :
    (outS (bankS (.held 0)) (flE (wd 0x65 0 0) 0 5)).Performing (.bankGive (ops 0 1 2 0 0 0)) (flE (wd 0x65 0 0) 0 5) ∧
    (bankS (.held 0)).bankTok 0 0 = .held 0 ∧ (bankS (.held 0)).bankQuiet 0 0 0 (flE (wd 0x65 0 0) 0 5) = true ∧ (bankS (.free 5)).bankTok 0 0 = .free 5 ∧
    (outS (bankS (.free 5)) (flE (wd 0x65 1 0) 0 5)).Performing (.bankTake (ops 0 1 2 0 0 0)) (flE (wd 0x65 1 0) 0 5) ∧
    (outS (bankS (.free 5)) (flE (wd 0x65 2 0) 0 5)).Performing (.bankQry (ops 0 1 2 0 0 0)) (flE (wd 0x65 2 0) 0 5) :=
  ⟨⟨rfl, by decide +kernel, rfl⟩, by decide +kernel, by decide +kernel, by decide +kernel, ⟨rfl, by decide +kernel, rfl⟩, ⟨rfl, by decide +kernel, rfl⟩⟩

/-! Groups, fences and counters. -/
def mem1 : GMem := ⟨0, 3, [none, none, none, none]⟩
def grp2 : Grp := { members := 2, arr := [1, 0, 0, 0], gen := [0, 0, 0, 0], owner := some 0, q := [] }
theorem witness_GroupFenceAndCounterWords_groups :
    ([mem1].find? fun y => y.die = mem1.die ∧ y.ix = mem1.ix) = some mem1 ∧ (([] : List GMem).find? fun y => y.die = mem1.die ∧ y.ix = mem1.ix) = none ∧
    grp2.arrived mem1 0 = false ∧ grp2.arrived { mem1 with arr := [some 0, none, none, none] } 0 = true ∧
    (0 < grp2.members ∧ grp2.arr.getD 0 0 + 1 = grp2.members) := by decide +kernel
theorem witness_GroupFenceAndCounterWords_groups_performing :
    (outS (elM 0 0 0) { flE (wd 0x70 2 0) 0 0 with stage := 2 }).Performing (.grpArrive (ops 0 1 2 0 0 0)) { flE (wd 0x70 2 0) 0 0 with stage := 2 } :=
  ⟨rfl, by decide +kernel, rfl⟩

/-- A load still outstanding before the flight. -/
def before : Flight := { flE (wd 0x58 0 3) 0x1000 8 with fid := 1 }
theorem witness_GroupFenceAndCounterWords_fences :
    (outS (elM 0 0 0) (flE (wd 0x71 0 0) 0 0)).Performing (.fenceCtx (ops 0 1 2 0 0 0)) (flE (wd 0x71 0 0) 0 0) ∧
    (outS (elM 0 0 0) (flE (wd 0x71 0 0) 0 0)).memBefore (flE (wd 0x71 0 0) 0 0) = 0 ∧
    ({ outS (elM 0 0 0) (flE (wd 0x71 0 0) 0 0) with flights := [before, flE (wd 0x71 0 0) 0 0] }).memBefore (flE (wd 0x71 0 0) 0 0) ≠ 0 :=
  ⟨⟨rfl, by decide +kernel, rfl⟩, by decide +kernel, by decide +kernel⟩
theorem witness_GroupFenceAndCounterWords_qfence :
    (outS (elM 0 0 0) (flE (wd 0x72 0 0) 63 0)).Performing (.qfence (ops 0 1 2 0 0 0)) (flE (wd 0x72 0 0) 63 0) ∧ (flE (wd 0x72 0 0) 63 0).aux = [] ∧
    ((elM (wd 0x72 0 0) 63 0).jobOf (.elem 0 0 0 0) (wd 0x72 0 0)).sa.toNat < 64 ∧ ((telM (wd 0x72 0 0) 16 0).jobOf (.tel 0 0 0) (wd 0x72 0 0)).sa.toNat = 16 :=
  ⟨⟨rfl, by decide +kernel, rfl⟩, rfl, by decide +kernel, by decide +kernel⟩
theorem witness_GroupFenceAndCounterWords_counters :
    (let j := jobHolds ((elM (wd 0x73 0 3) 1 2).jobOf (.elem 0 0 0 0) (wd 0x73 0 3)) 0 1
     ((elM (wd 0x73 0 3) 1 2).handed (.elem 0 0 0 0) g0 j).tcntRegion j = some 0) ∧
    (let j := jobHolds ((telM (wd 0x73 0 3) 1 2).jobOf (.tel 0 0 0) (wd 0x73 0 3)) 0 1
     ((telM (wd 0x73 0 3) 1 2).handed (.tel 0 0 0) g0 j).tcntRegion j = none) ∧
    (let s := (outS (elM 0 0 0) (flE (wd 0x73 0 3) 1 2)).modRegion 0 fun r => { r with tcq := [⟨7, 0⟩] }
     s.region? 0 = some { Region.placed with tcq := [⟨7, 0⟩] } ∧
     (([⟨7, 0⟩] : List TcOp).find? fun q => s.tcntReady { Region.placed with tcq := [⟨7, 0⟩] } q) = some ⟨7, 0⟩ ∧
     s.flight? 7 = some (flE (wd 0x73 0 3) 1 2)) := by decide +kernel

/-! Shapes. The record is that of chapter 01. -/
def shape1 : Shape := ⟨true, 0x1000, ⟨8, false, 4, 64, 32, 5, 0⟩, 0, [0, 5, 5, 17, 24, 32], none, [], []⟩
def withShape (sh : Shape) (s : State) : State := s.modPage 0 fun p => { p with shapes := p.shapes.set 0 sh }

/-- A shape word that names `s0` by A, B in `a2`. -/
def shW (opc : BitVec 7) (fn : BitVec 3) : Word := packR opc fn (ops 0 0 2 0 3 0)

/-- The result and the flag of a shape word of element (0, 0, 0) that selects `b`. -/
noncomputable def shGives (i : Instr) (x b : Word) : Option (List (Nat × Word) × List (Nat × Bool)) :=
  match exec i (withShape shape1 (elM x 0 b)) with
  | .next t => t.flights.getLast?.map fun f => (f.wr.a, f.wr.p)
  | _ => none

theorem test_shseg_head : shGives (.shseg (ops 0 0 2 0 3 0)) (shW 0x54 0) 5 = some ([(0, 2)], [(0, true)]) := by decide +kernel
theorem test_shseg_inside : shGives (.shseg (ops 0 0 2 0 3 0)) (shW 0x54 0) 4 = some ([(0, 0)], [(0, false)]) := by decide +kernel
theorem test_shseg_beyond : shGives (.shseg (ops 0 0 2 0 3 0)) (shW 0x54 0) 32 = some ([(0, 5)], [(0, false)]) := by decide +kernel
theorem test_shrow_empty : shGives (.shrow (ops 0 0 2 0 3 0)) (shW 0x55 0) 1 = some ([(0, 5)], [(0, true)]) := by decide +kernel
theorem test_shget_last_and_kind : shGives (.shget (ops 0 0 2 0 3 0)) (shW 0x52 0) 5 = some ([(0, 32)], [(0, false)]) ∧
    shGives (.shget (ops 0 0 2 0 3 0)) (shW 0x52 0) 0x70000 = some ([(0, 0x1000)], [(0, false)]) := by decide +kernel
theorem test_shset_kind3 : shChange shape1 (shape1.known (.elem 0 0 0 0) none) 0x30000 40 =
    .ok ⟨⟨8, false, 4, 64, 40, 6, 0⟩, [(6, 40)], [(0x10, 4, 6), (0x38, 4, 40), (0xC, 4, 40)], 3⟩ := rfl
theorem test_shset_limits :
    (let go sel v := (shChange shape1 (shape1.known (.elem 0 0 0 0) none) sel v).toOption.isSome
     [go 0 0, go 1 0, go 1 5, go 1 6, go 4 32, go 4 33, go 5 32, go 0x10000 23, go 0x10000 24, go 0x10000 (2 ^ 20), go 0x10000 (2 ^ 20 + 1),
      go 0x20000 9, go 0x30000 31, go 0x30000 32, go 0x40000 32]) =
    [false, true, true, false, true, false, false, false, true, true, false, true, false, true, false] := by decide +kernel

theorem witness_ShapeReads : ∀ p ∈ [(Instr.shget (ops 0 0 2 0 3 0), shW 0x52 0), (.shseg (ops 0 0 2 0 3 0), shW 0x54 0),
      (.shrow (ops 0 0 2 0 3 0), shW 0x55 0)], ∀ sh ∈ [shape1, Shape.empty],
    Fires (withShape sh (elM p.2 0 5)) p.1 g0 (.elem 0 0 0 0) p.2 ∧ (withShape sh (elM p.2 0 5)).taken.shape? 0 0 = some sh := by
  simp only [List.forall_mem_cons, List.not_mem_nil, false_imp_iff, implies_true, and_true]
  repeat' apply And.intro
  all_goals decide +kernel

/-- `VHEAD` with A in `a1` and the shape in `s0`. -/
def heads : FormR := ops 8 1 0 0 0 10
theorem witness_ShapeReads_heads :
    Fires (withShape shape1 (elM (packR 0x3E 0 heads) 16 0)) (.vhead heads) g0 (.elem 0 0 0 0) (packR 0x3E 0 heads) ∧
    (let isHead (y : Nat) : Bool := ((segOf (shape1.known (.elem 0 0 0 0) none) y).map fun p => p.2 == y).getD false
     (∀ i ≤ 16 % 16, isHead (16 / 16 * 16 + i) = false) ∧ (∃ i ≤ 17 % 16, isHead (17 / 16 * 16 + i) = true)) := by
  refine ⟨⟨rfl, by decide +kernel, by decide +kernel⟩, ?_, 1, by decide, by decide +kernel⟩
  decide +kernel

/-- The record of `shape1` as bytes: its header and entries (R167). -/
def rec1 : List Byte := [1, 0, 8, 0, 4, 0, 0, 0, 64, 0, 0, 0, 32, 0, 0, 0, 5, 0, 0, 0] ++
  List.replicate 12 0 ++
  ([0, 5, 5, 17, 24, 32].map fun n : Nat => leBytes 4 n).flatten

theorem test_rec1 : hdrBad rec1 = none ∧ hdrOf rec1 = shape1.hdr ∧ bndOf (rec1.drop 32) = shape1.bnd ∧
    hdrBad (rec1.set 16 0) = some 0x10 ∧ hdrBad (rec1.set 0x15 1) = some 0x15 := by decide +kernel

/-- The element with the record of `shape1` at VA 0x1000. -/
def recS (s : State) : State := s.store 0x1000 rec1

/-- A shape write of `s0` by D, A in `a1`, B in `a2`. -/
def shD (opc : BitVec 7) : Word := packR opc 0 (ops 0 1 2 0 0 0)

theorem witness_ShapeWritesAndChanges_fires : ∀ p ∈ [(Instr.shbind (ops 0 1 2 0 0 0), shD 0x50), (.shset (ops 0 1 2 0 0 0), shD 0x51),
      (.shinv (ops 0 1 2 0 0 0), shD 0x53)],
    Fires (withShape shape1 (elM p.2 0x1000 5)) p.1 g0 (.elem 0 0 0 0) p.2 ∧
    (outS (withShape shape1 (recS (elM 0 0 0))) (flE p.2 0x1000 5)).Performing p.1 (flE p.2 0x1000 5) := by
  simp only [List.forall_mem_cons, List.not_mem_nil, false_imp_iff, implies_true, and_true]
  repeat' apply And.intro
  all_goals decide +kernel
theorem witness_ShapeWritesAndChanges_bind :
    let f (b : List Byte) : Flight := fed (flE (shD 0x50) 0x1000 5) b
    let h := hdrOf rec1
    (∀ b ∈ [rec1.take 32, rec1, rec1.set 32 1, rec1.set 0 0], (outS (elM 0 0 0) (f b)).Performing (.shbind (ops 0 1 2 0 0 0)) (f b) ∧ (f b).bytes = b) ∧
    hdrBad (rec1.take 32) = none ∧ (rec1.take 32).length < 32 + 4 * min 64 (h.segs + 1) ∧ 32 + 4 * min 64 (h.segs + 1) ≤ rec1.length ∧
    bndBad h 0 (bndOf (rec1.drop 32)) none none = none ∧ bndBad h 0 (bndOf ((rec1.set 32 1).drop 32)) none none = some 0x20 ∧
    hdrBad (rec1.set 0 0) = some 0 := by
  refine ⟨?_, by decide +kernel⟩
  simp only [List.forall_mem_cons, List.not_mem_nil, false_imp_iff, implies_true, and_true]
  repeat' apply And.intro
  all_goals decide +kernel

/-! Tile words. -/
theorem witness_TileWordsEnter : ∀ p ∈ [(Instr.zfillTril (ops 0 1 2 0 0 8), wd 0x44 3 8), (.mmaR (ops 0 1 2 0 0 10), wd 0x46 1 10),
      (.zrd (ops 16 1 0 0 0 10), packR 0x41 0 (ops 16 1 0 0 0 10)), (.zwait (ops 0 1 2 0 0 0), wd 0x4D 0 0)],
    Fires (elM p.2 0 0) p.1 g0 (.elem 0 0 0 0) p.2 ∧ (elM p.2 0 0).tenDriven (.elem 0 0 0 0) = some 0 := by
  simp only [List.forall_mem_cons, List.not_mem_nil, false_imp_iff, implies_true, and_true]
  refine ⟨⟨fires_el _ _ _ _ ?_, ?_⟩, ⟨fires_el _ _ _ _ ?_, ?_⟩, ⟨fires_el _ _ _ _ ?_, ?_⟩, fires_el _ _ _ _ ?_, ?_⟩ <;> decide +kernel

/-- A page whose tenant 0 has flight 7 at the head of its queue, holding `d` and `f` in `z1`. -/
def headP (x : Word) (d : ZDesc) (f : Nat → Nat → Nat) : Page :=
  ({ Page.holding x with mtx := { (Page.holding x).mtx with
      tens := [{ Tenant.fresh (some (0, 0)) false with q := [⟨1, 7, 0⟩] }, Tenant.fresh none false] } }).setTile 0 1 d f
def headS (x a b : Word) (d : ZDesc) (f : Nat → Nat → Nat) : State :=
  { outS (elM 0 0 0) (flE x a b) with pages := [(0, headP x d f)] }
def headT : Tenant := { Tenant.fresh (some (0, 0)) false with q := [⟨1, 7, 0⟩] }

/-- `z1` is 3 x 2 of f32, elements i + 2 k. -/
def z32 : ZDesc := ⟨10, 0, 3, 2, 2⟩
def tri (i k : Nat) : Nat := i + 2 * k

theorem witness_TileWordsPerform : ∀ x ∈ [wd 0x44 3 8, wd 0x40 3 10, wd 0x47 0 0, wd 0x48 0 10, wd 0x49 0 8, wd 0x4A 0 0, wd 0x4C 0 0, wd 0x4D 0 0,
    wd 0x4E 0 10, wd 0x4E 1 10], ∃ t, (headS x 0 0 z32 tri).AtHead 0 0 (headP x z32 tri) t (flE x 0 0) := by
  simp only [List.forall_mem_cons, List.not_mem_nil, false_imp_iff, implies_true, and_true]
  repeat' apply And.intro
  all_goals
    exact ⟨_, rfl, rfl, by decide +kernel, rfl, ⟨1, 7, 0⟩, rfl, rfl, Nat.zero_le _, by decide +kernel⟩

/-- Descriptor and some elements of a tile register after the head of the queue has been performed. -/
noncomputable def tileAfter (x a b : Word) (z : Nat) (at_ : List (Nat × Nat)) : Option (ZDesc × List Nat) :=
  match exec (.tileQueuePerform 0 0) (headS x a b z32 tri) with
  | .next t => (t.page? 0).map fun p => ((p.tile 0 z).desc, at_.map fun q => (p.tile 0 z).at q.1 q.2)
  | _ => none

theorem test_zfill_tril : tileAfter (wd 0x44 3 8) 0 0 0 [(0, 0), (0, 1), (15, 14), (14, 15)] = some (⟨8, 0, 16, 16, 2⟩, [0x3F80, 0, 0x3F80, 0]) := by
  decide +kernel
theorem test_zfill_triu_bcst : tileAfter (wd 0x44 5 0) 0 0 0 [(0, 1), (1, 0)] = some (⟨0, 0, 16, 16, 2⟩, [1, 0]) ∧
    tileAfter (wd 0x44 6 0) 0x17F 0 0 [(3, 3)] = some (⟨0, 0, 16, 16, 2⟩, [0x7F]) := by decide +kernel
theorem test_zcfg_all : tileAfter (wd 0x40 3 12) (16 + 16 * 2 ^ 8 + 8 * 2 ^ 16) 0 0 [(0, 0)] = some (⟨12, 8, 16, 16, 2⟩, [0]) ∧
    tileAfter (wd 0x40 3 12) (17 + 16 * 2 ^ 8 + 8 * 2 ^ 16) 0 0 [(0, 0)] = some (⟨0, 0, 0, 0, 2⟩, [0]) := by decide +kernel
theorem test_ztrn : tileAfter (packR 0x47 0 (ops 0 1 0 0 0 0)) 0 0 0 [(1, 2), (0, 2), (1, 0)] = some (⟨10, 0, 2, 3, 2⟩, [4, 2, 2]) := by decide +kernel
theorem witness_TileWordsPerform_dims : (headP 0 z32 tri).tenRows 0 = 16 ∧ (16 : Nat) < ({ z32 with cols := 17 } : ZDesc).cols := ⟨rfl, by decide⟩
theorem witness_TileReadsBack : (headP 0 z32 tri).mtx.cells.length = 2048 ∧ (headP 0 z32 tri).mtx.tens.length = 2 ∧
    (∀ t ∈ (headP 0 z32 tri).mtx.tens, t.desc.length = 8) ∧ (headP 0 z32 tri).mtx.r0 ≤ 16 ∧ (16 : Nat) ≤ (headP 0 z32 tri).tenRows 0 ∧
    (0 : Nat) ≤ (headP 0 z32 tri).tenRows 1 := by decide +kernel

/-! Streams. -/
/-- A load descriptor of 3 rows of 4 f32 at VA 0x2000, and a load transform of kind NONE. -/
def desc1 : List Byte := leBytes 8 0x2000 ++ leBytes 16 0 ++ leBytes 4 3 ++ leBytes 4 4 ++ leBytes 4 128 ++ leBytes 2 10 ++ leBytes 2 10 ++
  [0, 1, 0, 0, 0, 0] ++ List.replicate 82 0
def openS (v : Bool) (row : Nat) : Machine.Stream := { Stream.idle with desc := sdescOf desc1, valid := v, cur := { Cursor.start with row := row } }
def withStream (m : Machine.Stream) (s : State) : State := s.modPage 0 fun p =>
  { p with mes := p.mes.modify 0 fun e => { e with streams := e.streams.set 0 m } }
def strS (x : Word) (m : Machine.Stream) : State := withStream m ((outS (elM 0 0 0) (flE x 0x1000 2)).store 0x1000 desc1)

theorem witness_StreamWords_open :
    (strS (wd 0x5C 0 0) Stream.idle).Performing (.sopen (ops 0 1 2 0 0 0)) (flE (wd 0x5C 0 0) 0x1000 2) ∧
    (withStream Stream.idle (outS (elM 0 0 0) (fed (flE (wd 0x5C 0 0) 0x1000 2) desc1))).Performing (.sopen (ops 0 1 2 0 0 0)) (fed (flE (wd 0x5C 0 0) 0x1000 2) desc1) ∧
    (fed (flE (wd 0x5C 0 0) 0x1000 2) desc1).bytes = desc1 ∧ (fed (flE (wd 0x5C 0 0) 0x1000 2) desc1).left = 0 ∧
    (let d := sdescOf desc1
     d.bad (d.eff none (d.xf Me.absent)) (d.xf Me.absent) 2 = false ∧
     { d with width := 17 }.bad ({ d with width := 17 }.eff none (d.xf Me.absent)) (d.xf Me.absent) 2 = true ∧ d.shape = 0) ∧
    (strS 0 (openS true 1)).stream? 0 0 = some (openS true 1) :=
  ⟨⟨rfl, by decide +kernel, by decide +kernel⟩, ⟨rfl, by decide +kernel, by decide +kernel⟩, by decide +kernel, rfl, by decide +kernel, by decide +kernel⟩
theorem witness_StreamWords_control : ∀ p ∈ [(Instr.sctlClose (ops 0 1 2 0 0 0), wd 0x5D 0 0), (.sctlRewind (ops 0 1 2 0 0 0), wd 0x5D 1 0),
      (.sctlSkip (ops 0 1 2 0 0 0), wd 0x5D 2 0), (.pref (ops 0 1 2 0 0 0), wd 0x61 0 0), (.xform (ops 0 1 2 0 0 0), wd 0x64 0 0)],
    (strS p.2 (openS true 1)).Performing p.1 (flE p.2 0x1000 2) := by
  simp only [List.forall_mem_cons, List.not_mem_nil, false_imp_iff, implies_true, and_true]
  repeat' apply And.intro
  all_goals decide +kernel
theorem witness_StreamWords_pref : (elM (wd 0x61 0 0) 0x1000 2).taken.held ((elM (wd 0x61 0 0) 0x1000 2).jobOf (.elem 0 0 0 0) (wd 0x61 0 0)) = false ∧
    (flE (wd 0x61 0 0) 0x1000 2).aux = [] ∧ ({ flE (wd 0x61 0 0) 0x1000 2 with aux := [1] }).aux = 1 :: [] := by
  decide +kernel
theorem witness_StreamWords_xform :
    ((openS true 1).valid && (openS true 1).desc.isStore == (0 % 2 == 1) && !(openS true 1).todo.isEmpty) = false ∧
    xfBad (xfOf (List.replicate 128 0)) false = false ∧ xfBad (xfOf (5 :: List.replicate 127 0)) false = true := by decide +kernel

/-! The ragged load. -/
theorem witness_RaggedLoad :
    Fires (withShape shape1 (elM (packR 0x60 0 (ops 16 1 0 0 0 8)) 0x2000 0)) (.ldr (ops 16 1 0 0 0 8)) g0 (.elem 0 0 0 0) (packR 0x60 0 (ops 16 1 0 0 0 8)) ∧
    (let s := withShape shape1 (elM (packR 0x60 0 (ops 16 1 0 0 0 8)) 0x2000 0)
     (captureShape 0 s.taken (s.jobOf (.elem 0 0 0 0) (packR 0x60 0 (ops 16 1 0 0 0 8)))).cap = some (shape1.hdr, 0x1000, 0, shape1.bnd) ∧
     (let u := elM (packR 0x60 0 (ops 16 1 0 0 0 8)) 0x2000 0
      (captureShape 0 u.taken (u.jobOf (.elem 0 0 0 0) (packR 0x60 0 (ops 16 1 0 0 0 8)))).cap = none)) := by
  refine ⟨⟨rfl, by decide +kernel, by decide +kernel⟩, by decide +kernel⟩
theorem witness_RaggedLoad_width : (32 : Nat) * tyWidth 8 = 512 ∧ 512 < 33 * tyWidth 8 := by decide
/-- The load of `shape1`, its row `k` next, the bytes of that row there. -/
def ldrF (k : Nat) : Flight := { flE 0 0x2000 0 with aux := [k, 0, 1, 5], got := [(k * 4, [1, 0, 2, 0, 3, 0, 4, 0])] }
theorem witness_RaggedLoad_rows : ((ldrF 15).ldrAt.row, (ldrF 15).ldrAt.seg, (ldrF 15).ldrAt.hdr) = (15, 5, true) ∧ (ldrParts shape1.hdr 0x2000 15).length = 1 ∧
    (ldrToken (ldrF 15) shape1.hdr []).map (fun r => r.1.tag) = some tagEot ∧ (ldrToken (ldrF 14) shape1.hdr []).map (fun r => r.1.tag) = some tagEor ∧
    (ldrToken (ldrF 31) shape1.hdr []).map (fun r => (r.1, r.2.2)) = some (⟨tagEos, packLanes 16 [1, 2, 3, 4]⟩, true) := by decide +kernel
theorem witness_RaggedLoad_empty :
    let h : ShapeHdr := ⟨8, false, 4, 64, 0, 5, 0⟩
    ({ flE 0 0x2000 0 with aux := [0, 0, 0, 0] }).ldrAt.hdr = false ∧
    (ldrToken { flE 0 0x2000 0 with aux := [0, 0, 1, 4] } h []).map (fun r => r.2.1.seg) = some 5 ∧
    (ldrToken { flE 0 0x2000 0 with aux := [0, 0, 1, 5] } h []).map (fun r => r.1) = some ⟨tagEos, 0⟩ := by decide +kernel

/-! Assays: a tree of no rows at VA 0x3000, a query on it at 0x1000. -/
def tree1 : Tree := ⟨0x3000, 0, 1, 2, 2, 0, 0, 0, recSize 1 2, 0x4000, 1, 0, 0, []⟩
def asyF : Flight := flE (wd 0x76 0 0) 0x1000 0
def asyS (tree : List Byte) : State :=
  ((({ outS (elM 0 0 0) asyF with fc := 9 }).store 0x1000 (leBytes 8 0x3000)).store 0x3000 tree).modDie 0 fun d => { d with assay := [⟨7, 9⟩] }
theorem witness_AssayWords_fire : (elM (wd 0x74 0 0) 0x40 2 |>.jobOf (.elem 0 0 0 0) (wd 0x74 0 0)).sa.toNat % 64 = 0 ∧
    (elM (wd 0x74 0 0) 0x41 2 |>.jobOf (.elem 0 0 0 0) (wd 0x74 0 0)).sa.toNat % 64 ≠ 0 ∧
    (elM (wd 0x74 0 0) 0x40 3 |>.jobOf (.elem 0 0 0 0) (wd 0x74 0 0)).sb.toNat % 2 ≠ 0 := by decide +kernel
theorem witness_AssayWords_perform :
    ((asyS tree1.bytes).die 0).assay = [⟨7, 9⟩] ∧ (asyS tree1.bytes).flight? 7 = some asyF ∧ asyF.after ≤ (asyS tree1.bytes).fc ∧
    (asyS tree1.bytes).mayIssue asyF = true ∧
    (match (assayOp asyF).run ⟨asyS tree1.bytes, [], 0, []⟩ with | .ok ((wr, oc), _) => wr.a == [(0, 7)] && oc | _ => false) = true ∧
    (match (assayOp asyF).run ⟨asyS [], [], 0, []⟩ with | .error (.fault _) => true | _ => false) = true := by
  decide +kernel

/-! The shift-add fabric: a graph of one in lane. -/
def node1 : Word := 0x4000000200000000
def graph1 : Graph := Graph.fresh 0 [node1]
def agS (x a b : Word) (gs : List Graph) : State :=
  ((outS (elM 0 0 0) (flE x a b)).store 0x1000 (leBytes 8 node1.toNat)).modPage 0 fun p => { p with saf := { p.saf with graphs := gs } }
theorem witness_ShiftAddWords_load :
    (elM (wd 0x78 0 0) 0x1004 1 |>.jobOf (.elem 0 0 0 0) (wd 0x78 0 0)).sa.toNat % 8 ≠ 0 ∧
    ((agS 0 0x1000 1 []).readRec 0 0 none 0x1000 8).toOption.map (·.1) = some (leBytes 8 node1.toNat) ∧
    recWords (leBytes 8 node1.toNat) = [node1] ∧ graphFault [node1] 16 = none ∧ (graphFault [0] 16).isSome ∧
    ((Page.holding 0).saf.place 0 [node1] none).toOption = some (0, { (Page.holding 0).saf with graphs := [graph1] }) ∧
    (({ (Page.holding 0).saf with graphs := [graph1] } : Saf).place 0 [node1] none).toOption = none := by
  decide +kernel
theorem witness_ShiftAddWords_perform : ∀ p ∈ [(Instr.agLoad (ops 0 1 2 0 0 0), wd 0x78 0 0), (.agBind (ops 0 1 2 0 0 0), wd 0x78 1 0),
      (.agUnld (ops 0 1 2 0 0 0), wd 0x78 2 0), (.agQry (ops 0 1 2 0 0 0), wd 0x78 3 0)],
    (agS p.2 0 0x1000 [graph1]).Performing p.1 (flE p.2 0 0x1000) ∧ (agS p.2 0 0x1000 [graph1]).agTurn (flE p.2 0 0x1000) = true := by
  simp only [List.forall_mem_cons, List.not_mem_nil, false_imp_iff, implies_true, and_true]
  repeat' apply And.intro
  all_goals decide +kernel
theorem witness_ShiftAddWords_bind : graph1.pipe = [] ∧ graph1.handle = 0 ∧
    (Page.holding 0).bindFault graph1 (0x80 :: List.replicate 15 0) (List.replicate 16 0) = none ∧
    (Page.holding 0).bindFault graph1 (0 :: 0x80 :: List.replicate 14 0) (List.replicate 16 0) ≠ none := by decide +kernel

/-! Tasks: a region descriptor of one full page at VA 0x4000, whose hash covers its entry and the CHASH (zeros), and a record. -/
def rdesc1 : List Byte := [1, 0, 0, 0, 1, 0, 0, 0] ++ leBytes 8 0 ++
  [88, 81, 129, 55, 106, 222, 19, 44, 12, 202, 46, 120, 80, 91, 190, 4, 105, 58, 26, 6, 6, 226, 186, 140, 97, 193, 79, 43, 142, 237, 245, 218,
   163, 38, 169, 196, 65, 66, 128, 35, 45, 131, 163, 76, 34, 165, 164, 218] ++ leBytes 8 0x8000 ++ [0, 0xFF, 0, 0, 0, 0, 0, 0]
def trec1 : List Byte := leBytes 8 0x4000 ++ leBytes 16 0 ++ leBytes 4 0 ++ leBytes 4 4 ++ [0, 0, 1, 0] ++ leBytes 28 0
/-- A state in which a teller's word is outstanding; queue 0 of die 0 is bound to the partition at priority 1, queue 1 at 2. -/
def taskS (x a b : Word) (ks : List Machine.Task) : State :=
  let s := ((outS (telM 0 0 0) (flT x a b)).store 0x1000 trec1).store 0x4000 rdesc1
  { s.modDie 0 fun d => { d with lqBind := (d.lqBind.set 0 0x8100).set 1 0x8200 } with tasks := ks }
def task1 (st : TaskState) (steps : List Nat) : Machine.Task :=
  ⟨0, 3, 0, 0x1000, 0, 0, .tel 0 0 0, 0, [], { trecOf trec1 with seq := steps ≠ [] }, st, [0], steps, 0, 0, none, [], none, 0, 0, false, false, false⟩

theorem witness_TaskWords_launch :
    (taskS (wd 0x79 0 0) 0x1000 0 []).Performing (.taskLnch (ops 0 1 2 0 0 0)) (flT (wd 0x79 0 0) 0x1000 0) ∧
    (taskS (wd 0x79 0 0) 0x1000 0 []).mayIssue (flT (wd 0x79 0 0) 0x1000 0) = true ∧
    ((taskS 0 0 0 []).readRec 0 0 none 0x1000 64).toOption.map (·.1) = some trec1 ∧
    (taskS 0 0 0 []).lnchStatus 0 0 0 trec1 = (0, some ⟨0, [0x4000], [rdescOf rdesc1]⟩) ∧
    (taskS 0 0 0 []).queueFor 0 0 (trecOf trec1).prio = some 0 ∧ (((taskS 0 0 0 []).die 0).lq.getD 0 []).length < 32 ∧
    ((taskS 0 0 0 []).lnchStatus 0 0 0 (trec1.set 28 0)).1 = 1 ∧ ((taskS 0 0 0 []).lnchStatus 0 0 0 (trec1.set 0x22 3)).1 = 2 ∧
    ((telM 0 0x1000 0).jobOf (.tel 0 0 0) (wd 0x79 0 0)).sa.toNat % 64 = 0 ∧
    (telM 0 0x1000 0).taken.telAddr (.tel 0 0 0) 0 0x1000 .load false = none :=
  ⟨⟨rfl, by decide +kernel, by decide +kernel⟩, by decide +kernel⟩
theorem witness_TaskWords_others :
    (∀ p ∈ [(Instr.taskSeq (ops 0 1 2 0 0 0), wd 0x79 1 0), (.taskCncl (ops 0 1 2 0 0 0), wd 0x79 2 0), (.taskQry (ops 0 1 2 0 0 0), wd 0x79 3 0),
        (.taskPrio (ops 0 1 2 0 0 0), wd 0x79 4 0)],
      (taskS p.2 3 2 [task1 .queued [0x4000]]).Performing p.1 (flT p.2 3 2)) ∧
    (taskS 0 3 2 [task1 .queued [0x4000]]).liveTask (flT (wd 0x79 1 0) 3 2) = some (task1 .queued [0x4000]) ∧
    (taskS 0 4 2 [task1 .queued []]).liveTask (flT (wd 0x79 1 0) 4 2) = none ∧ (taskS 0 3 2 [task1 .ended []]).liveTask (flT (wd 0x79 1 0) 3 2) = none ∧
    (task1 .queued [0x4000]).trec.seq = true ∧ (task1 .queued []).trec.seq = false ∧
    (taskS 0 3 2 [task1 .queued []]).queueFor 0 0 2 = some 1 ∧ (taskS 0 3 2 [task1 .queued []]).queueFor 0 0 3 = none := by
  refine ⟨?_, by decide +kernel⟩
  simp only [List.forall_mem_cons, List.not_mem_nil, false_imp_iff, implies_true, and_true]
  repeat' apply And.intro
  all_goals decide +kernel

/-! Ranges: instance 0 (region 0) and instance 1 (region 1) of the task 3 of partition 0. -/
def inst (n cur lim : Nat) (q : List (Nat × Nat)) : Region :=
  { Region.placed with key := n, inst := n, lseq := 3, persist := true, cur := cur, lim := lim, stealq := q }
def rangeS (x a : Word) (r v : Region) : State :=
  { outS (elM 0 0 0) (flE x a 0) with regions := [(0, r), (1, v)], tasks := [{ task1 .running [] with rgs := [0, 1] }] }
theorem witness_RangeWordsAndSteals_fires :
    Fires { rangeS 0 0 (inst 0 0 4 []) (inst 1 0 0 []) with issue := some (.elem 0 0 0 0, wd 0x7A 0 0) } (.rangeGet (ops 0 1 2 0 0 0)) g0
      (.elem 0 0 0 0) (wd 0x7A 0 0) ∧
    (rangeS 0 0 (inst 0 0 4 []) (inst 1 0 0 [])).noRange (.elem 0 0 0 0) none = false ∧
    (rangeS 0 0 (inst 0 0 4 []) (inst 1 0 0 [])).noRange (.elem 0 0 0 0) (some 1) = false ∧
    (rangeS 0 0 (inst 0 0 4 []) (inst 1 0 0 [])).noRange (.elem 0 0 0 0) (some 2) = true ∧
    (rangeS 0 0 (inst 0 0 4 []) (inst 1 0 0 [])).noRange (.elem 0 0 0 0) (some 0) = true ∧ (elM 0 0 0).noRange (.elem 0 0 0 0) none = true :=
  ⟨⟨rfl, by decide +kernel, by decide +kernel⟩, by decide +kernel⟩
theorem witness_RangeWordsAndSteals_performing : ∀ p ∈ [(Instr.rangeGet (ops 0 1 2 0 0 0), wd 0x7A 0 0), (.rangeSteal (ops 0 1 2 0 0 0), wd 0x7A 1 0),
      (.rangeSplit (ops 0 1 2 0 0 0), wd 0x7A 2 0), (.rangeDone (ops 0 1 2 0 0 0), wd 0x7A 3 0)],
    ∀ r ∈ [inst 0 3 4 [(7, 0)], inst 0 4 4 [(7, 0)], inst 0 2 4 [(7, 0)]],
    (rangeS p.2 1 r (inst 1 0 0 [])).Performing p.1 (flE p.2 1 0) ∧ (rangeS p.2 1 r (inst 1 0 0 [])).rangeRegion (flE p.2 1 0) = some r ∧
    (rangeS p.2 1 r (inst 1 0 0 [])).rangeTurn r 7 = true ∧ (rangeS p.2 1 r (inst 1 0 0 [])).instanceAt r 1 = some (inst 1 0 0 []) := by
  simp only [List.forall_mem_cons, List.not_mem_nil, false_imp_iff, implies_true, and_true]
  repeat' apply And.intro
  all_goals decide +kernel
theorem witness_RangeWordsAndSteals_issue : (rangeS 0 0 (inst 0 3 4 []) (inst 1 0 0 [])).mayIssueTile (inst 0 3 4 []) 3 = true ∧
    (inst 0 3 4 []).finished = false := by decide +kernel

/-! Engines. -/
def engS (s : State) (q n : Nat) : State :=
  s.setEng 0 q 0 { s.eng 0 q 0 with ptn := some 0, qseq := n, q := (List.range n).map fun i => { qseq := i + 1, record := [], who := .tel 0 0 0, asid := 0, ptn := 0, fn := 0, tt := none, ival := 0 } }
theorem witness_EngineWords_fire :
    (engS (elM 0 0 0) 0 0).noEng (.elem 0 0 0 0) 0 0 = false ∧ (elM 0 0 0).noEng (.elem 0 0 0 0) 0 0 = true ∧ (elM 0 0 0).noEng (.elem 0 0 0 0) 0 3 = true ∧
    (elM 0 0 0).ttOrdered none = false ∧ (elM 0 0 0).taken.telAddr (.elem 0 0 0 0) 0 0x1000 .load false = none ∧
    ({ elM 0 0 0 with regions := [(0, { Region.placed with ordered := true })] }).ttOrdered (some (0, 0)) = true := by decide +kernel
theorem witness_EngineWords_performing : ∀ p ∈ [(Instr.cpyCpy (ops 0 1 2 0 0 0), wd 0x7B 0 0), (.cpyXf (ops 0 1 2 0 0 0), wd 0x7B 1 0),
      (.cpyFill (ops 0 1 2 0 0 0), wd 0x7B 2 0), (.cpyStat (ops 0 1 2 0 0 0), wd 0x7B 3 0), (.nmcIssue (ops 0 1 2 0 0 0), wd 0x7C 0 0),
      (.nmcFence (ops 0 1 2 0 0 0), wd 0x7C 1 0), (.nmcStat (ops 0 1 2 0 0 0), wd 0x7C 2 0)],
    (engS (outS (elM 0 0 0) (flE p.2 0x1000 0)) 0 31).Performing p.1 (flE p.2 0x1000 0) ∧
    (engS (outS (elM 0 0 0) (flE p.2 0x1000 0)) 0 31).mayIssue (flE p.2 0x1000 0) = true := by
  simp only [List.forall_mem_cons, List.not_mem_nil, false_imp_iff, implies_true, and_true]
  repeat' apply And.intro
  all_goals decide +kernel
theorem witness_EngineWords_queue : ((engS (elM 0 0 0) 0 31).eng 0 0 0).q.length = 31 ∧ ((engS (elM 0 0 0) 0 32).eng 0 0 0).q.length = 32 ∧
    ((elM 0 0 0).readRec 0 0 none 0x1000 64).toOption.map (·.1) = some (List.replicate 64 0) := by decide +kernel

/-! Links: partition 0 has 2 to 14 groups of link 0. -/
def linkS (x a b : Word) (f : Machine.Link → Machine.Link) : State := (outS (elM 0 0 0) (flE x a b)).modLink 0 f
def turns (n p : Nat) : Machine.Link → Machine.Link := fun l => { l with fifo := List.replicate n (p, 3) }
theorem witness_LinkWords :
    (∀ p ∈ [(Instr.linkTurn (ops 0 1 2 0 0 0), wd 0x6D 0 0), (.linkQry (ops 0 1 2 0 0 0), wd 0x6D 1 0), (.linkHold (ops 0 1 2 0 0 0), wd 0x6D 2 0)],
      (linkS p.2 0 1 id).Performing p.1 (flE p.2 0 1)) ∧
    (linkS (wd 0x6D 0 0) 0 2 id).mayIssue (flE (wd 0x6D 0 0) 0 2) = true ∧
    (linkS 0 0 2 id).grantOn 0 0 = some (2, 14) ∧ (linkS 0 1 2 id).grantOn 0 1 = none ∧
    (((linkS 0 0 2 (turns 7 0)).link 0).fifo.filter fun q => q.1 == 0).length = 7 ∧ (((linkS 0 0 2 (turns 8 0)).link 0).fifo.filter fun q => q.1 == 0).length = 8 ∧
    ((linkS 0 0 2 (turns 15 1)).link 0).fifo.length = 15 ∧
    (linkS (wd 0x6D 2 0) 0 1 id).holdTurn (flE (wd 0x6D 2 0) 0 1) = true ∧ ((linkS 0 0 1 id).link 0).hold = none ∧
    ((linkS 0 0 0 fun l => { l with hold := some (0, 5) }).link 0).hold = some (0, 5) ∧
    ((linkS 0 0 0 fun l => { l with hold := some (1, 5) }).link 0).hold.map (·.1) ≠ some 0 := by
  refine ⟨?_, by decide +kernel⟩
  simp only [List.forall_mem_cons, List.not_mem_nil, false_imp_iff, implies_true, and_true]
  refine ⟨?_, ?_, ?_⟩ <;> exact ⟨rfl, by decide +kernel, by decide +kernel⟩

/-! Regions of a task. -/
def rgnS (x a b : Word) (st : TaskState) (r : Region) : State :=
  { outS (telM 0 0 0) (flT x a b) with regions := [(0, r)], pages := [(0, Page.holding 0)], tasks := [task1 st []] }
theorem witness_RegionWords : ∀ p ∈ [(Instr.rgnPreempt (ops 0 1 2 0 0 0), wd 0x6F 0 0), (.rgnResume (ops 0 1 2 0 0 0), wd 0x6F 1 0),
      (.rgnRollback (ops 0 1 2 0 0 0), wd 0x6F 2 0), (.rgnQuiesce (ops 0 1 2 0 0 0), wd 0x6F 3 0), (.rgnAsid (ops 0 1 2 0 0 0), wd 0x6F 4 0)],
    ∀ st ∈ [TaskState.running, .preempted],
    (rgnS p.2 3 1 st Region.placed).Performing p.1 (flT p.2 3 1) ∧ (rgnS p.2 3 1 st Region.placed).rgnTurn (flT p.2 3 1) = true ∧
    (rgnS p.2 3 1 st Region.placed).task? 0 3 = some (task1 st []) ∧ (rgnS p.2 3 1 st Region.placed).resident (task1 st []) = some 0 := by
  simp only [List.forall_mem_cons, List.not_mem_nil, false_imp_iff, implies_true, and_true]
  repeat' apply And.intro
  all_goals decide +kernel
theorem witness_RegionWords_rollback :
    (let r := { Region.placed with quiet := 1, rollback := true, swept := true }
     Region.still r = true ∧ r.cutBad = false ∧ (rgnS 0 3 1 .preempted r).regionsOf (task1 .preempted []) = [r]) ∧
    Region.still { Region.placed with quiet := 1 } = true ∧ Region.placed.rollback = false ∧
    (rgnS 0 3 1 .preempted Region.placed).asidLive 0 1 = true ∧ (rgnS 0 4 1 .preempted Region.placed).task? 0 4 = none := by decide +kernel

/-! Statistics. -/
theorem witness_StatisticsWords :
    (elM (wd 0x6E 0 0) 1 2).pe? 0 0 ≠ none ∧ (elM 0 0 0).taken.statLevel (.elem 0 0 0 0) 0 = false ∧
    (let s := { elM 0 0 0 with ptns := [(0, { ptn0 with debug := 1 })] }
     s.taken.statLevel (.elem 0 0 0 0) 0 = true ∧ s.taken.statLevel (.elem 0 0 0 0) 1 = false ∧ s.taken.statCtr (.elem 0 0 0 0) 0 0 = some 0 ∧
     s.taken.statCtr (.elem 0 0 0 0) 0 255 = none) ∧
    (telM 0 0 0).taken.statLevel (.tel 0 0 0) 3 = true := by decide +kernel
def statEnt : List Byte := [0, 0, 1, 0, 0, 0x40, 0, 0] ++ leBytes 8 0x5000 ++ leBytes 16 1
/-- An entry for page 0 and the end of the list, at VA 0x1000. -/
def statS (x a b : Word) (st : TaskState) : State :=
  (rgnS x a b st Region.placed).store 0x1000 (statEnt ++ [0xFF, 0xFF] ++ leBytes 30 0)
theorem witness_StatisticsWords_cfg : ∀ st ∈ [TaskState.queued, .preempted, .running],
    (statS (wd 0x6E 1 0) 0x1000 3 st).Performing (.statCfg (ops 0 1 2 0 0 0)) (flT (wd 0x6E 1 0) 0x1000 3) ∧
    (statS (wd 0x6E 1 0) 0x1000 3 st).task? 0 3 = some (task1 st []) ∧
    (statS (wd 0x6E 1 0) 0x1000 4 st).task? 0 4 = none := by
  simp only [List.forall_mem_cons, List.not_mem_nil, false_imp_iff, implies_true, and_true]
  refine ⟨?_, ?_, ?_⟩ <;> repeat' apply And.intro
  all_goals decide +kernel
/-- An entry read, and with it the end of the list. -/
theorem witness_StatisticsWords_entries :
    (statList statEnt).length < 257 ∧ (∀ e ∈ statList statEnt, e ≠ none) ∧ (∃ e ∈ statList (statEnt ++ [0xFF, 0xFF] ++ leBytes 30 0), e = none) ∧
    statPages (statList (statEnt ++ [0xFF, 0xFF] ++ leBytes 30 0)) = [(0, ⟨1, 0x4000, 0x5000, 1, []⟩)] ∧
    (∀ b ∈ [statEnt, statEnt ++ [0xFF, 0xFF] ++ leBytes 30 0], let g := fed (flT (wd 0x6E 1 0) 0x1000 3) b
      (rgnS 0 0 0 .queued Region.placed).task? g.ptn g.sb.toNat = some (task1 .queued []) ∧ g.bytes = b ∧
      { rgnS 0 0 0 .queued Region.placed with flights := [g] }.Performing (.statCfg (ops 0 1 2 0 0 0)) g) := by
  refine ⟨by decide +kernel, by decide +kernel, ⟨none, by decide +kernel, rfl⟩, by decide +kernel, ?_⟩
  simp only [List.forall_mem_cons, List.not_mem_nil, false_imp_iff, implies_true, and_true]
  repeat' apply And.intro
  all_goals decide +kernel

/-! Traps and control registers. -/
def ctx0 : TCtx := ((telM 0 0 0).tctx? 0 0).getD TCtx.reset
/-- The context is in a trap already. -/
def inTrap (s : State) : State := s.modTctx 0 0 fun c => { c with tstat := 1 }
theorem witness_TrapEntry : (telM 0 0 0).tctx? 0 0 = some ctx0 ∧ ctx0.tstat.getLsbD 0 = false ∧ ctx0.tvec ≠ 0 ∧
    (∃ c, (inTrap (telM 0 0 0)).tctx? 0 0 = some c ∧ c.tstat.getLsbD 0 = true) ∧ (flT 0 0 0).who = .tel 0 0 0 ∧ (flT 0 0 0).accepted = true ∧
    Fires (telM (wd 0x7F 0 0) 5 0) (.sysTrap (ops 0 1 2 0 0 0)) g0 (.tel 0 0 0) (wd 0x7F 0 0) :=
  ⟨by decide +kernel, by decide +kernel, by decide +kernel, ⟨_, rfl, by decide +kernel⟩, rfl, rfl, fires_telM _ _ _ _ _ rfl⟩
theorem test_trap_cause : (match exec (.sysTrap (ops 0 1 2 0 0 0)) (telM (wd 0x7F 0 0) 5 0) with
    | .next t => (t.tctx? 0 0).map fun c => (c.cause, c.tval, c.epc, c.fpc, c.pc, c.tstat)
    | _ => none) = some (BitVec.ofNat 64 (31 * 2 ^ 11 + 5), 0, 8, 0, 0x1000, 1) := by decide +kernel
theorem witness_ControlRegisters_words : (telM 0 0 0).tctx? 0 0 = some ctx0 ∧ ctx0.ptn = some 0 ∧
    (∀ p ∈ [(Instr.sysEret (ops 0 1 2 0 0 0), wd 0x7F 1 0), (.sysCsrr (ops 0 1 2 0 0 0), wd 0x7F 2 0), (.sysCsrw (ops 0 1 2 0 0 0), wd 0x7F 3 0)],
      Fires (telM p.2 0x50 0) p.1 g0 (.tel 0 0 0) p.2) := by
  refine ⟨by decide +kernel, by decide +kernel, ?_⟩
  simp only [List.forall_mem_cons, List.not_mem_nil, false_imp_iff, implies_true, and_true]
  exact ⟨fires_telM _ _ _ _ _ rfl, fires_telM _ _ _ _ _ rfl, fires_telM _ _ _ _ _ rfl⟩
theorem witness_ControlRegisters_words_csrw : ((telM 0 0 0).taken.csrRead 0 0 0x060).toOption = some 0 ∧ (telM 0 0 0).taken.csrDeny 0 0 0x060 64 = none ∧
    csrStep 0 0 0x060 64 = some (.csrPtillWrite 0 0 64) ∧ ((telM 0 0 0).taken.csrRead 0 0 0x002).toOption = some 0 := by
  refine ⟨by decide +kernel, by decide +kernel, rfl, by decide +kernel⟩
theorem witness_ControlRegisters_events : (telM 0 0 0).ownsAsid 0 0 = true ∧ (telM 0 0 0).ownsAsid 0 1 = true ∧ (telM 0 0 0).ownsAsid 0 2 = false ∧
    (telM 0 0 0).ownsAsid 0 ctx0.asidSel = true ∧ (∃ k, (telM 0 0 0).tctx? 0 3 = some k ∧ k.ptn ≠ some 0) ∧
    ((telM 0 0 0).ptn? 0).map (·.res.keySlot) = some 0 := by
  refine ⟨by decide +kernel, by decide +kernel, by decide +kernel, by decide +kernel, ⟨_, rfl, by decide +kernel⟩, by decide +kernel⟩

/-! The mailbox, pages and translations. -/
theorem witness_MailboxAndPageWords_fire :
    (telM 0 0 65536).taken.telAddr (.tel 0 0 0) 0 65536 .store false = none ∧ (telM 0 0 65536).taken.telAddr (.tel 0 0 0) 0 (65536 + 65536) .store false = none ∧
    (telM 0 0 0).ownsAsid 0 (((telM (wd 0x7F 7 0) 1 0).jobOf (.tel 0 0 0) (wd 0x7F 7 0)).sa.toNat) = true ∧
    (telM 0 0 0).ownsAsid 0 (((telM (wd 0x7F 7 0) 2 0).jobOf (.tel 0 0 0) (wd 0x7F 7 0)).sa.toNat) = false := by decide +kernel
/-- Page 0 of the pre-empted task 3. -/
def pgS (x a b : Word) (st : TaskState) : State := rgnS x a b st { Region.placed with lseq := 3 }
theorem witness_MailboxAndPageWords_save : (pgS (wd 0x7F 5 0) 0 65536 .preempted).Performing (.sysPgsv (ops 0 1 2 0 0 0)) (flT (wd 0x7F 5 0) 0 65536) ∧
    (pgS (wd 0x7F 5 0) 0 65536 .preempted).mayIssue (flT (wd 0x7F 5 0) 0 65536) = true ∧
    frameSel 0 = some (0, 0) ∧ (pgS 0 0 0 .preempted).page? 0 = some (Page.holding 0) ∧ (pgS 0 0 0 .preempted).regionOf 0 = some { Region.placed with lseq := 3 } ∧
    (((pgS 0 0 0 .preempted).taskOfRegion { Region.placed with lseq := 3 }).map fun (k : Machine.Task) => k.st == .preempted) = some true :=
  ⟨⟨rfl, by decide +kernel, by decide +kernel⟩, by decide +kernel⟩
theorem witness_MailboxAndPageWords_tlbi :
    (pgS (wd 0x7F 7 0) 1 0 .running).Performing (.sysTlbi (ops 0 1 2 0 0 0)) (flT (wd 0x7F 7 0) 1 0) ∧
    (pgS (wd 0x7F 7 0) 1 0 .running).memBefore (flT (wd 0x7F 7 0) 1 0) = 0 ∧
    ({ pgS 0 1 0 .running with flights := [{ flT (wd 0x58 0 3) 0 0 with fid := 1 }, flT (wd 0x7F 7 0) 1 0] }).memBefore (flT (wd 0x7F 7 0) 1 0) ≠ 0 ∧
    (∃ z, ((pgS 0 1 0 .running).dropTlbs 1 (BitVec.allOnes 64)).tellers[0]? = some z) :=
  ⟨⟨rfl, by decide +kernel, by decide +kernel⟩, by decide +kernel, by decide +kernel, _, rfl⟩

/-! ## Witnesses of the events -/

/-- The machine of `elM` with an edited page, PE0, or region. -/
def withPage (f : Page → Page) (s : State) : State := s.modPage 0 f
def withPe (f : Pe → Pe) (s : State) : State := s.modPe 0 0 f
def idle : State := { elM 0 0 0 with issue := none }
def coordTok (c : Nat) : Tok := ⟨tagData, BitVec.ofNat 512 (c * 2 ^ 32)⟩

theorem witness_FabricAndTellerEvents_fire : ({ elM (wd 0x01 0 3) 1 2 with issue := none }).arbiterPick 0 0 = some 0 := by decide +kernel
theorem witness_FabricAndTellerEvents_writeBack : ∃ f : Flight, (outS idle f).flight? f.fid = some f ∧ f.due = some 0 ∧ 0 ≤ (outS idle f).fc ∧
    (outS idle f).mayPublish f = true := ⟨{ flE 0 0 0 with due := some 0 }, rfl, rfl, Nat.zero_le _, by decide +kernel⟩
theorem witness_MergeAndMarkerWords_writeBack : ∃ f : Flight, (outS idle f).flight? f.fid = some f ∧ f.who = .elem 0 0 0 0 ∧
    opcOf f.word = 0x1E ∧ f.due = some 0 ∧ 0 ≤ (outS idle f).fc ∧ (outS idle f).mayPublish f = true :=
  ⟨{ flE (wd 0x1E 0 0) 0 0 with due := some 0 }, rfl, by decide +kernel, by decide +kernel, rfl, Nat.zero_le _, by decide +kernel⟩
theorem witness_FabricAndTellerEvents_advance : (merging 0 dataTok dataTok).flowing 0 = true := by decide +kernel

/-- An egress of page 0 and the ingress of page 2 on edge 5, with a token at the egress. -/
def farS (toks : List (Option Tok)) : State :=
  let eg : Route := { route 0 [none, some dataTok] with src := epPe 0 0, dst := 0xFFFF, viaRouter := true, edge := some 5 }
  let ing : Route := { route 0 toks with src := 0xFFFF, viaRouter := true, edge := some 5 }
  { idle with pages := [(0, { Page.holding 0 with routes := [eg] }), (2, { Page.holding 0 with routes := [ing] })]
              regions := [(0, { Region.placed with edges := [⟨5, 0, 0, 1, 0, 2, 10, 0, 0⟩], pages := [some 0, some 2] })]
              ptns := [(0, { ptn0 with res := { res0 with slots := [0] } })] }
theorem witness_FabricAndTellerEvents_egress : (farS (List.replicate 5 none)).flowing 0 = true ∧ (farS (List.replicate 5 none)).slotMine 0 0 = true ∧
    (farS (List.replicate 5 none)).farRoute ((farS (List.replicate 5 none)).page? 0 |>.getD (Page.holding 0))
      { route 0 [none, some dataTok] with src := epPe 0 0, dst := 0xFFFF, viaRouter := true, edge := some 5 } = some (2, 0) ∧
    (farS (List.replicate 5 none)).onTheWay 2 0 = 0 ∧ packTokens 4 [some dataTok, none] = [dataTok] := by decide +kernel
theorem witness_FabricAndTellerEvents_ingress :
    let k : Packet := ⟨9, 2, 0, [dataTok], 0⟩
    let s := { farS (List.replicate 5 none) with packets := [k] }
    s.packets.find? (fun q => q.pk = 9) = some k ∧ s.fc ≥ k.due ∧ (s.packets.find? fun q => q.pg = 2 ∧ q.rt = 0) = some k ∧
    (((s.page? 2).bind fun d => d.routes[0]?).map Route.outFree) = some true := by decide +kernel
/-- The intersection unit of PE0 with a head at each of its ports. -/
def isectS (a b : Tok) : State := withPe (fun e => { e with isectOn := true }) (merging 0 a b)
theorem witness_FabricAndTellerEvents_isect : ∀ p ∈ [(coordTok 1, coordTok 2), (coordTok 2, coordTok 1), (coordTok 2, coordTok 2), (coordTok 1, ⟨1, 0⟩), (⟨1, 0⟩, ⟨2, 0⟩)],
    (∃ pg e, (isectS p.1 p.2).page? 0 = some pg ∧ (isectS p.1 p.2).pe? 0 0 = some e ∧ e.isectOn = true ∧ e.live.isectUp = 0 ∧ e.stopped = false ∧
      pg.headAt (epPe 0 0) = some p.1 ∧ pg.headAt (epPe 0 1) = some p.2 ∧
      (p.1.descends (e.live.isect[0]?).join = false ∧ p.2.descends (e.live.isect[1]?).join = false)) ∧
    (isectS p.1 p.2).running 0 = true := by
  simp only [List.forall_mem_cons, List.not_mem_nil, false_imp_iff, implies_true, and_true]
  repeat' apply And.intro
  all_goals
    first
      | exact ⟨_, _, rfl, rfl, by decide +kernel⟩
      | decide +kernel
theorem test_isect_lower_dropped : (match exec (.isectPresent 0 0) (isectS (coordTok 1) (coordTok 2)) with
    | .next t => (t.pe? 0 0).map fun e => (e.live.isectUp, e.live.isect)
    | _ => none) = some (0, [some 1, none]) ∧ (match exec (.isectPresent 0 0) (isectS (coordTok 2) (coordTok 2)) with
    | .next t => (t.pe? 0 0).map fun e => (e.live.isectUp, e.live.isect)
    | _ => none) = some (3, [some 2, some 2]) := by decide +kernel
/-- A pulse for predicate 3 of context 0 at control in port 1. -/
def pulseS (q : Tri) : State := ((withPe (fun e => { e with pbind := e.pbind.set 1 (some (0, 3)) }) idle).modCtx 0 0 0 fun c => { c with p := c.p.set 3 q }).modPage 0 fun p =>
  { p with routes := [{ route 1 [none, some dataTok] with net := 3 }] }
theorem witness_FabricAndTellerEvents_pulse : ∀ q ∈ [Tri.ff, .tt, .pend], ((pulseS q).page? 0).map (·.pulseAt 0 1) = some (some 0) ∧
    ((pulseS q).pe? 0 0).map (fun e => (e.pbind[1]?).join) = some (some (0, 3)) ∧ ((pulseS q).ctx? 0 0 0).map (·.p.getD 3 .pend) = some q := by decide +kernel
/-- PE0 with in ports on network 2, its heads as given. -/
def portsS (a b : Tok) : State := withPe (fun e => { e with ports := (e.ports.set 0 ⟨10, 2⟩).set 1 ⟨10, 2⟩ }) (merging 0 a b)
theorem witness_FabricAndTellerEvents_markers : (portsS (marker tagDrain) dataTok).running 0 = true ∧
    ((portsS (marker tagDrain) dataTok).page? 0).map (·.tagAt 0 0) = some (some tagDrain) ∧
    (portsS (ctlTok 3 (2 ^ 48)) dataTok).markerAt 0 0 0 3 = some (ctlTok 3 (2 ^ 48)) ∧
    (portsS (ctlTok 4 5) dataTok).markerAt 0 0 0 4 = some (ctlTok 4 5) := by decide +kernel

/-! A teller's turn: a running context whose fetch buffer holds the line of its PC. -/
def turnS (x : Word) : State := (State.reset.withFetchWord 64 x.toNat)
theorem witness_FabricAndTellerEvents_teller_fire : (turnS 0).telPick 0 = some (0, .fire 0) := by decide +kernel
/-- A context whose guard is false, whose word is defective, or whose line has not come. -/
theorem witness_FabricAndTellerEvents_teller_others : (turnS (packR 0x01 0 { ops 0 1 2 0 0 3 with g := { g0 with pm := 1, pv := 1 } })).telPick 0 =
      some (0, .skip (packR 0x01 0 { ops 0 1 2 0 0 3 with g := { g0 with pm := 1, pv := 1 } })) ∧
    (turnS (BitVec.ofNat 64 (0x16 * 2 ^ 27))).telPick 0 = some (0, .fault { cls := clsIllegal, code := 1 } (BitVec.ofNat 64 (0x16 * 2 ^ 27))) := by
  decide +kernel
theorem witness_FabricAndTellerEvents_teller_line : (∃ c, ((mapped (telS 0 [])).modTctx 0 0 fun c => { c with fetch := [0x40] }).tctx? 0 0 = some c ∧ c.fetch.contains 0x40 = true) ∧
    (((mapped (telS 0 [])).readRec (Port.tel 0).die 0 none 0x40 64).toOption).isSome = true ∧
    (((mapped (telS 0 [])).readRec (Port.tel 0).die 0 none (2 ^ 40) 64).toOption).isNone = true := by
  refine ⟨⟨_, rfl, by decide +kernel⟩, by decide +kernel, by decide +kernel⟩
theorem witness_FabricAndTellerEvents_teller_late : ∃ f : Flight, (outS (telM 0 0 0) f).flight? f.fid = some f ∧ f.late = some (clsAlign * 2 ^ 11 + 1, 0, 5) :=
  ⟨{ flT 0 0 0 with late := some (clsAlign * 2 ^ 11 + 1, 0, 5) }, rfl, rfl⟩

/-! Units of a page. -/
theorem witness_UnitEvents_snap :
    let s := portsS (marker tagSnap) (marker tagSnap)
    (∃ p e, s.page? 0 = some p ∧ s.pe? 0 0 = some e ∧ p.snapReady 0 e = true ∧ s.snapMay 0 e.ival = true ∧ s.running 0 = true) :=
  ⟨_, _, rfl, rfl, by decide +kernel⟩
theorem witness_UnitEvents_drain :
    let s := { portsS (marker tagDrain) (marker tagDrain) with issue := none }
    (∃ p e, s.page? 0 = some p ∧ s.pe? 0 0 = some e ∧ e.drained = false ∧ p.drainReady 0 e = true ∧ s.elemQuiet 0 0 = true ∧
      (∀ c ∈ e.live.ctxs, c.withheld = false)) := ⟨_, _, rfl, rfl, by decide +kernel⟩
/-- A token at the head of tenant 0's in port. -/
def mtxS (t : Tok) : State := withRoutes [{ route 0 [some t] with dst := epMtx 0 }] idle
theorem witness_UnitEvents_tenant : ∀ t ∈ [marker tagSnap, marker tagDrain], (∃ p x r, (mtxS t).page? 0 = some p ∧ (mtxS t).ten? 0 0 = some x ∧
    p.inRoute (epMtx 0) = some r ∧ p.headAt (epMtx 0) = some t ∧ x.drv.isSome = true ∧ x.atStep = true ∧ (mtxS t).snapMay 0 x.ival = true ∧ x.q = []) ∧
    (mtxS t).running 0 = true := by
  simp only [List.forall_mem_cons, List.not_mem_nil, false_imp_iff, implies_true, and_true]
  repeat' apply And.intro
  all_goals
    first
      | exact ⟨_, _, _, rfl, rfl, rfl, by decide +kernel, by decide +kernel, by decide +kernel, by decide +kernel, rfl⟩
      | decide +kernel

/-- The graph of one in lane, bound to port 0, and one whose width is 2 bits. -/
def bound1 (w : Word) (pipe : List (Tok × Nat)) : Graph :=
  { Graph.fresh 0 [w] with inb := 0x80 :: List.replicate 15 0, bound := true, pipe := pipe }
def safS (w : Word) (t : Tok) (pipe : List (Tok × Nat)) : State :=
  withPage (fun p => { p with saf := { p.saf with graphs := [bound1 w pipe] }, routes := [{ route 0 [some t] with dst := epSaf 0, ty := 0 }] }) idle
theorem witness_UnitEvents_graph : ∀ t ∈ [marker tagSnap, marker tagDrain, dataTok, ⟨1, 1⟩, headerTok 2 false none 4 10 0 8, ctlTok 3 0, ctlTok 4 0, companion true 0 0],
    (safS node1 t []).graph? 0 0 = some (bound1 node1 []) ∧ ((safS node1 t []).page? 0).map (·.headAt (bound1 node1 []).inEp) = some (some t) ∧
    ((safS node1 t []).page? 0).map (fun p => (safS node1 t []).safOpen 0 p (bound1 node1 [])) = some true ∧
    ((safS node1 t []).page? 0).map (·.outFree false (bound1 node1 []).outEp) = some true ∧ (safS node1 t []).snapMay 0 0 = true := by decide +kernel
theorem witness_UnitEvents_slices : (bound1 node1 []).badInput 0 (BitVec.ofNat 512 127) = none ∧
    (bound1 0x4000000080000000 []).badInput 0 (BitVec.ofNat 512 2) = some (0, 2) ∧ (bound1 0x4000000080000000 []).badInput 0 (BitVec.ofNat 512 1) = none ∧
    (headerTok 2 false none 4 10 0 8).kind = 1 ∧ (ctlTok 3 0).kind = 3 ∧ (ctlTok 4 0).kind = 4 ∧ (companion true 0 0).kind ∉ [1, 3, 4] := by decide +kernel
theorem witness_UnitEvents_pipe : (safS node1 dataTok [(dataTok, 1)]).graph? 0 0 = some (bound1 node1 [(dataTok, 1)]) ∧
    (safS node1 dataTok [(dataTok, 2)]).graph? 0 0 = some (bound1 node1 [(dataTok, 0 + 2)]) := by decide +kernel
/-- An `MMA` of tenant 0 whose rows are all there, at step `k` of 32. -/
def mmaS (k : Nat) : State := { headS (wd 0x46 1 10) 0 0 z32 tri with flights := [{ flE (wd 0x46 1 10) 0 0 with stage := 2 }] }.modTen 0 0 fun t =>
  { t with run := some ⟨7, none, [], some 2, k, 32, [], false⟩ }
theorem witness_UnitEvents_engine : (mmaS 0).engineReady 0 0 = true ∧ (mmaS 0).engineReady 0 1 = false ∧
    ((mmaS 5).ten? 0 0).map (fun t => t.run.map fun r => (r.ct.isSome, r.step % 16)) = some (some (true, 5)) ∧
    ((mmaS 16).ten? 0 0).map (fun t => t.run.map fun r => r.step % 16) = some (some 0) := by decide +kernel
/-- A region that walks the arm records at VA 0x1000, the first one of page 0's tenant 0, with 9 tiles. -/
def armS (ix : Nat) (rec : List Byte) : State :=
  ({ idle with regions := [(0, { Region.placed with armAddr := 0x1000, armIx := ix, imgs := [(0, 0, 0xFF)] })] }).store (0x1000 + 16 * ix) rec
theorem witness_UnitEvents_arm : ∀ p ∈ [(0, [0, 0, 0, 0, 9, 0, 0, 0], true), (63, [0, 0, 0, 3, 9, 0, 0, 0], true), (0, [1, 0, 0, 0, 9, 0, 0, 0], false), (0, [0, 0, 0, 4, 9, 0, 0, 0], false)],
    let s := armS p.1 (p.2.1 ++ leBytes 8 0)
    let r := { Region.placed with armAddr := 0x1000, armIx := p.1, imgs := [(0, 0, 0xFF)] }
    s.region? 0 = some r ∧ r.armEnd = false ∧ (s.readRec 0 0 none (0x1000 + 16 * p.1) 16).toOption.map (·.1) = some (p.2.1 ++ leBytes 8 0) ∧
    s.armGood r (p.2.1 ++ leBytes 8 0) = p.2.2 ∧ s.armExpired r = true ∧ r.pages.getD 0 none = some 0 ∧ ((s.ten? 0 0).map fun x => x.left.getD 0) = some 0 := by
  decide +kernel

/-! The scheduler, the mint and sequences. -/
/-- Region 0 of task 3 while the mint writes page 0 of it, into frame 0. -/
def loadS (addr : Nat) (loaded : Nat) : State :=
  { (idle.modDie 0 fun d => { d with mint := some (0, 0, false, 0) }) with
    pages := [], regions := [(0, { Region.placed with st := .loading, lseq := 3, imgs := [(addr, 0, 0xFF)], pages := [none], loaded := loaded })]
    tasks := [{ task1 .running [] with frames := [0] }] }
theorem witness_SchedulerAndMintEvents_start :
    (let s := ((taskS 0 0 0 [{ task1 .queued [] with steps := [0x4000] }]).modDie 0 fun d => { d with lq := d.lq.set 0 [⟨0, 3, 0, 0⟩] })
     ({ s with pages := [] }).pickStart 0 (({ s with pages := [] }).headOrder 0) [] none).isSome = true := by decide +kernel
theorem witness_SchedulerAndMintEvents_none : idle.pickStart 0 (idle.headOrder 0) [] none = none := by decide +kernel
theorem witness_SchedulerAndMintEvents_load :
    ((loadS 0x10000 0).die 0).mint = some (0, 0, false, 0) ∧ ((loadS 0x10000 0).region? 0).map (·.st) = some .loading ∧
    ((loadS (2 ^ 40) 0).mintFree 0 |>.readImage 0 0 (2 ^ 40)).toOption = none := by decide +kernel
theorem witness_SchedulerAndMintEvents_image : ∃ img, ((loadS 0x100000 0).mintFree 0).readImage 0 0 0x100000 = .ok img :=
  readImage_low _ (by decide +kernel) (by decide +kernel) rfl (by decide +kernel) _ (by decide)
theorem witness_SchedulerAndMintEvents_frame : ((loadS 0x10000 0).region? 0).map (fun r => (loadS 0x10000 0).frameFor r 0) = some (some 0) := by decide +kernel
theorem witness_SchedulerAndMintEvents_arm : ((loadS 0x10000 1).region? 0).map (fun r => (r.imgs.length, r.loaded, (loadS 0x10000 1).ownerClash r)) = some (1, 1, none) := by
  decide +kernel

/-- Step 0 of two runs in region 0, in frame 0; page 0 of step 1 is being filled. -/
def seq1 (n : Nat) : Machine.Task := { task1 .running [0x4000, 0x4000] with frames := [0], fill := some (1, n, 0), asid := 0 }
def seqS (n : Nat) : State :=
  let s := (idle.store 0x4000 rdesc1).modDie 0 fun d => { d with mint := some (0, 0, true, 0) }
  { s with regions := [(0, { Region.placed with lseq := 3, pages := [], imgs := [(0x8000, 0, 0xFF)], drain := true })], tasks := [seq1 n] }
theorem witness_SchedulerAndMintEvents_fill : ((seqS 0).mintFree 0).readRegion 0 0 0x4000 = some (rdescOf rdesc1) ∧
    ((seqS 0).region? 0).map (fun r => ((seqS 0).taskOfRegion r).map fun (k : Machine.Task) => (k.fill, k.nextStep)) = some (some (some (1, 0, 0), 1)) ∧
    ((seqS 0).mintFree 0).frameFor (Region.make 0 0 3 0 0 0x4000 (rdescOf rdesc1) (seq1 0).trec 1) 0 = some 0 := by decide +kernel
theorem witness_SchedulerAndMintEvents_fillImage : ∃ img, ((seqS 0).mintFree 0).readImage 0 0 ((rdescOf rdesc1).imgs.getD 0 (0, 0, 0)).1 = .ok img :=
  readImage_low _ (by decide +kernel) (by decide +kernel) rfl (by decide +kernel) _ (by decide +kernel)
theorem witness_SchedulerAndMintEvents_swap : (seq1 1).goesOn = true ∧ (seqS 1).taskDrained (seq1 1) = true ∧ (seq1 1).wraps = false ∧
    (seqS 1).shadowReady (seq1 1) = true ∧ (seqS 0).shadowReady (seq1 0) = false ∧
    { seq1 1 with trec := { (seq1 1).trec with ts := tsFree - 4 } }.wraps = true := by decide +kernel

/-! Steal requests: the victim is instance 1, the asker instance 0 by `STEAL` or `GET`. -/
theorem witness_RangeWordsAndSteals_serve : ∀ p ∈ [(Instr.rangeGet (ops 0 1 2 0 0 0), wd 0x7A 0 0), (.rangeSteal (ops 0 1 2 0 0 0), wd 0x7A 1 0)],
    ∀ v ∈ [inst 1 2 4 [(7, 0)], inst 1 3 4 [(7, 0)]],
    (rangeS p.2 1 (inst 0 0 0 []) v).region? 1 = some v ∧ (rangeS p.2 1 (inst 0 0 0 []) v).nextSteal v = some (7, 0) ∧
    (rangeS p.2 1 (inst 0 0 0 []) v).flight? 7 = some (flE p.2 1 0) ∧ (rangeS p.2 1 (inst 0 0 0 []) v).instanceAt v 0 = some (inst 0 0 0 []) ∧
    encode p.1 = some p.2 := by
  simp only [List.forall_mem_cons, List.not_mem_nil, false_imp_iff, implies_true, and_true]
  refine ⟨⟨?_, ?_⟩, ?_, ?_⟩ <;> exact ⟨by decide +kernel, by decide +kernel, rfl, by decide +kernel, by decide +kernel⟩

/-! The streams' own steps. -/
theorem witness_StreamAndRecordEvents_stream_runs : (strS 0 (openS true 1)).streamRuns 0 0 = true ∧ (strS 0 { openS true 1 with withheld := true }).streamRuns 0 0 = false ∧
    ((strS 0 (openS true 1)).regionOf 0).map (·.st) = some .armed ∧ ((strS 0 (openS true 1)).page? 0).map (·.outFree false (epMe 0 0)) = some true ∧
    (strS 0 (openS true 1)).snapMay 0 0 = true := by decide +kernel
/-- A shaped stream that reads its header, or its first window, and what it has read of it. -/
def shaped (cap : Option ShapeHdr) (hdrAt winAt : Option Nat) (recs : List (Nat × Nat × List Byte)) : Machine.Stream :=
  { openS true 0 with desc := { (openS true 0).desc with shape := 0x1000 }, hdrAt := hdrAt, winAt := winAt, cap := cap, recs := recs }
theorem witness_StreamAndRecordEvents_stream_header : ∀ b ∈ [rec1.take 32, (rec1.take 32).set 0 0],
    (let m := shaped none (some 1) none [(0, 0, b)]
     m.hdrAt = some 1 ∧ m.desc.shape ≠ 0 ∧ m.cap = none ∧ piecesOf m.desc.shape 32 (m.got 0) = some b) ∧
    hdrBad (rec1.take 32) = none ∧ hdrBad ((rec1.take 32).set 0 0) = some 0 ∧
    piecesOf 0x1000 32 ((shaped none (some 1) none []).got 0) = none := by decide +kernel
theorem witness_StreamAndRecordEvents_stream_window : ∀ b ∈ [rec1.drop 32, (rec1.set 32 1).drop 32],
    (let m := shaped (some shape1.hdr) none (some 8) [(1, 0, b)]
     m.nextWin shape1.hdr = (0x1020, 0, 24) ∧ piecesOf 0x1020 24 (m.got 1) = some b ∧ 8 - 8 ≤ idle.fc ∧
     m.win.getLast? = none) ∧ 4 - winReads shape1.hdr 0 = 3 ∧ piecesOf 0x1020 24 ((shaped (some shape1.hdr) none (some 8) []).got 1) = none ∧
    (windowOf shape1.hdr 0x1000 0 (rec1.drop 32) none none).toOption = some shape1.bnd ∧
    (windowOf shape1.hdr 0x1000 0 ((rec1.set 32 1).drop 32) none none).toOption = none := by decide +kernel
/-- A store stream of 3 rows at row `n`, with a token at its head. -/
def sinkS (n : Nat) (t : Tok) : State :=
  withStream { openS true n with desc := { (openS true n).desc with flags := 2 } } (withRoutes [{ route 0 [some t] with dst := epMe 0 0 }] idle)
theorem witness_StreamAndRecordEvents_stream_store : ∀ n ∈ [2, 3], ∀ t ∈ [marker tagSnap, marker tagDrain, headerTok 2 false none 4 10 0 8, ctlTok 3 0, ctlTok 4 0, dataTok],
    ((sinkS n t).page? 0).map (·.headAt (epMe 0 0)) = some (some t) ∧ (sinkS n t).streamRuns 0 0 = true ∧
    ((sinkS n t).stream? 0 0).map (fun m => (m.valid, m.desc.isStore, m.todo.isEmpty, m.desc.shape, (m.desc.eff m.cap (m.desc.xf Me.absent)).rows)) = some (true, true, true, 0, 3) := by
  decide +kernel

/-! Records. -/
/-- A window of `shape1` is read again: what has come of it, for a waiting instruction or none. -/
def refilled (fid : Option Nat) (got : List (Nat × List Byte)) : Shape :=
  { shape1 with refill := some ⟨0, .elem 0 0 0 0, 0, fid, none, 5, 0, got⟩ }
def refillS (sh : Shape) : State := withShape sh (outS idle (flE (packR 0x60 0 (ops 16 1 0 0 0 8)) 0x2000 0))
theorem witness_StreamAndRecordEvents_record_refill : ∀ fid ∈ [none, some 7], ∀ b ∈ [rec1.drop 32, (rec1.set 32 1).drop 32],
    (let s := refillS (refilled fid [(0, b)])
     (s.refillAsk 0 0).shape? 0 0 = some (refilled fid [(0, b)]) ∧ piecesOf 0x1020 24 [(0, b)] = some b ∧ (s.refillAsk 0 0).fc = 0 ∧
     ((s.refillAsk 0 0).flight? 7).isSome) ∧
    (refillS (refilled fid [])).refillAsk 0 0 = refillS (refilled fid []) := by decide +kernel
theorem witness_StreamAndRecordEvents_record_through :
    let t : Through := ⟨0x100C, 4, 40, 0, 5, flE (shD 0x51) 4 40, false⟩
    let s := refillS { shape1 with through := [t] }
    s.shape? 0 0 = some { shape1 with through := [t] } ∧ ([t].find? fun x => !x.sent) = some t ∧ s.pageStored 0 5 = true ∧
    s.portRoom (s.shapePort 0) (.through 0 0 5) 1 = true ∧
    (s.ask (.through 0 0 5) (s.shapePort 0) 0 ⟨0x100C, 4, some (leBytes 4 40, List.replicate 4 0xFF)⟩ none 0 0).toOption.isSome = true := by
  decide +kernel
/-- Tenant 0 (unit 20) has ended a tile it has not told; page 0 collects from every source. -/
def countS : State := withPage (fun p => { p with stat := some ⟨0xFFFF, 0x4000, 0x5000, 1, []⟩, mtx := { p.mtx with tens := p.mtx.tens.modify 0 fun t => { t with tiles := 1, cnts := [1, 0, 0, 0, 2] } } }) idle
theorem witness_StreamAndRecordEvents_record_counts : (countS.page? 0).map (fun p => (p.owesCounts 20, (p.stat.map fun z => z.mask.testBit (unitGroup 20)))) = some (true, some true) := by
  decide +kernel
/-- So have a stream of ME0 and a graph of page 0, with an event counted in the tile. -/
theorem witness_StreamAndRecordEvents_record_streams :
    ((withPage (fun p => { p with stat := some ⟨0xFFFF, 0x4000, 0x5000, 1, []⟩, mes := p.mes.modify 0 fun m => { m with streams := m.streams.modify 0 fun x => { x with valid := true, cur := { x.cur with pos := 1 }, cnts := [(0, [1, 0, 0, 0, 0]), (1, [2, 0, 0, 0, 0])] } } }) idle).page? 0).map (fun p => (p.owesCounts 16, p.unitCnts 16)) = some (true, [1, 0, 0, 0, 0]) ∧
    ((withPage (fun p => { p with stat := some ⟨0xFFFF, 0x4000, 0x5000, 1, []⟩, saf := { p.saf with graphs := [{ bound1 node1 [] with tiles := 1, cnts := [(0, [0, 0, 0, 0, 3])] }] } }) idle).page? 0).map (fun p => (p.owesCounts 22, p.unitCnts 22)) = some (true, [0, 0, 0, 0, 3]) := by
  decide +kernel
/-- Every unit of page 0 has told tile 0. -/
def toldS : State := withPage (fun p => { p with stat := some ⟨0xFFFF, 0x4000, 0x5000, 1, [⟨0, (List.range 23).map fun u => (u, [1, 0, 0, 0, 2]), false⟩]⟩ })
  { idle with regions := [(0, { Region.placed with ordered := false })] }
theorem witness_StreamAndRecordEvents_record_record : (toldS.page? 0).map (fun p => (p.stat.map fun z => (z.tiles.find? (p.recordDue z)).isSome)) = some (some true) ∧
    (match toldS.walk 0 0 0x5000 with
      | .ok e => toldS.accessFault (some (0, 0)) e .store false 0x5000 == none
      | _ => false) = true := by decide +kernel

/-! Memory. -/
/-- A load of the element's flight 7, to a vault bank, to HBM, or not yet translated. -/
def req (va : Nat) (pa : Option Nat) : Req := ⟨3, .flight 7 0, .me 0 0, 0, va, pa, 0xC3, 8, none, 0, none, 0, 0, false, pa.isNone⟩
def reqS (r : Req) : State := { outS idle (flE (wd 0x58 0 3) 0 0) with reqs := [r] }
theorem witness_MemoryEvents_access :
    pickPort ((alGet 0 ((reqS (req (2 ^ 30) (some vaultKey))).die 0).bankRR).getD (2 ^ 15 - 1)) ((reqS (req (2 ^ 30) (some vaultKey))).bankReady 0 0) = some (req (2 ^ 30) (some vaultKey)) ∧
    (reqS (req (2 ^ 30) (some vaultKey))).bankFree 0 0 = true ∧
    (({ reqS (req (2 ^ 30) (some vaultKey)) with fc := 4 }).modDie 0 fun d => { d with bankAt := [(0, 5)] }).bankFree 0 0 = false ∧
    (reqS (req 0x1000 (some 0x1000))).reqFree (req 0x1000 (some 0x1000)) = true ∧ (0x1000 : Nat) < vaultKey ∧
    (reqS (req 0x1000 (some 0x1000))).gateOpen (req 0x1000 (some 0x1000)) = true ∧ (reqS (req 0x1000 (some 0x1000))).hbmFree 0x1000 = true := by
  decide +kernel
theorem witness_MemoryEvents_walk : ((reqS (req 0x1000 none)).walk 0 0 0x1000).toOption.isSome = true ∧ ((reqS (req (2 ^ 40) none)).walk 0 0 (2 ^ 40)).toOption.isNone = true ∧
    (match (reqS (req 0x1000 none)).walk 0 0 0x1000 with
      | .ok e => ((({ reqS (req 0x1000 none) with reqs := [] }).setTlb (.me 0 0) (.flight 7 0) e).place (req 0x1000 none) e).toOption.isSome
      | _ => false) = true ∧
    (let st := { req (2 ^ 30) none with data := some ([1], [0xFF]), len := 1 }
     match (reqS st).walk 0 0 (2 ^ 30) with
      | .ok e => ((({ reqS st with reqs := [] }).setTlb (.me 0 0) (.flight 7 0) e).place st e).toOption.isNone
      | _ => false) = true := by decide +kernel
/-- An `AUPD.ADD` of flight 7 for the vault word at 2^30, owned by ME0 of page 0 with `n` updates waiting. -/
def updW : Upd := ⟨5, 7, 0, 0, 0x68, 0, 3, vaultKey, 9, 0, 0, 0, 0⟩
def ownS (n : Nat) : State := withPage (fun p => { p with mes := p.mes.modify 0 fun m =>
  { m with present := true, ownOn := true, armed := true, ownBase := 0, ownLen := 64, ownq := List.replicate n updW } })
  { outS idle (flE (wd 0x68 0 3) (2 ^ 30) 9) with upds := [updW] }
theorem witness_MemoryEvents_update : (ownS 15).ownerOf vaultKey = some (0, 0) ∧ ({ outS idle (flE 0 0 0) with upds := [updW] }).ownerOf vaultKey = none ∧
    ((ownS 15).me? 0 0).map (·.ownq.length) = some 15 ∧ ((ownS 16).me? 0 0).map (·.ownq.length) = some 16 ∧
    (∀ n ∈ [0, 1], ((ownS n).me? 0 0).map (fun m => (m.ownRun, m.ownq.find? fun v => !(ownS n).appWaits v)) = some ([], if n = 0 then none else some updW)) ∧
    (ownS 1).portRoom (.me 0 0) (.upd 0 0 5) 1 = true ∧ ({ ownS 1 with reqs := List.replicate 8 (req 0 none) }).portRoom (.me 0 0) (.upd 0 0 5) 1 = false ∧
    (let s := (ownS 0).modMe 0 0 fun m => { m with ownRun := [updW] }
     (s.me? 0 0).bind (fun m => m.ownRun.head?) = some updW ∧ s.updAsked updW = false ∧ s.poisoned vaultKey = false ∧
     ((s.modMe 0 0 fun m => { m with ownRun := [], ownFc := 1 }).logUndo (.me 0 0) 0 vaultKey).isSome = true) := by decide +kernel
theorem witness_MemoryEvents_latch : ∃ p q, (merging 0 dataTok dataTok).page? 0 = some p ∧ p.routes[0]? = some q ∧ q.net ≠ 3 ∧ q.latches[0]? = some (some dataTok) :=
  ⟨_, _, rfl, rfl, by decide +kernel, rfl⟩
theorem witness_MemoryEvents_corrected : ∃ d n, idle.dies[0]? = some d ∧ d.corr[0]? = some n := ⟨_, _, rfl, rfl⟩

/-! Messages, permits and groups. -/
def msg (va : Nat) : Msg := ⟨4, 0, 0, 0, va, [1, 0, 0, 0], some 1, 0xFFFE, 0, 0⟩
def msgS (m : Msg) : State := { tillS idle with msgs := [m] }
theorem witness_MessageAndGroupEvents_till : (msgS (msg (2 ^ 30))).msgs.find? (fun x => x.mid = 4) = some (msg (2 ^ 30)) ∧
    ((msgS (msg (2 ^ 30))).walk 0 0 (2 ^ 30)).toOption.isSome = true ∧ ((msgS (msg (2 ^ 40))).walk 0 0 (2 ^ 40)).toOption.isNone = true := by decide +kernel
/-- A peer's requests for 0, 1, 8 and 9 slots of the till of 8. -/
theorem witness_MessageAndGroupEvents_peer : ((tillS idle).ptn? 0).map (fun p => (p.tdi, p.res.asids.headD 9)) = some (ptn0.tdi, 0) ∧
    ((tillS idle).walk 0 0 (2 ^ 30)).toOption.map (fun e => (((tillS idle).tillAt (e.key (2 ^ 30))).n, ((tillS idle).tillAt (e.key (2 ^ 30))).grant - ((tillS idle).tillAt (e.key (2 ^ 30))).tail)) =
      some (8, 1) := by decide +kernel
/-- Group entry 0 of die 0 with an operation of flight 7. -/
def grpS (stage due : Nat) : State :=
  { outS idle { flE (wd 0x70 2 0) 0 0 with stage := stage } with
    dies := idle.dies.modify 0 fun d => { d with groups := [(0, { grp2 with q := [(7, due)] })] } }
theorem witness_MessageAndGroupEvents_group : alGet 0 ((grpS 0 0).die 0).groups = some { grp2 with q := [(7, 0)] } ∧
    (((grpS 0 0).flight? 7).map fun f => f.stage == 0 && (grpS 0 0).mayIssue f) = some true ∧ (((grpS 1 0).flight? 7).map fun f => f.stage == 0) = some false := by
  decide +kernel

/-! Regions. -/
def rgS (r : Region) (k : Machine.Task) : State := { idle with regions := [(0, r)], tasks := [k] }
def r3 : Region := { Region.placed with lseq := 3 }
theorem witness_RegionAndTileTaskEvents_region_drain : ((rgS r3 (task1 .running [])).sinks r3).1 ≤ ((rgS r3 (task1 .running [])).sinks r3).2 ∧ r3.drain = false ∧ r3.st = .armed := by decide +kernel
theorem witness_RegionAndTileTaskEvents_region_quiet : (rgS { r3 with quiet := 256 } (task1 .running [])).allDrained { r3 with quiet := 256 } = false ∧ r3.swept = false ∧
    (withPage (fun p => { p with drained := true }) (rgS { r3 with quiet := 256, drain := true } (task1 .running []))).allDrained { r3 with quiet := 256, drain := true } = true ∧
    (rgS { r3 with quiet := 256, drain := true } (task1 .running [])).allDrained { r3 with quiet := 256, drain := true } = false := by decide +kernel
/-- A sealed tile-task that waits for a cut, in a rollback-enabled region. -/
def cutR : Region := { r3 with rollback := true, ordered := true, tts := [⟨0, .sealed, [], 0, 0, 0⟩], hi := 1, next := 1 }
theorem witness_RegionAndTileTaskEvents_region_cut : (rgS cutR (task1 .running [])).wantsCut cutR = true ∧ (rgS { cutR with cut := 1 } (task1 .running [])).wantsCut { cutR with cut := 1 } = false := by
  decide +kernel
theorem witness_RegionAndTileTaskEvents_region_stop : (let r := { r3 with st := .stopping, quiet := 1, stopAt := 0, watchdog := 0, rollback := true }
    r.st = .stopping ∧ 1 ≤ r.quiet ∧ r.stopAt + r.watchdog ≤ idle.fc ∧ r.rollback = true ∧ r.cutBad = false) ∧ r3.rollback = false := by decide +kernel
theorem witness_RegionAndTileTaskEvents_region_complete :
    (withPage (fun p => { p with drained := true }) (rgS { r3 with drain := true } (task1 .running []))).taskDrained (task1 .running []) = true ∧
    (rgS r3 (task1 .running [])).taskDrained (task1 .running []) = false ∧ (rgS r3 (task1 .running [])).taskOfRegion r3 = some (task1 .running []) ∧
    (task1 .running []).goesOn = false ∧ (rgS r3 { task1 .running [] with cancelled := true }).cancelDone { task1 .running [] with cancelled := true } = true := by decide +kernel
theorem witness_RegionAndTileTaskEvents_region_page : ((withPe (fun e => { e with drained := true }) idle).page? 0).map (fun p => (p.drained, p.passed)) = some (false, true) := by decide +kernel
/-- ME0 of a draining page without routed streams, and with a store stream that has taken DRAIN. -/
def meS (routed : Bool) : State :=
  withPage (fun p => { p with routes := if routed then [{ route 0 [none] with dst := epMe 0 0 }] else [], mes := p.mes.modify 0 fun m => { m with streams := m.streams.set 0 { openS true 3 with drained := true } } })
    (withPe (fun e => { e with drained := true }) (rgS { r3 with drain := true } (task1 .running [])))
theorem witness_RegionAndTileTaskEvents_region_me : ∀ b ∈ [false, true], ((meS b).me? 0 0).map (fun m => (m.drained, (meS b).meQuiet 0 0 m, m.streams.any (·.valid), (m.streams[0]?).map (·.drained))) = some (false, true, true, some true) ∧
    ((meS b).page? 0).map (fun p => (p.streamRouted 0, p.streamRouted 1, p.elemsDrained)) = some (b, false, true) := by decide +kernel
theorem witness_RegionAndTileTaskEvents_region_undo : ∀ n ∈ [847, 910],
    ((((rgS { r3 with rollback := true } (task1 .running [])).modMe 0 0 fun m => { m with undo := List.replicate n (0, 0, 0, []) }).me? 0 0).map
      fun m => m.undo.length) = some n ∧ (rgS { r3 with rollback := true } (task1 .running [])).snapMoving { r3 with rollback := true } = false := by
  decide +kernel

/-! Tile-tasks of a region of indices 0 to 2. -/
def tile (st : TtState) : TileTask := ⟨0, st, [], 0, 0, 0⟩
def tileR (st : TtState) : Region := { r3 with ordered := true, hi := 3, next := 1, tts := [tile st], issued := [0], escCap := 0 }
theorem witness_RegionAndTileTaskEvents_tile_issue : (rgS (tileR .issued) (task1 .running [])).mayIssueTile (tileR .issued) 1 = true ∧ (tileR .issued).persist = false ∧
    { tileR .doomed with rerun := [0] }.rerun.contains 0 = true ∧ (rgS (tileR .issued) (task1 .running [])).cancelled (tileR .issued) = false ∧
    (rgS (tileR .issued) { task1 .running [] with cancelled := true, rgs := [0] }).cancelled (tileR .issued) = true := by decide +kernel
theorem witness_RegionAndTileTaskEvents_tile_seal : (rgS (tileR .issued) (task1 .running [])).sealing (tileR .issued) 0 = true ∧
    (rgS (tileR .issued) (task1 .running [])).sealing { tileR .issued with pages := [none] } 0 = false := by decide +kernel
theorem witness_RegionAndTileTaskEvents_tile_escrow : (tileR .issued).escCap ≤ (tileR .issued).lineCount ∧
    (let r := { tileR .issued with tts := [tile .doomed, { tile .issued with ix := 1 }] }
     ∃ x ∈ r.tts, x.st = .doomed ∧ x.ix < 1) ∧ (∀ x ∈ (tileR .issued).tts, x.st = .doomed → 0 ≤ x.ix) ∧
    (rgS (tileR .stalled) (task1 .running [])).olderLive 0 ((tileR .stalled).key2 0) = false ∧
    (rgS (tileR .sealed) (task1 .running [])).olderLive 0 ((tileR .sealed).key2 1) = true ∧
    (rgS (tileR .sealed) (task1 .running [])).cutMet (tileR .sealed) (tile .sealed) = true ∧ (rgS cutR (task1 .running [])).cutMet cutR (tile .sealed) = false := by
  refine ⟨by decide +kernel, ⟨tile .doomed, by decide +kernel, rfl, by decide⟩, by decide +kernel⟩

/-! Links and engines. -/
def lnk (f : Machine.Link → Machine.Link) : State := idle.modLink 0 f
theorem witness_LinkAndEngineEvents_fifo : ∃ x, (lnk fun l => { l with fifo := [(0, 8), (1, 5)] }).links[0]? = some x ∧ x.cur = none ∧
    x.fifo = [(0, 8), (1, 5)] ∧ (∀ h, x.hold = some h → h.1 = 0) ∧ x.chosen 8 0 = [] ∧ x.chosen 6 0 = [0, 1] ∧ x.chosen 9 0 = [8] :=
  ⟨_, rfl, rfl, rfl, (fun _ h => nomatch h), by decide +kernel⟩
theorem witness_LinkAndEngineEvents_groups : ∃ k m : LGroup,
    (lnk fun l => { l with cur := some (0, 6, [0, 1]) }).links[0]?.bind (·.groups[1]?) = some k ∧ k.turning = false ∧ k.eligible 0 = true ∧
    { k with began := some 0 }.eligible 1879 = false ∧ { k with began := some 0 }.eligible 1880 = true ∧
    (lnk fun l => { l with groups := l.groups.set 1 ⟨true, true, some 0, 0⟩ }).links[0]?.bind (·.groups[1]?) = some m ∧ m.turning = true ∧ m.ends ≤ idle.fc :=
  ⟨_, _, rfl, rfl, rfl, by decide, by decide, rfl, rfl, Nat.zero_le _⟩
theorem witness_LinkAndEngineEvents_hold : ∃ x, ({ lnk fun l => { l with hold := some (0, 0) } with fc := 47000 }).links[0]? = some x ∧ x.hold = some (0, 0) ∧ 0 + 47000 ≤ 47000 ∧ 46999 < 0 + 47000 :=
  ⟨_, rfl, rfl, by decide, by decide⟩
/-- A copy of one row of 64 bytes from VA 0x2000 to 0x3000, and the same through a transform from i4 to i8 at VA 0x6000. -/
def copyRec (op flags xfa : Nat) : List Byte := leBytes 1 op ++ [0] ++ leBytes 1 flags ++ [0] ++ leBytes 4 1 ++ leBytes 8 0x2000 ++ leBytes 8 0x3000 ++ leBytes 8 xfa ++
  leBytes 4 64 ++ leBytes 4 64 ++ leBytes 8 0 ++ leBytes 4 64 ++ leBytes 12 0
def cmd (rec : List Byte) (fn : Nat) : Cmd := { qseq := 1, record := rec, who := .tel 0 0 0, asid := 0, ptn := 0, fn := fn, tt := none, ival := 0 }
def cmdS (q : Nat) (c : Cmd) (pos : Nat) : State :=
  (idle.setEng 0 q 0 { idle.eng 0 q 0 with ptn := some 0, q := [c], pos := pos }).store 0x6000 [2, 4]
theorem witness_LinkAndEngineEvents_copy : ((cmdS 0 (cmd (copyRec 1 0 0) 0) 0).eng 0 0 0).q = [cmd (copyRec 1 0 0) 0] ∧
    copyBad (copyRec 1 0 0) 0 = false ∧ copyBad (copyRec 1 31 0) 0 = false ∧ copyBad (copyRec 1 32 0) 0 = true ∧ copyBad (copyRec 2 0 0x6000) 1 = false ∧
    (copyRecOf (copyRec 1 0 0)).rows = 1 ∧ (0 : Nat) / 2 ^ 24 < 1 ∧ (1 : Nat) ≤ 2 ^ 24 / 2 ^ 24 ∧
    ((cmdS 0 (cmd (copyRec 2 0 0x6000) 1) 0).readRec 0 0 none 0x6000 128).toOption.map (fun r => (xfOf r.1).copyOk) = some true ∧ (xfOf []).copyOk = false := by decide +kernel
/-- `FILL` of 16 elements at VA 0x2000: one block. -/
def nmRec (op count : Nat) : List Byte := leBytes 4 op ++ leBytes 4 count ++ leBytes 8 0x2000 ++ leBytes 16 0 ++ leBytes 32 0
theorem witness_LinkAndEngineEvents_nmc : ((cmdS 3 (cmd (nmRec 4 16) 0) 0).eng 0 3 0).q = [cmd (nmRec 4 16) 0] ∧ nmBad (nmRec 4 16) 0 = none ∧
    nmBad (nmRec 7 16) 0 = some 1 ∧ nmBad (nmRec 4 0) 0 = some 2 ∧ ((cmdS 3 (cmd (nmRec 4 16) 0) 0).nmMaps 0 (cmd (nmRec 4 16) 0) (nmRecOf (nmRec 4 16))).toOption = some [(0x2000, 0x2000)] ∧
    (nmRecOf (nmRec 4 16)).refused 0 [(0x2000, 0x2000)] = none ∧ (nmRecOf (nmRec 4 16)).refused 1 [(0x2000, 0x2000)] = some 3 ∧
    ((cmdS 3 (cmd (nmRec 4 16) 0) 0).nmMaps 0 (cmd (nmRec 4 16) 0) { nmRecOf (nmRec 4 16) with p := 2 ^ 40 }).toOption = none ∧
    (nmRecOf (nmRec 4 16)).blocks = 1 ∧ (nmRecOf (nmRec 4 17)).blocks = 2 := by decide +kernel
theorem witness_LinkAndEngineEvents_post : idle.evRoom 0 0 = true ∧ idle.evFreeIn 0 0 = true ∧
    ((idle.setEng 0 0 0 { idle.eng 0 0 0 with ptn := some 0, held := some (0, [1]) }).eng 0 0 0).held = some (0, [1]) := by decide +kernel

/-! The host. -/
theorem witness_HostEvents : idle.ptn? 0 = some ptn0 ∧ (ptn0.notify = [2] ∧ { ptn0 with notify := [] }.notify = []) ∧
    { ptn0 with mbx := List.replicate 63 0 }.mbx.length < 64 ∧ 64 ≤ { ptn0 with mbx := List.replicate 64 0 }.mbx.length ∧ ptn0.res.hbm = [0] ∧
    idle.ptn? 0xFF = none ∧ ptn0.mbx.length ≤ 64 := by decide +kernel
theorem witness_HostEvents_memory : idle.inv := by unfold State.inv; decide +kernel
/-- A host's write of 8 bytes that starts in a poisoned block and ends behind it. -/
theorem test_host_write_poison : (({ idle with poison := [0x1000] }).hostAccess 1 0 0x4003C 8 (some [1, 2, 3, 4, 5, 6, 7, 8])).mem.filter (fun c => decide (0x40000 ≤ c.1)) =
    [(0x40040, 5), (0x40041, 6), (0x40042, 7), (0x40043, 8)] := by decide +kernel
theorem witness_HostEvents_cxl : (∀ i ≤ (0xFF00 + 0x100 - 1) / 65536 - 0xFF00 / 65536, 0xFF00 / 65536 + i ∈ ptn0.res.hbm) ∧ hbmOk 0xFF00 0x100 = true ∧
    (0xFF01 + 0x100 - 1) / 65536 ∉ ptn0.res.hbm ∧ 0x10000 / 65536 ∉ ptn0.res.hbm := by decide +kernel
/-- ASID 1 of die 0 maps the first 2 MiB to vault 0, readable and writable. -/
def barS : State :=
  let put (m : List Host.Cell) (k v : Nat) := memWrite m k (leBytes 8 v)
  { idle with mem := put (put (put idle.mem 0x40000 0x50001) 0x50000 0x60001) 0x60000 0x1C3
              dies := idle.dies.modify 0 fun d => { d with asids := [(1, BitVec.ofNat 128 (1 + 4 * 2 ^ 64))] } }
theorem witness_HostEvents_bar2 : barS.ownsAsid 0 1 = true ∧ (match barS.walk ptn0.peerDie 1 0x100 with
      | .ok e => leafVlt e.leaf && decide (0x100 + 8 ≤ e.va + e.size) && e.forbids .load == none && e.forbids .store == none
      | _ => false) = true ∧ (2 : Nat) ^ 24 - 8 + 8 ≤ 2 ^ 24 ∧ (2 : Nat) ^ 24 < 2 ^ 24 - 7 + 8 := by decide +kernel
theorem witness_HostEvents_manifest : recNat (leBytes 16 1) 0 2 = 1 ∧ manEntries (leBytes 16 1) = [] ∧ recNat (leBytes 16 2) 0 2 ≠ 1 := by decide +kernel
theorem witness_HostEvents_tdi : ptn0.tdi = .unlocked ∧ ({ ptn0 with tdi := .run } : Ptn).tdi = .run := ⟨rfl, rfl⟩

/-! Partitions and bring-up. -/
theorem witness_PartitionAndBringUpEvents_grant : idle.ptn? 1 = none ∧ idle.grantOk 1 { res0 with halves := [2, 3], tctxs := [1], hbm := [1], banks := [1], engines := [1], home := 0, groups := [1], queues := [(1, 1)], asids := [5], links := [], slots := [1], keySlot := 1 } = true ∧
    idle.grantOk 1 res0 = false ∧ idle.grantOk 0 res0 = true ∧ idle.grantOk 0 { res0 with halves := [4096] } = false ∧ idle.tasks = [] ∧ resCovers res0 0xFFFF = true := by decide +kernel
theorem witness_PartitionAndBringUpEvents_preempt :
    (let s := { idle with regions := [(0, { Region.placed with st := .frozen })] }
     ((s.stopAll 0).modPtn 0 fun p => { p with held := 1 }).ptnStill 0 ptn0.res.tctxs = true) ∧
    ((idle.stopAll 0).modPtn 0 fun p => { p with held := 1 }).ptnStill 0 ptn0.res.tctxs = false ∧ ptn0.held = 0 := by decide +kernel
theorem witness_PartitionAndBringUpEvents_restore : ∃ u, idle.putPages 0 { ptn0 with held := 2 }.parkedSaves = some u := ⟨idle, rfl⟩
theorem witness_PartitionAndBringUpEvents_bringUp : State.reset.bring.ready.length = 8 ∧ State.reset.bring.package = false ∧
    { State.reset.bring with anchor := true, ready := true :: List.replicate 7 false }.ready.findIdx? id = some 0 ∧
    State.reset.bring.early = false ∧ { State.reset.bring with early := true }.early = true ∧
    ({ State.reset.bring with ready := List.replicate 8 true }).ready.all id = true ∧ State.reset.atBoundary = true ∧ State.reset.bring.anchor = false ∧
    (∃ d, State.reset.dies[0]? = some d) ∧ (∃ d, State.reset.dies[7]? = some d) := by
  refine ⟨rfl, rfl, rfl, rfl, rfl, rfl, by decide +kernel, rfl, ⟨_, rfl⟩, _, rfl⟩

/-! Statements whose hypotheses are that a word fires, or is encoded or decoded. -/
theorem witness_MultiplyAndDivide : ∀ e ∈ words_scalar, Fires (elM e.1 7 2) e.2 g0 (.elem 0 0 0 0) e.1 := fun e he =>
  (witness_fires _ test_decode_scalar e he 7 2).1
theorem witness_Compares : ∀ e ∈ words_control, Fires (elM e.1 7 2) e.2 g0 (.elem 0 0 0 0) e.1 := fun e he =>
  (witness_fires _ test_decode_control e he 7 2).1
theorem witness_VectorArithmetic : ∀ e ∈ words_vector, Fires (elM e.1 0 0) e.2 g0 (.elem 0 0 0 0) e.1 := fun e he =>
  (witness_fires _ test_decode_vector e he 0 0).1
theorem witness_VectorSelectionAndMovement : ∀ e ∈ words_lanes, Fires (elM e.1 0 0) e.2 g0 (.elem 0 0 0 0) e.1 := fun e he =>
  (witness_fires _ test_decode_lanes e he 0 0).1
theorem witness_VectorConversion : ∀ e ∈ words_vector, Fires (telM e.1 0 0) e.2 g0 (.tel 0 0 0) e.1 := fun e he =>
  (witness_fires _ test_decode_vector e he 0 0).2
theorem witness_VectorReductions : ∀ e ∈ words_vector, Fires (elM e.1 5 6) e.2 g0 (.elem 0 0 0 0) e.1 := fun e he =>
  (witness_fires _ test_decode_vector e he 5 6).1
theorem witness_WordsDecodeBack : ∀ e ∈ words_system, encode e.2 = some e.1 := fun e he => by
  have := List.all_eq_true.mp test_decode_system e he
  simp only [Bool.and_eq_true, decide_eq_true_eq] at this
  exact this.2
theorem witness_WordsEncodeBack : defect .teller (packR 0x7F 1 (ops 0 0 0 0 0 0)) = 0 ∧ decode (packR 0x7F 1 (ops 0 0 0 0 0 0)) = .ok (.sysEret (ops 0 0 0 0 0 0)) ∧
    decode (BitVec.ofNat 64 (0x16 * 2 ^ 27)) = .error .reservedOpc := by decide +kernel
theorem witness_WriteBackFrame : ∃ c k, (outS (elM 0 0 0) (flE 0 0 0)).ctx? 0 0 0 = some c ∧ (outS (telM 0 0 0) (flT 0 0 0)).tctx? 0 0 = some k ∧
    (flE 0 0 0).who = .elem 0 0 0 0 ∧ (flT 0 0 0).who = .tel 0 0 0 := ⟨_, _, rfl, rfl, rfl, rfl⟩
theorem test_sep_encodings : ∀ e ∈ [(Instr.taskLnch (ops 26 1 0 0 0 0), (0x3C8D04000 : Word)), (.sysEret (ops 0 0 0 0 0 0), 0x3F9000000),
    (.rgnRollback (ops 4 5 0 0 0 0), 0x37A214000)], encode e.1 = some e.2 ∧ decode e.2 = .ok e.1 := by decide +kernel

end Sys2Proof.Tests
end

section
/-!
SUPPORT. One step of the device (log 2): a word that decodes to nothing has defect 1, 2, 3 or 4 (R42), so it is an illegal
word and no privilege fault; the work between two fcs leaves the fc count to `tick`; and what a step comes to in each case.
-/

namespace Sys2Proof

/-! ## Words that decode to nothing -/

/-- A variant that R38 counts has a row in the opcode map. -/
theorem findRow_isSome_of_lt_fnCount : ∀ (opc : Fin 128) (fn : Fin 8), reservedOpc.contains opc.val = false →
    fn.val < fnCount opc.val → (findRow opc.val fn.val opRows).isSome = true := by decide +kernel

theorem fnCount_le_of_findRow_none {x : Word} (hr : reservedOpc.contains (opcOf x) = false)
    (h : findRow (opcOf x) (fnOf x) opRows = none) : fnCount (opcOf x) ≤ fnOf x := by
  by_contra hlt
  have := findRow_isSome_of_lt_fnCount ⟨opcOf x, (field x 27 7).isLt⟩ ⟨fnOf x, (field x 24 3).isLt⟩ hr (not_le.mp hlt)
  simp [h] at this

/-- Why a word decodes to nothing, in the terms of its fields. -/
theorem decode_error_cases {x : Word} {r : Reject} (h : decode x = .error r) :
    reservedOpc.contains (opcOf x) = true ∨
    (reservedOpc.contains (opcOf x) = false ∧ findRow (opcOf x) (fnOf x) opRows = none) ∨
    x.getLsbD 34 = true := by
  unfold decode at h
  split at h
  next hr => exact .inl hr
  next hr =>
    split at h
    next hn => exact .inr (.inl ⟨by simpa using hr, hn⟩)
    next =>
      split at h
      next hb => exact .inr (.inr hb)
      next => split at h <;> cases h

variable {ag : AgentKind} {x : Word}

theorem defect_of_reservedOpc (hr : reservedOpc.contains (opcOf x) = true) : defect ag x = 1 := by
  rw [defect, if_pos hr]

theorem defect_of_unassignedFn (hr : reservedOpc.contains (opcOf x) = false) (hn : fnCount (opcOf x) ≤ fnOf x) :
    defect ag x = 2 := by
  rw [defect, if_neg (by rw [hr]; decide), if_pos hn]

/-- Bit 34 breaks R31, and only defects 1 to 3 come before that in the order of R42. -/
theorem defect_of_bit34 (hb : x.getLsbD 34 = true) : 1 ≤ defect ag x ∧ defect ag x ≤ 4 := by
  have hf : fieldsBad (wspec (opcOf x) (fnOf x)) x = true := by simp only [fieldsBad, hb, Bool.true_or]
  simp only [defect, hf, if_true]
  split_ifs <;> decide

/-- A word that decodes to nothing has one of the defects 1 to 4 of R42. -/
theorem defect_of_decode_error {r : Reject} (h : decode x = .error r) : 1 ≤ defect ag x ∧ defect ag x ≤ 4 := by
  rcases decode_error_cases h with hr | ⟨hr, hn⟩ | hb
  · rw [defect_of_reservedOpc hr]; decide
  · rw [defect_of_unassignedFn hr (fnCount_le_of_findRow_none hr hn)]; decide
  · exact defect_of_bit34 hb

namespace Machine

/-- Only defect 8 is a privilege fault; the word that decodes to nothing is an illegal word (R43). -/
theorem defectFault_of_decode_error {r : Reject} (h : decode x = .error r) :
    defectFault (defect ag x) = { cls := clsIllegal, code := defect ag x } := by
  obtain ⟨-, hle⟩ := defect_of_decode_error (ag := ag) h
  exact if_neg (by omega)

/-! ## What leaves the fc count as it is -/

theorem foldl_fc {α : Type} {f : State → α → State} (hf : ∀ s a, (f s a).fc = s.fc) (l : List α) (s : State) :
    (l.foldl f s).fc = s.fc := by
  induction l generalizing s with
  | nil => rfl
  | cons a l ih => exact (ih (f s a)).trans (hf s a)

@[simp] theorem raiseCut_fc (s : State) (rg : Nat) : (s.raiseCut rg).fc = s.fc := by
  unfold State.raiseCut
  split
  · rfl
  · dsimp only
    split
    · rfl
    · exact (foldl_fc (fun s k => modPage_fc s k _) _ _).trans (modRegion_fc s rg _)

@[simp] theorem evPush_fc (s : State) (d p : Nat) (r : List Byte) : (s.evPush d p r).fc = s.fc := rfl
@[simp] theorem forget_fc (s : State) (ptn die : Nat) : (s.forget ptn die).fc = s.fc := rfl

@[simp] theorem postRecord_fc (s : State) (ptn lseq : Nat) : (s.postRecord ptn lseq).fc = s.fc := by
  unfold State.postRecord
  split
  · rfl
  · split <;> simp

@[simp] theorem walkTime_fc (s : State) (die asid va : Nat) : (s.walkTime die asid va).2.fc = s.fc :=
  List.foldlRecOn (motive := fun y : Nat × State => y.2.fc = s.fc) _ _ rfl fun _ hy _ _ => hy

@[simp] theorem startWalk_fc (s : State) (r : Req) : (s.startWalk r).2.fc = s.fc := by
  unfold State.startWalk
  split
  · rfl
  · exact walkTime_fc ..

@[simp] theorem walkOn_fc (s : State) : s.walkOn.fc = s.fc :=
  foldl_fc (fun s r => by simp) _ s

@[simp] theorem refill_fc (s : State) (k : Task) : (s.refill k).fc = s.fc := by
  simp only [State.refill, apply_ite State.fc, ite_self]

@[simp] theorem mintOn_fc (s : State) : s.mintOn.fc = s.fc :=
  foldl_fc refill_fc s.tasks s

@[simp] theorem tick_fc (s : State) : s.tick.fc = s.fc + 1 := by
  simp only [State.tick, mintOn_fc, walkOn_fc]
  rw [foldl_fc (fun s (k : Task) => postRecord_fc s k.ptn k.lseq), foldl_fc raiseCut_fc]

@[simp] theorem begin_fc (s : State) : s.begin_.fc = s.fc + 1 := tick_fc s

/-! ## A chosen word is taken up -/

variable {s t : State} {w : Who} {i e : Instr} {l : List Instr}

theorem runIssue_none (h : t.issue = none) : runIssue t = .next t := by
  simp only [runIssue, h]

theorem runIssue_decoded (h : t.issue = some (w, x)) (hd : decode x = .ok i) : runIssue t = exec i t := by
  simp only [runIssue, h, hd]

theorem runIssue_undecoded {r : Reject} (h : t.issue = some (w, x)) (hd : decode x = .error r) :
    runIssue t = .next (t.taken.raise w x
      { cls := clsIllegal, code := defect (if w.isElem then .elem else .teller) x }) := by
  simp only [runIssue, h, hd, State.taken, defectFault_of_decode_error hd]

/-! ## One step -/

theorem step_of_next (ha : s.agenda = e :: l) (he : exec e { s with agenda := l } = .next t) : step s = runIssue t := by
  simp only [step, ha, he]

theorem step_of_fault {r : Fault} (ha : s.agenda = e :: l) (he : exec e { s with agenda := l } = .fault r) :
    step s = .fault r := by
  simp only [step, ha, he]

theorem step_of_closing (ha : s.agenda = []) (hc : s.closing ≠ []) : step s = .next { s with agenda := s.closing } := by
  cases hl : s.closing with
  | nil => exact absurd hl hc
  | cons e l => simp only [step, ha, hl]

theorem step_of_begin (ha : s.agenda = []) (hc : s.closing = []) : step s = .next s.begin_ := by
  simp only [step, ha, hc]

/-- Settles O4. The event at hand, the word it leaves chosen and the turn of the fc are the cases of `step` and `runIssue`;
that a word which decodes to nothing raises ILLEGAL, and never PRIV, is `defect_of_decode_error`. -/
theorem stepRunsWord : Obligations.StepRunsWord := by
  unfold Obligations.StepRunsWord
  intro s
  refine ⟨fun e l ha => ⟨fun t he => ⟨fun hn => ?_, fun w x hw => ⟨fun i hd => ?_, fun r hd => ?_⟩⟩, fun r he => ?_⟩,
    fun ha => ⟨fun hc => ?_, fun hc => ?_⟩⟩
  · exact (step_of_next ha he).trans (runIssue_none hn)
  · exact (step_of_next ha he).trans (runIssue_decoded hw hd)
  · exact ⟨_, (step_of_next ha he).trans (runIssue_undecoded hw hd), rfl, rfl⟩
  · exact step_of_fault ha he
  · exact step_of_closing ha hc
  · exact ⟨step_of_begin ha hc, begin_fc s⟩

end Machine

end Sys2Proof
end

section
/-!
SUPPORT. The frames of firing and of writing back (R20, R25): what one part of the state reads after another has been updated,
what every step of a firing leaves as it was, and the write-back of a context's registers.
-/

set_option Elab.async false

namespace Sys2Proof.Machine

/-! ## A part of the state after an update -/

section Parts

variable {β : Type} {s : State} {pg q pe qe cx cy t u : Nat}

theorem page?_modPage (f : Page → Page) :
    (s.modPage pg f).page? q = if q = pg then (s.page? q).map f else s.page? q := by
  split
  next h => subst h; exact page?_modPage_same s q f
  next h => exact page?_modPage_other s h f

theorem map_page?_modPage {g : Page → β} {f : Page → Page} (h : ∀ p, g (f p) = g p) :
    ((s.modPage pg f).page? q).map g = (s.page? q).map g := by
  rw [page?_modPage]
  split
  · rw [Option.map_map]; exact congrArg (fun k => Option.map k _) (funext h)
  · rfl

theorem pe?_modPe (f : Pe → Pe) :
    (s.modPe pg pe f).pe? q qe = if q = pg ∧ qe = pe then (s.pe? q qe).map f else s.pe? q qe := by
  simp only [State.pe?, State.modPe, page?_modPage]
  by_cases hq : q = pg
  · by_cases he : qe = pe
    · simp [hq, he]
      cases s.page? pg <;> simp
    · have he' : pe ≠ qe := fun e => he e.symm
      simp [hq, he]
      cases s.page? pg <;> simp [he']
  · simp [hq]

theorem map_pe?_modPe {g : Pe → β} {f : Pe → Pe} (h : ∀ e, g (f e) = g e) :
    ((s.modPe pg pe f).pe? q qe).map g = (s.pe? q qe).map g := by
  rw [pe?_modPe]
  split
  · rw [Option.map_map]; exact congrArg (fun k => Option.map k _) (funext h)
  · rfl

theorem pe?_modPage_of_pes {f : Page → Page} (h : ∀ p, (f p).pes = p.pes) : (s.modPage pg f).pe? q qe = s.pe? q qe := by
  rw [State.pe?, State.pe?, page?_modPage]
  split
  · cases s.page? q <;> simp [h]
  · rfl

theorem ctx?_modPage_of_pes {f : Page → Page} (h : ∀ p, (f p).pes = p.pes) :
    (s.modPage pg f).ctx? q qe cx = s.ctx? q qe cx := by
  rw [State.ctx?, pe?_modPage_of_pes h, State.ctx?]

theorem ctx?_modPe_of_ctxs {f : Pe → Pe} (h : ∀ e, (f e).live.ctxs = e.live.ctxs) :
    (s.modPe pg pe f).ctx? q qe cx = s.ctx? q qe cx := by
  rw [State.ctx?, pe?_modPe, State.ctx?]
  split
  · cases s.pe? q qe <;> simp [h]
  · rfl

theorem ctx?_modCtx (f : Ctx → Ctx) :
    (s.modCtx pg pe cx f).ctx? q qe cy = if (q, qe, cy) = (pg, pe, cx) then (s.ctx? q qe cy).map f else s.ctx? q qe cy := by
  split
  next h => cases h; exact ctx?_modCtx_same s _ _ _ f
  next h => exact ctx?_modCtx_other s h f

theorem tctx?_modTctx (f : TCtx → TCtx) :
    (s.modTctx t cx f).tctx? u cy = if (u, cy) = (t, cx) then (s.tctx? u cy).map f else s.tctx? u cy := by
  split
  next h => cases h; exact tctx?_modTctx_same s _ _ f
  next h => exact tctx?_modTctx_other s h f

theorem map_tctx?_modTctx {g : TCtx → β} {f : TCtx → TCtx} (h : ∀ c, g (f c) = g c) :
    ((s.modTctx t cx f).tctx? u cy).map g = (s.tctx? u cy).map g := by
  rw [tctx?_modTctx]
  split
  · rw [Option.map_map]; exact congrArg (fun k => Option.map k _) (funext h)
  · rfl

theorem map_ctx?_modCtx {g : Ctx → β} {f : Ctx → Ctx} (h : ∀ c, g (f c) = g c) :
    ((s.modCtx pg pe cx f).ctx? q qe cy).map g = (s.ctx? q qe cy).map g := by
  rw [ctx?_modCtx]
  split
  · rw [Option.map_map]; exact congrArg (fun k => Option.map k _) (funext h)
  · rfl

end Parts

/-- A fold keeps what each of its steps keeps. -/
theorem foldl_rel {α σ : Type} {R : σ → σ → Prop} (refl : ∀ s, R s s) (trans : ∀ {a b c}, R a b → R b c → R a c)
    {f : σ → α → σ} (hf : ∀ s a, R s (f s a)) (l : List α) (s : σ) : R s (l.foldl f s) := by
  induction l generalizing s with
  | nil => exact refl s
  | cons a l ih => exact trans (hf s a) (ih (f s a))

/-! ## States that differ in no unit and in no register -/

/-- What a word that fires changes of no page: the matrix array, the shape cache and the shift-add fabric. -/
def Page.units (p : Page) : Mtx × List Shape × Saf := (p.mtx, p.shapes, p.saf)

/-- The constants, the ports and the slots of an element. -/
def Pe.fixed (e : Pe) : List Word × List PortCfg × List Slot := (e.k, e.ports, e.live.slots)

/-- What an element context holds beside its predicates. -/
def Ctx.regs (c : Ctx) : List Word × List Vec × Bool × List GMem := (c.a, c.v, c.withheld, c.groups)

/-- What a teller context holds beside its predicates, its pc and the state of its ports and of its fetch buffer. -/
def TCtx.regs (c : TCtx) :
    List Word × List Vec × Bool × Word × Word × Word × Word × Word × Word × Nat × Option Nat :=
  (c.a, c.v, c.run, c.tvec, c.epc, c.cause, c.tval, c.fpc, c.tstat, c.asid, c.ptn)

/-- The predicates and the pc of a teller context. -/
def TCtx.flow (c : TCtx) : List Tri × Word := (c.p, c.pc)

/-- Memory, the outstanding work, and every unit of a page are the same in both states. -/
structure SameUnits (s t : State) : Prop where
  mem : t.mem = s.mem
  poison : t.poison = s.poison
  issue : t.issue = s.issue
  tasks : t.tasks = s.tasks
  links : t.links = s.links
  reqs : t.reqs = s.reqs
  flights : t.flights = s.flights
  page : ∀ pg, (t.page? pg).map Page.units = (s.page? pg).map Page.units
  pe : ∀ pg pe, (t.pe? pg pe).map Pe.fixed = (s.pe? pg pe).map Pe.fixed

/-- So is every register of every context; predicates and a teller's pc may differ. -/
structure SameRegs (s t : State) : Prop extends SameUnits s t where
  ctx : ∀ pg pe cx, (t.ctx? pg pe cx).map Ctx.regs = (s.ctx? pg pe cx).map Ctx.regs
  tctx : ∀ te cx, (t.tctx? te cx).map TCtx.regs = (s.tctx? te cx).map TCtx.regs

/-- So is every predicate, and every teller's pc. -/
structure SameCtxs (s t : State) : Prop extends SameRegs s t where
  pred : ∀ pg pe cx, (t.ctx? pg pe cx).map Ctx.p = (s.ctx? pg pe cx).map Ctx.p
  flow : ∀ te cx, (t.tctx? te cx).map TCtx.flow = (s.tctx? te cx).map TCtx.flow

theorem SameUnits.refl (s : State) : SameUnits s s := ⟨rfl, rfl, rfl, rfl, rfl, rfl, rfl, fun _ => rfl, fun _ _ => rfl⟩

theorem SameRegs.refl (s : State) : SameRegs s s := ⟨.refl s, fun _ _ _ => rfl, fun _ _ => rfl⟩

theorem SameCtxs.refl (s : State) : SameCtxs s s := ⟨.refl s, fun _ _ _ => rfl, fun _ _ => rfl⟩

variable {s t u : State}

theorem SameUnits.trans (h : SameUnits s t) (k : SameUnits t u) : SameUnits s u where
  mem := k.mem.trans h.mem
  poison := k.poison.trans h.poison
  issue := k.issue.trans h.issue
  tasks := k.tasks.trans h.tasks
  links := k.links.trans h.links
  reqs := k.reqs.trans h.reqs
  flights := k.flights.trans h.flights
  page pg := (k.page pg).trans (h.page pg)
  pe pg pe := (k.pe pg pe).trans (h.pe pg pe)

theorem SameRegs.trans (h : SameRegs s t) (k : SameRegs t u) : SameRegs s u where
  toSameUnits := h.toSameUnits.trans k.toSameUnits
  ctx pg pe cx := (k.ctx pg pe cx).trans (h.ctx pg pe cx)
  tctx te cx := (k.tctx te cx).trans (h.tctx te cx)

theorem SameCtxs.trans (h : SameCtxs s t) (k : SameCtxs t u) : SameCtxs s u where
  toSameRegs := h.toSameRegs.trans k.toSameRegs
  pred pg pe cx := (k.pred pg pe cx).trans (h.pred pg pe cx)
  flow te cx := (k.flow te cx).trans (h.flow te cx)

/-! ## Updates that change no unit and no register -/

section Updates

variable (s : State) {pg pe cx n te : Nat}

theorem sameCtxs_modPage {f : Page → Page} (hu : ∀ p, (f p).units = p.units) (hp : ∀ p, (f p).pes = p.pes) :
    SameCtxs s (s.modPage pg f) where
  mem := rfl
  poison := rfl
  issue := rfl
  tasks := rfl
  links := rfl
  reqs := rfl
  flights := rfl
  page _ := map_page?_modPage hu
  pe _ _ := by rw [pe?_modPage_of_pes hp]
  ctx _ _ _ := by rw [ctx?_modPage_of_pes hp]
  tctx _ _ := rfl
  pred _ _ _ := by rw [ctx?_modPage_of_pes hp]
  flow _ _ := rfl

theorem sameUnits_modPe {f : Pe → Pe} (h : ∀ e, (f e).fixed = e.fixed) : SameUnits s (s.modPe pg pe f) where
  mem := rfl
  poison := rfl
  issue := rfl
  tasks := rfl
  links := rfl
  reqs := rfl
  flights := rfl
  page _ := map_page?_modPage fun _ => rfl
  pe _ _ := map_pe?_modPe h

theorem sameCtxs_modPe {f : Pe → Pe} (h : ∀ e, (f e).fixed = e.fixed) (hc : ∀ e, (f e).live.ctxs = e.live.ctxs) :
    SameCtxs s (s.modPe pg pe f) where
  toSameUnits := sameUnits_modPe s h
  ctx _ _ _ := by rw [ctx?_modPe_of_ctxs hc]
  tctx _ _ := rfl
  pred _ _ _ := by rw [ctx?_modPe_of_ctxs hc]
  flow _ _ := rfl

theorem sameUnits_modTctx (f : TCtx → TCtx) : SameUnits s (s.modTctx te cx f) := { SameUnits.refl s with }

theorem sameRegs_modTctx {f : TCtx → TCtx} (h : ∀ c, (f c).regs = c.regs) : SameRegs s (s.modTctx te cx f) where
  toSameUnits := sameUnits_modTctx s f
  ctx _ _ _ := rfl
  tctx _ _ := map_tctx?_modTctx h

theorem sameCtxs_modTctx {f : TCtx → TCtx} (h : ∀ c, (f c).regs = c.regs) (hp : ∀ c, (f c).flow = c.flow) :
    SameCtxs s (s.modTctx te cx f) where
  toSameRegs := sameRegs_modTctx s h
  pred _ _ _ := rfl
  flow _ _ := map_tctx?_modTctx hp

theorem sameRegs_modCtx {f : Ctx → Ctx} (h : ∀ c, (f c).regs = c.regs) : SameRegs s (s.modCtx pg pe cx f) where
  toSameUnits := sameUnits_modPe s fun _ => rfl
  ctx _ _ _ := map_ctx?_modCtx h
  tctx _ _ := rfl

theorem sameCtxs_modRegion (f : Region → Region) : SameCtxs s (s.modRegion n f) := { SameCtxs.refl s with }

theorem sameCtxs_modDie (f : Die → Die) : SameCtxs s (s.modDie n f) := { SameCtxs.refl s with }

theorem sameCtxs_modPtn (f : Ptn → Ptn) : SameCtxs s (s.modPtn n f) := { SameCtxs.refl s with }

end Updates

/-! ## The steps of a firing -/

theorem sameCtxs_takeElem (s : State) (pg pe port : Nat) : SameCtxs s (s.takeElem pg pe port) := by
  unfold State.takeElem
  split
  next => exact .refl s
  next =>
    split
    next => exact .refl s
    next =>
      split
      next => exact .refl s
      next =>
        exact (sameCtxs_modPage s (f := fun p => p.takeAt (epPe pe port)) (fun _ => rfl) fun _ => rfl).trans
          (sameCtxs_modPe _ (fun _ => rfl) fun _ => rfl)

/-- A teller's port moves on in its context alone; the event, the record or the word it hands out leaves its queue. -/
theorem sameCtxs_telTake (s : State) (te cx port : Nat) : SameCtxs s (s.telTake te cx port) := by
  have read {v : State} {f : TCtx → TCtx} (h : ∀ c, (f c).regs = c.regs) (hp : ∀ c, (f c).flow = c.flow) :
      SameCtxs v (v.modTctx te cx f) := sameCtxs_modTctx v h hp
  unfold State.telTake
  split
  next => exact .refl s
  next =>
    split
    next => exact .refl s
    next =>
      dsimp only
      split
      case h_1 =>
        split
        next => exact read (fun _ => rfl) fun _ => rfl
        next =>
          split
          next => exact .refl s
          next => exact (sameCtxs_modDie s _).trans (read (fun _ => rfl) fun _ => rfl)
      case h_2 =>
        split
        next => exact read (fun _ => rfl) fun _ => rfl
        next =>
          split
          next => exact .refl s
          next => exact (sameCtxs_modDie s _).trans (read (fun _ => rfl) fun _ => rfl)
      case h_3 => exact sameCtxs_modPtn s _
      case h_4 =>
        split
        next => exact .refl s
        next => exact read (fun c => by split <;> rfl) fun c => by split <;> rfl

theorem sameCtxs_takeAll (s : State) (w : Who) (chans : List Nat) : SameCtxs s (s.takeAll w chans) :=
  foldl_rel SameCtxs.refl SameCtxs.trans (fun v i => by
    cases w with
    | elem pg pe cx sl => exact sameCtxs_takeElem v pg pe i
    | tel te cx pc => exact sameCtxs_telTake v te cx i) chans s

theorem sameCtxs_reserve (s : State) (w : Who) (h : List Res) : SameCtxs s (s.reserve w h) :=
  foldl_rel SameCtxs.refl SameCtxs.trans (fun v r => by
    split
    next => exact sameCtxs_modPage v (fun _ => rfl) fun _ => rfl
    next => exact sameCtxs_modPage v (fun _ => rfl) fun _ => rfl
    next => exact sameCtxs_modTctx v (fun _ => rfl) fun _ => rfl
    next => exact .refl v) h s

theorem sameCtxs_stir (s : State) (pg : Nat) : SameCtxs s (s.stir pg) := by
  unfold State.stir
  split
  next => exact sameCtxs_modRegion s _
  next => exact .refl s

theorem sameCtxs_count (s : State) (w : Who) (ev : List Nat) : SameCtxs s (s.count w ev) := by
  cases w with
  | elem pg pe cx sl => exact sameCtxs_modPe s (fun _ => rfl) fun _ => rfl
  | tel te cx pc => exact .refl s

theorem sameRegs_setPred (s : State) (w : Who) (n : Nat) (v : Tri) : SameRegs s (s.setPred w n v) := by
  cases w with
  | elem pg pe cx sl => exact sameRegs_modCtx s fun _ => rfl
  | tel te cx pc => exact sameRegs_modTctx s fun _ => rfl

theorem sameRegs_pend (s : State) (w : Who) (h : List Res) : SameRegs s (s.pend w h) :=
  foldl_rel SameRegs.refl SameRegs.trans (fun v r => by
    cases r with
    | p n => exact sameRegs_setPred v w n .pend
    | _ => exact .refl v) h s

/-! ## Predicates made pending -/

/-- A context's predicates with those that a word holds pending. -/
def pendAll (h : List Res) (l : List Tri) : List Tri :=
  h.foldl (fun l r => match r with
    | .p n => l.set n .pend
    | _ => l) l

@[simp] theorem pendAll_nil : pendAll [] = id := rfl

theorem getElem?_pendAll (h : List Res) (l : List Tri) (n : Nat) :
    (pendAll h l)[n]? = if Res.p n ∈ h ∧ n < l.length then some .pend else l[n]? := by
  induction h generalizing l with
  | nil => simp [pendAll]
  | cons r h ih =>
    cases r with
    | p m =>
      have e : pendAll (.p m :: h) l = pendAll h (l.set m .pend) := rfl
      rw [e, ih, List.length_set, List.getElem?_set]
      by_cases hm : m = n
      · subst hm
        by_cases hl : m < l.length <;> simp [hl]
      · have hn : n ≠ m := fun e => hm e.symm
        simp [hm, hn]
    | _ =>
      exact (ih l).trans (by simp)

theorem pendAll_pending {h : List Res} {l : List Tri} {n : Nat} (hn : Res.p n ∈ h) (hl : n < l.length) :
    (pendAll h l)[n]? = some .pend := by rw [getElem?_pendAll, if_pos ⟨hn, hl⟩]

theorem pendAll_other {h : List Res} {n : Nat} (l : List Tri) (hn : Res.p n ∉ h) : (pendAll h l)[n]? = l[n]? := by
  rw [getElem?_pendAll, if_neg fun e => hn e.1]

theorem map_pred_modCtx (s : State) (pg pe cx n : Nat) (v : Tri) (qg qe cy : Nat) :
    ((s.modCtx pg pe cx fun c => { c with p := c.p.set n v }).ctx? qg qe cy).map Ctx.p =
      if (qg, qe, cy) = (pg, pe, cx) then ((s.ctx? qg qe cy).map Ctx.p).map (·.set n v) else (s.ctx? qg qe cy).map Ctx.p := by
  rw [ctx?_modCtx]
  split
  · rw [Option.map_map, Option.map_map]; rfl
  · rfl

/-- Only the context of the word sees its predicates become pending. -/
theorem map_pred_pend_elem (pg pe cx sl : Nat) (h : List Res) (s : State) (qg qe cy : Nat) :
    ((s.pend (.elem pg pe cx sl) h).ctx? qg qe cy).map Ctx.p =
      if (qg, qe, cy) = (pg, pe, cx) then ((s.ctx? qg qe cy).map Ctx.p).map (pendAll h) else (s.ctx? qg qe cy).map Ctx.p := by
  induction h generalizing s with
  | nil => simp [State.pend]
  | cons r h ih =>
    cases r with
    | p n =>
      refine (ih (s.setPred (.elem pg pe cx sl) n .pend)).trans ?_
      rw [State.setPred, map_pred_modCtx]
      split
      · rw [Option.map_map]; rfl
      · rfl
    | _ => exact ih s

theorem map_flow_pend_tel (te cx : Nat) (pc : Word) (h : List Res) (s : State) (ue cy : Nat) :
    ((s.pend (.tel te cx pc) h).tctx? ue cy).map TCtx.flow =
      if (ue, cy) = (te, cx) then ((s.tctx? ue cy).map TCtx.flow).map (Prod.map (pendAll h) id)
      else (s.tctx? ue cy).map TCtx.flow := by
  induction h generalizing s with
  | nil => simp [State.pend]
  | cons r h ih =>
    cases r with
    | p n =>
      refine (ih (s.setPred (.tel te cx pc) n .pend)).trans ?_
      rw [State.setPred, tctx?_modTctx]
      split
      · simp only [Option.map_map]; rfl
      · rfl
    | _ => exact ih s

/-! ## A word that has fired -/

theorem SameRegs.addFlight (h : SameRegs s t) (f : Flight) :
    SameRegs { s with flights := s.flights ++ [f] } { t with flights := t.flights ++ [f] } :=
  { h with flights := congrArg (· ++ [f]) h.flights }

/-- `f` has fired in `t`, holding the resources of `h` outstanding: it is the newest flight, no register has changed, and the
predicates it holds, and no others, are pending; a teller's pc is `pc`, or has moved on to the next word. -/
structure Launched (s t : State) (w : Who) (f : Flight) (pc : Option Word) : Prop where
  regs : SameRegs { s with flights := s.flights ++ [f] } t
  pred : ∀ pg pe cx, (∀ sl, w ≠ .elem pg pe cx sl) → (t.ctx? pg pe cx).map Ctx.p = (s.ctx? pg pe cx).map Ctx.p
  pended : ∀ pg pe cx sl, w = .elem pg pe cx sl →
    (t.ctx? pg pe cx).map Ctx.p = (s.ctx? pg pe cx).map (pendAll f.holds ∘ Ctx.p)
  flow : ∀ te cx, (∀ a, w ≠ .tel te cx a) → (t.tctx? te cx).map TCtx.flow = (s.tctx? te cx).map TCtx.flow
  moved : ∀ te cx a, w = .tel te cx a →
    (t.tctx? te cx).map TCtx.flow = (s.tctx? te cx).map fun c => (pendAll f.holds c.p, pc.getD (c.pc + 8))

/-- What leaves predicates and pcs alone may follow. -/
theorem Launched.trans {w : Who} {f : Flight} {pc : Option Word} (h : Launched s t w f pc) (k : SameCtxs t u) :
    Launched s u w f pc where
  regs := h.regs.trans k.toSameRegs
  pred pg pe cx hw := (k.pred pg pe cx).trans (h.pred pg pe cx hw)
  pended pg pe cx sl hw := (k.pred pg pe cx).trans (h.pended pg pe cx sl hw)
  flow te cx hw := (k.flow te cx).trans (h.flow te cx hw)
  moved te cx a hw := (k.flow te cx).trans (h.moved te cx a hw)

/-- Only the page of an element sees its predicates become pending, and only the teller of a teller context. -/
theorem pend_elem_tellers (pg pe cx sl : Nat) (h : List Res) (s : State) :
    (s.pend (.elem pg pe cx sl) h).tellers = s.tellers :=
  foldl_rel (R := fun a b : State => b.tellers = a.tellers) (fun _ => rfl) (fun h k => k.trans h)
    (fun v r => by cases r <;> rfl) h s

theorem pend_tel_pages (te cx : Nat) (pc : Word) (h : List Res) (s : State) :
    (s.pend (.tel te cx pc) h).pages = s.pages :=
  foldl_rel (R := fun a b : State => b.pages = a.pages) (fun _ => rfl) (fun h k => k.trans h)
    (fun v r => by cases r <;> rfl) h s

theorem pend_tel_ctx? (te cx : Nat) (pc : Word) (h : List Res) (s : State) (pg pe cy : Nat) :
    (s.pend (.tel te cx pc) h).ctx? pg pe cy = s.ctx? pg pe cy := by
  simp only [State.ctx?, State.pe?, State.page?, pend_tel_pages]

theorem pend_elem_tctx? (pg pe cx sl : Nat) (h : List Res) (s : State) (te cy : Nat) :
    (s.pend (.elem pg pe cx sl) h).tctx? te cy = s.tctx? te cy := by
  simp only [State.tctx?, pend_elem_tellers]

/-- Firing (R20, R25): dequeuing and reserving change no register and no predicate; then those held become pending, and last
the pc moves on. -/
theorem launched_launch (s : State) (w : Who) (deq : List Nat) (f : Flight) (pc : Option Word) (gap : Nat) :
    Launched s (s.launch w deq f pc gap) w f pc := by
  let a := ({ s with ids := s.ids + 1 }.takeAll w deq).reserve w f.holds
  have ha : SameCtxs s a :=
    ({ SameCtxs.refl s with } : SameCtxs s { s with ids := s.ids + 1 }).trans
      ((sameCtxs_takeAll _ w deq).trans (sameCtxs_reserve _ w f.holds))
  have hp : SameRegs s (a.pend w f.holds) := ha.toSameRegs.trans (sameRegs_pend a w f.holds)
  cases w with
  | elem pg pe cx sl =>
    refine Launched.trans (t := { a.pend (.elem pg pe cx sl) f.holds with
      flights := (a.pend (.elem pg pe cx sl) f.holds).flights ++ [f] }) ⟨hp.addFlight f, ?_, ?_, ?_, ?_⟩ (sameCtxs_stir _ pg)
    · intro qg qe cy hw
      have hne : (qg, qe, cy) ≠ (pg, pe, cx) := fun e => by cases e; exact hw sl rfl
      exact (map_pred_pend_elem ..).trans ((if_neg hne).trans (ha.pred qg qe cy))
    · rintro qg qe cy sl' ⟨⟩
      refine (map_pred_pend_elem ..).trans ((if_pos rfl).trans ?_)
      rw [ha.pred, Option.map_map]
    · intro te cy _
      exact (congrArg (Option.map TCtx.flow) (pend_elem_tctx? pg pe cx sl f.holds a te cy)).trans (ha.flow te cy)
    · rintro te cy b ⟨⟩
  | tel te cx b =>
    refine ⟨(hp.addFlight f).trans (sameRegs_modTctx _ fun _ => rfl), ?_, ?_, ?_, ?_⟩
    · intro qg qe cy _
      exact (congrArg (Option.map Ctx.p) (pend_tel_ctx? te cx b f.holds a qg qe cy)).trans (ha.pred qg qe cy)
    · rintro qg qe cy sl ⟨⟩
    · intro ue cy hw
      have hne : (ue, cy) ≠ (te, cx) := fun e => by cases e; exact hw b rfl
      refine (congrArg (Option.map TCtx.flow) (tctx?_modTctx_other _ hne _)).trans ?_
      exact (map_flow_pend_tel ..).trans ((if_neg hne).trans (ha.flow ue cy))
    · rintro ue cy b' ⟨⟩
      have hpend := (map_flow_pend_tel te cx b f.holds a te cx).trans ((if_pos rfl).trans (congrArg _ (ha.flow te cx)))
      have hmove := congrArg (Option.map (Prod.map id fun c => pc.getD (c + 8))) hpend
      rw [Option.map_map, Option.map_map, Option.map_map] at hmove
      refine (congrArg (Option.map TCtx.flow) (tctx?_modTctx_same _ _ _ _)).trans ?_
      rw [Option.map_map]
      exact hmove

/-! ## A context after its word has fired -/

section LaunchedContexts

variable {w : Who} {f : Flight} {pc : Option Word} {pg pe cx te n : Nat}

theorem SameRegs.ctx_of_some {c : Ctx} (h : SameRegs s t) (hc : s.ctx? pg pe cx = some c) :
    ∃ c', t.ctx? pg pe cx = some c' ∧ c'.a = c.a ∧ c'.v = c.v ∧ c'.withheld = c.withheld ∧ c'.groups = c.groups := by
  obtain ⟨c', hc', e⟩ := Option.map_eq_some_iff.mp ((h.ctx pg pe cx).trans (congrArg (Option.map Ctx.regs) hc))
  simp only [Ctx.regs, Prod.mk.injEq] at e
  exact ⟨c', hc', e⟩

theorem SameRegs.tctx_of_some {c : TCtx} (h : SameRegs s t) (hc : s.tctx? te cx = some c) :
    ∃ c', t.tctx? te cx = some c' ∧ c'.regs = c.regs :=
  Option.map_eq_some_iff.mp ((h.tctx te cx).trans (congrArg (Option.map TCtx.regs) hc))

/-- In the context of the word, a predicate that it holds is pending; every other predicate is as it was. -/
theorem Launched.pred_at {c c' : Ctx} (h : Launched s t w f pc) (hc : s.ctx? pg pe cx = some c)
    (hc' : t.ctx? pg pe cx = some c') :
    ((∃ sl, w = .elem pg pe cx sl) → Res.p n ∈ f.holds → n < c.p.length → c'.p[n]? = some .pend) ∧
    ((∀ sl, w ≠ .elem pg pe cx sl) ∨ Res.p n ∉ f.holds → c'.p[n]? = c.p[n]?) := by
  have hat (sl : Nat) (hw : w = .elem pg pe cx sl) : c'.p = pendAll f.holds c.p := by
    simpa [hc, hc'] using h.pended pg pe cx sl hw
  constructor
  · rintro ⟨sl, hw⟩ hn hl
    rw [hat sl hw, pendAll_pending hn hl]
  · intro hn
    by_cases hw : ∃ sl, w = .elem pg pe cx sl
    · obtain ⟨sl, hw⟩ := hw
      rw [hat sl hw, pendAll_other c.p (hn.resolve_left fun k => k sl hw)]
    · have hp := h.pred pg pe cx fun sl e => hw ⟨sl, e⟩
      simp only [hc, hc', Option.map_some, Option.some.injEq] at hp
      rw [hp]

/-- In a teller's context the pc moves on, too; every other teller context is as it was. -/
theorem Launched.flow_at {c c' : TCtx} (h : Launched s t w f pc) (hc : s.tctx? te cx = some c)
    (hc' : t.tctx? te cx = some c') :
    ((∃ a, w = .tel te cx a) → c'.pc = pc.getD (c.pc + 8) ∧
      ∀ n, (Res.p n ∈ f.holds → n < c.p.length → c'.p[n]? = some .pend) ∧ (Res.p n ∉ f.holds → c'.p[n]? = c.p[n]?)) ∧
    ((∀ a, w ≠ .tel te cx a) → c'.pc = c.pc ∧ c'.p = c.p) := by
  constructor
  · rintro ⟨a, hw⟩
    have hm := h.moved te cx a hw
    simp only [hc, hc', Option.map_some, Option.some.injEq, TCtx.flow, Prod.mk.injEq] at hm
    obtain ⟨hp, hpc⟩ := hm
    refine ⟨hpc, fun n => ⟨fun hn hl => ?_, fun hn => ?_⟩⟩
    · rw [hp, pendAll_pending hn hl]
    · rw [hp, pendAll_other c.p hn]
  · intro hw
    have hf := h.flow te cx hw
    simp only [hc, hc', Option.map_some, Option.some.injEq, TCtx.flow, Prod.mk.injEq] at hf
    exact ⟨hf.2, hf.1⟩

end LaunchedContexts

/-! ## A word that a unit performs -/

theorem launched_handed (s : State) (w : Who) (g : Guard) (f : Flight) : Launched s.taken (s.handed w g f) w f none :=
  have h := launched_launch { s.taken with free := s.free + 1 } w (deqsOf g) f none 1
  { h with regs := { h.regs with } }

/-- Settles O9. Firing leaves every register and unit as it was (`launched_handed`); predicates and pcs are `pred_at` and
`flow_at`. -/
theorem handingFrame : Obligations.HandingFrame := by
  unfold Obligations.HandingFrame
  intro s i g w x f _
  have h := launched_handed s w g f
  have r := h.regs
  refine ⟨r.mem, r.poison, r.issue, r.tasks, r.links, r.reqs, r.flights, r.page, r.pe, ?_, ?_⟩
  · intro pg pe cx c hc
    obtain ⟨c', hc', ha, hv, hw, hg⟩ := r.ctx_of_some hc
    exact ⟨c', hc', ha, hv, hw, hg, fun n => h.pred_at hc hc'⟩
  · intro te cx c hc
    obtain ⟨c', hc', e⟩ := r.tctx_of_some hc
    simp only [TCtx.regs, Prod.mk.injEq] at e
    obtain ⟨ha, hv, -, htvec, hepc, hcause, htval, -, htstat, hasid, -⟩ := e
    exact ⟨c', hc', ha, hv, htvec, hepc, hcause, htval, htstat, hasid, h.flow_at hc hc'⟩

/-! ## A word with known results -/

/-- At most the state of one slot of an element differs. -/
structure SlotSet (s t : State) : Prop where
  rest : { t with pages := s.pages } = s
  page : ∀ pg, (t.page? pg).map Page.units = (s.page? pg).map Page.units
  pe : ∀ pg pe, (t.pe? pg pe).map (fun e => (e.k, e.ports)) = (s.pe? pg pe).map fun e => (e.k, e.ports)
  ctx : ∀ pg pe cx, t.ctx? pg pe cx = s.ctx? pg pe cx

theorem SlotSet.refl (s : State) : SlotSet s s := ⟨rfl, fun _ => rfl, fun _ _ => rfl, fun _ _ _ => rfl⟩

theorem slotSet_modSlot (s : State) (pg pe n : Nat) (f : Slot → Slot) : SlotSet s (s.modSlot pg pe n f) where
  rest := rfl
  page _ := map_page?_modPage fun _ => rfl
  pe _ _ := map_pe?_modPe fun _ => rfl
  ctx _ _ _ := ctx?_modPe_of_ctxs fun _ => rfl

/-- The flight of a word with known results: it writes back at the end of its W-th fc (R20). -/
def State.doneFlight (s : State) (w : Who) (x : Word) (d : Done) : Flight :=
  let wr := { d.wr with p := d.wr.p ++ puWrites x d.outcome d.flag }
  { s.newFlight w x with due := some (s.fc + d.w - 1), wr := wr, holds := wr.holds }

/-- The word fires, its events are counted, and its slot state is written. -/
theorem launched_launchDone (s : State) (w : Who) (x : Word) (g : Guard) (d : Done) :
    ∃ u, Launched s u w (s.doneFlight w x d) d.pc ∧ SlotSet u (s.launchDone w x g d) := by
  have h := launched_launch s w (d.deq.getD (deqsOf g)) (s.doneFlight w x d) d.pc d.gap
  refine ⟨_, h.trans (sameCtxs_count _ w d.ev), ?_⟩
  unfold State.launchDone
  dsimp only
  split
  next => exact slotSet_modSlot ..
  next => exact .refl _

/-- Of the predicates, such a word holds those it writes, its predicate update among them. -/
theorem mem_doneFlight_holds {w : Who} {x : Word} {d : Done} {n : Nat} :
    Res.p n ∈ (s.doneFlight w x d).holds ↔ n ∈ (d.wr.p ++ puWrites x d.outcome d.flag).map (·.1) := by
  simp [State.doneFlight, Writes.holds]

/-- Two parts that agree in `g` agree in all that `g` determines. -/
theorem map_comp_eq {α β γ : Type} {g : α → β} {a b : Option α} (φ : β → γ) (h : a.map g = b.map g) :
    a.map (φ ∘ g) = b.map (φ ∘ g) := by
  rw [← Option.map_map, ← Option.map_map, h]

/-- Settles O8. The firing is `launched_launchDone`; the slot state it may write is no register (`SlotSet`). -/
theorem firingFrame : Obligations.FiringFrame := by
  unfold Obligations.FiringFrame
  intro s i g w x d _
  obtain ⟨u, h, k⟩ := launched_launchDone s.taken w x g d
  have r := h.regs
  have rest {β : Type} (φ : State → β) (hφ : ∀ v, φ { v with pages := u.pages } = φ v) : φ (s.fired w x g d) = φ u :=
    (hφ _).symm.trans (congrArg φ k.rest)
  have hctx (pg pe cx : Nat) : (s.fired w x g d).ctx? pg pe cx = u.ctx? pg pe cx := k.ctx pg pe cx
  have htctx (te cx : Nat) : (s.fired w x g d).tctx? te cx = u.tctx? te cx := rest (·.tctx? te cx) fun _ => rfl
  refine ⟨(rest State.mem fun _ => rfl).trans r.mem, (rest State.poison fun _ => rfl).trans r.poison,
    (rest State.issue fun _ => rfl).trans r.issue, (rest State.tasks fun _ => rfl).trans r.tasks,
    (rest State.links fun _ => rfl).trans r.links, (rest State.reqs fun _ => rfl).trans r.reqs,
    ⟨_, (rest State.flights fun _ => rfl).trans r.flights, rfl, rfl, rfl, rfl⟩, ?_, ?_, ?_, ?_, ?_, ?_⟩
  · exact fun pg => map_comp_eq (fun q => (q.1, q.2.1)) ((k.page pg).trans (r.page pg))
  · exact fun pg pe => (k.pe pg pe).trans (map_comp_eq (fun q => (q.1, q.2.1)) (r.pe pg pe))
  · intro pg pe cx
    rw [hctx]; exact r.ctx pg pe cx
  · intro pg pe cx c c' hc hc' n
    rw [hctx] at hc'
    simpa only [mem_doneFlight_holds] using h.pred_at (n := n) hc hc'
  · intro te cx
    rw [htctx]; exact r.tctx te cx
  · intro te cx c c' hc hc'
    rw [htctx] at hc'
    simpa only [mem_doneFlight_holds] using h.flow_at hc hc'

/-! ## A flight that ends -/

theorem flight?_dropFlight_same (s : State) (fid : Nat) : (s.dropFlight fid).flight? fid = none := by
  simp only [State.flight?, dropFlight_flights, List.find?_eq_none, List.mem_filter]
  rintro f ⟨-, hf⟩
  simpa using hf

theorem flight?_dropFlight_other (s : State) {fid i : Nat} (h : i ≠ fid) : (s.dropFlight fid).flight? i = s.flight? i := by
  simp only [State.flight?, dropFlight_flights, List.find?_filter]
  congr 1
  funext f
  by_cases hf : f.fid = i <;> simp [hf, h]

/-! ## Writing a list of registers -/

/-- A register file after some writes: as long as before; registers not named as before, and one named alone holds its value. -/
theorem foldl_set_frame {α : Type} (ws : List (Nat × α)) (l : List α) :
    (ws.foldl (fun l w => l.set w.1 w.2) l).length = l.length ∧
    ∀ n, ((∀ v, (n, v) ∉ ws) → (ws.foldl (fun l w => l.set w.1 w.2) l)[n]? = l[n]?) ∧
      (∀ v, ws = [(n, v)] → n < l.length → (ws.foldl (fun l w => l.set w.1 w.2) l)[n]? = some v) := by
  have hlen (ws : List (Nat × α)) (l : List α) : (ws.foldl (fun l w => l.set w.1 w.2) l).length = l.length :=
    foldl_rel (R := fun a b : List α => b.length = a.length) (fun _ => rfl) (fun h k => k.trans h)
      (fun l w => List.length_set) ws l
  refine ⟨hlen ws l, fun n => ⟨fun hn => ?_, fun v hv hl => ?_⟩⟩
  · induction ws generalizing l with
    | nil => rfl
    | cons w ws ih =>
      have hw : w.1 ≠ n := fun e => hn w.2 (by rw [← e]; exact List.mem_cons_self ..)
      rw [List.foldl_cons, ih (l.set w.1 w.2) fun v hv => hn v (List.mem_cons_of_mem _ hv), List.getElem?_set_ne hw]
  · rw [hv]
    exact List.getElem?_set_self hl

/-! ## Writing back -/

/-- The first step of a write-back: the registers and predicates of the context, and of the shadows taken since the word fired. -/
def State.written (s : State) (w : Who) (born : Nat) (wr : Writes) : State :=
  match w with
  | .elem pg pe cx _ => s.modPe pg pe fun e =>
      { e with live := { e.live with ctxs := e.live.ctxs.modify cx fun c => c.write wr }
               shadows := e.shadows.map fun sh =>
                 if born ≤ sh.taken then
                   { sh with live := { sh.live with ctxs := sh.live.ctxs.modify cx fun c => c.write wr } } else sh }
  | .tel t cx _ => s.modTctx t cx fun c => c.write wr

/-- Regions, dies and the teller contexts other than an agent's own are the same in both states. -/
structure SameAside (w : Who) (s t : State) : Prop where
  regions : t.regions = s.regions
  dies : t.dies = s.dies
  tctx : ∀ te cx, (∀ pc, w ≠ .tel te cx pc) → t.tctx? te cx = s.tctx? te cx

theorem SameAside.refl (w : Who) (s : State) : SameAside w s s := ⟨rfl, rfl, fun _ _ _ => rfl⟩

theorem SameAside.trans {w : Who} (h : SameAside w s t) (k : SameAside w t u) : SameAside w s u :=
  ⟨k.regions.trans h.regions, k.dies.trans h.dies, fun te cx hw => (k.tctx te cx hw).trans (h.tctx te cx hw)⟩

theorem sameAside_modTctx (s : State) (te cx : Nat) (pc : Word) (f : TCtx → TCtx) :
    SameAside (.tel te cx pc) s (s.modTctx te cx f) where
  regions := rfl
  dies := rfl
  tctx ue cy hw := tctx?_modTctx_other s (fun e => by cases e; exact hw pc rfl) f

/-- What the rest of a write-back leaves alone: every register, predicate and unit, and all that is not the agent's. -/
def AfterWrite (w : Who) (s t : State) : Prop := SameCtxs s t ∧ SameAside w s t

theorem AfterWrite.refl (w : Who) (s : State) : AfterWrite w s s := ⟨.refl s, .refl w s⟩

theorem AfterWrite.trans {w : Who} (h : AfterWrite w s t) (k : AfterWrite w t u) : AfterWrite w s u :=
  ⟨h.1.trans k.1, h.2.trans k.2⟩

theorem afterWrite_modPage (w : Who) (s : State) {pg : Nat} {f : Page → Page}
    (h : ∀ p, f p = { p with routes := (f p).routes }) : AfterWrite w s (s.modPage pg f) :=
  ⟨sameCtxs_modPage s (fun p => by rw [h]; rfl) fun p => by rw [h], rfl, rfl, fun _ _ _ => rfl⟩

theorem afterWrite_modTctx (s : State) {te cx : Nat} {pc : Word} {f : TCtx → TCtx} (h : ∀ c, (f c).regs = c.regs)
    (hf : ∀ c, (f c).flow = c.flow) : AfterWrite (.tel te cx pc) s (s.modTctx te cx f) :=
  ⟨sameCtxs_modTctx s h hf, sameAside_modTctx s te cx pc f⟩

theorem afterWrite_notifyOne (s : State) (te cx : Nat) (pc : Word) : AfterWrite (.tel te cx pc) s (s.notifyOne te cx) := by
  unfold State.notifyOne
  split
  next => exact .refl _ s
  next =>
    split
    next =>
      split
      next =>
        split
        next =>
          have hp (f : Ptn → Ptn) (n : Nat) : AfterWrite (.tel te cx pc) s (s.modPtn n f) :=
            ⟨sameCtxs_modPtn s f, rfl, rfl, fun _ _ _ => rfl⟩
          exact (hp _ _).trans (afterWrite_modTctx _ (fun _ => rfl) fun _ => rfl)
        next => exact .refl _ s
      next => exact .refl _ s
    next => exact .refl _ s

/-- Tokens and pulses put into out latches change only routes. -/
theorem putAll_routes {α : Type} {f : Page → α → Page} (hf : ∀ p a, f p a = { p with routes := (f p a).routes })
    (l : List α) (p : Page) : l.foldl f p = { p with routes := (l.foldl f p).routes } :=
  foldl_rel (R := fun p q : Page => q = { p with routes := q.routes }) (fun _ => rfl)
    (fun h k => by rw [k, h]) hf l p

theorem afterWrite_applyWrites (s : State) (w : Who) (born : Nat) (wr : Writes) :
    AfterWrite w (s.written w born wr) (s.applyWrites w born wr) := by
  cases w with
  | elem pg pe cx sl =>
    refine afterWrite_modPage _ _ fun p => ?_
    dsimp only
    rw [putAll_routes (fun _ _ => rfl) wr.sig, putAll_routes (fun _ _ => rfl) wr.out]
  | tel te cx pc =>
    refine foldl_rel (AfterWrite.refl _) AfterWrite.trans (fun v o => ?_) wr.out _
    refine AfterWrite.trans ?_ (afterWrite_notifyOne _ te cx pc)
    exact afterWrite_modTctx v (fun _ => rfl) fun _ => rfl

theorem afterWrite_releaseOuts (s : State) (w : Who) (h : List Res) (wr : Writes) : AfterWrite w s (s.releaseOuts w h wr) :=
  foldl_rel (AfterWrite.refl w) AfterWrite.trans (fun v r => by
    split
    next =>
      split
      · exact .refl _ v
      · exact afterWrite_modPage _ v fun _ => rfl
    next =>
      split
      · exact .refl _ v
      · exact afterWrite_modTctx v (fun _ => rfl) fun _ => rfl
    next => exact .refl _ v) h s

theorem afterWrite_drainDone (s : State) (f : Flight) : AfterWrite f.who s (s.drainDone f) := by
  unfold State.drainDone
  split
  next =>
    split
    · exact ⟨sameCtxs_modPe s (fun _ => rfl) fun _ => rfl, rfl, rfl, fun _ _ _ => rfl⟩
    · exact .refl _ s
  next => exact .refl _ s

/-- A write-back writes the context's registers; what follows changes none of them. -/
theorem afterWrite_settle (s : State) (f : Flight) (wr : Writes) :
    AfterWrite f.who ((s.dropFlight f.fid).written f.who f.born wr) (s.settle f wr) :=
  (afterWrite_applyWrites ..).trans ((afterWrite_releaseOuts ..).trans (afterWrite_drainDone ..))

theorem sameUnits_written (s : State) (w : Who) (born : Nat) (wr : Writes) : SameUnits s (s.written w born wr) := by
  cases w with
  | elem pg pe cx sl => exact sameUnits_modPe s fun _ => rfl
  | tel te cx pc => exact sameUnits_modTctx s _

theorem sameAside_written (s : State) (w : Who) (born : Nat) (wr : Writes) : SameAside w s (s.written w born wr) := by
  cases w with
  | elem pg pe cx sl => exact ⟨rfl, rfl, fun _ _ _ => rfl⟩
  | tel te cx pc => exact sameAside_modTctx s te cx pc _

theorem ctx?_written_other (s : State) {w : Who} {pg pe cx : Nat} (h : ∀ sl, w ≠ .elem pg pe cx sl) (born : Nat)
    (wr : Writes) : (s.written w born wr).ctx? pg pe cx = s.ctx? pg pe cx := by
  cases w with
  | elem qg qe cy sl =>
    rw [State.written, State.ctx?, pe?_modPe, State.ctx?]
    split
    next e =>
      obtain ⟨rfl, rfl⟩ := e
      have hc : cy ≠ cx := fun e => h sl (by rw [e])
      cases s.pe? pg pe <;> simp [hc]
    next => rfl
  | tel te cy pc => rfl

theorem ctx?_written_same (s : State) (pg pe cx sl born : Nat) (wr : Writes) :
    (s.written (.elem pg pe cx sl) born wr).ctx? pg pe cx = (s.ctx? pg pe cx).map fun c => c.write wr := by
  rw [State.written, State.ctx?, pe?_modPe, if_pos ⟨rfl, rfl⟩, State.ctx?]
  cases s.pe? pg pe <;> simp

/-- Contexts are equal when their registers and their predicates are. -/
theorem SameCtxs.ctx?_eq (h : SameCtxs s t) (pg pe cx : Nat) : t.ctx? pg pe cx = s.ctx? pg pe cx := by
  have hr := h.ctx pg pe cx
  have hp := h.pred pg pe cx
  cases hs : s.ctx? pg pe cx <;> cases ht : t.ctx? pg pe cx <;> simp only [hs, ht, Option.map_some, Option.map_none,
    reduceCtorEq, Option.some.injEq, Ctx.regs, Prod.mk.injEq] at hr hp ⊢
  next c d =>
    obtain ⟨ha, hv, hw, hg⟩ := hr
    cases c; cases d
    simp only at ha hv hw hg hp
    rw [ha, hv, hw, hg, hp]

theorem SameCtxs.tctx_regs_flow {te cx : Nat} {c : TCtx} (h : SameCtxs s t) (hc : s.tctx? te cx = some c) :
    ∃ c', t.tctx? te cx = some c' ∧ c'.regs = c.regs ∧ c'.flow = c.flow := by
  obtain ⟨c', hc', hr⟩ := h.tctx_of_some hc
  have hf := h.flow te cx
  rw [hc, hc', Option.map_some, Option.map_some, Option.some.injEq] at hf
  exact ⟨c', hc', hr, hf⟩

/-- Settles O10. A write-back is the writes to its context (`State.written`), then steps that change no register
(`afterWrite_settle`). -/
theorem writeBackFrame : Obligations.WriteBackFrame := by
  unfold Obligations.WriteBackFrame
  intro s f wr
  obtain ⟨k, ka⟩ := afterWrite_settle s f wr
  have r := (sameUnits_written (s.dropFlight f.fid) f.who f.born wr).trans k.toSameUnits
  have ra := (sameAside_written (s.dropFlight f.fid) f.who f.born wr).trans ka
  have hflight (i : Nat) : (s.settle f wr).flight? i = (s.dropFlight f.fid).flight? i :=
    congrArg (fun l : List Flight => l.find? fun g : Flight => g.fid = i) r.flights
  refine ⟨(hflight _).trans (flight?_dropFlight_same s f.fid), fun i hi => (hflight i).trans (flight?_dropFlight_other s hi),
    r.mem, r.poison, r.tasks, ra.regions, ra.dies, r.links, r.page, r.pe, ?_, ?_⟩
  · intro pg pe cx c hc
    refine ⟨fun hw => ?_, fun sl hw => ?_⟩
    · rw [k.ctx?_eq, ctx?_written_other _ hw]; exact hc
    · have ht : (s.settle f wr).ctx? pg pe cx = some (c.write wr) := by
        rw [k.ctx?_eq, hw, ctx?_written_same]
        exact congrArg (Option.map fun c : Ctx => c.write wr) hc
      have hp := foldl_set_frame (wr.p.map fun p => (p.1, if p.2 then Tri.tt else .ff)) c.p
      rw [List.foldl_map] at hp
      exact ⟨c.write wr, ht, rfl, rfl, foldl_set_frame wr.a c.a, foldl_set_frame wr.v c.v, hp⟩
  · intro te cx c hc
    refine ⟨fun hw => (ra.tctx te cx hw).trans hc, fun pc hw => ?_⟩
    have hs : ((s.dropFlight f.fid).written f.who f.born wr).tctx? te cx = some (c.write wr) := by
      rw [hw]
      refine (tctx?_modTctx_same ..).trans ?_
      exact congrArg (Option.map fun c : TCtx => c.write wr) hc
    obtain ⟨c', hc', hr, hf⟩ := k.tctx_regs_flow hs
    simp only [TCtx.regs, TCtx.flow, TCtx.write, Prod.mk.injEq] at hr hf
    obtain ⟨ha, hv, hrun, -, -, -, -, -, htstat, -, -⟩ := hr
    obtain ⟨hp, hpc⟩ := hf
    have hpw := foldl_set_frame (wr.p.map fun p => (p.1, if p.2 then Tri.tt else .ff)) c.p
    rw [List.foldl_map, ← hp] at hpw
    have haw := foldl_set_frame wr.a c.a
    have hvw := foldl_set_frame wr.v c.v
    rw [← ha] at haw
    rw [← hv] at hvw
    exact ⟨c', hc', hpc, htstat, hrun, haw, hvw, hpw⟩

end Sys2Proof.Machine
end

section
/-!
SUPPORT. The reset state (R376, R390, R9; log 5-8).
-/

set_option Elab.async false

namespace Sys2Proof.Machine

theorem tctx?_reset {t cx : Nat} (ht : t < 18) (hc : cx < 4) : State.reset.tctx? t cx = some TCtx.reset := by
  simp only [State.tctx?, State.reset, Teller.reset, List.getElem?_replicate, ht, hc, if_true, Option.bind_some]

/-- Of a link's sixteen groups the lowest eight carry up traffic. -/
theorem link_reset_groups : ∀ i, i < 16 → (Link.reset.groups.getD i ⟨true, false, none, 0⟩).up = decide (i < 8) := by
  decide

/-- Settles O5. -/
theorem resetState : Obligations.ResetState := by
  unfold Obligations.ResetState
  refine ⟨wf_reset, rfl, rfl, rfl, rfl, ?_, rfl, rfl, rfl, rfl, rfl, rfl, fun _ => rfl, ?_, rfl, rfl, rfl, rfl⟩
  · intro l hl
    rw [List.eq_of_mem_replicate hl]
    exact ⟨rfl, rfl, link_reset_groups⟩
  · intro t cx ht hc
    exact ⟨TCtx.reset, tctx?_reset ht hc, rfl, rfl, rfl, rfl, rfl, rfl, rfl⟩

end Sys2Proof.Machine
end

section
/-!
SUPPORT. The steps by which words fire and tokens move in a page, and a teller's own steps (R13, R15, R18, R20, R22-R25, R43,
R228, R240, R419, R421, R422): each completes in every state, and one equation or effect per case of each.
-/

set_option Elab.async false

namespace Sys2Proof.Machine

/-! ## Every one of these events completes -/

section Completes

variable (s : State) (pg pe rt port te cx line : Nat)

theorem peArbiterFire_completes : ∃ u, exec (.peArbiterFire pg pe) s = .next u := by
  change ∃ u, execPeArbiterFire pg pe s = .next u
  unfold execPeArbiterFire
  dsimp only
  split <;> exact ⟨_, rfl⟩

theorem writeBack_completes (fid : Nat) : ∃ u, exec (.writeBack fid) s = .next u := by
  change ∃ u, execWriteBack fid s = .next u
  unfold execWriteBack
  repeat' split
  all_goals exact ⟨_, rfl⟩

theorem tokenAdvance_completes : ∃ u, exec (.tokenAdvance pg rt) s = .next u := by
  change ∃ u, execTokenAdvance pg rt s = .next u
  unfold execTokenAdvance
  repeat' split
  all_goals exact ⟨_, rfl⟩

theorem routerPacketEgress_completes : ∃ u, exec (.routerPacketEgress pg rt) s = .next u := by
  change ∃ u, execRouterPacketEgress pg rt s = .next u
  unfold execRouterPacketEgress
  split
  next => exact ⟨_, rfl⟩
  next =>
    split
    next => exact ⟨_, rfl⟩
    next =>
      split
      next => exact ⟨_, rfl⟩
      next =>
        split
        next => exact ⟨_, rfl⟩
        next =>
          extract_lets free room toks
          split
          · exact ⟨_, rfl⟩
          · exact ⟨_, rfl⟩

theorem routerPacketIngress_completes (pk : Nat) : ∃ u, exec (.routerPacketIngress pk) s = .next u := by
  change ∃ u, execRouterPacketIngress pk s = .next u
  unfold execRouterPacketIngress
  split
  next => exact ⟨_, rfl⟩
  next k _ =>
    extract_lets first open_
    split
    · exact ⟨_, rfl⟩
    · cases k.toks <;> exact ⟨_, rfl⟩

theorem isectPresent_completes : ∃ u, exec (.isectPresent pg pe) s = .next u := by
  change ∃ u, execIsectPresent pg pe s = .next u
  unfold execIsectPresent
  split
  next =>
    extract_lets prev bad
    split
    · exact ⟨_, rfl⟩
    · split
      · exact ⟨_, rfl⟩
      · split
        next => split_ifs <;> exact ⟨_, rfl⟩
        next => exact ⟨_, rfl⟩
  next => exact ⟨_, rfl⟩

theorem pulseApply_completes : ∃ u, exec (.pulseApply pg pe port) s = .next u := by
  change ∃ u, execPulseApply pg pe port s = .next u
  unfold execPulseApply
  repeat' split
  all_goals exact ⟨_, rfl⟩

theorem drainAbsorb_completes : ∃ u, exec (.drainAbsorb pg pe port) s = .next u := by
  change ∃ u, execDrainAbsorb pg pe port s = .next u
  unfold execDrainAbsorb
  repeat' split
  all_goals exact ⟨_, rfl⟩

theorem lengthMarkerAtHead_completes : ∃ u, exec (.lengthMarkerAtHead pg pe port) s = .next u := by
  change ∃ u, execLengthMarkerAtHead pg pe port s = .next u
  unfold execLengthMarkerAtHead
  split <;> exact ⟨_, rfl⟩

theorem poisonMarkerAtHead_completes : ∃ u, exec (.poisonMarkerAtHead pg pe port) s = .next u := by
  change ∃ u, execPoisonMarkerAtHead pg pe port s = .next u
  unfold execPoisonMarkerAtHead
  split <;> exact ⟨_, rfl⟩

theorem tellerIssue_completes : ∃ u, exec (.tellerIssue te) s = .next u := by
  change ∃ u, execTellerIssue te s = .next u
  unfold execTellerIssue
  repeat' split
  all_goals exact ⟨_, rfl⟩

theorem tellerFetchLine_completes : ∃ u, exec (.tellerFetchLine te cx line) s = .next u := by
  change ∃ u, execTellerFetchLine te cx line s = .next u
  unfold execTellerFetchLine
  repeat' split
  all_goals exact ⟨_, rfl⟩

theorem lateTrap_completes (fid : Nat) : ∃ u, exec (.lateTrap fid) s = .next u := by
  change ∃ u, execLateTrap fid s = .next u
  unfold execLateTrap
  repeat' split
  all_goals exact ⟨_, rfl⟩

end Completes

variable {s : State} {pg pe rt port : Nat} {p : Page} {e : Pe}

/-! ## The arbiter and write-back (R18, R20) -/

theorem peArbiterFire_of_pick {n : Nat} (h : s.arbiterPick pg pe = some n) :
    ∃ u, exec (.peArbiterFire pg pe) s = .next u ∧ u.issue = some (s.slotWho pg pe n) := by
  change ∃ u, execPeArbiterFire pg pe s = .next u ∧ _
  simp only [execPeArbiterFire, h]
  exact ⟨_, rfl, rfl⟩

theorem writeBack_of_due {f : Flight} {d : Nat} (hf : s.flight? f.fid = some f) (hd : f.due = some d) (hle : d ≤ s.fc)
    (hp : s.mayPublish f = true) : exec (.writeBack f.fid) s = .next (s.settle f f.wr) := by
  change execWriteBack f.fid s = _
  simp only [execWriteBack, hf, hd, hle, hp, and_self, if_true]

/-! ## Routes (R13) -/

@[simp] theorem page?_stir (s : State) (pg q : Nat) : (s.stir pg).page? q = s.page? q := by
  unfold State.stir
  split <;> rfl

@[simp] theorem ctx?_stir (s : State) (pg q pe cx : Nat) : (s.stir pg).ctx? q pe cx = s.ctx? q pe cx := by
  simp only [State.ctx?, State.pe?, page?_stir]

theorem tokenAdvance_flowing (hp : s.page? pg = some p) (hr : rt < p.routes.length) (hf : s.flowing pg = true) :
    ∃ u, exec (.tokenAdvance pg rt) s = .next u ∧
      u.page? pg = some { p with routes := p.routes.modify rt (Route.advance s.fc) } := by
  change ∃ u, execTokenAdvance pg rt s = .next u ∧ _
  have hp' : (s.modPage pg fun p => { p with routes := p.routes.modify rt (Route.advance s.fc) }).page? pg =
      some { p with routes := p.routes.modify rt (Route.advance s.fc) } := by
    rw [page?_modPage_same, hp]; rfl
  simp only [execTokenAdvance, hp, Option.bind_some, List.getElem?_eq_getElem hr, hf, Bool.not_true, Bool.false_eq_true, if_false]
  refine ⟨_, rfl, ?_⟩
  split
  · exact hp'
  · rw [page?_stir]; exact hp'

/-! ## Between routers (R340, R421) -/

theorem le_nocSend {f : Nat} (hf : 1 ≤ f) (ls : List Nat) (t : Nat) (noc : List (Nat × Nat)) :
    t + ls.length ≤ (nocSend f ls t noc).1 := by
  induction ls generalizing t noc with
  | nil => exact Nat.le_refl t
  | cons l ls ih =>
    have := ih (max t ((alGet l noc).getD 0) + f) (alSet l (max t ((alGet l noc).getD 0) + f) noc)
    rw [List.length_cons]
    exact le_trans (by omega) this

/-- A packet's links are as many as the frames are apart. -/
theorem length_nocPath (pg q : Nat) : (nocPath (frameOfPage pg) (frameOfPage q)).length = frameDist pg q := by
  simp only [nocPath, tab, List.length_append, List.length_map, List.length_range, frameDist]
  exact Nat.add_comm ..

theorem tokFlits_pos (net : Nat) (t : Tok) : 1 ≤ tokFlits net t := by
  unfold tokFlits
  split
  · exact Nat.le_refl 1
  · split
    · decide
    · exact le_min (by decide) (Nat.le_add_right ..)

theorem le_foldl_max_due (l : List Packet) (m : Nat) :
    m ≤ l.foldl (fun m k => max m k.due) m ∧ ∀ z ∈ l, z.due ≤ l.foldl (fun m k => max m k.due) m := by
  induction l generalizing m with
  | nil => exact ⟨Nat.le_refl m, fun _ h => absurd h List.not_mem_nil⟩
  | cons k l ih =>
    obtain ⟨hm, hl⟩ := ih (max m k.due)
    refine ⟨(Nat.le_max_left ..).trans hm, fun z hz => ?_⟩
    cases hz with
    | head => exact (Nat.le_max_right ..).trans hm
    | tail _ hz => exact hl z hz

/-- The flits of a packet of a network's tokens. -/
def packetFlits (net : Nat) : List Tok → Nat
  | [t] => tokFlits net t
  | _ => if net = 1 then 1 else 4

theorem packetFlits_pos (net : Nat) (toks : List Tok) : 1 ≤ packetFlits net toks := by
  unfold packetFlits
  split
  · exact tokFlits_pos ..
  · split <;> decide

/-- When a packet that leaves now for route `j` of page `q` has come through, behind every earlier one of that route. -/
def State.arrival (s : State) (pg q j net : Nat) (toks : List Tok) : Nat :=
  max ((s.packets.filter fun k => k.pg = q ∧ k.rt = j).foldl (fun m k => max m k.due) 0)
    (nocSend (packetFlits net toks) (nocPath (frameOfPage pg) (frameOfPage q))
      (s.fc + Config.freeNat s.free % (frameDist pg q * 64 + 1)) (s.die (dieOfPage pg)).noc).1

/-- It arrives no sooner than its links take. -/
theorem dist_le_arrival (s : State) (pg q j net : Nat) (toks : List Tok) :
    s.fc + frameDist pg q ≤ s.arrival pg q j net toks := by
  have h := le_nocSend (packetFlits_pos net toks) (nocPath (frameOfPage pg) (frameOfPage q))
    (s.fc + Config.freeNat s.free % (frameDist pg q * 64 + 1)) (s.die (dieOfPage pg)).noc
  rw [length_nocPath] at h
  exact le_trans (by omega) (h.trans (Nat.le_max_right ..))

theorem due_le_arrival {q j : Nat} {z : Packet} (hz : z ∈ s.packets) (hq : z.pg = q) (hj : z.rt = j) (pg net : Nat)
    (toks : List Tok) : z.due ≤ s.arrival pg q j net toks :=
  ((le_foldl_max_due _ 0).2 z (List.mem_filter.mpr ⟨hz, by simp [hq, hj]⟩)).trans (Nat.le_max_left ..)

/-- The room that a far ingress has for tokens of an egress, those on their way not counted. -/
def State.space (s : State) (q j : Nat) : Nat :=
  (((s.page? q).bind fun d => d.routes[j]?).map fun x => ((x.latches.take 4).filter Option.isNone).length).getD 0

theorem routerPacketEgress_sends {r : Route} {q j : Nat} {toks : List Tok} (hp : s.page? pg = some p)
    (hr : p.routes[rt]? = some r) (hv : r.viaRouter = true) (hd : r.dst = 0xFFFF) (hf : s.flowing pg = true)
    (hm : s.slotMine p.ptn (dieOfPage pg) = true) (hfar : s.farRoute p r = some (q, j))
    (htoks : packTokens (min 4 (s.space q j - s.onTheWay q j)) ((r.latches.reverse).take 4) = toks)
    (hne : toks ≠ []) (hroom : s.space q j - s.onTheWay q j ≠ 0) :
    ∃ u, exec (.routerPacketEgress pg rt) s = .next u ∧
      u.packets = s.packets ++ [⟨s.ids, q, j, toks, s.arrival pg q j r.net toks⟩] := by
  change ∃ u, execRouterPacketEgress pg rt s = .next u ∧ _
  have hgo : ¬((!r.viaRouter) = true ∨ r.dst ≠ 0xFFFF ∨ (!s.flowing pg) = true ∨
      (!s.slotMine p.ptn (dieOfPage pg)) = true) := by
    simp [hv, hd, hf, hm]
  have hsend : ¬(toks = [] ∨ s.space q j - s.onTheWay q j = 0) := by simp [hne, hroom]
  unfold State.space at htoks hsend
  simp only [execRouterPacketEgress, hp, hr, if_neg hgo, hfar, htoks, if_neg hsend]
  exact ⟨_, rfl, iteInduction (motive := fun v : State => v.packets = _) (fun _ => rfl) fun _ => rfl⟩

theorem routerPacketIngress_puts {k : Packet} {t : Tok} {more : List Tok}
    (hk : s.packets.find? (fun q => q.pk = k.pk) = some k) (hdue : s.fc ≥ k.due)
    (hfirst : (s.packets.find? fun q => q.pg = k.pg ∧ q.rt = k.rt) = some k)
    (hopen : (((s.page? k.pg).bind fun d => d.routes[k.rt]?).map Route.outFree) = some true) (htoks : k.toks = t :: more) :
    ∃ u, exec (.routerPacketIngress k.pk) s = .next u ∧
      u.page? k.pg = (s.page? k.pg).map fun d => { d with routes := d.routes.modify k.rt (Route.put s.fc t) } := by
  change ∃ u, execRouterPacketIngress k.pk s = .next u ∧ _
  have hgo : ¬(s.fc < k.due ∨ some k.pk ≠ some k.pk ∨ (!(some true).getD false) = true) := by
    simp [Nat.not_lt.mpr hdue]
  simp only [execRouterPacketIngress, hk, hfirst, hopen, Option.map_some, if_neg hgo, htoks]
  exact ⟨_, rfl, page?_modPage_same ..⟩

/-! ## The intersection unit (R15) -/

/-- The unit drops the head `t` of port `i`. -/
def State.isectDrop (s : State) (pg pe i : Nat) (t : Tok) : State := (s.takeElem pg pe i).modLive pg pe fun l => l.ran i t

/-- The unit presents both heads. -/
def State.isectShow (s : State) (pg pe : Nat) (a b : Tok) : State :=
  s.modLive pg pe fun l => { (l.ran 0 a).ran 1 b with
    isectUp := (if openTok (some a) then 1 else 0) + if openTok (some b) then 2 else 0 }

/-- What the unit does with two heads that ascend in their runs. -/
theorem isectPresent_heads {a b : Tok} (hp : s.page? pg = some p) (he : s.pe? pg pe = some e) (hon : e.isectOn = true)
    (hup : e.live.isectUp = 0) (hst : e.stopped = false) (hrun : s.running pg = true)
    (ha : p.headAt (epPe pe 0) = some a) (hb : p.headAt (epPe pe 1) = some b)
    (hasc : ∀ i < 2, ∀ t, p.headAt (epPe pe i) = some t → t.descends (e.live.isect[i]?).join = false) :
    exec (.isectPresent pg pe) s = .next (
      if a.tag = tagData ∧ b.tag = tagData then
        if a.coord = b.coord then s.isectShow pg pe a b
        else if a.coord < b.coord then s.isectDrop pg pe 0 a else s.isectDrop pg pe 1 b
      else if a.tag = tagData then s.isectDrop pg pe 0 a
      else if b.tag = tagData then s.isectDrop pg pe 1 b
      else s.isectShow pg pe a b) := by
  change execIsectPresent pg pe s = _
  have h0 := hasc 0 (by decide) a ha
  have h1 := hasc 1 (by decide) b hb
  simp only [execIsectPresent, hp, he, hon, hup, hst, hrun, ha, hb, h0, h1, Option.map_some, Option.getD_some, Bool.not_true,
    Bool.false_eq_true, Bool.or_self, ne_eq, not_true_eq_false, or_self, if_false,
    apply_ite Host.Outcome.next]
  rfl

/-! ## Pulses and markers (R23, R228, R240, R271) -/

theorem pulseApply_sets {rt cx i : Nat} {c : Ctx} (hp : s.page? pg = some p) (he : s.pe? pg pe = some e)
    (hrt : p.pulseAt pe port = some rt) (hb : (e.pbind[port]?).join = some (cx, i)) (hc : e.live.ctxs[cx]? = some c)
    (hf : c.p.getD i .pend = .ff) :
    ∃ u, exec (.pulseApply pg pe port) s = .next u ∧
      (i < c.p.length → (u.ctx? pg pe cx).map (·.p[i]?) = some (some .tt)) ∧
      ((u.page? pg).bind fun d => d.routes[rt]?) = p.routes[rt]?.map Route.pulseTaken := by
  change ∃ u, execPulseApply pg pe port s = .next u ∧ _
  simp only [execPulseApply, hp, he, hrt, hb, hc, Option.map_some, hf, if_true]
  refine ⟨_, rfl, fun hi => ?_, ?_⟩
  · have hctx : s.ctx? pg pe cx = some c := by rw [State.ctx?, he]; exact hc
    rw [ctx?_stir, ctx?_modPage_of_pes, ctx?_modCtx_same, hctx]
    · simp [hi]
    · exact fun _ => rfl
  · rw [page?_stir, page?_modPage_same]
    simp only [State.modCtx, State.modLive, State.modPe, page?_modPage_same, hp, Option.map_some, Option.bind_some,
      List.getElem?_modify_eq]
    rfl

theorem pulseApply_waits {rt cx i : Nat} {c : Ctx} (hp : s.page? pg = some p) (he : s.pe? pg pe = some e)
    (hrt : p.pulseAt pe port = some rt) (hb : (e.pbind[port]?).join = some (cx, i)) (hc : e.live.ctxs[cx]? = some c)
    (hf : c.p.getD i .pend ≠ .ff) : exec (.pulseApply pg pe port) s = .next s := by
  change execPulseApply pg pe port s = _
  have hne : some (c.p.getD i .pend) ≠ some .ff := fun h => hf (Option.some.inj h)
  simp only [execPulseApply, hp, he, hrt, hb, hc, Option.map_some, if_neg hne]

theorem drainAbsorb_takes (hp : s.page? pg = some p) (he : s.pe? pg pe = some e) (hd : e.drained = true)
    (ht : p.tagAt pe port = some tagDrain) (hr : s.running pg = true) :
    exec (.drainAbsorb pg pe port) s = .next (s.takeElem pg pe port) := by
  change execDrainAbsorb pg pe port s = _
  simp only [execDrainAbsorb, hp, he, hd, ht, hr, and_self, if_true]

theorem lengthMarkerAtHead_faults {t : Tok} (h : s.markerAt pg pe port 3 = some t) :
    exec (.lengthMarkerAtHead pg pe port) s =
      .next (s.elemFault pg pe { cls := clsLen, code := t.pay.toNat / 2 ^ 48 % 4 }) := by
  change execLengthMarkerAtHead pg pe port s = _
  simp only [execLengthMarkerAtHead, h]
  rfl

theorem poisonMarkerAtHead_faults {t : Tok} (h : s.markerAt pg pe port 4 = some t) :
    exec (.poisonMarkerAtHead pg pe port) s =
      .next (s.elemFault pg pe { cls := clsPoison, code := 1, opnd := t.pay.toNat % 2 ^ 56 }) := by
  change execPoisonMarkerAtHead pg pe port s = _
  simp only [execPoisonMarkerAtHead, h, bits, Nat.pow_zero, Nat.div_one]

/-! ## A teller's own steps (R24, R25, R43, R419, R422) -/

section TellerSteps

variable {te cx line : Nat} {x : Word} {c : TCtx}

theorem tellerIssue_fires (hc : s.tctx? te cx = some c) (h : s.telPick te = some (cx, .fire x)) :
    ∃ u, exec (.tellerIssue te) s = .next u ∧ u.issue = some (.tel te cx c.pc, x) := by
  change ∃ u, execTellerIssue te s = .next u ∧ _
  simp only [execTellerIssue, h, hc, Option.map_some, Option.getD_some]
  exact ⟨_, rfl, rfl⟩

theorem tellerIssue_skips (h : s.telPick te = some (cx, .skip x)) :
    ∃ (u : State) (v : Nat), exec (.tellerIssue te) s =
      .next (u.modTctx te cx fun c => { c with pc := c.pc + 8, after := v + 1 }) := by
  change ∃ (u : State) (v : Nat), execTellerIssue te s = _
  simp only [execTellerIssue, h]
  exact ⟨_, _, rfl⟩

theorem tellerIssue_traps {q : FaultInfo} (hc : s.tctx? te cx = some c) (h : s.telPick te = some (cx, .fault q x)) :
    ∃ u : State, exec (.tellerIssue te) s = .next (u.raise (.tel te cx c.pc) x q) := by
  change ∃ u : State, execTellerIssue te s = _
  simp only [execTellerIssue, h, hc, Option.map_some, Option.getD_some]
  exact ⟨_, rfl⟩

/-- The turn of a running context whose line is in its buffer: the word there is judged first by its defect. -/
theorem turnOf_buffered {bs : List Byte} (hc : s.tctx? te cx = some c) (hrun : c.run = true) (hafter : c.after ≤ s.fc)
    (hwait : c.wait = none) (hheld : s.heldPtn (c.ptn.getD 0xFF) = false) (hbad : c.bad = [])
    (hbuf : alGet (lineOf c.pc) c.buf = some bs) :
    s.turnOf te cx =
      if defect .teller (wordAt c.pc bs) ≠ 0 then
        .fault (defectFault (defect .teller (wordAt c.pc bs))) (wordAt c.pc bs)
      else match s.telGuard te cx (.tel te cx c.pc) (wordAt c.pc bs) with
        | .stall => .pass
        | .skip => .skip (wordAt c.pc bs)
        | .fire => .fire (wordAt c.pc bs) := by
  have hgo : ¬((!c.run) = true ∨ s.fc < c.after ∨ c.wait.isSome = true ∨ s.heldPtn (c.ptn.getD 0xFF) = true) := by
    simp [hrun, hwait, hheld, Nat.not_lt.mpr hafter]
  simp only [State.turnOf, hc, if_neg hgo, hbad, List.find?_nil, hbuf] <;> rfl

theorem tellerFetchLine_ok {bs : List Byte} {u : State} (hc : s.tctx? te cx = some c) (hf : c.fetch.contains line = true)
    (hr : s.readRec (Port.tel te).die c.asid none line 64 = .ok (bs, u)) :
    exec (.tellerFetchLine te cx line) s = .next (s.modTctx te cx fun c' =>
      { c' with fetch := c'.fetch.filter (· != line)
                buf := (c'.buf ++ [(line, bs)]).filter fun b => b.1 == lineOf c.pc || b.1 == nextLine (lineOf c.pc) }) := by
  change execTellerFetchLine te cx line s = _
  simp only [execTellerFetchLine, hc, hf, Bool.not_true, Bool.false_eq_true, if_false, hr]

theorem tellerFetchLine_error {q : FaultInfo} (hc : s.tctx? te cx = some c) (hf : c.fetch.contains line = true)
    (hr : s.readRec (Port.tel te).die c.asid none line 64 = .error q) :
    exec (.tellerFetchLine te cx line) s = .next (s.modTctx te cx fun c =>
      { c with fetch := c.fetch.filter (· != line), bad := (line, q.cls * 2048 + q.code, q.opnd) :: c.bad }) := by
  change execTellerFetchLine te cx line s = _
  simp only [execTellerFetchLine, hc, hf, Bool.not_true, Bool.false_eq_true, if_false, hr]
  rfl

theorem lateTrap_raises {f : Flight} {cls code detail opnd : Nat} (hf : s.flight? f.fid = some f)
    (hl : f.late = some (cls * 2 ^ 11 + code, detail, opnd)) (hc : code < 2 ^ 11) :
    exec (.lateTrap f.fid) s = .next (s.raiseFlight f { cls := cls, code := code, detail := detail, opnd := opnd }) := by
  change execLateTrap f.fid s = _
  have hcls : (cls * 2 ^ 11 + code) / 2048 = cls := by omega
  have hcode : (cls * 2 ^ 11 + code) % 2048 = code := by omega
  simp only [execLateTrap, hf, hl, hcls, hcode]

end TellerSteps

theorem modify_congr {α : Type} {l : List α} {n : Nat} {f g : α → α} (h : ∀ a, l[n]? = some a → f a = g a) :
    l.modify n f = l.modify n g := by
  refine List.ext_getElem? fun i => ?_
  rw [List.getElem?_modify, List.getElem?_modify]
  split
  next e =>
    subst e
    cases hl : l[n]? with
    | none => rfl
    | some a => exact congrArg some (h a hl)
  next => rfl

/-- An update of a context may be written with the context as it stands. -/
theorem modTctx_congr {te cx : Nat} {c : TCtx} {f g : TCtx → TCtx} (hc : s.tctx? te cx = some c) (h : f c = g c) :
    s.modTctx te cx f = s.modTctx te cx g := by
  refine congrArg (fun l => { s with tellers := l }) (modify_congr fun l hl => ?_)
  refine congrArg (fun x => { l with ctxs := x }) (modify_congr fun d hd => ?_)
  rw [State.tctx?, hl, Option.bind_some, hd] at hc
  rw [Option.some.inj hc, h]

/-- Settles O51. Each event completes (`…_completes`), and each clause is the equation of its event. -/
theorem fabricAndTellerEvents : Obligations.FabricAndTellerEvents := by
  unfold Obligations.FabricAndTellerEvents
  refine ⟨fun s pg pe rt n port p e f k => ⟨?_, peArbiterFire_of_pick, fun d => writeBack_of_due, tokenAdvance_flowing,
      ?_, ?_, ?_, ?_, drainAbsorb_takes, ?_⟩,
    fun s t cx line x c f => ⟨?_, tellerIssue_fires, fun _ => tellerIssue_skips, fun q => tellerIssue_traps, ?_, ?_, ?_,
      fun q => tellerFetchLine_error, fun _ _ _ _ => lateTrap_raises⟩⟩
  · exact ⟨peArbiterFire_completes s pg pe, writeBack_completes s f.fid, tokenAdvance_completes s pg rt,
      routerPacketEgress_completes s pg rt, routerPacketIngress_completes s k.pk, isectPresent_completes s pg pe,
      pulseApply_completes s pg pe port, drainAbsorb_completes s pg pe port, lengthMarkerAtHead_completes s pg pe port,
      poisonMarkerAtHead_completes s pg pe port⟩
  · intro r q j hp hr hv hd hf hm hfar space toks hne hroom
    obtain ⟨u, hu, hk⟩ := routerPacketEgress_sends hp hr hv hd hf hm hfar rfl hne hroom
    exact ⟨u, _, hu, hk, dist_le_arrival .., fun z hz hq hj => due_le_arrival hz hq hj ..⟩
  · exact fun t more => routerPacketIngress_puts
  · rintro a b ⟨hp, he, hon, hup, hst, hrun, ha, hb, hasc⟩
    rw [isectPresent_heads hp he hon hup hst hrun ha hb hasc]
    refine ⟨fun hta hlt => ?_, fun htb hlt => ?_, ?_⟩
    · by_cases htb : b.tag = tagData
      · rw [if_pos ⟨hta, htb⟩, if_neg (hlt htb).ne, if_pos (hlt htb)]; rfl
      · rw [if_neg fun h => htb h.2, if_pos hta]; rfl
    · by_cases hta : a.tag = tagData
      · rw [if_pos ⟨hta, htb⟩, if_neg (hlt hta).ne', if_neg (hlt hta).not_gt]; rfl
      · rw [if_neg fun h => hta h.1, if_neg hta, if_pos htb]; rfl
    · rintro (⟨hta, htb, hco⟩ | ⟨hta, htb⟩)
      · rw [if_pos ⟨hta, htb⟩, if_pos hco]; rfl
      · rw [if_neg fun h => hta h.1, if_neg hta, if_neg htb]; rfl
  · exact fun cx i c hp he hrt hb hc => ⟨pulseApply_sets hp he hrt hb hc, pulseApply_waits hp he hrt hb hc⟩
  · exact fun t => ⟨lengthMarkerAtHead_faults, poisonMarkerAtHead_faults⟩
  · exact ⟨tellerIssue_completes s t, tellerFetchLine_completes s t cx line, lateTrap_completes s f.fid⟩
  · rintro d ⟨bs, hc, hrun, hafter, hwait, hheld, hbad, hbuf, rfl, rfl⟩ hd
    exact (turnOf_buffered hc hrun hafter hwait hheld hbad hbuf).trans (if_pos hd)
  · rintro ⟨bs, hc, hrun, hafter, hwait, hheld, hbad, hbuf, rfl, hd⟩
    exact (turnOf_buffered hc hrun hafter hwait hheld hbad hbuf).trans (if_neg (not_not_intro hd))
  · intro bs u hc hf hr
    refine (tellerFetchLine_ok hc hf hr).trans (congrArg Host.Outcome.next (modTctx_congr hc rfl))

end Sys2Proof.Machine
end

section
/-!
SUPPORT. A slice of the shift-add fabric (R348-R350, R90): beside entering the pipeline, its events are counted in its graph's
tile, which a closing token ends.
-/

set_option Elab.async false

namespace Sys2Proof.Machine

variable {s : State} {pg h : Nat} {p : Page} {g : Graph} {t : Tok} {r : Route}

/-! ## Graphs after an update -/

theorem graph?_modGraph_same {f : Graph → Graph} (hf : ∀ g, (f g).handle = g.handle) :
    (s.modGraph pg h f).graph? pg h = (s.graph? pg h).map f := by
  have key (l : List Graph) : (l.map fun g => if g.handle = h then f g else g).find? (fun g => g.handle = h) =
      (l.find? fun g => g.handle = h).map f := by
    induction l with
    | nil => rfl
    | cons g l ih => by_cases hg : g.handle = h <;> simp_all
  rw [State.graph?, State.modGraph, page?_modPage_same, State.graph?]
  cases s.page? pg with
  | none => rfl
  | some p => exact key p.saf.graphs

theorem graph?_modPage_of_graphs {f : Page → Page} (hf : ∀ p, (f p).saf.graphs = p.saf.graphs) (pg q k : Nat) :
    (s.modPage pg f).graph? q k = s.graph? q k := by
  rw [State.graph?, page?_modPage, State.graph?]
  split
  · cases s.page? q <;> simp [hf]
  · rfl

theorem graph?_safEnter (t : Tok) :
    (s.safEnter pg h g t).graph? pg h = (s.graph? pg h).map fun g => { g with pipe := g.pipe ++ [(t, g.depth + 2)] } := by
  rw [State.safEnter, graph?_modGraph_same, graph?_modPage_of_graphs]
  · exact fun _ => rfl
  · exact fun _ => rfl

/-! ## `SAF_SLICE` -/

/-- A slice within its lanes' widths enters the pipeline with its results, is counted in its tile, and leaves its nodes'
values; so the fabric's graphs are those of `safEnter` with the graph counted. -/
theorem safSlice_takes (hp : s.page? pg = some p) (hg : s.graph? pg h = some g) (ho : s.safOpen pg p g = true)
    (ht : p.headAt g.inEp = some t) (hr : p.inRoute g.inEp = some r) (hs : t.tag ≤ 4) (hb : g.badInput r.ty t.pay = none) :
    ∃ u, exec (.safSlice pg h) s = .next u ∧ ∀ k, u.graph? pg k =
      ((s.safEnter pg h g (resultTok t.tag (g.results (g.values r.ty t.pay)))).modGraph pg h
        (Graph.counted t.tag (sumEvents ((g.results (g.values r.ty t.pay)).map (·.2.ev))))).graph? pg k := by
  change ∃ u, execSafSlice pg h s = .next u ∧ _
  have hslice : t.isSlice = true := decide_eq_true hs
  simp only [execSafSlice, hp, hg, ho, ht, hr, hb, hslice, Bool.not_true, Bool.false_eq_true, if_false]
  refine ⟨_, rfl, fun k => ?_⟩
  rw [graph?_modPage_of_graphs]
  exact fun _ => rfl

/-- A slice that closes a tile begins the graph's next tile (R90). -/
theorem safSlice_closes_tile (hp : s.page? pg = some p) (hg : s.graph? pg h = some g) (ho : s.safOpen pg p g = true)
    (ht : p.headAt g.inEp = some t) (hr : p.inRoute g.inEp = some r) (hs : t.tag = tagEot)
    (hb : g.badInput r.ty t.pay = none) :
    ∃ u, exec (.safSlice pg h) s = .next u ∧ (u.graph? pg h).map Graph.tiles = some (g.tiles + 1) := by
  obtain ⟨u, hu, hk⟩ := safSlice_takes hp hg ho ht hr (by rw [hs]; decide) hb
  refine ⟨u, hu, ?_⟩
  rw [hk, graph?_modGraph_same, graph?_safEnter, hg]
  · simp [Graph.counted, hs]
  · exact fun _ => rfl

/-! ## A page with a graph whose next slice closes a tile -/

/-- A graph of one node, an in lane, bound to in port 0. -/
def laneGraph : Graph := { Graph.fresh 0 [0x4000000200000000] with inb := 0x80 :: List.replicate 15 0, bound := true }

/-- The route to the in port, with an EOT token at its head. -/
def eotRoute : Route where
  ix := 0
  net := 2
  src := 0
  dst := epSaf 0
  viaRouter := false
  eidx := 0
  edge := none
  path := 0
  hops := 0
  ty := 0
  pln := 0
  latches := [some ⟨tagEot, 0⟩]
  rsv := false
  taken := false
  fresh := false
  since := 0
  back := false
  replay := []
  stuck := 0

def lanePage : Page := { Page.holding 0 with saf := ⟨[laneGraph], [0], 0⟩, routes := [eotRoute] }

/-- The page in an armed region. -/
def laneState : State := { State.reset with regions := [(0, Region.placed)], pages := [(0, lanePage)] }

/-- The graph may take the slice at its head, which its lane's width holds. -/
theorem laneState_slice : laneState.safOpen 0 lanePage laneGraph = true ∧
    lanePage.headAt laneGraph.inEp = some ⟨tagEot, 0⟩ ∧ lanePage.inRoute laneGraph.inEp = some eotRoute ∧
    laneGraph.badInput eotRoute.ty 0 = none := by decide +kernel

/-- Refutes O52: the clause for a slice says that the graph is as `safEnter` leaves it, but a slice tagged EOT also ends the
graph's tile (R90, `safSlice_closes_tile`), as in `laneState`. -/
theorem not_unitEvents : ¬ Obligations.UnitEvents := by
  unfold Obligations.UnitEvents
  intro hall
  obtain ⟨ho, ht, hr, hb⟩ := laneState_slice
  have hp : laneState.page? 0 = some lanePage := rfl
  have hg : laneState.graph? 0 0 = some laneGraph := rfl
  obtain ⟨u, hu, htiles⟩ := safSlice_closes_tile hp hg ho ht hr rfl hb
  obtain ⟨-, -, -, hslices, -⟩ := hall laneState 0 0 0 0 0 lanePage Pe.absent (Tenant.fresh none false) laneGraph ⟨tagEot, 0⟩ hp
  obtain ⟨-, hnone⟩ := (hslices hg ho ht).1 eotRoute hr (by decide)
  obtain ⟨v, hv, hgraph⟩ := hnone hb
  have huv : u = v := Host.Outcome.next.inj (hu.symm.trans hv)
  rw [huv, hgraph 0, graph?_safEnter, hg] at htiles
  exact absurd (Option.some.inj htiles) (by decide)

end Sys2Proof.Machine
end

section
/-!
SUPPORT. The decoder against the encoder (R28-R30, R38, R42): a row of the opcode map builds instructions of the row's own
OPC and FN, and a word with bit 34 zero is packed again from its fields.
-/

namespace Sys2Proof

/-! ## The rows of the opcode map -/

/-- Every instruction a row builds has the row's OPC and FN, and the fields it was built from. -/
def OpRow.Codes (r : OpRow) : Prop :=
  match r.build with
  | .r f => ∀ o, (f o).code? = some (r.opc, BitVec.ofNat 3 r.fn, .r o)
  | .i f => ∀ o, (f o).code? = some (r.opc, BitVec.ofNat 3 r.fn, .i o)

/-- The map and `Instr.code?`, the one read by the decoder and the other by the encoder, agree row by row. -/
theorem codes_of_mem_opRows : ∀ r ∈ opRows, r.Codes := by
  unfold opRows
  simp only [List.forall_mem_append]
  and_intros
  all_goals
    repeat refine List.forall_mem_cons.mpr ⟨fun _ => rfl, ?_⟩
    exact List.forall_mem_nil _

theorem mem_of_findRow {opc fn : Nat} {l : List OpRow} {r : OpRow} (h : findRow opc fn l = some r) :
    r ∈ l ∧ r.opc = opc ∧ r.fn = fn := by
  induction l with
  | nil => cases h
  | cons a l ih =>
    unfold findRow at h
    split at h
    next ha => cases h; exact ⟨List.mem_cons_self, ha⟩
    next => exact (ih h).imp_left (List.mem_cons_of_mem a)

/-! ## A word packed again from its fields: bit 34 alone is in no field -/

theorem packR_fields {x : Word} (hb : x.getLsbD 34 = false) : packR (field x 27 7) (field x 24 3) (formROf x) = x := by
  have hbit : x[34] = false := hb
  apply BitVec.eq_of_getLsbD_eq
  intro i hi
  simp only [packR, guardBits, formROf, guardOf, field, BitVec.getLsbD_append, BitVec.getLsbD_extractLsb']
  interval_cases i <;> simp [hbit]

theorem packI_fields {x : Word} (hb : x.getLsbD 34 = false) : packI (field x 27 7) (field x 24 3) (formIOf x) = x := by
  have hbit : x[34] = false := hb
  apply BitVec.eq_of_getLsbD_eq
  intro i hi
  simp only [packI, guardBits, formIOf, guardOf, field, BitVec.getLsbD_append, BitVec.getLsbD_extractLsb']
  interval_cases i <;> simp [hbit]

theorem encode_of_codeR {i : Instr} {opc : Nat} {fn : BitVec 3} {o : FormR} (h : i.code? = some (opc, fn, .r o)) :
    encode i = some (packR (BitVec.ofNat 7 opc) fn o) := by
  rw [encode, h]; rfl

theorem encode_of_codeI {i : Instr} {opc : Nat} {fn : BitVec 3} {o : FormI} (h : i.code? = some (opc, fn, .i o)) :
    encode i = some (packI (BitVec.ofNat 7 opc) fn o) := by
  rw [encode, h]; rfl

/-! ## A word that decodes -/

/-- A word that decodes is built by the row of its OPC and FN, from its fields; its bit 34 is zero. -/
theorem decode_ok_cases {x : Word} {i : Instr} (h : decode x = .ok i) :
    ∃ r, findRow (opcOf x) (fnOf x) opRows = some r ∧ x.getLsbD 34 = false ∧
      ((∃ f, r.build = .r f ∧ i = f (formROf x)) ∨ ∃ f, r.build = .i f ∧ i = f (formIOf x)) := by
  unfold decode at h
  split at h
  next => cases h
  next =>
    split at h
    next => cases h
    next r hr =>
      split at h
      next => cases h
      next hb =>
        refine ⟨r, hr, by simpa using hb, ?_⟩
        split at h
        next f hf => exact .inl ⟨f, hf, (Except.ok.inj h).symm⟩
        next f hf => exact .inr ⟨f, hf, (Except.ok.inj h).symm⟩

theorem encode_of_decode {x : Word} {i : Instr} (h : decode x = .ok i) : encode i = some x := by
  obtain ⟨r, hr, hb, hi⟩ := decode_ok_cases h
  obtain ⟨hmem, hopc, hfn⟩ := mem_of_findRow hr
  have hcode := codes_of_mem_opRows r hmem
  have hopc' : BitVec.ofNat 7 r.opc = field x 27 7 := by rw [hopc, opcOf, BitVec.ofNat_toNat, BitVec.setWidth_eq]
  have hfn' : BitVec.ofNat 3 r.fn = field x 24 3 := by rw [hfn, fnOf, BitVec.ofNat_toNat, BitVec.setWidth_eq]
  rcases hi with ⟨f, hf, rfl⟩ | ⟨f, hf, rfl⟩
  · simp only [OpRow.Codes, hf] at hcode
    rw [encode_of_codeR (hcode _), hopc', hfn', packR_fields hb]
  · simp only [OpRow.Codes, hf] at hcode
    rw [encode_of_codeI (hcode _), hopc', hfn', packI_fields hb]

/-- An instruction decoded from a word is well formed where the word has no defect. -/
theorem wellFormed_of_decode {x : Word} {i : Instr} (h : decode x = .ok i) (ag : AgentKind) :
    i.wellFormed ag = (defect ag x == 0) := by
  unfold Instr.wellFormed
  rw [encode_of_decode h]

/-! ## The obligations -/

open Laws.Codec in
/-- Settles O2: each constructor of `Instr` by its lemma of the Codec family. -/
theorem wordsDecodeBack : Obligations.WordsDecodeBack := fun
  | .peArbiterFire pg pe => peArbiterFire pg pe | .writeBack fid => writeBack fid | .tokenAdvance pg rt => tokenAdvance pg rt
  | .routerPacketEgress pg rt => routerPacketEgress pg rt | .routerPacketIngress pk => routerPacketIngress pk
  | .isectPresent pg pe => isectPresent pg pe | .snapPass pg unit => snapPass pg unit
  | .drainForward pg unit => drainForward pg unit | .drainAbsorb pg pe port => drainAbsorb pg pe port
  | .pulseApply pg pe port => pulseApply pg pe port | .tellerIssue t => tellerIssue t
  | .tellerFetchLine t cx line => tellerFetchLine t cx line | .lateTrap fid => lateTrap fid
  | .mintLoad rg page => mintLoad rg page | .regionArm rg => regionArm rg | .shadowFillComplete rg => shadowFillComplete rg
  | .sequenceSwap rg => sequenceSwap rg | .streamHeaderCapture pg si => streamHeaderCapture pg si
  | .streamRowIssue pg si => streamRowIssue pg si | .streamWindowRead pg si => streamWindowRead pg si
  | .lengthMarkerAtHead pg pe port => lengthMarkerAtHead pg pe port
  | .poisonMarkerAtHead pg pe port => poisonMarkerAtHead pg pe port | .storeStreamToken pg si => storeStreamToken pg si
  | .shapeWindowRefill pg sx => shapeWindowRefill pg sx | .shsetWriteThrough pg sx => shsetWriteThrough pg sx
  | .tileQueuePerform pg ten => tileQueuePerform pg ten | .mmaEngineStep pg ten => mmaEngineStep pg ten
  | .tenantFlush pg ten => tenantFlush pg ten | .armRecordWalk rg => armRecordWalk rg
  | .bankAccess die bank => bankAccess die bank | .hbmAccessComplete rid => hbmAccessComplete rid
  | .translationWalk rid => translationWalk rid | .updateTokenArrive uid => updateTokenArrive uid
  | .ownerUpdateApply pg me => ownerUpdateApply pg me | .atomicResultReturn fid => atomicResultReturn fid
  | .instructionPerformed fid => instructionPerformed fid | .tillAppend mid => tillAppend mid
  | .spanMessageArrive port ptn till res bytes => spanMessageArrive port ptn till res bytes
  | .uncorrectableError pa => uncorrectableError pa | .latchParityError pg rt pos => latchParityError pg rt pos
  | .correctedError die cls => correctedError die cls | .grpEntryApply die ix => grpEntryApply die ix
  | .tcntApply rg => tcntApply rg | .drainStart rg => drainStart rg | .meDrainPass pg me => meDrainPass pg me
  | .pageDrained pg => pageDrained pg | .regionComplete rg => regionComplete rg | .quietCountExpire rg => quietCountExpire rg
  | .statCountEmit pg unit => statCountEmit pg unit | .statRecordWrite pg => statRecordWrite pg
  | .tileTaskIssue rg => tileTaskIssue rg | .tileTaskSeal rg ix => tileTaskSeal rg ix
  | .escrowReserveStall rg ix => escrowReserveStall rg ix | .writeThroughStart rg ix => writeThroughStart rg ix
  | .commitTileTask rg ix => commitTileTask rg ix | .rerunIssue rg ix => rerunIssue rg ix
  | .cutSnapInject rg => cutSnapInject rg | .schedulerCycle die => schedulerCycle die
  | .priorityAging die q => priorityAging die q | .stealRequestServe rg => stealRequestServe rg
  | .safSlice pg g => safSlice pg g | .safOutput pg g => safOutput pg g | .safCtlHandle pg g => safCtlHandle pg g
  | .linkFifoApply l => linkFifoApply l | .groupTurnComplete l g => groupTurnComplete l g
  | .linkHoldExpire l => linkHoldExpire l | .linkFlitFailure rg => linkFlitFailure rg
  | .copyCommandExecute die e => copyCommandExecute die e | .nmcCommandExecute die ptn => nmcCommandExecute die ptn
  | .engineCompletionPost die q => engineCompletionPost die q | .undoLogLow pg me => undoLogLow pg me
  | .preemptFreeze rg => preemptFreeze rg | .preemptWatchdogExpire rg => preemptWatchdogExpire rg | .vfReset ptn => vfReset ptn
  | .hypervisorVfPreempt ptn => hypervisorVfPreempt ptn | .hostMbxWrite ptn v => hostMbxWrite ptn v
  | .hostNotifyRead ptn => hostNotifyRead ptn | .mbxerrClear ptn => mbxerrClear ptn
  | .hostRegisterWrite ptn off v => hostRegisterWrite ptn off v | .pfcmdRequest req => pfcmdRequest req
  | .partitionCreate ptn r => partitionCreate ptn r | .partitionResize ptn r => partitionResize ptn r
  | .partitionDestroy ptn => partitionDestroy ptn | .cxlMemAccess ptn pa len w => cxlMemAccess ptn pa len w
  | .spdmRequest nonce => spdmRequest nonce | .tdiStateChange ptn st => tdiStateChange ptn st
  | .debugPolicySupply ptn sets signed => debugPolicySupply ptn sets signed | .manifestSign ptn man => manifestSign ptn man
  | .powerUp => powerUp | .dieReady die => dieReady die | .earlyServiceStart => earlyServiceStart
  | .packageReady => packageReady | .powerCap die mhz => powerCap die mhz | .watchdogSet die n => watchdogSet die n
  | .csrCtlWrite t cx n v => csrCtlWrite t cx n v | .csrAsidhiWrite t cx v => csrAsidhiWrite t cx v
  | .csrAsidselWrite t cx v => csrAsidselWrite t cx v | .csrPtillWrite t cx v => csrPtillWrite t cx v
  | .assayOperation die => assayOperation die | .groupEligible l g => groupEligible l g
  | .peerPermitRequest port ptn till r get => peerPermitRequest port ptn till r get | .vfRestore ptn => vfRestore ptn
  | .bar2WindowAccess ptn off len w => bar2WindowAccess ptn off len w | .nop o => nop o | .addW o => addW o
  | .addSs o => addSs o | .addSn o => addSn o | .subW o => subW o | .subSs o => subSs o | .subSn o => subSn o
  | .addi o => addi o | .mulLo o => mulLo o | .mulHs o => mulHs o | .mulHn o => mulHn o | .macW o => macW o
  | .macSs o => macSs o | .divQs o => divQs o | .divQn o => divQn o | .divMs o => divMs o | .divMn o => divMn o
  | .logAnd o => logAnd o | .logOr o => logOr o | .logXor o => logXor o | .logAndn o => logAndn o | .logOrn o => logOrn o
  | .logXnor o => logXnor o | .shfShl o => shfShl o | .shfShr o => shfShr o | .shfSar o => shfSar o | .shfRol o => shfRol o
  | .shfiShl o => shfiShl o | .shfiShr o => shfiShr o | .shfiSar o => shfiSar o | .shfiRol o => shfiRol o
  | .mmxMins o => mmxMins o | .mmxMaxs o => mmxMaxs o | .mmxMinn o => mmxMinn o | .mmxMaxn o => mmxMaxn o
  | .bitPopc o => bitPopc o | .bitClz o => bitClz o | .bitCtz o => bitCtz o | .bitBrev o => bitBrev o | .bitBext o => bitBext o
  | .bitBins o => bitBins o | .movMov o => movMov o | .movMovk o => movMovk o | .movSel o => movSel o | .movAbs o => movAbs o
  | .movNeg o => movNeg o | .movSext o => movSext o | .movZext o => movZext o | .li o => li o | .lis fn o => lis fn o
  | .addr fn o => addr fn o | .cmpEq o => cmpEq o | .cmpNe o => cmpNe o | .cmpLt o => cmpLt o | .cmpLe o => cmpLe o
  | .cmpLtn o => cmpLtn o | .cmpLen o => cmpLen o | .cmpTst o => cmpTst o | .cmpiEq o => cmpiEq o | .cmpiNe o => cmpiNe o
  | .cmpiLt o => cmpiLt o | .cmpiLe o => cmpiLe o | .cmpiLtn o => cmpiLtn o | .cmpiLen o => cmpiLen o | .cmpiTst o => cmpiTst o
  | .fcmpEq o => fcmpEq o | .fcmpNe o => fcmpNe o | .fcmpLt o => fcmpLt o | .fcmpLe o => fcmpLe o | .fcmpUn o => fcmpUn o
  | .fcmpOr o => fcmpOr o | .psetSet o => psetSet o | .psetClr o => psetClr o | .psetCpy o => psetCpy o
  | .psetNot o => psetNot o | .psetSig o => psetSig o | .plogAnd o => plogAnd o | .plogOr o => plogOr o
  | .plogXor o => plogXor o | .plogAndn o => plogAndn o | .pmovToa o => pmovToa o | .pmovFra o => pmovFra o
  | .sendD o => sendD o | .sendEor o => sendEor o | .sendEot o => sendEot o | .sendEos o => sendEos o | .sendLvl o => sendLvl o
  | .sendCtl o => sendCtl o | .fwd o => fwd o | .repl o => repl o | .tagr o => tagr o | .mrgArr o => mrgArr o
  | .mrgRot o => mrgRot o | .markSnap o => markSnap o | .drain o => drain o | .vadd o => vadd o | .vsub o => vsub o
  | .vmul o => vmul o | .vfmaFma o => vfmaFma o | .vfmaFms o => vfmaFms o | .vfmaFnma o => vfmaFnma o | .vdivDiv o => vdivDiv o
  | .vdivRcp o => vdivRcp o | .vdivRsq o => vdivRsq o | .vdivSqrt o => vdivSqrt o | .vmmxMin o => vmmxMin o
  | .vmmxMax o => vmmxMax o | .vmmxMinn o => vmmxMinn o | .vmmxMaxn o => vmmxMaxn o | .vsgnAbs o => vsgnAbs o
  | .vsgnNeg o => vsgnNeg o | .vsgnCsgn o => vsgnCsgn o | .vcmp o => vcmp o | .vsel o => vsel o | .vlog o => vlog o
  | .vshf o => vshf o | .vclmp o => vclmp o | .vcvtRne o => vcvtRne o | .vcvtRz o => vcvtRz o | .vcvtRu o => vcvtRu o
  | .vcvtRd o => vcvtRd o | .vcvtRna o => vcvtRna o | .vtrnExp o => vtrnExp o | .vtrnExp2 o => vtrnExp2 o
  | .vtrnLog o => vtrnLog o | .vtrnLog2 o => vtrnLog2 o | .vtrnTanh o => vtrnTanh o | .vtrnSigm o => vtrnSigm o
  | .vdot o => vdot o | .vredSum o => vredSum o | .vredMax o => vredMax o | .vredMin o => vredMin o | .vredAnd o => vredAnd o
  | .vredOr o => vredOr o | .vaccSum o => vaccSum o | .vaccMax o => vaccMax o | .vaccMin o => vaccMin o
  | .vaccCnt o => vaccCnt o | .vscanIsum o => vscanIsum o | .vscanXsum o => vscanXsum o | .vscanImax o => vscanImax o
  | .vprmIdx o => vprmIdx o | .vprmRot o => vprmRot o | .vprmBcl o => vprmBcl o | .vprmPair o => vprmPair o | .vqnt o => vqnt o
  | .vdq o => vdq o | .bppk o => bppk o | .bpun o => bpun o | .vnrmStat o => vnrmStat o | .vnrmApply o => vnrmApply o
  | .vinsIns o => vinsIns o | .vinsExt o => vinsExt o | .viota o => viota o | .vbmpExpd o => vbmpExpd o
  | .vbmpCnt o => vbmpCnt o | .vbmpSetb o => vbmpSetb o | .vmatch o => vmatch o | .vtopk o => vtopk o | .vrng o => vrng o
  | .vhead o => vhead o | .zcfgTy o => zcfgTy o | .zcfgRow o => zcfgRow o | .zcfgCol o => zcfgCol o | .zcfgAll o => zcfgAll o
  | .zrd o => zrd o | .zld o => zld o | .zst o => zst o | .zfillZero o => zfillZero o | .zfillOnes o => zfillOnes o
  | .zfillIden o => zfillIden o | .zfillTril o => zfillTril o | .zfillTrls o => zfillTrls o | .zfillTriu o => zfillTriu o
  | .zfillBcst o => zfillBcst o | .zwld o => zwld o | .mmaD o => mmaD o | .mmaR o => mmaR o | .mmaDt o => mmaDt o
  | .mmaRt o => mmaRt o | .ztrn o => ztrn o | .zaddAdd o => zaddAdd o | .zaddScl o => zaddScl o | .zcvt o => zcvt o
  | .zarm o => zarm o | .zsplit o => zsplit o | .zstat o => zstat o | .zwait o => zwait o | .zmovTov o => zmovTov o
  | .zmovFrv o => zmovFrv o | .shbind o => shbind o | .shset o => shset o | .shget o => shget o | .shinv o => shinv o
  | .shseg o => shseg o | .shrow o => shrow o | .ldPl o => ldPl o | .ldAcq o => ldAcq o | .stPl o => stPl o
  | .stRel o => stRel o | .vld o => vld o | .vstPl o => vstPl o | .vstMsk o => vstMsk o | .vstRel o => vstRel o
  | .sopen o => sopen o | .sctlClose o => sctlClose o | .sctlRewind o => sctlRewind o | .sctlSkip o => sctlSkip o
  | .gath o => gath o | .scatSt o => scatSt o | .scatAdd o => scatAdd o | .ldr o => ldr o | .pref o => pref o
  | .xform o => xform o | .tillApp o => tillApp o | .tillPoll o => tillPoll o | .tillWait o => tillWait o
  | .tillAdv o => tillAdv o | .prmtGet o => prmtGet o | .prmtRet o => prmtRet o | .bankGive o => bankGive o
  | .bankTake o => bankTake o | .bankQry o => bankQry o | .evPost o => evPost o | .evPop o => evPop o | .evWait o => evWait o
  | .evPeek o => evPeek o | .aupdAdd o => aupdAdd o | .aupdMin o => aupdMin o | .aupdMax o => aupdMax o | .aupdOr o => aupdOr o
  | .aupdAnd o => aupdAnd o | .aupdXor o => aupdXor o | .aupdSwp o => aupdSwp o | .afetAdd o => afetAdd o
  | .afetMin o => afetMin o | .afetMax o => afetMax o | .afetOr o => afetOr o | .afetAnd o => afetAnd o
  | .afetXor o => afetXor o | .afetSwp o => afetSwp o | .acas o => acas o | .atas o => atas o | .afadd o => afadd o
  | .grpJoin o => grpJoin o | .grpLeave o => grpLeave o | .grpArrive o => grpArrive o | .grpWait o => grpWait o
  | .grpBar o => grpBar o | .grpQry o => grpQry o | .fenceCtx o => fenceCtx o | .fencePage o => fencePage o
  | .fenceRgn o => fenceRgn o | .fenceDie o => fenceDie o | .fenceDev o => fenceDev o | .fenceSys o => fenceSys o
  | .qfence o => qfence o | .tcntAdd o => tcntAdd o | .tcntSub o => tcntSub o | .tcntRd o => tcntRd o | .tcntWz o => tcntWz o
  | .smIns o => smIns o | .smSeal o => smSeal o | .smMrg o => smMrg o | .smSpl o => smSpl o | .smFork o => smFork o
  | .smEvct o => smEvct o | .smFree o => smFree o | .smbnd o => smbnd o | .smdsc o => smdsc o | .smaccNode o => smaccNode o
  | .smaccLeaf o => smaccLeaf o | .smaccFin o => smaccFin o | .agLoad o => agLoad o | .agBind o => agBind o
  | .agUnld o => agUnld o | .agQry o => agQry o | .taskLnch o => taskLnch o | .taskSeq o => taskSeq o
  | .taskCncl o => taskCncl o | .taskQry o => taskQry o | .taskPrio o => taskPrio o | .rangeGet o => rangeGet o
  | .rangeSteal o => rangeSteal o | .rangeSplit o => rangeSplit o | .rangeDone o => rangeDone o | .linkTurn o => linkTurn o
  | .linkQry o => linkQry o | .linkHold o => linkHold o | .statEmit o => statEmit o | .statCfg o => statCfg o
  | .statRd o => statRd o | .rgnPreempt o => rgnPreempt o | .rgnResume o => rgnResume o | .rgnRollback o => rgnRollback o
  | .rgnQuiesce o => rgnQuiesce o | .rgnAsid o => rgnAsid o | .cpyCpy o => cpyCpy o | .cpyXf o => cpyXf o
  | .cpyFill o => cpyFill o | .cpyStat o => cpyStat o | .nmcIssue o => nmcIssue o | .nmcFence o => nmcFence o
  | .nmcStat o => nmcStat o | .brBr o => brBr o | .brCall o => brCall o | .jrJr o => jrJr o | .jrRet o => jrRet o
  | .jrHalt o => jrHalt o | .sysTrap o => sysTrap o | .sysEret o => sysEret o | .sysCsrr o => sysCsrr o
  | .sysCsrw o => sysCsrw o | .sysMbx o => sysMbx o | .sysPgsv o => sysPgsv o | .sysPgrs o => sysPgrs o
  | .sysTlbi o => sysTlbi o

/-- Settles O3: a word that decodes was packed from its own fields by a row of the map, and the three ways not to decode are
the defects 1, 2 and 4. -/
theorem wordsEncodeBack : Obligations.WordsEncodeBack := by
  intro x ag
  refine ⟨fun _ => encode_of_decode, fun hd => ?_, fun e he => ?_⟩
  · cases hx : decode x with
    | error e => exact absurd hd (Nat.one_le_iff_ne_zero.mp (defect_of_decode_error hx).1)
    | ok i => exact ⟨i, rfl, by rw [wellFormed_of_decode hx, hd]; rfl⟩
  · rcases decode_error_cases he with hr | ⟨hr, hn⟩ | hb
    · exact .inl (defect_of_reservedOpc hr)
    · exact .inr (.inl (defect_of_unassignedFn hr (fnCount_le_of_findRow_none hr hn)))
    · exact .inr (.inr ⟨hb, Nat.one_le_iff_ne_zero.mp (defect_of_bit34 hb).1⟩)

end Sys2Proof
end

section
/-!
SUPPORT. Words that fault at firing (R37, R95, R392, R393, R416): which guard an encoded word has, what each shared operation of
the instructions answers when the check of the guard fails, and what a fault leaves of an element context.
-/

namespace Sys2Proof

/-! ## The guard of an encoded word -/

theorem guardOf_packR (opc : BitVec 7) (fn : BitVec 3) (o : FormR) : guardOf (packR opc fn o) = o.g :=
  congrArg FormR.g (formROf_packR opc fn o)

theorem guardOf_packI (opc : BitVec 7) (fn : BitVec 3) (o : FormI) : guardOf (packI opc fn o) = o.g :=
  congrArg FormI.g (formIOf_packI opc fn o)

/-- `LIS` has a word in the five variants of R108 only. -/
theorem code?_lis {fn : BitVec 3} {o : FormI} {x : Word} (h : encode (.lis fn o) = some x) :
    (Instr.lis fn o).code? = some (0x0E, fn, .i o) := by
  have hc : (Instr.lis fn o).code? = if fn.toNat < 5 then some (0x0E, fn, .i o) else none := rfl
  rw [encode, hc] at h
  rw [hc]
  split at h
  next hlt => exact if_pos hlt
  next => cases h

namespace Machine

section GuardFaults

variable {s : State} {i : Instr} {w : Who} {x : Word} {q : FaultInfo} {opc : Nat} {fn : BitVec 3}

theorem guardFault_codeR {o : FormR} (hx : encode i = some x) (hc : i.code? = some (opc, fn, .r o))
    (hf : s.taken.guardFault w (guardOf x) x = some q) : s.taken.guardFault w o.g x = some q := by
  rw [encode_of_codeR hc] at hx
  cases hx
  rwa [guardOf_packR] at hf

theorem guardFault_codeI {o : FormI} (hx : encode i = some x) (hc : i.code? = some (opc, fn, .i o))
    (hf : s.taken.guardFault w (guardOf x) x = some q) : s.taken.guardFault w o.g x = some q := by
  rw [encode_of_codeI hc] at hx
  cases hx
  rwa [guardOf_packI] at hf

/-- Only an element's word faults by the checks of R95 and R416. -/
theorem elem_of_guardFault {g : Guard} (hf : s.guardFault w g x = some q) : ∃ pg pe cx n, w = .elem pg pe cx n := by
  cases w with
  | elem pg pe cx n => exact ⟨pg, pe, cx, n, rfl⟩
  | tel t cx pc => simp [State.guardFault, State.headerFault, State.earlyFault, Who.isElem] at hf

end GuardFaults

/-! ## What each shared operation answers when the check fails -/

section SharedOps

variable {s : State} {w : Who} {x : Word} {q : FaultInfo} (h : s.issue = some (w, x))
include h

section FormR
variable {o : FormR} (hf : s.taken.guardFault w o.g x = some q)
include hf

theorem scalarR_guard (f : Int → Int → IntRes) :
    scalarR o f s = .next (s.taken.raise w x q) := fireTimed_guard _ h hf

theorem scalarR3_guard (f : Int → Int → Int → IntRes) :
    scalarR3 o f s = .next (s.taken.raise w x q) := fireTimed_guard _ h hf

theorem shiftR_guard (f : Nat → Nat → Nat → Nat × Bool) :
    shiftR o f s = .next (s.taken.raise w x q) := fireTimed_guard _ h hf

theorem moveExt_guard (f : Nat → Nat → Word) :
    moveExt o f s = .next (s.taken.raise w x q) := fireTimed_guard _ h hf

theorem compareR_guard (f : Int → Int → Bool) :
    compareR o f s = .next (s.taken.raise w x q) := fireTimed_guard _ h hf

theorem compareF_guard (f : FVal → FVal → Bool) (u quiet : Bool) :
    compareF o f u quiet s = .next (s.taken.raise w x q) := fireTimed_guard _ h hf

theorem predR_guard (f : Bool → Bool → Bool) :
    predR o f s = .next (s.taken.raise w x q) := fireTimed_guard _ h hf

theorem sendR_guard (tag : Nat) :
    sendR o tag s = .next (s.taken.raise w x q) := fireTimed_guard _ h hf

theorem mergeR_guard (rot : Bool) :
    mergeR o rot s = .next (s.taken.raise w x q) := fireTimed_guard _ h hf

theorem vecR_guard (f : Nat → Nat → LaneRes) :
    vecR o f s = .next (s.taken.raise w x q) := fireTimed_guard _ h hf

theorem vecR3_guard (W : Nat) (f : Nat → Nat → Nat → LaneRes) :
    vecR3 o W f s = .next (s.taken.raise w x q) := fireTimed_guard _ h hf

theorem convertR_guard (rm : Rm) :
    convertR o rm s = .next (s.taken.raise w x q) := fireTimed_guard _ h hf

theorem reduceR_guard (op : Nat → Nat → Nat → LaneRes) :
    reduceR o op s = .next (s.taken.raise w x q) := fireTimed_guard _ h hf

theorem accR_guard (fn : Nat) (op : Nat → Nat → Nat → LaneRes) :
    accR o fn op s = .next (s.taken.raise w x q) := fireTimed_guard _ h hf

theorem scanR_guard (op : Nat → Nat → Nat → LaneRes) (ident : Nat → Nat) (excl : Bool) :
    scanR o op ident excl s = .next (s.taken.raise w x q) := fireTimed_guard _ h hf

theorem permR_guard (f : Nat → List Nat → List Nat → Nat → Nat → LaneRes) :
    permR o f s = .next (s.taken.raise w x q) := fireTimed_guard _ h hf

theorem tileR_guard (r : List Res) (k : State → Flight → Flight) :
    tileR o r k s = .next (s.taken.raise w x q) := fireJob_guard _ _ h hf

theorem memR_guard (dest : Bool) (va : Flight → Nat) :
    memR o dest va s = .next (s.taken.raise w x q) := fireJob_guard _ _ h hf

theorem recR_guard (n : Nat) :
    recR o n s = .next (s.taken.raise w x q) := fireJob_guard _ _ h hf

theorem soonR_guard (dest : Bool) :
    soonR o dest s = .next (s.taken.raise w x q) := fireJob_guard _ _ h hf

theorem tillR_guard (dest : Bool) :
    tillR o dest s = .next (s.taken.raise w x q) := fireJob_guard _ _ h hf

theorem atomR_guard (dest : Bool) :
    atomR o dest s = .next (s.taken.raise w x q) := fireJob_guard _ _ h hf

theorem grpR_guard :
    grpR o s = .next (s.taken.raise w x q) := fireJob_guard _ _ h hf

theorem fenceR_guard :
    fenceR o s = .next (s.taken.raise w x q) := fireJob_guard _ _ h hf

theorem tcntR_guard :
    tcntR o s = .next (s.taken.raise w x q) := fireJob_guard _ _ h hf

theorem assayR_guard (align : Nat) :
    assayR o align s = .next (s.taken.raise w x q) := fireJob_guard _ _ h hf

theorem rangeR_guard (names : Bool) :
    rangeR o names s = .next (s.taken.raise w x q) := fireJob_guard _ _ h hf

theorem linkR_guard :
    linkR o s = .next (s.taken.raise w x q) := fireJob_guard _ _ h hf

theorem engR_guard (nm : Bool) :
    engR o nm s = .next (s.taken.raise w x q) := fireJob_guard _ _ h hf

theorem vecF_guard (f : Fmt → FVal → FRes) :
    vecF o f s = .next (s.taken.raise w x q) := vecR_guard h hf _

theorem tileD_guard :
    tileD o s = .next (s.taken.raise w x q) := tileR_guard h hf _ _

/-- A shape word also forgets the entries fetched for it. -/
theorem shapeR_guard (sx : Nat) (k : Who → Word → State → Shape → List (Nat × Nat) → Except FaultInfo Done) :
    ∃ pg pe cx n sx', w = .elem pg pe cx n ∧
      shapeR o sx k s = .next ((s.taken.raise w x q).clearStash pg sx' w none) := by
  obtain ⟨pg, pe, cx, n, rfl⟩ := elem_of_guardFault hf
  refine ⟨pg, pe, cx, n, sx, rfl, ?_⟩
  rw [shapeR, fireTimed_guard _ h hf, h]

end FormR

section FormI
variable {m : FormI} (hm : s.taken.guardFault w m.g x = some q)
include hm

theorem scalarI_guard (f : Word → Nat → Word) :
    scalarI m f s = .next (s.taken.raise w x q) := fireTimed_guard _ h hm

theorem shiftI_guard (f : Nat → Nat → Nat → Nat × Bool) :
    shiftI m f s = .next (s.taken.raise w x q) := scalarI_guard h hm _

theorem compareI_guard (f : Word → Nat → Bool) :
    compareI m f s = .next (s.taken.raise w x q) := fireTimed_guard _ h hm

end FormI

end SharedOps

variable {s : State} {w : Who} {x : Word} {q : FaultInfo}

/-- The call depth is a teller's; an element's word leaves none behind. -/
theorem exec_brCall_guard {o : FormI} (h : s.issue = some (w, x)) (hx : encode (.brCall o) = some x)
    (hf : s.taken.guardFault w (guardOf x) x = some q) : exec (.brCall o) s = .next (s.taken.raise w x q) := by
  obtain ⟨pg, pe, cx, n, rfl⟩ := elem_of_guardFault hf
  change execBrCall o s = _
  rw [execBrCall, fireTimed_guard _ h (guardFault_codeI hx rfl hf), h]
  rfl

/-- Every instruction but those without the check answers a failed one with the fault. -/
theorem exec_of_guardFault {i : Instr} (h : s.issue = some (w, x)) (hx : encode i = some x)
    (hf : s.taken.guardFault w (guardOf x) x = some q)
    (hne : ∀ o, i ≠ .markSnap o ∧ i ≠ .drain o ∧ i ≠ .jrRet o ∧ i ≠ .jrHalt o) :
    exec i s = .next (s.taken.raise w x q) ∨
    ∃ pg pe cx n sx, w = .elem pg pe cx n ∧ exec i s = .next ((s.taken.raise w x q).clearStash pg sx w none) := by
  cases i with
  | nop o | bitBext o | bitBins o | psetSig o | pmovToa o | pmovFra o | fwd o | repl o | tagr o | vcmp o | vlog o | vdot o
  | vqnt o | vdq o | bppk o | bpun o | vnrmStat o | vnrmApply o | vinsIns o | vinsExt o | viota o | vbmpExpd o | vbmpCnt o
  | vbmpSetb o | vmatch o | vtopk o | vrng o | statEmit o | statRd o | jrJr o | sysCsrr o =>
    dsimp only [exec]; exact .inl (fireTimed_guard _ h (guardFault_codeR hx rfl hf))
  | addr fn o => dsimp only [exec]; exact .inl (fireTimed_guard _ h (guardFault_codeR hx rfl hf))
  | brBr o => dsimp only [exec]; exact .inl (fireTimed_guard _ h (guardFault_codeI hx rfl hf))
  | lis fn o => dsimp only [exec]; exact .inl (fireTimed_guard _ h (guardFault_codeI hx (code?_lis hx) hf))
  | addW o | addSs o | addSn o | subW o | subSs o | subSn o | mulLo o | mulHs o | mulHn o | divQs o | divQn o | divMs o
  | divMn o | logAnd o | logOr o | logXor o | logAndn o | logOrn o | logXnor o | mmxMins o | mmxMaxs o | mmxMinn o
  | mmxMaxn o | bitPopc o | bitClz o | bitCtz o | bitBrev o | movMov o | movAbs o | movNeg o =>
    dsimp only [exec]; exact .inl (scalarR_guard h (guardFault_codeR hx rfl hf) _)
  | addi o | li o => dsimp only [exec]; exact .inl (scalarI_guard h (guardFault_codeI hx rfl hf) _)
  | macW o | macSs o | movMovk o | movSel o => dsimp only [exec]; exact .inl (scalarR3_guard h (guardFault_codeR hx rfl hf) _)
  | shfShl o | shfShr o | shfSar o | shfRol o => dsimp only [exec]; exact .inl (shiftR_guard h (guardFault_codeR hx rfl hf) _)
  | shfiShl o | shfiShr o | shfiSar o | shfiRol o =>
    dsimp only [exec]; exact .inl (shiftI_guard h (guardFault_codeI hx rfl hf) _)
  | movSext o | movZext o => dsimp only [exec]; exact .inl (moveExt_guard h (guardFault_codeR hx rfl hf) _)
  | cmpEq o | cmpNe o | cmpLt o | cmpLe o | cmpLtn o | cmpLen o | cmpTst o =>
    dsimp only [exec]; exact .inl (compareR_guard h (guardFault_codeR hx rfl hf) _)
  | cmpiEq o | cmpiNe o | cmpiLt o | cmpiLe o | cmpiLtn o | cmpiLen o | cmpiTst o =>
    dsimp only [exec]; exact .inl (compareI_guard h (guardFault_codeI hx rfl hf) _)
  | fcmpEq o | fcmpNe o | fcmpLt o | fcmpLe o | fcmpUn o | fcmpOr o =>
    dsimp only [exec]; exact .inl (compareF_guard h (guardFault_codeR hx rfl hf) _ _ _)
  | psetSet o | psetClr o | psetCpy o | psetNot o | plogAnd o | plogOr o | plogXor o | plogAndn o =>
    dsimp only [exec]; exact .inl (predR_guard h (guardFault_codeR hx rfl hf) _)
  | sendD o | sendEor o | sendEot o | sendEos o | sendLvl o | sendCtl o =>
    dsimp only [exec]; exact .inl (sendR_guard h (guardFault_codeR hx rfl hf) _)
  | mrgArr o | mrgRot o => dsimp only [exec]; exact .inl (mergeR_guard h (guardFault_codeR hx rfl hf) _)
  | vadd o | vsub o | vmul o | vdivDiv o | vmmxMin o | vmmxMax o | vmmxMinn o | vmmxMaxn o | vsgnAbs o | vsgnNeg o
  | vsgnCsgn o | vshf o =>
    dsimp only [exec]; exact .inl (vecR_guard h (guardFault_codeR hx rfl hf) _)
  | vfmaFma o | vfmaFms o | vfmaFnma o | vsel o | vclmp o =>
    dsimp only [exec]; exact .inl (vecR3_guard h (guardFault_codeR hx rfl hf) _ _)
  | vdivRcp o | vdivRsq o | vdivSqrt o | vtrnExp o | vtrnExp2 o | vtrnLog o | vtrnLog2 o | vtrnTanh o | vtrnSigm o =>
    dsimp only [exec]; exact .inl (vecF_guard h (guardFault_codeR hx rfl hf) _)
  | vcvtRne o | vcvtRz o | vcvtRu o | vcvtRd o | vcvtRna o =>
    dsimp only [exec]; exact .inl (convertR_guard h (guardFault_codeR hx rfl hf) _)
  | vredSum o | vredMax o | vredMin o | vredAnd o | vredOr o =>
    dsimp only [exec]; exact .inl (reduceR_guard h (guardFault_codeR hx rfl hf) _)
  | vaccSum o | vaccMax o | vaccMin o | vaccCnt o =>
    dsimp only [exec]; exact .inl (accR_guard h (guardFault_codeR hx rfl hf) _ _)
  | vscanIsum o | vscanXsum o | vscanImax o =>
    dsimp only [exec]; exact .inl (scanR_guard h (guardFault_codeR hx rfl hf) _ _ _)
  | vprmIdx o | vprmRot o | vprmBcl o | vprmPair o =>
    dsimp only [exec]; exact .inl (permR_guard h (guardFault_codeR hx rfl hf) _)
  | vhead o | shget o | shseg o | shrow o => dsimp only [exec]; exact .inr (shapeR_guard h (guardFault_codeR hx rfl hf) _ _)
  | zcfgTy o | zcfgRow o | zcfgCol o | zcfgAll o | zld o | zfillZero o | zfillOnes o | zfillIden o | zfillTril o
  | zfillTrls o | zfillTriu o | zfillBcst o | mmaD o | mmaDt o | ztrn o | zaddAdd o | zaddScl o | zcvt o | zmovFrv o =>
    dsimp only [exec]; exact .inl (tileD_guard h (guardFault_codeR hx rfl hf))
  | zrd o | zst o | zwld o | mmaR o | mmaRt o | zarm o | zsplit o | zstat o | zwait o | zmovTov o =>
    dsimp only [exec]; exact .inl (tileR_guard h (guardFault_codeR hx rfl hf) _ _)
  | shbind o | shinv o | scatAdd o | ldr o | pref o | tillApp o | qfence o | agLoad o | agBind o | taskLnch o | statCfg o
  | cpyStat o | nmcFence o | sysPgsv o | sysPgrs o | sysTlbi o =>
    dsimp only [exec]; exact .inl (fireJob_guard _ _ h (guardFault_codeR hx rfl hf))
  | ldPl o | ldAcq o | stPl o | stRel o | vld o | vstPl o | vstMsk o | vstRel o | gath o | scatSt o =>
    dsimp only [exec]; exact .inl (memR_guard h (guardFault_codeR hx rfl hf) _ _)
  | sopen o | xform o => dsimp only [exec]; exact .inl (recR_guard h (guardFault_codeR hx rfl hf) _)
  | sctlClose o | sctlRewind o | sctlSkip o | bankGive o | bankTake o | bankQry o | evPost o | evPop o | evWait o | evPeek o
  | agUnld o | agQry o | taskSeq o | taskCncl o | taskQry o | taskPrio o | rgnPreempt o | rgnResume o | rgnRollback o
  | rgnQuiesce o | rgnAsid o | nmcStat o =>
    dsimp only [exec]; exact .inl (soonR_guard h (guardFault_codeR hx rfl hf) _)
  | tillPoll o | tillWait o | tillAdv o | prmtGet o | prmtRet o =>
    dsimp only [exec]; exact .inl (tillR_guard h (guardFault_codeR hx rfl hf) _)
  | aupdAdd o | aupdMin o | aupdMax o | aupdOr o | aupdAnd o | aupdXor o | aupdSwp o | afetAdd o | afetMin o | afetMax o
  | afetOr o | afetAnd o | afetXor o | afetSwp o | acas o | atas o | afadd o =>
    dsimp only [exec]; exact .inl (atomR_guard h (guardFault_codeR hx rfl hf) _)
  | grpJoin o | grpLeave o | grpArrive o | grpWait o | grpBar o | grpQry o =>
    dsimp only [exec]; exact .inl (grpR_guard h (guardFault_codeR hx rfl hf))
  | fenceCtx o | fencePage o | fenceRgn o | fenceDie o | fenceDev o | fenceSys o =>
    dsimp only [exec]; exact .inl (fenceR_guard h (guardFault_codeR hx rfl hf))
  | tcntAdd o | tcntSub o | tcntRd o | tcntWz o => dsimp only [exec]; exact .inl (tcntR_guard h (guardFault_codeR hx rfl hf))
  | smIns o | smSeal o | smMrg o | smSpl o | smFork o | smEvct o | smFree o | smbnd o | smdsc o | smaccNode o | smaccLeaf o
  | smaccFin o =>
    dsimp only [exec]; exact .inl (assayR_guard h (guardFault_codeR hx rfl hf) _)
  | rangeGet o | rangeSteal o | rangeSplit o | rangeDone o =>
    dsimp only [exec]; exact .inl (rangeR_guard h (guardFault_codeR hx rfl hf) _)
  | linkTurn o | linkQry o | linkHold o => dsimp only [exec]; exact .inl (linkR_guard h (guardFault_codeR hx rfl hf))
  | cpyCpy o | cpyXf o | cpyFill o | nmcIssue o => dsimp only [exec]; exact .inl (engR_guard h (guardFault_codeR hx rfl hf) _)
  | sysTrap o | sysEret o | sysCsrw o | sysMbx o =>
    dsimp only [exec]; exact .inl (fireSys_guard _ h (guardFault_codeR hx rfl hf))
  | shset o => dsimp only [exec, execShset]; exact .inl (fireJob_guard _ _ h (guardFault_codeR hx rfl hf))
  | brCall o => exact .inl (exec_brCall_guard h hx hf)
  | markSnap o => obtain ⟨hmark, -⟩ := hne o; exact absurd rfl hmark
  | drain o => obtain ⟨-, hdrain, -⟩ := hne o; exact absurd rfl hdrain
  | jrRet o => obtain ⟨-, -, hret, -⟩ := hne o; exact absurd rfl hret
  | jrHalt o => obtain ⟨-, -, -, hhalt⟩ := hne o; exact absurd rfl hhalt
  -- A unit's step has no word.
  | _ => cases hx

/-! ## What a fault leaves of an element -/

/-- An element's fault: a record, the context withheld, and the predicates of the word pending. -/
theorem raise_elem (s : State) (pg pe cx sl : Nat) (x : Word) (q : FaultInfo) :
    s.raise (.elem pg pe cx sl) x q =
      ((s.mail (s.originWho (.elem pg pe cx sl)) q x).modCtx pg pe cx fun c => { c with withheld := true }).pend
        (.elem pg pe cx sl) ((predDsts x).map .p) := by
  rw [State.pend, List.foldl_map]
  rfl

/-- The whole of a context after predicates of one have been made pending. -/
theorem ctx?_pend_elem (pg pe cx sl : Nat) (h : List Res) (s : State) (qg qe cy : Nat) :
    (s.pend (.elem pg pe cx sl) h).ctx? qg qe cy =
      if (qg, qe, cy) = (pg, pe, cx) then (s.ctx? qg qe cy).map fun c => { c with p := pendAll h c.p } else s.ctx? qg qe cy := by
  induction h generalizing s with
  | nil => simp [State.pend]
  | cons r h ih =>
    cases r with
    | p n =>
      refine (ih (s.setPred (.elem pg pe cx sl) n .pend)).trans ?_
      rw [State.setPred, ctx?_modCtx]
      split
      · rw [Option.map_map]; rfl
      · rfl
    | _ => exact ih s

/-- Settles O11: the check comes first in every operation the instructions share, and the fault changes an element's context
only in being withheld and in its pending predicates. -/
theorem wordsFaultAtFiring : Obligations.WordsFaultAtFiring := by
  intro s i w x q
  refine ⟨exec_of_guardFault, ?_⟩
  rintro pg pe cx sl c rfl hc
  rw [raise_elem]
  refine ⟨by rw [pend_mem]; rfl, (sameRegs_pend _ _ _).flights, pend_elem_tellers pg pe cx sl _ _, ?_, ?_⟩
  · refine ⟨{ c with withheld := true, p := pendAll ((predDsts x).map .p) c.p }, ?_, rfl, rfl, rfl, fun n => ?_⟩
    · rw [ctx?_pend_elem, if_pos rfl, ctx?_modCtx_same]
      change Option.map _ (Option.map _ (s.ctx? pg pe cx)) = _
      rw [hc]
      rfl
    · simp only [getElem?_pendAll, List.mem_map_of_injective fun _ _ => Res.p.inj]
  · intro pg' pe' cx' hne
    rw [ctx?_pend_elem, if_neg hne, ctx?_modCtx, if_neg hne]
    rfl

end Machine

end Sys2Proof
end

section
/-!
SUPPORT. A region before it arms (R233, R331; log 125): one whose owner ranges find no room in the die's owner directory of 64
entries waits as it is.
-/

namespace Sys2Proof.Machine

/-- A loaded region with no clash of owners stays as it is while the owner directory has no room for it. -/
theorem regionArm_waits {s : State} {rg : Nat} {r : Region} (hr : s.region? rg = some r) (hst : r.st = .loading)
    (hloaded : r.imgs.length ≤ r.loaded) (hclash : s.ownerClash r = none) (hroom : s.ownerRoom r = false) :
    exec (.regionArm rg) s = .next s := by
  have hready : ¬ (r.st ≠ .loading ∨ r.loaded < r.imgs.length) := by
    rintro (h | h)
    · exact h hst
    · omega
  change execRegionArm rg s = _
  simp only [execRegionArm, hr, hready, hclash, hroom, if_false, Bool.false_eq_true]

/-! ## A die whose owner directory is full -/

/-- An ME that owns the 4 KiB with number `n` of the program rows. -/
def ownerMe (n : Nat) (armed : Bool) : Me :=
  { Me.absent with present := true, ownBase := vaultKey + 4096 * n, ownLen := 4096, ownOn := true, armed := armed }

/-- Page `i` of the armed region 1, whose four MEs own ranges of their own. -/
def armedOwners (i : Nat) : Page :=
  { Page.holding 0 with pidx := i, rg := 1, mes := tab 4 fun j => ownerMe (4 * i + j) true }

/-- The armed region of 16 pages. -/
def ownersRegion : Region := { Region.placed with key := 1, pages := tab 16 fun i => some (2 * i + 2) }

/-- A region of one page, loaded into frame 0, that is to arm. -/
def waitingRegion : Region := { Region.placed with st := .loading, imgs := [(0x10000, 0, 0xFF)], loaded := 1 }

/-- Its page, with an ME that owns a range no other has. -/
def waitingPage : Page := { Page.holding 0 with mes := ownerMe 64 false :: List.replicate 3 Me.absent }

/-- The task that the waiting region runs for. -/
def waitingTask : Task where
  ptn := 0
  lseq := 0
  die := 0
  addr := 0
  recAsid := 0
  asid := 0
  issuer := .tel 0 0 0
  queue := 0
  stats := []
  trec := trecOf []
  st := .running
  rgs := [0]
  steps := []
  step := 0
  execs := 0
  pending := none
  frames := [0]
  fill := none
  tiles := 0
  status := 0
  cancelled := false
  faulted := false
  owesRec := false

/-- The armed region's 64 owner ranges fill the directory of die 0; the other region is loaded. -/
def fullDirectory : State :=
  { State.reset with
    regions := [(0, waitingRegion), (1, ownersRegion)]
    pages := (0, waitingPage) :: tab 16 fun i => (2 * i + 2, armedOwners i)
    tasks := [waitingTask] }

theorem fullDirectory_noRoom : fullDirectory.ownerClash waitingRegion = none ∧
    fullDirectory.ownerRoom waitingRegion = false := by decide +kernel

/-- Refutes O53: the clause for `REGION_ARM` has every loaded region without a clash of owners armed, but one that finds no
room in the owner directory waits (R233, log 125, `regionArm_waits`), as in `fullDirectory`. -/
theorem not_schedulerAndMintEvents : ¬ Obligations.SchedulerAndMintEvents := by
  unfold Obligations.SchedulerAndMintEvents
  intro hall
  obtain ⟨hclash, hroom⟩ := fullDirectory_noRoom
  have hr : fullDirectory.region? 0 = some waitingRegion := rfl
  obtain ⟨-, -, -, -, harms, -⟩ := hall fullDirectory 0 0 0 0 0 waitingRegion waitingTask []
  obtain ⟨u, hu, harmed⟩ := (harms hr rfl le_rfl).2 hclash
  have hwaits := regionArm_waits hr rfl le_rfl hclash hroom
  have huv : fullDirectory = u := Host.Outcome.next.inj (hwaits.symm.trans hu)
  rw [← huv, hr] at harmed
  exact absurd (congrArg Region.st (Option.some.inj harmed)) (by decide)

end Sys2Proof.Machine
end

section
/-!
SUPPORT. The bytes of a store (R45, R241): what reads back, under a mask or without, and which blocks stay poisoned (R239).
-/

namespace Sys2Proof.Machine

/-- A run of bytes read back after it has been written. -/
theorem memRead_memWrite_same (k : Nat) (bs : List Byte) {m : List Host.Cell} (hm : Memory.wf m = true) :
    memRead (memWrite m k bs) k bs.length = bs := by
  refine List.ext_getElem (by simp [memRead, tab]) fun i _ hi => ?_
  simp [memRead, tab, memGet_memWrite k bs hm, hi]

theorem getD_memRead (m : List Host.Cell) (k n i : Nat) : (memRead m k n).getD i 0 = if i < n then memGet (k + i) m else 0 :=
  getD_tab ..

/-- A byte after a masked store: the new one where the mask selects it, the old one elsewhere. -/
theorem memGet_storeMasked (s : State) (k : Nat) (mask : List Bool) (bs : List Byte) (hm : Memory.wf s.mem = true) (a : Nat) :
    memGet a (s.storeMasked k mask bs).mem =
      if k ≤ a ∧ a < k + bs.length ∧ mask.getD (a - k) false = true then bs.getD (a - k) 0 else memGet a s.mem := by
  have hlen (f : Nat → Byte) : (tab bs.length f).length = bs.length := by simp [tab]
  rw [State.storeMasked, store_mem, memGet_memWrite k _ hm, hlen, getD_tab]
  by_cases hin : k ≤ a ∧ a < k + bs.length
  · obtain ⟨i, rfl⟩ := Nat.exists_eq_add_of_le hin.1
    have hi : i < bs.length := by omega
    rw [Nat.add_sub_cancel_left, if_pos hin, if_pos hi, getD_memRead, if_pos hi]
    simp only [hin, true_and]
  · rw [if_neg hin, if_neg fun h => hin ⟨h.1, h.2.1⟩]

/-- A store clears the poison of the blocks it writes whole, and of no other (R239). -/
theorem mem_poison_store (s : State) (k : Nat) (bs : List Byte) (b : Nat) :
    b ∈ (s.store k bs).poison ↔ b ∈ s.poison ∧ ¬ (k ≤ 64 * b ∧ 64 * b + 64 ≤ k + bs.length) := by
  have hwhole : ((k + 63) / 64 ≤ b ∧ b < (k + bs.length) / 64) ↔ k ≤ 64 * b ∧ 64 * b + 64 ≤ k + bs.length := by omega
  simp only [State.store, List.mem_filter, Bool.not_eq_true', ← hwhole, ← Bool.not_eq_true, Bool.and_eq_true,
    decide_eq_true_eq]

/-- Vault blocks have no code (R229). -/
theorem store_codes_of_vault (s : State) {k : Nat} (bs : List Byte) (hk : vaultKey ≤ k) : (s.store k bs).codes = s.codes :=
  if_neg (Nat.not_lt.mpr hk)

/-- Settles O7. A store is `memWrite`, whose bytes read back, and memories in canonical form are equal when they read alike. -/
theorem memoryReadsBack : Obligations.MemoryReadsBack := by
  intro s k bs mask hs
  refine ⟨⟨wf_store s k bs hs, memRead_memWrite_same k bs hs, fun a ha => ?_, rfl, store_codes_of_vault s bs,
    mem_poison_store s k bs⟩, ⟨wf_storeMasked s k mask bs hs, memGet_storeMasked s k mask bs hs⟩, fun t ht => wf_ext ht hs⟩
  rw [store_mem, memGet_memWrite k bs hs, if_neg (by omega)]

end Sys2Proof.Machine
end

section
/-!
SUPPORT. What leaves memory as it is (R45, R241): an answer, the state's own operations, firing, accesses under way, and
the units of synchronisation. Only the operations of the section on stores below change memory.
-/

namespace Sys2Proof.Machine

/-- An answer that, where it is a state, leaves memory as it was. -/
def KeepsMem (s : State) : Out → Prop
  | .next t => t.mem = s.mem
  | _ => True

@[simp] theorem keepsMem_next (s t : State) : KeepsMem s (.next t) ↔ t.mem = s.mem := .rfl
@[simp] theorem keepsMem_fault (s : State) (f : Fault) : KeepsMem s (.fault f) := trivial
@[simp] theorem keepsMem_refused (s : State) (f : Refusal) : KeepsMem s (.refused f) := trivial

theorem mem_of_keepsMem {s t : State} {o : Out} (h : KeepsMem s o) (ho : o = .next t) : t.mem = s.mem := by
  rw [ho] at h
  exact h

/-- `mem_of_forall` and `keepsMem_of_forall` put a variable in the place of a statement about `State.mem`: the kernel compares
two values of `State.mem` by evaluating their states, which is slow where the state is made from an image read or written. -/
theorem mem_of_forall {s t : State} (h : ∀ P : State → Prop, (∀ u, u.mem = s.mem → P u) → P t) : t.mem = s.mem :=
  h _ fun _ hu => hu

theorem keepsMem_of_forall {s : State} {o : Out} (h : ∀ P : Out → Prop, (∀ u : State, u.mem = s.mem → P (.next u)) → P o) :
    KeepsMem s o :=
  h _ fun _ hu => hu

@[simp] theorem foldl_mem {α : Type} {f : State → α → State} (h : ∀ s a, (f s a).mem = s.mem) (l : List α) (s : State) :
    (l.foldl f s).mem = s.mem := by
  induction l generalizing s with
  | nil => rfl
  | cons a l ih => exact (ih _).trans (h s a)

@[simp] theorem ite_mem (c : Prop) [Decidable c] (s t : State) : (if c then s else t).mem = if c then s.mem else t.mem :=
  apply_ite ..

@[simp] theorem keepsMem_ite (c : Prop) [Decidable c] (s : State) (a b : Out) :
    KeepsMem s (if c then a else b) ↔ if c then KeepsMem s a else KeepsMem s b := by
  split <;> rfl

/-! ## Faults, records and traps -/

@[simp] theorem fresh_mem (s : State) : (s.fresh).2.mem = s.mem := rfl

@[simp] theorem newId_mem (s : State) : (s.newId).2.mem = s.mem := rfl

@[simp] theorem modLive_mem (s : State) (pg pe : Nat) (f : PeLive → PeLive) : (s.modLive pg pe f).mem = s.mem := rfl

@[simp] theorem stir_mem (s : State) (pg : Nat) : (s.stir pg).mem = s.mem := by
  unfold State.stir
  split <;> rfl

@[simp] theorem mailBytes_mem (s : State) (o : Origin) (f : FaultInfo) (opnd : List Byte) :
    (s.mailBytes o f opnd).mem = s.mem := rfl

@[simp] theorem mail_mem (s : State) (o : Origin) (f : FaultInfo) (w : Word) : (s.mail o f w).mem = s.mem := rfl

@[simp] theorem trap_mem (s : State) (t cx : Nat) (f : FaultInfo) (epc fpc : Word) (late : Bool) (w : Word) :
    (s.trap t cx f epc fpc late w).mem = s.mem := by
  unfold State.trap
  split <;> simp

@[simp] theorem trapReturn_mem (s : State) (t cx : Nat) : (s.trapReturn t cx).mem = s.mem := rfl

@[simp] theorem raise_mem (s : State) (w : Who) (word : Word) (f : FaultInfo) : (s.raise w word f).mem = s.mem := by
  unfold State.raise
  split <;> simp

@[simp] theorem raiseFlight_mem (s : State) (x : Flight) (f : FaultInfo) : (s.raiseFlight x f).mem = s.mem := by
  unfold State.raiseFlight
  split <;> simp

/-! ## Operands -/

@[simp] theorem telTake_mem (s : State) (t cx port : Nat) : (s.telTake t cx port).mem = s.mem := by
  unfold State.telTake
  dsimp only
  repeat' split
  all_goals rfl

/-! ## Firing -/

@[simp] theorem takeAll_mem (s : State) (w : Who) (chans : List Nat) : (s.takeAll w chans).mem = s.mem :=
  foldl_mem (fun _ _ => by cases w <;> simp) ..

@[simp] theorem launch_mem (s : State) (w : Who) (deq : List Nat) (f : Flight) (pc : Option Word) (gap : Nat) :
    (s.launch w deq f pc gap).mem = s.mem := by
  unfold State.launch
  split <;> simp

@[simp] theorem launchDone_mem (s : State) (w : Who) (x : Word) (g : Guard) (d : Done) :
    (s.launchDone w x g d).mem = s.mem := by
  unfold State.launchDone
  split <;> simp

theorem keepsMem_fireTimed (g : Guard) (k : Who → Word → State → Except FaultInfo Done) (s : State) :
    KeepsMem s (fireTimed g k s) := by
  obtain ⟨-, e⟩ | ⟨w, x, f, -, e⟩ | ⟨w, x, d, -, -, -, e⟩ := fireTimed_cases g k s
  all_goals simp [e, State.fired, State.taken]

theorem keepsMem_fireJob (g : Guard) (k : Who → Word → State → Flight → Except FaultInfo Flight)
    {post : Flight → State → State} (hpost : ∀ f s, (post f s).mem = s.mem) (s : State) : KeepsMem s (fireJob g k post s) := by
  obtain ⟨-, e⟩ | ⟨w, x, f, -, e⟩ | ⟨w, x, j, -, -, -, e⟩ := fireJob_cases g k post s
  all_goals simp [e, hpost, State.handed, State.taken]

@[simp] theorem notifyOne_mem (s : State) (t cx : Nat) : (s.notifyOne t cx).mem = s.mem := by
  unfold State.notifyOne
  repeat' split
  all_goals rfl

@[simp] theorem applyWrites_mem (s : State) (w : Who) (born : Nat) (wr : Writes) :
    (s.applyWrites w born wr).mem = s.mem := by
  unfold State.applyWrites
  split <;> simp

@[simp] theorem releaseOuts_mem (s : State) (w : Who) (h : List Res) (wr : Writes) :
    (s.releaseOuts w h wr).mem = s.mem :=
  foldl_mem (fun s r => by (repeat' split) <;> rfl) ..

@[simp] theorem drainDone_mem (s : State) (f : Flight) : (s.drainDone f).mem = s.mem := by
  unfold State.drainDone
  split <;> simp

@[simp] theorem settle_mem (s : State) (f : Flight) (wr : Writes) : (s.settle f wr).mem = s.mem := by
  simp [State.settle]

@[simp] theorem perform_mem (s : State) (f : Flight) (wr : Writes) (outcome flag : Bool) (ev : List Nat) :
    (s.perform f wr outcome flag ev).mem = s.mem := by simp [State.perform]

/-! ## Accesses and translations -/

@[simp] theorem now_mem (s : State) (i : Instr) : (s.now i).mem = s.mem := rfl

@[simp] theorem stallTile_mem (s : State) (r : Region) (ix : Nat) : (s.stallTile r ix).mem = s.mem := by
  simp [State.stallTile]

@[simp] theorem doomLine_mem (s : State) (ptn : Nat) (key : Nat × Nat) (pa : Nat) :
    (s.doomLine ptn key pa).mem = s.mem := rfl

theorem load_mem {s t : State} {tt : Option (Nat × Nat)} {leaf k n : Nat} {bs : List Byte}
    (h : s.load tt leaf k n = .ok (bs, t)) : t.mem = s.mem := by
  unfold State.load at h
  dsimp only at h
  repeat' split at h
  all_goals cases h <;> rfl

theorem logUndo_mem {s t : State} {port : Port} {ival k : Nat} (h : s.logUndo port ival k = some t) : t.mem = s.mem := by
  unfold State.logUndo at h
  repeat' split at h
  all_goals cases h <;> rfl

@[simp] theorem raiseMe_mem (s : State) (pg si : Nat) (f : FaultInfo) : (s.raiseMe pg si f).mem = s.mem := rfl

@[simp] theorem tenFault_mem (s : State) (f : Flight) (e : FaultInfo) : (s.tenFault f e).mem = s.mem := by
  unfold State.tenFault
  split <;> simp

@[simp] theorem flightFault_mem (s : State) (f : Flight) (e : FaultInfo) : (s.flightFault f e).mem = s.mem := by
  unfold State.flightFault
  split <;> simp

@[simp] theorem accept_mem (s : State) (f : Flight) : (s.accept f).mem = s.mem := by
  unfold State.accept
  split <;> simp

@[simp] theorem setTlb_mem (s : State) (port : Port) (job : ReqFor) (e : Tlb) : (s.setTlb port job e).mem = s.mem := by
  unfold State.setTlb
  split <;> rfl

theorem foldl_snd_mem {α β : Type} {f : β × State → α → β × State} (h : ∀ x a, (f x a).2.mem = x.2.mem) (l : List α)
    (x : β × State) : (l.foldl f x).2.mem = x.2.mem := by
  induction l generalizing x with
  | nil => rfl
  | cons a l ih => exact (ih _).trans (h x a)

@[simp] theorem cross_mem (s : State) (path : List (Nat × Bool)) (t : Nat) : (s.cross path t).2.mem = s.mem := by
  unfold State.cross
  exact foldl_snd_mem (fun _ _ => by rfl) ..

@[simp] theorem linkWaits_mem (s : State) (from_ : Nat × Nat × Nat × Nat) (dst inner : Nat) :
    (s.linkWaits from_ dst inner).2.mem = s.mem := by simp [State.linkWaits]

@[simp] theorem latency_mem (s : State) (port : Port) (k : Nat) (store : Bool) :
    (s.latency port k store).2.mem = s.mem := by
  unfold State.latency
  generalize decide (vaultKey ≤ k) = vlt
  have hs : (if vlt = true then (0, s) else s.fresh).2.mem = s.mem := by cases vlt <;> rfl
  dsimp only
  generalize (if vlt = true then (0, s) else s.fresh) = x at hs
  rw [apply_ite Prod.snd, ite_mem, linkWaits_mem, ite_self]
  exact hs

@[simp] theorem walkTime_mem (s : State) (die asid va : Nat) : (s.walkTime die asid va).2.mem = s.mem := by
  unfold State.walkTime
  exact foldl_snd_mem (fun _ _ => by rfl) ..

@[simp] theorem startWalk_mem (s : State) (r : Req) : (s.startWalk r).2.mem = s.mem := by
  unfold State.startWalk
  split <;> simp

@[simp] theorem walkOn_mem (s : State) : (s.walkOn).mem = s.mem := by simp [State.walkOn]

theorem ownLoad_mem {s t : State} {r : Req} {k leaf : Nat} (h : s.ownLoad r k leaf = .ok t) : t.mem = s.mem := by
  unfold State.ownLoad at h
  repeat' split at h
  all_goals cases h <;> rfl

theorem place_mem {s t : State} {r : Req} {e : Tlb} (h : s.place r e = .ok t) : t.mem = s.mem := by
  unfold State.place at h
  extract_lets k atom acc at h
  clear_value k atom acc
  split at h
  · cases h
  · split at h
    · split at h <;> cases h
      rfl
    · split at h
      · exact ownLoad_mem h
      · cases h
        exact latency_mem ..

theorem ask_mem {s t : State} {job : ReqFor} {port : Port} {asid : Nat} {p : Part} {tt : Option (Nat × Nat)} {node ival : Nat}
    (h : s.ask job port asid p tt node ival = .ok t) : t.mem = s.mem := by
  unfold State.ask at h
  dsimp only at h
  split at h
  · exact (place_mem h).trans (newId_mem s)
  · cases h; simp

@[simp] theorem partFails_mem (s : State) (f : Flight) (n : Nat) (e : FaultInfo) : (s.partFails f n e).mem = s.mem := by
  simp [State.partFails]

@[simp] theorem issuePart_mem (s : State) (f : Flight) : (s.issuePart f).mem = s.mem := by
  unfold State.issuePart
  dsimp only
  repeat' split
  any_goals simp
  exact (ask_mem ‹_›).trans (by simp)

@[simp] theorem tryAccept_mem (s : State) (fid : Nat) : (s.tryAccept fid).mem = s.mem := by
  unfold State.tryAccept
  repeat' split
  all_goals simp

@[simp] theorem memPost_mem (f : Flight) (s : State) : (memPost f s).mem = s.mem := by
  unfold memPost
  split <;> simp

@[simp] theorem modShape_mem (s : State) (pg sx : Nat) (f : Shape → Shape) : (s.modShape pg sx f).mem = s.mem := rfl

@[simp] theorem deliver_mem (s : State) (r : Req) (bs : List Byte) : (s.deliver r bs).mem = s.mem := by
  unfold State.deliver
  dsimp only
  repeat' split
  all_goals simp

@[simp] theorem refillFault_mem (s : State) (pg sx : Nat) (e : FaultInfo) : (s.refillFault pg sx e).mem = s.mem := by
  unfold State.refillFault
  dsimp only
  repeat' split
  all_goals simp

@[simp] theorem throughFault_mem (s : State) (pg sx n : Nat) (e : FaultInfo) : (s.throughFault pg sx n e).mem = s.mem := by
  unfold State.throughFault
  split <;> simp

@[simp] theorem streamFails_mem (s : State) (pg si : Nat) (tt : Option (Nat × Nat)) (e : FaultInfo) :
    (s.streamFails pg si tt e).mem = s.mem := rfl

@[simp] theorem poisonReq_mem (s : State) (r : Req) : (s.poisonReq r).mem = s.mem := by
  unfold State.poisonReq
  repeat' split
  all_goals simp

@[simp] theorem useBlock_mem (s : State) (k : Nat) : (s.useBlock k).mem = s.mem := by
  unfold State.useBlock
  split
  · exact modDie_mem ..
  · rfl

@[simp] theorem reqFault_mem (s : State) (r : Req) (e : FaultInfo) : (s.reqFault r e).mem = s.mem := by
  unfold State.reqFault
  repeat' split
  all_goals simp

theorem keepsMem_execTranslationWalk (rid : Nat) (s : State) : KeepsMem s (execTranslationWalk rid s) := by
  unfold execTranslationWalk
  dsimp only
  repeat' split
  any_goals simp
  all_goals exact (place_mem ‹_›).trans (by simp)

theorem readRec_mem {s t : State} {die asid : Nat} {tt : Option (Nat × Nat)} {va n : Nat} {bs : List Byte}
    (h : s.readRec die asid tt va n = .ok (bs, t)) : t.mem = s.mem := by
  unfold State.readRec at h
  refine List.foldlRecOn (motive := fun acc : Except FaultInfo (List Byte × State) =>
    ∀ bs t, acc = Except.ok (bs, t) → t.mem = s.mem) _ _ ?_ ?_ bs t h
  · rintro bs t ⟨⟩
    rfl
  · rintro acc hacc ⟨a, k⟩ - bs t e
    dsimp only at e
    repeat' split at e
    all_goals cases e
    exact (load_mem ‹_›).trans (hacc _ _ rfl)

theorem withRec_mem {k : List Byte → State → State} (hk : ∀ bs s, (k bs s).mem = s.mem) (s : State) (f : Flight) :
    (s.withRec f k).mem = s.mem := by
  unfold State.withRec
  split
  · simp
  · split <;> simp [hk]

/-! ## Loads and stores -/

@[simp] theorem memStep_mem (s : State) (f : Flight) : (s.memStep f).mem = s.mem := by simp [State.memStep]

/-! ## Atomics -/

@[simp] theorem answer_mem (s : State) (u : Upd) (old : Nat) : (s.answer u old).mem = s.mem := rfl

@[simp] theorem updFault_mem (s : State) (u : Upd) (e : FaultInfo) : (s.updFault u e).mem = s.mem := by
  unfold State.updFault
  split <;> simp

theorem keepsMem_execUpdateTokenArrive (uid : Nat) (s : State) : KeepsMem s (execUpdateTokenArrive uid s) := by
  unfold execUpdateTokenArrive
  dsimp only
  repeat' split
  all_goals simp

@[simp] theorem ownerBegin_mem (s : State) (pg me : Nat) : (s.ownerBegin pg me).mem = s.mem := by
  unfold State.ownerBegin
  split <;> simp

@[simp] theorem atomStep_mem (s : State) (f : Flight) : (s.atomStep f).mem = s.mem := by simp [State.atomStep]

theorem keepsMem_execAtomicResultReturn (fid : Nat) (s : State) : KeepsMem s (execAtomicResultReturn fid s) := by
  unfold execAtomicResultReturn
  split <;> simp

/-! ## Tills, banks, groups and fences -/

@[simp] theorem jobPost_mem (f : Flight) (s : State) : (jobPost f s).mem = s.mem := by simp [jobPost]

@[simp] theorem performVal_mem (s : State) (f : Flight) (v : Word) (outcome flag : Bool) :
    (s.performVal f v outcome flag).mem = s.mem := by simp [State.performVal]

@[simp] theorem spanSend_mem (s : State) (port ptn till : Nat) (bs : List Byte) (bad : Bool) :
    (s.spanSend port ptn till bs bad).mem = s.mem := rfl

@[simp] theorem peerAnswer_mem (s : State) (port ptn till v : Nat) : (s.peerAnswer port ptn till v).mem = s.mem := rfl

@[simp] theorem tillFault_mem (s : State) (m : Msg) (f : FaultInfo) : (s.tillFault m f).mem = s.mem := rfl

theorem keepsMem_execSpanMessageArrive (port ptn till res : Nat) (bytes : List Byte) (s : State) :
    KeepsMem s (execSpanMessageArrive port ptn till res bytes s) := by
  unfold execSpanMessageArrive
  split <;> rfl

@[simp] theorem evPush_mem (s : State) (d p : Nat) (r : List Byte) : (s.evPush d p r).mem = s.mem := rfl

@[simp] theorem evDrop_mem (s : State) (d p : Nat) : (s.evDrop d p).mem = s.mem := rfl

@[simp] theorem evStep_mem (s : State) (f : Flight) : (s.evStep f).mem = s.mem := by
  unfold State.evStep
  dsimp only
  repeat' split
  all_goals simp

@[simp] theorem setBank_mem (s : State) (d b : Nat) (t : BankTok) : (s.setBank d b t).mem = s.mem := rfl

@[simp] theorem bankStep_mem (s : State) (f : Flight) : (s.bankStep f).mem = s.mem := by
  unfold State.bankStep
  repeat' split
  all_goals simp

@[simp] theorem freeBanks_mem (s : State) (pg : Nat) : (s.freeBanks pg).mem = s.mem := rfl

@[simp] theorem grpWait_mem (s : State) (w : Who) (gdie : Nat) : (s.grpWait w gdie).2.mem = s.mem := by
  simp [State.grpWait]

theorem keepsMem_grpR (o : FormR) (s : State) : KeepsMem s (grpR o s) :=
  keepsMem_fireJob _ _ (fun f s => by simp) s

@[simp] theorem setGroups_mem (s : State) (w : Who) (g : List GMem) : (s.setGroups w g).mem = s.mem := by
  unfold State.setGroups
  split <;> rfl

@[simp] theorem grpTry_mem (s : State) (die ix fid : Nat) : (s.grpTry die ix fid).mem = s.mem := by
  unfold State.grpTry
  repeat' split
  all_goals simp

theorem keepsMem_execGrpEntryApply (die ix : Nat) (s : State) : KeepsMem s (execGrpEntryApply die ix s) := by
  unfold execGrpEntryApply
  dsimp only
  repeat' split
  all_goals simp

@[simp] theorem grpStep_mem (s : State) (f : Flight) : (s.grpStep f).mem = s.mem := by simp [State.grpStep]

@[simp] theorem fenceStep_mem (s : State) (f : Flight) : (s.fenceStep f).mem = s.mem := by simp [State.fenceStep]

@[simp] theorem qfenceStep_mem (s : State) (f : Flight) : (s.qfenceStep f).mem = s.mem := by simp [State.qfenceStep]

theorem keepsMem_tcntR (o : FormR) (s : State) : KeepsMem s (tcntR o s) :=
  keepsMem_fireJob _ _ (fun f s => by split <;> simp) s

@[simp] theorem tcntStep_mem (s : State) (f : Flight) : (s.tcntStep f).mem = s.mem := by simp [State.tcntStep]

theorem keepsMem_execTcntApply (rg : Nat) (s : State) : KeepsMem s (execTcntApply rg s) := by
  unfold execTcntApply
  dsimp only
  repeat' split
  all_goals simp

end Sys2Proof.Machine
end

section
/-!
SUPPORT. What leaves memory as it is: shapes, tiles, streams, and the first part of an assay word.
-/

namespace Sys2Proof.Machine

/-! ## Shapes -/

@[simp] theorem dropRefill_mem (s : State) (pg sx : Nat) : (s.dropRefill pg sx).mem = s.mem := rfl

@[simp] theorem refillAsk_mem (s : State) (pg sx : Nat) : (s.refillAsk pg sx).mem = s.mem := by
  unfold State.refillAsk
  dsimp only
  repeat' split
  any_goals rfl
  rw [foldl_mem fun s x => ?_]
  · simp
  · split
    · exact ask_mem ‹_›
    · simp

@[simp] theorem startRefill_mem (s : State) (pg sx win : Nat) (w : Who) (x : Word) (fid : Option Nat) :
    (s.startRefill pg sx win w x fid).mem = s.mem := by
  unfold State.startRefill
  split <;> simp

@[simp] theorem clearStash_mem (s : State) (pg sx : Nat) (w : Who) (fid : Option Nat) :
    (s.clearStash pg sx w fid).mem = s.mem := rfl

theorem keepsMem_shapeR (o : FormR) (sx : Nat) (k : Who → Word → State → Shape → List (Nat × Nat) → Except FaultInfo Done)
    (s : State) : KeepsMem s (shapeR o sx k s) := by
  unfold shapeR
  dsimp only
  split
  · next h _ => exact (clearStash_mem ..).trans (mem_of_keepsMem (keepsMem_fireTimed ..) h)
  · exact keepsMem_fireTimed ..

@[simp] theorem shbindAsk_mem (s : State) (f : Flight) : (s.shbindAsk f).mem = s.mem := by simp [State.shbindAsk]

@[simp] theorem shbindDone_mem (s : State) (f : Flight) (bs : List Byte) : (s.shbindDone f bs).mem = s.mem := by
  unfold State.shbindDone
  dsimp only
  repeat' split
  all_goals simp

@[simp] theorem throughs_mem (f : Flight) (addr due : Nat) (l : List (Nat × Nat × Nat)) (s : State) :
    (throughs f addr due l s).2.mem = s.mem := by
  unfold throughs
  exact foldl_snd_mem (fun _ _ => by rfl) ..

@[simp] theorem shapeStep_mem (s : State) (f : Flight) : (s.shapeStep f).mem = s.mem := by
  unfold State.shapeStep
  dsimp only
  repeat' split
  all_goals simp

theorem keepsMem_execShsetWriteThrough (pg sx : Nat) (s : State) : KeepsMem s (execShsetWriteThrough pg sx s) := by
  unfold execShsetWriteThrough
  dsimp only
  repeat' split
  any_goals simp
  all_goals exact (ask_mem ‹_›).trans (by simp)

/-! ## Tiles and tenants -/

@[simp] theorem enqueue_mem (s : State) (f : Flight) : (s.enqueue f).mem = s.mem := by
  unfold State.enqueue
  split <;> simp

theorem keepsMem_tileR (o : FormR) (h : List Res) (k : State → Flight → Flight) (s : State) : KeepsMem s (tileR o h k s) :=
  keepsMem_fireJob _ _ (fun f s => enqueue_mem s f) s

@[simp] theorem dequeueTile_mem (s : State) (pg ten : Nat) : (s.dequeueTile pg ten).mem = s.mem := by
  unfold State.dequeueTile
  split <;> rfl

@[simp] theorem tileDone_mem (s : State) (pg ten : Nat) (f : Flight) (wr : Writes) (outcome flag : Bool) (ev : List Nat) :
    (s.tileDone pg ten f wr outcome flag ev).mem = s.mem := by simp [State.tileDone]

@[simp] theorem emitTok_mem (s : State) (pg pe port : Nat) (t : Tok) (last : Bool) :
    (s.emitTok pg pe port t last).mem = s.mem := by simp [State.emitTok]

@[simp] theorem streamTake_mem (s : State) (pg : Nat) (f : Flight) (ten : Nat) (t : Tok) :
    (s.streamTake pg f ten t).mem = s.mem := by
  unfold State.streamTake
  split <;> simp

@[simp] theorem waitAct_mem (s : State) (pg ten : Nat) : (s.waitAct pg ten).mem = s.mem := rfl

@[simp] theorem zldStep_mem (s : State) (pg ten : Nat) (f : Flight) (t : Tenant) (p : Page) :
    (s.zldStep pg ten f t p).mem = s.mem := by
  unfold State.zldStep
  repeat' split
  all_goals simp

@[simp] theorem mmaBounds_mem (s : State) (f : Flight) (row0 : Nat) : (s.mmaBounds f row0).mem = s.mem := by
  unfold State.mmaBounds
  repeat' split
  all_goals simp

@[simp] theorem mmaReceive_mem (s : State) (pg ten : Nat) (f : Flight) (t : Tenant) (p : Page) :
    (s.mmaReceive pg ten f t p).mem = s.mem := by
  unfold State.mmaReceive
  dsimp only
  repeat' split
  all_goals simp

theorem keepsMem_execMmaEngineStep (pg ten : Nat) (s : State) : KeepsMem s (execMmaEngineStep pg ten s) := by
  unfold execMmaEngineStep
  repeat' split
  all_goals simp

@[simp] theorem tileRes_mem (s : State) (pg ten : Nat) (f : Flight) (r : Except FaultInfo TileRes) :
    (s.tileRes pg ten f r).mem = s.mem := by
  cases r <;> simp [State.tileRes]

@[simp] theorem zrdStep_mem (s : State) (pg ten : Nat) (f : Flight) (p : Page) : (s.zrdStep pg ten f p).mem = s.mem := by
  unfold State.zrdStep
  dsimp only
  repeat' split
  all_goals simp

@[simp] theorem zstIssue_mem (s : State) (rows : List (List Part)) (f : Flight) : (s.zstIssue rows f).mem = s.mem := by
  unfold State.zstIssue
  split <;> simp

@[simp] theorem zstStep_mem (s : State) (pg ten : Nat) (f : Flight) (p : Page) : (s.zstStep pg ten f p).mem = s.mem := by
  simp [State.zstStep]

@[simp] theorem zsplitStep_mem (s : State) (pg ten : Nat) (f : Flight) : (s.zsplitStep pg ten f).mem = s.mem := by
  simp [State.zsplitStep]

theorem keepsMem_execTileQueuePerform (pg ten : Nat) (s : State) : KeepsMem s (execTileQueuePerform pg ten s) := by
  unfold execTileQueuePerform
  repeat' split
  all_goals simp

theorem keepsMem_execTenantFlush (pg ten : Nat) (s : State) : KeepsMem s (execTenantFlush pg ten s) := by
  unfold execTenantFlush
  split
  · simp
  · exact foldl_mem (fun _ _ => by rfl) ..

@[simp] theorem armFault_mem (s : State) (r : Region) : (s.armFault r).mem = s.mem := rfl

theorem keepsMem_execArmRecordWalk (rg : Nat) (s : State) : KeepsMem s (execArmRecordWalk rg s) := by
  unfold execArmRecordWalk
  dsimp only
  repeat' split
  any_goals simp
  all_goals exact readRec_mem ‹_›

theorem keepsMem_execShapeWindowRefill (pg sx : Nat) (s : State) : KeepsMem s (execShapeWindowRefill pg sx s) := by
  unfold execShapeWindowRefill
  dsimp only
  repeat' split
  all_goals simp

/-! ## Streams -/

@[simp] theorem streamFault_mem (s : State) (pg si : Nat) (e : FaultInfo) : (s.streamFault pg si e).mem = s.mem := rfl

@[simp] theorem streamAsk_mem (s : State) (pg si : Nat) : (s.streamAsk pg si).mem = s.mem := by
  unfold State.streamAsk
  dsimp only
  repeat' split
  any_goals simp
  all_goals exact (ask_mem ‹_›).trans (by simp)

@[simp] theorem streamFetch_mem (s : State) (pg si : Nat) : (s.streamFetch pg si).mem = s.mem := by
  unfold State.streamFetch
  dsimp only
  repeat' split
  all_goals simp

@[simp] theorem streamPut_mem (s : State) (pg si : Nat) (t : Tok) : (s.streamPut pg si t).mem = s.mem := rfl

@[simp] theorem rowSent_mem (s : State) (pg si : Nat) (m : Stream) (e : Eff) (c : Cursor) :
    (s.rowSent pg si m e c).mem = s.mem := rfl

@[simp] theorem rowOut_mem (s : State) (pg si : Nat) (me : Me) (m : Stream) (e : Eff) (c : Cursor) (net n : Nat) :
    (s.rowOut pg si me m e c net n).mem = s.mem := by simp [State.rowOut]

@[simp] theorem decodeOut_mem (s : State) (pg si : Nat) (me : Me) (m : Stream) (e : Eff) (c : Cursor) (net : Nat)
    (d : List Byte × Nat × Nat) : (s.decodeOut pg si me m e c net d).mem = s.mem := by simp [State.decodeOut]

@[simp] theorem dropAux_mem (s : State) (pg si : Nat) : (s.dropAux pg si).mem = s.mem := rfl

@[simp] theorem auxAsk_mem (s : State) (pg si kind : Nat) (ps : List (Nat × Part)) (k : Stream → Stream) :
    (s.auxAsk pg si kind ps k).mem = s.mem := by
  unfold State.auxAsk
  dsimp only
  repeat' split
  any_goals rfl
  rw [foldl_mem fun s x => ?_]
  · simp
  · split
    · exact ask_mem ‹_›
    · simp

@[simp] theorem askHeader_mem (s : State) (pg si : Nat) (m : Stream) : (s.askHeader pg si m).mem = s.mem := by
  simp [State.askHeader]

@[simp] theorem dropStr_mem (s : State) (pg si : Nat) : (s.dropStr pg si).mem = s.mem := rfl

@[simp] theorem askWindow_mem (s : State) (pg si : Nat) (m : Stream) : (s.askWindow pg si m).mem = s.mem := by
  unfold State.askWindow
  split <;> simp

@[simp] theorem streamDecode_mem (s : State) (pg si : Nat) : (s.streamDecode pg si).mem = s.mem := by
  unfold State.streamDecode
  split <;> simp

theorem mem_ite_of {c : Prop} [Decidable c] {s t : State} {m : List Host.Cell} (hs : s.mem = m) (ht : t.mem = m) :
    (if c then s else t).mem = m := by
  split <;> assumption

@[simp] theorem streamEmit_mem (s : State) (pg si : Nat) : (s.streamEmit pg si).mem = s.mem := by
  unfold State.streamEmit
  dsimp only
  split
  · refine mem_ite_of rfl (mem_ite_of (by split <;> simp) (mem_ite_of (by split <;> simp)
      (mem_ite_of rfl (mem_ite_of (by split <;> simp) ?_))))
    split
    · rfl
    split
    · repeat' split
      all_goals simp
    · refine mem_ite_of rfl (mem_ite_of (by split <;> simp) ?_)
      repeat' split
      all_goals simp
  · rfl

theorem keepsMem_execStreamRowIssue (pg si : Nat) (s : State) : KeepsMem s (execStreamRowIssue pg si s) := by
  simp [execStreamRowIssue]

theorem keepsMem_execStreamHeaderCapture (pg si : Nat) (s : State) : KeepsMem s (execStreamHeaderCapture pg si s) := by
  unfold execStreamHeaderCapture
  repeat' split
  all_goals simp

theorem keepsMem_execStreamWindowRead (pg si : Nat) (s : State) : KeepsMem s (execStreamWindowRead pg si s) := by
  unfold execStreamWindowRead
  repeat' split
  all_goals simp

@[simp] theorem storeTake_mem (s : State) (pg si : Nat) : (s.storeTake pg si).mem = s.mem := rfl

@[simp] theorem storeRowTok_mem (s : State) (pg si : Nat) (me : Me) (m : Stream) (net : Nat) (t : Tok) :
    (s.storeRowTok pg si me m net t).mem = s.mem := by simp [State.storeRowTok]

theorem keepsMem_execStoreStreamToken (pg si : Nat) (s : State) : KeepsMem s (execStoreStreamToken pg si s) := by
  unfold execStoreStreamToken
  repeat' split
  all_goals simp

@[simp] theorem sopenStep_mem (s : State) (f : Flight) : (s.sopenStep f).mem = s.mem := by
  unfold State.sopenStep
  dsimp only
  split
  · repeat' split
    any_goals simp
    refine withRec_mem (fun bs s => ?_) s f
    repeat' split
    all_goals simp
  · rfl

@[simp] theorem sctlStep_mem (s : State) (f : Flight) : (s.sctlStep f).mem = s.mem := by
  unfold State.sctlStep
  dsimp only
  repeat' split
  all_goals simp

@[simp] theorem prefAsk_mem (s : State) (f : Flight) : (s.prefAsk f).mem = s.mem := by simp [State.prefAsk]

@[simp] theorem prefStep_mem (s : State) (f : Flight) : (s.prefStep f).mem = s.mem := by
  unfold State.prefStep
  split <;> simp

@[simp] theorem xformStep_mem (s : State) (f : Flight) : (s.xformStep f).mem = s.mem := by
  unfold State.xformStep
  dsimp only
  split
  · rfl
  · split
    · rfl
    · refine withRec_mem (fun bs s => ?_) s f
      split
      · simp
      · rw [perform_mem, modMe_mem]
        exact foldl_mem (fun _ _ => by split <;> simp) ..

@[simp] theorem ldrFetch_mem (s : State) (f : Flight) (h : ShapeHdr) : (s.ldrFetch f h).mem = s.mem := by
  unfold State.ldrFetch
  dsimp only
  repeat' split
  any_goals simp
  all_goals exact (ask_mem ‹_›).trans (by simp)

@[simp] theorem ldrCapture_mem (s : State) (f : Flight) (h : ShapeHdr) (kn : List (Nat × Nat)) :
    (s.ldrCapture f h kn).mem = s.mem := by simp [State.ldrCapture]

@[simp] theorem ldrEmit_mem (s : State) (f : Flight) (h : ShapeHdr) : (s.ldrEmit f h).mem = s.mem := by
  unfold State.ldrEmit
  dsimp only
  repeat' split
  all_goals simp

@[simp] theorem ldrStep_mem (s : State) (f : Flight) : (s.ldrStep f).mem = s.mem := by
  unfold State.ldrStep
  dsimp only
  repeat' split
  all_goals simp

/-! ## Assay words -/

theorem keepsMem_assayR (o : FormR) (align : Nat) (s : State) : KeepsMem s (assayR o align s) :=
  keepsMem_fireJob _ _ (fun f s => by simp) s

@[simp] theorem assayFault_mem (s : State) (f : Flight) (x : FaultInfo) : (s.assayFault f x).mem = s.mem := by
  unfold State.assayFault
  split <;> simp

/-! ## Markers -/

theorem keepsMem_markR (o : FormR) (f : Pe → Pe) (s : State) : KeepsMem s (markR o f s) := by
  unfold markR
  repeat' split
  all_goals simp

@[simp] theorem callDepth_mem (s : State) (w : Who) (f : BitVec 8 → BitVec 8) : (s.callDepth w f).mem = s.mem := by
  unfold State.callDepth
  split <;> rfl

/-! ## Graphs of the SAF units -/

@[simp] theorem withholdProducer_mem (s : State) (pg ep : Nat) : (s.withholdProducer pg ep).mem = s.mem := by
  unfold State.withholdProducer
  split <;> simp

@[simp] theorem safFault_mem (s : State) (pg h : Nat) (g : Graph) (e : FaultInfo) : (s.safFault pg h g e).mem = s.mem := rfl

@[simp] theorem safEnter_mem (s : State) (pg h : Nat) (g : Graph) (t : Tok) : (s.safEnter pg h g t).mem = s.mem := rfl

theorem keepsMem_execSafSlice (pg h : Nat) (s : State) : KeepsMem s (execSafSlice pg h s) := by
  unfold execSafSlice
  repeat' split
  all_goals simp

theorem keepsMem_execSafOutput (pg h : Nat) (s : State) : KeepsMem s (execSafOutput pg h s) := by
  unfold execSafOutput
  dsimp only
  repeat' split
  all_goals simp

theorem keepsMem_execSafCtlHandle (pg h : Nat) (s : State) : KeepsMem s (execSafCtlHandle pg h s) := by
  unfold execSafCtlHandle
  repeat' split
  all_goals rfl

@[simp] theorem agDrain_mem (s : State) (pg h : Nat) : (s.agDrain pg h).mem = s.mem := rfl

@[simp] theorem agStep_mem (s : State) (f : Flight) : (s.agStep f).mem = s.mem := by
  unfold State.agStep
  dsimp only
  repeat' split
  any_goals simp
  all_goals
    refine withRec_mem (fun bs s => ?_) s f
    repeat' split
    all_goals simp

end Sys2Proof.Machine
end

section
/-!
SUPPORT. What leaves memory as it is: tile-tasks, regions, the mint, tasks and ranges.
-/

namespace Sys2Proof.Machine

/-! ## Tile-tasks, draining and the end of a region -/

@[simp] theorem raiseCut_mem (s : State) (rg : Nat) : (s.raiseCut rg).mem = s.mem := by
  unfold State.raiseCut
  dsimp only
  repeat' split
  any_goals rfl
  all_goals exact foldl_mem (fun _ _ => by rfl) ..

@[simp] theorem raiseFloor_mem (s : State) (ptn ts : Nat) : (s.raiseFloor ptn ts).mem = s.mem := rfl

@[simp] theorem issueTile_mem (s : State) (r : Region) (ix : Nat) : (s.issueTile r ix).mem = s.mem := by
  simp [State.issueTile]

theorem keepsMem_execTileTaskIssue (rg : Nat) (s : State) : KeepsMem s (execTileTaskIssue rg s) := by
  unfold execTileTaskIssue
  split <;> simp

theorem keepsMem_execTileTaskSeal (rg ix : Nat) (s : State) : KeepsMem s (execTileTaskSeal rg ix s) := by
  unfold execTileTaskSeal
  repeat' split
  all_goals rfl

theorem keepsMem_execEscrowReserveStall (rg ix : Nat) (s : State) : KeepsMem s (execEscrowReserveStall rg ix s) := by
  unfold execEscrowReserveStall
  repeat' split
  all_goals simp

theorem keepsMem_execRerunIssue (rg ix : Nat) (s : State) : KeepsMem s (execRerunIssue rg ix s) := by
  unfold execRerunIssue
  split <;> simp

@[simp] theorem injectSnap_mem (s : State) (r : Region) (elems : Bool) : (s.injectSnap r elems).mem = s.mem := by
  unfold State.injectSnap
  exact foldl_mem (fun _ _ => by rfl) ..

theorem keepsMem_execCutSnapInject (rg : Nat) (s : State) : KeepsMem s (execCutSnapInject rg s) := by
  unfold execCutSnapInject
  split <;> simp

theorem keepsMem_execUndoLogLow (pg me : Nat) (s : State) : KeepsMem s (execUndoLogLow pg me s) := by
  unfold execUndoLogLow
  split <;> simp

theorem keepsMem_execDrainStart (rg : Nat) (s : State) : KeepsMem s (execDrainStart rg s) := by
  unfold execDrainStart
  dsimp only
  split
  · simp
  · split
    · simp
    · exact foldl_mem (fun _ _ => by rfl) ..

theorem keepsMem_execMeDrainPass (pg me : Nat) (s : State) : KeepsMem s (execMeDrainPass pg me s) := by
  unfold execMeDrainPass
  split <;> simp

theorem keepsMem_execPageDrained (pg : Nat) (s : State) : KeepsMem s (execPageDrained pg s) := by
  unfold execPageDrained
  split <;> simp

@[simp] theorem purgePage_mem (s : State) (pg : Nat) : (s.purgePage pg).mem = s.mem := rfl

@[simp] theorem vacate_mem (s : State) (pg : Nat) : (s.vacate pg).mem = s.mem := by
  unfold State.vacate
  dsimp only
  repeat' split
  all_goals simp

@[simp] theorem retire_mem (s : State) (rg : Nat) : (s.retire rg).mem = s.mem := by
  unfold State.retire
  dsimp only
  split
  · rfl
  · exact foldl_mem (fun _ _ => by simp) ..

@[simp] theorem removeRegion_mem (s : State) (rg : Nat) : (s.removeRegion rg).mem = s.mem := by
  unfold State.removeRegion
  split <;> simp

@[simp] theorem forget_mem (s : State) (ptn die : Nat) : (s.forget ptn die).mem = s.mem := rfl

@[simp] theorem postRecord_mem (s : State) (ptn lseq : Nat) : (s.postRecord ptn lseq).mem = s.mem := by
  unfold State.postRecord
  split <;> simp

@[simp] theorem endTask_mem (s : State) (ptn lseq status : Nat) : (s.endTask ptn lseq status).mem = s.mem := by
  unfold State.endTask
  split <;> simp

@[simp] theorem mailLast_mem (s : State) (o : Origin) (f : FaultInfo) : (s.mailLast o f).mem = s.mem := rfl

@[simp] theorem sweep_mem (s : State) (r : Region) (code : Nat) : (s.sweep r code).mem = s.mem := by
  unfold State.sweep
  dsimp only
  rw [foldl_mem fun s (x : Origin × FaultInfo) => mailLast_mem s x.1 x.2]
  simp

theorem keepsMem_execQuietCountExpire (rg : Nat) (s : State) : KeepsMem s (execQuietCountExpire rg s) := by
  unfold execQuietCountExpire
  split <;> simp

@[simp] theorem freeze_mem (s : State) (rg : Nat) (expired : Bool) : (s.freeze rg expired).mem = s.mem := by
  unfold State.freeze
  dsimp only
  repeat' split
  all_goals simp

theorem keepsMem_execPreemptFreeze (rg : Nat) (s : State) : KeepsMem s (execPreemptFreeze rg s) := by
  unfold execPreemptFreeze
  split <;> simp

theorem keepsMem_execLinkFlitFailure (rg : Nat) (s : State) : KeepsMem s (execLinkFlitFailure rg s) := by
  unfold execLinkFlitFailure
  split <;> rfl

/-! ## The mint -/

@[simp] theorem reject_mem (s : State) (r : Region) (e : Rej) : (s.reject r e).mem = s.mem := by simp [State.reject]

@[simp] theorem placePage_mem (s : State) (pg : Nat) (p : Page) : (s.placePage pg p).mem = s.mem := by
  simp [State.placePage]

@[simp] theorem mintFree_mem (s : State) (die : Nat) : (s.mintFree die).mem = s.mem := rfl

theorem keepsMem_execMintLoad (rg page : Nat) (s : State) : KeepsMem s (execMintLoad rg page s) := by
  refine keepsMem_of_forall fun P hP => ?_
  generalize hg : execMintLoad = g
  delta execMintLoad at hg
  subst hg
  beta_reduce
  split
  · exact hP _ rfl
  · split
    · exact hP _ rfl
    · split
      · exact hP _ rfl
      · extract_lets u
        have hu : u.mem = s.mem := mintFree_mem ..
        clear_value u
        split
        · exact hP _ ((reject_mem ..).trans hu)
        · exact hP _ hu
        · extract_lets p v
          clear_value p
          have hv : v.mem = s.mem := by simpa [v] using hu
          clear_value v
          split
          · exact hP _ ((reject_mem ..).trans hu)
          · split
            · exact hP _ hv
            · split
              · exact hP _ ((reject_mem ..).trans hv)
              · exact hP _ hv

@[simp] theorem refill_mem (s : State) (k : Task) : (s.refill k).mem = s.mem := by simp [State.refill]

@[simp] theorem mintOn_mem (s : State) : (s.mintOn).mem = s.mem := by simp [State.mintOn]

@[simp] theorem arm_mem (s : State) (rg : Nat) : (s.arm rg).mem = s.mem := by
  unfold State.arm
  dsimp only
  split
  · rfl
  · rw [mintOn_mem, modRegion_mem]
    exact foldl_mem (fun _ _ => by rfl) ..

theorem keepsMem_execRegionArm (rg : Nat) (s : State) : KeepsMem s (execRegionArm rg s) := by
  unfold execRegionArm
  repeat' split
  all_goals simp

theorem keepsMem_execShadowFillComplete (rg : Nat) (s : State) : KeepsMem s (execShadowFillComplete rg s) := by
  refine keepsMem_of_forall fun P hP => ?_
  generalize hg : execShadowFillComplete = g
  delta execShadowFillComplete at hg
  subst hg
  beta_reduce
  split
  · exact hP _ rfl
  · split
    · exact hP _ rfl
    · split
      · exact hP _ rfl
      · extract_lets u
        have hu : u.mem = s.mem := mintFree_mem ..
        clear_value u
        split
        · split
          · exact hP _ hu
          · extract_lets r'
            clear_value r'
            split
            · extract_lets p
              exact hP _ ((modTask_mem ..).trans hu)
            · exact hP _ hu
        · exact hP _ hu

@[simp] theorem removePageOnly_mem (s : State) (pg : Nat) : (s.removePageOnly pg).mem = s.mem := rfl

theorem keepsMem_execSequenceSwap (rg : Nat) (s : State) : KeepsMem s (execSequenceSwap rg s) := by
  unfold execSequenceSwap
  dsimp only
  repeat' split
  any_goals simp
  all_goals
    rw [foldl_mem fun s (x : Option Nat) => by (repeat' split) <;> rfl, foldl_mem fun s pg => removePageOnly_mem s pg]

/-! ## Tasks -/

@[simp] theorem status_mem (s : State) (f : Flight) (st h : Nat) : (s.status f st h).mem = s.mem := by
  simp [State.status]

@[simp] theorem lqPush_mem (s : State) (die q ptn lseq : Nat) : (s.lqPush die q ptn lseq).mem = s.mem := rfl

@[simp] theorem lqDrop_mem (s : State) (die q ptn lseq : Nat) : (s.lqDrop die q ptn lseq).mem = s.mem := rfl

@[simp] theorem seqStep_mem (s : State) (f : Flight) : (s.seqStep f).mem = s.mem := by
  unfold State.seqStep
  split <;> simp

@[simp] theorem cancelTask_mem (s : State) (k : Task) : (s.cancelTask k).mem = s.mem := by
  unfold State.cancelTask
  dsimp only
  split
  · simp
  · exact foldl_mem (fun _ _ => by rfl) ..

@[simp] theorem cnclStep_mem (s : State) (f : Flight) : (s.cnclStep f).mem = s.mem := by simp [State.cnclStep]

@[simp] theorem prioStep_mem (s : State) (f : Flight) : (s.prioStep f).mem = s.mem := by
  unfold State.prioStep
  repeat' split
  all_goals simp

@[simp] theorem taskArrive_mem (s : State) (f : Flight) : (s.taskArrive f).mem = s.mem := by simp [State.taskArrive]

theorem keepsMem_execPriorityAging (die q : Nat) (s : State) : KeepsMem s (execPriorityAging die q s) := by
  unfold execPriorityAging
  split <;> rfl

@[simp] theorem startTask_mem (s : State) (q : Nat) (k : Task) (fr : List Nat) : (s.startTask q k fr).mem = s.mem := by
  unfold State.startTask
  dsimp only
  split
  · simp
  · rw [foldl_mem fun s (x : Dep) => by split <;> simp, foldl_mem fun s (i : Nat) => by rfl]
    simp

theorem keepsMem_execSchedulerCycle (die : Nat) (s : State) : KeepsMem s (execSchedulerCycle die s) := by
  unfold execSchedulerCycle
  split <;> simp

/-! ## Ranges -/

theorem keepsMem_rangeR (o : FormR) (names : Bool) (s : State) : KeepsMem s (rangeR o names s) :=
  keepsMem_fireJob _ _ (fun f s => by split <;> simp) s

@[simp] theorem unrange_mem (s : State) (rg fid : Nat) : (s.unrange rg fid).mem = s.mem := rfl

@[simp] theorem rangeDone_mem (s : State) (r : Region) (f : Flight) (v : Word) (outcome flag : Bool) :
    (s.rangeDone r f v outcome flag).mem = s.mem := by simp [State.rangeDone]

@[simp] theorem sendSteal_mem (s : State) (r v : Region) (f : Flight) (k : Nat) : (s.sendSteal r v f k).mem = s.mem := rfl

@[simp] theorem getAsk_mem (s : State) (r : Region) (f : Flight) (k : Nat) : (s.getAsk r f k).mem = s.mem := by
  unfold State.getAsk
  dsimp only
  repeat' split
  all_goals simp

theorem splitTo_mem {s t : State} {v w : Region} {n : Nat} (h : s.splitTo v w = some (n, t)) : t.mem = s.mem := by
  unfold State.splitTo at h
  split at h <;> cases h
  simp

@[simp] theorem rangeStep_mem (s : State) (f : Flight) : (s.rangeStep f).mem = s.mem := by
  unfold State.rangeStep
  dsimp only
  repeat' split
  any_goals simp
  next h =>
    obtain ⟨v, -, hv⟩ := Option.bind_eq_some_iff.mp h
    exact splitTo_mem hv

theorem keepsMem_execStealRequestServe (rg : Nat) (s : State) : KeepsMem s (execStealRequestServe rg s) := by
  unfold execStealRequestServe
  dsimp only
  repeat' split
  any_goals simp
  all_goals exact (splitTo_mem ‹_›).trans (unrange_mem ..)

end Sys2Proof.Machine
end

section
/-!
SUPPORT. What leaves memory as it is: engines up to their writes, links, statistics, and the region and system words.
-/

namespace Sys2Proof.Machine

/-! ## Engines -/

@[simp] theorem setEng_mem (s : State) (die q ptn : Nat) (e : Eng) : (s.setEng die q ptn e).mem = s.mem := rfl

@[simp] theorem issueStep_mem (s : State) (f : Flight) : (s.issueStep f).mem = s.mem := by
  unfold State.issueStep
  dsimp only
  split
  · rfl
  · exact withRec_mem (fun _ _ => by simp) s f

@[simp] theorem engStep_mem (s : State) (f : Flight) : (s.engStep f).mem = s.mem := by
  unfold State.engStep
  repeat' split
  all_goals simp

@[simp] theorem postHeld_mem (s : State) (die q ptn : Nat) : (s.postHeld die q ptn).mem = s.mem := by
  unfold State.postHeld
  dsimp only
  repeat' split
  all_goals simp

theorem keepsMem_execEngineCompletionPost (die q : Nat) (s : State) : KeepsMem s (execEngineCompletionPost die q s) := by
  simp [execEngineCompletionPost]

@[simp] theorem endCmd_mem (s : State) (die q : Nat) (c : Cmd) (status nfail first : Nat) :
    (s.endCmd die q c status nfail first).mem = s.mem := by simp [State.endCmd]

@[simp] theorem cmdFault_mem (s : State) (die q : Nat) (c : Cmd) (f : FaultInfo) : (s.cmdFault die q c f).mem = s.mem := rfl

@[simp] theorem cmdByte_mem (s : State) (die : Nat) (c : Cmd) (va : Nat) (done : List (Nat × Byte)) :
    (s.cmdByte die c va done).2.mem = s.mem := by
  unfold State.cmdByte
  repeat' split
  any_goals rfl
  exact load_mem ‹_›

@[simp] theorem cmdBytes_mem (s : State) (die : Nat) (c : Cmd) (va n : Nat) (done : List (Nat × Byte)) :
    (s.cmdBytes die c va n done).2.2.2.mem = s.mem := by
  unfold State.cmdBytes
  refine List.foldlRecOn
    (motive := fun acc : List Byte × Option Nat × Option FaultInfo × State => acc.2.2.2.mem = s.mem) _ _ rfl ?_
  rintro ⟨bs, p, _ | f, t⟩ ht i -
  · have hb := cmdByte_mem t die c (va + i) done
    dsimp only
    split <;> next h => rw [h] at hb; exact hb.trans ht
  · exact ht

@[simp] theorem madeByte_mem (s : State) (die : Nat) (c : Cmd) (r : CopyRec) (x : Option Xf) (row j : Nat)
    (done : List (Nat × Byte)) :
    (s.madeByte die c r x row j done).2.2.2.mem = s.mem := by
  unfold State.madeByte
  dsimp only
  split
  · rfl
  · next y _ =>
    have hb := cmdBytes_mem s die c (r.src + row * r.spitch + (y.feeds j).1) (min (y.feeds j).2 (r.len - (y.feeds j).1)) done
    split <;> next h => rw [h] at hb; exact hb
  · exact cmdBytes_mem ..

@[simp] theorem madeBytes_mem (s : State) (die : Nat) (c : Cmd) (r : CopyRec) (x : Option Xf) (row j0 n : Nat)
    (key : Option Nat) :
    (s.madeBytes die c r x row j0 n key).2.2.2.mem = s.mem := by
  unfold State.madeBytes
  refine List.foldlRecOn
    (motive := fun acc : List (Byte × Bool) × Option Nat × Option FaultInfo × State => acc.2.2.2.mem = s.mem) _ _ rfl ?_
  rintro ⟨bs, p, _ | f, t⟩ ht i -
  · dsimp only
    split <;> next h => exact (congrArg (·.2.2.2.mem) h).symm.trans ((madeByte_mem ..).trans ht)
  · exact ht

@[simp] theorem poisonBlock_mem (s : State) (k : Nat) : (s.poisonBlock k).mem = s.mem := rfl

@[simp] theorem stopCmd_mem (s : State) (die q : Nat) (c : Cmd) (f : FaultInfo) (left : Nat) :
    (s.stopCmd die q c f left).mem = s.mem := by simp [State.stopCmd]

@[simp] theorem engNext_mem (s : State) (die q : Nat) (c : Cmd) (pos bytes : Nat) (fail : Option Nat) :
    (s.engNext die q c pos bytes fail).mem = s.mem := rfl

@[simp] theorem engCross_mem (s : State) (die q ptn : Nat) (keys : List Nat) : (s.engCross die q ptn keys).mem = s.mem := by
  simp [State.engCross]

@[simp] theorem copyMessage_mem (s : State) (die q : Nat) (c : Cmd) (r : CopyRec) (x : Option Xf) (row : Nat) :
    (s.copyMessage die q c r x row).mem = s.mem := by
  unfold State.copyMessage
  dsimp only
  repeat' split
  all_goals simp

/-! ## Links -/

@[simp] theorem linkStatus_mem (s : State) (f : Flight) (st : Nat) : (s.linkStatus f st).mem = s.mem := by
  simp [State.linkStatus]

@[simp] theorem refuseTurn_mem (s : State) (f : Flight) (l st : Nat) : (s.refuseTurn f l st).mem = s.mem := by
  simp [State.refuseTurn]

@[simp] theorem turnStep_mem (s : State) (f : Flight) : (s.turnStep f).mem = s.mem := by
  unfold State.turnStep
  dsimp only
  repeat' split
  all_goals simp

@[simp] theorem holdStep_mem (s : State) (f : Flight) : (s.holdStep f).mem = s.mem := by simp [State.holdStep]

@[simp] theorem linkStep_mem (s : State) (f : Flight) : (s.linkStep f).mem = s.mem := by
  unfold State.linkStep
  split <;> simp

@[simp] theorem turnGroup_mem (s : State) (l g : Nat) : (s.turnGroup l g).mem = s.mem := rfl

theorem keepsMem_execLinkFifoApply (l : Nat) (s : State) : KeepsMem s (execLinkFifoApply l s) := by
  unfold execLinkFifoApply
  dsimp only
  repeat' split
  all_goals simp

theorem keepsMem_execGroupEligible (l g : Nat) (s : State) : KeepsMem s (execGroupEligible l g s) := by
  unfold execGroupEligible
  dsimp only
  repeat' split
  all_goals simp

theorem keepsMem_execGroupTurnComplete (l g : Nat) (s : State) : KeepsMem s (execGroupTurnComplete l g s) := by
  unfold execGroupTurnComplete
  dsimp only
  repeat' split
  all_goals simp

theorem keepsMem_execLinkHoldExpire (l : Nat) (s : State) : KeepsMem s (execLinkHoldExpire l s) := by
  unfold execLinkHoldExpire
  split <;> simp

/-! ## Statistics -/

@[simp] theorem cfgStep_mem (s : State) (f : Flight) : (s.cfgStep f).mem = s.mem := by
  unfold State.cfgStep
  dsimp only
  repeat' split
  any_goals simp
  refine withRec_mem (fun bs s => ?_) s f
  split <;> simp

theorem keepsMem_execStatCountEmit (pg unit : Nat) (s : State) : KeepsMem s (execStatCountEmit pg unit s) := by
  unfold execStatCountEmit
  split <;> simp

theorem keepsMem_execCorrectedError (die cls : Nat) (s : State) : KeepsMem s (execCorrectedError die cls s) := rfl

theorem keepsMem_execLatchParityError (pg rt pos : Nat) (s : State) : KeepsMem s (execLatchParityError pg rt pos s) := rfl

/-! ## Region words -/

@[simp] theorem rgnCut_mem (s : State) (f : Flight) : (s.rgnCut f).mem = s.mem := by simp [State.rgnCut]

@[simp] theorem rgnVal_mem (s : State) (f : Flight) (v : Nat) : (s.rgnVal f v).mem = s.mem := by simp [State.rgnVal]

@[simp] theorem preemptStep_mem (s : State) (f : Flight) (k : Task) : (s.preemptStep f k).mem = s.mem := by
  unfold State.preemptStep
  split
  · split
    · simp
    · exact foldl_mem (fun _ _ => by rfl) ..
  · split
    · simp
    · exact foldl_mem (fun _ _ => by rfl) ..

@[simp] theorem resumeStep_mem (s : State) (f : Flight) (k : Task) : (s.resumeStep f k).mem = s.mem := by
  unfold State.resumeStep
  split
  · simp
  · split
    · simp
    · exact (rgnVal_mem ..).trans (foldl_mem (fun _ _ => by rfl) ..)

@[simp] theorem quiesceStep_mem (s : State) (f : Flight) (k : Task) : (s.quiesceStep f k).mem = s.mem := by
  simp [State.quiesceStep]

@[simp] theorem asidStep_mem (s : State) (f : Flight) (k : Task) : (s.asidStep f k).mem = s.mem := by
  unfold State.asidStep
  dsimp only
  split
  · simp
  · exact (rgnVal_mem ..).trans (foldl_mem (fun _ _ => by rfl) ..)

/-! ## System words -/

theorem keepsMem_fireSys (g : Guard) {k : Who → Word → State → Except FaultInfo (Done × (State → State))} (s : State)
    (hpost : ∀ w x s d post, k w x s = .ok (d, post) → ∀ t, (post t).mem = t.mem) : KeepsMem s (fireSys g k s) := by
  unfold fireSys
  dsimp only
  repeat' split
  any_goals simp
  next h => exact (hpost _ _ _ _ _ h _).trans (by simp)

@[simp] theorem csrWrite_mem (s : State) (t cx n : Nat) (v : Word) : (s.csrWrite t cx n v).mem = s.mem := by
  unfold State.csrWrite
  repeat' split
  all_goals rfl

@[simp] theorem csrEvent_mem (s : State) (t cx n : Nat) (v : Word) : (s.csrEvent t cx n v).mem = s.mem := by
  unfold State.csrEvent
  repeat' split
  all_goals simp

theorem keepsMem_execCsrCtlWrite (t cx n : Nat) (v : Word) (s : State) : KeepsMem s (execCsrCtlWrite t cx n v s) := by
  simp [execCsrCtlWrite]

theorem keepsMem_execCsrAsidhiWrite (t cx : Nat) (v : Word) (s : State) : KeepsMem s (execCsrAsidhiWrite t cx v s) := by
  simp [execCsrAsidhiWrite]

theorem keepsMem_execCsrAsidselWrite (t cx : Nat) (v : Word) (s : State) : KeepsMem s (execCsrAsidselWrite t cx v s) := by
  simp [execCsrAsidselWrite]

theorem keepsMem_execCsrPtillWrite (t cx : Nat) (v : Word) (s : State) : KeepsMem s (execCsrPtillWrite t cx v s) := by
  simp [execCsrPtillWrite]

@[simp] theorem dropTlbs_mem (s : State) (a : Nat) (b : Word) : (s.dropTlbs a b).mem = s.mem := rfl

@[simp] theorem tlbiStep_mem (s : State) (f : Flight) : (s.tlbiStep f).mem = s.mem := by simp [State.tlbiStep]

/-! ## Saved pages -/

@[simp] theorem landPackets_mem (s : State) (pg : Nat) : (s.landPackets pg).mem = s.mem := by
  unfold State.landPackets
  exact foldl_mem (fun _ _ => by rfl) ..

@[simp] theorem takePage_mem (s : State) (pg : Nat) (bytes : List Byte) : (s.takePage pg bytes).mem = s.mem := by
  unfold State.takePage
  dsimp only
  repeat' split
  all_goals simp

@[simp] theorem putPage_mem (s : State) (pg : Nat) (p : Page) (fs : List Flight) (qs : List Req) (key : Nat) :
    (s.putPage pg p fs qs key).mem = s.mem := by simp [State.putPage]

@[simp] theorem pgrsStep_mem (s : State) (f : Flight) : (s.pgrsStep f).mem = s.mem := by
  refine mem_of_forall fun P hP => ?_
  generalize hg : State.pgrsStep = g
  delta State.pgrsStep at hg
  subst hg
  beta_reduce
  split
  · exact hP _ (flightFault_mem ..)
  · extract_lets die
    split
    · exact hP _ (flightFault_mem ..)
    · split
      · exact hP _ (flightFault_mem ..)
      · exact hP _ ((performVal_mem ..).trans (putPage_mem ..))

end Sys2Proof.Machine
end

section
/-!
SUPPORT. What leaves memory as it is: arbiters, routers, tellers, the host's requests, and the passing of an fc.
-/

namespace Sys2Proof.Machine

/-! ## Arbiters, routers and tokens -/

@[simp] theorem stallRefills_mem (s : State) (pg pe : Nat) : (s.stallRefills pg pe).mem = s.mem := by
  unfold State.stallRefills
  refine foldl_mem (fun s n => ?_) _ _
  dsimp only
  split
  · split <;> simp
  · rfl

theorem keepsMem_execPeArbiterFire (pg pe : Nat) (s : State) : KeepsMem s (execPeArbiterFire pg pe s) := by
  unfold execPeArbiterFire
  dsimp only
  split <;> simp

theorem keepsMem_execWriteBack (fid : Nat) (s : State) : KeepsMem s (execWriteBack fid s) := by
  unfold execWriteBack
  repeat' split
  all_goals simp

theorem keepsMem_execTokenAdvance (pg rt : Nat) (s : State) : KeepsMem s (execTokenAdvance pg rt s) := by
  unfold execTokenAdvance
  dsimp only
  repeat' split
  all_goals simp

theorem keepsMem_execRouterPacketEgress (pg rt : Nat) (s : State) : KeepsMem s (execRouterPacketEgress pg rt s) := by
  unfold execRouterPacketEgress
  dsimp only
  repeat' split
  all_goals simp

theorem keepsMem_execRouterPacketIngress (pk : Nat) (s : State) : KeepsMem s (execRouterPacketIngress pk s) := by
  unfold execRouterPacketIngress
  repeat' split
  all_goals simp

@[simp] theorem elemFault_mem (s : State) (pg pe : Nat) (f : FaultInfo) : (s.elemFault pg pe f).mem = s.mem := rfl

theorem keepsMem_execIsectPresent (pg pe : Nat) (s : State) : KeepsMem s (execIsectPresent pg pe s) := by
  unfold execIsectPresent
  dsimp only
  repeat' split
  all_goals simp

@[simp] theorem pay_mem (s : State) (pg pe : Nat) : (s.pay pg pe).mem = s.mem := by
  unfold State.pay
  split <;> simp

@[simp] theorem takePorts_mem (s : State) (pg pe : Nat) (l : List Nat) : (s.takePorts pg pe l).mem = s.mem := by
  simp [State.takePorts]

@[simp] theorem snapElem_mem (s : State) (pg pe : Nat) : (s.snapElem pg pe).mem = s.mem := by
  unfold State.snapElem
  split <;> simp

@[simp] theorem snapTen_mem (s : State) (pg ten : Nat) : (s.snapTen pg ten).mem = s.mem := by
  unfold State.snapTen
  split <;> simp

@[simp] theorem graphPass_mem (s : State) (pg h tag : Nat) (f : Graph → Graph) : (s.graphPass pg h tag f).mem = s.mem := by
  unfold State.graphPass
  split <;> simp

theorem keepsMem_execSnapPass (pg unit : Nat) (s : State) : KeepsMem s (execSnapPass pg unit s) := by
  simp [execSnapPass]

@[simp] theorem drainElem_mem (s : State) (pg pe : Nat) : (s.drainElem pg pe).mem = s.mem := by
  unfold State.drainElem
  split <;> simp

theorem keepsMem_execDrainForward (pg unit : Nat) (s : State) : KeepsMem s (execDrainForward pg unit s) := by
  unfold execDrainForward
  repeat' split
  all_goals simp

theorem keepsMem_execDrainAbsorb (pg pe port : Nat) (s : State) : KeepsMem s (execDrainAbsorb pg pe port s) := by
  unfold execDrainAbsorb
  split <;> simp

theorem keepsMem_execPulseApply (pg pe port : Nat) (s : State) : KeepsMem s (execPulseApply pg pe port s) := by
  unfold execPulseApply
  repeat' split
  all_goals simp

theorem keepsMem_execLengthMarkerAtHead (pg pe port : Nat) (s : State) :
    KeepsMem s (execLengthMarkerAtHead pg pe port s) := by
  unfold execLengthMarkerAtHead
  split <;> rfl

theorem keepsMem_execPoisonMarkerAtHead (pg pe port : Nat) (s : State) :
    KeepsMem s (execPoisonMarkerAtHead pg pe port s) := by
  unfold execPoisonMarkerAtHead
  split <;> rfl

/-! ## Tellers -/

@[simp] theorem askLine_mem (s : State) (t cx line : Nat) : (s.askLine t cx line).mem = s.mem := by
  unfold State.askLine
  dsimp only
  repeat' split
  any_goals simp
  all_goals exact (ask_mem ‹_›).trans (by simp)

@[simp] theorem wantLines_mem (s : State) (t cx : Nat) : (s.wantLines t cx).mem = s.mem := by
  unfold State.wantLines
  split <;> simp

theorem keepsMem_execTellerFetchLine (t cx line : Nat) (s : State) : KeepsMem s (execTellerFetchLine t cx line s) := by
  unfold execTellerFetchLine
  repeat' split
  all_goals rfl

@[simp] theorem issuedFrom_mem (s : State) (t cx : Nat) : (s.issuedFrom t cx).mem = s.mem := by
  simp [State.issuedFrom]

theorem keepsMem_execTellerIssue (t : Nat) (s : State) : KeepsMem s (execTellerIssue t s) := by
  unfold execTellerIssue
  repeat' split
  all_goals simp

theorem keepsMem_execLateTrap (fid : Nat) (s : State) : KeepsMem s (execLateTrap fid s) := by
  unfold execLateTrap
  repeat' split
  all_goals simp

/-! ## The host -/

@[simp] theorem tellHost_mem (s : State) (kind ptn : Nat) (bs : List Byte) (poison : Bool) :
    (s.tellHost kind ptn bs poison).mem = s.mem := by simp [State.tellHost]

theorem keepsMem_execHostMbxWrite (ptn : Nat) (v : Word) (s : State) : KeepsMem s (execHostMbxWrite ptn v s) := rfl

@[simp] theorem notifyAll_mem (s : State) (ptn : Nat) : (s.notifyAll ptn).mem = s.mem := by simp [State.notifyAll]

theorem keepsMem_execHostNotifyRead (ptn : Nat) (s : State) : KeepsMem s (execHostNotifyRead ptn s) := by
  unfold execHostNotifyRead
  split <;> simp

theorem keepsMem_execMbxerrClear (ptn : Nat) (s : State) : KeepsMem s (execMbxerrClear ptn s) := rfl

theorem keepsMem_execHostRegisterWrite (ptn off : Nat) (v : Word) (s : State) :
    KeepsMem s (execHostRegisterWrite ptn off v s) := by simp [execHostRegisterWrite]

theorem keepsMem_execPfcmdRequest (req : List Word) (s : State) : KeepsMem s (execPfcmdRequest req s) := rfl

@[simp] theorem hostMiss_mem (s : State) (kind ptn len : Nat) (w : Option (List Byte)) :
    (s.hostMiss kind ptn len w).mem = s.mem := by simp [State.hostMiss]

@[simp] theorem bindRes_mem (s : State) (owner : Option Nat) (r : PtnRes) : (s.bindRes owner r).mem = s.mem := by
  unfold State.bindRes
  exact foldl_mem (fun _ _ => by rfl) ..

@[simp] theorem resetVf_mem (s : State) (ptn : Nat) : (s.resetVf ptn).mem = s.mem := by simp [State.resetVf]

theorem keepsMem_execVfReset (ptn : Nat) (s : State) : KeepsMem s (execVfReset ptn s) := by simp [execVfReset]

@[simp] theorem stopAll_mem (s : State) (ptn : Nat) : (s.stopAll ptn).mem = s.mem := rfl

@[simp] theorem takeAllPages_mem (s : State) (ptn : Nat) : (s.takeAllPages ptn).1.mem = s.mem := by
  unfold State.takeAllPages
  refine List.foldlRecOn (motive := fun acc : State × List Nat => acc.1.mem = s.mem) _ _ rfl ?_
  intro acc hacc pg _
  dsimp only
  split
  · simpa using hacc
  · exact hacc

theorem keepsMem_execHypervisorVfPreempt (ptn : Nat) (s : State) : KeepsMem s (execHypervisorVfPreempt ptn s) := by
  unfold execHypervisorVfPreempt
  dsimp only
  split
  · simp
  · split
    · simp
    · split
      · simp
      · exact (foldl_mem (fun _ _ => by rfl) ..).trans ((takeAllPages_mem ..).trans (by simp))

theorem putPages_mem {s t : State} {ptn : Nat} {l : List Nat} (h : s.putPages ptn l = some t) : t.mem = s.mem := by
  induction l generalizing s with
  | nil => cases h; rfl
  | cons i l ih =>
    unfold State.putPages at h
    repeat' split at h
    · exact ih h
    · exact ih h
    · cases h
    · exact (ih h).trans (putPage_mem ..)

theorem keepsMem_execVfRestore (ptn : Nat) (s : State) : KeepsMem s (execVfRestore ptn s) := by
  unfold execVfRestore
  dsimp only
  split
  · simp
  · split
    · simp
    · split
      · simp
      · exact (foldl_mem (fun _ _ => by rfl) ..).trans (putPages_mem ‹_›)

theorem keepsMem_execSpdmRequest (nonce : List Byte) (s : State) : KeepsMem s (execSpdmRequest nonce s) := by
  simp [execSpdmRequest]

theorem keepsMem_execTdiStateChange (ptn : Nat) (st : Tdi) (s : State) : KeepsMem s (execTdiStateChange ptn st s) := by
  unfold execTdiStateChange
  split <;> simp

theorem keepsMem_execDebugPolicySupply (ptn sets : Nat) (signed : Bool) (s : State) :
    KeepsMem s (execDebugPolicySupply ptn sets signed s) := by
  unfold execDebugPolicySupply
  split <;> simp

theorem keepsMem_execManifestSign (ptn : Nat) (man : List Byte) (s : State) : KeepsMem s (execManifestSign ptn man s) := by
  simp [execManifestSign]

theorem keepsMem_execPowerUp (s : State) : KeepsMem s (execPowerUp s) := rfl

theorem keepsMem_execEarlyServiceStart (s : State) : KeepsMem s (execEarlyServiceStart s) := by
  unfold execEarlyServiceStart
  split <;> simp

theorem keepsMem_execPackageReady (s : State) : KeepsMem s (execPackageReady s) := by simp [execPackageReady]

theorem keepsMem_execPowerCap (die mhz : Nat) (s : State) : KeepsMem s (execPowerCap die mhz s) := rfl

theorem keepsMem_execWatchdogSet (die n : Nat) (s : State) : KeepsMem s (execWatchdogSet die n s) := rfl

/-! ## From one fc to the next -/

@[simp] theorem tick_mem (s : State) : (s.tick).mem = s.mem := by simp [State.tick]

@[simp] theorem begin_mem (s : State) : (s.begin_).mem = s.mem := by simp [State.begin_]

end Sys2Proof.Machine
end

section
/-!
SUPPORT. What writes memory, which keeps its canonical form: keys rise, and no listed byte is zero (log 5).
Every write goes through `memWrite`.
-/

namespace Sys2Proof.Machine

theorem foldl_wf {α : Type} {f : State → α → State} (h : ∀ s a, Memory.wf s.mem = true → Memory.wf (f s a).mem = true)
    (l : List α) {s : State} (hs : Memory.wf s.mem = true) : Memory.wf (l.foldl f s).mem = true :=
  List.foldlRecOn l f hs fun s hs a _ => h s a hs

theorem ite_wf {c : Prop} [Decidable c] {s t : State} (hs : Memory.wf s.mem = true) (ht : Memory.wf t.mem = true) :
    Memory.wf (if c then s else t).mem = true := by
  split <;> assumption

/-- The state that an answer to a store carries keeps memory in canonical form. -/
def Stored.Wf : Stored → Prop
  | .ok s | .wait s => Memory.wf s.mem = true
  | .poison _ => True

/-- An answer that, where it is a state, has memory in canonical form. -/
def WfOut : Out → Prop
  | .next t => Memory.wf t.mem = true
  | _ => True

@[simp] theorem wfOut_next (t : State) : WfOut (.next t) ↔ Memory.wf t.mem = true := .rfl

theorem wfOut_of_keepsMem {s : State} (hs : Memory.wf s.mem = true) {o : Out} (h : KeepsMem s o) : WfOut o := by
  cases o with
  | next t => exact (congrArg Memory.wf h).trans hs
  | fault => trivial
  | refused => trivial

section
variable {s : State} (hs : Memory.wf s.mem = true)
include hs

theorem wf_of_mem {t : State} (h : t.mem = s.mem) : Memory.wf t.mem = true := h ▸ hs

/-! ### Loads, stores and the requests they serve -/

theorem wf_writeDirect (port : Port) (ival k : Nat) (bs mask : List Byte) : (s.writeDirect port ival k bs mask).Wf := by
  unfold State.writeDirect
  dsimp only
  repeat' split
  · trivial
  · exact hs
  · exact wf_store _ _ _ (wf_of_mem hs (logUndo_mem ‹_›))

theorem wf_write (port : Port) (tt : Option (Nat × Nat)) (ival leaf k : Nat) (bs mask : List Byte) :
    (s.write port tt ival leaf k bs mask).Wf := by
  have hd := wf_writeDirect hs port ival k bs mask
  unfold State.write
  dsimp only
  repeat' split
  any_goals exact hd
  any_goals exact hs
  any_goals trivial
  next h =>
    rw [h] at hd
    simpa [Stored.Wf] using hd

theorem wf_of_write_ok {t : State} {port : Port} {tt : Option (Nat × Nat)} {ival leaf k : Nat} {bs mask : List Byte}
    (h : s.write port tt ival leaf k bs mask = .ok t) : Memory.wf t.mem = true := by
  have := wf_write hs port tt ival leaf k bs mask
  rwa [h] at this

theorem wf_of_write_wait {t : State} {port : Port} {tt : Option (Nat × Nat)} {ival leaf k : Nat} {bs mask : List Byte}
    (h : s.write port tt ival leaf k bs mask = .wait t) : Memory.wf t.mem = true := by
  have := wf_write hs port tt ival leaf k bs mask
  rwa [h] at this

theorem wf_serve (r : Req) : Memory.wf (s.serve r).mem = true := by
  unfold State.serve
  dsimp only
  repeat' split
  · exact hs
  · simpa using hs
  · simpa using hs
  · simpa [load_mem ‹_›] using hs
  · simpa using wf_of_write_ok hs ‹_›
  · simpa using hs
  · exact wf_of_write_wait hs ‹_›

theorem wfOut_execBankAccess (die bank : Nat) : WfOut (execBankAccess die bank s) := by
  unfold execBankAccess
  dsimp only
  split
  · exact hs
  · exact wf_serve (wf_of_mem hs (modDie_mem ..)) _

theorem wfOut_execHbmAccessComplete (rid : Nat) : WfOut (execHbmAccessComplete rid s) := by
  unfold execHbmAccessComplete
  repeat' split
  any_goals exact hs
  exact wf_serve (wf_of_mem hs (useBlock_mem ..)) _

/-! ### Atomics and tills -/

theorem wf_logged {t : State} {port : Port} {ival k : Nat} {bs : List Byte} (h : s.logged port ival k bs = some t) :
    Memory.wf t.mem = true := by
  obtain ⟨u, hu, rfl⟩ := Option.map_eq_some_iff.mp h
  exact wf_store _ _ _ (wf_of_mem hs (logUndo_mem hu))

theorem wf_tillAppend (pg me : Nat) (u : Upd) (f : Flight) : Memory.wf (s.tillAppend pg me u f).mem = true := by
  unfold State.tillAppend
  dsimp only
  repeat' split
  any_goals simpa using hs
  next h =>
    obtain ⟨v, hv, ht⟩ := Option.bind_eq_some_iff.mp h
    simpa using wf_logged (wf_logged hs hv) ht

theorem wf_applyUpd (pg me : Nat) (u : Upd) : Memory.wf (s.applyUpd pg me u).mem = true := by
  unfold State.applyUpd
  dsimp only
  repeat' split
  any_goals simpa using hs
  · exact wf_serve (wf_of_mem hs (modMe_mem ..)) _
  · exact wf_tillAppend (wf_of_mem hs (modMe_mem ..)) ..
  · next h => simpa using wf_logged (wf_of_mem hs (modMe_mem ..)) h

theorem wfOut_execOwnerUpdateApply (pg me : Nat) : WfOut (execOwnerUpdateApply pg me s) := by
  unfold execOwnerUpdateApply
  repeat' split
  any_goals simpa using hs
  exact wf_applyUpd hs ..

theorem wf_setTill (k off v : Nat) : Memory.wf (s.setTill k off v).mem = true := wf_store _ _ _ hs

theorem wf_grant {t : State} {k r old : Nat} (h : s.grant k r = some (old, t)) : Memory.wf t.mem = true := by
  unfold State.grant at h
  dsimp only at h
  split at h
  · obtain ⟨-, rfl⟩ := Prod.mk.inj (Option.some.inj h)
    exact wf_of_mem (wf_setTill hs k 0x20 _) rfl
  · cases h

theorem wf_peerGrant {t : State} {id port ptn till r : Nat} (h : s.peerGrant id port ptn till r = some t) :
    Memory.wf t.mem = true := by
  unfold State.peerGrant at h
  dsimp only at h
  split at h
  · cases h
  split at h
  · cases h
  split at h
  · obtain ⟨⟨old, u⟩, hu, rfl⟩ := Option.map_eq_some_iff.mp h
    simpa using wf_grant hs hu
  · cases h

theorem wf_servePeers : Memory.wf s.servePeers.mem = true := by
  refine foldl_wf (fun s q hs => ?_) _ hs
  split
  · next h => exact wf_of_mem (wf_peerGrant hs h) rfl
  · exact hs

theorem wf_withRec {k : List Byte → State → State} (hk : ∀ bs s, Memory.wf s.mem = true → Memory.wf (k bs s).mem = true)
    (f : Flight) : Memory.wf (s.withRec f k).mem = true := by
  unfold State.withRec
  repeat' split
  · simpa using hs
  · exact hk _ _ hs
  · exact hs

theorem wf_withLog {k : State → State} (hk : ∀ s, Memory.wf s.mem = true → Memory.wf (k s).mem = true)
    (f : Flight) (key : Nat) : Memory.wf (s.withLog f key k).mem = true := by
  unfold State.withLog
  split
  · exact hk _ (wf_of_mem hs (logUndo_mem ‹_›))
  · exact hs

theorem wf_tillStep (f : Flight) : Memory.wf (s.tillStep f).mem = true := by
  refine wf_withRec hs (fun _ s hs => ?_) f
  dsimp only
  repeat' split
  any_goals simpa using hs
  refine wf_withLog hs (fun s hs => wf_servePeers ?_) f _
  simpa using wf_setTill hs ..

theorem wf_prmtStep (f : Flight) : Memory.wf (s.prmtStep f).mem = true := by
  refine wf_withRec hs (fun _ s hs => ?_) f
  dsimp only
  repeat' split
  any_goals simpa using hs
  case h_1.isFalse | h_2.isFalse =>
    refine wf_withLog (by simpa using hs) (fun s hs => ?_) f _
    split
    · next h => simpa using wf_grant hs h
    · exact hs
  refine wf_withLog hs (fun s hs => wf_servePeers ?_) f _
  simpa using wf_setTill hs ..

theorem wf_putSlots (m : Msg) (t : Till) (first : Nat) (bs : List Byte) : Memory.wf (s.putSlots m t first bs).mem = true := by
  unfold State.putSlots
  dsimp only
  refine foldl_wf (fun s i hs => ?_) _ hs
  split
  · simpa using hs
  · refine foldl_wf (fun s j hs => ?_) _ hs
    split
    · simpa using hs
    · exact wf_store _ _ _ hs

theorem wf_append (m : Msg) (key : Nat) : Memory.wf (s.append m key).mem = true := by
  unfold State.append
  dsimp only
  rw [ite_mem, tillFault_mem, ite_self]
  refine wf_setTill (ite_wf (wf_setTill ?_ _ _ _) ?_) _ _ _
  all_goals
    refine wf_putSlots ?_ _ _ _ _
    exact hs

theorem wfOut_execTillAppend (mid : Nat) : WfOut (execTillAppend mid s) := by
  unfold execTillAppend
  dsimp only
  repeat' split
  any_goals simpa using hs
  refine wf_append ?_ _ _
  exact hs

theorem wfOut_execPeerPermitRequest (port ptn till r : Nat) (get : Bool) :
    WfOut (execPeerPermitRequest port ptn till r get s) := by
  unfold execPeerPermitRequest
  dsimp only
  repeat' split
  any_goals simpa using hs
  · exact wf_servePeers hs
  · refine wf_servePeers ?_
    simpa using wf_setTill hs ..

/-! ### Tile-tasks, tasks and regions -/

theorem wf_commitLine (l : EscLine) : Memory.wf (s.commitLine l).mem = true := by
  unfold State.commitLine
  split
  · exact wf_store _ _ _ hs
  · dsimp only
    exact wf_store _ _ _ hs

theorem wf_commitLines (r : Region) (t : TileTask) : Memory.wf (s.commitLines r t).mem = true := by
  refine foldl_wf (fun s l hs => ?_) _ hs
  simpa using wf_commitLine hs l

theorem wfOut_execWriteThroughStart (rg ix : Nat) : WfOut (execWriteThroughStart rg ix s) := by
  unfold execWriteThroughStart
  repeat' split
  any_goals simpa using hs
  simpa using wf_commitLines hs ..

theorem wfOut_execCommitTileTask (rg ix : Nat) : WfOut (execCommitTileTask rg ix s) := by
  unfold execCommitTileTask
  repeat' split
  any_goals simpa using hs
  simpa using wf_commitLines hs ..

theorem wf_storeDone (k : Task) (v : Nat) : Memory.wf (s.storeDone k v).mem = true := by
  unfold State.storeDone
  dsimp only
  repeat' split
  any_goals simpa using hs
  exact wf_store _ _ _ hs

theorem wfOut_execRegionComplete (rg : Nat) : WfOut (execRegionComplete rg s) := by
  unfold execRegionComplete
  dsimp only
  repeat' split
  any_goals simpa using hs
  simpa using wf_storeDone hs ..

theorem wf_rollback (rg : Nat) : Memory.wf (s.rollback rg).mem = true := by
  unfold State.rollback
  dsimp only
  split
  · exact hs
  · rw [modRegion_mem]
    refine foldl_wf (fun s u hs => wf_store _ _ _ hs) _ (wf_of_mem hs ?_)
    rw [foldl_mem fun s f => by split <;> simp, foldl_mem fun s k => by split <;> rfl]

theorem wfOut_execPreemptWatchdogExpire (rg : Nat) : WfOut (execPreemptWatchdogExpire rg s) := by
  unfold execPreemptWatchdogExpire
  dsimp only
  repeat' split
  any_goals simpa using hs
  simpa using wf_rollback (wf_of_mem hs (mail_mem ..)) rg

theorem wf_launchTask (f : Flight) (b : List Byte) (l : Launch) (q : Nat) : Memory.wf (s.launchTask f b l q).mem = true := by
  unfold State.launchTask
  dsimp only
  rw [status_mem, lqPush_mem]
  exact wf_storeDone (by simpa using hs) ..

theorem wf_lnchStep (f : Flight) : Memory.wf (s.lnchStep f).mem = true := by
  refine wf_withRec hs (fun b s hs => ?_) f
  repeat' split
  any_goals simpa using hs
  exact wf_launchTask hs ..

theorem wf_taskStep (f : Flight) : Memory.wf (s.taskStep f).mem = true := by
  unfold State.taskStep
  dsimp only
  repeat' split
  any_goals simpa using hs
  exact wf_lnchStep (by simpa using hs) _

theorem wf_rollbackStep (f : Flight) (k : Task) : Memory.wf (s.rollbackStep f k).mem = true := by
  unfold State.rollbackStep
  dsimp only
  repeat' split
  any_goals simpa using hs
  simpa using foldl_wf (fun s rg hs => wf_rollback hs rg) k.rgs hs

theorem wf_rgnStep (f : Flight) : Memory.wf (s.rgnStep f).mem = true := by
  unfold State.rgnStep
  repeat' split
  any_goals simpa using hs
  exact wf_rollbackStep hs ..

/-! ### Engines -/

theorem wf_copyBlock (die q : Nat) (c : Cmd) (r : CopyRec) (x : Option Xf) (row blk : Nat) :
    Memory.wf (s.copyBlock die q c r x row blk).mem = true := by
  unfold State.copyBlock
  dsimp only
  split
  · simpa using hs
  split
  · simpa using hs
  split
  · simpa using hs
  split
  · exact hs
  split
  · simpa using hs
  split
  · next h => exact wf_of_write_wait (by simpa using hs) h
  · simpa using hs
  · next h =>
    have ht := wf_of_write_ok (by simpa using hs) h
    repeat' split
    all_goals simpa using ht

theorem wfOut_execCopyCommandExecute (die q : Nat) : WfOut (execCopyCommandExecute die q s) := by
  unfold execCopyCommandExecute
  dsimp only
  split
  · exact hs
  · repeat' split
    any_goals simpa using hs
    exact wf_copyBlock hs ..

theorem wf_nmBlock (die : Nat) (c : Cmd) (r : NmRec) (maps : List (Nat × Nat)) (i : Nat) :
    Memory.wf (s.nmBlock die c r maps i).mem = true := by
  unfold State.nmBlock
  dsimp only
  have hused (l : List Nat) : Memory.wf (l.foldl State.useBlock s).mem = true := wf_of_mem hs (foldl_mem useBlock_mem ..)
  refine ite_wf hs (ite_wf ?_ ?_)
  · rw [engNext_mem]
    exact hused _
  · rw [engNext_mem]
    exact wf_store _ _ _ (hused _)

theorem wfOut_execNmcCommandExecute (die ptn : Nat) : WfOut (execNmcCommandExecute die ptn s) := by
  unfold execNmcCommandExecute
  dsimp only
  repeat' split
  any_goals simpa using hs
  exact wf_nmBlock hs ..

/-! ### Records, saved pages and the host -/

theorem wfOut_execStatRecordWrite (pg : Nat) : WfOut (execStatRecordWrite pg s) := by
  unfold execStatRecordWrite
  dsimp only
  repeat' split
  any_goals simpa using hs
  · simpa using wf_of_write_ok hs ‹_›
  · exact wf_of_write_wait hs ‹_›

theorem wf_storeVa {t : State} {die asid va : Nat} {bs : List Byte} (h : s.storeVa die asid va bs = .ok t) :
    Memory.wf t.mem = true := by
  unfold State.storeVa at h
  dsimp only at h
  split at h <;> cases h
  refine foldl_wf (fun s i hs => ?_) _ hs
  split
  · exact wf_store _ _ _ hs
  · exact hs

theorem wf_pgsvStep (f : Flight) : Memory.wf (s.pgsvStep f).mem = true := by
  unfold State.pgsvStep
  dsimp only
  repeat' split
  any_goals simpa using hs
  next h => simpa using wf_storeVa (by simpa using hs) h

theorem wf_sysStep (f : Flight) : Memory.wf (s.sysStep f).mem = true := by
  unfold State.sysStep
  split
  · exact wf_pgsvStep hs f
  all_goals simpa using hs

theorem wf_hostStore (key : Nat) (bs : List Byte) : Memory.wf (s.hostStore key bs).mem = true := by
  refine foldl_wf (fun s i hs => ?_) _ hs
  dsimp only
  split
  · exact hs
  · exact wf_store _ _ _ hs

theorem wf_hostAccess (kind ptn key len : Nat) (w : Option (List Byte)) :
    Memory.wf (s.hostAccess kind ptn key len w).mem = true := by
  cases w with
  | none => simpa [State.hostAccess] using hs
  | some bs =>
    have h := wf_hostStore hs key (bs.take len)
    exact ite_wf (by simpa using h) h

theorem wfOut_execCxlMemAccess (ptn pa len : Nat) (w : Option (List Byte)) : WfOut (execCxlMemAccess ptn pa len w s) := by
  unfold execCxlMemAccess
  dsimp only
  split
  · exact wf_hostAccess hs ..
  · simpa using hs

theorem wfOut_execBar2WindowAccess (ptn off len : Nat) (w : Option (List Byte)) :
    WfOut (execBar2WindowAccess ptn off len w s) := by
  unfold execBar2WindowAccess
  dsimp only
  repeat' split
  any_goals simpa using hs
  all_goals exact wf_hostAccess hs ..

theorem wf_scrub (r : PtnRes) : Memory.wf (s.scrub r).mem = true := by
  refine wf_filter _ (wf_of_mem hs (foldl_mem (fun _ _ => by simp) ..))

theorem wfOut_execDieReady (die : Nat) : WfOut (execDieReady die s) := by
  unfold execDieReady
  dsimp only
  split
  · exact hs
  · exact wf_filter _ hs

end

end Sys2Proof.Machine
end

section
/-!
SUPPORT. An assay operation (R294) keeps memory in its canonical form: it reads and writes the pool
by `aread` and `awrite` alone.
-/

namespace Sys2Proof.Machine

/-- An assay step that keeps memory in its canonical form. -/
structure AM.KeepsWf {α : Type} (m : AM α) : Prop where
  wf : ∀ a, Memory.wf a.s.mem = true → ∀ r, m a = .ok r → Memory.wf r.2.s.mem = true

@[simp] theorem keepsWf_pure {α : Type} (x : α) : AM.KeepsWf (pure x) := by
  refine ⟨fun a ha r h => ?_⟩
  cases h
  exact ha

@[simp] theorem keepsWf_bind {α β : Type} {m : AM α} {k : α → AM β} (hm : m.KeepsWf) (hk : ∀ x, (k x).KeepsWf) :
    AM.KeepsWf (m >>= k) := by
  refine ⟨fun a ha r h => ?_⟩
  change (m a >>= fun p => k p.1 p.2) = _ at h
  cases hma : m a with
  | error e =>
    rw [hma] at h
    cases h
  | ok p =>
    rw [hma] at h
    exact (hk _).wf _ (hm.wf a ha _ hma) _ h

@[simp] theorem keepsWf_throw {α : Type} (e : AErr) : AM.KeepsWf (throw e : AM α) := by
  refine ⟨fun a ha r h => ?_⟩
  cases h

@[simp] theorem keepsWf_get : AM.KeepsWf (get : AM Asm) := by
  refine ⟨fun a ha r h => ?_⟩
  cases h
  exact ha

theorem keepsWf_modify {g : Asm → Asm} (hg : ∀ a, (g a).s.mem = a.s.mem) : AM.KeepsWf (modify g : AM Unit) := by
  refine ⟨fun a ha r h => ?_⟩
  cases h
  rw [hg]
  exact ha

theorem keepsWf_set {a : Asm} (ha : Memory.wf a.s.mem = true) : AM.KeepsWf (set a : AM PUnit) := by
  refine ⟨fun b hb r h => ?_⟩
  cases h
  exact ha

/-- The rest of a step that has read the state may assume that it is canonical. -/
theorem keepsWf_get_bind {β : Type} {k : Asm → AM β} (hk : ∀ a, Memory.wf a.s.mem = true → (k a).KeepsWf) :
    AM.KeepsWf (get >>= k) :=
  ⟨fun a ha r h => (hk a ha).wf a ha r h⟩

@[simp] theorem keepsWf_ite {α : Type} {c : Prop} [Decidable c] {m n : AM α} (hm : m.KeepsWf) (hn : n.KeepsWf) :
    AM.KeepsWf (if c then m else n) := by split <;> assumption

@[simp] theorem keepsWf_forM {α : Type} (l : List α) {k : α → AM Unit} (hk : ∀ x, (k x).KeepsWf) : AM.KeepsWf (l.forM k) := by
  induction l with
  | nil => simp
  | cons x l ih => simpa using keepsWf_bind (hk x) fun _ => ih

@[simp] theorem keepsWf_forM_class {α : Type} (l : List α) {k : α → AM PUnit} (hk : ∀ x, (k x).KeepsWf) :
    AM.KeepsWf (forM l k) := keepsWf_forM l hk

@[simp] theorem keepsWf_map {α β : Type} (g : α → β) {m : AM α} (hm : m.KeepsWf) : AM.KeepsWf (g <$> m) := by
  rw [← bind_pure_comp]; exact keepsWf_bind hm fun _ => keepsWf_pure _

@[simp] theorem keepsWf_mapM {α β : Type} (l : List α) {k : α → AM β} (hk : ∀ x, (k x).KeepsWf) : AM.KeepsWf (l.mapM k) := by
  induction l with
  | nil => simp
  | cons x l ih => simpa using keepsWf_bind (hk x) fun _ => keepsWf_bind ih fun _ => keepsWf_pure _

@[simp] theorem keepsWf_afault {α : Type} (e : FaultInfo) : AM.KeepsWf (afault e : AM α) := keepsWf_throw _

@[simp] theorem keepsWf_afault_bind {α β : Type} (e : FaultInfo) (k : α → AM β) : AM.KeepsWf (afault e >>= k) := by
  refine ⟨fun a ha r h => ?_⟩
  cases h

@[simp] theorem keepsWf_aread (f : Flight) (va n : Nat) : (aread f va n).KeepsWf := by
  refine keepsWf_get_bind fun a ha => ?_
  split
  case h_1 => simp
  case h_2 hr => exact keepsWf_bind (keepsWf_set ((congrArg Memory.wf (readRec_mem hr)).trans ha)) fun _ => keepsWf_pure _

@[simp] theorem keepsWf_awriteUnit (f : Flight) (va : Nat) (bs : List Byte) : (awriteUnit f va bs).KeepsWf := by
  refine keepsWf_get_bind fun a ha => ?_
  split
  · simp
  · split
    · simp
    · split
      case h_1 hw => exact keepsWf_set (wf_of_write_ok ha hw)
      all_goals simp

@[simp] theorem keepsWf_awrite (f : Flight) (va : Nat) (bs : List Byte) : (awrite f va bs).KeepsWf := by
  simp [awrite]

@[simp] theorem keepsWf_aevents (ev : List Nat) : (aevents ev).KeepsWf := keepsWf_modify fun _ => rfl
@[simp] theorem keepsWf_atouch (id : Nat) : (atouch id).KeepsWf := keepsWf_modify fun _ => rfl

@[simp] theorem keepsWf_areadTree (f : Flight) (va : Nat) : (areadTree f va).KeepsWf := by
  unfold areadTree
  split
  · simp
  · refine keepsWf_bind (by simp) fun b => ?_
    split <;> simp

@[simp] theorem keepsWf_awriteTree (f : Flight) (t : Tree) : (awriteTree f t).KeepsWf := by
  simp [awriteTree]
@[simp] theorem keepsWf_anode (f : Flight) (t : Tree) (id : Nat) : (anode f t id).KeepsWf := by
  simp [anode]

@[simp] theorem keepsWf_awriteNode (f : Flight) (t : Tree) (x : Node) : (awriteNode f t x).KeepsWf := by
  simp [awriteNode]

theorem keepsWf_afree (f : Flight) (t : Tree) (want n k : Nat) (acc : List Nat) : (afree f t want n k acc).KeepsWf := by
  induction n generalizing k acc with
  | zero => exact keepsWf_pure _
  | succ n ih => exact keepsWf_ite (keepsWf_pure _) (keepsWf_bind (keepsWf_aread ..) fun _ => ih ..)

@[simp] theorem keepsWf_anew (f : Flight) (t : Tree) : (anew f t).KeepsWf := by
  refine keepsWf_bind (keepsWf_afree ..) fun l => ?_
  split <;> simp

@[simp] theorem keepsWf_afreeRec (f : Flight) (t : Tree) (id : Nat) : (afreeRec f t id).KeepsWf :=
  keepsWf_bind (keepsWf_awrite ..) fun _ => keepsWf_bind (keepsWf_atouch _) fun _ => keepsWf_modify fun _ => rfl

@[simp] theorem keepsWf_arelease (f : Flight) (t : Tree) (n up id : Nat) : (arelease f t n up id).KeepsWf := by
  induction n generalizing up id with
  | zero => exact keepsWf_pure _
  | succ n ih =>
    refine keepsWf_bind (keepsWf_anode ..) fun x => keepsWf_ite ?_ (keepsWf_awriteNode ..)
    exact keepsWf_bind (keepsWf_forM _ fun c => ih ..) fun _ => keepsWf_afreeRec ..

@[simp] theorem keepsWf_amerge (f : Flight) (t : Tree) : (amerge f t).KeepsWf := by
  refine keepsWf_bind (keepsWf_mapM _ fun _ => keepsWf_anode ..) fun top => ?_
  split
  · simp
  · refine keepsWf_bind (keepsWf_anew ..) fun id => ?_
    refine keepsWf_bind (keepsWf_aevents _) fun _ => keepsWf_bind (keepsWf_awriteNode ..) fun _ => ?_
    exact keepsWf_bind (keepsWf_forM _ fun x => keepsWf_ite (keepsWf_awriteNode ..) (keepsWf_pure _)) fun _ => keepsWf_pure _

theorem keepsWf_amergeAll (f : Flight) (n : Nat) (t : Tree) : (amergeAll f n t).KeepsWf := by
  induction n generalizing t with
  | zero => exact keepsWf_pure _
  | succ n ih =>
    refine keepsWf_ite (keepsWf_pure _) (keepsWf_bind (keepsWf_amerge ..) fun r => ?_)
    split
    · simp
    · exact ih _

@[simp] theorem keepsWf_aseal (f : Flight) (t : Tree) : (aseal f t).KeepsWf :=
  keepsWf_bind (keepsWf_anode ..) fun _ => keepsWf_bind (keepsWf_awriteNode ..) fun _ => keepsWf_amergeAll ..

theorem keepsWf_smIns (f : Flight) (t : Tree) : (smIns f t).KeepsWf := by
  refine keepsWf_bind (keepsWf_aread ..) fun b => keepsWf_bind ?_ fun t => keepsWf_bind ?_ fun tx => ?_
  · refine keepsWf_ite (keepsWf_pure _) (keepsWf_bind (keepsWf_anode ..) fun x => ?_)
    exact keepsWf_ite (keepsWf_pure _) (keepsWf_ite (keepsWf_aseal ..) (keepsWf_afault _))
  · refine keepsWf_ite (keepsWf_bind (keepsWf_anode ..) fun x => keepsWf_pure _) ?_
    exact keepsWf_ite (keepsWf_afault_bind ..) (keepsWf_bind (keepsWf_anew ..) fun _ => keepsWf_pure _)
  · refine keepsWf_bind (keepsWf_aevents _) fun _ => keepsWf_bind (keepsWf_awriteNode ..) fun _ => ?_
    exact keepsWf_bind (keepsWf_awriteTree ..) fun _ => keepsWf_pure _

theorem keepsWf_smSeal (f : Flight) (t : Tree) : (smSeal f t).KeepsWf := by
  refine keepsWf_ite (keepsWf_afault_bind ..) ?_
  exact keepsWf_bind (keepsWf_aseal ..) fun _ => keepsWf_bind (keepsWf_awriteTree ..) fun _ => keepsWf_pure _

theorem keepsWf_smMrg (f : Flight) (t : Tree) : (smMrg f t).KeepsWf := by
  refine keepsWf_bind (keepsWf_amerge ..) fun r => ?_
  split
  · simp
  · exact keepsWf_bind (keepsWf_awriteTree ..) fun _ => keepsWf_pure _

theorem keepsWf_aradii (f : Flight) (t : Tree) (n id : Nat) : (aradii f t n id).KeepsWf := by
  induction n generalizing id with
  | zero => exact keepsWf_pure _
  | succ n ih =>
    refine keepsWf_ite (keepsWf_pure _) (keepsWf_bind (keepsWf_anode ..) fun p => ?_)
    refine keepsWf_bind (keepsWf_mapM _ fun _ => keepsWf_anode ..) fun kids => ?_
    exact keepsWf_bind (keepsWf_awriteNode ..) fun _ => ih _

theorem keepsWf_asplit (f : Flight) (t : Tree) (id j : Nat) : (asplit f t id j).KeepsWf := by
  refine keepsWf_bind (keepsWf_anode ..) fun x => ?_
  refine keepsWf_ite (keepsWf_afault_bind ..) (keepsWf_ite (keepsWf_afault_bind ..) ?_)
  refine keepsWf_bind (keepsWf_ite (keepsWf_pure _) (keepsWf_bind (keepsWf_anode ..) fun _ => keepsWf_pure _)) fun up => ?_
  extract_lets split
  have hsplit : ∀ u, (split u).KeepsWf := fun u => by
    refine keepsWf_bind (keepsWf_anew ..) fun y => keepsWf_bind (keepsWf_aevents _) fun _ => ?_
    refine keepsWf_bind (keepsWf_awriteNode ..) fun _ => keepsWf_bind (keepsWf_awriteNode ..) fun _ => ?_
    cases up with
    | none => exact keepsWf_pure _
    | some p =>
      exact keepsWf_bind (keepsWf_awriteNode ..) fun _ => keepsWf_bind (keepsWf_aradii ..) fun _ => keepsWf_pure _
  cases up with
  | none => exact keepsWf_ite (keepsWf_afault_bind ..) (hsplit ())
  | some p => exact keepsWf_ite (keepsWf_afault_bind ..) (hsplit ())

theorem keepsWf_smSpl (f : Flight) (t : Tree) : (smSpl f t).KeepsWf := by
  refine keepsWf_bind (keepsWf_asplit ..) fun r => ?_
  exact keepsWf_ite (keepsWf_bind (keepsWf_awriteTree ..) fun _ => keepsWf_pure _) (keepsWf_pure _)

theorem keepsWf_ainside (f : Flight) (t : Tree) (p n : Nat) (l : List Nat) : (ainside f t p n l).KeepsWf := by
  induction n generalizing l with
  | zero => exact keepsWf_pure _
  | succ n ih =>
    refine keepsWf_bind (keepsWf_mapM _ fun _ => keepsWf_anode ..) fun xs => ?_
    split
    · simp
    · exact keepsWf_ite (keepsWf_pure _) (ih _)

theorem keepsWf_ashared (f : Flight) (t : Tree) (p n : Nat) (l : List Nat) : (ashared f t p n l).KeepsWf := by
  induction n generalizing l with
  | zero => exact keepsWf_pure _
  | succ n ih =>
    refine keepsWf_bind (keepsWf_mapM _ fun id => ?_) fun _ => keepsWf_pure _
    refine keepsWf_bind (keepsWf_anode ..) fun x => keepsWf_ite (keepsWf_pure _) ?_
    exact keepsWf_ite (ih _) (keepsWf_pure _)

theorem keepsWf_smFork (f : Flight) (t : Tree) : (smFork f t).KeepsWf := by
  refine keepsWf_ite (keepsWf_afault_bind ..) (keepsWf_bind (keepsWf_ainside ..) fun cut => ?_)
  refine keepsWf_bind (keepsWf_ite (keepsWf_pure _) (keepsWf_bind (keepsWf_anode ..) fun _ => keepsWf_pure _)) fun opn => ?_
  extract_lets copy need share fork
  clear_value copy need
  have hshare : ∀ u, (share u).KeepsWf := fun u => by
    refine keepsWf_bind ?_ fun t => ?_
    · split
      · exact keepsWf_pure _
      · refine keepsWf_bind (keepsWf_asplit ..) fun r => ?_
        exact keepsWf_ite (keepsWf_bind (keepsWf_awriteTree ..) fun _ => keepsWf_pure _) (keepsWf_pure _)
    · refine keepsWf_bind (keepsWf_anew ..) fun uid => keepsWf_bind (keepsWf_awriteTree ..) fun _ => ?_
      refine keepsWf_bind (keepsWf_ashared ..) fun ids => ?_
      refine keepsWf_bind (keepsWf_forM _ fun _ => keepsWf_bind (keepsWf_anode ..) fun _ => keepsWf_awriteNode ..) fun _ => ?_
      refine keepsWf_bind ?_ fun u => keepsWf_ite (keepsWf_afault_bind ..)
        (keepsWf_bind (keepsWf_awriteTree ..) fun _ => keepsWf_pure _)
      split
      · exact keepsWf_pure _
      · refine keepsWf_bind (keepsWf_anew ..) fun id => keepsWf_bind (keepsWf_aevents _) fun _ => ?_
        exact keepsWf_bind (keepsWf_awriteNode ..) fun _ => keepsWf_pure _
  have hfork : ∀ u, (fork u).KeepsWf := fun u =>
    keepsWf_bind (keepsWf_afree ..) fun free => keepsWf_ite (keepsWf_afault_bind ..) (hshare ())
  split
  · exact keepsWf_ite (keepsWf_afault_bind ..) (keepsWf_ite (keepsWf_afault_bind ..) (hfork ()))
  · exact hfork ()

theorem keepsWf_areach (f : Flight) (t : Tree) (x : Node) (n : Nat) (l : List Nat) : (areach f t x n l).KeepsWf := by
  induction n generalizing l with
  | zero => exact keepsWf_pure _
  | succ n ih =>
    refine keepsWf_ite (keepsWf_pure _) (keepsWf_bind (keepsWf_mapM _ fun _ => keepsWf_anode ..) fun xs => ?_)
    split
    · simp
    · exact ih _

theorem keepsWf_smEvct (f : Flight) (t : Tree) : (smEvct f t).KeepsWf := by
  refine keepsWf_bind (keepsWf_anode ..) fun x => keepsWf_bind (keepsWf_areach ..) fun r => ?_
  refine keepsWf_ite (keepsWf_afault_bind ..) (keepsWf_ite (keepsWf_afault_bind ..) ?_)
  refine keepsWf_bind (keepsWf_forM _ fun _ => keepsWf_arelease ..) fun _ => keepsWf_bind (keepsWf_awriteNode ..) fun _ => ?_
  exact keepsWf_bind keepsWf_get fun _ => keepsWf_pure _

theorem keepsWf_smFree (f : Flight) (t : Tree) : (smFree f t).KeepsWf := by
  refine keepsWf_bind (keepsWf_forM _ fun _ => keepsWf_arelease ..) fun _ => ?_
  refine keepsWf_ite ?_ ?_
  · exact keepsWf_bind (keepsWf_afreeRec ..) fun _ => keepsWf_bind keepsWf_get fun _ => keepsWf_pure _
  · exact keepsWf_bind (keepsWf_awriteTree ..) fun _ => keepsWf_bind keepsWf_get fun _ => keepsWf_pure _

@[simp] theorem keepsWf_awriteQuery (f : Flight) (x : Query) : (awriteQuery f x).KeepsWf := keepsWf_awrite ..
@[simp] theorem keepsWf_awriteO (f : Flight) (x : Query) : (awriteO f x).KeepsWf := keepsWf_awrite ..

theorem keepsWf_afresh : afresh.KeepsWf :=
  keepsWf_get_bind fun _ ha => keepsWf_bind (keepsWf_set ha) fun _ => keepsWf_pure _

theorem keepsWf_abound (f : Flight) (t : Tree) (q : Query) (id : Nat) : (abound f t q id).KeepsWf := by
  refine keepsWf_bind (keepsWf_anode ..) fun x => keepsWf_ite (keepsWf_afault_bind ..) ?_
  exact keepsWf_bind keepsWf_afresh fun _ => keepsWf_bind (keepsWf_aevents _) fun _ => keepsWf_pure _

theorem keepsWf_aquery (f : Flight) (t : Tree) : (aquery f t).KeepsWf :=
  keepsWf_bind (keepsWf_aread ..) fun _ => keepsWf_pure _

theorem keepsWf_aclear (f : Flight) (area : Nat) : (aclear f area).KeepsWf :=
  keepsWf_bind (keepsWf_aread ..) fun _ => keepsWf_awrite ..

theorem keepsWf_afinish (f : Flight) (q : Query) : (afinish f q).KeepsWf :=
  keepsWf_bind (keepsWf_aclear ..) fun _ => keepsWf_bind (keepsWf_aclear ..) fun _ => keepsWf_pure _

theorem keepsWf_smBnd (f : Flight) (t : Tree) : (smBnd f t).KeepsWf := by
  refine keepsWf_bind (keepsWf_aquery ..) fun q => keepsWf_ite (keepsWf_afault_bind ..) (keepsWf_ite (keepsWf_pure _) ?_)
  refine keepsWf_bind (keepsWf_ite (keepsWf_pure _) ?_) fun q => keepsWf_bind ?_ fun q => ?_
  · refine keepsWf_bind (keepsWf_mapM _ fun _ => keepsWf_abound ..) fun bs => ?_
    exact keepsWf_bind (keepsWf_aevents _) fun _ => keepsWf_bind (keepsWf_awrite ..) fun _ => keepsWf_pure _
  · exact keepsWf_ite (keepsWf_ite (keepsWf_afinish ..) (keepsWf_pure _)) (keepsWf_pure _)
  · refine keepsWf_ite (keepsWf_bind (keepsWf_awriteQuery ..) fun _ => keepsWf_pure _) ?_
    refine keepsWf_bind (keepsWf_aread ..) fun b => keepsWf_bind (keepsWf_abound ..) fun r => ?_
    exact keepsWf_bind (keepsWf_awriteQuery ..) fun _ => keepsWf_pure _

theorem keepsWf_achecked (f : Flight) (t : Tree) : (achecked f t).KeepsWf :=
  keepsWf_bind (keepsWf_anode ..) fun _ => keepsWf_ite (keepsWf_afault_bind ..) (keepsWf_pure _)

theorem keepsWf_smDsc (f : Flight) (t : Tree) : (smDsc f t).KeepsWf := by
  refine keepsWf_bind (keepsWf_aquery ..) fun q => keepsWf_ite (keepsWf_pure _) (keepsWf_ite (keepsWf_afault_bind ..) ?_)
  refine keepsWf_bind (keepsWf_achecked ..) fun x => keepsWf_ite (keepsWf_pure _) (keepsWf_ite ?_ ?_)
  · exact keepsWf_bind (keepsWf_aevents _) fun _ => keepsWf_bind (keepsWf_awriteQuery ..) fun _ => keepsWf_pure _
  · refine keepsWf_ite (keepsWf_pure _) (keepsWf_ite (keepsWf_afault_bind ..) ?_)
    exact keepsWf_bind (keepsWf_awrite ..) fun _ => keepsWf_bind (keepsWf_awriteQuery ..) fun _ => keepsWf_pure _

theorem keepsWf_smNode (f : Flight) (t : Tree) : (smNode f t).KeepsWf := by
  refine keepsWf_bind (keepsWf_aquery ..) fun q => keepsWf_ite (keepsWf_afault_bind ..) ?_
  refine keepsWf_bind (keepsWf_achecked ..) fun x => keepsWf_bind (keepsWf_aevents _) fun _ => ?_
  exact keepsWf_bind (keepsWf_awriteQuery ..) fun _ => keepsWf_bind (keepsWf_awriteO ..) fun _ => keepsWf_pure _

theorem keepsWf_smLeaf (f : Flight) (t : Tree) : (smLeaf f t).KeepsWf := by
  refine keepsWf_bind (keepsWf_aquery ..) fun q => keepsWf_ite (keepsWf_afault_bind ..) ?_
  refine keepsWf_ite (keepsWf_afault_bind ..) (keepsWf_bind (keepsWf_anode ..) fun x => ?_)
  refine keepsWf_ite (keepsWf_afault_bind ..) (keepsWf_ite (keepsWf_afault_bind ..) ?_)
  refine keepsWf_bind (keepsWf_aevents _) fun _ => keepsWf_bind (keepsWf_awriteQuery ..) fun _ => ?_
  exact keepsWf_bind (keepsWf_awriteO ..) fun _ => keepsWf_pure _

theorem keepsWf_smFin (f : Flight) (t : Tree) : (smFin f t).KeepsWf := by
  refine keepsWf_bind (keepsWf_aquery ..) fun q => keepsWf_ite (keepsWf_afault_bind ..) ?_
  exact keepsWf_bind (keepsWf_aevents _) fun _ => keepsWf_bind (keepsWf_awrite ..) fun _ => keepsWf_pure _

theorem keepsWf_assayOp (f : Flight) : (assayOp f).KeepsWf := by
  refine keepsWf_ite ?_ ?_
  · refine keepsWf_bind keepsWf_get fun a => keepsWf_ite (keepsWf_afault_bind ..) ?_
    refine keepsWf_bind (keepsWf_areadTree ..) fun t => keepsWf_bind ?_ fun v =>
      keepsWf_bind keepsWf_get fun _ => keepsWf_pure _
    split
    · exact keepsWf_smIns ..
    · exact keepsWf_smSeal ..
    · exact keepsWf_smMrg ..
    · exact keepsWf_smSpl ..
    · exact keepsWf_smFork ..
    · exact keepsWf_smEvct ..
    · exact keepsWf_smFree ..
  · refine keepsWf_bind (keepsWf_aread ..) fun b => keepsWf_bind (keepsWf_areadTree ..) fun t => ?_
    split
    · exact keepsWf_bind (keepsWf_smBnd ..) fun _ => keepsWf_pure _
    · exact keepsWf_bind (keepsWf_smDsc ..) fun _ => keepsWf_pure _
    · split
      · exact keepsWf_bind (keepsWf_smNode ..) fun _ => keepsWf_pure _
      · exact keepsWf_bind (keepsWf_smLeaf ..) fun _ => keepsWf_pure _
      · exact keepsWf_bind (keepsWf_smFin ..) fun _ => keepsWf_pure _

/-- Memory after a whole assay operation, which starts from the state of the unit's step. -/
theorem wf_assayOp {s : State} (hs : Memory.wf s.mem = true) {f : Flight} {r : (Writes × Bool) × Asm}
    (h : (assayOp f).run ⟨s, [], 0, []⟩ = .ok r) : Memory.wf r.2.s.mem = true :=
  (keepsWf_assayOp f).wf _ hs _ h

theorem wfOut_execAssayOperation {s : State} (hs : Memory.wf s.mem = true) (die : Nat) : WfOut (execAssayOperation die s) := by
  unfold execAssayOperation
  split
  · exact hs
  · dsimp only
    split
    · exact wf_of_mem hs (by simp)
    · split
      · exact hs
      · split
        case h_1 => exact wf_of_mem hs (by simp)
        case h_2 =>
          refine wf_of_mem hs ?_
          split
          · rw [ite_mem, stallTile_mem, ite_self]
          · rfl
        case h_3 ho => exact wf_of_mem (wf_assayOp hs ho) (by simp)

end Sys2Proof.Machine
end

section
/-!
SUPPORT. The units' steps that write memory or scrub it, by the operations above.
-/

namespace Sys2Proof.Machine

@[simp] theorem purgePtn_mem (s : State) (ptn : Nat) : (s.purgePtn ptn).mem = s.mem :=
  foldl_mem (fun s _ => removeRegion_mem s _) _ s

theorem keepsMem_execUncorrectableError (pa : Nat) (s : State) : KeepsMem s (execUncorrectableError pa s) := by
  simp [execUncorrectableError]

section
variable {s : State} (hs : Memory.wf s.mem = true)
include hs

theorem wfOut_execPartitionCreate (ptn : Nat) (r : PtnRes) : WfOut (execPartitionCreate ptn r s) := by
  unfold execPartitionCreate
  split
  · exact hs
  · exact wf_of_mem (wf_scrub hs r) (by simp)

theorem wfOut_execPartitionResize (ptn : Nat) (r : PtnRes) : WfOut (execPartitionResize ptn r s) := by
  unfold execPartitionResize
  split
  · exact hs
  · dsimp only
    split
    · exact hs
    · refine wf_of_mem (wf_scrub (s := (s.scrub _).bindRes none _) ?_ _) (by simp; rfl)
      exact wf_of_mem (wf_scrub hs _) (bindRes_mem ..)

theorem wfOut_execPartitionDestroy (ptn : Nat) : WfOut (execPartitionDestroy ptn s) := by
  unfold execPartitionDestroy
  split
  · exact hs
  · next p _ => exact wf_of_mem (wf_scrub (wf_of_mem hs (purgePtn_mem s ptn)) p.res) (by simp)

theorem wf_performStep (f : Flight) : Memory.wf (s.performStep f).mem = true := by
  unfold State.performStep
  split
  any_goals (refine wf_of_mem hs ?_; simp; done)
  · exact ite_wf (wf_of_mem hs (atomStep_mem ..)) (wf_tillStep hs f)
  · exact wf_prmtStep hs f
  · exact wf_rgnStep hs f
  · exact wf_taskStep hs f
  · exact wf_sysStep hs f

theorem wfOut_execInstructionPerformed (fid : Nat) : WfOut (execInstructionPerformed fid s) := by
  unfold execInstructionPerformed
  split
  · exact hs
  · split
    · exact wf_performStep hs _
    · exact hs
end

end Sys2Proof.Machine
end

section
/-!
SUPPORT. A word that fires leaves memory as it is (R242): what it asks of memory its unit performs later.
-/

namespace Sys2Proof.Machine

theorem keepsMem_scalarR (o : FormR) (f : Int → Int → IntRes) (s : State) : KeepsMem s (scalarR o f s) :=
  keepsMem_fireTimed ..

theorem keepsMem_scalarR3 (o : FormR) (f : Int → Int → Int → IntRes) (s : State) : KeepsMem s (scalarR3 o f s) :=
  keepsMem_fireTimed ..

theorem keepsMem_scalarI (o : FormI) (f : Word → Nat → Word) (s : State) : KeepsMem s (scalarI o f s) :=
  keepsMem_fireTimed ..

theorem keepsMem_shiftR (o : FormR) (f : Nat → Nat → Nat → Nat × Bool) (s : State) : KeepsMem s (shiftR o f s) :=
  keepsMem_fireTimed ..

theorem keepsMem_shiftI (o : FormI) (f : Nat → Nat → Nat → Nat × Bool) (s : State) : KeepsMem s (shiftI o f s) :=
  keepsMem_scalarI ..

theorem keepsMem_moveExt (o : FormR) (f : Nat → Nat → Word) (s : State) : KeepsMem s (moveExt o f s) :=
  keepsMem_fireTimed ..

theorem keepsMem_compareR (o : FormR) (f : Int → Int → Bool) (s : State) : KeepsMem s (compareR o f s) :=
  keepsMem_fireTimed ..

theorem keepsMem_compareI (o : FormI) (f : Word → Nat → Bool) (s : State) : KeepsMem s (compareI o f s) :=
  keepsMem_fireTimed ..

theorem keepsMem_compareF (o : FormR) (f : FVal → FVal → Bool) (u quiet : Bool) (s : State) :
    KeepsMem s (compareF o f u quiet s) := keepsMem_fireTimed ..

theorem keepsMem_predR (o : FormR) (f : Bool → Bool → Bool) (s : State) : KeepsMem s (predR o f s) :=
  keepsMem_fireTimed ..

theorem keepsMem_sendR (o : FormR) (tag : Nat) (s : State) : KeepsMem s (sendR o tag s) := keepsMem_fireTimed ..

theorem keepsMem_mergeR (o : FormR) (rot : Bool) (s : State) : KeepsMem s (mergeR o rot s) := keepsMem_fireTimed ..

theorem keepsMem_vecR (o : FormR) (f : Nat → Nat → LaneRes) (s : State) : KeepsMem s (vecR o f s) :=
  keepsMem_fireTimed ..

theorem keepsMem_vecR3 (o : FormR) (W : Nat) (f : Nat → Nat → Nat → LaneRes) (s : State) : KeepsMem s (vecR3 o W f s) :=
  keepsMem_fireTimed ..

theorem keepsMem_vecF (o : FormR) (f : Fmt → FVal → FRes) (s : State) : KeepsMem s (vecF o f s) := keepsMem_vecR ..

theorem keepsMem_convertR (o : FormR) (rm : Rm) (s : State) : KeepsMem s (convertR o rm s) := keepsMem_fireTimed ..

theorem keepsMem_reduceR (o : FormR) (op : Nat → Nat → Nat → LaneRes) (s : State) : KeepsMem s (reduceR o op s) :=
  keepsMem_fireTimed ..

theorem keepsMem_accR (o : FormR) (fn : Nat) (op : Nat → Nat → Nat → LaneRes) (s : State) :
    KeepsMem s (accR o fn op s) := keepsMem_fireTimed ..

theorem keepsMem_scanR (o : FormR) (op : Nat → Nat → Nat → LaneRes) (ident : Nat → Nat) (excl : Bool) (s : State) :
    KeepsMem s (scanR o op ident excl s) := keepsMem_fireTimed ..

theorem keepsMem_permR (o : FormR) (f : Nat → List Nat → List Nat → Nat → Nat → LaneRes) (s : State) :
    KeepsMem s (permR o f s) := keepsMem_fireTimed ..

theorem keepsMem_memR (o : FormR) (dest : Bool) (va : Flight → Nat) (s : State) : KeepsMem s (memR o dest va s) :=
  keepsMem_fireJob _ _ memPost_mem _

theorem keepsMem_recR (o : FormR) (n : Nat) (s : State) : KeepsMem s (recR o n s) := keepsMem_fireJob _ _ memPost_mem _

theorem keepsMem_atomR (o : FormR) (dest : Bool) (s : State) : KeepsMem s (atomR o dest s) :=
  keepsMem_fireJob _ _ memPost_mem _

theorem keepsMem_tillR (o : FormR) (dest : Bool) (s : State) : KeepsMem s (tillR o dest s) :=
  keepsMem_fireJob _ _ memPost_mem _

theorem keepsMem_soonR (o : FormR) (dest : Bool) (s : State) : KeepsMem s (soonR o dest s) :=
  keepsMem_fireJob _ _ jobPost_mem _

theorem keepsMem_fenceR (o : FormR) (s : State) : KeepsMem s (fenceR o s) := keepsMem_fireJob _ _ jobPost_mem _

theorem keepsMem_linkR (o : FormR) (s : State) : KeepsMem s (linkR o s) := keepsMem_fireJob _ _ jobPost_mem _

theorem keepsMem_engR (o : FormR) (nm : Bool) (s : State) : KeepsMem s (engR o nm s) :=
  keepsMem_fireJob _ _ jobPost_mem _

theorem keepsMem_tileD (o : FormR) (s : State) : KeepsMem s (tileD o s) := keepsMem_tileR ..

/-! ## Words with a meaning of their own -/

theorem keepsMem_execShbind (o : FormR) (s : State) : KeepsMem s (execShbind o s) :=
  keepsMem_fireJob _ _ (fun f s => shbindAsk_mem s f) s

theorem keepsMem_execLis (fn : BitVec 3) (o : FormI) (s : State) : KeepsMem s (execLis fn o s) := keepsMem_fireTimed ..

theorem keepsMem_execShset (o : FormR) (s : State) : KeepsMem s (execShset o s) := by
  unfold execShset
  exact keepsMem_fireJob _ _ (fun _ _ => rfl) s

theorem keepsMem_execShinv (o : FormR) (s : State) : KeepsMem s (execShinv o s) := keepsMem_fireJob _ _ (fun _ _ => rfl) s

theorem keepsMem_execPref (o : FormR) (s : State) : KeepsMem s (execPref o s) :=
  keepsMem_fireJob _ _ (fun f s => by simp) s

theorem keepsMem_execBrCall (o : FormI) (s : State) : KeepsMem s (execBrCall o s) := by
  unfold execBrCall
  split
  · next h =>
    have ht := mem_of_keepsMem (keepsMem_fireTimed ..) h
    split
    · exact (callDepth_mem ..).trans ht
    · exact ht
  · exact keepsMem_fireTimed ..

theorem keepsMem_execJrRet (o : FormR) (s : State) : KeepsMem s (execJrRet o s) := by
  unfold execJrRet
  split
  · trivial
  · dsimp only
    split <;> simp

theorem keepsMem_execJrHalt (o : FormR) (s : State) : KeepsMem s (execJrHalt o s) := by
  unfold execJrHalt
  split
  · trivial
  · dsimp only
    split <;> simp

theorem keepsMem_execSysTrap (o : FormR) (s : State) : KeepsMem s (execSysTrap o s) := by
  refine keepsMem_fireSys _ _ fun w x s d post h t => ?_
  cases h
  cases w <;> simp

theorem keepsMem_execSysEret (o : FormR) (s : State) : KeepsMem s (execSysEret o s) := by
  refine keepsMem_fireSys _ _ fun w x s d post h t => ?_
  cases h
  cases w <;> simp

theorem keepsMem_execSysCsrw (o : FormR) (s : State) : KeepsMem s (execSysCsrw o s) := by
  refine keepsMem_fireSys _ _ fun w x s d post h t => ?_
  cases w with
  | elem => cases h; rfl
  | tel t cx pc =>
    dsimp only at h
    split at h
    · cases h
    · cases h
    · cases h
      split <;> simp

theorem keepsMem_execSysMbx (o : FormR) (s : State) : KeepsMem s (execSysMbx o s) := by
  refine keepsMem_fireSys _ _ fun w x s d post h t => ?_
  dsimp only at h
  split at h
  · cases h
  · cases h
    dsimp only
    split <;> simp

/-! ## Every word -/

/-- A word that fires hands its work to a unit at most: it leaves memory as it is. -/
theorem keepsMem_exec_of_code {i : Instr} {c : Nat × BitVec 3 × Fields} (hc : i.code? = some c) (s : State) :
    KeepsMem s (exec i s) := by
  cases i with
  | nop o | bitBext o | bitBins o | psetSig o | pmovToa o | pmovFra o | fwd o | repl o | tagr o | vcmp o
  | vlog o | vdot o | vqnt o | vdq o | bppk o | bpun o | vnrmStat o | vnrmApply o | vinsIns o | vinsExt o
  | viota o | vbmpExpd o | vbmpCnt o | vbmpSetb o | vmatch o | vtopk o | vrng o | statEmit o | statRd o | brBr o
  | jrJr o | sysCsrr o =>
    dsimp only [exec]; exact keepsMem_fireTimed ..
  | addW o | addSs o | addSn o | subW o | subSs o | subSn o | mulLo o | mulHs o | mulHn o | divQs o | divQn o
  | divMs o | divMn o | logAnd o | logOr o | logXor o | logAndn o | logOrn o | logXnor o | mmxMins o | mmxMaxs o
  | mmxMinn o | mmxMaxn o | bitPopc o | bitClz o | bitCtz o | bitBrev o | movMov o | movAbs o | movNeg o =>
    dsimp only [exec]; exact keepsMem_scalarR ..
  | addi o | li o => dsimp only [exec]; exact keepsMem_scalarI ..
  | macW o | macSs o | movMovk o | movSel o => dsimp only [exec]; exact keepsMem_scalarR3 ..
  | shfShl o | shfShr o | shfSar o | shfRol o => dsimp only [exec]; exact keepsMem_shiftR ..
  | shfiShl o | shfiShr o | shfiSar o | shfiRol o => dsimp only [exec]; exact keepsMem_shiftI ..
  | movSext o | movZext o => dsimp only [exec]; exact keepsMem_moveExt ..
  | lis fn o => dsimp only [exec]; exact keepsMem_execLis ..
  | addr fn o => dsimp only [exec]; exact keepsMem_fireTimed ..
  | cmpEq o | cmpNe o | cmpLt o | cmpLe o | cmpLtn o | cmpLen o | cmpTst o =>
    dsimp only [exec]; exact keepsMem_compareR ..
  | cmpiEq o | cmpiNe o | cmpiLt o | cmpiLe o | cmpiLtn o | cmpiLen o | cmpiTst o =>
    dsimp only [exec]; exact keepsMem_compareI ..
  | fcmpEq o | fcmpNe o | fcmpLt o | fcmpLe o | fcmpUn o | fcmpOr o => dsimp only [exec]; exact keepsMem_compareF ..
  | psetSet o | psetClr o | psetCpy o | psetNot o | plogAnd o | plogOr o | plogXor o | plogAndn o =>
    dsimp only [exec]; exact keepsMem_predR ..
  | sendD o | sendEor o | sendEot o | sendEos o | sendLvl o | sendCtl o => dsimp only [exec]; exact keepsMem_sendR ..
  | mrgArr o | mrgRot o => dsimp only [exec]; exact keepsMem_mergeR ..
  | markSnap o | drain o => dsimp only [exec]; exact keepsMem_markR ..
  | vadd o | vsub o | vmul o | vdivDiv o | vmmxMin o | vmmxMax o | vmmxMinn o | vmmxMaxn o | vsgnAbs o
  | vsgnNeg o | vsgnCsgn o | vshf o =>
    dsimp only [exec]; exact keepsMem_vecR ..
  | vfmaFma o | vfmaFms o | vfmaFnma o | vsel o | vclmp o => dsimp only [exec]; exact keepsMem_vecR3 ..
  | vdivRcp o | vdivRsq o | vdivSqrt o | vtrnExp o | vtrnExp2 o | vtrnLog o | vtrnLog2 o | vtrnTanh o
  | vtrnSigm o =>
    dsimp only [exec]; exact keepsMem_vecF ..
  | vcvtRne o | vcvtRz o | vcvtRu o | vcvtRd o | vcvtRna o => dsimp only [exec]; exact keepsMem_convertR ..
  | vredSum o | vredMax o | vredMin o | vredAnd o | vredOr o => dsimp only [exec]; exact keepsMem_reduceR ..
  | vaccSum o | vaccMax o | vaccMin o | vaccCnt o => dsimp only [exec]; exact keepsMem_accR ..
  | vscanIsum o | vscanXsum o | vscanImax o => dsimp only [exec]; exact keepsMem_scanR ..
  | vprmIdx o | vprmRot o | vprmBcl o | vprmPair o => dsimp only [exec]; exact keepsMem_permR ..
  | vhead o | shget o | shseg o | shrow o => dsimp only [exec]; exact keepsMem_shapeR ..
  | zcfgTy o | zcfgRow o | zcfgCol o | zcfgAll o | zld o | zfillZero o | zfillOnes o | zfillIden o | zfillTril o
  | zfillTrls o | zfillTriu o | zfillBcst o | mmaD o | mmaDt o | ztrn o | zaddAdd o | zaddScl o | zcvt o
  | zmovFrv o =>
    dsimp only [exec]; exact keepsMem_tileD ..
  | zrd o | zst o | zwld o | mmaR o | mmaRt o | zarm o | zsplit o | zstat o | zwait o | zmovTov o =>
    dsimp only [exec]; exact keepsMem_tileR ..
  | shbind o => dsimp only [exec]; exact keepsMem_execShbind ..
  | shset o => dsimp only [exec]; exact keepsMem_execShset ..
  | shinv o => dsimp only [exec]; exact keepsMem_execShinv ..
  | ldPl o | ldAcq o | stPl o | stRel o | vld o | vstPl o | vstMsk o | vstRel o | gath o | scatSt o =>
    dsimp only [exec]; exact keepsMem_memR ..
  | sopen o | xform o => dsimp only [exec]; exact keepsMem_recR ..
  | sctlClose o | sctlRewind o | sctlSkip o | bankGive o | bankTake o | bankQry o | evPost o | evPop o
  | evWait o | evPeek o | agUnld o | agQry o | taskSeq o | taskCncl o | taskQry o | taskPrio o | rgnPreempt o
  | rgnResume o | rgnRollback o | rgnQuiesce o | rgnAsid o | nmcStat o =>
    dsimp only [exec]; exact keepsMem_soonR ..
  | scatAdd o | tillApp o | agLoad o | agBind o => dsimp only [exec]; exact keepsMem_fireJob _ _ memPost_mem _
  | ldr o | qfence o | taskLnch o | statCfg o | cpyStat o | nmcFence o | sysPgsv o | sysPgrs o | sysTlbi o =>
    dsimp only [exec]; exact keepsMem_fireJob _ _ jobPost_mem _
  | pref o => dsimp only [exec]; exact keepsMem_execPref ..
  | tillPoll o | tillWait o | tillAdv o | prmtGet o | prmtRet o => dsimp only [exec]; exact keepsMem_tillR ..
  | aupdAdd o | aupdMin o | aupdMax o | aupdOr o | aupdAnd o | aupdXor o | aupdSwp o | afetAdd o | afetMin o
  | afetMax o | afetOr o | afetAnd o | afetXor o | afetSwp o | acas o | atas o | afadd o =>
    dsimp only [exec]; exact keepsMem_atomR ..
  | grpJoin o | grpLeave o | grpArrive o | grpWait o | grpBar o | grpQry o => dsimp only [exec]; exact keepsMem_grpR ..
  | fenceCtx o | fencePage o | fenceRgn o | fenceDie o | fenceDev o | fenceSys o =>
    dsimp only [exec]; exact keepsMem_fenceR ..
  | tcntAdd o | tcntSub o | tcntRd o | tcntWz o => dsimp only [exec]; exact keepsMem_tcntR ..
  | smIns o | smSeal o | smMrg o | smSpl o | smFork o | smEvct o | smFree o | smbnd o | smdsc o | smaccNode o
  | smaccLeaf o | smaccFin o =>
    dsimp only [exec]; exact keepsMem_assayR ..
  | rangeGet o | rangeSteal o | rangeSplit o | rangeDone o => dsimp only [exec]; exact keepsMem_rangeR ..
  | linkTurn o | linkQry o | linkHold o => dsimp only [exec]; exact keepsMem_linkR ..
  | cpyCpy o | cpyXf o | cpyFill o | nmcIssue o => dsimp only [exec]; exact keepsMem_engR ..
  | brCall o => dsimp only [exec]; exact keepsMem_execBrCall ..
  | jrRet o => dsimp only [exec]; exact keepsMem_execJrRet ..
  | jrHalt o => dsimp only [exec]; exact keepsMem_execJrHalt ..
  | sysTrap o => dsimp only [exec]; exact keepsMem_execSysTrap ..
  | sysEret o => dsimp only [exec]; exact keepsMem_execSysEret ..
  | sysCsrw o => dsimp only [exec]; exact keepsMem_execSysCsrw ..
  | sysMbx o => dsimp only [exec]; exact keepsMem_execSysMbx ..
  | _ => cases hc

end Sys2Proof.Machine
end

section
/-!
SUPPORT. Every step keeps memory in its canonical form (R45, R241; log 5).
-/

namespace Sys2Proof.Machine

theorem wf_of_wfOut {o : Out} {t : State} (h : WfOut o) (e : o = .next t) : Memory.wf t.mem = true := by
  rw [e] at h
  exact h

section
variable {s : State} (hs : Memory.wf s.mem = true)
include hs

/-- A step of the machine, a word's or a unit's, keeps memory in its canonical form. -/
theorem wfOut_exec (i : Instr) : WfOut (exec i s) := by
  cases i with
  | bankAccess die bank => exact wfOut_execBankAccess hs ..
  | hbmAccessComplete rid => exact wfOut_execHbmAccessComplete hs ..
  | ownerUpdateApply pg me => exact wfOut_execOwnerUpdateApply hs ..
  | instructionPerformed fid => exact wfOut_execInstructionPerformed hs ..
  | tillAppend mid => exact wfOut_execTillAppend hs ..
  | regionComplete rg => exact wfOut_execRegionComplete hs ..
  | statRecordWrite pg => exact wfOut_execStatRecordWrite hs ..
  | writeThroughStart rg ix => exact wfOut_execWriteThroughStart hs ..
  | commitTileTask rg ix => exact wfOut_execCommitTileTask hs ..
  | copyCommandExecute die e => exact wfOut_execCopyCommandExecute hs ..
  | nmcCommandExecute die ptn => exact wfOut_execNmcCommandExecute hs ..
  | preemptWatchdogExpire rg => exact wfOut_execPreemptWatchdogExpire hs ..
  | partitionCreate ptn r => exact wfOut_execPartitionCreate hs ..
  | partitionResize ptn r => exact wfOut_execPartitionResize hs ..
  | partitionDestroy ptn => exact wfOut_execPartitionDestroy hs ..
  | cxlMemAccess ptn pa len w => exact wfOut_execCxlMemAccess hs ..
  | dieReady die => exact wfOut_execDieReady hs ..
  | assayOperation die => exact wfOut_execAssayOperation hs ..
  | peerPermitRequest port ptn till r get => exact wfOut_execPeerPermitRequest hs ..
  | bar2WindowAccess ptn off len w => exact wfOut_execBar2WindowAccess hs ..
  | peArbiterFire pg pe => exact wfOut_of_keepsMem hs (keepsMem_execPeArbiterFire ..)
  | writeBack fid => exact wfOut_of_keepsMem hs (keepsMem_execWriteBack ..)
  | tokenAdvance pg rt => exact wfOut_of_keepsMem hs (keepsMem_execTokenAdvance ..)
  | routerPacketEgress pg rt => exact wfOut_of_keepsMem hs (keepsMem_execRouterPacketEgress ..)
  | routerPacketIngress pk => exact wfOut_of_keepsMem hs (keepsMem_execRouterPacketIngress ..)
  | isectPresent pg pe => exact wfOut_of_keepsMem hs (keepsMem_execIsectPresent ..)
  | snapPass pg unit => exact wfOut_of_keepsMem hs (keepsMem_execSnapPass ..)
  | drainForward pg unit => exact wfOut_of_keepsMem hs (keepsMem_execDrainForward ..)
  | drainAbsorb pg pe port => exact wfOut_of_keepsMem hs (keepsMem_execDrainAbsorb ..)
  | pulseApply pg pe port => exact wfOut_of_keepsMem hs (keepsMem_execPulseApply ..)
  | tellerIssue t => exact wfOut_of_keepsMem hs (keepsMem_execTellerIssue ..)
  | tellerFetchLine t cx line => exact wfOut_of_keepsMem hs (keepsMem_execTellerFetchLine ..)
  | lateTrap fid => exact wfOut_of_keepsMem hs (keepsMem_execLateTrap ..)
  | mintLoad rg page => exact wfOut_of_keepsMem hs (keepsMem_execMintLoad ..)
  | regionArm rg => exact wfOut_of_keepsMem hs (keepsMem_execRegionArm ..)
  | shadowFillComplete rg => exact wfOut_of_keepsMem hs (keepsMem_execShadowFillComplete ..)
  | sequenceSwap rg => exact wfOut_of_keepsMem hs (keepsMem_execSequenceSwap ..)
  | streamHeaderCapture pg si => exact wfOut_of_keepsMem hs (keepsMem_execStreamHeaderCapture ..)
  | streamRowIssue pg si => exact wfOut_of_keepsMem hs (keepsMem_execStreamRowIssue ..)
  | streamWindowRead pg si => exact wfOut_of_keepsMem hs (keepsMem_execStreamWindowRead ..)
  | lengthMarkerAtHead pg pe port => exact wfOut_of_keepsMem hs (keepsMem_execLengthMarkerAtHead ..)
  | poisonMarkerAtHead pg pe port => exact wfOut_of_keepsMem hs (keepsMem_execPoisonMarkerAtHead ..)
  | storeStreamToken pg si => exact wfOut_of_keepsMem hs (keepsMem_execStoreStreamToken ..)
  | shapeWindowRefill pg sx => exact wfOut_of_keepsMem hs (keepsMem_execShapeWindowRefill ..)
  | shsetWriteThrough pg sx => exact wfOut_of_keepsMem hs (keepsMem_execShsetWriteThrough ..)
  | tileQueuePerform pg ten => exact wfOut_of_keepsMem hs (keepsMem_execTileQueuePerform ..)
  | mmaEngineStep pg ten => exact wfOut_of_keepsMem hs (keepsMem_execMmaEngineStep ..)
  | tenantFlush pg ten => exact wfOut_of_keepsMem hs (keepsMem_execTenantFlush ..)
  | armRecordWalk rg => exact wfOut_of_keepsMem hs (keepsMem_execArmRecordWalk ..)
  | translationWalk rid => exact wfOut_of_keepsMem hs (keepsMem_execTranslationWalk ..)
  | updateTokenArrive uid => exact wfOut_of_keepsMem hs (keepsMem_execUpdateTokenArrive ..)
  | atomicResultReturn fid => exact wfOut_of_keepsMem hs (keepsMem_execAtomicResultReturn ..)
  | spanMessageArrive port ptn till res bytes => exact wfOut_of_keepsMem hs (keepsMem_execSpanMessageArrive ..)
  | uncorrectableError pa => exact wfOut_of_keepsMem hs (keepsMem_execUncorrectableError ..)
  | latchParityError pg rt pos => exact wfOut_of_keepsMem hs (keepsMem_execLatchParityError ..)
  | correctedError die cls => exact wfOut_of_keepsMem hs (keepsMem_execCorrectedError ..)
  | grpEntryApply die ix => exact wfOut_of_keepsMem hs (keepsMem_execGrpEntryApply ..)
  | tcntApply rg => exact wfOut_of_keepsMem hs (keepsMem_execTcntApply ..)
  | drainStart rg => exact wfOut_of_keepsMem hs (keepsMem_execDrainStart ..)
  | meDrainPass pg me => exact wfOut_of_keepsMem hs (keepsMem_execMeDrainPass ..)
  | pageDrained pg => exact wfOut_of_keepsMem hs (keepsMem_execPageDrained ..)
  | quietCountExpire rg => exact wfOut_of_keepsMem hs (keepsMem_execQuietCountExpire ..)
  | statCountEmit pg unit => exact wfOut_of_keepsMem hs (keepsMem_execStatCountEmit ..)
  | tileTaskIssue rg => exact wfOut_of_keepsMem hs (keepsMem_execTileTaskIssue ..)
  | tileTaskSeal rg ix => exact wfOut_of_keepsMem hs (keepsMem_execTileTaskSeal ..)
  | escrowReserveStall rg ix => exact wfOut_of_keepsMem hs (keepsMem_execEscrowReserveStall ..)
  | rerunIssue rg ix => exact wfOut_of_keepsMem hs (keepsMem_execRerunIssue ..)
  | cutSnapInject rg => exact wfOut_of_keepsMem hs (keepsMem_execCutSnapInject ..)
  | schedulerCycle die => exact wfOut_of_keepsMem hs (keepsMem_execSchedulerCycle ..)
  | priorityAging die q => exact wfOut_of_keepsMem hs (keepsMem_execPriorityAging ..)
  | stealRequestServe rg => exact wfOut_of_keepsMem hs (keepsMem_execStealRequestServe ..)
  | safSlice pg g => exact wfOut_of_keepsMem hs (keepsMem_execSafSlice ..)
  | safOutput pg g => exact wfOut_of_keepsMem hs (keepsMem_execSafOutput ..)
  | safCtlHandle pg g => exact wfOut_of_keepsMem hs (keepsMem_execSafCtlHandle ..)
  | linkFifoApply l => exact wfOut_of_keepsMem hs (keepsMem_execLinkFifoApply ..)
  | groupTurnComplete l g => exact wfOut_of_keepsMem hs (keepsMem_execGroupTurnComplete ..)
  | linkHoldExpire l => exact wfOut_of_keepsMem hs (keepsMem_execLinkHoldExpire ..)
  | linkFlitFailure rg => exact wfOut_of_keepsMem hs (keepsMem_execLinkFlitFailure ..)
  | engineCompletionPost die q => exact wfOut_of_keepsMem hs (keepsMem_execEngineCompletionPost ..)
  | undoLogLow pg me => exact wfOut_of_keepsMem hs (keepsMem_execUndoLogLow ..)
  | preemptFreeze rg => exact wfOut_of_keepsMem hs (keepsMem_execPreemptFreeze ..)
  | vfReset ptn => exact wfOut_of_keepsMem hs (keepsMem_execVfReset ..)
  | hypervisorVfPreempt ptn => exact wfOut_of_keepsMem hs (keepsMem_execHypervisorVfPreempt ..)
  | hostMbxWrite ptn v => exact wfOut_of_keepsMem hs (keepsMem_execHostMbxWrite ..)
  | hostNotifyRead ptn => exact wfOut_of_keepsMem hs (keepsMem_execHostNotifyRead ..)
  | mbxerrClear ptn => exact wfOut_of_keepsMem hs (keepsMem_execMbxerrClear ..)
  | hostRegisterWrite ptn off v => exact wfOut_of_keepsMem hs (keepsMem_execHostRegisterWrite ..)
  | pfcmdRequest req => exact wfOut_of_keepsMem hs (keepsMem_execPfcmdRequest ..)
  | spdmRequest nonce => exact wfOut_of_keepsMem hs (keepsMem_execSpdmRequest ..)
  | tdiStateChange ptn st => exact wfOut_of_keepsMem hs (keepsMem_execTdiStateChange ..)
  | debugPolicySupply ptn sets signed => exact wfOut_of_keepsMem hs (keepsMem_execDebugPolicySupply ..)
  | manifestSign ptn man => exact wfOut_of_keepsMem hs (keepsMem_execManifestSign ..)
  | powerUp => exact wfOut_of_keepsMem hs (keepsMem_execPowerUp ..)
  | earlyServiceStart => exact wfOut_of_keepsMem hs (keepsMem_execEarlyServiceStart ..)
  | packageReady => exact wfOut_of_keepsMem hs (keepsMem_execPackageReady ..)
  | powerCap die mhz => exact wfOut_of_keepsMem hs (keepsMem_execPowerCap ..)
  | watchdogSet die n => exact wfOut_of_keepsMem hs (keepsMem_execWatchdogSet ..)
  | csrCtlWrite t cx n v => exact wfOut_of_keepsMem hs (keepsMem_execCsrCtlWrite ..)
  | csrAsidhiWrite t cx v => exact wfOut_of_keepsMem hs (keepsMem_execCsrAsidhiWrite ..)
  | csrAsidselWrite t cx v => exact wfOut_of_keepsMem hs (keepsMem_execCsrAsidselWrite ..)
  | csrPtillWrite t cx v => exact wfOut_of_keepsMem hs (keepsMem_execCsrPtillWrite ..)
  | groupEligible l g => exact wfOut_of_keepsMem hs (keepsMem_execGroupEligible ..)
  | vfRestore ptn => exact wfOut_of_keepsMem hs (keepsMem_execVfRestore ..)
  | lis fn o => exact wfOut_of_keepsMem hs (keepsMem_execLis ..)
  | _ => exact wfOut_of_keepsMem hs (keepsMem_exec_of_code rfl s)

theorem wfOut_runIssue : WfOut (runIssue s) := by
  unfold runIssue
  split
  · exact hs
  · split
    · exact wfOut_exec hs _
    · exact wf_of_mem hs (raise_mem ..)

theorem wfOut_step : WfOut (step s) := by
  unfold step
  split
  · next i l _ =>
    have hl : Memory.wf ({ s with agenda := l } : State).mem = true := hs
    split
    · next t ht => exact wfOut_runIssue (wf_of_wfOut (wfOut_exec hl i) ht)
    · trivial
    · trivial
  · split
    · exact wf_of_mem hs (begin_mem s)
    · exact hs

end

/-- Settles O6: a step either leaves memory as it is or replaces it through `memWrite`, which keeps the canonical form. -/
theorem stepKeepsMemoryCanonical : Obligations.StepKeepsMemoryCanonical := by
  intro s t hs ht
  exact wf_of_wfOut (wfOut_step hs) ht

end Sys2Proof.Machine
end

section
/-!
SUPPORT. The streams' own steps (R223, R224, R228, R240, R271, R396, R418), the windows of a shape and the writes through to
its record (R170, R173), the counts of tiles and their records (R90-R92): one equation or effect per case of each event, and
what telling a tile leaves of a unit's counts.
-/

set_option Elab.async false

namespace Sys2Proof.Machine

variable {s : State} {pg si sx unit : Nat} {p : Page} {me : Me} {m : Stream} {r : Region} {tok : Tok} {e : FaultInfo}

/-! ## Load streams (R223, R271, R396) -/

theorem streamRowIssue_runs (h : s.streamRuns pg si = true) :
    exec (.streamRowIssue pg si) s = .next (((s.streamDecode pg si).streamFetch pg si).streamEmit pg si) := by
  change execStreamRowIssue pg si s = _
  rw [execStreamRowIssue, if_pos h]

/-- A stream that is held emits all the same, unless its region is frozen. -/
theorem streamRowIssue_held (hr : s.regionOf pg = some r) (h : s.streamRuns pg si = false) (hst : r.st ≠ .frozen) :
    exec (.streamRowIssue pg si) s = .next (s.streamEmit pg si) := by
  change execStreamRowIssue pg si s = _
  simp [execStreamRowIssue, h, hr, hst]

section Emit

variable (hp : s.page? pg = some p) (hme : s.me? pg (si / 4) = some me) (hm : s.stream? pg si = some m)
  (hr : s.regionOf pg = some r) (hfree : p.outFree false (epMe (si / 4) (si % 4)) = true)
include hp hme hm hr hfree

theorem streamEmit_drain (hdue : m.drainDue = true) (hd : m.drained = false) :
    s.streamEmit pg si =
      (s.streamPut pg si (marker tagDrain)).modStream pg si fun m => { m with drained := true } := by
  simp only [State.streamEmit, hp, hme, hm, hr, hfree, hdue, hd, Bool.not_true, Bool.false_eq_true, if_false, if_true]

theorem streamEmit_snap (hdue : m.drainDue = false) (hs : m.snapDue = true) (hmay : s.snapMay pg m.ival = true) :
    s.streamEmit pg si = (s.streamPut pg si (marker tagSnap)).modStream pg si Stream.snap := by
  simp only [State.streamEmit, hp, hme, hm, hr, hfree, hdue, hs, hmay, Bool.not_true, Bool.false_eq_true, if_false, if_true]

end Emit

/-! ## The header of a shaped stream (R418) -/

section Header

variable {j : Nat} {bs : List Byte} (hm : s.stream? pg si = some m) (hat : m.hdrAt = some j) (hsh : m.desc.shape ≠ 0)
  (hcap : m.cap = none)
include hm hat hsh hcap

theorem streamHeaderCapture_asks (hj : j = 0) : exec (.streamHeaderCapture pg si) s = .next (s.askHeader pg si m) := by
  change execStreamHeaderCapture pg si s = _
  simp [execStreamHeaderCapture, hm, hat, hsh, hcap, hj]

theorem streamHeaderCapture_waits (hj : j ≠ 0) (hgot : piecesOf m.desc.shape 32 (m.got 0) = none) :
    exec (.streamHeaderCapture pg si) s = .next s := by
  change execStreamHeaderCapture pg si s = _
  simp [execStreamHeaderCapture, hm, hat, hsh, hcap, hj, hgot]

theorem streamHeaderCapture_faults {off : Nat} (hj : j ≠ 0) (hgot : piecesOf m.desc.shape 32 (m.got 0) = some bs)
    (hbad : hdrBad bs = some off) :
    exec (.streamHeaderCapture pg si) s =
      .next (State.streamFault (s.modStream pg si fun m =>
        { m with hdrAt := none, recs := m.recs.filter fun x => x.1 != 0 }) pg si (badRec off m.desc.shape)) := by
  change execStreamHeaderCapture pg si s = _
  simp [execStreamHeaderCapture, hm, hat, hsh, hcap, hj, hgot, hbad]

theorem streamHeaderCapture_captures (hj : j ≠ 0) (hgot : piecesOf m.desc.shape 32 (m.got 0) = some bs)
    (hgood : hdrBad bs = none) :
    exec (.streamHeaderCapture pg si) s =
      .next (State.modStream (s.modStream pg si fun m =>
        { m with hdrAt := none, recs := m.recs.filter fun x => x.1 != 0 }) pg si fun m => { m with cap := some (hdrOf bs) }) := by
  change execStreamHeaderCapture pg si s = _
  simp [execStreamHeaderCapture, hm, hat, hsh, hcap, hj, hgot, hgood]

end Header

/-! ## The boundary windows of a shaped stream (R170, R418) -/

section Window

variable {j : Nat} {h : ShapeHdr} {bs : List Byte} (hm : s.stream? pg si = some m) (hat : m.winAt = some j)
  (hcap : m.cap = some h)
include hm hat hcap

theorem streamWindowRead_asks (hgot : piecesOf (m.nextWin h).1 (m.nextWin h).2.2 (m.got 1) = none) :
    exec (.streamWindowRead pg si) s = .next (s.askWindow pg si m) := by
  change execStreamWindowRead pg si s = _
  simp only [execStreamWindowRead, hm, hat, hcap, hgot]

variable (hgot : piecesOf (m.nextWin h).1 (m.nextWin h).2.2 (m.got 1) = some bs)
include hgot

theorem streamWindowRead_short (hj : j < 8) (hshort : 4 - winReads h (m.nextWin h).2.1 ≠ 0) :
    exec (.streamWindowRead pg si) s = .next (s.modStream pg si fun x =>
      { x with winAt := some (8 + s.fc + (4 - winReads h (m.nextWin h).2.1)) }) := by
  change execStreamWindowRead pg si s = _
  simp only [execStreamWindowRead, hm, hat, hcap, hgot, if_pos (And.intro hj hshort)]

theorem streamWindowRead_waits (h8 : 8 ≤ j) (hfc : s.fc < j - 8) : exec (.streamWindowRead pg si) s = .next s := by
  change execStreamWindowRead pg si s = _
  simp only [execStreamWindowRead, hm, hat, hcap, hgot, if_neg fun hj : j < 8 ∧ _ => absurd hj.1 (Nat.not_lt.mpr h8),
    if_pos (And.intro h8 hfc)]

variable (hlong : ¬(j < 8 ∧ 4 - winReads h (m.nextWin h).2.1 ≠ 0)) (htime : ¬(8 ≤ j ∧ s.fc < j - 8))
include hlong htime

theorem streamWindowRead_faults (hw : windowOf h m.desc.shape (m.nextWin h).2.1 bs m.win.getLast? none = .error e) :
    exec (.streamWindowRead pg si) s =
      .next (State.streamFault (s.modStream pg si fun m =>
        { m with winAt := none, recs := m.recs.filter fun x => x.1 != 1 }) pg si e) := by
  change execStreamWindowRead pg si s = _
  simp only [execStreamWindowRead, hm, hat, hcap, hgot, if_neg hlong, if_neg htime, hw]

theorem streamWindowRead_joins {l : List Nat}
    (hw : windowOf h m.desc.shape (m.nextWin h).2.1 bs m.win.getLast? none = .ok l) :
    exec (.streamWindowRead pg si) s =
      .next (State.modStream (s.modStream pg si fun m =>
        { m with winAt := none, recs := m.recs.filter fun x => x.1 != 1 }) pg si fun m => { m with win := m.win ++ l }) := by
  change execStreamWindowRead pg si s = _
  simp only [execStreamWindowRead, hm, hat, hcap, hgot, if_neg hlong, if_neg htime, hw]

end Window

/-! ## Store streams (R224, R228, R240, R271, R396) -/

section Store

variable (hp : s.page? pg = some p) (hme : s.me? pg (si / 4) = some me) (hm : s.stream? pg si = some m)
include hp hme hm

theorem storeStreamToken_goes_on (htodo : m.todo ≠ []) (hrun : s.streamRuns pg si = true) :
    exec (.storeStreamToken pg si) s = .next (s.streamAsk pg si) := by
  change execStoreStreamToken pg si s = _
  simp only [execStoreStreamToken, hp, hme, hm, if_pos htodo, if_pos hrun]

variable (htodo : m.todo = []) (ht : p.headAt (epMe (si / 4) (si % 4)) = some tok)
include htodo ht

theorem storeStreamToken_snap (htag : tok.tag = tagSnap) (hmay : s.snapMay pg m.ival = true) :
    exec (.storeStreamToken pg si) s = .next ((s.storeTake pg si).modStream pg si Stream.snap) := by
  change execStoreStreamToken pg si s = _
  simp only [execStoreStreamToken, hp, hme, hm, htodo, ht, htag, hmay, ne_eq, not_true_eq_false, if_false, if_true]

theorem storeStreamToken_drain (htag : tok.tag = tagDrain) :
    exec (.storeStreamToken pg si) s = .next ((s.storeTake pg si).modStream pg si fun m => { m with drained := true }) := by
  change execStoreStreamToken pg si s = _
  have hne : tagDrain ≠ tagSnap := by decide
  simp only [execStoreStreamToken, hp, hme, hm, htodo, ht, htag, if_neg hne, ne_eq, not_true_eq_false, if_false, if_true]

variable (hopen : ¬(!m.valid ∨ !m.desc.isStore ∨ !s.streamRuns pg si ∨ (m.desc.shape ≠ 0 ∧ m.cap = none)))
include hopen

/-- A marker at the head of a store stream: a header sets its row, a length or poison marker is its fault, another is dropped. -/
theorem storeStreamToken_ctl (htag : tok.tag = tagCtl) :
    exec (.storeStreamToken pg si) s = .next (
      if tok.kind = 1 then
        (s.storeTake pg si).modStream pg si fun m => { m with cur := { m.cur with row := tok.hRow0 } }
      else if tok.kind = 3 then s.raiseMe pg si { cls := clsLen, code := tok.pay.toNat / 2 ^ 48 % 4 }
      else if tok.kind = 4 then s.raiseMe pg si { cls := clsPoison, code := 1, opnd := tok.pay.toNat % 2 ^ 56 }
      else s.storeTake pg si) := by
  change execStoreStreamToken pg si s = _
  have hs : tagCtl ≠ tagSnap := by decide
  have hd : tagCtl ≠ tagDrain := by decide
  simp only [execStoreStreamToken, hp, hme, hm, ht, htag, htodo, ne_eq, not_true_eq_false, if_neg hs, if_neg hd, if_neg hopen,
    if_false, if_true, apply_ite Host.Outcome.next, bits, Nat.pow_zero, Nat.div_one]
  rfl

theorem storeStreamToken_row (htag : tok.tag ≤ 4) :
    exec (.storeStreamToken pg si) s = .next (s.storeRowTok pg si me m (p.streamNet si) tok) := by
  change execStoreStreamToken pg si s = _
  have hs : tok.tag ≠ tagSnap := Nat.ne_of_lt (Nat.lt_succ_of_le htag)
  have hd : tok.tag ≠ tagDrain := Nat.ne_of_lt (htag.trans_lt (by decide))
  have hc : tok.tag ≠ tagCtl := Nat.ne_of_lt (htag.trans_lt (by decide))
  simp only [execStoreStreamToken, hp, hme, hm, ht, htodo, ne_eq, not_true_eq_false, if_neg hs, if_neg hd, if_neg hc,
    if_neg hopen, if_false]

end Store

theorem me?_modMe_same (s : State) (pg i : Nat) (f : Me → Me) : (s.modMe pg i f).me? pg i = (s.me? pg i).map f := by
  simp only [State.me?, State.modMe, page?_modPage_same]
  cases s.page? pg with
  | none => rfl
  | some p => simp

/-- A stream's fault leaves its ME with all but that stream. -/
theorem me?_streamFault (s : State) (pg si : Nat) (e : FaultInfo) :
    (s.streamFault pg si e).me? pg (si / 4) =
      (s.me? pg (si / 4)).map fun x =>
        { x with streams := x.streams.modify (si % 4) fun m => { m with withheld := true } } :=
  me?_modMe_same ..

/-- A row past the last one is a fault of the stream, and its ME withholds (R224). -/
theorem storeRowTok_past_withholds {net : Nat} (hme : s.me? pg (si / 4) = some me)
    (hrow : (m.desc.eff m.cap (m.desc.xf me)).rows ≤ m.cur.row) :
    ((s.storeRowTok pg si me m net tok).me? pg (si / 4)).map (·.withheld) = some true := by
  simp only [State.storeRowTok, if_pos hrow, me?_modMe_same, me?_streamFault, hme, Option.map_some]

/-! ## Windows of a shape register (R170) -/

section Refill

variable {sh : Shape} {q : Refill} {bs : List Byte} {l : List Nat}
  (hsh : (s.refillAsk pg sx).shape? pg sx = some sh) (hq : sh.refill = some q)
include hsh hq

theorem shapeWindowRefill_waits_for_reads
    (hgot : piecesOf (sh.addr + 0x20 + 256 * q.win) (4 * winCount sh.hdr q.win) q.got = none) :
    exec (.shapeWindowRefill pg sx) s = .next (s.refillAsk pg sx) := by
  change execShapeWindowRefill pg sx s = _
  simp only [execShapeWindowRefill, hsh, hq, hgot]

variable (hgot : piecesOf (sh.addr + 0x20 + 256 * q.win) (4 * winCount sh.hdr q.win) q.got = some bs)
include hgot

theorem shapeWindowRefill_short (hasked : q.asked < 5) (hshort : 4 - winReads sh.hdr q.win ≠ 0) :
    exec (.shapeWindowRefill pg sx) s = .next ((s.refillAsk pg sx).modShape pg sx fun y =>
      { y with refill := y.refill.map fun x =>
          { x with asked := 5, next := (s.refillAsk pg sx).fc + (4 - winReads sh.hdr q.win) } }) := by
  change execShapeWindowRefill pg sx s = _
  simp only [execShapeWindowRefill, hsh, hq, hgot, if_pos (And.intro hasked hshort)]

variable (hlong : ¬(q.asked < 5 ∧ 4 - winReads sh.hdr q.win ≠ 0))
include hlong

theorem shapeWindowRefill_waits (hfc : (s.refillAsk pg sx).fc < q.next) :
    exec (.shapeWindowRefill pg sx) s = .next (s.refillAsk pg sx) := by
  change execShapeWindowRefill pg sx s = _
  simp only [execShapeWindowRefill, hsh, hq, hgot, if_neg hlong, if_pos hfc]

variable (hfc : q.next ≤ (s.refillAsk pg sx).fc)
include hfc

theorem shapeWindowRefill_takes_place
    (hw : windowOf sh.hdr sh.addr q.win bs (if sh.win + 1 = q.win then sh.bnd.getLast? else none)
      (if q.win + 1 = sh.win then sh.bnd.head? else none) = .ok l) :
    exec (.shapeWindowRefill pg sx) s = .next ((s.refillAsk pg sx).modShape pg sx fun y =>
      { y with win := q.win, bnd := l, refill := none, stash := y.stash ++ (s.refillAsk pg sx).stashFor pg sx sh q }) := by
  change execShapeWindowRefill pg sx s = _
  simp only [execShapeWindowRefill, hsh, hq, hgot, if_neg hlong, if_neg (Nat.not_lt.mpr hfc), hw]

theorem shapeWindowRefill_faults
    (hw : windowOf sh.hdr sh.addr q.win bs (if sh.win + 1 = q.win then sh.bnd.getLast? else none)
      (if q.win + 1 = sh.win then sh.bnd.head? else none) = .error e) :
    exec (.shapeWindowRefill pg sx) s = .next ((s.refillAsk pg sx).refillFault pg sx e) := by
  change execShapeWindowRefill pg sx s = _
  simp only [execShapeWindowRefill, hsh, hq, hgot, if_neg hlong, if_neg (Nat.not_lt.mpr hfc), hw]

end Refill

/-- A refill that fails is dropped; an instruction whose result is known when it fires takes its fault (R203). -/
theorem refillFault_raises {sh : Shape} {q : Refill} (hsh : s.shape? pg sx = some sh) (hq : sh.refill = some q)
    (hfid : q.fid = none) : s.refillFault pg sx e = (s.dropRefill pg sx).raise q.who q.word e := by
  simp only [State.refillFault, hsh, hq, hfid, Option.bind_some]
  rfl

/-- An outstanding instruction whose refill fails takes the fault where it waits (R203). -/
theorem refillFault_faults_flight {sh : Shape} {q : Refill} {i : Nat} {f : Flight} (hsh : s.shape? pg sx = some sh)
    (hq : sh.refill = some q) (hfid : q.fid = some i) (hf : s.flight? i = some f) :
    s.refillFault pg sx e = (s.dropRefill pg sx).flightFault f e := by
  have hkept : ∀ g : Req → Bool, State.flight?
      { s.modShape pg sx fun sh => { sh with refill := none } with reqs := s.reqs.filter g } i = some f := fun _ => hf
  simp only [State.refillFault, hsh, hq, hfid, Option.bind_some, hkept]
  rfl

/-! ## Writes through to a record (R173) -/

/-- A write owed to the record of a shape register is marked as one that has entered its port. -/
def State.throughSent (s : State) (pg sx : Nat) (t : Through) : State :=
  s.modShape pg sx fun sh => { sh with through := sh.through.map fun x => if x.name = t.name then { x with sent := true } else x }

/-- It enters the port as a store of its `SHSET`. -/
def State.askThrough (s : State) (pg sx : Nat) (t : Through) : Except FaultInfo State :=
  (s.throughSent pg sx t).ask (.through pg sx t.name) (s.shapePort pg) t.by_.asid
    ⟨t.va, t.size, some (leBytes t.size t.val, allOnes t.size)⟩ t.by_.tt t.by_.who.node t.by_.ival

section Through

variable {sh : Shape} {t : Through} (hsh : s.shape? pg sx = some sh)
  (ht : (sh.through.find? fun t => !t.sent) = some t) (hdue : t.due ≤ s.fc) (hst : s.pageStored pg t.name = true)
  (hroom : s.portRoom (s.shapePort pg) (.through pg sx t.name) 1 = true)
include hsh ht hdue hst hroom

theorem shsetWriteThrough_enters {v : State} (ha : s.askThrough pg sx t = .ok v) :
    exec (.shsetWriteThrough pg sx) s = .next v := by
  change execShsetWriteThrough pg sx s = _
  simp only [State.askThrough, State.throughSent] at ha
  simp only [execShsetWriteThrough, hsh, ht, hst, hroom, Option.bind_some, Nat.not_lt.mpr hdue, Bool.not_true,
    Bool.false_eq_true, or_self, if_false, ha]

theorem shsetWriteThrough_faults (ha : s.askThrough pg sx t = .error e) :
    exec (.shsetWriteThrough pg sx) s = .next ((s.throughSent pg sx t).throughFault pg sx t.name e) := by
  change execShsetWriteThrough pg sx s = _
  simp only [State.askThrough, State.throughSent] at ha
  simp only [execShsetWriteThrough, State.throughSent, hsh, ht, hst, hroom, Option.bind_some, Nat.not_lt.mpr hdue,
    Bool.not_true, Bool.false_eq_true, or_self, if_false, ha]

end Through

/-! ## Counts of tiles (R90) -/

theorem alGet_alDel_same {α : Type} (k : Nat) (l : List (Nat × α)) : alGet k (alDel k l) = none := by
  induction l with
  | nil => rfl
  | cons x l ih =>
    obtain ⟨j, v⟩ := x
    by_cases h : j = k
    · simpa [alDel, h] using ih
    · simpa [alDel, alGet, h] using ih

/-- An element and a tenant have no counts left once they have told. -/
theorem unitCnts_tell (p : Page) {u : Nat} (hu : u < 16 ∨ u = 20 ∨ u = 21) :
    (p.tell u).unitCnts u = List.replicate 5 0 := by
  rcases hu with hu | rfl | rfl
  · simp only [Page.unitCnts, Page.tell, if_pos hu, List.getElem?_modify_eq]
    cases p.pes[u]? <;> rfl
  · simp only [Page.unitCnts, Page.tell, Nat.reduceLT, Nat.reduceSub, if_true, if_false, List.getElem?_modify_eq]
    cases p.mtx.tens[0]? <;> rfl
  · simp only [Page.unitCnts, Page.tell, Nat.reduceLT, Nat.reduceSub, if_true, if_false, List.getElem?_modify_eq]
    cases p.mtx.tens[1]? <;> rfl

/-- An ME that has told has no counts of updates left, and its streams none of the tile told. -/
theorem me_tell {u : Nat} (h16 : 16 ≤ u) (h20 : u < 20) (hm : (p.tell u).mes[u - 16]? = some me) :
    me.cnts = List.replicate 5 0 ∧ ∀ x ∈ me.streams, alGet (p.unitTold u) x.cnts = none := by
  have hlt : ¬u < 16 := Nat.not_lt.mpr h16
  simp only [Page.tell, if_neg hlt, if_pos h20, List.getElem?_modify_eq, Option.map_eq_map, Option.map_eq_some_iff] at hm
  obtain ⟨me', hme, rfl⟩ := hm
  refine ⟨rfl, fun x hx => ?_⟩
  obtain ⟨y, -, rfl⟩ := List.mem_map.mp hx
  simp only [Page.unitTold, if_neg hlt, if_pos h20, hme, Option.map_some, Option.getD_some, alGet_alDel_same]

/-- No graph of the shift-add fabric has counts left of the tile told. -/
theorem graphs_tell (p : Page) : ∀ g ∈ (p.tell 22).saf.graphs, alGet (p.unitTold 22) g.cnts = none := by
  intro g hg
  obtain ⟨y, -, rfl⟩ := List.mem_map.mp hg
  exact alGet_alDel_same ..

/-- A unit that has closed more tiles than it has told is there, and has told one more. -/
theorem unitTold_tell {u : Nat} (h : p.unitTold u < p.unitTiles u) : (p.tell u).unitTold u = p.unitTold u + 1 := by
  by_cases h16 : u < 16
  · simp only [Page.unitTold, Page.unitTiles, Page.tell, if_pos h16, List.getElem?_modify_eq] at h ⊢
    cases hx : p.pes[u]? with
    | none => simp [hx] at h
    | some x => rfl
  · by_cases h20 : u < 20
    · simp only [Page.unitTold, Page.unitTiles, Page.tell, if_neg h16, if_pos h20, List.getElem?_modify_eq] at h ⊢
      cases hx : p.mes[u - 16]? with
      | none => simp [hx] at h
      | some x => rfl
    · by_cases h22 : u < 22
      · simp only [Page.unitTold, Page.unitTiles, Page.tell, if_neg h16, if_neg h20, if_pos h22, List.getElem?_modify_eq] at h ⊢
        cases hx : p.mtx.tens[u - 20]? with
        | none => simp [hx] at h
        | some x => rfl
      · simp only [Page.unitTold, Page.tell, if_neg h16, if_neg h20, if_neg h22]

/-! ## Count tokens (R90) -/

/-- The class of a count token is read back. -/
theorem countToken_class {c u : Nat} (n : Nat) (hc : c < 16) (hu : u < 256) : bits (countToken c u n).toNat 63 60 = c := by
  simp only [bits, countToken, w64, BitVec.toNat_ofNat]
  omega

/-- So is its count, of 32 bits. -/
theorem countToken_count (c u n : Nat) : bits (countToken c u n).toNat 31 0 = min n (2 ^ 32 - 1) := by
  simp only [bits, countToken, w64, BitVec.toNat_ofNat]
  omega

/-- A sum over the classes with one summand that counts. -/
theorem foldl_range_single (f : Nat → Nat) (i k : Nat) :
    (List.range k).foldl (fun n j => if j = i then n + f j else n) 0 = if i < k then f i else 0 := by
  induction k with
  | zero => rfl
  | succ k ih =>
    rw [List.range_succ, List.foldl_append, ih]
    by_cases hk : k = i
    · simp [hk]
    · have hlt : i < k + 1 ↔ i < k := by omega
      simp [hk, hlt]

/-- The tokens of a tile carry its counts, of 32 bits each. -/
theorem tokenCounts_countTokens {u : Nat} (hu : u < 256) (c : List Nat) :
    tokenCounts (countTokens u c) = tab 5 fun i => min (c.getD i 0) (2 ^ 32 - 1) := by
  refine List.map_congr_left fun i hi => ?_
  rw [countTokens, List.foldl_filterMap]
  refine (List.foldl_ext _ _ 0 fun n j hj => ?_).trans
    ((foldl_range_single (fun j => min (c.getD j 0) (2 ^ 32 - 1)) i 5).trans (if_pos (List.mem_range.mp hi)))
  have hc : j + 1 < 16 := by have := List.mem_range.mp hj; omega
  by_cases hz : c.getD j 0 = 0
  · simp only [hz, if_true, Nat.zero_min, Nat.add_zero, ite_self]
  · simp only [if_neg hz, countToken_class _ hc hu, countToken_count, Nat.add_right_cancel_iff]

/-! ## Counts and records of a page (R90-R92) -/

/-- A page one of whose units has told the counts of its tile. -/
def Page.emitted (p : Page) (u : Nat) : Page :=
  { p.tell u with
    stat := p.stat.map fun z =>
      if bitAt z.mask (unitGroup u) then
        { z with tiles := joinTile (p.unitTold u) u (tokenCounts (countTokens u (p.unitCnts u))) z.tiles }
      else z }

theorem statCountEmit_of_owed (hp : s.page? pg = some p) (ho : p.owesCounts unit = true) :
    exec (.statCountEmit pg unit) s = .next (s.modPage pg fun p => p.emitted unit) := by
  change execStatCountEmit pg unit s = _
  simp only [execStatCountEmit, hp, ho, Bool.not_true, Bool.false_eq_true, if_false]
  rfl

theorem unitTold_lt_of_owesCounts (h : p.owesCounts unit = true) : p.unitTold unit < p.unitTiles unit := by
  simp only [Page.owesCounts, Bool.and_eq_true, decide_eq_true_eq] at h
  exact h.1.1

/-- The counts told join those of their tile, when the page collects from the unit's source. -/
theorem stat_emitted {z : Stat} (hz : p.stat = some z) (hmask : z.mask.testBit (unitGroup unit) = true) (hu : unit < 23) :
    (p.emitted unit).stat = some { z with
      tiles := joinTile (p.unitTold unit) unit (tab 5 fun i => min ((p.unitCnts unit).getD i 0) (2 ^ 32 - 1)) z.tiles } := by
  simp only [Page.emitted, hz, Option.map_some, bitAt, hmask, if_true, tokenCounts_countTokens (hu.trans (by decide))]

/-- The record of the first tile every source has told is written, and the page keeps that it has been (R92). -/
theorem statRecordWrite_writes {z : Stat} {t : TileStat} {x : Tlb} {u : State} (hp : s.page? pg = some p)
    (hr : s.regionOf pg = some r) (hz : p.stat = some z) (ht : z.tiles.find? (p.recordDue z) = some t)
    (habandoned : s.abandoned r t.pos = false)
    (hwalk : s.walk (dieOfPage pg) p.asid (z.base + 64 * (r.tileOf t.pos % max 1 z.nrec)) = .ok x)
    (haccess : s.accessFault (some (r.key, r.tileOf t.pos)) x .store false
      (z.base + 64 * (r.tileOf t.pos % max 1 z.nrec)) = none)
    (hwrite : s.write (.me pg (bits z.endp 13 8 % 4)) (some (r.key, r.tileOf t.pos))
      (((s.me? pg (bits z.endp 13 8 % 4)).map (·.ival)).getD 0) x.leaf
      (x.key (z.base + 64 * (r.tileOf t.pos % max 1 z.nrec))) (t.record r p (r.tileOf t.pos)) (allOnes 64) = .ok u) :
    exec (.statRecordWrite pg) s = .next (u.modPage pg fun p => p.recorded t) := by
  change execStatRecordWrite pg s = _
  simp only [execStatRecordWrite, hp, hr, hz, ht, habandoned, hwalk, haccess, hwrite, Bool.false_eq_true, if_false]

/-! ## The obligation -/

/-- Settles O54. Each clause is the equation or the effect of its event; that an ME's counts are kept by stream and tile, and
that a rollback-enabled page keeps the record it has written, are the model's choices (logs 119, 120). -/
theorem streamAndRecordEvents : Obligations.StreamAndRecordEvents := by
  unfold Obligations.StreamAndRecordEvents
  refine ⟨?_, ?_⟩
  · intro s pg si p me m r tok upd take step row hp hme hm hr
    refine ⟨streamRowIssue_runs, fun hrun hst hfree => ?_, fun j hat hsh hcap => ?_, fun j h hat hcap => ?_,
      storeStreamToken_goes_on hp hme hm, fun htodo ht => ?_⟩
    · have hrow : row = .next (s.streamEmit pg si) := streamRowIssue_held hr hrun hst
      exact ⟨fun hdue hd => hrow.trans (congrArg _ (streamEmit_drain hp hme hm hr hfree hdue hd)),
        fun hdue hs hmay => hrow.trans (congrArg _ (streamEmit_snap hp hme hm hr hfree hdue hs hmay))⟩
    · exact ⟨streamHeaderCapture_asks hm hat hsh hcap, streamHeaderCapture_waits hm hat hsh hcap,
        fun bs hj hgot => ⟨fun off => streamHeaderCapture_faults hm hat hsh hcap hj hgot,
          streamHeaderCapture_captures hm hat hsh hcap hj hgot⟩⟩
    · refine ⟨streamWindowRead_asks hm hat hcap, fun bs hgot => ⟨streamWindowRead_short hm hat hcap hgot,
        streamWindowRead_waits hm hat hcap hgot, fun hready => ?_⟩⟩
      have hlong : ¬(j < 8 ∧ 4 - winReads h (m.nextWin h).2.1 ≠ 0) := fun hj => hj.2 (by rwa [if_pos hj.1] at hready)
      have htime : ¬(8 ≤ j ∧ s.fc < j - 8) := fun hj => by
        rw [if_neg (Nat.not_lt.mpr hj.1)] at hready
        exact absurd hj.2 (Nat.not_lt.mpr hready)
      exact ⟨fun e => streamWindowRead_faults hm hat hcap hgot hlong htime,
        fun l => streamWindowRead_joins hm hat hcap hgot hlong htime⟩
    · refine ⟨storeStreamToken_snap hp hme hm htodo ht, storeStreamToken_drain hp hme hm htodo ht,
        fun hv hstore hrun hcap => ?_⟩
      have hopen : ¬(!m.valid ∨ !m.desc.isStore ∨ !s.streamRuns pg si ∨ (m.desc.shape ≠ 0 ∧ m.cap = none)) := by
        simp only [hv, hstore, hrun, Bool.not_true, Bool.false_eq_true, false_or]
        exact fun h => hcap h.1 h.2
      refine ⟨fun htag => ?_, fun htag => ?_⟩
      · have hctl := storeStreamToken_ctl hp hme hm htodo ht hopen htag
        refine ⟨fun hk => hctl.trans (congrArg _ (if_pos hk)), fun hk => hctl.trans (congrArg _ ?_),
          fun hk => hctl.trans (congrArg _ ?_)⟩
        · rw [if_neg (by omega), if_pos hk]
        · rw [if_neg (by omega), if_neg (by omega), if_pos hk]
      · have hrow := storeStreamToken_row hp hme hm htodo ht hopen htag
        exact ⟨fun hpast => ⟨_, hrow, storeRowTok_past_withholds hme hpast⟩, fun _ _ => hrow⟩
  · intro s pg sx unit p r sh upd
    refine ⟨fun q hsh hq => ⟨shapeWindowRefill_waits_for_reads hsh hq, fun bs hgot =>
        ⟨shapeWindowRefill_short hsh hq hgot, fun hready => ?_⟩⟩,
      fun t hsh ht hdue hst hroom => ⟨fun v => shsetWriteThrough_enters hsh ht hdue hst hroom,
        fun e => shsetWriteThrough_faults hsh ht hdue hst hroom⟩, fun hp hr hu ho => ?_,
      fun z t x u hp hr hz ht => ?_⟩
    · have hlong : ¬(q.asked < 5 ∧ 4 - winReads sh.hdr q.win ≠ 0) := by omega
      exact ⟨shapeWindowRefill_waits hsh hq hgot hlong, fun l hfc => shapeWindowRefill_takes_place hsh hq hgot hlong hfc,
        fun e hfc hw => ⟨shapeWindowRefill_faults hsh hq hgot hlong hfc hw, refillFault_raises hsh hq,
          fun i f => refillFault_faults_flight hsh hq⟩⟩
    · refine ⟨_, p.emitted unit, statCountEmit_of_owed hp ho, ?_, unitCnts_tell p, fun m hm h16 h20 => me_tell h16 h20 hm,
        ?_, unitTold_tell (unitTold_lt_of_owesCounts ho), fun z hz hmask => stat_emitted hz hmask hu⟩
      · rw [page?_modPage_same, hp, Option.map_some]
      · rintro rfl
        exact graphs_tell p
    · exact fun habandoned hwalk haccess hwrite =>
        ⟨_, statRecordWrite_writes hp hr hz ht habandoned hwalk haccess hwrite, fun y => rfl⟩

end Sys2Proof.Machine
end

section
/-!
SUPPORT. Integers of a TY as numbers (R35, R80, R97, R98): patterns and their readings are those of bit vectors of the same width;
what wrapping and clamping leave of a number; and when two results put the same pattern into D.
-/

namespace Sys2Proof

/-! ## Patterns -/

theorem signed_eq_toInt (x w : Nat) : signed x w = (BitVec.ofNat w x).toInt := by
  rw [BitVec.toInt_eq_toNat_cond, BitVec.toNat_ofNat, signed]
  split
  next h => subst h; simp [Nat.mod_one]
  next => rfl

theorem signed_mod (x w : Nat) : signed (x % 2 ^ w) w = signed x w := by
  simp only [signed, Nat.mod_mod]

theorem signed_eq_zero_iff (x w : Nat) : signed x w = 0 ↔ x % 2 ^ w = 0 := by
  rw [signed_eq_toInt, ← BitVec.toInt_zero (w := w), BitVec.toInt_inj, BitVec.toNat_eq]
  simp

theorem pattern_eq_toNat (e : Int) (w : Nat) : pattern e w = (BitVec.ofInt w e).toNat := (BitVec.toNat_ofInt e).symm

theorem pattern_lt (e : Int) (w : Nat) : pattern e w < 2 ^ w := by
  rw [pattern_eq_toNat]; exact BitVec.isLt _

theorem pattern_mod_self (e : Int) (w : Nat) : pattern e w % 2 ^ w = pattern e w := Nat.mod_eq_of_lt (pattern_lt e w)

theorem natCast_pattern (e : Int) (w : Nat) : (pattern e w : Int) = e % (2 ^ w : Nat) :=
  Int.toNat_of_nonneg (Int.emod_nonneg e (by exact_mod_cast (Nat.two_pow_pos w).ne'))

theorem pattern_natCast (n w : Nat) : pattern (n : Int) w = n % 2 ^ w := by
  rw [pattern, ← Int.natCast_mod, Int.toNat_natCast]

theorem pattern_eq_iff {e e' : Int} {w : Nat} : pattern e w = pattern e' w ↔ e % (2 ^ w : Nat) = e' % (2 ^ w : Nat) := by
  rw [← natCast_pattern, ← natCast_pattern, Int.natCast_inj]

theorem pattern_signed (x w : Nat) : pattern (signed x w) w = x % 2 ^ w := by
  rw [pattern_eq_toNat, signed_eq_toInt, BitVec.ofInt_toInt, BitVec.toNat_ofNat]

theorem ofNat_pattern (e : Int) (w : Nat) : BitVec.ofNat w (pattern e w) = BitVec.ofInt w e := by
  rw [pattern_eq_toNat, BitVec.ofNat_toNat, BitVec.setWidth_eq]

/-- The high half of a 2w-bit pattern is the pattern of the floor of the quotient by 2^w. -/
theorem pattern_two_mul_div (e : Int) (w : Nat) : pattern e (2 * w) / 2 ^ w = pattern (e / (2 ^ w : Nat)) w := by
  have hm : 0 < (2 : Int) ^ w := by positivity
  have hrest : e % (2 ^ w * 2 ^ w) = e + 2 ^ w * -(2 ^ w * (e / 2 ^ w / 2 ^ w)) := by
    rw [Int.emod_def, Int.ediv_ediv_of_nonneg hm.le]; ring
  zify
  rw [natCast_pattern, natCast_pattern, two_mul, Nat.pow_add]
  push_cast
  rw [hrest, Int.add_mul_ediv_left _ _ hm.ne', Int.emod_def]
  rfl

namespace Machine

/-! ## Readings at a TY -/

variable (ty : Nat)

theorem tyWidth_of_signed (h : tySigned ty = true) : 8 ≤ tyWidth ty := by
  have hty : ty < 4 := by simpa [tySigned] using h
  have hall : ∀ t < 4, 8 ≤ tyWidth t := by decide
  exact hall ty hty

theorem readTy_mod (x : Nat) : readTy ty (x % 2 ^ tyWidth ty) = readTy ty x := by
  simp only [readTy, signed_mod, Nat.mod_mod]

theorem readTy_eq_zero_iff (x : Nat) : readTy ty x = 0 ↔ x % 2 ^ tyWidth ty = 0 := by
  unfold readTy
  split
  · exact signed_eq_zero_iff x _
  · exact Int.natCast_eq_zero

/-- Reading loses nothing of the pattern. -/
theorem pattern_readTy (x : Nat) : pattern (readTy ty x) (tyWidth ty) = x % 2 ^ tyWidth ty := by
  unfold readTy
  split
  · exact pattern_signed x _
  · rw [pattern_natCast, Nat.mod_mod]

theorem tyMin_le_readTy (x : Nat) : tyMin ty ≤ readTy ty x := by
  unfold tyMin readTy
  split
  · rw [signed_eq_toInt]; exact_mod_cast BitVec.le_toInt _
  · exact Int.natCast_nonneg _

theorem readTy_le_tyMax (x : Nat) : readTy ty x ≤ tyMax ty := by
  unfold tyMax readTy
  split
  · rw [signed_eq_toInt]; exact Int.le_sub_one_of_lt (by exact_mod_cast BitVec.toInt_lt)
  · exact Int.le_sub_one_of_lt (by exact_mod_cast Nat.mod_lt x (Nat.two_pow_pos _))

theorem fits_readTy (x : Nat) : fits ty (readTy ty x) = true := by
  simp [fits, tyMin_le_readTy, readTy_le_tyMax]

theorem tyMin_le_tyMax : tyMin ty ≤ tyMax ty := (tyMin_le_readTy ty 0).trans (readTy_le_tyMax ty 0)

/-! ## Wrapping and clamping -/

theorem wrapTy_of_fits {e : Int} (h : fits ty e = true) : wrapTy ty e = e := by
  simp only [fits, Bool.and_eq_true, decide_eq_true_eq] at h
  obtain ⟨hlo, hhi⟩ := h
  unfold tyMin at hlo
  unfold tyMax at hhi
  unfold wrapTy readTy
  split
  next hs =>
    rw [if_pos hs] at hlo hhi
    have hw := tyWidth_of_signed ty hs
    rw [signed_eq_toInt, ofNat_pattern]
    exact BitVec.toInt_ofInt_eq_self (by omega) (by exact_mod_cast hlo) (by push_cast at hhi; omega)
  next hs =>
    rw [if_neg hs] at hlo hhi
    rw [pattern_mod_self, natCast_pattern]
    exact Int.emod_eq_of_lt hlo (by omega)

theorem wrapTy_eq_self_iff (e : Int) : wrapTy ty e = e ↔ fits ty e = true :=
  ⟨fun h => h ▸ fits_readTy ty _, wrapTy_of_fits ty⟩

theorem clampTy_eq_self_iff (e : Int) : clampTy ty e = e ↔ fits ty e = true := by
  have h := tyMin_le_tyMax ty
  simp only [clampTy, fits, Bool.and_eq_true, decide_eq_true_eq]
  omega

theorem wrapTy_bne (e : Int) : (wrapTy ty e != e) = !fits ty e := by
  rw [Bool.eq_iff_iff, bne_iff_ne, Ne, wrapTy_eq_self_iff, Bool.not_eq_true, Bool.not_eq_true']

theorem clampTy_bne (e : Int) : (clampTy ty e != e) = !fits ty e := by
  rw [Bool.eq_iff_iff, bne_iff_ne, Ne, clampTy_eq_self_iff, Bool.not_eq_true, Bool.not_eq_true']

/-! ## Results in D -/

variable {ty} {s : State} {w : Who} {x : Word} {o : FormR} {r r' : Int} {flag flag' : Bool} {ev : List Nat}

/-- D and the outcome hold the pattern of a result only: two results with one pattern fire alike (R36, R98). -/
theorem scalarFired_congr (h : pattern r (tyWidth o.ty.toNat) = pattern r' (tyWidth o.ty.toNat)) (hf : flag = flag') :
    s.scalarFired w x o r flag ev = s.scalarFired w x o r' flag' ev := by
  unfold State.scalarFired extTy
  rw [h, hf]

theorem pattern_valAt (s : State) (w : Who) (ty : BitVec 4) (c : BitVec 5) :
    pattern (s.valAt w ty c) (tyWidth ty.toNat) = s.patAt w ty c := pattern_readTy _ _

theorem patAt_lt (s : State) (w : Who) (ty : BitVec 4) (c : BitVec 5) : s.patAt w ty c < 2 ^ tyWidth ty.toNat :=
  Nat.mod_lt _ (Nat.two_pow_pos _)

end Machine

end Sys2Proof
end

section
/-!
SUPPORT. Addition, logic, minimum and maximum, multiplication and division of scalars (R99, R102-R107, R109), and the words that
accept only some TY (R42, defect 3).
-/

namespace Sys2Proof

/-! ## Defect 3 -/

/-- The row of `opc` and `fn` is a Form R one whose TY an element and a teller check alike, against the set `tys`. -/
def checksTy (opc : BitVec 7) (fn : BitVec 3) (tys : Nat) : Bool :=
  !reservedOpc.contains opc.toNat && decide (fn.toNat < fnCount opc.toNat) && !isFormI opc.toNat &&
    opc != 0x18 && opc != 0x1B && !(wspec opc.toNat fn.toNat).ign && (wspec opc.toNat fn.toNat).tys == tys

/-- Defect 3 is the first one to look for in a word of a listed row. -/
theorem defect_eq_three_iff {ag : AgentKind} {x : Word} (hr : reservedOpc.contains (opcOf x) = false)
    (hn : fnOf x < fnCount (opcOf x)) : defect ag x = 3 ↔ tyBad (wspec (opcOf x) (fnOf x)) ag x = true := by
  simp only [defect, hr, Nat.not_le.mpr hn, Bool.false_eq_true, if_false]
  split
  next h => simp [h]
  next h =>
    refine iff_of_false ?_ h
    repeat' split
    all_goals decide

theorem defect_packR_eq_three_iff {opc : BitVec 7} {fn : BitVec 3} {tys : Nat} (h : checksTy opc fn tys = true) (ag : AgentKind)
    (o : FormR) : defect ag (packR opc fn o) = 3 ↔ o.ty = 15 ∨ tys.testBit o.ty.toNat = false := by
  simp only [checksTy, Bool.and_eq_true, Bool.not_eq_true', decide_eq_true_eq, bne_iff_ne, beq_iff_eq] at h
  obtain ⟨⟨⟨⟨⟨⟨hr, hn⟩, hform⟩, hsend⟩, htagr⟩, hign⟩, htys⟩ := h
  have hsend' : (opc.toNat == 0x18) = false := beq_eq_false_iff_ne.mpr fun e => hsend (BitVec.eq_of_toNat_eq e)
  have htagr' : (opc.toNat == 0x1B) = false := beq_eq_false_iff_ne.mpr fun e => htagr (BitVec.eq_of_toNat_eq e)
  have hty : (o.ty.toNat == 15) = true ↔ o.ty = 15 := beq_iff_eq.trans ⟨fun e => BitVec.eq_of_toNat_eq e, fun e => e ▸ rfl⟩
  rw [defect_eq_three_iff (by rwa [opcOf_packR]) (by rwa [opcOf_packR, fnOf_packR])]
  simp only [tyBad, opcOf_packR, fnOf_packR, field_packR_ty, hform, hign, htys, hsend', htagr', Bool.or_false, Bool.and_false,
    Bool.false_eq_true, if_false, Bool.not_false, Bool.true_and, Bool.or_eq_true, Bool.not_eq_true', hty]

/-- Defect 3 of a word whose row accepts the types that `accepts` holds of. -/
theorem defect_eq_three_iff_not {i : Instr} {opc : Nat} {fn : BitVec 3} {o : FormR} {x : Word} {tys : Nat} {ag : AgentKind}
    {accepts : BitVec 4 → Prop} (ha : ∀ ty, ty = 15 ∨ tys.testBit ty.toNat = false ↔ ¬ accepts ty)
    (hc : i.code? = some (opc, fn, .r o)) (h : checksTy (BitVec.ofNat 7 opc) fn tys = true) (hx : encode i = some x) :
    defect ag x = 3 ↔ ¬ accepts o.ty := by
  rw [Machine.word_eq hx (encode_of_codeR hc), defect_packR_eq_three_iff h, ha]

theorem not_accepted_tyInt : ∀ ty : BitVec 4, ty = 15 ∨ tyInt.testBit ty.toNat = false ↔ ¬ ty.toNat < 8 := by decide

theorem not_accepted_tyS : ∀ ty : BitVec 4, ty = 15 ∨ tyS.testBit ty.toNat = false ↔ ¬ ty.toNat < 4 := by decide

theorem not_accepted_tyN :
    ∀ ty : BitVec 4, ty = 15 ∨ tyN.testBit ty.toNat = false ↔ ¬ (4 ≤ ty.toNat ∧ ty.toNat < 8) := by decide

theorem not_accepted_tyIntB :
    ∀ ty : BitVec 4, ty = 15 ∨ tyIntB.testBit ty.toNat = false ↔ ¬ (ty.toNat < 8 ∨ ty.toNat = 14) := by decide

namespace Machine

variable {s : State} {i : Instr} {w : Who} {x : Word} {o : FormR}

/-! ## Wrapped and clamped results -/

theorem rWrap_eq (ty : Nat) (e : Int) : rWrap ty e = { r := wrapTy ty e, flag := wrapTy ty e != e, ev := [] } := by
  rw [wrapTy_bne]; rfl

theorem rClamp_eq (ty : Nat) (e : Int) :
    rClamp ty e = { r := clampTy ty e, flag := clampTy ty e != e, ev := if clampTy ty e = e then [] else evSat } := by
  rw [clampTy_bne]; rfl

theorem scalarR_wrap (f : Int → Int → Int) (h : Fires s i o.g w x) :
    let e := f (s.valAt w o.ty o.a) (s.valAt w o.ty o.b)
    scalarR o (fun x y => rWrap o.ty.toNat (f x y)) s =
      .next (s.scalarFired w x o (wrapTy o.ty.toNat e) (wrapTy o.ty.toNat e != e) []) := by
  simpa only [rWrap_eq] using scalarR_ok (fun x y => rWrap o.ty.toNat (f x y)) h

theorem scalarR_clamp (f : Int → Int → Int) (h : Fires s i o.g w x) :
    let e := f (s.valAt w o.ty o.a) (s.valAt w o.ty o.b)
    scalarR o (fun x y => rClamp o.ty.toNat (f x y)) s =
      .next (s.scalarFired w x o (clampTy o.ty.toNat e) (clampTy o.ty.toNat e != e)
        (if clampTy o.ty.toNat e = e then [] else evSat)) := by
  simpa only [rClamp_eq] using scalarR_ok (fun x y => rClamp o.ty.toNat (f x y)) h

theorem scalarR3_wrap (f : Int → Int → Int → Int) (h : Fires s i o.g w x) :
    let e := f (s.valAt w o.ty o.d) (s.valAt w o.ty o.a) (s.valAt w o.ty o.b)
    scalarR3 o (fun d x y => rWrap o.ty.toNat (f d x y)) s =
      .next (s.scalarFired w x o (wrapTy o.ty.toNat e) (wrapTy o.ty.toNat e != e) []) := by
  simpa only [rWrap_eq] using scalarR3_ok (fun d x y => rWrap o.ty.toNat (f d x y)) h

theorem scalarR3_clamp (f : Int → Int → Int → Int) (h : Fires s i o.g w x) :
    let e := f (s.valAt w o.ty o.d) (s.valAt w o.ty o.a) (s.valAt w o.ty o.b)
    scalarR3 o (fun d x y => rClamp o.ty.toNat (f d x y)) s =
      .next (s.scalarFired w x o (clampTy o.ty.toNat e) (clampTy o.ty.toNat e != e)
        (if clampTy o.ty.toNat e = e then [] else evSat)) := by
  simpa only [rClamp_eq] using scalarR3_ok (fun d x y => rClamp o.ty.toNat (f d x y)) h

/-! ## Bitwise operations, minimum and maximum -/

theorem scalarR_bitwise (f : Nat → Nat → Nat) (h : Fires s i o.g w x) :
    scalarR o (bitwise o.ty.toNat f) s =
      .next (s.scalarFired w x o (readTy o.ty.toNat (f (s.patAt w o.ty o.a) (s.patAt w o.ty o.b))) false []) := by
  refine (scalarR_ok _ h).trans ?_
  simp only [bitwise, pattern_valAt, readTy_mod]

/-- The complement of a w-bit pattern flips its w bits. -/
theorem notW_eq_xor {w n : Nat} (h : n < 2 ^ w) : notW w n = n ^^^ (2 ^ w - 1) := by
  rw [notW, Nat.mod_eq_of_lt h, Nat.sub_sub, Nat.add_comm 1 n]
  refine Nat.eq_of_testBit_eq fun j => ?_
  rw [Nat.testBit_two_pow_sub_succ h, Nat.testBit_xor, Nat.testBit_two_pow_sub_one]
  by_cases hj : j < w
  · simp [hj]
  · simp [hj, Nat.testBit_lt_two_pow (h.trans_le (Nat.pow_le_pow_right (by decide) (Nat.not_lt.mp hj)))]

theorem scalarR_min (h : Fires s i o.g w x) :
    scalarR o (fun x y => { r := min x y }) s = .next (s.scalarFired w x o
      (if s.valAt w o.ty o.a ≤ s.valAt w o.ty o.b then s.valAt w o.ty o.a else s.valAt w o.ty o.b) false []) := by
  rw [← min_def]; exact scalarR_ok _ h

theorem scalarR_max (h : Fires s i o.g w x) :
    scalarR o (fun x y => { r := max x y }) s = .next (s.scalarFired w x o
      (if s.valAt w o.ty o.a ≤ s.valAt w o.ty o.b then s.valAt w o.ty o.b else s.valAt w o.ty o.a) false []) := by
  rw [← max_def]; exact scalarR_ok _ h

/-- Settles O12. The result is the wrapped or clamped one, whose flag is that it differs from the exact one
(`wrapTy_eq_self_iff`, `clampTy_eq_self_iff`); the bitwise operations see only patterns. -/
theorem addLogicAndMinMax : Obligations.AddLogicAndMinMax := by
  unfold Obligations.AddLogicAndMinMax
  refine ⟨fun o s w x => ⟨fun ag => ⟨?_, ?_, ?_⟩, scalarR_wrap (· + ·), scalarR_clamp (· + ·), scalarR_clamp (· + ·),
      scalarR_wrap (· - ·), scalarR_clamp (· - ·), scalarR_clamp (· - ·)⟩,
    fun o s w x => ⟨fun ag => ⟨?_, ?_, ?_⟩, scalarR_bitwise _, scalarR_bitwise _, scalarR_bitwise _, ?_, ?_, ?_,
      scalarR_min, scalarR_max, scalarR_min, scalarR_max⟩⟩
  · rintro (hx | hx) <;> exact defect_eq_three_iff_not not_accepted_tyInt rfl rfl hx
  · rintro (hx | hx) <;> exact defect_eq_three_iff_not not_accepted_tyS rfl rfl hx
  · rintro (hx | hx) <;> exact defect_eq_three_iff_not not_accepted_tyN rfl rfl hx
  · rintro (hx | hx | hx | hx | hx | hx) <;> exact defect_eq_three_iff_not not_accepted_tyIntB rfl rfl hx
  · rintro (hx | hx) <;> exact defect_eq_three_iff_not not_accepted_tyS rfl rfl hx
  · rintro (hx | hx) <;> exact defect_eq_three_iff_not not_accepted_tyN rfl rfl hx
  · exact fun h => (scalarR_bitwise _ h).trans (by rw [notW_eq_xor (patAt_lt s w o.ty o.b)])
  · exact fun h => (scalarR_bitwise _ h).trans (by rw [notW_eq_xor (patAt_lt s w o.ty o.b)])
  · exact fun h => (scalarR_bitwise _ h).trans 
      (by rw [notW_eq_xor (Nat.xor_lt_two_pow (patAt_lt s w o.ty o.a) (patAt_lt s w o.ty o.b))])

end Machine

end Sys2Proof
end

section
/-!
SUPPORT. Multiplication and division of scalars (R99, R104-R106).
-/

namespace Sys2Proof.Machine

variable {s : State} {i : Instr} {w : Who} {x : Word} {o : FormR}

theorem fits_valAt (s : State) (w : Who) (ty : BitVec 4) (c : BitVec 5) : fits ty.toNat (s.valAt w ty c) = true :=
  fits_readTy _ _

/-! ## Products -/

theorem scalarR_mulHigh (h : Fires s i o.g w x) :
    scalarR o (fun x y => { r := mulHigh o.ty.toNat (x * y) }) s = .next (s.scalarFired w x o
      (wrapTy o.ty.toNat (s.valAt w o.ty o.a * s.valAt w o.ty o.b / (2 ^ tyWidth o.ty.toNat : Nat))) false []) := by
  rw [wrapTy, ← pattern_two_mul_div]; exact scalarR_ok _ h

/-! ## Quotients -/

/-- The quotient that leaves its type: the least value of a signed type divided by -1 (R106). -/
def quotOverflows (ty : Nat) (a b : Int) : Bool := tySigned ty && a == tyMin ty && b == -1

theorem quotOverflows_iff {ty : Nat} {a b : Int} :
    quotOverflows ty a b = true ↔ tySigned ty = true ∧ a = tyMin ty ∧ b = -1 := by
  simp only [quotOverflows, Bool.and_eq_true, beq_iff_eq, and_assoc]

/-- Only -m by -1 has a quotient outside [-m, m), for a dividend in it. -/
theorem tdiv_mem_Ico {m a b : Int} (hlo : -m ≤ a) (hhi : a < m) (h : ¬(a = -m ∧ b = -1)) :
    -m ≤ a.tdiv b ∧ a.tdiv b < m := by
  have hle : (a.tdiv b).natAbs ≤ a.natAbs := by rw [Int.natAbs_tdiv]; exact Nat.div_le_self ..
  refine ⟨by omega, ?_⟩
  by_contra hge
  have hm : a = -m := by omega
  have habs : a.natAbs / b.natAbs = a.natAbs := by
    have hdiv : (a.tdiv b).natAbs = a.natAbs / b.natAbs := Int.natAbs_tdiv a b
    omega
  have hb : b.natAbs = 1 := by
    by_contra hb
    rcases Nat.lt_or_gt_of_ne hb with hlt | hgt
    · rw [Nat.lt_one_iff.mp hlt, Nat.div_zero] at habs; omega
    · exact absurd habs (Nat.div_lt_self (by omega) hgt).ne
  rcases Int.natAbs_eq_iff.mp hb with rfl | rfl
  · rw [Nat.cast_one, Int.tdiv_one] at hge; omega
  · exact h ⟨hm, rfl⟩

/-- A quotient of values of a type is a value of it, but for the one that overflows. -/
theorem fits_tdiv {ty : Nat} {a b : Int} (ha : fits ty a = true) (hb : fits ty b = true) (h : quotOverflows ty a b = false) :
    fits ty (a.tdiv b) = true := by
  have hq : ¬(tySigned ty = true ∧ a = tyMin ty ∧ b = -1) := by rw [← quotOverflows_iff, h]; exact Bool.false_ne_true
  simp only [fits, Bool.and_eq_true, decide_eq_true_eq] at ha hb ⊢
  obtain ⟨halo, hahi⟩ := ha
  obtain ⟨hblo, -⟩ := hb
  by_cases hs : tySigned ty = true
  · simp only [tyMin, tyMax, if_pos hs, Int.le_sub_one_iff] at halo hahi hq ⊢
    exact tdiv_mem_Ico halo hahi fun hm => hq ⟨hs, hm⟩
  · simp only [tyMin, tyMax, if_neg hs] at halo hahi hblo ⊢
    exact ⟨Int.tdiv_nonneg halo hblo, (Int.tdiv_le_self b halo).trans hahi⟩

/-- The least value of a signed type is its own negation, wrapped. -/
theorem wrapTy_neg_tyMin {ty : Nat} (hs : tySigned ty = true) : wrapTy ty (-tyMin ty) = tyMin ty := by
  have hmin : fits ty (tyMin ty) = true := by simp [fits, tyMin_le_tyMax]
  have hpow : (2 ^ tyWidth ty : Nat) = 2 * 2 ^ (tyWidth ty - 1) := by
    rw [← Nat.pow_succ', Nat.succ_eq_add_one, Nat.sub_add_cancel (tyWidth_pos ty)]
  have hpat : pattern (-tyMin ty) (tyWidth ty) = pattern (tyMin ty) (tyWidth ty) := by
    rw [pattern_eq_iff, tyMin, if_pos hs, hpow]
    exact Int.emod_eq_emod_iff_emod_sub_eq_zero.mpr (Int.emod_eq_zero_of_dvd ⟨1, by push_cast; ring⟩)
  rw [wrapTy, hpat, ← wrapTy, wrapTy_of_fits ty hmin]

theorem divQuot_eq {ty : Nat} {a b : Int} (ha : fits ty a = true) (hb : fits ty b = true) :
    divQuot ty a b =
      { r := if b = 0 then (if a < 0 then tyMin ty else tyMax ty) else wrapTy ty (a.tdiv b)
        flag := b == 0 || quotOverflows ty a b
        ev := if b = 0 ∧ a ≠ 0 then evDivZero else [] } := by
  unfold divQuot
  by_cases hz : b = 0
  · simp [hz, noEvents]
  · cases hq : quotOverflows ty a b with
    | true =>
      obtain ⟨hs, rfl, rfl⟩ := quotOverflows_iff.mp hq
      simp [hs, wrapTy_neg_tyMin hs]
    | false =>
      rw [wrapTy_of_fits ty (fits_tdiv ha hb hq)]
      simp [hz, ← quotOverflows_iff, hq]

theorem divRem_eq {ty : Nat} {a b : Int} :
    divRem ty a b =
      { r := if b = 0 then a else a - b * a.tdiv b
        flag := b == 0 || quotOverflows ty a b
        ev := if b = 0 ∧ a ≠ 0 then evDivZero else [] } := by
  unfold divRem
  by_cases hz : b = 0
  · simp [hz, noEvents]
  · cases hq : quotOverflows ty a b with
    | true => simp [quotOverflows_iff.mp hq]
    | false => simp [hz, ← quotOverflows_iff, hq, Int.tmod_def]

theorem scalarR_divQuot (h : Fires s i o.g w x) :
    let a := s.valAt w o.ty o.a
    let b := s.valAt w o.ty o.b
    scalarR o (divQuot o.ty.toNat) s = .next (s.scalarFired w x o
      (if b = 0 then (if a < 0 then tyMin o.ty.toNat else tyMax o.ty.toNat) else wrapTy o.ty.toNat (a.tdiv b))
      (b == 0 || quotOverflows o.ty.toNat a b) (if b = 0 ∧ a ≠ 0 then evDivZero else [])) := by
  simpa only [divQuot_eq (fits_valAt s w o.ty o.a) (fits_valAt s w o.ty o.b)] using scalarR_ok (divQuot o.ty.toNat) h

theorem scalarR_divRem (h : Fires s i o.g w x) :
    let a := s.valAt w o.ty o.a
    let b := s.valAt w o.ty o.b
    scalarR o (divRem o.ty.toNat) s = .next (s.scalarFired w x o (if b = 0 then a else a - b * a.tdiv b)
      (b == 0 || quotOverflows o.ty.toNat a b) (if b = 0 ∧ a ≠ 0 then evDivZero else [])) := by
  simpa only [divRem_eq] using scalarR_ok (divRem o.ty.toNat) h

/-- Settles O13. The high half is the floor of the product by 2^w (`pattern_two_mul_div`); a quotient needs no wrapping but for
the one that overflows (`fits_tdiv`), which wraps to its dividend (`wrapTy_neg_tyMin`). -/
theorem multiplyAndDivide : Obligations.MultiplyAndDivide := by
  unfold Obligations.MultiplyAndDivide
  exact ⟨fun o s w x => ⟨scalarR_wrap (· * ·), scalarR_mulHigh, scalarR_mulHigh, scalarR3_wrap (fun d a b => d + a * b),
      scalarR3_clamp (fun d a b => d + a * b)⟩,
    fun o s w x => ⟨scalarR_divQuot, scalarR_divQuot, scalarR_divRem, scalarR_divRem⟩⟩

end Sys2Proof.Machine
end

section
/-!
SUPPORT. Shifts, rotations, bit counts and bit fields of scalars (R108, R110).
-/

namespace Sys2Proof.Machine

variable {s : State} {i : Instr} {w : Who} {x : Word} {o : FormR}

/-! ## Shifts of a pattern -/

/-- The bits of a pattern that a left shift pushes out. -/
theorem div_two_pow_sub {W n p : Nat} (hn : n ≤ W) : p / 2 ^ (W - n) = p * 2 ^ n / 2 ^ W := by
  conv_rhs => rw [← Nat.sub_add_cancel hn, Nat.pow_add, Nat.mul_div_mul_right _ _ (Nat.two_pow_pos n)]

theorem shlW_flag {W n p : Nat} (hp : p < 2 ^ W) (hn : n < W) : (shlW W p n).2 = decide (2 ^ W ≤ p * 2 ^ n) := by
  rw [shlW, Nat.mod_eq_of_lt hp, div_two_pow_sub hn.le, Bool.eq_iff_iff]
  simp only [Bool.and_eq_true, bne_iff_ne, decide_eq_true_eq, Nat.div_ne_zero_iff]
  refine ⟨fun h => h.1.2, fun h => ⟨⟨(Nat.two_pow_pos W).ne', h⟩, ?_⟩⟩
  rintro rfl
  omega

/-- A rotation keeps the bits that a shift by n pushes out, at the other end. -/
theorem rolW_fst {W n p : Nat} (hp : p < 2 ^ W) (hn : n ≤ W) :
    (rolW W p n).1 = (p * 2 ^ n % 2 ^ W + p * 2 ^ n / 2 ^ W) % 2 ^ W := by
  rw [rolW, Nat.mod_eq_of_lt hp, div_two_pow_sub hn, Nat.mod_add_mod]

/-- The remainder of B by the width is a shift amount. -/
theorem shiftAmount_lt (n ty : Nat) : n % tyWidth ty < tyWidth ty := Nat.mod_lt _ (tyWidth_pos ty)

theorem shiftR_shl (h : Fires s i o.g w x) :
    let p := s.patAt w o.ty o.a
    let n := (s.taken.readS w o.b.toNat).toNat % tyWidth o.ty.toNat
    shiftR o shlW s = .next (s.scalarFired w x o (readTy o.ty.toNat (p * 2 ^ n))
      (decide (2 ^ tyWidth o.ty.toNat ≤ p * 2 ^ n)) []) := by
  intro p n
  refine (shiftR_ok shlW h).trans ?_
  rw [shlW_flag (patAt_lt s w o.ty o.a) (shiftAmount_lt _ _), shlW, readTy_mod]

theorem shiftR_shr (h : Fires s i o.g w x) :
    let p := s.patAt w o.ty o.a
    let n := (s.taken.readS w o.b.toNat).toNat % tyWidth o.ty.toNat
    shiftR o shrW s = .next (s.scalarFired w x o (readTy o.ty.toNat (p / 2 ^ n)) (p % 2 ^ n != 0) []) := by
  intro p n
  refine (shiftR_ok shrW h).trans ?_
  rw [shrW, Nat.mod_eq_of_lt (patAt_lt s w o.ty o.a)]

/-- An arithmetic shift is the floor of the value by 2^n, of a signed and of an unsigned type. -/
theorem shiftR_sar (h : Fires s i o.g w x) :
    let n := (s.taken.readS w o.b.toNat).toNat % tyWidth o.ty.toNat
    shiftR o (if tySigned o.ty.toNat then sarW else shrW) s = .next (s.scalarFired w x o
      (s.valAt w o.ty o.a / (2 ^ n : Nat)) (s.patAt w o.ty o.a % 2 ^ n != 0) []) := by
  intro n
  refine (shiftR_ok _ h).trans (congrArg Host.Outcome.next (scalarFired_congr ?_ ?_))
  · rw [pattern_readTy]
    unfold State.valAt State.patAt readTy
    split
    · rw [sarW, signed_mod, pattern_mod_self]
    · rw [shrW, Nat.mod_mod, ← Int.natCast_ediv, pattern_natCast]
  · split <;> rfl

theorem shiftR_rol (h : Fires s i o.g w x) :
    let p := s.patAt w o.ty o.a
    let n := (s.taken.readS w o.b.toNat).toNat % tyWidth o.ty.toNat
    let W := tyWidth o.ty.toNat
    shiftR o rolW s = .next (s.scalarFired w x o (readTy o.ty.toNat (p * 2 ^ n % 2 ^ W + p * 2 ^ n / 2 ^ W)) false []) := by
  intro p n W
  refine (shiftR_ok rolW h).trans ?_
  rw [rolW_fst (patAt_lt s w o.ty o.a) (shiftAmount_lt _ _).le, readTy_mod]
  rfl

/-! ## Shifts of 64 bits by an immediate -/

theorem ofNat_shlW (y : Word) (k : Nat) : BitVec.ofNat 64 (shlW 64 y.toNat k).1 = y <<< k := by
  apply BitVec.eq_of_toNat_eq
  rw [shlW, BitVec.toNat_ofNat, Nat.mod_mod, BitVec.toNat_shiftLeft, Nat.shiftLeft_eq]

theorem ofNat_shrW (y : Word) (k : Nat) : BitVec.ofNat 64 (shrW 64 y.toNat k).1 = y >>> k := by
  apply BitVec.eq_of_toNat_eq
  rw [shrW, BitVec.toNat_ofNat, Nat.mod_eq_of_lt y.isLt, BitVec.toNat_ushiftRight, Nat.shiftRight_eq_div_pow]
  exact Nat.mod_eq_of_lt ((Nat.div_le_self ..).trans_lt y.isLt)

theorem ofNat_sarW (y : Word) (k : Nat) : BitVec.ofNat 64 (sarW 64 y.toNat k).1 = y.sshiftRight k := by
  rw [sarW, ofNat_pattern, signed_eq_toInt, BitVec.ofNat_toNat, BitVec.setWidth_eq, ← Int.shiftRight_eq_div_pow]
  rfl

theorem ofNat_rolW (y : Word) {k : Nat} (hk : k < 64) : BitVec.ofNat 64 (rolW 64 y.toNat k).1 = y.rotateLeft k := by
  apply BitVec.eq_of_toNat_eq
  have hlow : y.toNat * 2 ^ k % 2 ^ 64 = 2 ^ k * (y.toNat % 2 ^ (64 - k)) := by
    rw [← Nat.mul_mod_mul_left, ← Nat.pow_add, Nat.add_sub_cancel' hk.le, Nat.mul_comm]
  have hhigh : y.toNat * 2 ^ k / 2 ^ 64 < 2 ^ k :=
    Nat.div_lt_of_lt_mul (Nat.mul_lt_mul_of_pos_right y.isLt (Nat.two_pow_pos k))
  rw [rolW_fst y.isLt hk.le, BitVec.toNat_ofNat, Nat.mod_mod, BitVec.rotateLeft_def, Nat.mod_eq_of_lt hk, BitVec.toNat_or,
    BitVec.toNat_shiftLeft, Nat.shiftLeft_eq, BitVec.toNat_ushiftRight, Nat.shiftRight_eq_div_pow, div_two_pow_sub hk.le, hlow,
    Nat.two_pow_add_eq_or_of_lt hhigh]
  exact Nat.mod_eq_of_lt (Nat.or_lt_two_pow (hlow ▸ Nat.mod_lt _ (Nat.two_pow_pos 64))
    (hhigh.trans (Nat.pow_lt_pow_right (by decide) hk)))

section Immediate
variable {m : FormI}

theorem shiftI_ok (f : Nat → Nat → Nat → Nat × Bool) (h : Fires s i m.g w x) :
    shiftI m f s = .next (s.immFired w x m (BitVec.ofNat 64 (f 64 (s.taken.readS w m.a.toNat).toNat m.imm.toNat).1)) :=
  scalarI_ok _ h

theorem shiftI_shl (h : Fires s i m.g w x) :
    shiftI m shlW s = .next (s.immFired w x m (s.taken.readS w m.a.toNat <<< m.imm.toNat)) := by
  rw [shiftI_ok shlW h, ofNat_shlW]

theorem shiftI_shr (h : Fires s i m.g w x) :
    shiftI m shrW s = .next (s.immFired w x m (s.taken.readS w m.a.toNat >>> m.imm.toNat)) := by
  rw [shiftI_ok shrW h, ofNat_shrW]

theorem shiftI_sar (h : Fires s i m.g w x) :
    shiftI m sarW s = .next (s.immFired w x m ((s.taken.readS w m.a.toNat).sshiftRight m.imm.toNat)) := by
  rw [shiftI_ok sarW h, ofNat_sarW]

theorem shiftI_rol (hk : m.imm.toNat < 64) (h : Fires s i m.g w x) :
    shiftI m rolW s = .next (s.immFired w x m ((s.taken.readS w m.a.toNat).rotateLeft m.imm.toNat)) := by
  rw [shiftI_ok rolW h, ofNat_rolW _ hk]

end Immediate

/-! ## Bits counted and reversed -/

theorem testBit_comp_succ (p : Nat) : p.testBit ∘ Nat.succ = (p / 2).testBit :=
  funext fun i => Nat.testBit_succ p i

theorem popcount_eq (n p : Nat) : popcount n p = (List.range n).countP p.testBit := by
  induction n generalizing p with
  | zero => rfl
  | succ n ih =>
    rw [popcount, ih, List.range_succ_eq_map, List.countP_cons, List.countP_map, testBit_comp_succ, Nat.testBit_zero]
    rcases Nat.mod_two_eq_zero_or_one p with h | h <;> simp [h, Nat.add_comm]

theorem ctzW_eq (n p : Nat) : ctzW n p = (List.range n).findIdx p.testBit := by
  induction n generalizing p with
  | zero => rfl
  | succ n ih =>
    rw [ctzW, ih, List.range_succ_eq_map, List.findIdx_cons, List.findIdx_map, testBit_comp_succ, Nat.testBit_zero]
    rcases Nat.mod_two_eq_zero_or_one p with h | h <;> simp [h, Nat.add_comm]

theorem brevW_lt (n p : Nat) : brevW n p < 2 ^ n := by
  induction n generalizing p with
  | zero => exact Nat.one_pos
  | succ n ih =>
    have := ih (p / 2)
    rw [brevW, Nat.pow_succ]
    rcases Nat.mod_two_eq_zero_or_one p with h | h <;> rw [h] <;> omega

theorem testBit_brevW {n p j : Nat} (hj : j < n) : (brevW n p).testBit j = p.testBit (n - 1 - j) := by
  induction n generalizing p with
  | zero => omega
  | succ n ih =>
    rw [brevW, Nat.mul_comm, Nat.testBit_two_pow_mul_add _ (brevW_lt n _)]
    split
    next hlt => rw [ih hlt, ← Nat.testBit_succ]; congr 1; omega
    next hge =>
      have hjn : j = n := by omega
      subst hjn
      simp [Nat.testBit_zero]

theorem findIdx_congr {α : Type} {f g : α → Bool} {l : List α} (h : ∀ a ∈ l, f a = g a) : l.findIdx f = l.findIdx g := by
  induction l with
  | nil => rfl
  | cons a l ih =>
    rw [List.findIdx_cons, List.findIdx_cons, h a (List.mem_cons_self ..), ih fun b hb => h b (List.mem_cons_of_mem _ hb)]

/-- The trailing zeros of the reversed pattern are the leading zeros. -/
theorem ctzW_brevW (n p : Nat) : ctzW n (brevW n p) = (List.range n).findIdx fun j => p.testBit (n - 1 - j) := by
  rw [ctzW_eq]
  exact findIdx_congr fun j hj => testBit_brevW (List.mem_range.mp hj)

theorem foldl_brevW (n p r : Nat) :
    (List.range n).foldl (fun r j => 2 * r + (p.testBit j).toNat) r = r * 2 ^ n + brevW n p := by
  induction n generalizing p r with
  | zero => simp [brevW]
  | succ n ih =>
    have hstep : (fun (r : Nat) (j : Nat) => 2 * r + (p.testBit j.succ).toNat) =
        fun r j => 2 * r + ((p / 2).testBit j).toNat := by
      funext r j; rw [← Nat.testBit_succ]
    have hbit : (p.testBit 0).toNat = p % 2 := by
      rw [Nat.testBit_zero]
      rcases Nat.mod_two_eq_zero_or_one p with h | h <;> simp [h]
    rw [List.range_succ_eq_map, List.foldl_cons, List.foldl_map, hstep, ih, hbit, brevW]
    ring

/-! ## Fields -/

/-- The bits of a number with `l` bits of another put in at `lo` (R110, R112). -/
theorem testBit_putField (d v lo l j : Nat) :
    (d % 2 ^ lo + v % 2 ^ l * 2 ^ lo + d / 2 ^ (lo + l) * 2 ^ (lo + l)).testBit j =
      if lo ≤ j ∧ j < lo + l then v.testBit (j - lo) else d.testBit j := by
  have hlow : d % 2 ^ lo < 2 ^ lo := Nat.mod_lt _ (Nat.two_pow_pos lo)
  have hmid : 2 ^ lo * (v % 2 ^ l) + d % 2 ^ lo < 2 ^ (lo + l) := by
    have : v % 2 ^ l + 1 ≤ 2 ^ l := Nat.mod_lt _ (Nat.two_pow_pos l)
    calc 2 ^ lo * (v % 2 ^ l) + d % 2 ^ lo < 2 ^ lo * (v % 2 ^ l + 1) := by rw [Nat.mul_succ]; omega
      _ ≤ 2 ^ (lo + l) := by rw [Nat.pow_add]; exact Nat.mul_le_mul_left _ this
  rw [Nat.add_comm, Nat.add_comm (d % 2 ^ lo), Nat.mul_comm (v % 2 ^ l), Nat.mul_comm (d / _),
    Nat.testBit_two_pow_mul_add _ hmid, Nat.testBit_two_pow_mul_add _ hlow]
  split
  next h =>
    split
    next h' => rw [if_neg (by omega), Nat.testBit_mod_two_pow]; simp [h']
    next h' => rw [if_pos (by omega), Nat.testBit_mod_two_pow]; simp [show j - lo < l by omega]
  next h => rw [if_neg (by omega), Nat.testBit_div_two_pow]; congr 1; omega

theorem putField_zero (d v lo : Nat) : d % 2 ^ lo + v % 2 ^ 0 * 2 ^ lo + d / 2 ^ (lo + 0) * 2 ^ (lo + 0) = d := by
  rw [Nat.pow_zero, Nat.mod_one, Nat.zero_mul, Nat.add_zero, Nat.add_zero, Nat.mod_add_div']

theorem ite_putField (d v lo l : Nat) :
    (if l = 0 then d else d % 2 ^ lo + v % 2 ^ l * 2 ^ lo + d / 2 ^ (lo + l) * 2 ^ (lo + l)) =
      d % 2 ^ lo + v % 2 ^ l * 2 ^ lo + d / 2 ^ (lo + l) * 2 ^ (lo + l) := by
  split
  next h => rw [h, putField_zero]
  next => rfl

/-- The same as the number masked and joined with the shifted field, in W bits that hold it. -/
theorem putField_eq_or {W lo l d : Nat} (v : Nat) (hd : d < 2 ^ W) (hl : l = 0 ∨ lo + l ≤ W) :
    d % 2 ^ lo + v % 2 ^ l * 2 ^ lo + d / 2 ^ (lo + l) * 2 ^ (lo + l) =
      (d &&& ((2 ^ l - 1) * 2 ^ lo ^^^ (2 ^ W - 1))) ||| (v % 2 ^ l * 2 ^ lo) := by
  refine Nat.eq_of_testBit_eq fun j => ?_
  rw [testBit_putField, Nat.testBit_or, Nat.testBit_and, Nat.testBit_xor, Nat.testBit_two_pow_sub_one, Nat.testBit_mul_two_pow,
    Nat.testBit_mul_two_pow, Nat.testBit_mod_two_pow, Nat.testBit_two_pow_sub_one]
  have habove : W ≤ j → d.testBit j = false := fun h =>
    Nat.testBit_lt_two_pow (hd.trans_le (Nat.pow_le_pow_right (by decide) h))
  by_cases hin : lo ≤ j ∧ j < lo + l
  · have hj : j - lo < l := by omega
    have hW : j < W := by omega
    simp [hin, hj, hW]
  · have hout : (decide (lo ≤ j) && decide (j - lo < l)) = false := by
      simp only [Bool.and_eq_false_iff, decide_eq_false_iff_not]; omega
    by_cases hW : j < W
    · simp [hin, hout, hW, ← Bool.and_assoc]
    · simp [hin, hout, hW, ← Bool.and_assoc, habove (Nat.not_lt.mp hW)]

/-! ## `BIT` -/

theorem scalarR_popc (h : Fires s i o.g w x) :
    scalarR o (fun x _ => let w := tyWidth o.ty.toNat; { r := popcount w (pattern x w) }) s = .next (s.scalarFired w x o
      ((List.range (tyWidth o.ty.toNat)).countP fun j => (s.patAt w o.ty o.a).testBit j) false []) := by
  refine (scalarR_ok _ h).trans ?_
  simp only [pattern_valAt, popcount_eq]

theorem scalarR_clz (h : Fires s i o.g w x) :
    scalarR o (fun x _ => let w := tyWidth o.ty.toNat; { r := ctzW w (brevW w (pattern x w)) }) s =
      .next (s.scalarFired w x o ((List.range (tyWidth o.ty.toNat)).findIdx fun j =>
        (s.patAt w o.ty o.a).testBit (tyWidth o.ty.toNat - 1 - j)) false []) := by
  refine (scalarR_ok _ h).trans ?_
  simp only [pattern_valAt, ctzW_brevW]

theorem scalarR_ctz (h : Fires s i o.g w x) :
    scalarR o (fun x _ => let w := tyWidth o.ty.toNat; { r := ctzW w (pattern x w) }) s = .next (s.scalarFired w x o
      ((List.range (tyWidth o.ty.toNat)).findIdx fun j => (s.patAt w o.ty o.a).testBit j) false []) := by
  refine (scalarR_ok _ h).trans ?_
  simp only [pattern_valAt, ctzW_eq]

theorem scalarR_brev (h : Fires s i o.g w x) :
    scalarR o (fun x _ => let w := tyWidth o.ty.toNat; { r := readTy o.ty.toNat (brevW w (pattern x w)) }) s =
      .next (s.scalarFired w x o (readTy o.ty.toNat ((List.range (tyWidth o.ty.toNat)).foldl
        (fun r j => 2 * r + ((s.patAt w o.ty o.a).testBit j).toNat) 0)) false []) := by
  refine (scalarR_ok _ h).trans ?_
  simp only [pattern_valAt, foldl_brevW, Nat.zero_mul, Nat.zero_add]

/-- Reading a field leaves out what its length cuts off. -/
theorem bextOf_eq (ty x b : Nat) :
    let lo := bits b 5 0
    let l := min (bits b 13 8) (tyWidth ty - lo)
    let p := x % 2 ^ tyWidth ty
    bextOf ty x b =
      { r := if tySigned ty then signed (p / 2 ^ lo) l else ((p / 2 ^ lo % 2 ^ l : Nat) : Int)
        flag := bits b 13 8 == 0 || decide (l < bits b 13 8) } := by
  intro lo l p
  change ({ r := if tySigned ty then signed (p / 2 ^ lo % 2 ^ l) l else _, flag := _ } : IntRes) = _
  rw [signed_mod]

/-- Where a field has any length it lies inside the pattern. -/
theorem bitField_fits (W lo len : Nat) : min len (W - lo) = 0 ∨ lo + min len (W - lo) ≤ W := by omega

theorem binsOf_eq (ty d x b : Nat) :
    let W := tyWidth ty
    let lo := bits b 5 0
    let l := min (bits b 13 8) (W - lo)
    binsOf ty d x b =
      { r := readTy ty ((d % 2 ^ W &&& ((2 ^ l - 1) * 2 ^ lo ^^^ (2 ^ W - 1))) ||| (x % 2 ^ W % 2 ^ l * 2 ^ lo))
        flag := bits b 13 8 == 0 || decide (l < bits b 13 8) } := by
  intro W lo l
  have hl : l ≤ W := (Nat.min_le_right ..).trans (Nat.sub_le ..)
  rw [Nat.mod_mod_of_dvd _ (Nat.pow_dvd_pow 2 hl),
    ← putField_eq_or x (Nat.mod_lt d (Nat.two_pow_pos W)) (bitField_fits W lo (bits b 13 8))]
  change ({ r := readTy ty (if l = 0 then _ else _), flag := _ } : IntRes) = _
  rw [ite_putField]

/-- A word that reads B whole, whatever its TY. -/
theorem fireTimed_scalar {k : Who → Word → State → Except FaultInfo Done} {q : IntRes} (h : Fires s i o.g w x)
    (hk : k w x s.taken = .ok (scalarDone s.taken w o.d.toNat o.a.toNat o.b.toNat o.ty.toNat q)) :
    fireTimed o.g k s = .next (s.scalarFired w x o q.r q.flag q.ev) := fireTimed_ok h hk

/-- Settles O14. The shifts of a pattern are those of the model's pairs (`shlW_flag`, `rolW_fst`), the counts those of its
recursions over the width (`popcount_eq`, `ctzW_eq`, `foldl_brevW`), and a field put in is `putField_eq_or`. -/
theorem shiftsAndBitOperations : Obligations.ShiftsAndBitOperations := by
  unfold Obligations.ShiftsAndBitOperations
  refine ⟨fun o m s w x => ⟨shiftR_shl, shiftR_shr, shiftR_sar, shiftR_rol, fun _ => shiftI_shl, fun _ => shiftI_shr,
      fun _ => shiftI_sar, shiftI_rol⟩,
    fun o s w x => ⟨scalarR_popc, scalarR_clz, scalarR_ctz, scalarR_brev, fun h => ?_, fun h => ?_⟩⟩
  · change execBitBext o s = _
    rw [execBitBext, fireTimed_scalar h rfl, bextOf_eq]
    rfl
  · change execBitBins o s = _
    rw [execBitBins, fireTimed_scalar h rfl, binsOf_eq]
    rfl

end Sys2Proof.Machine
end

section
/-!
SUPPORT. Moves, constants and addresses (R101, R103, R111-R113).
-/

namespace Sys2Proof.Machine

variable {s : State} {i : Instr} {w : Who} {x : Word} {o : FormR} {m : FormI}

/-! ## Moves -/

theorem nop_fires (h : Fires s (.nop o) o.g w x) : exec (.nop o) s = .next (s.fired w x o.g {}) := by
  change execNop o s = _
  exact fireTimed_ok h rfl

theorem scalarR_id (h : Fires s i o.g w x) :
    scalarR o (fun x _ => { r := x }) s = .next (s.scalarFired w x o (s.valAt w o.ty o.a) false []) := scalarR_ok _ h

theorem scalarR3_movk (h : Fires s i o.g w x) :
    scalarR3 o (fun d x y =>
      let w := tyWidth o.ty.toNat
      { r := readTy o.ty.toNat ((pattern d w &&& notW w (pattern y w)) ||| (pattern x w &&& pattern y w)) }) s =
    .next (s.scalarFired w x o (readTy o.ty.toNat
      ((s.patAt w o.ty o.d &&& (s.patAt w o.ty o.b ^^^ (2 ^ tyWidth o.ty.toNat - 1))) |||
        (s.patAt w o.ty o.a &&& s.patAt w o.ty o.b))) false []) := by
  refine (scalarR3_ok _ h).trans ?_
  simp only [pattern_valAt, notW_eq_xor (patAt_lt s w o.ty o.b)]

theorem valAt_eq_zero_iff (s : State) (w : Who) (ty : BitVec 4) (c : BitVec 5) : s.valAt w ty c = 0 ↔ s.patAt w ty c = 0 :=
  readTy_eq_zero_iff _ _

theorem scalarR3_sel (h : Fires s i o.g w x) :
    scalarR3 o (fun d x y => { r := if d ≠ 0 then x else y }) s = .next (s.scalarFired w x o
      (if s.patAt w o.ty o.d = 0 then s.valAt w o.ty o.b else s.valAt w o.ty o.a) false []) := by
  refine (scalarR3_ok _ h).trans ?_
  simp only [ne_eq, ite_not, valAt_eq_zero_iff]

/-- Of the values of a type only the least, of a signed type, has no absolute value in it. -/
theorem wrapTy_abs {ty : Nat} {a : Int} (ha : fits ty a = true) :
    wrapTy ty (if a < 0 then -a else a) = if a = tyMin ty then a else (a.natAbs : Int) := by
  have hfit := wrapTy_of_fits ty (e := a.natAbs)
  have hself := wrapTy_of_fits ty ha
  by_cases hs : tySigned ty = true
  · by_cases hm : a = tyMin ty
    · subst hm
      have := wrapTy_neg_tyMin hs
      split <;> simp [*]
    · have habs : (if a < 0 then -a else a) = (a.natAbs : Int) := by split <;> omega
      rw [habs, if_neg hm]
      apply hfit
      simp only [fits, tyMin, tyMax, if_pos hs, Bool.and_eq_true, decide_eq_true_eq] at ha hm ⊢
      omega
  · have hnn : 0 ≤ a := by
      simp only [fits, tyMin, if_neg hs, Bool.and_eq_true, decide_eq_true_eq] at ha
      exact ha.1
    rw [if_neg (not_lt.mpr hnn), Int.natAbs_of_nonneg hnn, ite_self, hself]

theorem scalarR_abs (h : Fires s i o.g w x) :
    let a := s.valAt w o.ty o.a
    scalarR o (fun x _ => { r := wrapTy o.ty.toNat (if x < 0 then -x else x), flag := x == tyMin o.ty.toNat }) s =
      .next (s.scalarFired w x o (if a = tyMin o.ty.toNat then a else (a.natAbs : Int)) (a == tyMin o.ty.toNat) []) := by
  refine (scalarR_ok _ h).trans ?_
  simp only [wrapTy_abs (fits_valAt s w o.ty o.a)]

theorem scalarR_neg (h : Fires s i o.g w x) :
    let a := s.valAt w o.ty o.a
    scalarR o (fun x _ => { r := wrapTy o.ty.toNat (-x)
                            flag := if tySigned o.ty.toNat then x == tyMin o.ty.toNat else x != 0 }) s =
      .next (s.scalarFired w x o (wrapTy o.ty.toNat (-a))
        (if tySigned o.ty.toNat then a == tyMin o.ty.toNat else a != 0) []) := scalarR_ok _ h

theorem moveExt_ok (f : Nat → Nat → Word) (h : Fires s i o.g w x) :
    moveExt o f s = .next (s.fired w x o.g
      { wr := writeS o.d.toNat (s.taken.tagOf w o.a.toNat o.b.toNat) (f (tyWidth o.ty.toNat) (s.patAt w o.ty o.a))
        outcome := s.patAt w o.ty o.a != 0 }) := fireTimed_ok h rfl

/-! ## Constants -/

theorem sext14_eq (k : BitVec 14) : sext14 k.toNat = BitVec.ofInt 64 k.toInt := by
  rw [sext14, signed_eq_toInt, BitVec.ofNat_toNat, BitVec.setWidth_eq]

theorem scalarI_addi (h : Fires s i m.g w x) :
    scalarI m (fun a i => a + sext14 i) s =
      .next (s.immFired w x m (s.taken.readS w m.a.toNat + BitVec.ofInt 64 m.imm.toInt)) := by
  rw [scalarI_ok _ h, sext14_eq]

theorem scalarI_li (h : Fires s i m.g w x) :
    scalarI m (fun _ i => sext14 i) s = .next (s.immFired w x m (BitVec.ofInt 64 m.imm.toInt)) := by
  rw [scalarI_ok _ h, sext14_eq]

/-- A field of a register replaced: the mask clears its place, the shifted value fills it. -/
theorem ofNat_putField (d : Word) (v : BitVec 14) (lo n : Nat) (hv : v.toNat < 2 ^ n) :
    BitVec.ofNat 64 (d.toNat % 2 ^ lo + v.toNat % 2 ^ n * 2 ^ lo + d.toNat / 2 ^ (lo + n) * 2 ^ (lo + n)) =
      (d &&& ~~~(((2 ^ n - 1) <<< lo : Nat) : Word)) ||| (v.setWidth 64 <<< lo) := by
  apply BitVec.eq_of_getLsbD_eq
  intro j hj
  rw [BitVec.getLsbD_ofNat, testBit_putField, BitVec.getLsbD_or, BitVec.getLsbD_and, BitVec.getLsbD_not, BitVec.natCast_eq_ofNat,
    BitVec.getLsbD_ofNat, Nat.testBit_shiftLeft, Nat.testBit_two_pow_sub_one, BitVec.getLsbD_shiftLeft, BitVec.getLsbD_setWidth]
  have hj' : j - lo < 64 := by omega
  by_cases hlo : lo ≤ j
  · by_cases hn : j - lo < n
    · simp [hj, hj', hlo, hn, show j < lo + n by omega, show ¬ j < lo by omega, BitVec.getLsbD]
    · have hv' : v.toNat.testBit (j - lo) = false :=
        Nat.testBit_lt_two_pow (hv.trans_le (Nat.pow_le_pow_right (by decide) (Nat.not_lt.mp hn)))
      simp [hj, hj', hlo, hn, show ¬ j < lo + n by omega, BitVec.getLsbD, hv']
  · simp [hj, hlo, show j < lo by omega, BitVec.getLsbD]

theorem lis_fires {fn : BitVec 3} (himm : fn = 4 → m.imm.toNat < 256) (h : Fires s (.lis fn m) m.g w x) :
    let lo := 14 * fn.toNat
    let mask : Word := (if fn = 4 then 0xFF else 0x3FFF) <<< lo
    exec (.lis fn m) s = .next (s.fired w x m.g
      { wr := writeS m.d.toNat tagData ((s.taken.readS w m.d.toNat &&& ~~~mask) ||| (m.imm.setWidth 64 <<< lo)) }) := by
  intro lo mask
  have hfield := ofNat_putField (s.taken.readS w m.d.toNat) m.imm lo (if fn = 4 then 8 else 14) (by
    split
    next h4 => exact himm h4
    next => exact m.imm.isLt)
  have hones : 2 ^ (if fn = 4 then 8 else 14) - 1 = if fn = 4 then 0xFF else 0x3FFF := by split <;> rfl
  rw [hones] at hfield
  rw [← hfield]
  change execLis fn m s = _
  exact fireTimed_ok h rfl

/-! ## Addresses -/

theorem extTy_readTy (ty v : Nat) : extTy ty (readTy ty v) = BitVec.ofInt 64 (readTy ty v) := by
  rw [extTy, pattern_readTy, readTy_mod]

/-- An index scaled by a shift is the index times the power of two. -/
theorem ofInt_shiftLeft (e : Int) (k : Nat) : BitVec.ofInt 64 e <<< k = BitVec.ofInt 64 (e * (2 ^ k : Nat)) := by
  rw [BitVec.ofInt_mul, BitVec.shiftLeft_eq_mul_twoPow]
  congr 1
  apply BitVec.eq_of_toNat_eq
  rw [BitVec.toNat_twoPow, BitVec.ofInt_natCast, BitVec.toNat_ofNat]

/-- Bits 63 to 56 are set of an address outside the 56-bit space. -/
theorem bits_63_56_bne_zero (r : Word) : (bits r.toNat 63 56 != 0) = decide (2 ^ 56 ≤ r.toNat) := by
  have := r.isLt
  rw [Bool.eq_iff_iff, bne_iff_ne, decide_eq_true_eq, bits]
  omega

theorem addr_fires {fn : BitVec 3} (h : Fires s (.addr fn o) o.g w x) :
    let sum : Word := s.taken.readS w o.a.toNat + BitVec.ofInt 64 (s.valAt w o.ty o.b * (2 ^ fn.toNat : Nat))
    exec (.addr fn o) s = .next (s.fired w x o.g
      { wr := writeS o.d.toNat (s.taken.tagOf w o.a.toNat o.b.toNat) sum, outcome := sum != 0
        flag := decide (2 ^ 56 ≤ sum.toNat) }) := by
  intro sum
  have hsum : s.taken.readS w o.a.toNat + (extTy o.ty.toNat (s.valAt w o.ty o.b) <<< fn.toNat) = sum := by
    rw [State.valAt, extTy_readTy, ofInt_shiftLeft]; rfl
  rw [← bits_63_56_bne_zero, ← hsum]
  change execAddr fn o s = _
  exact fireTimed_ok h rfl

/-- Settles O15. That the outcome of `ADDR` tests all 64 bits of the sum, whatever TY, is the model's choice (log 136). -/
theorem movesAndConstants : Obligations.MovesAndConstants := by
  unfold Obligations.MovesAndConstants
  intro o m fn s w x
  exact ⟨nop_fires, scalarR_id, scalarR3_movk, scalarR3_sel, scalarR_abs, scalarR_neg,
    moveExt_ok (fun n x => BitVec.ofInt 64 (signed x n)), moveExt_ok (fun _ x => BitVec.ofNat 64 x), scalarI_addi, scalarI_li,
    fun _ => lis_fires, addr_fires⟩

end Sys2Proof.Machine
end

section
/-!
SUPPORT. Compares and predicate words (R114-R119).
-/

namespace Sys2Proof.Machine

variable {s : State} {i : Instr} {w : Who} {x : Word} {o : FormR} {m : FormI}

/-! ## `CMP` and `CMPI` -/

theorem compareR_ok (f : Int → Int → Bool) (h : Fires s i o.g w x) :
    compareR o f s = .next (s.condFired w x o (f (s.valAt w o.ty o.a) (s.valAt w o.ty o.b)) false []) := fireTimed_ok h rfl

theorem compareR_tst (h : Fires s i o.g w x) :
    compareR o (fun x y => pattern x (tyWidth o.ty.toNat) &&& pattern y (tyWidth o.ty.toNat) != 0) s =
      .next (s.condFired w x o (s.patAt w o.ty o.a &&& s.patAt w o.ty o.b != 0) false []) := by
  rw [compareR_ok _ h, pattern_valAt, pattern_valAt]

theorem compareI_ok (f : Word → Nat → Bool) (h : Fires s i m.g w x) :
    compareI m f s = .next (s.predFired w x m.g m.d (f (s.taken.readS w m.a.toNat) m.imm.toNat)) := fireTimed_ok h rfl

/-- A signed immediate of 14 bits keeps its value at 64 bits. -/
theorem toInt_ofInt_imm (k : BitVec 14) : (BitVec.ofInt 64 k.toInt).toInt = signed k.toNat 14 := by
  have hlo := BitVec.le_toInt k
  have hhi := BitVec.toInt_lt (x := k)
  rw [signed_eq_toInt, BitVec.ofNat_toNat, BitVec.setWidth_eq, BitVec.toInt_ofInt_eq_self (by decide)] <;> omega

theorem toNat_setWidth_imm (k : BitVec 14) : (k.setWidth 64).toNat = k.toNat :=
  BitVec.toNat_setWidth_of_le (by decide)

theorem slt_imm (y : Word) (k : BitVec 14) : decide (y.toInt < signed k.toNat 14) = y.slt (BitVec.ofInt 64 k.toInt) := by
  rw [BitVec.slt, toInt_ofInt_imm]

theorem sle_imm (y : Word) (k : BitVec 14) : decide (y.toInt ≤ signed k.toNat 14) = y.sle (BitVec.ofInt 64 k.toInt) := by
  rw [BitVec.sle, toInt_ofInt_imm]

theorem ult_imm (y : Word) (k : BitVec 14) : decide (y.toNat < k.toNat) = y.ult (k.setWidth 64) := by
  rw [BitVec.ult, toNat_setWidth_imm]

theorem ule_imm (y : Word) (k : BitVec 14) : decide (y.toNat ≤ k.toNat) = y.ule (k.setWidth 64) := by
  rw [BitVec.ule, toNat_setWidth_imm]

theorem tst_imm (y : Word) (k : BitVec 14) : (y.toNat &&& k.toNat != 0) = (y &&& k.setWidth 64 != 0) := by
  have : y &&& k.setWidth 64 = 0 ↔ y.toNat &&& k.toNat = 0 := by
    rw [← BitVec.toNat_inj, BitVec.toNat_and, toNat_setWidth_imm]; rfl
  rw [Bool.eq_iff_iff, bne_iff_ne, bne_iff_ne, Ne, Ne, this]

/-! ## `FCMP` -/

theorem Dy.lt_asymm {p q : Dy} (h : p.lt q = true) : q.lt p = false := by
  simp only [Dy.lt, decide_eq_true_eq] at h
  simp only [Dy.lt, min_comm q.e, decide_eq_false_iff_not]
  omega

theorem Dy.not_lt_eq (p q : Dy) : (!q.lt p) = (p.lt q || (!p.lt q && !q.lt p)) := by
  cases h : p.lt q with
  | true => rw [Dy.lt_asymm h]; rfl
  | false => rfl

/-- Of two values that are no NaN, "not greater" is "less or equal" (R115). -/
theorem not_lt_eq_lt_or_feq {p q : FVal} (hp : p.isNan = false) (hq : q.isNan = false) :
    (!q.lt p) = (p.lt q || p.feq q) := by
  cases p with
  | nan => cases hp
  | inf a =>
    cases q with
    | nan => cases hq
    | inf b => cases a <;> cases b <;> rfl
    | fin => simp [FVal.lt, FVal.feq]
  | fin =>
    cases q with
    | nan => cases hq
    | inf b => simp [FVal.lt, FVal.feq]
    | fin => exact Dy.not_lt_eq _ _

/-- The value of a source of `FCMP`, of the format TY. -/
def State.fvalAt (s : State) (w : Who) (ty : BitVec 4) (c : BitVec 5) : FVal :=
  (fmtOf ty.toNat).decode ((s.taken.readS w c.toNat).toNat % 2 ^ (fmtOf ty.toNat).width)

/-- The conditions that count invalid for a signalling NaN only; `u` is the outcome with a NaN. -/
theorem compareF_quiet (f : FVal → FVal → Bool) (u : Bool) (h : Fires s i o.g w x) :
    let a := s.fvalAt w o.ty o.a
    let b := s.fvalAt w o.ty o.b
    compareF o f u true s = .next (s.condFired w x o (if a.isNan || b.isNan then u else f a b) (a.isNan || b.isNan)
      (if a.isSig || b.isSig then evInvalid else [])) := fireTimed_ok h rfl

/-- The ordered conditions count invalid for any NaN, and are false with one. -/
theorem compareF_ordered (f : FVal → FVal → Bool) (h : Fires s i o.g w x) :
    let a := s.fvalAt w o.ty o.a
    let b := s.fvalAt w o.ty o.b
    compareF o f false false s = .next (s.condFired w x o (if a.isNan || b.isNan then false else f a b) (a.isNan || b.isNan)
      (if a.isNan || b.isNan then evInvalid else [])) := fireTimed_ok h rfl

theorem ite_false_eq_and (n c : Bool) : (if n then false else c) = (!n && c) := by cases n <;> rfl

theorem ite_true_eq_or (n c : Bool) : (if n then true else c) = (n || c) := by cases n <;> rfl

theorem ite_not_lt {p q : FVal} :
    (if p.isNan || q.isNan then false else !q.lt p) = (!(p.isNan || q.isNan) && (p.lt q || p.feq q)) := by
  rw [ite_false_eq_and]
  cases hp : p.isNan with
  | true => rfl
  | false =>
    cases hq : q.isNan with
    | true => rfl
    | false => rw [not_lt_eq_lt_or_feq hp hq]

/-- Settles O16. A condition on integers is the compare's own; the immediate keeps its value at 64 bits (`slt_imm` and the like);
`.LE` of two formats' values is "not greater" where neither is a NaN (`not_lt_eq_lt_or_feq`). -/
theorem compares : Obligations.Compares := by
  unfold Obligations.Compares
  refine ⟨fun o m s w x => ⟨compareR_ok (fun x y => decide (x = y)), compareR_ok (fun x y => decide (x ≠ y)),
      compareR_ok (fun x y => decide (x < y)), compareR_ok (fun x y => decide (x ≤ y)), compareR_ok (fun x y => decide (x < y)),
      compareR_ok (fun x y => decide (x ≤ y)), compareR_tst, ?_, ?_, ?_, ?_, ?_, ?_, ?_⟩,
    fun o s w x => ⟨?_, ?_, ?_, ?_, ?_, ?_⟩⟩
  · exact fun h => (compareI_ok (fun a i => a == sext14 i) h).trans (by rw [sext14_eq])
  · exact fun h => (compareI_ok (fun a i => a != sext14 i) h).trans (by rw [sext14_eq])
  · exact fun h => (compareI_ok (fun a i => decide (a.toInt < signed i 14)) h).trans (by rw [slt_imm])
  · exact fun h => (compareI_ok (fun a i => decide (a.toInt ≤ signed i 14)) h).trans (by rw [sle_imm])
  · exact fun h => (compareI_ok (fun a i => decide (a.toNat < i)) h).trans (by rw [ult_imm])
  · exact fun h => (compareI_ok (fun a i => decide (a.toNat ≤ i)) h).trans (by rw [ule_imm])
  · exact fun h => (compareI_ok (fun a i => a.toNat &&& i != 0) h).trans (by rw [tst_imm])
  · exact fun h => (compareF_quiet (fun x y => x.feq y) false h).trans (by rw [ite_false_eq_and]; rfl)
  · exact fun h => (compareF_quiet (fun x y => !x.feq y) true h).trans (by rw [ite_true_eq_or]; rfl)
  · exact fun h => (compareF_ordered (fun x y => x.lt y) h).trans (by rw [ite_false_eq_and]; rfl)
  · exact fun h => (compareF_ordered (fun x y => !y.lt x) h).trans (by rw [ite_not_lt]; rfl)
  · exact fun h => (compareF_quiet (fun _ _ => false) true h).trans (by rw [ite_true_eq_or, Bool.or_false]; rfl)
  · exact fun h => (compareF_quiet (fun _ _ => true) false h).trans (by rw [ite_false_eq_and, Bool.and_true]; rfl)

end Sys2Proof.Machine
end

section
/-!
SUPPORT. Predicate words, and the words that send, pass on, tag and replicate tokens (R116-R119, R121-R124).
-/

namespace Sys2Proof.Machine

variable {s : State} {i : Instr} {w : Who} {x : Word} {o : FormR}

/-! ## Predicate words -/

theorem predR_ok (f : Bool → Bool → Bool) (h : Fires s i o.g w x) :
    predR o f s = .next (s.predFired w x o.g o.d (f (s.taken.truth w o.a.toNat) (s.taken.truth w o.b.toNat))) :=
  fireTimed_ok h rfl

theorem psetSig_fires (h : Fires s (.psetSig o) o.g w x) :
    exec (.psetSig o) s = .next (s.fired w x o.g { wr := { Writes.none with sig := [o.d.toNat - 16] } }) := by
  change execPsetSig o s = _
  exact fireTimed_ok h rfl

theorem pmovToa_fires (h : Fires s (.pmovToa o) o.g w x) :
    let a := s.taken.truth w o.a.toNat
    exec (.pmovToa o) s = .next (s.fired w x o.g { wr := writeS o.d.toNat tagData (if a then 1 else 0), outcome := a }) := by
  change execPmovToa o s = _
  exact fireTimed_ok h rfl

theorem pmovFra_fires (h : Fires s (.pmovFra o) o.g w x) :
    exec (.pmovFra o) s = .next (s.predFired w x o.g o.d (s.taken.readS w o.a.toNat != 0)) := by
  change execPmovFra o s = _
  exact fireTimed_ok h rfl

/-! ## `SEND` and `TAGR` -/

/-- A token of A's payload has been sent with a tag (R121): on the vector network its outcome is true, on the scalar one it says
that the value at TY is not zero, the sign of a floating one apart (R36). -/
def State.sentFired (s : State) (w : Who) (x : Word) (o : FormR) (tag : Nat) : State :=
  let net := (s.taken.outCfg w (o.d.toNat - 16)).net
  let v := s.taken.readAny w o.a.toNat
  let mask := if tyFloat o.ty.toNat then 2 ^ (tyWidth o.ty.toNat - 1) else 2 ^ tyWidth o.ty.toNat
  s.fired w x o.g { wr := writeTok o.d.toNat ⟨tag, if net = 2 then v else (v.setWidth 64).setWidth 512⟩
                    outcome := net == 2 || v.toNat % mask != 0 }

theorem fired_sendDone (s : State) (w : Who) (x : Word) (o : FormR) (tag : Nat) :
    s.fired w x o.g (sendDone s.taken w o tag) = s.sentFired w x o tag := by
  have hout (net : Nat) (fl : Bool) (v p q : Nat) :
      (if net = 2 then true else if fl then v % p != 0 else v % q != 0) = (net == 2 || v % (if fl then p else q) != 0) := by
    by_cases hn : net = 2
    · simp [hn]
    · cases fl <;> simp [hn]
  unfold sendDone State.sentFired
  dsimp only
  rw [hout]
  rfl

theorem sendR_ok (tag : Nat) (h : Fires s i o.g w x) : sendR o tag s = .next (s.sentFired w x o tag) :=
  (fireTimed_ok h rfl).trans (congrArg _ (fired_sendDone s w x o tag))

theorem tagr_fires (h : Fires s (.tagr o) o.g w x) :
    let b := (s.taken.readS w o.b.toNat).toNat
    exec (.tagr o) s = if b % 8 = 5 ∨ b % 8 = 6 then .next (s.taken.raise w x { cls := clsRange, code := 0x010, opnd := b })
      else .next (s.sentFired w x o (b % 8)) := by
  intro b
  change execTagr o s = _
  split
  next hb => exact fireTimed_error h (if_pos hb)
  next hb => exact (fireTimed_ok h (if_neg hb)).trans (congrArg _ (fired_sendDone ..))

/-! ## `FWD` and `REPL` -/

theorem passOutcome_eq (net : Nat) (t : Tok) : passOutcome net t = (net == 2 || t.pay.setWidth 64 != (0 : Word)) := by
  unfold passOutcome
  by_cases hn : net = 2 <;> simp [hn]

theorem fwd_fires {t : Tok} (ht : s.taken.headOf w (o.a.toNat - 12) = some t) (h : Fires s (.fwd o) o.g w x) :
    let net := (s.taken.outCfg w (o.d.toNat - 16)).net
    exec (.fwd o) s = .next (s.fired w x o.g
      { wr := writeTok o.d.toNat t, outcome := net == 2 || t.pay.setWidth 64 != (0 : Word) }) := by
  intro net
  change execFwd o s = _
  rw [execFwd, fireTimed_ok h rfl, ht, ← passOutcome_eq]
  rfl

/-- Equal lanes put side by side, lane 0 lowest. -/
theorem foldl_lanes (w v n k c : Nat) (hv : v < 2 ^ w) :
    (List.range n).foldl (fun acc j => acc + v * 2 ^ (w * (j + k))) c = c + 2 ^ (w * k) * packNat w (List.replicate n v) := by
  induction n generalizing k c with
  | zero => simp [packNat]
  | succ n ih =>
    have hstep : (fun (acc j : Nat) => acc + v * 2 ^ (w * (j.succ + k))) = fun acc j => acc + v * 2 ^ (w * (j + (k + 1))) := by
      funext acc j; rw [Nat.succ_add_eq_add_succ]
    rw [List.range_succ_eq_map, List.foldl_cons, List.foldl_map, hstep, ih, List.replicate_succ, packNat, Nat.mod_eq_of_lt hv,
      Nat.zero_add, Nat.mul_succ, Nat.pow_add]
    ring

theorem replicate_eq_packLanes (w : Nat) (v : Word) :
    replicate w v = packLanes w (List.replicate (512 / w) (v.toNat % 2 ^ w)) := by
  have h := foldl_lanes w (v.toNat % 2 ^ w) (512 / w) 0 0 (Nat.mod_lt _ (Nat.two_pow_pos w))
  simp only [Nat.add_zero, Nat.mul_zero, Nat.pow_zero, Nat.one_mul, Nat.zero_add] at h
  rw [replicate, packLanes, h]

theorem lane_replicate {w j : Nat} (v : Word) (hj : j < 512 / w) : lane w (replicate w v) j = v.toNat % 2 ^ w := by
  rw [replicate_eq_packLanes, lane_packLanes _ hj, List.getD_replicate _ hj, Nat.mod_mod]

theorem repl_fires (h : Fires s (.repl o) o.g w x) : ∃ p : Vec,
    (∀ j, j < 512 / tyWidth o.ty.toNat → lane (tyWidth o.ty.toNat) p j = s.patAt w o.ty o.a) ∧
    exec (.repl o) s = .next (s.fired w x o.g
      { wr := writeTok o.d.toNat ⟨s.taken.tagOf w o.a.toNat 26, p⟩, outcome := true }) := by
  refine ⟨replicate (tyWidth o.ty.toNat) (s.taken.readS w o.a.toNat), fun j hj => lane_replicate _ hj, ?_⟩
  change execRepl o s = _
  exact fireTimed_ok h rfl

/-- Settles O17. Each word fires with the writes of its equation; the lanes of `REPL` are `lane_replicate`. -/
theorem predicateAndTokenWords : Obligations.PredicateAndTokenWords := by
  unfold Obligations.PredicateAndTokenWords
  exact ⟨fun o s w x => ⟨predR_ok (fun _ _ => true), predR_ok (fun _ _ => false), predR_ok (fun a _ => a),
      predR_ok (fun a _ => !a), psetSig_fires, predR_ok (fun a b => a && b), predR_ok (fun a b => a || b),
      predR_ok (fun a b => a != b), predR_ok (fun a b => a && !b), pmovToa_fires, pmovFra_fires⟩,
    fun o s w x => ⟨sendR_ok tagData, sendR_ok tagEor, sendR_ok tagEot, sendR_ok tagEos, sendR_ok tagLvl, sendR_ok tagCtl,
      fun t => fwd_fires, repl_fires, tagr_fires⟩⟩

end Sys2Proof.Machine
end

section
/-!
SUPPORT. `MRG`, and the words that place a marker (R125-R127, R129, R130, R265, R396).
-/

namespace Sys2Proof.Machine

variable {s : State} {i : Instr} {w : Who} {x : Word} {o : FormR}

/-! ## Markers a merge sees -/

/-- A marker that a merge sees: neither DATA nor one that an element passes on by itself. -/
theorem isMarker_eq (t : Tok) : isMarker t = !([tagData, tagSnap, tagDrain] : List Nat).contains t.tag := by
  simp [isMarker, bne, beq_eq_decide, Bool.and_assoc]

theorem visible_of_data {t : Tok} (h : t.tag = tagData) : visible (some t) = some t ∧ isMarker t = false := by
  simp [visible, isMarker, h, tagData, tagSnap, tagDrain]

theorem visible_of_isMarker {t : Tok} (h : isMarker t = true) : visible (some t) = some t := by
  simp only [isMarker, Bool.and_eq_true] at h
  obtain ⟨⟨-, hs⟩, hd⟩ := h
  simp [visible, hs, hd]

/-- No head that a slot may not see is a marker of a merge. -/
theorem any_isMarker_visible (t : Option Tok) : (visible t).any isMarker = t.any isMarker := by
  cases t with
  | none => rfl
  | some t =>
    cases hm : isMarker t with
    | true => rw [visible_of_isMarker hm]
    | false =>
      rw [visible, Option.filter_some]
      split <;> simp [hm]

/-! ## The choice (R125, R126) -/

section Pick

variable {rot last : Bool} {ta tb : Tok} {sa sb : Nat}

theorem mrgPick_data_data (ha : ta.tag = tagData) (hb : tb.tag = tagData) :
    mrgPick rot last (some ta) (some tb) sa sb =
      if rot then (if last then .b else .a) else if sa < sb then .a else if sb < sa then .b else if last then .a else .b := by
  obtain ⟨hva, hma⟩ := visible_of_data ha
  obtain ⟨hvb, hmb⟩ := visible_of_data hb
  simp only [mrgPick, hva, hma, hvb, hmb]

theorem mrgPick_data_marker (ha : ta.tag = tagData) (hb : isMarker tb = true) :
    mrgPick rot last (some ta) (some tb) sa sb = .a := by
  obtain ⟨hva, hma⟩ := visible_of_data ha
  simp only [mrgPick, hva, hma, visible_of_isMarker hb, hb]

theorem mrgPick_marker_data (ha : isMarker ta = true) (hb : tb.tag = tagData) :
    mrgPick rot last (some ta) (some tb) sa sb = .b := by
  obtain ⟨hvb, hmb⟩ := visible_of_data hb
  simp only [mrgPick, hvb, hmb, visible_of_isMarker ha, ha]

theorem mrgPick_marker_marker (ha : isMarker ta = true) (hb : isMarker tb = true) :
    mrgPick rot last (some ta) (some tb) sa sb = if ta.tag = tb.tag then .both else .clash := by
  simp only [mrgPick, visible_of_isMarker ha, visible_of_isMarker hb, ha, hb]

end Pick

/-! ## The slot's bit (R126, R127) -/

theorem mrgBit_a (rot last : Bool) (ha hb : Option Tok) : mrgBit rot last ha hb .a = (rot && !hb.any isMarker) := by
  cases rot with
  | true =>
    rw [← any_isMarker_visible, mrgBit]
    cases visible hb <;> rfl
  | false => rfl

theorem mrgBit_b (rot last : Bool) (ha hb : Option Tok) : mrgBit rot last ha hb .b = (!rot || ha.any isMarker) := by
  cases rot with
  | true =>
    rw [← any_isMarker_visible, mrgBit]
    cases visible ha <;> rfl
  | false => rfl

theorem mrgBit_both (rot last : Bool) (ha hb : Option Tok) : mrgBit rot last ha hb .both = (!rot && last) := by
  cases rot <;> rfl

/-! ## The firing -/

section Merge

variable {rot last : Bool} {pg pe cx n : Nat} {ha hb : Option Tok} {ta tb : Tok}

/-- A merge has passed a token on unchanged, and its slot keeps the bit `m` for the next choice. -/
def State.merged (s : State) (pg pe cx n : Nat) (x : Word) (o : FormR) (t : Tok) (deq : List Nat) (m : Bool) : State :=
  let w : Who := .elem pg pe cx n
  let net := (s.taken.outCfg w (o.d.toNat - 16)).net
  s.fired w x o.g
    { wr := writeTok o.d.toNat t, outcome := net == 2 || t.pay.setWidth 64 != (0 : Word), deq := some deq
      slot := ((s.taken.pe? pg pe).bind fun e => e.live.slots[n]?).map fun sl => { sl with mrg := m } }

/-- The token taken, the channels dequeued and the bit left are those of the choice. -/
theorem mergeR_passes {pick : MrgPick} {t : Tok} {deq : List Nat} {m : Bool} (h : Fires s i o.g (.elem pg pe cx n) x)
    (hc : s.taken.mrgChoice pg pe n (o.a.toNat - 12) (o.b.toNat - 12) rot = (pick, ha, hb, last))
    (hpick : (pick = .a ∧ ha = some t ∧ deq = [o.a.toNat - 12]) ∨ (pick = .b ∧ hb = some t ∧ deq = [o.b.toNat - 12]) ∨
      (pick = .both ∧ ha = some t ∧ deq = [o.a.toNat - 12, o.b.toNat - 12]))
    (hm : mrgBit rot last ha hb pick = m) : mergeR o rot s = .next (s.merged pg pe cx n x o t deq m) := by
  unfold State.merged
  dsimp only
  rw [← passOutcome_eq, ← hm]
  refine fireTimed_ok h ?_
  dsimp only
  rw [hc]
  rcases hpick with ⟨rfl, rfl, rfl⟩ | ⟨rfl, rfl, rfl⟩ | ⟨rfl, rfl, rfl⟩ <;> rfl

theorem mergeR_clashes (h : Fires s i o.g (.elem pg pe cx n) x)
    (hc : s.taken.mrgChoice pg pe n (o.a.toNat - 12) (o.b.toNat - 12) rot = (.clash, some ta, some tb, last)) :
    mergeR o rot s =
      .next (s.taken.raise (.elem pg pe cx n) x { cls := clsShape, code := 0x020, detail := ta.tag + 16 * tb.tag }) := by
  refine fireTimed_error h ?_
  dsimp only
  rw [hc]
  rfl

end Merge

/-! ## Markers that a slot places -/

/-- Such a word fires with no result, and the element takes the marker's part. -/
theorem markR_fires {pg pe cx n : Nat} (f : Pe → Pe) (h : Fires s i o.g (.elem pg pe cx n) x) :
    markR o f s = .next ((s.fired (.elem pg pe cx n) x o.g {}).modPe pg pe fun e => { f e with markBy := some (cx, s.ids) }) := by
  obtain ⟨hissue, -, -⟩ := h
  rw [markR, hissue]
  rfl

theorem outPorts_eq (e : Pe) :
    e.outPorts = (List.range 4).filter fun k => e.ports[4 + k]?.any fun c => c.net == 1 || c.net == 2 := by
  refine congrArg (fun p => (List.range 4).filter p) (funext fun k => ?_)
  cases e.ports[4 + k]? <;> rfl

/-- One marker is owed to each bound scalar and vector out port. -/
theorem owe_markBy (e : Pe) (tag : Nat) (firing : Option (Nat × Nat)) :
    { e.owe tag with markBy := firing } =
      { e with owed := e.owed ++ ((List.range 4).filter fun k => e.ports[4 + k]?.any fun c => c.net == 1 || c.net == 2).map
                 fun k => (k, tag)
               markBy := firing } := by
  rw [Pe.owe, outPorts_eq]

/-- `DRAIN` ends the firing of its element's slots as it writes back (R130). -/
theorem settle_drain {f : Flight} {wr : Writes} {pg pe cx n : Nat} (hw : f.who = .elem pg pe cx n) (hop : opcOf f.word = 0x1E) :
    s.settle f wr = (((s.dropFlight f.fid).applyWrites f.who f.born wr).releaseOuts f.who f.holds wr).modPe pg pe
      fun e => { e with drained := true, ended := true } := by
  rw [State.settle, State.drainDone, hw]
  exact if_pos hop

/-- Settles O18. The choice is read off `mrgPick` by the tags of the two heads, the bit off `mrgBit`; a placed marker
is `markR_fires`, and the end of a `DRAIN` is `settle_drain`. -/
theorem mergeAndMarkerWords : Obligations.MergeAndMarkerWords := by
  unfold Obligations.MergeAndMarkerWords
  refine ⟨fun rot o s pg pe cx n x ha hb ta tb last sa sb => ?_, fun o s pg pe cx n x => ⟨?_, ?_, ?_⟩⟩
  · have hi : exec (if rot then .mrgRot o else .mrgArr o) s = mergeR o rot s := by cases rot <;> rfl
    simp only [← isMarker_eq, hi]
    refine ⟨mrgPick_data_data, mrgPick_data_marker, mrgPick_marker_data, mrgPick_marker_marker, fun h hc => ?_, fun h hc => ?_,
      fun h hc => ?_, mergeR_clashes⟩
    · exact mergeR_passes h hc (.inl ⟨rfl, rfl, rfl⟩) (mrgBit_a ..)
    · exact mergeR_passes h hc (.inr (.inl ⟨rfl, rfl, rfl⟩)) (mrgBit_b ..)
    · exact mergeR_passes h hc (.inr (.inr ⟨rfl, rfl, rfl⟩)) (mrgBit_both ..)
  · intro h
    change execMarkSnap o s = _
    rw [execMarkSnap, markR_fires _ h]
    simp only [owe_markBy]
    rfl
  · intro h
    change execDrain o s = _
    rw [execDrain, markR_fires _ h]
    simp only [owe_markBy]
  · intro f d hf hw hop hd hle hmay
    rw [writeBack_of_due hf hd hle hmay, settle_drain hw hop, hw]

end Sys2Proof.Machine
end

section
/-!
SUPPORT. Teller control (R131-R133, R390).
-/

namespace Sys2Proof.Machine

variable {s : State} {i : Instr} {t cx : Nat} {pc x : Word} {o : FormR} {m : FormI}

theorem brOffset_eq (m : FormI) : brOffset m = BitVec.ofInt 64 (m.imm.toInt * 8) := by
  rw [brOffset, signed_eq_toInt, BitVec.ofNat_toNat, BitVec.setWidth_eq]

/-- `zr` takes no link. -/
theorem branchTo_zr (link target : Word) : branchTo 26 link target = { pc := some target, gap := 2 } := rfl

/-- Bits 15 to 8 of a word replaced. -/
theorem setByte1_eq_append (v : Word) (b : BitVec 8) :
    (v &&& ~~~0xFF00#64) ||| (b.setWidth 64 <<< 8) = v.extractLsb' 16 48 ++ b ++ v.extractLsb' 0 8 := by
  apply BitVec.eq_of_getLsbD_eq
  intro j hj
  simp only [BitVec.getLsbD_append, BitVec.getLsbD_extractLsb', BitVec.getLsbD_or, BitVec.getLsbD_and, BitVec.getLsbD_not,
    BitVec.getLsbD_shiftLeft, BitVec.getLsbD_setWidth]
  interval_cases j <;> simp

theorem callDepth_tel (s : State) (t cx : Nat) (pc : Word) (f : BitVec 8 → BitVec 8) :
    s.callDepth (.tel t cx pc) f = s.modTctx t cx fun c =>
      { c with tstat := c.tstat.extractLsb' 16 48 ++ f (c.tstat.extractLsb' 8 8) ++ c.tstat.extractLsb' 0 8 } := by
  simp only [State.callDepth, setByte1_eq_append]

/-- The depth lowered by one, modulo 2^8. -/
theorem sub_one_eq_add (b : BitVec 8) : b - 1 = b + 255 := by rw [BitVec.sub_eq_add_neg]; rfl

/-! ## Jumps (R133) -/

theorem jumpTo_misaligned {w : Who} {d : Nat} {link : Word} (h : (s.readS w o.a.toNat).toNat % 8 ≠ 0) :
    jumpTo s w o d link = .error { cls := clsAlign, code := 0x001, opnd := (s.readS w o.a.toNat).toNat } := if_pos h

theorem jumpTo_aligned {w : Who} {d : Nat} {link : Word} (h : ¬ (s.readS w o.a.toNat).toNat % 8 ≠ 0) :
    jumpTo s w o d link = .ok (branchTo d link (s.readS w o.a.toNat)) := if_neg h

theorem brBr_fires (h : Fires s (.brBr m) m.g (.tel t cx pc) x) :
    exec (.brBr m) s = .next (s.fired (.tel t cx pc) x m.g
      { pc := some (pc + BitVec.ofInt 64 (m.imm.toInt * 8)), gap := 2 }) := by
  change execBrBr m s = _
  rw [← brOffset_eq, ← branchTo_zr 0]
  exact fireTimed_ok h rfl

theorem brCall_fires (h : Fires s (.brCall m) m.g (.tel t cx pc) x) :
    exec (.brCall m) s = .next ((s.fired (.tel t cx pc) x m.g
      { wr := writeS m.d.toNat tagData (pc + 8), pc := some (pc + BitVec.ofInt 64 (m.imm.toInt * 8)), gap := 2 }).modTctx t cx
        fun c => { c with tstat := c.tstat.extractLsb' 16 48 ++ (c.tstat.extractLsb' 8 8 + 1) ++ c.tstat.extractLsb' 0 8 }) := by
  change execBrCall m s = _
  have hissue := h.1
  rw [execBrCall, fireTimed_ok h rfl, hissue, ← brOffset_eq, ← callDepth_tel _ _ _ pc (· + 1)]
  rfl

theorem jrJr_fires (h : Fires s (.jrJr o) o.g (.tel t cx pc) x) :
    let w : Who := .tel t cx pc
    let a := s.taken.readS w o.a.toNat
    exec (.jrJr o) s = .next (if a.toNat % 8 ≠ 0 then s.taken.raise w x { cls := clsAlign, code := 0x001, opnd := a.toNat }
      else s.fired w x o.g { wr := writeS o.d.toNat tagData (pc + 8), pc := some a, gap := 2 }) := by
  intro w a
  change execJrJr o s = _
  split
  next ha => exact fireTimed_error h (jumpTo_misaligned ha)
  next ha => exact fireTimed_ok h (jumpTo_aligned ha)

theorem execJrRet_error {w : Who} {q : FaultInfo} (h : s.issue = some (w, x)) (hj : jumpTo s.taken w o 26 0 = .error q) :
    execJrRet o s = .next (s.taken.raise w x q) := by
  rw [State.taken] at hj
  rw [execJrRet, h]
  dsimp only
  rw [hj]
  rfl

theorem execJrRet_ok {w : Who} {d : Done} (h : s.issue = some (w, x)) (hj : jumpTo s.taken w o 26 0 = .ok d) :
    execJrRet o s = .next ((s.fired w x o.g d).callDepth w (· - 1)) := by
  rw [State.taken] at hj
  rw [execJrRet, h]
  dsimp only
  rw [hj]
  rfl

theorem jrRet_fires (h : Fires s (.jrRet o) o.g (.tel t cx pc) x) :
    let w : Who := .tel t cx pc
    let a := s.taken.readS w o.a.toNat
    exec (.jrRet o) s = .next (if a.toNat % 8 ≠ 0 then s.taken.raise w x { cls := clsAlign, code := 0x001, opnd := a.toNat }
      else (s.fired w x o.g { pc := some a, gap := 2 }).modTctx t cx
        fun c => { c with tstat := c.tstat.extractLsb' 16 48 ++ (c.tstat.extractLsb' 8 8 + 255) ++ c.tstat.extractLsb' 0 8 }) := by
  intro w a
  change execJrRet o s = _
  obtain ⟨hissue, -, -⟩ := h
  split
  next ha => exact execJrRet_error hissue (jumpTo_misaligned ha)
  next ha =>
    rw [execJrRet_ok hissue (jumpTo_aligned ha), callDepth_tel]
    simp only [sub_one_eq_add]
    rfl

theorem jrHalt_fires (h : Fires s (.jrHalt o) o.g (.tel t cx pc) x) :
    exec (.jrHalt o) s = .next ((s.fired (.tel t cx pc) x o.g { wr := writeS o.d.toNat tagData pc }).modTctx t cx
      fun c => { c with run := false }) := by
  change execJrHalt o s = _
  obtain ⟨hissue, -, -⟩ := h
  rw [execJrHalt, hissue]
  rfl

/-- Settles O19. `BR.CALL` and `JR.RET` also change byte 1 of TSTAT, the call depth (`callDepth_tel`). -/
theorem tellerControl : Obligations.TellerControl := by
  unfold Obligations.TellerControl
  exact fun m o s t cx pc x => ⟨brBr_fires, brCall_fires, jrJr_fires, jrRet_fires, jrHalt_fires⟩

end Sys2Proof.Machine
end

section
/-!
SUPPORT. The words that the chapters of the spec write out (R135, R166, R207, R261, R310, R363, R391).
-/

namespace Sys2Proof

/-- Settles O1. The encodings are computed; each word decodes to its instruction because every encoding does
(`wordsDecodeBack`). -/
theorem wordsOfTheSpec : Obligations.WordsOfTheSpec := by
  unfold Obligations.WordsOfTheSpec
  intro g0 r table e he
  have hencode : encode e.1 = some e.2 := by
    revert e he
    decide
  exact ⟨hencode, wordsDecodeBack e.1 e.2 hencode⟩

end Sys2Proof
end

section
/-!
SUPPORT. Vector words that work lane by lane: what such a word leaves when it fires, and lane-wise arithmetic (R136, R138, R140,
R141).
-/

namespace Sys2Proof.Machine

variable {s : State} {i : Instr} {w : Who} {x : Word} {o : FormR} {W lw n a b : Nat} {r : Nat → LaneRes}

/-! ## Firing -/

theorem tab_congr {α : Type} {f g : Nat → α} (h : ∀ j, j < n → f j = g j) : tab n f = tab n g :=
  List.map_congr_left fun j hj => h j (List.mem_range.mp hj)

theorem map_tab {α β : Type} (g : α → β) (n : Nat) (f : Nat → α) : (tab n f).map g = tab n fun j => g (f j) := by
  rw [tab, List.map_map]
  rfl

/-- A word that packs `n` lanes fires with the results that the lanes below `n` hold. -/
theorem fireTimed_lanes {k : Who → Word → State → Except FaultInfo Done} (f : Nat → LaneRes) (h : Fires s i o.g w x)
    (hk : k w x s.taken = .ok (lanesDone s.taken w o.d.toNat a b lw W (tab n f))) (e : ∀ j, j < n → f j = r j) :
    ∃ t, fireTimed o.g k s = .next t ∧ s.LanesFired w x o W lw n a b r t := by
  rw [tab_congr e] at hk
  exact ⟨_, fireTimed_ok h hk, lanesDone_fired r⟩

theorem vecR_lanes {f : Nat → Nat → LaneRes} (h : Fires s i o.g w x)
    (e : ∀ j, j < 512 / tyWidth o.ty.toNat → f (s.laneAt w o.ty o.a j) (s.laneAt w o.ty o.b j) = r j) :
    ∃ t, vecR o f s = .next t ∧ s.LanesFired w x o (laneW o.ty.toNat) (tyWidth o.ty.toNat) (512 / tyWidth o.ty.toNat)
      o.a.toNat o.b.toNat r t :=
  fireTimed_lanes _ h rfl e

theorem vecR3_lanes {f : Nat → Nat → Nat → LaneRes} (h : Fires s i o.g w x)
    (e : ∀ j, j < 512 / tyWidth o.ty.toNat →
      f (s.laneAt w o.ty o.d j) (s.laneAt w o.ty o.a j) (s.laneAt w o.ty o.b j) = r j) :
    ∃ t, vecR3 o W f s = .next t ∧ s.LanesFired w x o W (tyWidth o.ty.toNat) (512 / tyWidth o.ty.toNat) o.a.toNat o.b.toNat
      r t :=
  fireTimed_lanes _ h rfl e

/-! ## Arithmetic (R140, R141) -/

/-- A lane of arithmetic at TY: the exact integer wrapped, flagged where it does not fit, or the rounded floating result. -/
def arithLane (ty : Nat) (int : Int) (flt : FRes) : LaneRes :=
  if tyFloat ty then { pat := flt.pat, ev := flt.ev } else { pat := pattern int (tyWidth ty), flag := wrapTy ty int != int }

theorem ite_iLane (ty : Nat) (int : Int) (flt : FRes) :
    (if tyFloat ty then fLane flt else iLane ty int) = arithLane ty int flt := by
  rw [arithLane, wrapTy_bne]
  rfl

theorem laneAdd_eq (ty m n : Nat) :
    laneAdd ty m n = arithLane ty (readTy ty m + readTy ty n) ((fmtOf ty).addV .rne ((fmtOf ty).decode m) ((fmtOf ty).decode n)) :=
  ite_iLane ..

theorem laneSub_eq (ty m n : Nat) :
    laneSub ty m n =
      arithLane ty (readTy ty m - readTy ty n) ((fmtOf ty).addV .rne ((fmtOf ty).decode m) ((fmtOf ty).decode n).neg) :=
  ite_iLane ..

theorem laneMul_eq (ty m n : Nat) :
    laneMul ty m n = arithLane ty (readTy ty m * readTy ty n) ((fmtOf ty).mulV .rne ((fmtOf ty).decode m) ((fmtOf ty).decode n)) :=
  ite_iLane ..

theorem laneFma_eq (ty : Nat) (np nz : Bool) (z m n : Nat) :
    laneFma ty np nz z m n = arithLane ty
      ((if np then -(readTy ty m * readTy ty n) else readTy ty m * readTy ty n) + (if nz then -(readTy ty z) else readTy ty z))
      ((fmtOf ty).fmaV .rne (if np then ((fmtOf ty).decode m).neg else (fmtOf ty).decode m) ((fmtOf ty).decode n)
        (if nz then ((fmtOf ty).decode z).neg else (fmtOf ty).decode z)) :=
  ite_iLane ..

/-- A fused lane that negates its product, as a difference. -/
theorem laneFma_neg_eq (ty z m n : Nat) :
    laneFma ty true false z m n = arithLane ty (readTy ty z - readTy ty m * readTy ty n)
      ((fmtOf ty).fmaV .rne ((fmtOf ty).decode m).neg ((fmtOf ty).decode n) ((fmtOf ty).decode z)) := by
  rw [sub_eq_neg_add]
  exact laneFma_eq ..

/-- A word whose lanes are a floating function of those of its sources, whatever its TY. -/
theorem vecR_float (f : Fmt → FVal → FVal → FRes) (h : Fires s i o.g w x) :
    let F := fmtOf o.ty.toNat
    let q (j : Nat) : FRes := f F (F.decode (s.laneAt w o.ty o.a j)) (F.decode (s.laneAt w o.ty o.b j))
    ∃ t, vecR o (fun m n => fLane (f F (F.decode m) (F.decode n))) s = .next t ∧
      s.LanesFired w x o (laneW o.ty.toNat) (tyWidth o.ty.toNat) (512 / tyWidth o.ty.toNat) o.a.toNat o.b.toNat
        (fun j => { pat := (q j).pat, ev := (q j).ev }) t :=
  vecR_lanes h fun _ _ => rfl

/-- Settles O20. Each word is a lane-wise one whose lanes are `arithLane`, or a floating function of its lanes. -/
theorem vectorArithmetic : Obligations.VectorArithmetic := by
  unfold Obligations.VectorArithmetic
  intro o s w x
  exact ⟨fun h => vecR_lanes h fun _ _ => laneAdd_eq .., fun h => vecR_lanes h fun _ _ => laneSub_eq ..,
    fun h => vecR_lanes h fun _ _ => laneMul_eq .., fun h => vecR3_lanes h fun _ _ => laneFma_eq ..,
    fun h => vecR3_lanes h fun _ _ => laneFma_eq .., fun h => vecR3_lanes h fun _ _ => laneFma_neg_eq ..,
    vecR_float fun f m n => f.divV .rne m n, vecR_float fun f m _ => f.divV .rne (.fin false 1 0) m,
    vecR_float fun f m _ => f.rsqV .rne m, vecR_float fun f m _ => f.sqrtV .rne m⟩

end Sys2Proof.Machine
end

section
/-!
SUPPORT. Vector words that select, compare, shift and clamp lanes (R142-R146).
-/

namespace Sys2Proof.Machine

variable {s : State} {i : Instr} {w : Who} {x : Word} {o : FormR}

theorem lane_lt (w : Nat) (v : Vec) (j : Nat) : lane w v j < 2 ^ w := Nat.mod_lt _ (Nat.two_pow_pos w)

theorem laneAt_lt (s : State) (w : Who) (ty : BitVec 4) (c : BitVec 5) (j : Nat) : s.laneAt w ty c j < 2 ^ tyWidth ty.toNat :=
  lane_lt ..

/-- A pattern of the width of TY is that of its reading. -/
theorem pattern_readTy_of_lt {ty m : Nat} (hm : m < 2 ^ tyWidth ty) : pattern (readTy ty m) (tyWidth ty) = m := by
  rw [pattern_readTy, Nat.mod_eq_of_lt hm]

theorem readTy_inj {ty m n : Nat} (hm : m < 2 ^ tyWidth ty) (hn : n < 2 ^ tyWidth ty) : readTy ty m = readTy ty n ↔ m = n := by
  refine ⟨fun h => ?_, congrArg _⟩
  rw [← pattern_readTy_of_lt hm, h, pattern_readTy_of_lt hn]

theorem tyFloat_eq_false {ty : Nat} (h : ty < 8) : tyFloat ty = false := by simp [tyFloat, Nat.not_le.mpr h]

/-! ## Minimum and maximum (R142) -/

/-- A lane that is a NaN of a floating TY. -/
def laneNan (ty n : Nat) : Bool := tyFloat ty && ((fmtOf ty).decode n).isNan

/-- The invalid event of a floating TY with a signalling NaN among two lanes. -/
def laneSig (ty m n : Nat) : List Nat :=
  if tyFloat ty ∧ (((fmtOf ty).decode m).isSig ∨ ((fmtOf ty).decode n).isSig) then evInvalid else []

/-- The order of lanes at a TY. -/
def laneBelow (ty m n : Nat) : Bool :=
  if tyFloat ty then ltTotal ((fmtOf ty).decode m) ((fmtOf ty).decode n) else decide (readTy ty m < readTy ty n)

/-- The lower or the greater of two lanes, and what stands for a NaN. -/
def lanePick (ty : Nat) (num lo : Bool) (m n : Nat) : LaneRes :=
  { pat := if laneNan ty m && laneNan ty n then (fmtOf ty).nanPat else if laneNan ty m then (if num then n else (fmtOf ty).nanPat)
           else if laneNan ty n then (if num then m else (fmtOf ty).nanPat)
           else if lo then (if laneBelow ty n m then n else m) else (if laneBelow ty m n then n else m)
    ev := laneSig ty m n }

theorem laneMm_eq (ty : Nat) (num lo : Bool) (m n : Nat) : laneMm ty (!lo) num m n = lanePick ty num lo m n := by
  unfold laneMm lanePick laneNan laneSig laneBelow
  cases tyFloat ty <;> cases lo <;> simp

theorem laneMm_lt {ty m n : Nat} {big num : Bool} (hty : ty < 8) (hm : m < 2 ^ tyWidth ty) (hn : n < 2 ^ tyWidth ty) :
    (laneMm ty big num m n).pat < 2 ^ tyWidth ty := by
  simp only [laneMm, tyFloat_eq_false hty, Bool.false_eq_true, if_false]
  repeat' split
  all_goals assumption

theorem readTy_laneMm_max {ty : Nat} (hty : ty < 8) (num : Bool) (m n : Nat) :
    readTy ty (laneMm ty true num m n).pat = max (readTy ty m) (readTy ty n) := by
  simp only [laneMm, tyFloat_eq_false hty, Bool.false_eq_true, if_false, if_true]
  split <;> omega

theorem readTy_laneMm_min {ty : Nat} (hty : ty < 8) (num : Bool) (m n : Nat) :
    readTy ty (laneMm ty false num m n).pat = min (readTy ty m) (readTy ty n) := by
  simp only [laneMm, tyFloat_eq_false hty, Bool.false_eq_true, if_false]
  split <;> omega

/-! ## Signs (R143) -/

/-- The sign bit of a floating TY is its highest. -/
theorem signBit_fmtOf {ty : Nat} (h : tyFloat ty = true) : (fmtOf ty).signBit = 2 ^ (tyWidth ty - 1) := by
  have hall : ∀ t < 12, tyFloat t = true → (fmtOf t).signBit = 2 ^ (tyWidth t - 1) := by decide
  simp only [tyFloat, Bool.and_eq_true, decide_eq_true_eq] at h
  exact hall ty h.2 (by simp [tyFloat, h])

/-- The highest bit of a pattern flipped. -/
theorem xor_top_bit {k n : Nat} (hn : n < 2 ^ (k + 1)) : n ^^^ 2 ^ k = n % 2 ^ k + if n < 2 ^ k then 2 ^ k else 0 := by
  have hlow : n % 2 ^ k < 2 ^ k := Nat.mod_lt _ (Nat.two_pow_pos k)
  have hsum : (n % 2 ^ k + if n < 2 ^ k then 2 ^ k else 0) = 2 ^ k * (if n < 2 ^ k then 1 else 0) + n % 2 ^ k := by
    split <;> omega
  have htop : n.testBit k = !decide (n < 2 ^ k) := by
    by_cases h : n < 2 ^ k
    · simp [h, Nat.testBit_lt_two_pow h]
    · simp [h, Nat.testBit_of_two_pow_le_and_two_pow_add_one_gt (Nat.not_lt.mp h) hn]
  rw [hsum]
  refine Nat.eq_of_testBit_eq fun j => ?_
  rw [Nat.testBit_two_pow_mul_add _ hlow, Nat.testBit_xor, Nat.testBit_two_pow, Nat.testBit_mod_two_pow]
  rcases Nat.lt_trichotomy j k with hj | rfl | hj
  · simp [hj, hj.ne']
  · rw [htop]
    by_cases h : n < 2 ^ j <;> simp [h]
  · have hbit : n.testBit j = false := Nat.testBit_lt_two_pow (hn.trans_le (Nat.pow_le_pow_right (by decide) hj))
    have hone : Nat.testBit 1 (j - k) = false := Nat.testBit_lt_two_pow (Nat.one_lt_two_pow (by omega))
    rw [hbit, if_neg hj.not_gt]
    split <;> simp [hj.ne, hone]

/-- The highest bit of a pattern is a quotient of it. -/
theorem ite_top_bit {k n : Nat} (hn : n < 2 ^ (k + 1)) : (if 2 ^ k ≤ n then 2 ^ k else 0) = n / 2 ^ k * 2 ^ k := by
  split
  next h => rw [Nat.div_eq_of_lt_le (k := 1) (by omega) (by rw [Nat.pow_succ] at hn; omega), Nat.one_mul]
  next h => rw [Nat.div_eq_of_lt (Nat.not_le.mp h), Nat.zero_mul]

/-- A lane with its sign changed: `flt` with a floating TY, else the pattern of `int`. -/
def signLane (ty n flt : Nat) (int : Int) : LaneRes :=
  if tyFloat ty then { pat := if laneNan ty n then (fmtOf ty).nanPat else flt }
  else { pat := pattern int (tyWidth ty), flag := readTy ty n == tyMin ty }

theorem signLane_float {ty n flt : Nat} (int : Int) (h : tyFloat ty = true) :
    signLane ty n flt int = if ((fmtOf ty).decode n).isNan then { pat := (fmtOf ty).nanPat } else { pat := flt } := by
  rw [signLane, if_pos h, laneNan, h, Bool.true_and]
  split <;> rfl

theorem laneSgn_abs (ty n b : Nat) : laneSgn ty 0 n b = signLane ty n (n % 2 ^ (tyWidth ty - 1)) (readTy ty n).natAbs := by
  by_cases h : tyFloat ty = true
  · simp [laneSgn, h, signLane_float, signBit_fmtOf h]
  · have habs : (if readTy ty n < 0 then -(readTy ty n) else readTy ty n) = (readTy ty n).natAbs := by omega
    simp only [laneSgn, signLane, if_neg h, if_true, habs]

theorem laneSgn_neg {ty n : Nat} (b : Nat) (hn : n < 2 ^ tyWidth ty) :
    laneSgn ty 1 n b = signLane ty n (n ^^^ 2 ^ (tyWidth ty - 1)) (-(readTy ty n)) := by
  rw [← Nat.sub_add_cancel (tyWidth_pos ty)] at hn
  by_cases h : tyFloat ty = true
  · simp [laneSgn, h, signLane_float, signBit_fmtOf h, xor_top_bit hn]
  · simp [laneSgn, signLane, h]

theorem laneSgn_csgn {ty n b : Nat} (h : tyFloat ty = true) (hb : b < 2 ^ tyWidth ty) :
    laneSgn ty 2 n b =
      signLane ty n (n % 2 ^ (tyWidth ty - 1) + b / 2 ^ (tyWidth ty - 1) * 2 ^ (tyWidth ty - 1)) 0 := by
  rw [← Nat.sub_add_cancel (tyWidth_pos ty)] at hb
  simp [laneSgn, h, signLane_float, signBit_fmtOf h, ← ite_top_bit hb]

/-! ## Relation codes (R144) -/

def relLane (ty m n : Nat) : LaneRes :=
  if laneNan ty m ∨ laneNan ty n then { pat := 8, flag := true, ev := laneSig ty m n }
  else if tyFloat ty then
    { pat := if ((fmtOf ty).decode m).lt ((fmtOf ty).decode n) then 1
             else if ((fmtOf ty).decode m).feq ((fmtOf ty).decode n) then 2 else 4 }
  else { pat := if readTy ty m < readTy ty n then 1 else if readTy ty m = readTy ty n then 2 else 4 }

theorem laneCmp_eq (ty m n : Nat) : laneCmp ty m n = relLane ty m n := by
  unfold laneCmp relLane laneNan laneSig
  cases tyFloat ty <;> simp

theorem vcmp_fires (h : Fires s (.vcmp o) o.g w x) :
    let L := 512 / tyWidth o.ty.toNat
    let rel (j : Nat) : LaneRes := relLane o.ty.toNat (s.laneAt w o.ty o.a j) (s.laneAt w o.ty o.b j)
    ∃ v : Vec, (∀ j, j < L → lane (tyWidth o.ty.toNat) v j = (rel j).pat % 2 ^ tyWidth o.ty.toNat) ∧
      exec (.vcmp o) s = .next (s.fired w x o.g
        { w := if tyFloat o.ty.toNat then 6 else 2, wr := writeV o.d.toNat (s.taken.tagOf w o.a.toNat o.b.toNat) v
          outcome := (tab L fun j => (rel j).pat == 2).all id, flag := (tab L fun j => (rel j).flag).any id
          ev := sumEvents (tab L fun j => (rel j).ev) }) := by
  intro L rel
  refine ⟨packLanes (tyWidth o.ty.toNat) ((tab L rel).map (·.pat)), fun j hj => ?_, ?_⟩
  · rw [lane_packLanes _ hj, map_tab, getD_tab, if_pos hj]
  · change execVcmp o s = _
    rw [execVcmp, fireTimed_ok h rfl]
    simp only [laneCmp_eq, lanesDone, tab, List.map_map, List.any_map, List.all_map]
    rfl

/-! ## Shifts and clamping (R146) -/

/-- A value of W bits or fewer is gone after W places. -/
theorem ediv_two_pow_min {v : Int} {k W : Nat} (hlo : -(2 ^ W : Nat) ≤ v) (hhi : v < (2 ^ W : Nat)) :
    v / (2 ^ min k W : Nat) = v / (2 ^ k : Nat) := by
  rcases Nat.le_total k W with hk | hk
  · rw [Nat.min_eq_left hk]
  · have hpow : (2 ^ W : Nat) ≤ 2 ^ k := Nat.pow_le_pow_right (by decide) hk
    rw [Nat.min_eq_right hk]
    rcases lt_or_ge v 0 with hv | hv
    · rw [Int.ediv_eq_neg_one_of_neg_of_le hv (by omega), Int.ediv_eq_neg_one_of_neg_of_le hv (by omega)]
    · rw [Int.ediv_eq_zero_of_lt hv hhi, Int.ediv_eq_zero_of_lt hv (by omega)]

theorem readTy_bounds (ty m : Nat) :
    -(2 ^ tyWidth ty : Nat) ≤ readTy ty m ∧ readTy ty m < (2 ^ tyWidth ty : Nat) := by
  have hlo := tyMin_le_readTy ty m
  have hhi := readTy_le_tyMax ty m
  have hpow : 2 ^ (tyWidth ty - 1) ≤ 2 ^ tyWidth ty := Nat.pow_le_pow_right (by decide) (Nat.sub_le ..)
  unfold tyMin at hlo
  unfold tyMax at hhi
  split at hlo <;> omega

/-- A lane shifted to the left, or where `k` is negative to the right. -/
def shiftLane (ty m : Nat) (k : Int) : LaneRes :=
  if 0 ≤ k then { pat := m * 2 ^ k.toNat % 2 ^ tyWidth ty, flag := decide (2 ^ tyWidth ty ≤ m * 2 ^ k.toNat) }
  else { pat := pattern (readTy ty m / (2 ^ (-k).toNat : Nat)) (tyWidth ty) }

/-- A shift by the width or more leaves nothing. -/
theorem shl_all {W k m : Nat} (hk : W ≤ k) : m * 2 ^ k % 2 ^ W = 0 ∧ (m != 0) = decide (2 ^ W ≤ m * 2 ^ k) := by
  have hpow : (2 ^ W : Nat) ≤ 2 ^ k := Nat.pow_le_pow_right (by decide) hk
  refine ⟨Nat.mod_eq_zero_of_dvd (Dvd.dvd.mul_left (Nat.pow_dvd_pow 2 hk) m), ?_⟩
  rw [Bool.eq_iff_iff, bne_iff_ne, decide_eq_true_eq]
  refine ⟨fun hm => hpow.trans (Nat.le_mul_of_pos_left _ (Nat.pos_of_ne_zero hm)), ?_⟩
  rintro h rfl
  have := Nat.two_pow_pos W
  omega

theorem laneShf_eq {ty m : Nat} (n : Nat) (hm : m < 2 ^ tyWidth ty) :
    laneShf ty m n = shiftLane ty m (signed n (tyWidth ty)) := by
  unfold laneShf shiftLane
  dsimp only
  generalize signed n (tyWidth ty) = k
  split
  next hk =>
    split
    next hW =>
      obtain ⟨hpat, hflag⟩ := shl_all (m := m) (Int.le_toNat hk |>.mpr hW)
      rw [hpat, hflag]
    next hW => rw [shlW_flag hm (by omega), shlW]
  next hk =>
    obtain ⟨hlo, hhi⟩ := readTy_bounds ty m
    rw [← ediv_two_pow_min (k := (-k).toNat) hlo hhi]
    by_cases hs : tySigned ty = true
    · rw [if_pos hs]
    · have hdiv : m / 2 ^ min (-k).toNat (tyWidth ty) < 2 ^ tyWidth ty := (Nat.div_le_self ..).trans_lt hm
      rw [if_neg hs, readTy, if_neg hs, Nat.mod_eq_of_lt hm, ← Int.natCast_ediv, pattern_natCast, Nat.mod_eq_of_lt hdiv]

theorem laneClmp_int {ty d a b : Nat} (hty : ty < 8) (hd : d < 2 ^ tyWidth ty) (ha : a < 2 ^ tyWidth ty)
    (hb : b < 2 ^ tyWidth ty) :
    let r := min (max (readTy ty d) (readTy ty a)) (readTy ty b)
    laneClmp ty d a b =
      { pat := pattern r (tyWidth ty), flag := r != readTy ty d, ev := if r = readTy ty d then [] else evSat } := by
  intro r
  let q := laneMm ty false false (laneMm ty true false d a).pat b
  have hq : q.pat < 2 ^ tyWidth ty := laneMm_lt hty (laneMm_lt hty hd ha) hb
  have hread : readTy ty q.pat = r := by rw [readTy_laneMm_min hty, readTy_laneMm_max hty]
  have hsame : r = readTy ty d ↔ q.pat = d := by rw [← hread, readTy_inj hq hd]
  have hne : (r != readTy ty d) = (q.pat != d) := by rw [Bool.eq_iff_iff, bne_iff_ne, bne_iff_ne, Ne, Ne, hsame]
  have hpat : pattern r (tyWidth ty) = q.pat := by rw [← hread, pattern_readTy_of_lt hq]
  simp only [hpat, hne, hsame]
  exact if_neg (by simp [tyFloat_eq_false hty])

theorem laneClmp_float {ty : Nat} (h : tyFloat ty = true) (d a b : Nat) :
    let m := lanePick ty false false d a
    let r := lanePick ty false true m.pat b
    laneClmp ty d a b = { pat := r.pat, ev := if m.ev = [] ∧ r.ev = [] then [] else evInvalid } := by
  intro m r
  have hm : laneMm ty true false d a = m := laneMm_eq ty false false d a
  have hr : laneMm ty false false m.pat b = r := laneMm_eq ty false true m.pat b
  simp only [laneClmp, hm, hr, if_pos h, List.isEmpty_iff, List.append_eq_nil_iff]

end Sys2Proof.Machine
end

section
/-!
SUPPORT. Vector words that move lanes and work on bitmaps (R154, R155, R160).
-/

namespace Sys2Proof.Machine

variable {s : State} {i : Instr} {w : Who} {x : Word} {o : FormR} {W b rt : Nat}

/-! ## Lanes as a list -/

theorem lanesOf_getD_of_lt {w j : Nat} (v : Vec) (d : Nat) (hj : j < 512 / w) : (lanesOf w v).getD j d = lane w v j := by
  rw [lanesOf_getD, if_pos hj]

theorem length_lanesOf (w : Nat) (v : Vec) : (lanesOf w v).length = 512 / w := by simp [lanesOf, tab]

theorem take_tab {α : Type} {n L : Nat} (f : Nat → α) (h : n ≤ L) : (tab L f).take n = tab n f := by
  rw [tab, ← List.map_take, List.take_range, Nat.min_eq_left h, tab]

theorem mapIdx_lanesOf {α : Type} (w : Nat) (v : Vec) (f : Nat → Nat → α) :
    (lanesOf w v).mapIdx f = tab (512 / w) fun j => f j (lane w v j) :=
  List.ext_getElem (by simp [lanesOf, tab]) fun j _ _ => by simp [lanesOf, tab]

theorem tyWidth_dvd (ty : Nat) : tyWidth ty ∣ 64 := by
  rcases Nat.lt_or_ge ty 16 with h | h
  · have hall : ∀ t < 16, tyWidth t ∣ 64 := by decide
    exact hall ty h
  · rw [tyWidth, List.getD_eq_getElem?_getD, List.getElem?_eq_none (by simpa using h)]
    exact dvd_rfl

theorem tyWidth_le (ty : Nat) : tyWidth ty ≤ 64 := Nat.le_of_dvd (by decide) (tyWidth_dvd ty)

theorem lanes_pos (ty : Nat) : 0 < 512 / tyWidth ty :=
  Nat.div_pos ((tyWidth_le ty).trans (by decide)) (tyWidth_pos ty)

/-! ## A scalar result of a pattern -/

theorem fireTimed_pat {k : Who → Word → State → Except FaultInfo Done} {r : LaneRes} (h : Fires s i o.g w x)
    (hk : k w x s.taken = .ok (patDone s.taken w o.d.toNat o.a.toNat b rt W r)) :
    fireTimed o.g k s = .next (s.patFired w x o W rt b r.pat r.flag r.ev) := by
  rw [fireTimed_ok h hk, patDone, State.patFired]
  split <;> rfl

/-! ## Permutations and single lanes (R154, R155) -/

theorem permR_lanes {f : Nat → List Nat → List Nat → Nat → Nat → LaneRes} {r : Nat → LaneRes} (h : Fires s i o.g w x)
    (e : let lw := tyWidth o.ty.toNat
      ∀ j, j < 512 / lw → f (512 / lw) (lanesOf lw (s.taken.readV w o.a.toNat)) (lanesOf lw (s.taken.readV w o.b.toNat))
        (s.taken.readS w o.b.toNat).toNat j = r j) :
    ∃ t, permR o f s = .next t ∧ s.LanesFired w x o 2 (tyWidth o.ty.toNat) (512 / tyWidth o.ty.toNat) o.a.toNat o.b.toNat r t :=
  fireTimed_lanes _ h rfl e

theorem vprmIdx_lanes (h : Fires s (.vprmIdx o) o.g w x) :
    let L := 512 / tyWidth o.ty.toNat
    let b := s.laneAt w o.ty o.b
    ∃ t, exec (.vprmIdx o) s = .next t ∧ s.LanesFired w x o 2 (tyWidth o.ty.toNat) L o.a.toNat o.b.toNat
      (fun j => { pat := if b j < L then s.laneAt w o.ty o.a (b j) else 0, flag := decide (L ≤ b j) }) t := by
  intro L b
  change ∃ t, execVprmIdx o s = .next t ∧ _
  refine permR_lanes h fun j hj => ?_
  rw [lanesOf_getD_of_lt _ _ hj, lanesOf_getD]
  rfl

theorem vprmRot_lanes (h : Fires s (.vprmRot o) o.g w x) :
    let L := 512 / tyWidth o.ty.toNat
    let k := (s.taken.readS w o.b.toNat).toNat
    ∃ t, exec (.vprmRot o) s = .next t ∧ s.LanesFired w x o 2 (tyWidth o.ty.toNat) L o.a.toNat o.b.toNat
      (fun j => { pat := s.laneAt w o.ty o.a ((j + k) % L) }) t := by
  intro L k
  change ∃ t, execVprmRot o s = .next t ∧ _
  refine permR_lanes h fun j hj => ?_
  rw [Nat.add_mod_mod, lanesOf_getD_of_lt _ _ (Nat.mod_lt _ (lanes_pos _))]
  rfl

theorem vprmBcl_lanes (h : Fires s (.vprmBcl o) o.g w x) :
    let L := 512 / tyWidth o.ty.toNat
    let k := (s.taken.readS w o.b.toNat).toNat
    ∃ t, exec (.vprmBcl o) s = .next t ∧ s.LanesFired w x o 2 (tyWidth o.ty.toNat) L o.a.toNat o.b.toNat
      (fun _ => { pat := s.laneAt w o.ty o.a (k % L) }) t := by
  intro L k
  change ∃ t, execVprmBcl o s = .next t ∧ _
  refine permR_lanes h fun j hj => ?_
  rw [lanesOf_getD_of_lt _ _ (Nat.mod_lt _ (lanes_pos _))]
  rfl

theorem vprmPair_lanes (h : Fires s (.vprmPair o) o.g w x) :
    ∃ t, exec (.vprmPair o) s = .next t ∧
      s.LanesFired w x o 2 (tyWidth o.ty.toNat) (512 / tyWidth o.ty.toNat) o.a.toNat o.b.toNat
        (fun j => { pat := if j % 2 = 0 then s.laneAt w o.ty o.a (j / 2) else s.laneAt w o.ty o.b (j / 2) }) t := by
  change ∃ t, execVprmPair o s = .next t ∧ _
  refine permR_lanes h fun j hj => ?_
  have hhalf : j / 2 < 512 / tyWidth o.ty.toNat := by omega
  split
  · rw [lanesOf_getD_of_lt _ _ hhalf]
    rfl
  · rw [show (j - 1) / 2 = j / 2 by omega, lanesOf_getD_of_lt _ _ hhalf]
    rfl

/-- One lane of a vector replaced; an index outside it replaces none. -/
theorem lane_packLanes_set {lw j : Nat} (v : Vec) (k y : Nat) (hj : j < 512 / lw) :
    lane lw (packLanes lw ((lanesOf lw v).set k (y % 2 ^ lw))) j = if j = k then y % 2 ^ lw else lane lw v j := by
  rw [lane_packLanes _ hj, List.getD_eq_getElem?_getD, List.getElem?_set, length_lanesOf]
  rcases eq_or_ne j k with rfl | hne
  · rw [if_pos rfl, if_pos rfl, if_pos hj, Option.getD_some, Nat.mod_mod]
  · rw [if_neg hne.symm, if_neg hne, ← List.getD_eq_getElem?_getD, lanesOf_getD_of_lt _ _ hj, Nat.mod_eq_of_lt (lane_lt ..)]

theorem vinsIns_fires (h : Fires s (.vinsIns o) o.g w x) :
    let L := 512 / tyWidth o.ty.toNat
    let k := (s.taken.readS w o.b.toNat).toNat
    ∃ v : Vec, (∀ j, j < L → lane (tyWidth o.ty.toNat) v j = if j = k then s.patAt w o.ty o.a else s.laneAt w o.ty o.d j) ∧
      exec (.vinsIns o) s = .next (s.fired w x o.g
        { wr := writeV o.d.toNat tagData v, outcome := decide (k < L), flag := decide (L ≤ k) }) := by
  intro L k
  refine ⟨_, fun j hj => lane_packLanes_set (s.taken.readV w o.d.toNat) k _ hj, ?_⟩
  change execVinsIns o s = _
  rw [execVinsIns, fireTimed_ok h rfl]
  simp only [length_lanesOf, ← decide_not, Nat.not_lt]
  rfl

theorem vinsExt_fires (h : Fires s (.vinsExt o) o.g w x) :
    let L := 512 / tyWidth o.ty.toNat
    let k := (s.taken.readS w o.b.toNat).toNat
    exec (.vinsExt o) s = .next (s.patFired w x o 2 o.ty.toNat o.b.toNat (if k < L then s.laneAt w o.ty o.a k else 0)
      (decide (L ≤ k)) []) := by
  intro L k
  change execVinsExt o s = _
  rw [execVinsExt, fireTimed_pat h rfl]
  simp only [lanesOf_getD, length_lanesOf]
  rfl

theorem viota_lanes (h : Fires s (.viota o) o.g w x) :
    ∃ t, exec (.viota o) s = .next t ∧
      s.LanesFired w x o 2 (tyWidth o.ty.toNat) (512 / tyWidth o.ty.toNat) o.a.toNat o.b.toNat (fun j =>
        { pat := (s.taken.readS w o.a.toNat + BitVec.ofNat 64 j * s.taken.readS w o.b.toNat).toNat % 2 ^ tyWidth o.ty.toNat })
        t := by
  change ∃ t, execViota o s = .next t ∧ _
  refine fireTimed_lanes _ h rfl fun j hj => ?_
  rw [BitVec.toNat_add, BitVec.toNat_mul, BitVec.toNat_ofNat, Nat.mod_mul_mod, Nat.add_mod_mod,
    Nat.mod_mod_of_dvd _ (Nat.pow_dvd_pow 2 (tyWidth_le _))]

/-! ## Bitmaps (R160) -/

theorem vbmpExpd_lanes (h : Fires s (.vbmpExpd o) o.g w x) :
    let k := (s.taken.readS w o.b.toNat).toNat
    ∃ t, exec (.vbmpExpd o) s = .next t ∧
      s.LanesFired w x o 2 (tyWidth o.ty.toNat) (512 / tyWidth o.ty.toNat) o.a.toNat o.b.toNat (fun j =>
        { pat := if k + j < 512 ∧ (s.taken.readV w o.a.toNat).getLsbD (k + j) then 2 ^ tyWidth o.ty.toNat - 1 else 0 }) t := by
  intro k
  change ∃ t, execVbmpExpd o s = .next t ∧ _
  exact fireTimed_lanes _ h rfl fun _ _ => rfl

theorem countP_getLsbD_ne_zero (v : Vec) : (((List.range 512).countP fun j => v.getLsbD j) != 0) = (v != 0) := by
  have hzero : ((List.range 512).countP fun j => v.getLsbD j) = 0 ↔ v = 0 := by
    rw [List.countP_eq_zero]
    refine ⟨fun h => BitVec.eq_of_getLsbD_eq fun j hj => ?_, fun h => by simp [h]⟩
    simpa using h j (List.mem_range.mpr hj)
  rw [Bool.eq_iff_iff, bne_iff_ne, bne_iff_ne, Ne, Ne, hzero]

theorem vbmpCnt_fires (h : Fires s (.vbmpCnt o) o.g w x) :
    let v := s.taken.readV w o.a.toNat
    exec (.vbmpCnt o) s = .next (s.fired w x o.g
      { wr := writeS o.d.toNat (s.taken.tagOf w o.a.toNat 26)
                (BitVec.ofNat 64 ((List.range 512).countP fun j => v.getLsbD j)), outcome := v != 0 }) := by
  intro v
  change execVbmpCnt o s = _
  rw [execVbmpCnt, fireTimed_ok h rfl, ← countP_getLsbD_ne_zero v]
  simp only [popcount_eq]
  rfl

theorem getLsbD_foldl_or {j : Nat} (l : List Nat) (v : Vec) (hj : j < 512) :
    (l.foldl (fun v k => v ||| (1#512 <<< k)) v).getLsbD j = (v.getLsbD j || l.any (· == j)) := by
  induction l generalizing v with
  | nil => simp
  | cons k l ih =>
    have hbit : (1#512 <<< k).getLsbD j = (k == j) := by
      rw [BitVec.getLsbD_shiftLeft, BitVec.getLsbD_one, Bool.eq_iff_iff]
      simp [hj]
      omega
    rw [List.foldl_cons, ih, BitVec.getLsbD_or, hbit, List.any_cons, Bool.or_assoc]

/-- The number of lanes that `VBMP.SETB` reads. -/
def setbCount (L k : Nat) : Nat := if k = 0 ∨ L < k then L else k

theorem setbCount_le (L k : Nat) : setbCount L k ≤ L := by
  unfold setbCount
  split <;> omega

theorem vbmpSetb_fires (h : Fires s (.vbmpSetb o) o.g w x) :
    let n := setbCount (512 / tyWidth o.ty.toNat) (s.taken.readS w o.b.toNat).toNat
    let a := s.laneAt w o.ty o.a
    ∃ v : Vec, (∀ j, j < 512 → v.getLsbD j =
        ((s.taken.readV w o.d.toNat).getLsbD j || (List.range n).any fun k => a k == j)) ∧
      exec (.vbmpSetb o) s = .next (s.fired w x o.g
        { wr := writeV o.d.toNat tagData v, outcome := (List.range n).any fun k => decide (a k < 512)
          flag := (List.range n).any fun k => decide (512 ≤ a k) }) := by
  intro n a
  have hlanes : (lanesOf (tyWidth o.ty.toNat) (s.taken.readV w o.a.toNat)).take n = (List.range n).map a :=
    take_tab _ (setbCount_le ..)
  have hsome : (!(((List.range n).map a).filter fun k => decide (k < 512)).isEmpty) =
      (List.range n).any fun k => decide (a k < 512) := by
    rw [Bool.eq_iff_iff]
    simp
  have hrest : ((((List.range n).map a).filter fun k => decide (k < 512)).length != ((List.range n).map a).length) =
      (List.range n).any fun k => decide (512 ≤ a k) := by
    rw [Bool.eq_iff_iff, bne_iff_ne, Ne, List.length_filter_eq_length_iff]
    simp
  refine ⟨(((List.range n).map a).filter fun k => decide (k < 512)).foldl (fun v k => v ||| (1#512 <<< k))
    (s.taken.readV w o.d.toNat), fun j hj => ?_, ?_⟩
  · rw [getLsbD_foldl_or _ _ hj, List.any_filter, List.any_map]
    congr 2
    funext k
    rcases eq_or_ne (a k) j with hk | hk <;> simp [hk, hj]
  · change execVbmpSetb o s = _
    rw [execVbmpSetb, fireTimed_ok h rfl, ← hsome, ← hrest, ← hlanes]
    rfl

theorem laneW_int {ty : Nat} (h : ty < 8) : laneW ty = 2 := by rw [laneW, tyFloat_eq_false h]; rfl

theorem laneW_float {ty : Nat} (h : tyFloat ty = true) : laneW ty = 6 := if_pos h

/-- W as a TY fixes it. -/
theorem lanesFired_at {out : Out} {V W lw n a b : Nat} {r : Nat → LaneRes} (hV : V = W)
    (h : ∃ t, out = .next t ∧ s.LanesFired w x o V lw n a b r t) :
    ∃ t, out = .next t ∧ s.LanesFired w x o W lw n a b r t := hV ▸ h

/-- Settles O21. The lanes are those of `lanePick`, `signLane`, `relLane` and `shiftLane`, the integer clamp is the minimum of
a maximum (`laneClmp_int`), and the words that move lanes read them off `lanesOf`. -/
theorem vectorSelectionAndMovement : Obligations.VectorSelectionAndMovement := by
  unfold Obligations.VectorSelectionAndMovement
  refine ⟨fun o s w x => ⟨?_, ?_, ?_, ?_, ?_, ?_, ?_, ?_, ?_, ?_, ?_, ?_, ?_⟩, fun o s w x => ⟨vprmIdx_lanes, vprmRot_lanes,
    vprmBcl_lanes, vprmPair_lanes, vinsIns_fires, vinsExt_fires, viota_lanes, vbmpExpd_lanes, vbmpCnt_fires, vbmpSetb_fires⟩⟩
  · exact fun h => vecR_lanes h fun _ _ => laneMm_eq _ false true _ _
  · exact fun h => vecR_lanes h fun _ _ => laneMm_eq _ false false _ _
  · exact fun h => vecR_lanes h fun _ _ => laneMm_eq _ true true _ _
  · exact fun h => vecR_lanes h fun _ _ => laneMm_eq _ true false _ _
  · exact fun h => vecR_lanes h fun _ _ => laneSgn_abs ..
  · exact fun h => vecR_lanes h fun _ _ => laneSgn_neg _ (laneAt_lt ..)
  · exact fun hf h => lanesFired_at (laneW_float hf) (vecR_lanes h fun j _ => laneSgn_csgn hf (laneAt_lt ..))
  · exact vcmp_fires
  · intro h
    change ∃ t, execVsel o s = .next t ∧ _
    exact vecR3_lanes h fun _ _ => rfl
  · intro h
    change execVlog o s = _
    exact fireTimed_ok h rfl
  · exact fun hty h => lanesFired_at (laneW_int hty) (vecR_lanes h fun j _ => laneShf_eq _ (laneAt_lt ..))
  · exact fun hty h => lanesFired_at (laneW_int hty)
      (vecR3_lanes h fun j _ => laneClmp_int hty (laneAt_lt ..) (laneAt_lt ..) (laneAt_lt ..))
  · exact fun hf h => lanesFired_at (laneW_float hf) (vecR3_lanes h fun j _ => laneClmp_float hf _ _ _)

end Sys2Proof.Machine
end

section
/-!
SUPPORT. Vector conversions and transcendental functions (R147, R148).
-/

namespace Sys2Proof.Machine

variable {s : State} {i : Instr} {w : Who} {x : Word} {o : FormR}

theorem convertR_lanes (rm : Rm) (h : Fires s i o.g w x) :
    let src := o.b.toNat
    let r (j : Nat) : FRes := convert rm src o.ty.toNat (lane (tyWidth src) (s.taken.readV w o.a.toNat) j) false
    ∃ t, convertR o rm s = .next t ∧
      s.LanesFired w x o 6 (tyWidth o.ty.toNat) (min (512 / tyWidth src) (512 / tyWidth o.ty.toNat)) o.a.toNat 26
        (fun j => { pat := (r j).pat, flag := (r j).ev.getD 4 0 != 0, ev := (r j).ev }) t :=
  fireTimed_lanes _ h rfl fun _ _ => rfl

/-- Settles O22. That `expV`, `exp2V`, `logV`, `tanhV` and `sigmV` may take an open value where no precision that they try
decides the rounding is the model's choice (log 13); the statement says that the word gives each lane their result. -/
theorem vectorConversion : Obligations.VectorConversion := by
  unfold Obligations.VectorConversion
  exact fun o s w x => ⟨convertR_lanes .rne, convertR_lanes .rz, convertR_lanes .ru, convertR_lanes .rd, convertR_lanes .rna,
    vecR_float fun f m _ => f.expV m, vecR_float fun f m _ => f.exp2V m, vecR_float fun f m _ => f.logV false m,
    vecR_float fun f m _ => f.logV true m, vecR_float fun f m _ => f.tanhV m, vecR_float fun f m _ => f.sigmV m⟩

end Sys2Proof.Machine
end

section
/-!
SUPPORT. Dot products, reductions and scans of a vector (R88, R149, R150, R153).
-/

namespace Sys2Proof.Machine

variable {s : State} {i : Instr} {w : Who} {x : Word} {o : FormR}

/-! ## Dot products (R149) -/

theorem zip_lanesOf (w : Nat) (u v : Vec) :
    (lanesOf w u).zip (lanesOf w v) = tab (512 / w) fun j => (lane w u j, lane w v j) := by
  simp only [lanesOf, tab, List.zip_map']

theorem vdot_int (hty : o.ty.toNat < 8) (h : Fires s (.vdot o) o.g w x) :
    let q (j : Nat) : Int := readTy o.ty.toNat (s.laneAt w o.ty o.a j) * readTy o.ty.toNat (s.laneAt w o.ty o.b j)
    exec (.vdot o) s = .next (s.patFired w x o 6 (if o.ty.toNat < 4 then 3 else 7) o.b.toNat
      (pattern ((tab (512 / tyWidth o.ty.toNat) q).foldl (· + ·) 0) 64) false []) := by
  intro q
  have hdot : dotTy o.ty.toNat = if o.ty.toNat < 4 then 3 else 7 := by rw [dotTy, if_pos hty]
  change execVdot o s = _
  rw [execVdot, fireTimed_pat h rfl, hdot]
  simp only [tyFloat_eq_false hty, zip_lanesOf, tab, List.foldl_map]
  rfl

theorem dotTy_float {ty : Nat} (h : tyFloat ty = true) : dotTy ty = if ty = 11 then 11 else 10 := by
  have hge : 8 ≤ ty := by simp only [tyFloat, Bool.and_eq_true, decide_eq_true_eq] at h; exact h.1
  rw [dotTy, if_neg (by omega), if_neg (by omega)]

theorem vdot_float (hty : tyFloat o.ty.toNat = true) (h : Fires s (.vdot o) o.g w x) :
    let f := fmtOf o.ty.toNat
    let rt := if o.ty.toNat = 11 then 11 else 10
    let ps := tab (512 / tyWidth o.ty.toNat) fun j => (f.decode (s.laneAt w o.ty o.a j), f.decode (s.laneAt w o.ty o.b j))
    let r := (fmtOf rt).dot ps
    exec (.vdot o) s = .next (s.patFired w x o 6 rt o.b.toNat r.pat false
      (if ps.any nanProduct then event 1 (ps.countP badProduct) else r.ev)) := by
  intro f rt ps r
  have hps : ((lanesOf (tyWidth o.ty.toNat) (s.taken.readV w o.a.toNat)).zip
      (lanesOf (tyWidth o.ty.toNat) (s.taken.readV w o.b.toNat))).map (fun p => (f.decode p.1, f.decode p.2)) = ps := by
    rw [zip_lanesOf, map_tab]
    rfl
  change execVdot o s = _
  rw [execVdot, fireTimed_pat h rfl, dotTy_float hty]
  dsimp only
  rw [if_pos hty, hps]
  cases ps.any nanProduct <;> rfl

/-! ## The tree of R88 -/

section Tree
variable {β : Type} {f : LaneRes → LaneRes → LaneRes} {P : LaneRes → List β → Prop}

/-- One level of the tree joins neighbouring blocks. -/
theorem pairUp_blocks (hf : ∀ y z l k, P y l → P z k → P (f y z) (l ++ k)) (ys : List LaneRes) (bs : List (List β))
    (h : List.Forall₂ P ys bs) : ∃ cs, List.Forall₂ P (pairUp f ys) cs ∧ cs.flatten = bs.flatten := by
  induction ys using pairUp.induct generalizing bs with
  | case1 y z ys ih =>
    obtain ⟨b, _, hy, hrest, rfl⟩ := List.forall₂_cons_left_iff.mp h
    obtain ⟨c, bs, hz, hbs, rfl⟩ := List.forall₂_cons_left_iff.mp hrest
    obtain ⟨cs, hcs, hflat⟩ := ih bs hbs
    exact ⟨(b ++ c) :: cs, .cons (hf _ _ _ _ hy hz) hcs, by simp [hflat]⟩
  | case2 ys hne =>
    refine ⟨bs, ?_, rfl⟩
    rw [pairUp]
    · exact h
    · exact hne

theorem length_pairUp (ys : List LaneRes) : (pairUp f ys).length = (ys.length + 1) / 2 := by
  induction ys using pairUp.induct with
  | case1 y z ys ih =>
    simp only [pairUp, List.length_cons, ih]
    omega
  | case2 ys hne =>
    rw [pairUp]
    · match ys with
      | [] => rfl
      | [_] => simp
      | y :: z :: ys => exact absurd rfl (hne y z ys)
    · exact hne

theorem headD_blocks {ys : List LaneRes} {bs : List (List β)} (hone : ys.length = 1) (h : List.Forall₂ P ys bs) :
    P (ys.headD { pat := 0 }) bs.flatten := by
  obtain ⟨y, rfl⟩ := List.length_eq_one_iff.mp hone
  obtain ⟨b, bs, hy, hrest, rfl⟩ := List.forall₂_cons_left_iff.mp h
  obtain rfl := List.forall₂_nil_left_iff.mp hrest
  simpa using hy

/-- The root of a tree with levels enough stands for all its leaves in order. -/
theorem treeOf_blocks (hf : ∀ y z l k, P y l → P z k → P (f y z) (l ++ k)) (n : Nat) (ys : List LaneRes)
    (bs : List (List β)) (hpos : 0 < ys.length) (hn : ys.length ≤ 2 ^ n) (h : List.Forall₂ P ys bs) :
    P (treeOf f n ys) bs.flatten := by
  induction n generalizing ys bs with
  | zero => exact headD_blocks (by omega) h
  | succ n ih =>
    rw [treeOf]
    split
    next hle => exact headD_blocks (by omega) h
    next hlt =>
      obtain ⟨cs, hcs, hflat⟩ := pairUp_blocks hf ys bs h
      rw [← hflat]
      have hlen := length_pairUp (f := f) ys
      rw [Nat.pow_succ] at hn
      exact ih _ _ (by omega) (by omega) hcs

theorem treeOf_tab {n L : Nat} {g : Nat → LaneRes} {b : Nat → β} (hpos : 0 < L) (hn : L ≤ 2 ^ n)
    (hf : ∀ y z l k, P y l → P z k → P (f y z) (l ++ k)) (hleaf : ∀ j, j < L → P (g j) [b j]) :
    P (treeOf f n (tab L g)) (tab L b) := by
  have hblocks : List.Forall₂ P (tab L g) (tab L fun j => [b j]) := by
    rw [tab, tab, List.forall₂_map_left_iff, List.forall₂_map_right_iff, List.forall₂_same]
    exact fun j hj => hleaf j (List.mem_range.mp hj)
  have hflat : (tab L fun j => [b j]).flatten = tab L b := by
    rw [tab, ← List.flatMap_def, ← List.map_eq_flatMap, tab]
  rw [← hflat]
  exact treeOf_blocks hf n _ _ (by simpa [tab] using hpos) (by simpa [tab] using hn) hblocks

end Tree

/-! ## Reductions (R150) -/

/-- A node of a reduction: the operation on two patterns, and the events of both sides and its own. -/
def redNode (op : Nat → Nat → LaneRes) (m n : LaneRes) : LaneRes :=
  { pat := (op m.pat n.pat).pat, ev := addCnts (addCnts m.ev n.ev) (op m.pat n.pat).ev }

theorem reduceR_ok (op : Nat → Nat → Nat → LaneRes) (h : Fires s i o.g w x) :
    let ty := o.ty.toNat
    let rt := if ty = 8 ∨ ty = 9 then 10 else ty
    let r := treeOf (redNode (op rt)) 10 (tab (512 / tyWidth ty) fun j =>
      if rt = ty then { pat := s.laneAt w o.ty o.a j } else fLane (fmtF32.ofV .rne ((fmtOf ty).decode (s.laneAt w o.ty o.a j))))
    reduceR o op s = .next (s.patFired w x o 4 rt 26 r.pat r.flag r.ev) := by
  intro ty rt r
  rw [reduceR, fireTimed_pat h rfl]
  simp only [lanesOf, tab, List.map_map]
  rfl

theorem lanes_le (ty : Nat) : 512 / tyWidth ty ≤ 2 ^ 10 := (Nat.div_le_self ..).trans (by decide)

/-- A reduction counts no flag. -/
theorem treeOf_redNode_flag (op : Nat → Nat → LaneRes) (ty : Nat) {g : Nat → LaneRes} (hg : ∀ j, (g j).flag = false) :
    (treeOf (redNode op) 10 (tab (512 / tyWidth ty) g)).flag = false :=
  treeOf_tab (P := fun r (_ : List Unit) => r.flag = false) (b := fun _ => ()) (lanes_pos ty) (lanes_le ty)
    (fun _ _ _ _ _ _ => rfl) (fun j _ => hg j)

theorem reduceR_float (op : Nat → Nat → Nat → LaneRes) (hty : tyFloat o.ty.toNat = true) (h : Fires s i o.g w x) :
    let ty := o.ty.toNat
    let rt := if ty = 11 then 11 else 10
    let r := treeOf (redNode (op rt)) 10 (tab (512 / tyWidth ty) fun j =>
      if ty < 10 then fLane (fmtF32.ofV .rne ((fmtOf ty).decode (s.laneAt w o.ty o.a j))) else { pat := s.laneAt w o.ty o.a j })
    reduceR o op s = .next (s.patFired w x o 4 rt 26 r.pat false r.ev) := by
  intro ty rt r
  simp only [tyFloat, Bool.and_eq_true, decide_eq_true_eq] at hty
  obtain ⟨hge, hlt⟩ := hty
  have hrt : (if ty = 8 ∨ ty = 9 then 10 else ty) = rt := by
    simp only [rt]
    split <;> split <;> omega
  have hwide : rt = ty ↔ ¬ ty < 10 := by
    simp only [rt]
    split <;> omega
  have hflag : r.flag = false := treeOf_redNode_flag (op rt) ty fun j => by split <;> rfl
  have hok := reduceR_ok op h
  simp only [show o.ty.toNat = ty from rfl, hrt, hwide, ite_not] at hok
  refine hok.trans ?_
  change Host.Outcome.next (s.patFired w x o 4 rt 26 r.pat r.flag r.ev) = _
  rw [hflag]

/-- A node of an integer reduction stands for the lanes `l`: `Q` holds of its pattern, and it counts nothing, a leaf with no
counts at all. -/
def StandsFor (Q : Nat → List Nat → Prop) (r : LaneRes) (l : List Nat) : Prop :=
  Q r.pat l ∧ r.flag = false ∧ (l.length = 1 ∧ r.ev = [] ∨ r.ev = List.replicate 5 0)

theorem redNode_standsFor {op : Nat → Nat → LaneRes} {Q : Nat → List Nat → Prop} (hev : ∀ m n, (op m n).ev = [])
    (hnode : ∀ m n l k, Q m l → Q n k → Q (op m n).pat (l ++ k)) (y z : LaneRes) (l k : List Nat) (hy : StandsFor Q y l)
    (hz : StandsFor Q z k) : StandsFor Q (redNode op y z) (l ++ k) := by
  obtain ⟨hQy, -, hey⟩ := hy
  obtain ⟨hQz, -, hez⟩ := hz
  have hey : y.ev = [] ∨ y.ev = List.replicate 5 0 := hey.imp_left And.right
  have hez : z.ev = [] ∨ z.ev = List.replicate 5 0 := hez.imp_left And.right
  refine ⟨hnode _ _ _ _ hQy hQz, rfl, .inr ?_⟩
  rw [redNode, hev]
  rcases hey with hy | hy <;> rcases hez with hz | hz <;> rw [hy, hz] <;> rfl

/-- An integer type has eight lanes or more, so the root of its tree is no leaf. -/
theorem length_tab_lanes_ne_one (ty : Nat) (f : Nat → Nat) : (tab (512 / tyWidth ty) f).length ≠ 1 := by
  have hle := tyWidth_le ty
  have : 8 ≤ 512 / tyWidth ty := (Nat.le_div_iff_mul_le (tyWidth_pos _)).mpr (by omega)
  simp only [tab, List.length_map, List.length_range]
  omega

/-- What a reduction of integer lanes comes to: `Q` holds of a pattern and the lanes it stands for. -/
theorem reduceR_int {op : Nat → Nat → Nat → LaneRes} {Q : Nat → List Nat → Prop} {r : Int} (hty : o.ty.toNat < 8)
    (hev : ∀ m n, (op o.ty.toNat m n).ev = [])
    (hleaf : ∀ j, Q (s.laneAt w o.ty o.a j) [s.laneAt w o.ty o.a j])
    (hnode : ∀ m n l k, Q m l → Q n k → Q (op o.ty.toNat m n).pat (l ++ k))
    (hroot : ∀ p, Q p (tab (512 / tyWidth o.ty.toNat) (s.laneAt w o.ty o.a)) → p = pattern r (tyWidth o.ty.toNat))
    (h : Fires s i o.g w x) :
    reduceR o op s =
      .next (s.patFired w x o 4 o.ty.toNat 26 (pattern r (tyWidth o.ty.toNat)) false (List.replicate 5 0)) := by
  obtain ⟨hQ, hflag, hevents⟩ := treeOf_tab (P := StandsFor Q) (g := fun j => { pat := s.laneAt w o.ty o.a j })
    (b := s.laneAt w o.ty o.a) (lanes_pos o.ty.toNat) (lanes_le o.ty.toNat) (redNode_standsFor hev hnode)
    fun j _ => ⟨hleaf j, rfl, .inl ⟨rfl, rfl⟩⟩
  have hrt : (if o.ty.toNat = 8 ∨ o.ty.toNat = 9 then 10 else o.ty.toNat) = o.ty.toNat := if_neg (by omega)
  rw [reduceR_ok op h]
  simp only [hrt, if_true]
  rw [hroot _ hQ, hflag, hevents.resolve_left fun hone => length_tab_lanes_ne_one _ _ hone.1]

/-- The fold of a joined list is the fold of the parts' folds. -/
theorem foldl_append_fold {α : Type} {op : α → α → α} [Std.Associative op] [Std.Commutative op] {e : α} (he : op e e = e)
    (l k : List α) : (l ++ k).foldl op e = op (l.foldl op e) (k.foldl op e) := by
  have hidem : op (l.foldl op e) e = l.foldl op e := by
    rw [Std.Commutative.comm (op := op), ← List.foldl_assoc (op := op), he]
  rw [List.foldl_append, ← List.foldl_assoc (op := op), hidem]

/-- A reduction whose operation is `fop` on the values `v` of patterns. -/
theorem reduceR_fold {op : Nat → Nat → Nat → LaneRes} {α : Type} (v : Nat → α) {fop : α → α → α} [Std.Associative fop]
    [Std.Commutative fop] {e : α} {r : Int} (hty : o.ty.toNat < 8) (he : fop e e = e)
    (hev : ∀ m n, (op o.ty.toNat m n).ev = [])
    (hid : ∀ m, m < 2 ^ tyWidth o.ty.toNat → fop e (v m) = v m)
    (hop : ∀ m n, m < 2 ^ tyWidth o.ty.toNat → n < 2 ^ tyWidth o.ty.toNat →
      (op o.ty.toNat m n).pat < 2 ^ tyWidth o.ty.toNat ∧ v (op o.ty.toNat m n).pat = fop (v m) (v n))
    (hroot : ∀ p, p < 2 ^ tyWidth o.ty.toNat →
      v p = (tab (512 / tyWidth o.ty.toNat) fun j => v (s.laneAt w o.ty o.a j)).foldl fop e → p = pattern r (tyWidth o.ty.toNat))
    (h : Fires s i o.g w x) :
    reduceR o op s =
      .next (s.patFired w x o 4 o.ty.toNat 26 (pattern r (tyWidth o.ty.toNat)) false (List.replicate 5 0)) := by
  refine reduceR_int (Q := fun p l => p < 2 ^ tyWidth o.ty.toNat ∧ v p = (l.map v).foldl fop e) hty hev
    (fun j => ⟨laneAt_lt .., (hid _ (laneAt_lt ..)).symm⟩) (fun m n l k hm hn => ?_) (fun p hp => ?_) h
  · obtain ⟨hlt, hval⟩ := hop m n hm.1 hn.1
    exact ⟨hlt, by rw [hval, hm.2, hn.2, List.map_append, foldl_append_fold he]⟩
  · exact hroot p hp.1 (hp.2.trans (by rw [map_tab]))

theorem natCast_pattern_zmod (e : Int) (W : Nat) : ((pattern e W : Nat) : ZMod (2 ^ W)) = (e : ZMod (2 ^ W)) := by
  rw [← Int.cast_natCast, natCast_pattern]
  exact ZMod.intCast_mod e (2 ^ W)

theorem intCast_readTy (ty m : Nat) : (readTy ty m : ZMod (2 ^ tyWidth ty)) = (m : ZMod (2 ^ tyWidth ty)) := by
  rw [← natCast_pattern_zmod, pattern_readTy]
  exact ZMod.natCast_mod m _

/-- A sum of integer lanes, modulo 2^w. -/
theorem vredSum_int (hty : o.ty.toNat < 8) (h : Fires s (.vredSum o) o.g w x) :
    let r := (tab (512 / tyWidth o.ty.toNat) fun j => readTy o.ty.toNat (s.laneAt w o.ty o.a j)).foldl (· + ·) 0
    exec (.vredSum o) s =
      .next (s.patFired w x o 4 o.ty.toNat 26 (pattern r (tyWidth o.ty.toNat)) false (List.replicate 5 0)) := by
  intro r
  have hadd (m n : Nat) : laneAdd o.ty.toNat m n = iLane o.ty.toNat (readTy o.ty.toNat m + readTy o.ty.toNat n) := by
    rw [laneAdd, tyFloat_eq_false hty]; rfl
  refine reduceR_fold (fun m => (m : ZMod (2 ^ tyWidth o.ty.toNat))) hty (add_zero 0) (fun m n => by rw [hadd]; rfl)
    (fun m _ => zero_add _) (fun m n _ _ => ?_) (fun p hp hsum => ?_) h
  · rw [hadd]
    exact ⟨pattern_lt .., by simp only [iLane, natCast_pattern_zmod, Int.cast_add, intCast_readTy]⟩
  · have hcast : (p : ZMod (2 ^ tyWidth o.ty.toNat)) = (pattern r (tyWidth o.ty.toNat) : Nat) := by
      rw [hsum, natCast_pattern_zmod, ← List.sum_eq_foldl, show r = _ from List.sum_eq_foldl.symm, Int.cast_list_sum, map_tab]
      simp only [intCast_readTy]
    rw [ZMod.natCast_eq_natCast_iff', Nat.mod_eq_of_lt hp, pattern_mod_self] at hcast
    exact hcast

theorem laneMm_ev {ty : Nat} (hty : ty < 8) (big num : Bool) (m n : Nat) : (laneMm ty big num m n).ev = [] := by
  simp only [laneMm, tyFloat_eq_false hty, Bool.false_eq_true, if_false]

theorem vredMax_int (hty : o.ty.toNat < 8) (h : Fires s (.vredMax o) o.g w x) :
    let r := (tab (512 / tyWidth o.ty.toNat) fun j => readTy o.ty.toNat (s.laneAt w o.ty o.a j)).foldl max (tyMin o.ty.toNat)
    exec (.vredMax o) s =
      .next (s.patFired w x o 4 o.ty.toNat 26 (pattern r (tyWidth o.ty.toNat)) false (List.replicate 5 0)) := by
  intro r
  change execVredMax o s = _
  refine reduceR_fold (readTy o.ty.toNat) hty (max_self _) (fun m n => laneMm_ev hty true false m n)
    (fun m _ => max_eq_right (tyMin_le_readTy ..)) (fun m n hm hn => ⟨laneMm_lt hty hm hn, readTy_laneMm_max hty ..⟩)
    (fun p hp hmax => ?_) h
  rw [← pattern_readTy_of_lt hp, hmax]

theorem vredMin_int (hty : o.ty.toNat < 8) (h : Fires s (.vredMin o) o.g w x) :
    let r := (tab (512 / tyWidth o.ty.toNat) fun j => readTy o.ty.toNat (s.laneAt w o.ty o.a j)).foldl min (tyMax o.ty.toNat)
    exec (.vredMin o) s =
      .next (s.patFired w x o 4 o.ty.toNat 26 (pattern r (tyWidth o.ty.toNat)) false (List.replicate 5 0)) := by
  intro r
  change execVredMin o s = _
  refine reduceR_fold (readTy o.ty.toNat) hty (min_self _) (fun m n => laneMm_ev hty false false m n)
    (fun m _ => min_eq_right (readTy_le_tyMax ..)) (fun m n hm hn => ⟨laneMm_lt hty hm hn, readTy_laneMm_min hty ..⟩)
    (fun p hp hmin => ?_) h
  rw [← pattern_readTy_of_lt hp, hmin]

theorem vredAnd_int (hty : o.ty.toNat < 8) (h : Fires s (.vredAnd o) o.g w x) :
    let r : Nat := (tab (512 / tyWidth o.ty.toNat) (s.laneAt w o.ty o.a)).foldl (· &&& ·) (2 ^ tyWidth o.ty.toNat - 1)
    exec (.vredAnd o) s =
      .next (s.patFired w x o 4 o.ty.toNat 26 (pattern r (tyWidth o.ty.toNat)) false (List.replicate 5 0)) := by
  intro r
  change execVredAnd o s = _
  refine reduceR_fold id hty (Nat.and_self _) (fun _ _ => rfl)
    (fun m hm => by rw [Nat.and_comm, id, Nat.and_two_pow_sub_one_of_lt_two_pow hm])
    (fun m n hm _ => ⟨Nat.and_le_left.trans_lt hm, rfl⟩) (fun p hp hand => ?_) h
  rw [pattern_natCast, show r = p from hand.symm, Nat.mod_eq_of_lt hp]

theorem vredOr_int (hty : o.ty.toNat < 8) (h : Fires s (.vredOr o) o.g w x) :
    let r : Nat := (tab (512 / tyWidth o.ty.toNat) (s.laneAt w o.ty o.a)).foldl (· ||| ·) 0
    exec (.vredOr o) s =
      .next (s.patFired w x o 4 o.ty.toNat 26 (pattern r (tyWidth o.ty.toNat)) false (List.replicate 5 0)) := by
  intro r
  change execVredOr o s = _
  refine reduceR_fold id hty (Nat.or_self _) (fun _ _ => rfl) (fun m _ => Nat.zero_or m)
    (fun m n hm hn => ⟨Nat.or_lt_two_pow hm hn, rfl⟩) (fun p hp hor => ?_) h
  rw [pattern_natCast, show r = p from hor.symm, Nat.mod_eq_of_lt hp]

/-! ## Scans (R153) -/

section Scan
variable (op : Nat → Nat → LaneRes) (ident : Nat) (a : Nat → Nat) (head : Nat → Bool)

/-- The value with which a scan comes to lane j. -/
def scanIn : Nat → Nat
  | 0 => ident
  | j + 1 => (op (if head j then ident else scanIn j) (a j)).pat

/-- Lane j of a scan: a head begins again at the identity. -/
def scanAt (j : Nat) : LaneRes := op (if head j then ident else scanIn op ident a head j) (a j)

/-- What the word writes for lane j, inclusive or exclusive. -/
def scanOut (excl : Bool) (j : Nat) : LaneRes :=
  { pat := if excl then (if head j then ident else scanIn op ident a head j) else (scanAt op ident a head j).pat
    ev := (scanAt op ident a head j).ev }

theorem scanLanes_range' (excl : Bool) (n k : Nat) :
    scanLanes op ident excl ((List.range' k n).map fun j => (a j, head j)) (scanIn op ident a head k) =
      (List.range' k n).map (scanOut op ident a head excl) := by
  induction n generalizing k with
  | zero => rfl
  | succ n ih =>
    rw [List.range'_succ, List.map_cons, List.map_cons, ← ih]
    rfl

theorem scanLanes_tab (excl : Bool) (L : Nat) :
    scanLanes op ident excl (tab L fun j => (a j, head j)) ident = tab L (scanOut op ident a head excl) := by
  rw [tab, tab, List.range_eq_range']
  exact scanLanes_range' op ident a head excl L 0

theorem scanAt_head {j : Nat} (h : head j = true) : scanAt op ident a head j = op ident (a j) := by
  rw [scanAt, if_pos h]

/-- A lane that begins no run goes on from the one before it. -/
theorem scanIn_of_pos {j : Nat} (h : j ≠ 0) : scanIn op ident a head j = (scanAt op ident a head (j - 1)).pat := by
  obtain ⟨j, rfl⟩ := Nat.exists_eq_succ_of_ne_zero h
  rfl

end Scan

/-- The lanes that begin a run. -/
def scanHead (heads : Vec) (j : Nat) : Bool := j == 0 || heads.getLsbD j

theorem scanHead_iff {heads : Vec} {j : Nat} : scanHead heads j = true ↔ j = 0 ∨ heads.getLsbD j = true := by
  simp [scanHead]

theorem scanR_fires (op : Nat → Nat → Nat → LaneRes) (ident : Nat → Nat) (excl : Bool) (h : Fires s i o.g w x) :
    let ty := o.ty.toNat
    ∃ t, scanR o op ident excl s = .next t ∧ s.LanesFired w x o 4 (tyWidth ty) (512 / tyWidth ty) o.a.toNat o.b.toNat
      (scanOut (op ty) (ident ty) (s.laneAt w o.ty o.a) (scanHead (s.taken.readV w o.b.toNat)) excl) t := by
  intro ty
  let heads := s.taken.readV w o.b.toNat
  have hscan : (scanLanes (op ty) (ident ty) excl ((lanesOf (tyWidth ty) (s.taken.readV w o.a.toNat)).mapIdx
      fun j m => (m, j == 0 || bitAt heads.toNat j)) (ident ty)).map (fun r => { r with flag := false }) =
      tab (512 / tyWidth ty) (scanOut (op ty) (ident ty) (s.laneAt w o.ty o.a) (scanHead heads) excl) := by
    rw [mapIdx_lanesOf]
    refine (congrArg _ (scanLanes_tab (op ty) (ident ty) (s.laneAt w o.ty o.a) (scanHead heads) excl _)).trans ?_
    rw [map_tab]
    rfl
  unfold scanR
  exact fireTimed_lanes _ h
    (congrArg (fun rs => Except.ok (lanesDone s.taken w o.d.toNat o.a.toNat o.b.toNat (tyWidth ty) 4 rs)) hscan) fun _ _ => rfl

theorem scanR_lanes (op : Nat → Nat → Nat → LaneRes) (ident : Nat → Nat) (excl : Bool) (h : Fires s i o.g w x) :
    let ty := o.ty.toNat
    let W := tyWidth ty
    let a := s.laneAt w o.ty o.a
    let heads := s.taken.readV w o.b.toNat
    let begins (j : Nat) : Prop := j = 0 ∨ heads.getLsbD j
    ∃ (r : Nat → LaneRes) (t : State),
      (∀ j, j < 512 / W → (begins j → r j = op ty (ident ty) (a j)) ∧ (¬ begins j → r j = op ty (r (j - 1)).pat (a j))) ∧
      scanR o op ident excl s = .next t ∧ s.LanesFired w x o 4 W (512 / W) o.a.toNat o.b.toNat (fun j =>
        { pat := if excl then (if j = 0 ∨ heads.getLsbD j then ident ty else (r (j - 1)).pat) else (r j).pat
          ev := (r j).ev }) t := by
  intro ty W a heads begins
  have hrun (j : Nat) (hj : ¬ begins j) : scanIn (op ty) (ident ty) a (scanHead heads) j =
      (scanAt (op ty) (ident ty) a (scanHead heads) (j - 1)).pat := scanIn_of_pos _ _ _ _ fun h0 => hj (.inl h0)
  obtain ⟨t, ht, hlanes⟩ := scanR_fires op ident excl h
  refine ⟨scanAt (op ty) (ident ty) a (scanHead heads), t, fun j _ => ⟨fun hj => ?_, fun hj => ?_⟩, ht,
    LanesFired_congr hlanes fun j => ?_⟩
  · exact scanAt_head _ _ _ _ (scanHead_iff.mpr hj)
  · rw [scanAt, if_neg (mt scanHead_iff.mp hj), hrun j hj]
  · rw [scanOut]
    by_cases hj : begins j
    · rw [if_pos (scanHead_iff.mpr hj), if_pos hj]
    · rw [if_neg (mt scanHead_iff.mp hj), if_neg hj, hrun j hj]

/-- Settles O23. A reduction's root stands for all lanes (`treeOf_blocks`), a scan's lane for its run (`scanR_lanes`). That `VDOT`
counts its invalid products in place of the events of the sum is the model's choice (log 52). -/
theorem vectorReductions : Obligations.VectorReductions := by
  unfold Obligations.VectorReductions
  exact fun o s w x => ⟨vdot_int, vdot_float, vredSum_int, vredMax_int, vredMin_int, vredAnd_int, vredOr_int,
    reduceR_float laneAdd, reduceR_float fun ty => laneMm ty true false, reduceR_float fun ty => laneMm ty false false,
    scanR_lanes laneAdd (fun _ => 0) false, scanR_lanes laneAdd (fun _ => 0) true,
    scanR_lanes (fun ty => laneMm ty true false) identMax false⟩

end Sys2Proof.Machine
end

section
/-!
SUPPORT. Quantisation, bit planes, and the application of a row's mean and reciprocal deviation (R83, R84, R156, R157, R159).
-/

namespace Sys2Proof.Machine

variable {s : State} {i : Instr} {w : Who} {x : Word} {o : FormR}

/-! ## Quantisation and rows (R156, R159) -/

theorem vqnt_lanes (h : Fires s (.vqnt o) o.g w x) :
    let ty := o.ty.toNat
    let scale := fmtF32.decode ((s.taken.readS w o.b.toNat).toNat % 2 ^ 32)
    let r (j : Nat) : Int × List Nat := intOfV ty .rne (mulX (fmtF32.decode (lane 32 (s.taken.readV w o.a.toNat) j)) scale)
    ∃ t, exec (.vqnt o) s = .next t ∧ s.LanesFired w x o 6 (tyWidth ty) 16 o.a.toNat o.b.toNat
      (fun j => { pat := pattern (r j).1 (tyWidth ty), flag := (r j).2.getD 4 0 != 0, ev := (r j).2 }) t := by
  intro ty scale r
  change ∃ t, execVqnt o s = .next t ∧ _
  exact fireTimed_lanes _ h rfl fun _ _ => rfl

theorem vdq_lanes (h : Fires s (.vdq o) o.g w x) :
    let ty := o.ty.toNat
    let scale := fmtF32.decode ((s.taken.readS w o.b.toNat).toNat % 2 ^ 32)
    let n (j : Nat) : Int := readTy ty (lane (tyWidth ty) (s.taken.readV w o.a.toNat) j)
    let r (j : Nat) : FRes := fmtF32.mulV .rne (.fin (decide (n j < 0)) (n j).natAbs 0) scale
    ∃ t, exec (.vdq o) s = .next t ∧
      s.LanesFired w x o 6 32 16 o.a.toNat o.b.toNat (fun j => { pat := (r j).pat, ev := (r j).ev }) t := by
  intro ty scale n r
  change ∃ t, execVdq o s = .next t ∧ _
  exact fireTimed_lanes _ h rfl fun _ _ => rfl

theorem vnrmApply_lanes (h : Fires s (.vnrmApply o) o.g w x) :
    let f := fmtOf o.ty.toNat
    let W := tyWidth o.ty.toNat
    let vb := s.taken.readV w o.b.toNat
    let mu := fmtF32.decode (lane 32 vb 0)
    let rs := fmtF32.decode (lane 32 vb 1)
    let y (j : Nat) : FVal := f.decode (lane W (s.taken.readV w o.a.toNat) j)
    let r (j : Nat) : FRes := f.ofV .rne (mulX (subX (y j) mu) rs)
    ∃ t, exec (.vnrmApply o) s = .next t ∧
      s.LanesFired w x o 6 W (vlOf (fmtF32.decode (lane 32 vb 3)) (512 / W)) o.a.toNat o.b.toNat (fun j =>
        { pat := (r j).pat
          ev := if (y j).isNan ∨ mu.isNan ∨ rs.isNan then (if (y j).isSig ∨ mu.isSig ∨ rs.isSig then evInvalid else [])
                else (r j).ev }) t := by
  intro f W vb mu rs y r
  change ∃ t, execVnrmApply o s = .next t ∧ _
  refine fireTimed_lanes _ h rfl fun j _ => ?_
  simp only [Bool.or_eq_true, or_assoc]
  rfl

/-! ## Blocks and bits of lanes -/

/-- Consecutive entries of a table. -/
theorem take_drop_tab {α : Type} {k m L : Nat} (f : Nat → α) (h : k + m ≤ L) :
    ((tab L f).drop k).take m = tab m fun j => f (k + j) := by
  refine List.ext_getElem (by simp [tab]; omega) fun j _ _ => ?_
  simp [tab]

/-- A bit of a vector as a bit of a lane. -/
theorem testBit_lane {w j k : Nat} (v : Vec) (hk : k < w) : (lane w v j).testBit k = v.getLsbD (w * j + k) := by
  rw [lane, Nat.testBit_mod_two_pow, Nat.testBit_div_two_pow, decide_eq_true hk, Bool.true_and, Nat.add_comm k]
  rfl

theorem lane_div_two_pow_mod_two {w j k : Nat} (v : Vec) (hk : k < w) :
    lane w v j / 2 ^ k % 2 = (v.getLsbD (w * j + k)).toNat := by
  rw [← testBit_lane v hk, Nat.toNat_testBit]

/-- A bit of a number packed from single bits. -/
theorem testBit_packNat_one (ys : List Nat) (k : Nat) : (packNat 1 ys).testBit k = decide (ys.getD k 0 % 2 = 1) := by
  have hlane := packNat_lane 1 ys k
  rw [Nat.one_mul, Nat.pow_one] at hlane
  rw [Nat.testBit_eq_decide_div_mod_eq, hlane]

/-! ## Bit planes packed (R83, R157) -/

/-- Element j of A clamped to n bits. -/
def planeElem (n : Nat) (v : Vec) (j : Nat) : Int :=
  let lim : Int := (2 ^ (n - 1) : Nat)
  max (-lim) (min (lim - 1) (signed (lane 8 v j) 8))

theorem lanesOf_planeElem (n : Nat) (v : Vec) :
    ((lanesOf 8 v).map fun m => signed m 8).map
      (fun m => max (-((2 ^ (n - 1) : Nat) : Int)) (min ((2 ^ (n - 1) : Nat) - 1) m)) = tab 64 (planeElem n v) := by
  rw [lanesOf, map_tab, map_tab]
  rfl

/-- A plane word holds one bit of each element. -/
theorem testBit_planeWord (n p : Nat) {k L : Nat} (f : Nat → Int) (hk : k < L) :
    (planeWord n p (tab L f)).testBit k = (pattern (f k) n).testBit (n - 1 - p) := by
  rw [planeWord, testBit_packNat_one, map_tab, getD_tab, if_pos hk, Nat.testBit_eq_decide_div_mod_eq]
  simp

/-- The vector of n planes of 64 elements. -/
def planeVec (n : Nat) (f : Nat → Int) : Vec :=
  packLanes 32 (tab 16 fun j => if j % 8 < n then planeWord n (j % 8) (((tab 64 f).drop (32 * (j / 8))).take 32) else 0)

theorem getLsbD_planeVec {n b p k : Nat} (f : Nat → Int) (hb : b < 2) (hp : p < 8) (hk : k < 32) :
    (planeVec n f).getLsbD (32 * (8 * b + p) + k) = (decide (p < n) && (pattern (f (32 * b + k)) n).testBit (n - 1 - p)) := by
  have hj : 8 * b + p < 16 := by omega
  have hmod : (8 * b + p) % 8 = p := by omega
  have hdiv : (8 * b + p) / 8 = b := by omega
  rw [← testBit_lane _ hk, planeVec, lane_packLanes _ hj, getD_tab, if_pos hj, hmod, hdiv, take_drop_tab f (by omega),
    Nat.testBit_mod_two_pow, decide_eq_true hk, Bool.true_and]
  split
  next hn => rw [testBit_planeWord n p _ hk, decide_eq_true hn, Bool.true_and]
  next hn => simp [hn]

theorem bppk_fires (hlo : 2 ≤ (s.taken.readS w o.b.toNat).toNat % 256) (hhi : (s.taken.readS w o.b.toNat).toNat % 256 ≤ 8)
    (h : Fires s (.bppk o) o.g w x) :
    let va := s.taken.readV w o.a.toNat
    let n := (s.taken.readS w o.b.toNat).toNat % 256
    let sat := (List.range 64).countP fun j => planeElem n va j != signed (lane 8 va j) 8
    ∃ v : Vec, (∀ b p k, b < 2 → p < 8 → k < 32 → v.getLsbD (32 * (8 * b + p) + k) =
        (decide (p < n) && (pattern (planeElem n va (32 * b + k)) n).testBit (n - 1 - p))) ∧
      exec (.bppk o) s = .next (s.fired w x o.g
        { wr := writeV o.d.toNat (s.taken.tagOf w o.a.toNat o.b.toNat) v
          outcome := true, flag := sat != 0, ev := event 5 sat }) := by
  intro va n sat
  refine ⟨planeVec n (planeElem n va), fun b p k => getLsbD_planeVec _, ?_⟩
  have hsat : (((lanesOf 8 va).map fun m => signed m 8).zip (tab 64 (planeElem n va))).countP (fun p => p.1 != p.2) = sat := by
    rw [lanesOf, map_tab, tab, tab, List.zip_map', List.countP_map]
    exact List.countP_congr fun j _ => by simp [bne_comm]
  change execBppk o s = _
  rw [execBppk, fireTimed_ok h (if_neg (by omega)), lanesOf_planeElem, hsat]
  rfl

/-! ## Bit planes read (R84, R157) -/

/-- Digits of base two, the highest first. -/
theorem foldl_digits (b : Nat → Nat) (m e : Nat) :
    (List.range m).foldl (fun acc k => acc + b k * 2 ^ (m + e - 1 - k)) 0 =
      2 ^ e * (List.range m).foldl (fun r k => 2 * r + b k) 0 := by
  induction m generalizing e with
  | zero => rfl
  | succ m ih =>
    have hexp : m + 1 + e = m + (e + 1) := by omega
    have hlast : m + (e + 1) - 1 - m = e := by omega
    rw [List.range_succ, List.foldl_append, List.foldl_append, hexp, ih (e + 1)]
    simp only [List.foldl_cons, List.foldl_nil, hlast, Nat.pow_succ]
    ring

/-- The value of an element of the first m planes. -/
def planeTop (v : Vec) (m j : Nat) : Nat :=
  (List.range m).foldl (fun r p => 2 * r + (v.getLsbD (32 * (8 * (j / 32) + p) + j % 32)).toNat) 0

theorem planeValue_eq {m j : Nat} (v : Vec) (hm : m ≤ 8) (hj : j < 64) :
    planeValue m (((lanesOf 32 v).drop (8 * (j / 32))).take 8) (j % 32) = signed (planeTop v m j) m := by
  have hblock : ((lanesOf 32 v).drop (8 * (j / 32))).take 8 = tab 8 fun k => lane 32 v (8 * (j / 32) + k) :=
    take_drop_tab _ (by omega)
  have hbits : (List.range m).foldl (fun acc k => acc + (tab 8 fun k => lane 32 v (8 * (j / 32) + k)).getD k 0 / 2 ^ (j % 32) % 2
      * 2 ^ (m - 1 - k)) 0 = planeTop v m j := by
    have hdigits := foldl_digits (fun p => (v.getLsbD (32 * (8 * (j / 32) + p) + j % 32)).toNat) m 0
    rw [Nat.pow_zero, Nat.one_mul, Nat.add_zero] at hdigits
    rw [planeTop, ← hdigits]
    refine List.foldl_ext _ _ _ fun acc k hk => ?_
    have hk : k < m := List.mem_range.mp hk
    rw [getD_tab, if_pos (by omega), lane_div_two_pow_mod_two v (Nat.mod_lt _ (by decide))]
  rw [planeValue, hblock, hbits]

theorem bpun_fires (hlo : 2 ≤ (s.taken.readS w o.b.toNat).toNat % 256) (hhi : (s.taken.readS w o.b.toNat).toNat % 256 ≤ 8)
    (hone : 1 ≤ bits (s.taken.readS w o.b.toNat).toNat 15 8)
    (hle : bits (s.taken.readS w o.b.toNat).toNat 15 8 ≤ (s.taken.readS w o.b.toNat).toNat % 256)
    (h : Fires s (.bpun o) o.g w x) :
    let va := s.taken.readV w o.a.toNat
    let m := bits (s.taken.readS w o.b.toNat).toNat 15 8
    ∃ v : Vec, (∀ j, j < 64 → lane 8 v j = pattern (signed (planeTop va m j) m) 8) ∧
      exec (.bpun o) s = .next (s.fired w x o.g
        { wr := writeV o.d.toNat (s.taken.tagOf w o.a.toNat o.b.toNat) v, outcome := true }) := by
  intro va m
  refine ⟨packLanes 8 (tab 64 fun j =>
    pattern (planeValue m (((lanesOf 32 va).drop (8 * (j / 32))).take 8) (j % 32)) 8), fun j hj => ?_, ?_⟩
  · rw [lane_packLanes _ hj, getD_tab, if_pos hj, pattern_mod_self, planeValue_eq va (by omega) hj]
  · change execBpun o s = _
    rw [execBpun, fireTimed_ok h (if_neg (by omega))]

/-- Settles O24. A bit of a packed plane is a bit of a clamped element (`getLsbD_planeVec`), and the planes read are the digits of
an element's value (`planeValue_eq`). -/
theorem vectorQuantisation : Obligations.VectorQuantisation := by
  unfold Obligations.VectorQuantisation
  refine fun o s w x => ⟨vqnt_lanes, vdq_lanes, bppk_fires, fun hbad h => ?_, bpun_fires, fun hbad h => ?_, vnrmApply_lanes⟩
  · change execBppk o s = _
    exact fireTimed_error h (if_pos hbad)
  · change execBpun o s = _
    exact fireTimed_error h (if_pos hbad)

end Sys2Proof.Machine
end

section
/-!
SUPPORT. Matching, ranking and drawing (R161-R163).
-/

namespace Sys2Proof.Machine

variable {s : State} {i : Instr} {w : Who} {x : Word} {o : FormR}

/-! ## `VMATCH` (R161) -/

/-- What `VMATCH` refuses: a chunk, a pattern or a state of a length that there is not. -/
def matchRefused (k l q : Nat) : Prop := 64 ≤ k ∨ l = 0 ∨ 64 ≤ l ∨ l < q

theorem vmatch_fires (h : Fires s (.vmatch o) o.g w x) :
    let va := s.taken.readV w o.a.toNat
    let vb := s.taken.readV w o.b.toNat
    let q := (s.taken.readS w o.d.toNat).toNat % 256
    let run := matchLoop (tab (lane 8 vb 63) fun j => lane 8 vb j) (tab (lane 8 va 63) fun j => lane 8 va j) 0 q
    ¬ matchRefused (lane 8 va 63) (lane 8 vb 63) q → exec (.vmatch o) s = .next (s.fired w x o.g
      { w := 4, wr := writeS o.d.toNat tagData (BitVec.ofNat 64 (run.2 * 256 + run.1))
        outcome := run.2 != 0, flag := run.2 != 0 }) := by
  intro va vb q run hok
  have hlen : lane 8 va 63 ≤ 64 ∧ lane 8 vb 63 ≤ 64 := by unfold matchRefused at hok; omega
  have hva : (lanesOf 8 va).take (lane 8 va 63) = tab (lane 8 va 63) fun j => lane 8 va j := take_tab _ hlen.1
  have hvb : (lanesOf 8 vb).take (lane 8 vb 63) = tab (lane 8 vb 63) fun j => lane 8 vb j := take_tab _ hlen.2
  change execVmatch o s = _
  refine fireTimed_ok h ?_
  dsimp only
  rw [lanesOf_getD_of_lt _ _ (by decide), lanesOf_getD_of_lt _ _ (by decide)]
  refine (if_neg hok).trans ?_
  rw [hva, hvb]

theorem vmatch_refused (h : Fires s (.vmatch o) o.g w x)
    (hbad : matchRefused (lane 8 (s.taken.readV w o.a.toNat) 63) (lane 8 (s.taken.readV w o.b.toNat) 63)
      ((s.taken.readS w o.d.toNat).toNat % 256)) :
    exec (.vmatch o) s =
      .next (s.taken.raise w x { cls := clsRange, code := 0x013, opnd := (s.taken.readS w o.d.toNat).toNat }) := by
  change execVmatch o s = _
  refine fireTimed_error h ?_
  dsimp only
  rw [lanesOf_getD_of_lt _ _ (by decide), lanesOf_getD_of_lt _ _ (by decide)]
  exact if_pos hbad

/-! ## `VTOPK` (R162) -/

theorem FVal.lt_asymm {p q : FVal} (h : p.lt q = true) : q.lt p = false := by
  cases p <;> cases q <;> simp_all [FVal.lt, Dy.lt_asymm]

theorem TopEnt.before_asymm {p q : TopEnt} (h : p.before q = true) : q.before p = false := by
  simp only [TopEnt.before] at h ⊢
  generalize fmtF32.decode p.key = a at h ⊢
  generalize fmtF32.decode q.key = b at h ⊢
  cases hba : b.lt a with
  | true => simp [FVal.lt_asymm hba]
  | false =>
    cases hab : a.lt b with
    | true => simp [hab, hba] at h
    | false =>
      simp only [hab, hba, Bool.false_eq_true, if_false] at h ⊢
      rcases Nat.lt_trichotomy p.ix q.ix with hlt | heq | hgt
      · simp [hlt, hlt.not_gt]
      · cases hp : p.old <;> simp_all
      · simp [hgt, hgt.not_gt] at h

/-- Neighbours of a sorted list: no entry stands before the one in front of it. -/
def TopEnt.inOrder (p q : TopEnt) : Prop := q.before p = false

theorem topInsert_perm (e : TopEnt) (l : List TopEnt) : (topInsert e l).Perm (e :: l) := by
  induction l with
  | nil => exact .refl _
  | cons y l ih =>
    rw [topInsert]
    split
    · exact .refl _
    · exact (ih.cons y).trans (.swap e y l)

theorem head?_topInsert {e z : TopEnt} {l : List TopEnt} (h : z ∈ (topInsert e l).head?) : z = e ∨ z ∈ l.head? := by
  cases l with
  | nil => exact .inl (by simpa [topInsert, eq_comm] using h)
  | cons y l =>
    rw [topInsert] at h
    split at h
    · exact .inl (by simpa [eq_comm] using h)
    · exact .inr (by simpa using h)

theorem topInsert_sorted (e : TopEnt) {l : List TopEnt} (h : l.IsChain TopEnt.inOrder) :
    (topInsert e l).IsChain TopEnt.inOrder := by
  induction l with
  | nil => exact .singleton e
  | cons y l ih =>
    rw [topInsert]
    split
    next he => exact .cons_cons (TopEnt.before_asymm he) h
    next he =>
      obtain ⟨hhead, htail⟩ := List.isChain_cons.mp h
      refine List.isChain_cons.mpr ⟨fun z hz => ?_, ih htail⟩
      rcases head?_topInsert hz with rfl | hz
      · exact eq_false_of_ne_true he
      · exact hhead z hz

/-- The entries in the order of R162. -/
def topSort (l : List TopEnt) : List TopEnt := l.foldl (fun l e => topInsert e l) []

theorem foldl_topInsert (l acc : List TopEnt) (h : acc.IsChain TopEnt.inOrder) :
    (l.foldl (fun l e => topInsert e l) acc).Perm (l ++ acc) ∧
      (l.foldl (fun l e => topInsert e l) acc).IsChain TopEnt.inOrder := by
  induction l generalizing acc with
  | nil => exact ⟨.refl _, h⟩
  | cons e l ih =>
    obtain ⟨hperm, hchain⟩ := ih (topInsert e acc) (topInsert_sorted e h)
    exact ⟨hperm.trans (((topInsert_perm e acc).append_left l).trans List.perm_middle), hchain⟩

theorem topSort_perm (l : List TopEnt) : (topSort l).Perm l := by
  have hperm := (foldl_topInsert l [] .nil).1
  rw [List.append_nil] at hperm
  exact hperm

theorem topSort_sorted {l : List TopEnt} {k : Nat} {p q : TopEnt} (hp : (topSort l)[k]? = some p)
    (hq : (topSort l)[k + 1]? = some q) : q.before p = false := by
  have hchain : (topSort l).IsChain TopEnt.inOrder := (foldl_topInsert l [] .nil).2
  obtain ⟨hk, rfl⟩ := List.getElem?_eq_some_iff.mp hq
  obtain ⟨_, rfl⟩ := List.getElem?_eq_some_iff.mp hp
  exact List.isChain_iff_getElem.mp hchain k hk

/-- An entry as a lane of 64 bits, or the lane that stands for none. -/
def topLane : Option TopEnt → Nat
  | some e => e.key * 2 ^ 32 + e.ix
  | none => 2 ^ 64 - 1

/-- The entries that `VTOPK` ranks: those of D and the new ones, but for NaN keys. -/
def topCands (vd va : Vec) (base : Nat) : List TopEnt :=
  ((tab 8 fun j => { key := lane 64 vd j / 2 ^ 32, ix := lane 64 vd j % 2 ^ 32, old := true : TopEnt }) ++
    tab 16 fun j => { key := lane 32 va j, ix := (base + j) % 2 ^ 32, old := false : TopEnt }).filter
      fun e => !(fmtF32.decode e.key).isNan

theorem topCands_lt {vd va : Vec} {base : Nat} {e : TopEnt} (h : e ∈ topCands vd va base) : e.key < 2 ^ 32 ∧ e.ix < 2 ^ 32 := by
  simp only [topCands, tab, List.mem_filter, List.mem_append, List.mem_map] at h
  obtain ⟨⟨j, -, rfl⟩ | ⟨j, -, rfl⟩, -⟩ := h
  · exact ⟨Nat.div_lt_of_lt_mul (lane_lt 64 vd j), Nat.mod_lt _ (by decide)⟩
  · exact ⟨lane_lt 32 va j, Nat.mod_lt _ (by decide)⟩

theorem topLane_lt {e? : Option TopEnt} (h : ∀ e ∈ e?, e.key < 2 ^ 32 ∧ e.ix < 2 ^ 32) : topLane e? < 2 ^ 64 := by
  cases e? with
  | none => decide
  | some e =>
    have := h e rfl
    simp only [topLane]
    omega

theorem vtopk_fires (h : Fires s (.vtopk o) o.g w x) :
    let vd := s.taken.readV w o.d.toNat
    let va := s.taken.readV w o.a.toNat
    let sorted := topSort (topCands vd va (s.taken.readS w o.b.toNat).toNat)
    ∃ v : Vec, (∀ j, j < 8 → lane 64 v j = topLane sorted[j]?) ∧
      exec (.vtopk o) s = .next (s.fired w x o.g
        { w := 4, wr := writeV o.d.toNat tagData v, outcome := !(sorted.take 8).isEmpty
          flag := (sorted.take 8).any fun e => !e.old
          ev := event 1 ((List.range 16).countP fun j => (fmtF32.decode (lane 32 va j)).isSig) }) := by
  intro vd va sorted
  refine ⟨packLanes 64 (tab 8 fun j => topLane (sorted.take 8)[j]?), fun j hj => ?_, ?_⟩
  · have hlt : topLane sorted[j]? < 2 ^ 64 :=
      topLane_lt fun e he => topCands_lt ((topSort_perm _).mem_iff.mp (List.mem_of_getElem? he))
    rw [lane_packLanes _ hj, getD_tab, if_pos hj, List.getElem?_take_of_lt hj, Nat.mod_eq_of_lt hlt]
  · have hnews (f : Nat → Nat → TopEnt) : (lanesOf 32 va).mapIdx f = tab 16 fun j => f j (lane 32 va j) := mapIdx_lanesOf 32 va f
    have holds (f : Nat → TopEnt) : (lanesOf 64 vd).map f = tab 8 fun j => f (lane 64 vd j) := by
      rw [lanesOf, map_tab]
    have hsig (p : Nat → Bool) : (lanesOf 32 va).countP p = (List.range 16).countP fun j => p (lane 32 va j) := by
      rw [lanesOf, tab, List.countP_map]
      rfl
    change execVtopk o s = _
    refine fireTimed_ok h ?_
    dsimp only
    rw [hnews, holds, hsig]
    rfl

/-! ## `VRNG` (R163) -/

/-- The counter block of four words. -/
def rngCounter (a b blk : Nat) : List Nat :=
  (leBytes 4 (a % 2 ^ 32) ++ leBytes 4 (a / 2 ^ 32) ++ leBytes 4 (b % 2 ^ 32) ++ leBytes 4 blk).map BitVec.toNat

/-- Word j that the key and the counters give. -/
def rngWord (key : List Byte) (a b j : Nat) : Nat :=
  leNat (tab 4 fun k => BitVec.ofNat 8 ((aes128 (key.map BitVec.toNat) (rngCounter a b (j / 4))).getD (4 * (j % 4) + k) 0))

theorem flatMap_tab_four (f : Nat → Nat → Nat) :
    ((List.range 4).flatMap fun blk => tab 4 (f blk)) = tab 16 fun j => f (j / 4) (j % 4) := rfl

theorem vrng_fires {key : List Byte} (hkey : s.taken.rngKey w (bits (s.taken.readS w o.b.toNat).toNat 39 32) = some key)
    (h : Fires s (.vrng o) o.g w x) :
    let raw := rngWord key (s.taken.readS w o.a.toNat).toNat (s.taken.readS w o.b.toNat).toNat
    ∃ v : Vec, (∀ j, j < 16 → lane 32 v j =
        (if o.ty = 10 then (fmtF32.round .rne false (raw j / 256) (-24) false).pat else raw j) % 2 ^ 32) ∧
      exec (.vrng o) s = .next (s.fired w x o.g
        { w := 12, wr := writeV o.d.toNat (s.taken.tagOf w o.a.toNat o.b.toNat) v, outcome := true }) := by
  intro raw
  refine ⟨packLanes 32 ((tab 16 raw).map fun m => if o.ty = 10 then (fmtF32.round .rne false (m / 256) (-24) false).pat else m),
    fun j hj => ?_, ?_⟩
  · rw [lane_packLanes _ hj, map_tab, getD_tab, if_pos hj]
  · change execVrng o s = _
    refine fireTimed_ok h ?_
    dsimp only
    rw [hkey]
    dsimp only
    rw [flatMap_tab_four]
    rfl

theorem vrng_refused (hkey : s.taken.rngKey w (bits (s.taken.readS w o.b.toNat).toNat 39 32) = none)
    (h : Fires s (.vrng o) o.g w x) :
    exec (.vrng o) s =
      .next (s.taken.raise w x { cls := clsRange, code := 0x014, opnd := (s.taken.readS w o.b.toNat).toNat }) := by
  change execVrng o s = _
  refine fireTimed_error h ?_
  dsimp only
  rw [hkey]

/-- Settles O25. `VTOPK` keeps its entries sorted as it inserts them (`topInsert_sorted`). That it counts a signalling NaN for each
new key, and that RNGKEY reports B, is the model's choice (log 52, 53). -/
theorem vectorMatchRankDraw : Obligations.VectorMatchRankDraw := by
  unfold Obligations.VectorMatchRankDraw
  refine fun o s w x => ⟨fun hok h => vmatch_fires h hok, fun hbad h => vmatch_refused h hbad, fun h => ?_,
    fun key hkey => vrng_fires hkey, vrng_refused⟩
  obtain ⟨v, hlanes, hexec⟩ := vtopk_fires h
  refine ⟨topSort (topCands (s.taken.readV w o.d.toNat) (s.taken.readV w o.a.toNat) (s.taken.readS w o.b.toNat).toNat), v,
    topSort_perm _, fun k p q => topSort_sorted, fun j hj => (hlanes j hj).trans ?_, hexec⟩
  split <;> simp_all [topLane]

end Sys2Proof.Machine
end

section
/-!
SUPPORT. The words that keep slot state: `VACC` and `VNRM.STAT` (R151, R152, R158).
-/

namespace Sys2Proof.Machine

variable {s : State} {i : Instr} {w : Who} {x : Word} {o : FormR} {sl : Slot} {t : Tok}

/-! ## `VACC` (R151, R152) -/

/-- The identity in every lane. -/
def sameLanes (ty ident : Nat) : Vec := packLanes (tyWidth ty) (List.replicate (512 / tyWidth ty) ident)

theorem lane_sameLanes {ty j : Nat} (ident : Nat) (hj : j < 512 / tyWidth ty) :
    lane (tyWidth ty) (sameLanes ty ident) j = ident % 2 ^ tyWidth ty := by
  rw [sameLanes, lane_packLanes _ hj, List.getD_replicate _ hj]

/-- What an accumulator reads as: the identity while its count is zero. -/
def accLane (ty ident : Nat) (sl : Slot) (j : Nat) : Nat :=
  if sl.cnt = 0 then ident % 2 ^ tyWidth ty else lane (tyWidth ty) sl.acc j

theorem lane_ite_sameLanes {ty ident j : Nat} (hj : j < 512 / tyWidth ty) :
    lane (tyWidth ty) (if sl.cnt = 0 then sameLanes ty ident else sl.acc) j = accLane ty ident sl j := by
  unfold accLane
  split
  · exact lane_sameLanes ident hj
  · rfl

/-- W of an accumulation. -/
def accW (ty : Nat) : Nat := if tyFloat ty then 6 else 4

/-- A token that is no CTL is accumulated, and the result emitted at a tag that closes the level. -/
def accDone (o : FormR) (sl : Slot) (t : Tok) (ident : Nat) (count : Bool) (v : Vec) (ev : List Nat) : Done :=
  let ty := o.ty.toNat
  if closes t.tag o.b.toNat then
    { w := accW ty, outcome := true, ev := ev, slot := some { sl with acc := sameLanes ty ident, cnt := 0 }
      wr := writeTok o.d.toNat
        ⟨t.tag, if count then packLanes (tyWidth ty) (List.replicate (512 / tyWidth ty) (sl.cnt + 1).toNat) else v⟩ }
  else { w := accW ty, ev := ev, slot := some { sl with acc := v, cnt := sl.cnt + 1 } }

/-- A segment companion with the EMPTY bit: the slot emits the identity the second time it sees it. -/
def emptyDone (o : FormR) (sl : Slot) (t : Tok) (ident : Nat) : Done :=
  let ty := o.ty.toNat
  if sl.half then
    { w := accW ty, wr := writeTok o.d.toNat ⟨o.b.toNat, sameLanes ty ident⟩, outcome := true
      slot := some { sl with half := false } }
  else
    { w := accW ty, wr := writeTok o.d.toNat t, slot := some { sl with half := true }
      deq := some ((deqsOf o.g).filter fun c => c != o.a.toNat - 12) }

section
variable {fn ident : Nat} {count : Bool} {op : Nat → Nat → Nat → LaneRes}
  (hsl : s.taken.slotOf w = some sl) (ht : s.taken.headOf w (o.a.toNat - 12) = some t) (h : Fires s i o.g w x)
include hsl ht h

theorem accR_ctl (htag : t.tag = tagCtl) (hfull : t.isEmptySeg = false) :
    accR o fn op s = .next (s.fired w x o.g { w := accW o.ty.toNat, wr := writeTok o.d.toNat t }) := by
  refine fireTimed_ok h ?_
  dsimp only
  rw [hsl]
  dsimp only
  rw [ht, Option.getD_some, if_neg (by simp [hfull]), if_pos htag]
  rfl

variable (hident : accIdent fn o.ty.toNat = sameLanes o.ty.toNat ident)
include hident

theorem accR_token (hcount : fn = 3 ↔ count = true) (htag : t.tag ≠ tagCtl) :
    let W := tyWidth o.ty.toNat
    let res (j : Nat) : LaneRes := op o.ty.toNat (accLane o.ty.toNat ident sl j) (lane W t.pay j)
    ∃ v : Vec, (∀ j, j < 512 / W → lane W v j = (res j).pat % 2 ^ W) ∧
      accR o fn op s = .next (s.fired w x o.g (accDone o sl t ident count v (sumEvents (tab (512 / W) fun j => (res j).ev)))) := by
  intro W res
  have hfull : t.isEmptySeg = false := by simp [Tok.isEmptySeg, htag]
  have hres : (tab (512 / W) fun j =>
      op o.ty.toNat (lane W (if sl.cnt = 0 then sameLanes o.ty.toNat ident else sl.acc) j) (lane W t.pay j)) =
        tab (512 / W) res := tab_congr fun j hj => by rw [lane_ite_sameLanes hj]
  refine ⟨packLanes W ((tab (512 / W) res).map (·.pat)), fun j hj => ?_, fireTimed_ok h ?_⟩
  · rw [lane_packLanes _ hj, map_tab, getD_tab, if_pos hj]
  · dsimp only
    rw [hsl]
    dsimp only
    rw [ht, Option.getD_some, if_neg (by simp [hfull]), if_neg htag, hident, hres]
    simp only [hcount, accDone]
    rw [map_tab LaneRes.ev]
    split <;> rfl

theorem accR_empty (hempty : t.isEmptySeg = true) :
    accR o fn op s = .next (s.fired w x o.g (emptyDone o sl t ident)) := by
  refine fireTimed_ok h ?_
  dsimp only
  rw [hsl]
  dsimp only
  rw [ht, Option.getD_some, if_pos hempty, hident, emptyDone]
  split <;> rfl

end

/-- The three things a `VACC` can do with the token at its port. -/
theorem accR_fires (fn : Nat) (op : Nat → Nat → Nat → LaneRes) (ident : Nat) (count : Bool) (hcount : fn = 3 ↔ count = true)
    (hident : accIdent fn o.ty.toNat = sameLanes o.ty.toNat ident) (hsl : s.taken.slotOf w = some sl)
    (ht : s.taken.headOf w (o.a.toNat - 12) = some t) (h : Fires s i o.g w x) :
    let W := tyWidth o.ty.toNat
    let res (j : Nat) : LaneRes := op o.ty.toNat (accLane o.ty.toNat ident sl j) (lane W t.pay j)
    (t.tag ≠ tagCtl → ∃ v : Vec, (∀ j, j < 512 / W → lane W v j = (res j).pat % 2 ^ W) ∧ accR o fn op s =
      .next (s.fired w x o.g (accDone o sl t ident count v (sumEvents (tab (512 / W) fun j => (res j).ev))))) ∧
    (t.tag = tagCtl → t.isEmptySeg = false →
      accR o fn op s = .next (s.fired w x o.g { w := accW o.ty.toNat, wr := writeTok o.d.toNat t })) ∧
    (t.isEmptySeg = true → accR o fn op s = .next (s.fired w x o.g (emptyDone o sl t ident))) :=
  ⟨accR_token hsl ht h hident hcount, accR_ctl hsl ht h, accR_empty hsl ht h hident⟩

/-! ## `VNRM.STAT` (R158) -/

/-- The lanes that `VNRM.STAT` absorbs, by bits 15 to 8 of B. -/
def statCount (ty b : Nat) : Nat := if bits b 15 8 = 0 then 512 / tyWidth ty else bits b 15 8

/-- A level or a lane count that `VNRM.STAT` refuses. -/
def statRefused (ty b : Nat) : Prop := b % 8 = 0 ∨ 4 < b % 8 ∨ 512 / tyWidth ty < statCount ty b

/-- The sums of a slot with the first `vl` lanes of a token. -/
def statSum (ty vl : Nat) (sl : Slot) (pay : Vec) : Slot :=
  { (tab vl fun j => (fmtOf ty).decode (lane (tyWidth ty) pay j)).foldl statLane sl with sumC := sl.sumC + vl }

/-- What `VNRM.STAT` does with the sums: it emits the mean and the reciprocal deviation at a tag that closes the level. -/
def statDone (o : FormR) (t : Tok) (sum : Slot) (b : Nat) : Done :=
  let wrong := sum.nan || sum.inf
  let eps := fmtF32.decode (bits b 63 32)
  let mean := if wrong then fmtF32.nan (sum.sig || !sum.nan) else statMean sum (bitAt b 3)
  let dev := if wrong then fmtF32.nan eps.isSig else statRsq sum (bitAt b 3) eps
  if closes t.tag (b % 8) then
    { w := 6, outcome := true, ev := addCnts mean.ev dev.ev, slot := some sum.clearStat
      wr := writeTok o.d.toNat ⟨t.tag, packLanes 32 [mean.pat, dev.pat, (fmtF32.ofInt .rne sum.sumC).pat,
        (fmtF32.ofInt .rne (statCount o.ty.toNat b)).pat]⟩ }
  else { w := 6, slot := some sum }

section
variable {b : Nat} (hb : (s.taken.readS w o.b.toNat).toNat = b) (hsl : s.taken.slotOf w = some sl)
  (h : Fires s (.vnrmStat o) o.g w x)
include hb hsl h

theorem vnrmStat_refused (hbad : statRefused o.ty.toNat b) :
    exec (.vnrmStat o) s = .next (s.taken.raise w x { cls := clsRange, code := 0x012, opnd := b }) := by
  change execVnrmStat o s = _
  refine fireTimed_error h ?_
  dsimp only
  rw [hsl, hb]
  exact if_pos hbad

variable (ht : s.taken.headOf w (o.a.toNat - 12) = some t) (hok : ¬ statRefused o.ty.toNat b)
include ht hok

theorem vnrmStat_ctl (htag : t.tag = tagCtl) :
    exec (.vnrmStat o) s = .next (s.fired w x o.g { w := 6, wr := writeTok o.d.toNat t }) := by
  change execVnrmStat o s = _
  refine fireTimed_ok h ?_
  dsimp only
  rw [hsl, hb, ht]
  exact (if_neg hok).trans (if_pos htag)

theorem vnrmStat_token (htag : t.tag ≠ tagCtl) :
    exec (.vnrmStat o) s =
      .next (s.fired w x o.g (statDone o t (statSum o.ty.toNat (statCount o.ty.toNat b) sl t.pay) b)) := by
  change execVnrmStat o s = _
  refine fireTimed_ok h ?_
  dsimp only
  rw [hsl, hb, ht, statDone]
  refine (if_neg hok).trans ((if_neg htag).trans ?_)
  dsimp only [Option.getD_some]
  split <;> rfl

end

/-- Settles O26. A token that is no CTL is taken in, and emitted where it closes (`accR_token`, `vnrmStat_token`). The invalid events
of mean and deviation (log 52), and the false outcome of a CTL token passed on (log 17), are the model's choice. -/
theorem slotStateWords : Obligations.SlotStateWords := by
  unfold Obligations.SlotStateWords
  intro o s pg pe cx n x sl t
  refine ⟨fun ⟨hsl, ht⟩ h => ?_, fun ⟨hsl, ht⟩ h => ?_, fun ⟨hsl, ht⟩ h => ?_, fun ⟨hsl, ht⟩ h => ?_, fun ⟨hsl, ht⟩ h => ?_⟩
  · exact accR_fires 0 laneAdd 0 false (by decide) rfl hsl ht h
  · exact accR_fires 1 (fun ty => laneMm ty true false) (identMax o.ty.toNat) false (by decide) rfl hsl ht h
  · exact accR_fires 2 (fun ty => laneMm ty false false) (identMin o.ty.toNat) false (by decide) rfl hsl ht h
  · exact accR_fires 3 (fun _ m _ => { pat := m }) 0 true (by decide) rfl hsl ht h
  · exact ⟨vnrmStat_refused rfl hsl h, vnrmStat_ctl rfl hsl h ht, vnrmStat_token rfl hsl h ht⟩

end Sys2Proof.Machine
end

section
/-!
SUPPORT. The words that read a shape (R164, R202, R205).
-/

namespace Sys2Proof.Machine

variable {s : State} {i : Instr} {x : Word} {o : FormR} {pg pe cx n sx : Nat} {sh : Shape}
  {k : Who → Word → State → Shape → List (Nat × Nat) → Except FaultInfo Done}

/-! ## A word on a shape register -/

/-- Such a word fires or faults as `k` says of the bound register, and what it kept of earlier windows is forgotten. -/
theorem shapeR_ok {d : Done} (hsh : s.taken.shape? pg sx = some sh) (hb : sh.bound = true)
    (h : Fires s i o.g (.elem pg pe cx n) x)
    (hk : k (.elem pg pe cx n) x s.taken sh (sh.known (.elem pg pe cx n) none) = .ok d) :
    shapeR o sx k s = .next ((s.fired (.elem pg pe cx n) x o.g d).clearStash pg sx (.elem pg pe cx n) none) := by
  unfold shapeR
  dsimp only
  rw [fireTimed_ok (d := d) h (by dsimp only; rw [hsh]; exact (if_pos hb).trans hk), h.1]

theorem shapeR_error {f : FaultInfo} (hsh : s.taken.shape? pg sx = some sh) (hb : sh.bound = true)
    (h : Fires s i o.g (.elem pg pe cx n) x)
    (hk : k (.elem pg pe cx n) x s.taken sh (sh.known (.elem pg pe cx n) none) = .error f) :
    shapeR o sx k s = .next ((s.taken.raise (.elem pg pe cx n) x f).clearStash pg sx (.elem pg pe cx n) none) := by
  unfold shapeR
  dsimp only
  rw [fireTimed_error (f := f) h (by dsimp only; rw [hsh]; exact (if_pos hb).trans hk), h.1]

theorem shapeR_unbound (hsh : s.taken.shape? pg sx = some sh) (hb : sh.bound = false)
    (h : Fires s i o.g (.elem pg pe cx n) x) :
    shapeR o sx k s =
      .next ((s.taken.raise (.elem pg pe cx n) x unboundFault).clearStash pg sx (.elem pg pe cx n) none) := by
  unfold shapeR
  dsimp only
  rw [fireTimed_error (f := unboundFault) h (by dsimp only; rw [hsh]; exact if_neg (by simp [hb])), h.1]

/-! ## `SHGET`, `SHSEG` and `SHROW` (R205) -/

/-- A shape read has given the value `v`. -/
def State.shapeGiven (s : State) (pg pe cx n : Nat) (x : Word) (o : FormR) (v : Nat) (flag : Bool) : State :=
  let w : Who := .elem pg pe cx n
  (s.fired w x o.g { wr := writeS o.d.toNat (s.taken.tagOf w 26 o.b.toNat) (BitVec.ofNat 64 v)
                     outcome := v != 0, flag := flag }).clearStash pg o.a.toNat w none

/-- A shape read has raised a fault. -/
def State.shapeFaulted (s : State) (pg pe cx n : Nat) (x : Word) (o : FormR) (f : FaultInfo) : State :=
  let w : Who := .elem pg pe cx n
  (s.taken.raise w x f).clearStash pg o.a.toNat w none

section
variable {sel : Nat} (hsel : (s.taken.readS (.elem pg pe cx n) o.b.toNat).toNat = sel)
  (hsh : s.taken.shape? pg o.a.toNat = some sh) (hb : sh.bound = true)
include hsel hsh hb

theorem shget_entry (h : Fires s (.shget o) o.g (.elem pg pe cx n) x) (hkind : bits sel 19 16 = 0) :
    exec (.shget o) s = .next (if bits sel 15 0 ≤ sh.hdr.segs then
        s.shapeGiven pg pe cx n x o ((entryOf (sh.known (.elem pg pe cx n) none) (bits sel 15 0)).getD 0) false
      else s.shapeFaulted pg pe cx n x o { cls := clsRange, code := 0x018, opnd := sel }) := by
  change execShget o s = _
  split
  next hle => exact shapeR_ok hsh hb h (by dsimp only; rw [hsel, hkind]; exact if_pos hle)
  next hgt => exact shapeR_error hsh hb h (by dsimp only; rw [hsel, hkind]; exact if_neg hgt)

theorem shget_field (h : Fires s (.shget o) o.g (.elem pg pe cx n) x) :
    ∀ p ∈ [(1, sh.hdr.rows), (2, if sh.hdr.strict then 1 else 0), (3, sh.hdr.segs), (4, sh.hdr.width), (5, sh.hdr.pitch),
        (6, sh.hdr.ty), (7, sh.addr)],
      bits sel 19 16 = p.1 → exec (.shget o) s = .next (s.shapeGiven pg pe cx n x o p.2 false) := by
  change ∀ p ∈ _, _ → execShget o s = _
  simp only [List.forall_mem_cons, List.not_mem_nil, false_imp_iff, implies_true, and_true]
  refine ⟨?_, ?_, ?_, ?_, ?_, ?_, ?_⟩ <;>
    exact fun hkind => shapeR_ok hsh hb h (by dsimp only; rw [hsel, hkind]; rfl)

theorem shget_index (h : Fires s (.shget o) o.g (.elem pg pe cx n) x) (hkind : 7 < bits sel 19 16) :
    exec (.shget o) s = .next (s.shapeFaulted pg pe cx n x o { cls := clsRange, code := 0x018, opnd := sel }) := by
  obtain ⟨m, hm⟩ := Nat.exists_eq_add_of_lt hkind
  change execShget o s = _
  exact shapeR_error hsh hb h (by dsimp only; rw [hsel, hm, Nat.add_right_comm, Nat.add_comm]; rfl)

theorem shseg_behind (h : Fires s (.shseg o) o.g (.elem pg pe cx n) x) (hrow : sh.hdr.rows ≤ sel) :
    exec (.shseg o) s = .next (s.shapeGiven pg pe cx n x o sh.hdr.segs false) := by
  change execShseg o s = _
  exact shapeR_ok hsh hb h (by dsimp only; rw [hsel, if_pos hrow]; rfl)

theorem shseg_known (h : Fires s (.shseg o) o.g (.elem pg pe cx n) x) (hrow : sel < sh.hdr.rows) (j b : Nat)
    (hseg : segOf (sh.known (.elem pg pe cx n) none) sel = some (j, b)) :
    exec (.shseg o) s = .next (s.shapeGiven pg pe cx n x o j (b == sel)) := by
  change execShseg o s = _
  exact shapeR_ok hsh hb h (by dsimp only; rw [hsel, if_neg (Nat.not_le.mpr hrow), hseg]; rfl)

theorem shrow_index (h : Fires s (.shrow o) o.g (.elem pg pe cx n) x) (hseg : sh.hdr.segs ≤ sel) :
    exec (.shrow o) s = .next (s.shapeFaulted pg pe cx n x o { cls := clsRange, code := 0x018, opnd := sel }) := by
  change execShrow o s = _
  exact shapeR_error hsh hb h (by dsimp only; rw [hsel]; exact if_pos hseg)

theorem shrow_segment (h : Fires s (.shrow o) o.g (.elem pg pe cx n) x) (hseg : sel < sh.hdr.segs) :
    let bnd (j : Nat) : Nat := (entryOf (sh.known (.elem pg pe cx n) none) j).getD 0
    exec (.shrow o) s = .next (s.shapeGiven pg pe cx n x o (bnd sel + (bnd (sel + 1) - bnd sel) * 2 ^ 32)
      (bnd (sel + 1) - bnd sel == 0)) := by
  intro bnd
  change execShrow o s = _
  exact shapeR_ok hsh hb h (by dsimp only; rw [hsel]; exact if_neg (Nat.not_le.mpr hseg))

end

/-! ## `VHEAD` (R164) -/

/-- Row y begins a nonempty segment of the known entries. -/
def headRow (kn : List (Nat × Nat)) (y : Nat) : Bool := ((segOf kn y).map fun p => p.2 == y).getD false

/-- No row of A's tile up to A is a head. -/
def headless (sh : Shape) (kn : List (Nat × Nat)) (a : Nat) : Bool :=
  decide (a < sh.hdr.rows) && (List.range (a % 16 + 1)).all fun j => !headRow kn (a / 16 * 16 + j)

theorem headless_iff {kn : List (Nat × Nat)} {a : Nat} :
    headless sh kn a = true ↔ a < sh.hdr.rows ∧ ∀ j ≤ a % 16, headRow kn (a / 16 * 16 + j) = false := by
  simp [headless]

theorem vhead_fires (hsh : s.taken.shape? pg o.b.toNat = some sh) (hb : sh.bound = true)
    (h : Fires s (.vhead o) o.g (.elem pg pe cx n) x) {one : Bool}
    (hone : headless sh (sh.known (.elem pg pe cx n) none) (s.taken.readS (.elem pg pe cx n) o.a.toNat).toNat = one) :
    let w : Who := .elem pg pe cx n
    exec (.vhead o) s = .next ((s.fired w x o.g
      { w := 4, wr := writeV o.d.toNat (s.taken.tagOf w o.a.toNat 26) (packLanes (tyWidth o.ty.toNat)
          (List.replicate (tyLanes o.ty.toNat) (if one then oneOf o.ty.toNat else 0)))
        outcome := true }).clearStash pg o.b.toNat w none) := by
  subst hone
  change execVhead o s = _
  exact shapeR_ok hsh hb h rfl

/-- Settles O33. A shape read fires or faults as its register says (`shapeR_ok`, `shapeR_error`), and "no row is a head" is
`headless`. -/
theorem shapeReads : Obligations.ShapeReads := by
  unfold Obligations.ShapeReads
  intro o s pg pe cx n x sh
  refine ⟨fun hsh => ⟨fun hb => ?_, fun hb => ⟨fun h => ⟨shget_entry rfl hsh hb h, shget_field rfl hsh hb h,
      shget_index rfl hsh hb h⟩, fun h => ⟨shseg_behind rfl hsh hb h, shseg_known rfl hsh hb h⟩,
      fun h => ⟨shrow_index rfl hsh hb h, shrow_segment rfl hsh hb h⟩⟩⟩, fun hsh hb h => ⟨fun hone => ?_, fun hhead => ?_⟩⟩
  · simp only [List.forall_mem_cons, List.not_mem_nil, false_imp_iff, implies_true, and_true]
    refine ⟨fun h => ?_, fun h => ?_, fun h => ?_⟩
    · change execShget o s = _
      exact shapeR_unbound hsh hb h
    · change execShseg o s = _
      exact shapeR_unbound hsh hb h
    · change execShrow o s = _
      exact shapeR_unbound hsh hb h
  · exact vhead_fires hsh hb h (headless_iff.mpr hone)
  · refine vhead_fires hsh hb h (eq_false_of_ne_true fun hone => ?_)
    obtain ⟨hrow, hnone⟩ := headless_iff.mp hone
    rcases hhead with hrows | ⟨j, hj, hhead⟩
    · exact absurd hrow (Nat.not_lt.mpr hrows)
    · exact absurd hhead (by simpa [headRow] using hnone j hj)

end Sys2Proof.Machine
end

section
/-!
SUPPORT. `SHBIND` reading on (R203): what more of its table the record's header asks for, as the word that goes on sees it.
-/

namespace Sys2Proof.Machine

/-- A `SHBIND` whose header is good, and whose table is longer than what it has read, reads the rest of its first window. Where
the rest begins is the performing word's own address and bytes. -/
theorem shbind_reads_on {s : State} {o : FormR} {f : Flight} (h : s.Performing (.shbind o) f) (hread : f.plan.length ≤ f.stage)
    (hleft : f.left = 0) (hgood : hdrBad f.bytes = none) (hshort : f.bytes.length < 32 + 4 * winCount (hdrOf f.bytes) 0) :
    exec (.instructionPerformed f.fid) s = .next (s.modFlight f.fid fun g => { g with
      plan := g.plan ++ recParts (f.sa.toNat + f.bytes.length) (32 + 4 * winCount (hdrOf f.bytes) 0 - f.bytes.length) }) := by
  have ⟨_, _, hword⟩ := h
  have hopc : opcOf f.word = 0x50 := by
    rw [word_eq hword (opc := 0x50) (fn := 0) rfl, opcOf_packR]
    rfl
  refine performed_ok h ?_
  rw [step_shape50 hopc, State.shapeStep, hopc]
  simp only [if_neg (Nat.not_lt.mpr hread), if_pos hleft, State.shbindDone, hgood, if_pos hshort]

/-! ## Two outstanding words of one name -/

/-- `SHBIND` of `s0` from `a1`. -/
def bindOps : FormR where
  g := ⟨0, 0, 0, 0, 0, 0, 0, 0⟩
  d := 0
  a := 1
  b := 0
  pd := 0
  pu := 0
  ty := 0

/-- A good header: one segment of no rows, a byte wide. -/
def lineHeader : List Byte := [1, 0, 0, 0, 1, 0, 0, 0, 8, 0, 0, 0, 0, 0, 0, 0, 1] ++ List.replicate 15 0

/-- The outstanding `SHBIND` of the record at an address, when that header has been read. -/
def headerRead (addr : Word) : Flight :=
  { State.reset.newFlight (.elem 0 0 0 0) (packR 0x50 0 bindOps) with
    sa := addr, plan := recParts addr.toNat 32, got := [(0, lineHeader)], stage := 1 }

/-- An element of an armed region with two such words outstanding under one name, at addresses of their own. No run from reset
comes here: a word takes a name of its own when it fires. -/
def namesakes : State :=
  { State.reset with
    regions := [(0, Region.placed)], pages := [(0, Page.holding 0)], flights := [headerRead 0x1000, headerRead 0x2000] }

theorem namesakes_performing : namesakes.Performing (.shbind bindOps) (headerRead 0x1000) :=
  ⟨by decide +kernel, by decide +kernel, rfl⟩

theorem headerRead_short : (headerRead 0x1000).plan.length ≤ (headerRead 0x1000).stage ∧
    hdrBad (headerRead 0x1000).bytes = none ∧
    (headerRead 0x1000).bytes.length < 32 + 4 * winCount (hdrOf (headerRead 0x1000).bytes) 0 := by decide +kernel

/-- Refutes O34: in the clause for a header read whose table is longer, each outstanding word of the name goes on from its own
address and bytes, where the model has it go on from the performing word's (`shbind_reads_on`). The two differ where an outstanding
word shares the performing word's name, as in `namesakes`. -/
theorem not_shapeWritesAndChanges : ¬ Obligations.ShapeWritesAndChanges := by
  unfold Obligations.ShapeWritesAndChanges
  intro hall
  obtain ⟨hread, hgood, hshort⟩ := headerRead_short
  obtain ⟨-, -, -, hbind, -⟩ := hall.1 bindOps namesakes 0 0 0 0 0 (headerRead 0x1000) Shape.empty
  obtain ⟨-, hmore, -⟩ := hbind namesakes_performing hread rfl
  have hmodel := shbind_reads_on namesakes_performing hread rfl hgood hshort
  have hstates := Host.Outcome.next.inj (hmodel.symm.trans (hmore hgood hshort))
  have hplans := congrArg (fun s => s.flights.map Flight.plan) hstates
  revert hplans
  decide +kernel

end Sys2Proof.Machine
end

section
/-!
SUPPORT. A tile register read after it has been written (R178, R179, R186): the rows of a tenant's registers stand apart in the
array, and those of the register written are the elements given.
-/

namespace Sys2Proof.Machine

variable {p : Page} {ten z : Nat} {d : ZDesc} {f : Nat → Nat → Nat}

/-! ## A run of a list replaced -/

/-- Consecutive entries before or behind a run that has been replaced are as before. -/
theorem take_drop_splice_apart {α : Type} {l new : List α} {off e a n : Nat} (hlen : off + new.length = e) (he : e ≤ l.length)
    (h : a + n ≤ off ∨ e ≤ a) : ((l.take off ++ new ++ l.drop e).drop a).take n = (l.drop a).take n := by
  have hoff : (l.take off).length = off := List.length_take_of_le (by omega)
  refine List.ext_getElem? fun j => ?_
  rw [List.getElem?_take, List.getElem?_take]
  split
  next hj =>
    rw [List.getElem?_drop, List.getElem?_drop]
    rcases h with hbefore | hbehind
    · rw [List.append_assoc, List.getElem?_append_left (by omega), List.getElem?_take_of_lt (by omega)]
    · rw [List.getElem?_append_right (by simp only [List.length_append]; omega), List.getElem?_drop]
      congr 1
      simp only [List.length_append]
      omega
  next => rfl

/-- Consecutive entries of the run that replaces another. -/
theorem take_drop_splice_inside {α : Type} {l new : List α} {off e a n : Nat} (hoff : off ≤ l.length)
    (h : a + n ≤ new.length) : ((l.take off ++ new ++ l.drop e).drop (off + a)).take n = (new.drop a).take n := by
  have hlen : (l.take off).length = off := List.length_take_of_le hoff
  rw [List.append_assoc, ← List.drop_drop, List.drop_left' hlen, List.drop_append_of_le_length (by omega),
    List.take_append_of_le_length (by rw [List.length_drop]; omega)]

/-- A table of rows of 16, row after row. -/
theorem flatten_tab_rows {α : Type} (r : Nat) (g : Nat → Nat → α) :
    (tab r fun i => tab 16 (g i)).flatten = tab (16 * r) fun j => g (j / 16) (j % 16) := by
  induction r with
  | zero => rfl
  | succ r ih =>
    have hrow : ((List.range 16).map (16 * r + ·)).map (fun j => g (j / 16) (j % 16)) = tab 16 (g r) := by
      rw [List.map_map]
      refine List.map_congr_left fun j hj => ?_
      have hlt := List.mem_range.mp hj
      rw [Function.comp_apply, Nat.mul_add_div (by decide), Nat.div_eq_of_lt hlt, Nat.add_zero, Nat.mul_add_mod,
        Nat.mod_eq_of_lt hlt]
    calc (tab (r + 1) fun i => tab 16 (g i)).flatten
        = (tab r fun i => tab 16 (g i)).flatten ++ tab 16 (g r) := by simp [tab, List.range_succ]
      _ = tab (16 * (r + 1)) fun j => g (j / 16) (j % 16) := by
        rw [ih, ← hrow, Nat.mul_succ, tab, tab, List.range_add, List.map_append]

/-! ## The rows of a tenant -/

/-- The array's index of element (0, 0) of a tenant's register. -/
def Page.tileBase (p : Page) (ten z : Nat) : Nat := z * 256 + p.tenBase ten * 16

/-- A tenant's rows are among the 16 of the array. -/
theorem tenBase_add_tenRows_le (hr : p.mtx.r0 ≤ 16) (ten : Nat) : p.tenBase ten + p.tenRows ten ≤ 16 := by
  unfold Page.tenBase Page.tenRows
  split_ifs <;> omega

/-- The two tenants' rows stand apart. -/
theorem tenRows_apart (hten : ten < 2) {i : Nat} (hi : i < p.tenRows (1 - ten)) :
    p.tenBase (1 - ten) + i < p.tenBase ten ∨ p.tenBase ten + p.tenRows ten ≤ p.tenBase (1 - ten) + i := by
  obtain rfl | rfl : ten = 0 ∨ ten = 1 := by omega
  · refine .inr ?_
    by_cases hkind : p.kind = 0
    · simp [Page.tenRows, Page.tenBase, hkind]
    · simp [Page.tenRows, hkind] at hi
  · by_cases hkind : p.kind = 0
    · exact .inl (by simpa [Page.tenRows, Page.tenBase, hkind] using hi)
    · exact .inr (by simp [Page.tenRows, Page.tenBase, hkind])

theorem cellW_le (ty : Nat) : cellW ty ≤ 64 := by
  unfold cellW
  split
  · decide
  · exact tyWidth_le ty

/-! ## The array and the descriptors after a write -/

/-- The cells that a write puts in place of a register's. -/
def tileCells (r : Nat) (d : ZDesc) (f : Nat → Nat → Nat) : List Word :=
  (tab r fun i => tab 16 fun k =>
    if i < d.rows ∧ k < d.cols then BitVec.ofNat 64 (f i k % 2 ^ cellW d.ty) else 0#64).flatten

theorem tileCells_eq (r : Nat) (d : ZDesc) (f : Nat → Nat → Nat) :
    tileCells r d f = tab (16 * r) fun j =>
      if j / 16 < d.rows ∧ j % 16 < d.cols then BitVec.ofNat 64 (f (j / 16) (j % 16) % 2 ^ cellW d.ty) else 0#64 :=
  flatten_tab_rows r _

theorem length_tileCells (r : Nat) (d : ZDesc) (f : Nat → Nat → Nat) : (tileCells r d f).length = 16 * r := by
  rw [tileCells_eq, tab, List.length_map, List.length_range]

theorem setTile_cells (p : Page) (ten z : Nat) (d : ZDesc) (f : Nat → Nat → Nat) :
    (p.setTile ten z d f).mtx.cells = p.mtx.cells.take (p.tileBase ten z) ++ tileCells (p.tenRows ten) d f ++
      p.mtx.cells.drop (p.tileBase ten z + 16 * p.tenRows ten) := rfl

@[simp] theorem setTile_tenRows (p : Page) (ten z : Nat) (d : ZDesc) (f : Nat → Nat → Nat) (t : Nat) :
    (p.setTile ten z d f).tenRows t = p.tenRows t := rfl

@[simp] theorem setTile_tileBase (p : Page) (ten z : Nat) (d : ZDesc) (f : Nat → Nat → Nat) (t y : Nat) :
    (p.setTile ten z d f).tileBase t y = p.tileBase t y := rfl

theorem tile_rows (p : Page) (ten z : Nat) : (p.tile ten z).rows = tab (p.tenRows ten) fun i =>
    ((p.mtx.cells.drop (p.tileBase ten z + i * 16)).take 16).map (·.toNat) := by
  refine tab_congr fun i _ => ?_
  rw [Page.tileBase, Nat.add_assoc, ← Nat.add_mul]

/-- The descriptor of a register after another or the same has been written. -/
theorem tdesc_setTile (p : Page) (ten z : Nat) (d : ZDesc) (f : Nat → Nat → Nat) (t y : Nat) :
    (p.setTile ten z d f).tdesc t y =
      (((p.mtx.tens[t]?).bind fun x => (if ten = t then x.desc.set z d else x.desc)[y]?).getD ⟨0, 0, 0, 0, 2⟩) := by
  unfold Page.tdesc Page.setTile
  rw [List.getElem?_modify]
  cases p.mtx.tens[t]? with
  | none => rfl
  | some x => by_cases h : ten = t <;> simp [h]

/-! ## Reading after a write -/

section

variable (hcells : p.mtx.cells.length = 2048) (hr : p.mtx.r0 ≤ 16) (hz : z < 8)
include hcells hr hz

/-- The rows of a register that stand apart from those written are as before. -/
theorem rows_setTile_apart {t y : Nat} (h : ∀ i < p.tenRows t, p.tileBase t y + i * 16 + 16 ≤ p.tileBase ten z ∨
      p.tileBase ten z + 16 * p.tenRows ten ≤ p.tileBase t y + i * 16) :
    ((p.setTile ten z d f).tile t y).rows = (p.tile t y).rows := by
  have hfit := tenBase_add_tenRows_le hr ten
  rw [tile_rows, tile_rows, setTile_tenRows, setTile_tileBase, setTile_cells]
  refine tab_congr fun i hi => congrArg _ (take_drop_splice_apart (by rw [length_tileCells]) ?_ (h i hi))
  rw [Page.tileBase]
  omega

/-- The rows of the register written are the elements given, cut to their width, and zero outside the shape. -/
theorem rows_setTile_same : ((p.setTile ten z d f).tile ten z).rows = tab (p.tenRows ten) fun i => tab 16 fun k =>
    if i < d.rows ∧ k < d.cols then f i k % 2 ^ cellW d.ty else 0 := by
  have hfit := tenBase_add_tenRows_le hr ten
  rw [tile_rows, setTile_tenRows, setTile_tileBase, setTile_cells]
  refine tab_congr fun i hi => ?_
  have hrow : i * 16 + 16 ≤ 16 * p.tenRows ten := by omega
  rw [take_drop_splice_inside (by rw [Page.tileBase]; omega) (by rwa [length_tileCells]), tileCells_eq, take_drop_tab _ hrow,
    map_tab]
  refine tab_congr fun k hk => ?_
  have hlt : f i k % 2 ^ cellW d.ty < 2 ^ 64 :=
    (Nat.mod_lt _ (Nat.two_pow_pos _)).trans_le (Nat.pow_le_pow_right (by decide) (cellW_le d.ty))
  have hdiv : (i * 16 + k) / 16 = i := by omega
  have hmod : (i * 16 + k) % 16 = k := by omega
  rw [hdiv, hmod, apply_ite BitVec.toNat, BitVec.toNat_ofNat, Nat.mod_eq_of_lt hlt]
  rfl

end

/-- Settles O37. A write replaces one run of cells, which holds the new elements (`rows_setTile_same`); the rows of another register
and of the other tenant stand apart from it (`rows_setTile_apart`, `tenRows_apart`). -/
theorem tileReadsBack : Obligations.TileReadsBack := by
  unfold Obligations.TileReadsBack
  intro p ten z y d f i k hcells htens hdescs hr hten hz _ hyz hrows hcols q
  have hfit := tenBase_add_tenRows_le hr ten
  have htenant : ten < p.mtx.tens.length := htens ▸ hten
  have hdesc : (q.tile ten z).desc = d := by
    have hlen := hdescs _ (List.getElem_mem htenant)
    refine (tdesc_setTile ..).trans ?_
    simp [htenant, hlen, hz]
  have hother : q.tdesc ten y = p.tdesc ten y := by
    rw [tdesc_setTile, Page.tdesc]
    simp [List.getElem?_set_ne hyz.symm]
  have hpartner : q.tdesc (1 - ten) z = p.tdesc (1 - ten) z := by
    have hne : ten ≠ 1 - ten := by omega
    rw [tdesc_setTile, Page.tdesc]
    simp only [if_neg hne]
  refine ⟨hdesc, ?_, ?_, ?_⟩
  · rw [Tile.at, hdesc, rows_setTile_same hcells hr hz]
    split
    next hin =>
      obtain ⟨hi, hk⟩ := hin
      rw [getD_tab, if_pos (hi.trans_le hrows), getD_tab, if_pos (hk.trans_le hcols), if_pos ⟨hi, hk⟩]
    next => rfl
  · refine congrArg₂ Tile.mk hother (rows_setTile_apart hcells hr hz fun i hi => ?_)
    simp only [Page.tileBase]
    omega
  · refine congrArg₂ Tile.mk hpartner (rows_setTile_apart hcells hr hz fun i hi => ?_)
    have hapart := tenRows_apart hten hi
    simp only [Page.tileBase]
    omega

end Sys2Proof.Machine
end

section
/-!
SUPPORT. Tile words fire into the queue of their tenant (R187, R189): firing moves no time, and what a ragged `MMA` captures leaves
its agent and its word as they are.
-/

namespace Sys2Proof.Machine

variable {s : State} {i : Instr} {w : Who} {x : Word} {o : FormR}

/-! ## Firing moves no time -/

@[simp] theorem stir_fc (s : State) (pg : Nat) : (s.stir pg).fc = s.fc := by
  unfold State.stir
  split <;> rfl

@[simp] theorem takeElem_fc (s : State) (pg pe port : Nat) : (s.takeElem pg pe port).fc = s.fc := by
  unfold State.takeElem
  split
  next => rfl
  next => split <;> [rfl; split <;> rfl]

@[simp] theorem telTake_fc (s : State) (te cx port : Nat) : (s.telTake te cx port).fc = s.fc := by
  unfold State.telTake
  split
  next => rfl
  next =>
    split
    next => rfl
    next =>
      dsimp only
      split
      case h_1 => split <;> [rfl; split <;> rfl]
      case h_2 => split <;> [rfl; split <;> rfl]
      case h_3 => rfl
      case h_4 => split <;> rfl

@[simp] theorem setPred_fc (s : State) (w : Who) (n : Nat) (v : Tri) : (s.setPred w n v).fc = s.fc := by
  cases w <;> rfl

@[simp] theorem takeAll_fc (s : State) (w : Who) (chans : List Nat) : (s.takeAll w chans).fc = s.fc :=
  foldl_fc (fun v n => by cases w <;> simp) chans s

@[simp] theorem reserve_fc (s : State) (w : Who) (h : List Res) : (s.reserve w h).fc = s.fc :=
  foldl_fc (fun v r => by split <;> rfl) h s

@[simp] theorem pend_fc (s : State) (w : Who) (h : List Res) : (s.pend w h).fc = s.fc :=
  foldl_fc (fun v r => by split <;> simp) h s

@[simp] theorem launch_fc (s : State) (w : Who) (deq : List Nat) (f : Flight) (pc : Option Word) (gap : Nat) :
    (s.launch w deq f pc gap).fc = s.fc := by
  cases w <;> simp [State.launch]

@[simp] theorem handed_fc (s : State) (w : Who) (g : Guard) (f : Flight) : (s.handed w g f).fc = s.fc :=
  launch_fc ..

/-! ## A tile word enters its queue -/

@[simp] theorem captureShape_who (sx : Nat) (s : State) (f : Flight) : (captureShape sx s f).who = f.who := by
  unfold captureShape
  split <;> [split <;> rfl; rfl]

@[simp] theorem captureShape_word (sx : Nat) (s : State) (f : Flight) : (captureShape sx s f).word = f.word := by
  unfold captureShape
  split <;> [split <;> rfl; rfl]

/-- A tenant once flight `f` of the word `x`, fired in fc `fc`, has entered its queue: the next QSEQ, the new entry, and the same
entry in the shadows that the tenant has taken and the driver has not (log 118). -/
def Tenant.entered (t : Tenant) (x : Word) (fc : Nat) (f : Flight) : Tenant :=
  let ent : ZEnt := ⟨t.qseq + 1, f.fid, if t.q = [] then fc + tileTime x - 1 else 0⟩
  { t with qseq := t.qseq + 1
           q := t.q ++ [ent]
           shadows := t.shadows.map fun sh =>
             if f.ival < sh.ival then { sh with q := sh.q ++ [ent], flights := sh.flights ++ [f] } else sh }

theorem enqueue_driven {f : Flight} {ten : Nat} (h : s.tenDriven f.who = some ten) :
    s.enqueue f = s.modTen f.who.page ten fun t => t.entered f.word s.fc f := by
  simp only [State.enqueue, h, Tenant.entered]

/-- A tile word fires: its flight `f` is handed over and enters the queue of the tenant that its slot drives. -/
theorem tileR_ok {r : List Res} {k : State → Flight → Flight} {f : Flight} (he : exec i s = tileR o r k s)
    (h : Fires s i o.g w x) (hk : k s.taken { s.jobOf w x with holds := (s.jobOf w x).holds ++ r } = f) (hwho : f.who = w)
    (hword : f.word = x) :
    exec i s = .next ((s.handed w o.g f).enqueue f) ∧
    ∀ ten, (s.handed w o.g f).tenDriven w = some ten →
      (s.handed w o.g f).enqueue f = (s.handed w o.g f).modTen w.page ten fun t => t.entered x s.fc f := by
  refine ⟨he.trans (fireJob_ok h (congrArg Except.ok hk)), fun ten hten => ?_⟩
  subst hwho hword
  rw [enqueue_driven hten, handed_fc]

/-- A tile word that captures nothing but its operands. -/
theorem tileR_plain_ok {r : List Res} (he : exec i s = tileR o r (fun _ f => f) s) (h : Fires s i o.g w x) :
    let f := { s.jobOf w x with holds := (s.jobOf w x).holds ++ r }
    exec i s = .next ((s.handed w o.g f).enqueue f) ∧
    ∀ ten, (s.handed w o.g f).tenDriven w = some ten →
      (s.handed w o.g f).enqueue f = (s.handed w o.g f).modTen w.page ten fun t => t.entered x s.fc f :=
  tileR_ok he h rfl rfl rfl

/-- Settles O35. Every tile word is a `tileR`, which hands over and queues the flight that the word's own entry of the list gives
(`tileR_ok`). -/
theorem tileWordsEnter : Obligations.TileWordsEnter := by
  unfold Obligations.TileWordsEnter
  intro o s w x j held ahead z dst
  simp only [List.forall_mem_cons, List.not_mem_nil, false_imp_iff, implies_true, and_true]
  refine ⟨?_, ?_, ?_, ?_, ?_, ?_, ?_, ?_, ?_, ?_, ?_, ?_, ?_, ?_, ?_, ?_, ?_, fun h => ?mmaR, fun h => ?mmaRt, ?_, ?_, ?_, ?_, ?_,
    ?_, ?_, fun h => ?zwait, ?_, ?_⟩
  case mmaR | mmaRt =>
    exact tileR_ok (k := captureShape o.b.toNat) (r := z) rfl h rfl (captureShape_who ..) (captureShape_word ..)
  case zwait => exact tileR_ok (f := { held [] with aux := [ahead] }) (show execZwait o s = _ from rfl) h rfl rfl rfl
  all_goals exact tileR_plain_ok rfl

end Sys2Proof.Machine
end

section
/-!
SUPPORT. Tile words performed at the head of their queue (R187, R190, R194, R197-R201): which meaning each opcode has there, and what
the meanings come to for a word packed from its fields.
-/

namespace Sys2Proof.Machine

variable {s : State} {pg ten off n : Nat} {p : Page} {t : Tenant} {f : Flight} {fn : BitVec 3} {o : FormR}

/-! ## The meaning of each opcode at the head -/

theorem opcOf_word {opc : BitVec 7} (hw : f.word = packR opc fn o) : opcOf f.word = opc.toNat := by
  rw [hw, opcOf_packR]

theorem fnOf_word {opc : BitVec 7} (hw : f.word = packR opc fn o) : fnOf f.word = fn.toNat := by
  rw [hw, fnOf_packR]

/-- What performing flight `f` at the head of tenant `t`'s queue comes to, by the opcode of its word. -/
structure HeadMeaning (s : State) (pg ten : Nat) (p : Page) (t : Tenant) (f : Flight) : Prop where
  cfg : opcOf f.word = 0x40 → exec (.tileQueuePerform pg ten) s = .next (s.tileRes pg ten f (zcfg p ten f))
  fill : opcOf f.word = 0x44 → exec (.tileQueuePerform pg ten) s = .next (s.tileRes pg ten f (.ok (zfill p ten f)))
  trn : opcOf f.word = 0x47 → exec (.tileQueuePerform pg ten) s = .next (s.tileRes pg ten f (ztrn p ten f))
  add : opcOf f.word = 0x48 → exec (.tileQueuePerform pg ten) s = .next (s.tileRes pg ten f (zadd p ten f))
  cvt : opcOf f.word = 0x49 → exec (.tileQueuePerform pg ten) s = .next (s.tileRes pg ten f (zcvt p ten f))
  arm : opcOf f.word = 0x4A → exec (.tileQueuePerform pg ten) s = .next
    ((s.modTen pg ten fun t => { t with left := some (min (t.left.getD 0 + f.sa.toNat % 2 ^ 32) (2 ^ 32 - 1)) }).tileDone pg ten f
      Writes.none (f.sa.toNat % 2 ^ 32 != 0) false [])
  stat : opcOf f.word = 0x4C → exec (.tileQueuePerform pg ten) s = .next
    (s.tileDone pg ten f (writeS (field f.word 19 5).toNat tagData (w64 (zstat t (field f.word 14 5).toNat)))
      (zstat t (field f.word 14 5).toNat != 0) false [])
  wait : opcOf f.word = 0x4D → exec (.tileQueuePerform pg ten) s = .next
    (s.tileDone pg ten f Writes.none (f.aux.headD 0 != 0) false [])
  tov_error : ∀ e, opcOf f.word = 0x4E → fnOf f.word = 0 → zmovTov p ten f = .error e →
    exec (.tileQueuePerform pg ten) s = .next (s.tenFault f e)
  tov_ok : ∀ r, opcOf f.word = 0x4E → fnOf f.word = 0 → zmovTov p ten f = .ok r →
    exec (.tileQueuePerform pg ten) s = .next
      (s.tileDone pg ten f (writeV (field f.word 19 5).toNat tagData r.1) (r.2 != 0) false [])
  frv_error : ∀ e, opcOf f.word = 0x4E → fnOf f.word ≠ 0 → zmovFrv p ten f = .error e →
    exec (.tileQueuePerform pg ten) s = .next (s.tenFault f e)
  frv_ok : ∀ r, opcOf f.word = 0x4E → fnOf f.word ≠ 0 → zmovFrv p ten f = .ok r →
    exec (.tileQueuePerform pg ten) s = .next
      ((s.modPage pg fun p => p.setTile ten r.1.z r.1.desc r.1.f).tileDone pg ten f Writes.none (r.2 != 0) false [])

/-- An entry at the head of its queue whose time has come is performed: nothing withholds it, and its tenant has rows. -/
theorem headMeaning (h : s.AtHead pg ten p t f) : HeadMeaning s pg ten p t f := by
  obtain ⟨hp, ht, hrows, hfree, z, hq, hf, htime, hsplit⟩ := h
  have hgo : ¬ (t.withheld = true ∨ s.fc < z.after ∨ s.splitHolds pg ten f.fid = true) := by simp [hfree, hsplit, htime]
  constructor
  case tov_error | tov_ok =>
    intro r hopc hfn hr
    change execTileQueuePerform pg ten s = _
    simp only [execTileQueuePerform, hp, ht, hq, hf, if_neg hgo, if_neg hrows, hopc, if_pos hfn, hr]
  case frv_error | frv_ok =>
    intro r hopc hfn hr
    change execTileQueuePerform pg ten s = _
    simp only [execTileQueuePerform, hp, ht, hq, hf, if_neg hgo, if_neg hrows, hopc, if_neg hfn, hr]
  all_goals
    intro hopc
    change execTileQueuePerform pg ten s = _
    simp only [execTileQueuePerform, hp, ht, hq, hf, if_neg hgo, if_neg hrows, hopc]

/-! ## `ZFILL` (R194) -/

theorem zfill_word : ∀ q ∈ [(Instr.zfillZero o, fun (_ _ : Nat) => 0), (.zfillOnes o, fun _ _ => oneOf o.ty.toNat),
      (.zfillIden o, fun i k => if k = i then oneOf o.ty.toNat else 0),
      (.zfillTril o, fun i k => if k ≤ i then oneOf o.ty.toNat else 0),
      (.zfillTrls o, fun i k => if k < i then oneOf o.ty.toNat else 0),
      (.zfillTriu o, fun i k => if i ≤ k then oneOf o.ty.toNat else 0), (.zfillBcst o, fun _ _ => f.sa.toNat)],
    encode q.1 = some f.word → opcOf f.word = 0x44 ∧
      zfill p ten f = { z := o.d.toNat, desc := ⟨o.ty.toNat, 0, p.tenRows ten, 16, 2⟩, f := q.2 } := by
  simp only [List.forall_mem_cons, List.not_mem_nil, false_imp_iff, implies_true, and_true]
  refine ⟨?_, ?_, ?_, ?_, ?_, ?_, ?_⟩ <;>
    · intro he
      have hw := word_eq (opc := 0x44) he rfl
      refine ⟨opcOf_word hw, ?_⟩
      simp only [zfill, hw, tyOf_packR, fnOf_packR, field_packR_d]
      rfl

/-! ## `ZCFG` (R190) -/

/-- A descriptor with the fields named set to those of the descriptor word `a`, a named type to `ty`. -/
def ZDesc.configured (d : ZDesc) (ty a : Nat) (named : Bool × Bool × Bool) : ZDesc :=
  ⟨if named.1 then ty else d.ty, if named.1 then (if ty = 12 then bits a 21 16 else 0) else d.pln,
    if named.2.1 then bits a 4 0 else d.rows, if named.2.2 then bits a 12 8 else d.cols, d.ct⟩

/-- A shape within a tenant's limits. -/
def ZDesc.Fits (d : ZDesc) (rows : Nat) : Prop := d.rows ≤ rows ∧ d.cols ≤ 16 ∧ (d.ty = 12 → 2 ≤ d.pln ∧ d.pln ≤ 8)

theorem not_fits_iff {d : ZDesc} {rows : Nat} :
    ¬ d.Fits rows ↔ rows < d.rows ∨ 16 < d.cols ∨ (d.ty = 12 ∧ (d.pln < 2 ∨ 8 < d.pln)) := by
  unfold ZDesc.Fits
  omega

theorem zcfg_word : ∀ q ∈ [(Instr.zcfgTy o, true, false, false), (.zcfgRow o, false, true, false),
      (.zcfgCol o, false, false, true), (.zcfgAll o, true, true, true)],
    encode q.1 = some f.word → opcOf f.word = 0x40 ∧
      let old := p.tile ten o.d.toNat
      let d := old.desc.configured o.ty.toNat f.sa.toNat q.2
      (d.Fits (p.tenRows ten) → zcfg p ten f = .ok { z := o.d.toNat, desc := d, f := old.at }) ∧
      (¬ d.Fits (p.tenRows ten) → zcfg p ten f = .error (zdimFault f.sa.toNat)) := by
  simp only [List.forall_mem_cons, List.not_mem_nil, false_imp_iff, implies_true, and_true]
  refine ⟨?_, ?_, ?_, ?_⟩ <;>
    · intro he
      have hw := word_eq (opc := 0x40) he rfl
      refine ⟨opcOf_word hw, ?_⟩
      simp only [zcfg, hw, tyOf_packR, fnOf_packR, field_packR_d]
      exact ⟨fun hfit => if_neg (not_fits_iff.not.mp (not_not_intro hfit)), fun hbad => if_pos (not_fits_iff.mp hbad)⟩

/-! ## `ZTRN`, `ZADD` and `ZCVT` (R197, R198) -/

theorem ztrn_cases (hw : f.word = packR 0x47 fn o) :
    let a := p.tile ten o.a.toNat
    (a.desc.cols ≤ p.tenRows ten → ztrn p ten f = .ok
      { z := o.d.toNat, desc := { a.desc with rows := a.desc.cols, cols := a.desc.rows }, f := fun i k => a.at k i }) ∧
    (p.tenRows ten < a.desc.cols → ztrn p ten f = .error (zdimFault a.desc.cols)) := by
  simp only [ztrn, hw, field_packR_d, field_packR_a]
  exact ⟨fun hfit => if_neg (Nat.not_lt.mpr hfit), fun hwide => if_pos hwide⟩

theorem zadd_word : ∀ i ∈ [Instr.zaddAdd o, .zaddScl o], encode i = some f.word → ∃ fn, f.word = packR 0x48 fn o := by
  simp only [List.forall_mem_cons, List.not_mem_nil, false_imp_iff, implies_true, and_true]
  exact ⟨fun he => ⟨0, word_eq he rfl⟩, fun he => ⟨1, word_eq he rfl⟩⟩

theorem zadd_type (hw : f.word = packR 0x48 fn o) (hty : (p.tile ten o.a.toNat).desc.ty ≠ o.ty.toNat) :
    zadd p ten f = .error (ztyFault (p.tile ten o.a.toNat).desc.ty) := by
  simp only [zadd, hw, tyOf_packR, field_packR_a, if_pos hty]

theorem zadd_add_cases (hw : f.word = packR 0x48 0 o) (hty : (p.tile ten o.a.toNat).desc.ty = o.ty.toNat) :
    let a := p.tile ten o.a.toNat
    let b := p.tile ten o.b.toNat
    (b.desc.ty ≠ o.ty.toNat → zadd p ten f = .error (ztyFault b.desc.ty)) ∧
    (b.desc.ty = o.ty.toNat → (a.desc.rows ≠ b.desc.rows ∨ a.desc.cols ≠ b.desc.cols) →
      zadd p ten f = .error (zdimFault b.desc.rows)) ∧
    (b.desc.ty = o.ty.toNat → a.desc.rows = b.desc.rows → a.desc.cols = b.desc.cols → zadd p ten f =
      .ok (gridRes o.d.toNat a.desc fun i k => laneAdd o.ty.toNat (a.at i k) (b.at i k))) := by
  have hfn : (0 : BitVec 3).toNat = 0 := rfl
  simp only [zadd, hw, tyOf_packR, fnOf_packR, field_packR_d, field_packR_a, field_packR_b, if_neg (not_not_intro hty), if_pos hfn]
  refine ⟨fun hb => if_pos hb, fun hb hdim => ?_, fun hb hrows hcols => ?_⟩
  · rw [if_neg (not_not_intro hb), if_pos hdim]
  · rw [if_neg (not_not_intro hb), if_neg (by simp [hrows, hcols])]

theorem zadd_scl (hw : f.word = packR 0x48 1 o) (hty : (p.tile ten o.a.toNat).desc.ty = o.ty.toNat) :
    let a := p.tile ten o.a.toNat
    zadd p ten f =
      .ok (gridRes o.d.toNat a.desc fun i k => laneMul o.ty.toNat (a.at i k) (f.sb.toNat % 2 ^ tyWidth o.ty.toNat)) := by
  have hfn : (1 : BitVec 3).toNat ≠ 0 := by decide
  simp only [zadd, hw, tyOf_packR, fnOf_packR, field_packR_d, field_packR_a, if_neg (not_not_intro hty), if_neg hfn]

/-- `ZCVT` with `zr` as B is the plain conversion. -/
theorem zcvt_plain (hw : f.word = packR 0x49 fn o) (hb : o.b.toNat = 26) :
    let a := p.tile ten o.a.toNat
    zcvt p ten f = .ok (gridRes o.d.toNat { a.desc with ty := o.ty.toNat, pln := 0 } fun i k =>
      let r := convert .rne (if a.desc.ty = 12 then 0 else a.desc.ty) o.ty.toNat (a.at i k) false
      { pat := r.pat, ev := r.ev }) := by
  simp only [zcvt, hw, tyOf_packR, field_packR_d, field_packR_a, field_packR_b, if_pos hb]

/-! ## `ZMOV` (R201) -/

/-- `ZMOV` finds a tile of another type, or a row that the tile has not, or no fault. -/
theorem zmovFault_cases (hw : f.word = packR 0x4E fn o) (d : ZDesc) :
    (d.ty ≠ o.ty.toNat → zmovFault d f = some (ztyFault d.ty)) ∧
    (d.ty = o.ty.toNat → d.rows ≤ f.sb.toNat % 32 → zmovFault d f = some (zdimFault f.sb.toNat)) ∧
    (d.ty = o.ty.toNat → f.sb.toNat % 32 < d.rows → zmovFault d f = none) := by
  simp only [zmovFault, hw, tyOf_packR]
  refine ⟨fun hty => if_pos hty, fun hty hrow => ?_, fun hty hrow => ?_⟩
  · rw [if_neg (not_not_intro hty), if_pos hrow]
  · rw [if_neg (not_not_intro hty), if_neg (Nat.not_le.mpr hrow)]

theorem zmovTov_error {e : FaultInfo} (hw : f.word = packR 0x4E fn o)
    (he : zmovFault (p.tile ten o.a.toNat).desc f = some e) : zmovTov p ten f = .error e := by
  simp only [zmovTov, hw, field_packR_a, he]

theorem zmovTov_ok (hw : f.word = packR 0x4E fn o) (hf : zmovFault (p.tile ten o.a.toNat).desc f = none)
    (hc : zmovCols (p.tile ten o.a.toNat).desc f.sb.toNat = (off, n)) :
    let a := p.tile ten o.a.toNat
    zmovTov p ten f = .ok (packLanes (cellW a.desc.ty) (tab n fun j => a.at (f.sb.toNat % 32) (off + j)), n) := by
  simp only [zmovTov, hw, field_packR_a, hf, hc]

theorem zmovFrv_error {e : FaultInfo} (hw : f.word = packR 0x4E fn o)
    (he : zmovFault (p.tile ten o.d.toNat).desc f = some e) : zmovFrv p ten f = .error e := by
  simp only [zmovFrv, hw, field_packR_d, he]

theorem zmovFrv_ok (hw : f.word = packR 0x4E fn o) (hf : zmovFault (p.tile ten o.d.toNat).desc f = none)
    (hc : zmovCols (p.tile ten o.d.toNat).desc f.sb.toNat = (off, n)) :
    let old := p.tile ten o.d.toNat
    zmovFrv p ten f = .ok ({ z := o.d.toNat, desc := old.desc, f := fun i k =>
      if i = f.sb.toNat % 32 ∧ off ≤ k ∧ k < off + n then lane (cellW old.desc.ty) f.va (k - off) else old.at i k }, n) := by
  simp only [zmovFrv, hw, field_packR_d, hf, hc]

/-- Settles O36. Each clause is the head's meaning of its opcode (`headMeaning`) at a word packed from the clause's own fields;
that `ZTRN` and `ZADD` keep their first source's CT is the model's choice (log 25). -/
theorem tileWordsPerform : Obligations.TileWordsPerform := by
  unfold Obligations.TileWordsPerform
  intro o s pg ten p t f step D A B ty put stop dim bad one h
  have hm := headMeaning h
  have ⟨_, _, hrows, _⟩ := h
  have gives {r : Except FaultInfo TileRes} {q : TileRes} (hs : step = .next (s.tileRes pg ten f r)) (hr : r = .ok q) :
      step = .next (s.tileRes pg ten f (.ok q)) := by
    rwa [hr] at hs
  have puts {r : Except FaultInfo TileRes} {z : Nat} {d : ZDesc} {v : Nat → Nat → Nat} (hs : step = .next (s.tileRes pg ten f r))
      (hr : r = .ok { z := z, desc := d, f := v }) : put z d v (d.rows * d.cols != 0) := by
    rwa [hr] at hs
  have stops {r : Except FaultInfo TileRes} {e : FaultInfo} (hs : step = .next (s.tileRes pg ten f r)) (hr : r = .error e) :
      stop e := by
    rwa [hr] at hs
  refine ⟨fun q hq he => ?fill, fun q hq he => ?cfg, fun he => ?trn, fun i hi he hty => ?addType, fun he hty => ?addAdd,
    fun he hty => ?addScl, fun he hb => ?cvt, fun he => ?arm, fun he => ?stat, fun he => ?wait, fun he => ?tov, fun he => ?frv⟩
  case fill =>
    obtain ⟨hopc, hfill⟩ := zfill_word q hq he
    have hsome : (p.tenRows ten * 16 != 0) = true := by simpa using hrows
    refine (hm.fill hopc).trans ?_
    rw [hfill, State.tileRes, hsome]
  case cfg =>
    obtain ⟨hopc, hok, hbad⟩ := zcfg_word q hq he
    intro old a d
    split
    next hfit => exact puts (hm.cfg hopc) (hok hfit)
    next hout => exact stops (hm.cfg hopc) (hbad hout)
  case trn =>
    have hw := word_eq (opc := 0x47) he rfl
    have hs := hm.trn (opcOf_word hw)
    obtain ⟨hok, hwide⟩ := ztrn_cases hw
    exact ⟨fun hfit => puts hs (hok hfit), fun hlt => stops hs (hwide hlt)⟩
  case addType =>
    obtain ⟨fn, hw⟩ := zadd_word i hi he
    exact stops (hm.add (opcOf_word hw)) (zadd_type hw hty)
  case addAdd =>
    have hw := word_eq (opc := 0x48) he rfl
    have hs := hm.add (opcOf_word hw)
    obtain ⟨htype, hdim, hsum⟩ := zadd_add_cases hw hty
    exact ⟨fun hb => stops hs (htype hb), fun hb hne => stops hs (hdim hb hne),
      fun hb hrows hcols => (gives hs (hsum hb hrows hcols) :)⟩
  case addScl =>
    have hw := word_eq (opc := 0x48) he rfl
    exact gives (hm.add (opcOf_word hw)) (zadd_scl hw hty)
  case cvt =>
    have hw := word_eq (opc := 0x49) he rfl
    exact gives (hm.cvt (opcOf_word hw)) (zcvt_plain hw hb)
  case arm => exact hm.arm (opcOf_word (word_eq (opc := 0x4A) he rfl))
  case stat =>
    have hw := word_eq (opc := 0x4C) he rfl
    have hs := hm.stat (opcOf_word hw)
    rw [hw, field_packR_d, field_packR_a] at hs
    exact hs
  case wait => exact hm.wait (opcOf_word (word_eq (opc := 0x4D) he rfl))
  case tov =>
    have hw := word_eq (opc := 0x4E) he rfl
    have hopc := opcOf_word hw
    have hfn := fnOf_word hw
    obtain ⟨hty, hrow, hnone⟩ := zmovFault_cases hw A.desc
    intro row
    rcases hc : zmovCols A.desc f.sb.toNat with ⟨off, n⟩
    refine ⟨fun hne => hm.tov_error _ hopc hfn (zmovTov_error hw (hty hne)),
      fun heq hout => hm.tov_error _ hopc hfn (zmovTov_error hw (hrow heq hout)), fun heq hin => ?_⟩
    have hs := hm.tov_ok _ hopc hfn (zmovTov_ok hw (hnone heq hin) hc)
    rw [hw, field_packR_d] at hs
    exact hs
  case frv =>
    have hw := word_eq (opc := 0x4E) he rfl
    have hopc := opcOf_word hw
    have hfn : fnOf f.word ≠ 0 := by
      rw [fnOf_word hw]
      decide
    intro old row
    obtain ⟨hty, hrow, hnone⟩ := zmovFault_cases hw old.desc
    rcases hc : zmovCols old.desc f.sb.toNat with ⟨off, n⟩
    refine ⟨fun hne => hm.frv_error _ hopc hfn (zmovFrv_error hw (hty hne)),
      fun heq hout => hm.frv_error _ hopc hfn (zmovFrv_error hw (hrow heq hout)),
      fun heq hin => ?_⟩
    have hs := hm.frv_ok _ hopc hfn (zmovFrv_ok hw (hnone heq hin) hc)
    dsimp only at hs
    exact hs

end Sys2Proof.Machine
end

section
/-!
SUPPORT. How memory serves accesses (R218, R219, R234, R239, R417): one equation or effect per case of the banks and stacks, of
a walk, of an update on its way to its owner and in the owner's queue, and of the errors of memories and latches.
-/

set_option Elab.async false

namespace Sys2Proof.Machine

variable {s : State} {r : Req} {u : Upd} {m : Me} {die bank k pg me rt pos : Nat}

/-! ## Banks and HBM stacks (R218, R417) -/

theorem bankAccess_serves (hfree : s.bankFree die bank = true)
    (hr : pickPort ((alGet bank (s.die die).bankRR).getD (2 ^ 15 - 1)) (s.bankReady die bank) = some r) :
    exec (.bankAccess die bank) s = .next ((s.modDie die fun d => { d with
      bankRR := alSet bank r.port.number d.bankRR, bankAt := alSet bank (s.fc + 1) d.bankAt }).serve r) := by
  change execBankAccess die bank s = _
  simp only [execBankAccess, hfree, if_true, hr]

theorem bankAccess_busy (hbusy : s.bankFree die bank = false) : exec (.bankAccess die bank) s = .next s := by
  change execBankAccess die bank s = _
  simp only [execBankAccess, hbusy, Bool.false_eq_true, if_false]

theorem hbmAccessComplete_serves (hr : s.reqs.find? (fun q => q.rid = r.rid) = some r) (hpa : r.pa = some k)
    (hk : k < vaultKey) (hdue : r.due ≤ s.fc) (hfree : s.reqFree r = true) (hgate : s.gateOpen r = true)
    (hroom : s.hbmFree k = true) : exec (.hbmAccessComplete r.rid) s = .next ((s.useBlock k).serve r) := by
  change execHbmAccessComplete r.rid s = _
  simp only [execHbmAccessComplete, hr, hpa, hk, hdue, hfree, hgate, hroom, and_self, if_true]

/-! ## Walks (R219) -/

/-- A request is taken from those that wait. -/
def State.dropReq (s : State) (rid : Nat) : State := { s with reqs := s.reqs.filter fun q => q.rid != rid }

/-- What a request that has been placed does for the word it belongs to: a teller's may be accepted (R419). -/
def State.acceptPlaced (s : State) : ReqFor → State
  | .flight fid _ => s.tryAccept fid
  | _ => s

section Walk

variable {e : Tlb} (hr : s.reqs.find? (fun q => q.rid = r.rid) = some r) (hpa : r.pa = none) (hwalking : r.walking = true)
  (hdue : r.due ≤ s.fc)
include hr hpa hwalking hdue

theorem translationWalk_xlate {c : Nat} (hwalk : (s.dropReq r.rid).walk r.port.die r.asid r.va = .error c) :
    exec (.translationWalk r.rid) s =
      .next ((s.dropReq r.rid).reqFault r { cls := clsXlate, code := c, opnd := r.va }) := by
  change execTranslationWalk r.rid s = _
  unfold State.dropReq at hwalk
  simp only [execTranslationWalk, hr, hpa, hwalking, Nat.not_lt.mpr hdue, Option.isSome_none, Bool.not_true,
    Bool.false_eq_true, or_self, if_false, hwalk]
  rfl

variable (hwalk : (s.dropReq r.rid).walk r.port.die r.asid r.va = .ok e)
include hwalk

theorem translationWalk_prefetched {i : Nat} (hjob : r.job = .pref i) :
    exec (.translationWalk r.rid) s =
      .next (((s.dropReq r.rid).setTlb r.port r.job e).modFlight i fun f => { f with aux := [1] }) := by
  change execTranslationWalk r.rid s = _
  unfold State.dropReq at hwalk
  simp only [execTranslationWalk, hr, hpa, hwalking, Nat.not_lt.mpr hdue, Option.isSome_none, Bool.not_true,
    Bool.false_eq_true, or_self, if_false, hwalk, hjob]
  rfl

section Place

variable (hjob : ∀ i, r.job ≠ .pref i)
include hjob

theorem translationWalk_forbidden {f : FaultInfo}
    (hplace : ((s.dropReq r.rid).setTlb r.port r.job e).place r e = .error f) :
    exec (.translationWalk r.rid) s = .next (((s.dropReq r.rid).setTlb r.port r.job e).reqFault r f) := by
  change execTranslationWalk r.rid s = _
  unfold State.dropReq at hwalk hplace
  simp only [execTranslationWalk, hr, hpa, hwalking, Nat.not_lt.mpr hdue, Option.isSome_none, Bool.not_true,
    Bool.false_eq_true, or_self, if_false, hwalk, hplace]
  rfl

theorem translationWalk_places {v : State}
    (hplace : ((s.dropReq r.rid).setTlb r.port r.job e).place r e = .ok v) :
    exec (.translationWalk r.rid) s = .next (v.acceptPlaced r.job) := by
  change execTranslationWalk r.rid s = _
  unfold State.dropReq at hwalk hplace
  simp only [execTranslationWalk, hr, hpa, hwalking, Nat.not_lt.mpr hdue, Option.isSome_none, Bool.not_true,
    Bool.false_eq_true, or_self, if_false, hwalk, hplace]
  cases r.job <;> rfl

end Place

end Walk

/-! ## Updates on their way and in their owner's queue (R234, R236) -/

/-- An update is taken from those on their way. -/
def State.dropUpd (s : State) (uid : Nat) : State := { s with upds := s.upds.filter fun v => v.uid != uid }

section Arrive

variable (hu : s.upds.find? (fun v => v.uid = u.uid) = some u) (hdue : u.due ≤ s.fc)
include hu hdue

theorem updateTokenArrive_unowned (hown : s.ownerOf u.pa = none) :
    exec (.updateTokenArrive u.uid) s =
      .next ((s.dropUpd u.uid).updFault u { cls := clsAtomic, code := 1, opnd := s.updVa u }) := by
  change execUpdateTokenArrive u.uid s = _
  simp only [execUpdateTokenArrive, hu, if_neg (Nat.not_lt.mpr hdue), hown]
  rfl

variable (hown : s.ownerOf u.pa = some (pg, me)) (hm : s.me? pg me = some m)
include hown hm

theorem updateTokenArrive_enters (hroom : m.ownq.length < 16) :
    exec (.updateTokenArrive u.uid) s =
      .next (State.modMe { s.dropUpd u.uid with ids := s.ids + 1 } pg me fun m =>
        { m with ownq := m.ownq ++ [{ u with arr := s.ids }] }) := by
  change execUpdateTokenArrive u.uid s = _
  simp only [execUpdateTokenArrive, hu, if_neg (Nat.not_lt.mpr hdue), hown, hm, Option.map_some, Option.getD_some,
    if_neg (Nat.not_le.mpr hroom)]
  rfl

theorem updateTokenArrive_waits (hfull : 16 ≤ m.ownq.length) : exec (.updateTokenArrive u.uid) s = .next s := by
  change execUpdateTokenArrive u.uid s = _
  simp only [execUpdateTokenArrive, hu, if_neg (Nat.not_lt.mpr hdue), hown, hm, Option.map_some, Option.getD_some,
    if_pos hfull]

end Arrive

/-- An owner none of whose accesses has been served begins the next one. -/
theorem ownerUpdateApply_begins (hm : s.me? pg me = some m) (hasked : ∀ v, m.ownRun.head? = some v → s.updAsked v = true) :
    exec (.ownerUpdateApply pg me) s = .next (s.ownerBegin pg me) := by
  change execOwnerUpdateApply pg me s = _
  simp only [execOwnerUpdateApply, hm, Option.bind_some]
  cases hv : m.ownRun.head? with
  | none => rfl
  | some v => exact if_pos (hasked v hv)

/-- An update whose access has been served takes effect. -/
theorem ownerUpdateApply_applies (hu : (s.me? pg me).bind (fun m => m.ownRun.head?) = some u)
    (hserved : s.updAsked u = false) : exec (.ownerUpdateApply pg me) s = .next (s.applyUpd pg me u) := by
  change execOwnerUpdateApply pg me s = _
  simp only [execOwnerUpdateApply, hu, hserved, Bool.false_eq_true, if_false]

/-! ### The access of the next update -/

/-- The access an owner asks for to perform an update (R218, R234). -/
def State.ownerReq (s : State) (pg me : Nat) (u : Upd) : Req :=
  { rid := s.ids, job := .upd pg me u.uid, port := .me pg me, asid := 0, va := u.pa, pa := some u.pa, leaf := 0, len := u.size
    data := none, due := s.fc + vaultLatency (Port.me pg me).who.access u.pa - 1, tt := none, node := 2 ^ 22 + pg * 4 + me
    ival := 0, own := false, walking := false }

section Begin

variable (hm : s.me? pg me = some m)
include hm

theorem ownerBegin_idle (hq : m.ownq.find? (fun v => !s.appWaits v) = none) : s.ownerBegin pg me = s := by
  simp only [State.ownerBegin, hm, Option.bind_some, hq]

variable (hq : m.ownq.find? (fun v => !s.appWaits v) = some u)
include hq

theorem ownerBegin_waits (hroom : s.portRoom (.me pg me) (.upd pg me u.uid) 1 = false) : s.ownerBegin pg me = s := by
  simp only [State.ownerBegin, hm, Option.bind_some, hq, hroom, Bool.not_false, if_true]

theorem ownerBegin_asks (hroom : s.portRoom (.me pg me) (.upd pg me u.uid) 1 = true) :
    s.ownerBegin pg me = State.modMe { s with ids := s.ids + 1, reqs := s.reqs ++ [s.ownerReq pg me u] } pg me fun m =>
      { m with ownq := m.ownq.filter (fun v => v.uid != u.uid), ownRun := m.ownRun ++ [u] } := by
  simp only [State.ownerBegin, hm, Option.bind_some, hq, hroom, Bool.not_true, Bool.false_eq_true, if_false]
  rfl

end Begin

/-! ### An update performed -/

/-- An owner has taken the update it performs in this fc (R234). -/
def State.ownerTurn (s : State) (pg me uid : Nat) : State :=
  s.modMe pg me fun m => { m with ownRun := m.ownRun.filter fun v => v.uid != uid, ownFc := s.fc + 1 }

theorem applyUpd_load (hop : u.op = 0) (hr : s.reqs.find? (fun q => q.rid = u.uid) = some r) :
    s.applyUpd pg me u = (s.ownerTurn pg me u.uid).serve r := by
  simp only [State.applyUpd, hop, if_true, modMe_reqs, hr]
  rfl

theorem applyUpd_tillAppend {f : Flight} (hop : u.op = 0x62) (hf : s.flight? u.fid = some f) :
    s.applyUpd pg me u = (s.ownerTurn pg me u.uid).tillAppend pg me u f := by
  have hf' : (s.ownerTurn pg me u.uid).flight? u.fid = some f := hf
  unfold State.ownerTurn at hf' ⊢
  simp only [State.applyUpd, hop, Nat.reduceEqDiff, if_false, if_true, hf']

section Atomic

variable (hload : u.op ≠ 0) (happ : u.op ≠ 0x62)
include hload happ

theorem applyUpd_poisoned (hp : s.poisoned u.pa = true) :
    s.applyUpd pg me u =
      (s.ownerTurn pg me u.uid).updFault u { cls := clsPoison, code := 1, opnd := s.updVa u } := by
  have hp' : (s.ownerTurn pg me u.uid).poisoned u.pa = true := hp
  unfold State.ownerTurn at hp' ⊢
  simp only [State.applyUpd, if_neg hload, if_neg happ, if_pos hp']
  rfl

/-- An atomic that may be logged writes its new value, counts its events at the owner and answers the old one. -/
theorem applyUpd_writes {v : State} (hp : s.poisoned u.pa = false)
    (hlog : (s.ownerTurn pg me u.uid).logUndo (.me pg me) (((s.flight? u.fid).map (·.ival)).getD 0) u.pa = some v) :
    s.applyUpd pg me u =
      ((v.store u.pa (leBytes u.size (u.apply (memNat s.mem u.pa u.size)).1)).modMe pg me fun m =>
        { m with cnts := addCnts m.cnts (u.apply (memNat s.mem u.pa u.size)).2 }).answer u (memNat s.mem u.pa u.size) := by
  have hp' : (s.ownerTurn pg me u.uid).poisoned u.pa = false := hp
  have hlogged : (s.ownerTurn pg me u.uid).logged (.me pg me) ((((s.ownerTurn pg me u.uid).flight? u.fid).map (·.ival)).getD 0)
      u.pa (leBytes u.size (u.apply (memNat s.mem u.pa u.size)).1) =
      some (v.store u.pa (leBytes u.size (u.apply (memNat s.mem u.pa u.size)).1)) := congrArg (Option.map _) hlog
  unfold State.ownerTurn at hp' hlogged
  simp only [State.applyUpd, if_neg hload, if_neg happ, hp', Bool.false_eq_true, if_false, modMe_mem, hlogged]

end Atomic

/-! ## Errors of memories and latches (R238, R239) -/

theorem mem_addSorted {x y : Nat} {l : List Nat} : y ∈ addSorted x l ↔ y = x ∨ y ∈ l := by
  induction l with
  | nil => simp [addSorted]
  | cons z l ih =>
    unfold addSorted
    split
    · rw [List.mem_cons, ih, List.mem_cons, or_left_comm]
    · split
      next h => simp [h]
      next => rw [List.mem_cons]

/-- A block is poisoned after another has become so exactly if it is that one or was poisoned before. -/
theorem poisoned_poisonBlock (s : State) (k a : Nat) :
    (s.poisonBlock k).poisoned a = (decide (a / 64 = k / 64) || s.poisoned a) := by
  simp [State.poisoned, State.poisonBlock, mem_addSorted]

theorem kind_poisonMarker (va : Nat) : (poisonMarker va).kind = 4 := by
  simp only [Tok.kind, bits, poisonMarker, ctlTok, BitVec.toNat_ofNat]
  omega

/-- The token of a latch with a parity error becomes a poison marker (log 44). -/
theorem latchParityError_marks {p : Page} {q : Route} {t : Tok} (hp : s.page? pg = some p) (hq : p.routes[rt]? = some q)
    (hnet : q.net ≠ 3) (ht : q.latches[pos]? = some (some t)) :
    ∃ v, exec (.latchParityError pg rt pos) s = .next v ∧
      ((v.page? pg).bind fun d => d.routes[rt]?.bind fun x => x.latches[pos]?) =
        some (some (poisonMarker 0)) := by
  refine ⟨_, rfl, ?_⟩
  rw [page?_modPage_same, hp]
  simp only [Option.map_some, Option.bind_some, List.getElem?_modify_eq, hq, Option.map_eq_map, if_neg hnet, ht]
  rfl

theorem correctedError_counts {cls n : Nat} {d : Die} (hd : s.dies[die]? = some d) (hn : d.corr[cls]? = some n) :
    (((s.modDie die fun d => { d with corr := d.corr.modify cls (· + 1) }).dies[die]?).bind fun e => e.corr[cls]?) =
      some (n + 1) := by
  simp only [State.modDie, List.getElem?_modify_eq, hd, Option.map_eq_map, Option.map_some, Option.bind_some, hn]

/-! ## The obligation -/

/-- Settles O55. Each clause is the equation or the effect of its event; that a latch's token becomes a poison marker is the
model's choice (log 44). -/
theorem memoryEvents : Obligations.MemoryEvents := by
  unfold Obligations.MemoryEvents
  intro s die bank rid uid pg me rt pos pa cls k r u p gone left old turned block
  refine ⟨bankAccess_serves, bankAccess_busy, fun hr => ?_, fun hu hdue => ?_, fun m hm hasked => ?_,
    fun hu hserved => ?_, ⟨_, rfl, ?_, fun a ha => ?_⟩, fun q t hp hq hnet ht => ?_,
    ⟨_, rfl, fun d n => correctedError_counts⟩⟩
  · obtain rfl : r.rid = rid := by simpa using List.find?_some hr
    exact ⟨hbmAccessComplete_serves hr, fun hpa hw hdue => ⟨fun c => translationWalk_xlate hr hpa hw hdue,
      fun e i hwalk => translationWalk_prefetched hr hpa hw hdue hwalk,
      fun e f hjob hwalk => translationWalk_forbidden hr hpa hw hdue hwalk hjob,
      fun e v hjob hwalk => translationWalk_places hr hpa hw hdue hwalk hjob⟩⟩
  · obtain rfl : u.uid = uid := by simpa using List.find?_some hu
    exact ⟨updateTokenArrive_unowned hu hdue, fun m hown hm =>
      ⟨updateTokenArrive_enters hu hdue hown hm, updateTokenArrive_waits hu hdue hown hm⟩⟩
  · have hbegin := ownerUpdateApply_begins hm hasked
    exact ⟨fun hq => hbegin.trans (congrArg _ (ownerBegin_idle hm hq)),
      fun hq hroom => hbegin.trans (congrArg _ (ownerBegin_waits hm hq hroom)),
      fun hq hroom => ⟨s.ownerReq pg me u, rfl, rfl, rfl, hbegin.trans (congrArg _ (ownerBegin_asks hm hq hroom))⟩⟩
  · have happly := ownerUpdateApply_applies hu hserved
    exact ⟨fun hop hr => happly.trans (congrArg _ (applyUpd_load hop hr)),
      fun f hop hf => happly.trans (congrArg _ (applyUpd_tillAppend hop hf)),
      fun hload happ hp => happly.trans (congrArg _ (applyUpd_poisoned hload happ hp)),
      fun v hload happ hp hlog => happly.trans (congrArg _ (applyUpd_writes hload happ hp hlog))⟩
  · exact (poisoned_poisonBlock s pa pa).trans (by simp)
  · exact (poisoned_poisonBlock s pa a).trans (by simp [ha, State.poisoned, block])
  · obtain ⟨v, hv, hlatch⟩ := latchParityError_marks hp hq hnet ht
    exact ⟨v, hv, _, hlatch, rfl, kind_poisonMarker 0⟩

end Sys2Proof.Machine
end

section
/-!
SUPPORT. Messages and groups (R231, R252, R256, R379): one equation or effect per case of a message's arrival at its till, of a
peer's message and permit request, and of the entry of a group, which takes the operations in the order in which they arrived.
-/

set_option Elab.async false

namespace Sys2Proof.Machine

variable {s : State} {m : Msg} {p : Ptn} {e : Tlb} {g : Grp} {mid port ptn till r die ix : Nat}

/-! ## Messages to tills (R231, R379) -/

/-- A message is taken from those on their way. -/
def State.dropMsg (s : State) (mid : Nat) : State := { s with msgs := s.msgs.filter fun x => x.mid != mid }

section Append

variable (hm : s.msgs.find? (fun x => x.mid = mid) = some m) (hdue : m.due ≤ s.fc)
include hm hdue

theorem tillAppend_xlate {c : Nat} (hwalk : (s.dropMsg mid).walk m.die m.asid m.till = .error c) :
    exec (.tillAppend mid) s = .next ((s.dropMsg mid).tillFault m { cls := clsXlate, code := c, opnd := m.till }) := by
  change execTillAppend mid s = _
  unfold State.dropMsg at hwalk ⊢
  simp only [execTillAppend, hm, if_neg (Nat.not_lt.mpr hdue), hwalk]

theorem tillAppend_appends (hwalk : (s.dropMsg mid).walk m.die m.asid m.till = .ok e) :
    exec (.tillAppend mid) s = .next ((s.dropMsg mid).append m (e.key m.till)) := by
  change execTillAppend mid s = _
  unfold State.dropMsg at hwalk ⊢
  simp only [execTillAppend, hm, if_neg (Nat.not_lt.mpr hdue), hwalk]

end Append

/-- A peer's message waits behind those that have arrived, and its append follows in the same fc. -/
theorem spanMessageArrive_joins (hp : s.ptn? ptn = some p) (res : Nat) (bytes : List Byte) :
    ∃ v n, exec (.spanMessageArrive port ptn till res bytes) s = .next v ∧ v.agenda.head? = some (.tillAppend s.ids) ∧
      v.msgs = s.msgs ++ [{ mid := s.ids, die := p.peerDie, ptn := ptn, asid := p.res.asids.headD 0, till := till
                            bytes := bytes, res := some res, src := n % 2 ^ 16, by_ := 2 ^ 8 + port, due := s.fc }] := by
  change ∃ v n, execSpanMessageArrive port ptn till res bytes s = .next v ∧ _
  simp only [execSpanMessageArrive, hp]
  exact ⟨_, Config.freeNat s.free, rfl, rfl, rfl⟩

/-! ## Permits for a peer (R252) -/

section Permit

variable (hp : s.ptn? ptn = some p)
include hp

theorem peerPermitRequest_untranslated {c : Nat} (hwalk : s.walk p.peerDie (p.res.asids.headD 0) till = .error c)
    (get : Bool) :
    exec (.peerPermitRequest port ptn till r get) s = .next (s.peerAnswer port ptn till (2 ^ 64 - 1)) := by
  change execPeerPermitRequest port ptn till r get s = _
  simp only [execPeerPermitRequest, hp, hwalk]

variable (hwalk : s.walk p.peerDie (p.res.asids.headD 0) till = .ok e)
include hwalk

/-- A count of no slots, or of more than the till has, is refused (log 23). -/
theorem peerPermitRequest_bad_count (hr : r = 0 ∨ (s.tillAt (e.key till)).n < r) (get : Bool) :
    exec (.peerPermitRequest port ptn till r get) s = .next (s.peerAnswer port ptn till (2 ^ 64 - 1)) := by
  change execPeerPermitRequest port ptn till r get s = _
  simp only [execPeerPermitRequest, hp, hwalk, if_pos hr]

variable (hr : ¬(r = 0 ∨ (s.tillAt (e.key till)).n < r))
include hr

/-- A request takes its place behind those that wait, which are then served as they fit. -/
theorem peerPermitRequest_get :
    exec (.peerPermitRequest port ptn till r true) s =
      .next (State.servePeers { s with ids := s.ids + 1, peerq := s.peerq ++ [(s.ids, port, ptn, till, r)] }) := by
  change execPeerPermitRequest port ptn till r true s = _
  simp only [execPeerPermitRequest, hp, hwalk, if_neg hr, if_true]
  rfl

/-- A return of more than is reserved changes nothing (log 23). -/
theorem peerPermitRequest_return_too_many (hres : (s.tillAt (e.key till)).grant - (s.tillAt (e.key till)).tail < r) :
    exec (.peerPermitRequest port ptn till r false) s = .next (s.peerAnswer port ptn till (2 ^ 64 - 1)) := by
  change execPeerPermitRequest port ptn till r false s = _
  simp only [execPeerPermitRequest, hp, hwalk, if_neg hr, Bool.false_eq_true, if_false, if_pos hres]

/-- A return lowers GRANT at once, and those that wait are served as they fit. -/
theorem peerPermitRequest_return (hres : r ≤ (s.tillAt (e.key till)).grant - (s.tillAt (e.key till)).tail) :
    exec (.peerPermitRequest port ptn till r false) s = .next (State.servePeers (State.peerAnswer
      { s.setTill (e.key till) 0x20 ((s.tillAt (e.key till)).grant - r) with
        permits := alSet (e.key till) (unreserve r ((alGet (e.key till) s.permits).getD []).reverse).reverse s.permits }
      port ptn till ((s.tillAt (e.key till)).grant - r))) := by
  change execPeerPermitRequest port ptn till r false s = _
  simp only [execPeerPermitRequest, hp, hwalk, if_neg hr, Bool.false_eq_true, if_false, if_neg (Nat.not_lt.mpr hres)]

end Permit

/-! ## The earliest of a list -/

/-- A fold that keeps what it has unless the next one comes before it yields the first of the least. -/
theorem foldl_eq_argmin {α : Type} {key : α → Nat} {f : Option α → α → Option α} (hnone : ∀ a, f none a = some a)
    (hsome : ∀ b a, f (some b) a = if key a < key b then some a else some b) (l : List α) :
    l.foldl f none = l.argmin key := by
  refine List.foldl_ext f _ none fun b a _ => ?_
  cases b with
  | none => exact hnone a
  | some b => exact hsome b a

/-- The first of the least is the one found before which none is least. -/
theorem argmin_eq_of_find? {α : Type} [DecidableEq α] {key : α → Nat} {l : List α} {x : α}
    (h : l.find? (fun y => l.all fun z => decide (key y ≤ key z)) = some x) : l.argmin key = some x := by
  have hleast : ∀ z ∈ l, key x ≤ key z := by simpa using List.find?_some h
  obtain ⟨-, before, after, hl, hbefore⟩ := List.find?_eq_some_iff_append.mp h
  refine List.argmin_eq_some_iff.mpr ⟨List.mem_of_find?_eq_some h, hleast, fun a ha hax => ?_⟩
  have hnot : ∀ y, (∀ z ∈ l, key y ≤ key z) → y ∉ before := fun y hy hmem =>
    absurd (hbefore y hmem) (by simpa using hy)
  have hx : l.idxOf x = before.length := by
    rw [hl, List.idxOf_append_of_notMem (hnot x hleast), List.idxOf_cons_self, Nat.add_zero]
  have ha' : l.idxOf a = before.length + (x :: after).idxOf a := by
    rw [hl, List.idxOf_append_of_notMem (hnot a fun z hz => hax.trans (hleast z hz))]
  rw [hx, ha']
  exact Nat.le_add_right ..

/-! ## Groups (R256) -/

/-- An operation has reached its entry and is still to be applied there. -/
def State.grpNew (s : State) (x : Nat × Nat) : Bool :=
  decide (x.2 ≤ s.fc) && ((s.flight? x.1).map fun f => f.stage == 0 && s.mayIssue f).getD false

/-- The operations that wait at an entry are tried again. -/
def State.grpAnswers (s : State) (die ix : Nat) : State :=
  ((alGet ix (s.die die).groups).elim [] fun g => g.q.filter fun x =>
    ((s.flight? x.1).map fun f => f.stage == 1).getD false).foldl (fun s x => s.grpTry die ix x.1) s

theorem grpAnswers_eq (s : State) (die ix : Nat) :
    s.grpAnswers die ix = (((alGet ix (s.die die).groups).map fun g => g.q.filter fun x =>
      ((s.flight? x.1).map fun f => f.stage == 1).getD false).getD []).foldl (fun s x => s.grpTry die ix x.1) s := by
  unfold State.grpAnswers
  cases alGet ix (s.die die).groups <;> rfl

/-- An entry tries the operation that arrived first, if there is one, and then those that wait. -/
theorem grpEntryApply_eq (hg : alGet ix (s.die die).groups = some g) :
    exec (.grpEntryApply die ix) s = .next
      ((((g.q.filter s.grpNew).argmin Prod.snd).elim s fun x => s.grpTry die ix x.1).grpAnswers die ix) := by
  change execGrpEntryApply die ix s = _
  simp only [execGrpEntryApply, hg]
  rw [foldl_eq_argmin (key := Prod.snd)]
  · rw [grpAnswers_eq]
    unfold State.grpNew
    cases List.argmin Prod.snd (List.filter (α := Nat × Nat) _ g.q) <;> rfl
  · exact fun _ => rfl
  · exact fun _ _ => rfl

theorem grpEntryApply_first {x : Nat × Nat} (hg : alGet ix (s.die die).groups = some g)
    (hx : g.q.find? (fun y => s.grpNew y && g.q.all fun z => !s.grpNew z || decide (y.2 ≤ z.2)) = some x) :
    exec (.grpEntryApply die ix) s = .next ((s.grpTry die ix x.1).grpAnswers die ix) := by
  have hfirst : (g.q.filter s.grpNew).argmin Prod.snd = some x := by
    refine argmin_eq_of_find? ?_
    rw [List.find?_filter, ← hx]
    simp only [List.all_filter, Bool.decide_and, Bool.decide_eq_true]
  rw [grpEntryApply_eq hg, hfirst, Option.elim_some]

theorem grpEntryApply_none (hg : alGet ix (s.die die).groups = some g) (hq : g.q.find? s.grpNew = none) :
    exec (.grpEntryApply die ix) s = .next (s.grpAnswers die ix) := by
  have hnew : g.q.filter s.grpNew = [] := List.filter_eq_nil_iff.mpr (List.find?_eq_none.mp hq)
  rw [grpEntryApply_eq hg, hnew, List.argmin_nil, Option.elim_none]

/-! ## The obligation -/

/-- Settles O56. Each clause is the equation or the effect of its event; that a peer's request for no slots or for more than the
till has, and a return of more than is reserved, are answered with all ones is the model's choice (log 23). -/
theorem messageAndGroupEvents : Obligations.MessageAndGroupEvents := by
  unfold Obligations.MessageAndGroupEvents
  intro s mid port ptn till res r die ix bytes m p e g gone k t refused ask grp isNew answers
  refine ⟨fun hm hdue => ⟨fun c => tillAppend_xlate hm hdue, tillAppend_appends hm hdue⟩,
    fun hp => ⟨spanMessageArrive_joins hp res bytes, fun c get hwalk => peerPermitRequest_untranslated hp hwalk get,
      fun hwalk => ⟨fun get hr => peerPermitRequest_bad_count hp hwalk hr get, fun hpos hfits => ?_⟩⟩,
    fun hg => ⟨fun x => grpEntryApply_first hg, grpEntryApply_none hg⟩⟩
  have hr : ¬(r = 0 ∨ t.n < r) := by omega
  exact ⟨peerPermitRequest_get hp hwalk hr, peerPermitRequest_return_too_many hp hwalk hr,
    peerPermitRequest_return hp hwalk hr⟩

end Sys2Proof.Machine
end

section
/-!
SUPPORT. Loads, stores, gathers and scatters (R241-R245, R247): a word whose address is checked as it fires is handed over or
faults, the accesses planned for each opcode, and what each writes back.
-/

set_option Elab.async false

namespace Sys2Proof.Machine

variable {s : State} {i : Instr} {w : Who} {x : Word} {o : FormR} {f : Flight} {opc : BitVec 7} {fn : BitVec 3}

theorem tyOf_word (hw : f.word = packR opc fn o) : tyOf f.word = o.ty.toNat := by
  rw [hw, tyOf_packR]

theorem field_d_word (hw : f.word = packR opc fn o) : field f.word 19 5 = o.d := by
  rw [hw, field_packR_d]

/-- A variant other than `fn'` has another FN. -/
theorem fnOf_word_ne {fn' : BitVec 3} (hw : f.word = packR opc fn o) (h : fn ≠ fn') : ¬ fnOf f.word = fn'.toNat :=
  fun e => h (BitVec.eq_of_toNat_eq ((fnOf_word hw).symm.trans e))

/-- A word that may go on takes the step of its opcode, and what that comes to is known of a word packed from its fields. -/
theorem performed_word {u t : State} (h : s.Performing i f) (hi : encode i = some (packR opc fn o))
    (hstep : f.word = packR opc fn o → s.performStep f = u) (hu : f.word = packR opc fn o → u = t) :
    exec (.instructionPerformed f.fid) s = .next t := by
  have ⟨_, _, he⟩ := h
  have hw := word_eq he hi
  exact performed_ok h ((hstep hw).trans (hu hw))

/-! ## A word whose address is checked as it fires (R243) -/

section Aligned

variable {code va n : Nat}

theorem alignFault_misaligned (h : va % n ≠ 0) : alignFault code va n = some { cls := clsAlign, code := code, opnd := va } :=
  if_pos h

theorem alignFault_aligned (h : va % n = 0) : alignFault code va n = none := if_neg (not_not_intro h)

/-- The answer of a word's own checks: the fault they found, or the flight. -/
def orFlight (fault : Option FaultInfo) (j : Flight) : Except FaultInfo Flight :=
  match fault with
  | some e => .error e
  | none => .ok j

/-- Word `x` fires with flight `j`: it raises ALIGN where its address `va` is no multiple of `n`, then the fault `tel` of its
translation, and is handed over where there is none. -/
def State.FiresAligned (s : State) (i : Instr) (w : Who) (x : Word) (g : Guard) (code va n : Nat) (tel : Option FaultInfo)
    (j : Flight) : Prop :=
  (va % n ≠ 0 → exec i s = .next (s.taken.raise w x { cls := clsAlign, code := code, opnd := va })) ∧
  (va % n = 0 →
    (∀ e, tel = some e → exec i s = .next (s.taken.raise w x e)) ∧
    (tel = none → exec i s = .next (memPost j (s.handed w g j))))

theorem fireJob_aligned {k : Who → Word → State → Flight → Except FaultInfo Flight} {tel : Option FaultInfo} {j : Flight}
    (he : exec i s = fireJob o.g k memPost s)
    (hk : k w x s.taken (s.jobOf w x) = orFlight ((alignFault code va n).orElse fun _ => tel) j) (h : Fires s i o.g w x) :
    s.FiresAligned i w x o.g code va n tel j := by
  unfold State.FiresAligned
  rw [he]
  refine ⟨fun hbad => fireJob_error h ?_, fun hgood => ⟨fun e htel => fireJob_error h ?_, fun htel => fireJob_ok h ?_⟩⟩
  · rw [hk, alignFault_misaligned hbad]; rfl
  · rw [hk, alignFault_aligned hgood, htel]; rfl
  · rw [hk, alignFault_aligned hgood, htel]; rfl

end Aligned

/-! ## Loads, stores, gathers and scatters fire (R243, R245) -/

/-- The flight of a memory word, its accesses planned. -/
def State.plannedOf (s : State) (w : Who) (x : Word) : Flight := { s.jobOf w x with plan := (s.jobOf w x).makePlan }

/-- The flight that also holds D, where D is its destination. -/
def Flight.holding (f : Flight) (o : FormR) (dest : Bool) : Flight :=
  { f with holds := f.holds ++ if dest then destHolds o.d.toNat else [] }

theorem memR_fires {dest : Bool} (va : Flight → Nat) (he : exec i s = memR o dest va s)
    (hi : encode i = some (packR opc fn o)) (h : Fires s i o.g w x) :
    let f := s.plannedOf w x
    s.FiresAligned i w x o.g 4 (va f) (tyWidth o.ty.toNat / 8) (s.taken.telParts w f) (f.holding o dest) := by
  have ⟨_, hx, _⟩ := h
  have hty : tyOf x = o.ty.toNat := by rw [word_eq hx hi, tyOf_packR]
  rw [← hty]
  exact fireJob_aligned he rfl h

/-! ## The accesses planned (R241, R244, R247) -/

theorem makePlan_ld (hw : f.word = packR 0x58 fn o) : f.makePlan = [⟨f.ea, tyWidth o.ty.toNat / 8, none⟩] := by
  simp only [Flight.makePlan, opcOf_word hw, tyOf_word hw]
  rfl

theorem makePlan_st (hw : f.word = packR 0x59 fn o) :
    let n := tyWidth o.ty.toNat / 8
    f.makePlan = [⟨f.ea, n, some (leBytes n f.sd.toNat, List.replicate n 0xFF)⟩] := by
  simp only [Flight.makePlan, opcOf_word hw, tyOf_word hw]
  rfl

theorem makePlan_vld (hw : f.word = packR 0x5A fn o) : f.makePlan = loadParts f.ea 64 := by
  simp only [Flight.makePlan, opcOf_word hw]
  rfl

theorem makePlan_vst (hw : f.word = packR 0x5B fn o) (hfn : fn ≠ 1) :
    f.makePlan = storeParts f.ea (vecBytes f.vd) (List.replicate 64 0xFF) := by
  have hne : ¬ fnOf f.word = 1 := fnOf_word_ne hw hfn
  simp only [Flight.makePlan, opcOf_word hw, if_neg hne]
  rfl

/-- The byte mask of a `VST.MSK`: the bytes of the lanes whose bit of `b` is set. -/
def maskByte (ty : Nat) (b : Word) (j : Nat) : Byte :=
  let lane := j / (tyWidth ty / 8)
  if lane < min (512 / tyWidth ty) 64 ∧ b.getLsbD lane then 0xFF else 0

theorem makePlan_vstMsk (hw : f.word = packR 0x5B 1 o) :
    f.makePlan = (storeParts f.sa.toNat (vecBytes f.vd) ((List.range 64).map (maskByte o.ty.toNat f.sb))).filter
      fun p => p.data.any fun d => d.2.any (· != 0) := by
  have hfn : fnOf f.word = 1 := fnOf_word hw
  simp only [Flight.makePlan, opcOf_word hw, tyOf_word hw, if_pos hfn]
  rfl

/-- The address of lane j at base + index * w/8. -/
def Flight.laneAt (f : Flight) (ty j : Nat) : Nat := (f.sa.toNat + lane (tyWidth ty) f.vb j * (tyWidth ty / 8)) % 2 ^ 64

theorem laneVa_word (hw : f.word = packR opc fn o) (j : Nat) : f.laneVa j = f.laneAt o.ty.toNat j := by
  simp only [Flight.laneVa, tyOf_word hw]
  rfl

theorem makePlan_gath (hw : f.word = packR 0x5E fn o) :
    f.makePlan = tab (512 / tyWidth o.ty.toNat) fun j => ⟨f.laneAt o.ty.toNat j, tyWidth o.ty.toNat / 8, none⟩ := by
  simp only [Flight.makePlan, opcOf_word hw, tyOf_word hw, laneVa_word hw]
  rfl

theorem makePlan_scatSt (hw : f.word = packR 0x5F 0 o) :
    let n := tyWidth o.ty.toNat / 8
    f.makePlan = tab (512 / tyWidth o.ty.toNat) fun j =>
      ⟨f.laneAt o.ty.toNat j, n, some (leBytes n (lane (tyWidth o.ty.toNat) f.vd j), List.replicate n 0xFF)⟩ := by
  have hfn : fnOf f.word = 0 := fnOf_word hw
  simp only [Flight.makePlan, opcOf_word hw, tyOf_word hw, laneVa_word hw, if_pos hfn]
  rfl

theorem makePlan_scatAdd (hw : f.word = packR 0x5F 1 o) :
    f.makePlan = tab (512 / tyWidth o.ty.toNat) fun j => ⟨f.laneAt o.ty.toNat j, tyWidth o.ty.toNat / 8, none⟩ := by
  have hfn : ¬ fnOf f.word = 0 := fnOf_word_ne (fn' := 0) hw (by decide)
  simp only [Flight.makePlan, opcOf_word hw, tyOf_word hw, laneVa_word hw, if_neg hfn]
  rfl

/-- Settles O27. Every one of these words is a `memR`, and each clause on the accesses is the plan of its opcode. -/
theorem memoryWordsFireAndAccess : Obligations.MemoryWordsFireAndAccess := by
  unfold Obligations.MemoryWordsFireAndAccess
  refine ⟨?fires, ?accesses⟩
  case fires =>
    intro o s w x f held
    simp only [List.forall_mem_cons, List.not_mem_nil, false_imp_iff, implies_true, and_true]
    exact ⟨fun h => memR_fires Flight.ea rfl rfl h, fun h => memR_fires Flight.ea rfl rfl h,
      fun h => memR_fires Flight.ea rfl rfl h, fun h => memR_fires Flight.ea rfl rfl h,
      fun h => memR_fires Flight.ea rfl rfl h, fun h => memR_fires Flight.ea rfl rfl h,
      fun h => memR_fires (fun f => f.sa.toNat) rfl rfl h, fun h => memR_fires Flight.ea rfl rfl h,
      fun h => memR_fires (fun f => f.sa.toNat) rfl rfl h, fun h => memR_fires (fun f => f.sa.toNat) rfl rfl h⟩
  case accesses =>
    intro o f n at_ keeps
    simp only [List.forall_mem_cons, List.not_mem_nil, false_imp_iff, implies_true, and_true]
    refine ⟨⟨fun he => makePlan_ld (word_eq he rfl), fun he => makePlan_ld (word_eq he rfl)⟩,
      ⟨fun he => makePlan_st (word_eq he rfl), fun he => makePlan_st (word_eq he rfl)⟩,
      fun he => makePlan_vld (word_eq he rfl),
      ⟨fun he => makePlan_vst (fn := 0) (word_eq he rfl) (by decide),
        fun he => makePlan_vst (fn := 2) (word_eq he rfl) (by decide)⟩,
      fun he => makePlan_vstMsk (word_eq he rfl), fun he => ?gath, fun he => ?scatSt, fun he => ?scatAdd⟩
    case gath =>
      rw [makePlan_gath (word_eq he rfl)]
      exact ⟨map_tab .., by simp [tab, n]⟩
    case scatSt =>
      rw [makePlan_scatSt (word_eq he rfl)]
      exact ⟨map_tab .., map_tab ..⟩
    case scatAdd =>
      rw [makePlan_scatAdd (word_eq he rfl)]
      exact map_tab ..

/-! ## Performed (R242, R244, R247) -/

/-- A load or store all of whose accesses have come back is performed. -/
theorem memStep_done (hissued : f.plan.length ≤ f.stage) (hleft : f.left = 0) :
    s.memStep f = (s.accept f).perform f (memResult f).1 (memResult f).2 false [] := by
  simp only [State.memStep, if_neg (Nat.not_lt.mpr hissued), if_pos hleft]

theorem memResult_ld (hw : f.word = packR 0x58 fn o) :
    memResult f = (writeS o.d.toNat f.tag (extTy o.ty.toNat (leNat f.bytes)), true) := by
  simp only [memResult, opcOf_word hw, tyOf_word hw, field_d_word hw]
  rfl

theorem memResult_vld (hw : f.word = packR 0x5A fn o) : memResult f = (writeV o.d.toNat f.tag (bytesVec f.bytes), true) := by
  simp only [memResult, opcOf_word hw, field_d_word hw]
  rfl

theorem memResult_gath (hw : f.word = packR 0x5E fn o) : memResult f = (writeV o.d.toNat f.tag (bytesVec f.bytes), true) := by
  simp only [memResult, opcOf_word hw, field_d_word hw]
  rfl

theorem memResult_st (hw : f.word = packR 0x59 fn o) : memResult f = (Writes.none, true) := by
  simp only [memResult, opcOf_word hw]
  rfl

theorem memResult_scatSt (hw : f.word = packR 0x5F fn o) : memResult f = (Writes.none, true) := by
  simp only [memResult, opcOf_word hw]
  rfl

theorem memResult_vst (hw : f.word = packR 0x5B fn o) (hfn : fn ≠ 1) : memResult f = (Writes.none, true) := by
  have hne : ¬ fnOf f.word = 1 := fnOf_word_ne hw hfn
  simp only [memResult, opcOf_word hw, if_neg hne]
  rfl

theorem memResult_vstMsk (hw : f.word = packR 0x5B 1 o) :
    memResult f = (Writes.none, f.sb.toNat % 2 ^ min (512 / tyWidth o.ty.toNat) 64 != 0) := by
  have hfn : fnOf f.word = 1 := fnOf_word hw
  simp only [memResult, opcOf_word hw, tyOf_word hw, if_pos hfn]
  rfl

theorem step_scatSt (hw : f.word = packR 0x5F 0 o) : s.performStep f = s.memStep f := by
  have hfn : ¬ fnOf f.word = 1 := fnOf_word_ne (fn' := 1) hw (by decide)
  exact (step_scat (opcOf_word hw)).trans (if_neg hfn)

/-- Settles O28. Each word is performed (`memStep_done`) with the results of its opcode (`memResult`). -/
theorem memoryWordsPerform : Obligations.MemoryWordsPerform := by
  unfold Obligations.MemoryWordsPerform
  intro o s f done hissued hleft
  have performs {i : Instr} {opc : BitVec 7} {fn : BitVec 3} {wr : Writes} {oc : Bool} (h : s.Performing i f)
      (hi : encode i = some (packR opc fn o)) (hstep : f.word = packR opc fn o → s.performStep f = s.memStep f)
      (hr : f.word = packR opc fn o → memResult f = (wr, oc)) :
      exec (.instructionPerformed f.fid) s = .next (done wr oc) :=
    performed_word h hi hstep fun hw => by rw [memStep_done hissued hleft, hr hw]
  simp only [List.forall_mem_cons, List.not_mem_nil, false_imp_iff, implies_true, and_true]
  refine ⟨⟨fun h => ?ldPl, fun h => ?ldAcq⟩, ⟨fun h => ?vld, fun h => ?gath⟩,
    ⟨fun h => ?stPl, fun h => ?stRel, fun h => ?vstPl, fun h => ?vstRel, fun h => ?scatSt⟩, fun h => ?vstMsk⟩
  case ldPl | ldAcq => exact performs h rfl (fun hw => step_mem58 (opcOf_word hw)) memResult_ld
  case vld => exact performs h rfl (fun hw => step_mem5A (opcOf_word hw)) memResult_vld
  case gath => exact performs h rfl (fun hw => step_mem5E (opcOf_word hw)) memResult_gath
  case stPl | stRel => exact performs h rfl (fun hw => step_mem59 (opcOf_word hw)) memResult_st
  case vstPl | vstRel => exact performs h rfl (fun hw => step_mem5B (opcOf_word hw)) fun hw => memResult_vst hw (by decide)
  case scatSt => exact performs h rfl step_scatSt memResult_scatSt
  case vstMsk => exact performs h rfl (fun hw => step_mem5B (opcOf_word hw)) memResult_vstMsk

end Sys2Proof.Machine
end

section
/-!
SUPPORT. Atomics (R243, R247, R255): their firing, what an update makes of the old value of its target, and what a performed
atomic writes back.
-/

set_option Elab.async false

namespace Sys2Proof.Machine

variable {s : State} {i j : Instr} {w : Who} {x : Word} {o : FormR} {f : Flight} {opc : BitVec 7} {fn : BitVec 3}

/-! ## The target (R255) -/

theorem target_word (hw : f.word = packR opc fn o) (hopc : opc ≠ 0x6B) : f.target = (f.sa.toNat, tyWidth o.ty.toNat / 8) := by
  have hne : ¬ opcOf f.word = 0x6B := fun e => hopc (BitVec.eq_of_toNat_eq ((opcOf_word hw).symm.trans e))
  rw [Flight.target, if_neg hne, tyOf_word hw]

theorem target_atas (hw : f.word = packR 0x6B fn o) : f.target = ((f.sa.toNat + f.sb.toNat / 8) % 2 ^ 64, 1) := by
  have hopc : opcOf f.word = 0x6B := opcOf_word hw
  rw [Flight.target, if_pos hopc]

/-! ## Atomics fire (R243) -/

theorem atomR_fires {dest : Bool} (he : exec i s = atomR o dest s) (h : Fires s i o.g w x) :
    let f := s.plannedOf w x
    s.FiresAligned i w x o.g 5 f.target.1 f.target.2 (s.taken.telParts w f) (f.holding o dest) :=
  fireJob_aligned he rfl h

/-- The target of every atomic but `ATAS` is a value of TY at A. -/
theorem atomR_fires_at {dest : Bool} (he : exec i s = atomR o dest s) (hi : encode i = some (packR opc fn o))
    (hopc : opc ≠ 0x6B) (h : Fires s i o.g w x) :
    let f := s.plannedOf w x
    s.FiresAligned i w x o.g 5 f.sa.toNat (tyWidth o.ty.toNat / 8) (s.taken.telParts w f) (f.holding o dest) := by
  have ⟨_, hx, _⟩ := h
  have ht := target_word (f := s.plannedOf w x) (word_eq hx hi) hopc
  have hfires := atomR_fires he h
  dsimp only at hfires
  rwa [ht] at hfires

/-- The byte that `ATAS` accesses is always aligned. -/
theorem atas_fires (h : Fires s (.atas o) o.g w x) :
    let f := s.plannedOf w x
    (∀ e, s.taken.telParts w f = some e → exec (.atas o) s = .next (s.taken.raise w x e)) ∧
    (s.taken.telParts w f = none →
      exec (.atas o) s = .next (memPost (f.holding o true) (s.handed w o.g (f.holding o true)))) := by
  have ⟨_, hx, _⟩ := h
  have ht := target_atas (f := s.plannedOf w x) (word_eq hx rfl)
  obtain ⟨-, hfires⟩ := atomR_fires (i := .atas o) rfl h
  refine hfires ?_
  rw [ht]
  exact Nat.mod_one _

theorem exec_scatAdd (o : FormR) (s : State) : exec (.scatAdd o) s = execScatAdd o s := rfl

theorem exec_tillApp (o : FormR) (s : State) : exec (.tillApp o) s = execTillApp o s := rfl

/-- `SCAT.ADD` asks for the alignment of its base alone: the lanes are translated as they are issued. -/
theorem scatAdd_fires (h : Fires s (.scatAdd o) o.g w x) :
    s.FiresAligned (.scatAdd o) w x o.g 5 (s.plannedOf w x).sa.toNat (tyWidth o.ty.toNat / 8) none (s.plannedOf w x) := by
  have ⟨_, hx, _⟩ := h
  have hty : tyOf x = o.ty.toNat := by rw [word_eq hx (opc := 0x5F) (fn := 1) rfl, tyOf_packR]
  have hchecks (fault : Option FaultInfo) (f : Flight) : orFlight fault f = orFlight (fault.orElse fun _ => none) f := by
    cases fault <;> rfl
  rw [← hty]
  exact fireJob_aligned (exec_scatAdd o s) (hchecks _ _) h

theorem tillApp_fires (h : Fires s (.tillApp o) o.g w x) :
    let f := s.plannedOf w x
    s.FiresAligned (.tillApp o) w x o.g 6 f.sa.toNat 64 (s.taken.telAddr w f.asid f.sa.toNat .store true) f :=
  fireJob_aligned (exec_tillApp o s) rfl h

/-- Settles O29. The target is that of `target_word`, but for `ATAS`, whose one byte is always aligned. -/
theorem atomicWordsFire : Obligations.AtomicWordsFire := by
  unfold Obligations.AtomicWordsFire
  intro o s w x f held n misaligned
  refine ⟨?_, atas_fires, fun h => ?_, tillApp_fires⟩
  · simp only [List.forall_mem_cons, List.not_mem_nil, false_imp_iff, implies_true, and_true]
    refine ⟨?_, ?_, ?_, ?_, ?_, ?_, ?_, ?_, ?_, ?_, ?_, ?_, ?_, ?_, ?_, ?_⟩ <;>
      exact fun h => atomR_fires_at rfl rfl (by decide) h
  · obtain ⟨hbad, hgood⟩ := scatAdd_fires h
    refine ⟨hbad, fun haligned => ?_⟩
    obtain ⟨-, hfires⟩ := hgood haligned
    exact hfires rfl

/-! ## The new value of the target (R255) -/

section Operations

variable {ty old : Nat} (b : Nat)

theorem atomOp_add : atomOp 0 ty old b = (old + b % 2 ^ tyWidth ty) % 2 ^ tyWidth ty := (Nat.add_mod_mod ..).symm

theorem atomOp_min : atomOp 1 ty old b =
    if readTy ty (b % 2 ^ tyWidth ty) < readTy ty old then b % 2 ^ tyWidth ty else old := by
  rw [readTy_mod]
  rfl

theorem atomOp_max : atomOp 2 ty old b =
    if readTy ty old < readTy ty (b % 2 ^ tyWidth ty) then b % 2 ^ tyWidth ty else old := by
  rw [readTy_mod]
  rfl

section Bitwise

variable (hold : old < 2 ^ tyWidth ty)
include hold

theorem atomOp_or : atomOp 3 ty old b = old ||| b % 2 ^ tyWidth ty :=
  (Nat.or_mod_two_pow ..).trans (by rw [Nat.mod_eq_of_lt hold])

theorem atomOp_and : atomOp 4 ty old b = old &&& b % 2 ^ tyWidth ty :=
  (Nat.and_mod_two_pow ..).trans (by rw [Nat.mod_eq_of_lt hold])

theorem atomOp_xor : atomOp 5 ty old b = old ^^^ b % 2 ^ tyWidth ty :=
  (Nat.xor_mod_two_pow ..).trans (by rw [Nat.mod_eq_of_lt hold])

end Bitwise

end Operations

section Update

variable {k due back uid old : Nat}

theorem apply_update_atom (hw : f.word = packR opc fn o) (hopc : opc = 0x68 ∨ opc = 0x69) :
    (f.update 0 k due back uid).apply old = (atomOp fn.toNat o.ty.toNat old f.sb.toNat, []) := by
  rcases hopc with rfl | rfl <;>
    · simp only [Upd.apply, Flight.update, opcOf_word hw, fnOf_word hw, tyOf_word hw]
      rfl

/-- `AUPD` and `AFET` of one FN do the same to the target. -/
theorem apply_update_pair (hi : encode i = some (packR 0x68 fn o)) (hj : encode j = some (packR 0x69 fn o)) :
    ∀ q ∈ [i, j], encode q = some f.word →
      (f.update 0 k due back uid).apply old = (atomOp fn.toNat o.ty.toNat old f.sb.toNat, []) := by
  simp only [List.forall_mem_cons, List.not_mem_nil, false_imp_iff, implies_true, and_true]
  exact ⟨fun he => apply_update_atom (word_eq he hi) (.inl rfl), fun he => apply_update_atom (word_eq he hj) (.inr rfl)⟩

theorem apply_update_acas (hw : f.word = packR 0x6A fn o) :
    let m := 2 ^ tyWidth o.ty.toNat
    (f.update 0 k due back uid).apply old = (if old = f.sd.toNat % m then f.sb.toNat % m else old, []) := by
  simp only [Upd.apply, Flight.update, opcOf_word hw, tyOf_word hw]
  rfl

theorem apply_update_atas (hw : f.word = packR 0x6B fn o) :
    (f.update 0 k due back uid).size = 1 ∧ ((f.update 0 k due back uid).apply old).1 = old ||| 2 ^ (f.sb.toNat % 8) := by
  simp only [Upd.size, Upd.apply, Flight.update, opcOf_word hw]
  exact ⟨rfl, rfl⟩

theorem apply_update_afadd (hw : f.word = packR 0x6C fn o) :
    let t := fmtOf o.ty.toNat
    let r := t.addV .rne (t.decode old) (t.decode (f.sb.toNat % 2 ^ tyWidth o.ty.toNat))
    (f.update 0 k due back uid).apply old = (r.pat, r.ev) := by
  simp only [Upd.apply, Flight.update, opcOf_word hw, tyOf_word hw]
  rfl

end Update

/-! ## Performed (R242, R255) -/

/-- The last result of an atomic that has reached its issuer performs it. -/
theorem atomicResultReturn_performs {fid : Nat} {wr : Writes} {fl : Bool} (hf : s.flight? fid = some f)
    (hissued : f.plan.length ≤ f.stage) (hleft : f.left = 0) (htime : f.after ≤ s.fc) (hatom : isAtomicOp f.word = true)
    (hr : atomResult f = (wr, fl)) :
    exec (.atomicResultReturn fid) s = .next ((s.accept f).perform f wr true fl []) := by
  change execAtomicResultReturn fid s = _
  simp only [execAtomicResultReturn, hf, hatom, hissued, hleft, htime, and_self, if_true, hr]

/-- The old value that an atomic has been answered (R255). -/
def Flight.oldValue (f : Flight) : Nat := leNat ((alGet 0 f.got).getD [])

/-- `AUPD`, `SCAT.ADD` and `TILL.APP` write no register. -/
theorem atomResult_update (hw : f.word = packR opc fn o)
    (hc : opc = 0x68 ∨ (opc = 0x5F ∧ fn = 1) ∨ (opc = 0x62 ∧ fn = 0)) :
    isAtomicOp f.word = true ∧ atomResult f = (Writes.none, false) := by
  simp only [isAtomicOp, atomResult, opcOf_word hw, fnOf_word hw]
  rcases hc with rfl | ⟨rfl, rfl⟩ | ⟨rfl, rfl⟩ <;> exact ⟨rfl, rfl⟩

theorem atomResult_fetch (hw : f.word = packR opc fn o) (hc : opc = 0x69 ∨ opc = 0x6C) :
    isAtomicOp f.word = true ∧ atomResult f = (writeS o.d.toNat f.tag (extTy o.ty.toNat f.oldValue), false) := by
  simp only [isAtomicOp, atomResult, opcOf_word hw, fnOf_word hw, tyOf_word hw, field_d_word hw]
  rcases hc with rfl | rfl <;> exact ⟨rfl, rfl⟩

theorem atomResult_acas (hw : f.word = packR 0x6A fn o) :
    isAtomicOp f.word = true ∧ atomResult f =
      (writeS o.d.toNat f.tag (extTy o.ty.toNat f.oldValue), f.oldValue == f.sd.toNat % 2 ^ tyWidth o.ty.toNat) := by
  simp only [isAtomicOp, atomResult, opcOf_word hw, fnOf_word hw, tyOf_word hw, field_d_word hw]
  exact ⟨rfl, rfl⟩

theorem atomResult_atas (hw : f.word = packR 0x6B fn o) :
    let bit := f.oldValue / 2 ^ (f.sb.toNat % 8) % 2
    isAtomicOp f.word = true ∧ atomResult f = (writeS o.d.toNat f.tag (BitVec.ofNat 64 bit), bit == 1) := by
  simp only [isAtomicOp, atomResult, opcOf_word hw, fnOf_word hw, field_d_word hw]
  exact ⟨rfl, rfl⟩

/-- Settles O30. An operation of `AUPD` or `AFET` takes B as it stands or at its width alike (`atomOp_add` and the like);
what is written back is `atomResult`. -/
theorem atomicsPerform : Obligations.AtomicsPerform := by
  unfold Obligations.AtomicsPerform
  refine ⟨?applied, ?performed⟩
  case applied =>
    intro o f old k due back uid ty w u b hold
    exact ⟨fun i hi he => (apply_update_pair (fn := 0) rfl rfl i hi he).trans (congrArg (·, []) (atomOp_add _)),
      fun i hi he => (apply_update_pair (fn := 1) rfl rfl i hi he).trans (congrArg (·, []) (atomOp_min _)),
      fun i hi he => (apply_update_pair (fn := 2) rfl rfl i hi he).trans (congrArg (·, []) (atomOp_max _)),
      fun i hi he => (apply_update_pair (fn := 3) rfl rfl i hi he).trans (congrArg (·, []) (atomOp_or _ hold)),
      fun i hi he => (apply_update_pair (fn := 4) rfl rfl i hi he).trans (congrArg (·, []) (atomOp_and _ hold)),
      fun i hi he => (apply_update_pair (fn := 5) rfl rfl i hi he).trans (congrArg (·, []) (atomOp_xor _ hold)),
      fun i hi he => apply_update_pair (fn := 6) rfl rfl i hi he,
      fun he => apply_update_acas (word_eq he rfl), fun he => apply_update_afadd (word_eq he rfl),
      fun he => ⟨target_atas (word_eq he rfl), apply_update_atas (word_eq he rfl)⟩⟩
  case performed =>
    intro o s f fid ty old bit done hf hissued hleft htime
    have performs {wr : Writes} {fl : Bool} : isAtomicOp f.word = true ∧ atomResult f = (wr, fl) →
        exec (.atomicResultReturn fid) s = .next (done wr fl) :=
      fun ⟨hatom, hr⟩ => atomicResultReturn_performs hf hissued hleft htime hatom hr
    simp only [List.forall_mem_cons, List.not_mem_nil, false_imp_iff, implies_true, and_true]
    refine ⟨⟨fun he => ?add, fun he => ?min, fun he => ?max, fun he => ?or, fun he => ?and, fun he => ?xor, fun he => ?swp,
        fun he => performs (atomResult_update (word_eq he rfl) (.inr (.inl ⟨rfl, rfl⟩))),
        fun he => performs (atomResult_update (word_eq he rfl) (.inr (.inr ⟨rfl, rfl⟩)))⟩,
      ⟨fun he => ?fetAdd, fun he => ?fetMin, fun he => ?fetMax, fun he => ?fetOr, fun he => ?fetAnd, fun he => ?fetXor,
        fun he => ?fetSwp, fun he => performs (atomResult_fetch (word_eq he rfl) (.inr rfl))⟩,
      fun he => performs (atomResult_acas (word_eq he rfl)), fun he => performs (atomResult_atas (word_eq he rfl))⟩
    case add | min | max | or | and | xor | swp =>
      exact performs (atomResult_update (opc := 0x68) (word_eq he rfl) (.inl rfl))
    case fetAdd | fetMin | fetMax | fetOr | fetAnd | fetXor | fetSwp =>
      exact performs (atomResult_fetch (opc := 0x69) (word_eq he rfl) (.inl rfl))

end Sys2Proof.Machine
end

section
/-!
SUPPORT. Till, permit, event and bank words (R232, R251-R254): their firing, and one equation for each thing that the unit of a
word comes to when the word goes on.
-/

set_option Elab.async false

namespace Sys2Proof.Machine

variable {s : State} {i : Instr} {w : Who} {x : Word} {o : FormR} {f : Flight} {fn : BitVec 3} {k : Nat}

/-! ## Till and permit words fire (R251, R252) -/

theorem tillR_fires {dest : Bool} (he : exec i s = tillR o dest s) (h : Fires s i o.g w x) :
    let j := s.jobOf w x
    s.FiresAligned i w x o.g 6 j.sa.toNat 64 (s.taken.telAddr w j.asid j.sa.toNat .load false)
      { jobHolds j (if dest then o.d.toNat else 26) s.fc with plan := recParts j.sa.toNat 64 } :=
  fireJob_aligned he rfl h

/-! ## A word whose record has been read -/

/-- All that a word reads has been asked for and has come. -/
def Flight.HasRead (f : Flight) : Prop := f.plan.length ≤ f.stage ∧ f.left = 0

theorem withRec_read (h : f.HasRead) (next : List Byte → State → State) : s.withRec f next = next f.bytes s := by
  obtain ⟨hissued, hleft⟩ := h
  rw [State.withRec, if_neg (Nat.not_lt.mpr hissued), if_pos hleft]

theorem withLog_logged {u : State} (h : s.logUndo f.port f.ival k = some u) (next : State → State) :
    s.withLog f k next = next u := by
  simp only [State.withLog, h]

theorem till_performed {t : State} (h : s.Performing i f) (hi : encode i = some (packR 0x62 fn o)) (hfn : fn ≠ 0)
    (hs : fnOf f.word = fn.toNat → s.tillStep f = t) : exec (.instructionPerformed f.fid) s = .next t :=
  performed_word h hi (fun hw => (step_till (opcOf_word hw)).trans (if_neg (fnOf_word_ne (fn' := 0) hw hfn)))
    fun hw => hs (fnOf_word hw)

theorem prmt_performed {t : State} (h : s.Performing i f) (hi : encode i = some (packR 0x63 fn o))
    (hs : fnOf f.word = fn.toNat → s.prmtStep f = t) : exec (.instructionPerformed f.fid) s = .next t :=
  performed_word h hi (fun hw => step_prmt (opcOf_word hw)) fun hw => hs (fnOf_word hw)

/-! ## `TILL` (R251) -/

/-- Slots between HEAD and TAIL. -/
def Till.ready (t : Till) : Nat := t.tail - t.head

section Tills

variable (hread : f.HasRead)
include hread

section Read

variable (hkey : s.descKey f f.sa.toNat .load = .ok k)
include hkey

theorem tillStep_poll (hfn : fnOf f.word = 1) :
    s.tillStep f = s.performVal f (w64 (s.tillAt k).ready) ((s.tillAt k).ready != 0) false := by
  simp only [State.tillStep, withRec_read hread, hfn, Nat.reduceEqDiff, if_false, hkey]
  rfl

theorem tillStep_wait (hfn : fnOf f.word = 2) (henough : f.sb.toNat ≤ (s.tillAt k).ready) :
    s.tillStep f = s.performVal f (w64 (s.tillAt k).ready) ((s.tillAt k).ready != 0) false := by
  unfold Till.ready at henough ⊢
  simp only [State.tillStep, withRec_read hread, hfn, Nat.reduceEqDiff, if_false, hkey, if_pos henough]

theorem tillStep_wait_short (hfn : fnOf f.word = 2) (hshort : (s.tillAt k).ready < f.sb.toNat) : s.tillStep f = s := by
  unfold Till.ready at hshort
  simp only [State.tillStep, withRec_read hread, hfn, Nat.reduceEqDiff, if_false, hkey, if_neg (Nat.not_le.mpr hshort)]

end Read

section Write

variable (hkey : s.descKey f f.sa.toNat .store = .ok k)
include hkey

theorem tillStep_adv_short (hfn : fnOf f.word = 3) (hshort : (s.tillAt k).ready < f.sb.toNat) :
    s.tillStep f = s.flightFault f { cls := clsRange, code := 0x01F, opnd := f.sa.toNat } := by
  unfold Till.ready at hshort
  simp only [State.tillStep, withRec_read hread, hfn, if_true, hkey, if_pos hshort]

theorem tillStep_adv {u : State} (hfn : fnOf f.word = 3) (henough : f.sb.toNat ≤ (s.tillAt k).ready)
    (hlog : s.logUndo f.port f.ival k = some u) :
    s.tillStep f = ((u.store (k + 0x10) (leBytes 8 ((s.tillAt k).head + f.sb.toNat))).perform f Writes.none (f.sb.toNat != 0)
      false []).servePeers := by
  unfold Till.ready at henough
  simp only [State.tillStep, withRec_read hread, hfn, if_true, hkey, if_neg (Nat.not_lt.mpr henough), withLog_logged hlog]
  rfl

/-! ## `PRMT` (R232, R252) -/

theorem prmtStep_bad_count (hcount : f.sb.toNat = 0 ∨ (s.tillAt k).n < f.sb.toNat) :
    s.prmtStep f = s.flightFault f { cls := clsRange, code := 0x020, opnd := f.sa.toNat } := by
  simp only [State.prmtStep, withRec_read hread, hkey, if_pos hcount]

end Write

end Tills

/-- The name of a `PRMT.GET` among the requests that have reached the till at `k`, new on its first attempt. -/
def State.permitNamed (s : State) (f : Flight) (k : Nat) : Nat × State :=
  match f.aux.head? with
  | some id => (id, s)
  | none => ((s.newId).1, (s.newId).2.modFlight f.fid fun g => { g with aux := [(s.newId).1, k] })

theorem permitNamed_mem (s : State) (f : Flight) (k : Nat) : (s.permitNamed f k).2.mem = s.mem := by
  unfold State.permitNamed
  split <;> rfl

/-- Slots `g` to `g + r` granted on the till at `k`. -/
def State.granted (s : State) (k g r : Nat) : State :=
  { s.store (k + 0x20) (leBytes 8 (g + r)) with permits := alSet k ((alGet k s.permits).getD [] ++ [r]) s.permits }

/-- GRANT moved down from `g` by `r`, the newest reservations given back first (log 77). -/
def State.returned (s : State) (k g r : Nat) : State :=
  { s.store (k + 0x20) (leBytes 8 (g - r)) with
    permits := alSet k (unreserve r ((alGet k s.permits).getD []).reverse).reverse s.permits }

theorem grant_of_fits {r : Nat} (h : (s.tillAt k).fits r = true) :
    s.grant k r = some ((s.tillAt k).grant, s.granted k (s.tillAt k).grant r) := by
  simp only [State.grant, h, if_true]
  rfl

theorem tillAt_of_mem {u : State} (h : u.mem = s.mem) (k : Nat) : u.tillAt k = s.tillAt k := by
  rw [State.tillAt, h, State.tillAt]

section Permits

variable (hread : f.HasRead) (hkey : s.descKey f f.sa.toNat .store = .ok k)
  (hcount : ¬(f.sb.toNat = 0 ∨ (s.tillAt k).n < f.sb.toNat))
include hread hkey hcount

theorem prmtStep_get_waits {id : Nat} {v : State} (hfn : fnOf f.word = 0) (hname : s.permitNamed f k = (id, v))
    (hwait : v.permitTurn id k = false ∨ (s.tillAt k).fits f.sb.toNat = false) : s.prmtStep f = v := by
  have hor : (!v.permitTurn id k || !(s.tillAt k).fits f.sb.toNat) = true := by simpa using hwait
  unfold State.permitNamed at hname
  cases haux : f.aux.head? with
  | some id' | none =>
    simp only [haux, Prod.mk.injEq] at hname
    obtain ⟨rfl, rfl⟩ := hname
    simp only [State.prmtStep, withRec_read hread, hkey, if_neg hcount, hfn, if_true, haux, hor]

theorem prmtStep_get_grants {id : Nat} {u v : State} (hfn : fnOf f.word = 0) (hname : s.permitNamed f k = (id, v))
    (hturn : v.permitTurn id k = true) (hfits : (s.tillAt k).fits f.sb.toNat = true)
    (hlog : v.logUndo f.port f.ival k = some u) :
    s.prmtStep f = (u.granted k (s.tillAt k).grant f.sb.toNat).performVal f (w64 (s.tillAt k).grant) true false := by
  have hor : (!v.permitTurn id k || !(s.tillAt k).fits f.sb.toNat) = false := by simp [hturn, hfits]
  have hmem : u.mem = s.mem := (logUndo_mem hlog).trans (by rw [← permitNamed_mem s f k, hname])
  have hgrant := grant_of_fits (s := u) (k := k) (r := f.sb.toNat) (by rw [tillAt_of_mem hmem, hfits])
  rw [tillAt_of_mem hmem] at hgrant
  unfold State.permitNamed at hname
  cases haux : f.aux.head? with
  | some id' | none =>
    simp only [haux, Prod.mk.injEq] at hname
    obtain ⟨rfl, rfl⟩ := hname
    simp only [State.prmtStep, withRec_read hread, hkey, if_neg hcount, hfn, if_true, haux, hor, Bool.false_eq_true, if_false,
      withLog_logged hlog, hgrant]

theorem prmtStep_ret_short (hfn : fnOf f.word = 1) (hshort : (s.tillAt k).grant - (s.tillAt k).tail < f.sb.toNat) :
    s.prmtStep f = s.flightFault f { cls := clsRange, code := 0x020, opnd := f.sa.toNat } := by
  simp only [State.prmtStep, withRec_read hread, hkey, if_neg hcount, hfn, Nat.reduceEqDiff, if_false, if_pos hshort]

theorem prmtStep_ret {u : State} (hfn : fnOf f.word = 1) (henough : f.sb.toNat ≤ (s.tillAt k).grant - (s.tillAt k).tail)
    (hlog : s.logUndo f.port f.ival k = some u) :
    s.prmtStep f = ((u.returned k (s.tillAt k).grant f.sb.toNat).performVal f (w64 ((s.tillAt k).grant - f.sb.toNat)) true
      false).servePeers := by
  simp only [State.prmtStep, withRec_read hread, hkey, if_neg hcount, hfn, Nat.reduceEqDiff, if_false,
    if_neg (Nat.not_lt.mpr henough), withLog_logged hlog]
  rfl

end Permits

/-! ## `EV` (R253) -/

theorem ev_performed {t : State} (h : s.Performing i f) (hi : encode i = some (packR 0x66 fn o))
    (hs : f.word = packR 0x66 fn o → s.evStep f = t) : exec (.instructionPerformed f.fid) s = .next t :=
  performed_word h hi (fun hw => step_ev (opcOf_word hw)) hs

/-- A word of the event queues is performed with a record in D. -/
def State.evGive (s : State) (f : Flight) (o : FormR) (r : List Byte) (outcome : Bool) : State :=
  s.perform f (writeV o.d.toNat f.tag (bytesVec r)) outcome false []

/-- A record that is refused: there is no such die, or its kind is none of a program's. -/
def Flight.PostBad (f : Flight) : Prop := 7 < f.sa.toNat ∨ f.vd.toNat % 2 ^ 16 < 0x100

theorem evStep_post_bad (hw : f.word = packR 0x66 0 o) (hbad : f.PostBad) :
    s.evStep f = s.flightFault f { cls := clsRange, code := 0x021, opnd := f.sa.toNat } := by
  have hfn : fnOf f.word = 0 := fnOf_word hw
  unfold Flight.PostBad at hbad
  simp only [State.evStep, hfn, if_pos hbad]

theorem evStep_post (hw : f.word = packR 0x66 0 o) (hgood : ¬ f.PostBad) (hroom : s.evRoom f.sa.toNat f.ptn = true)
    (hfree : s.evFreeIn f.sa.toNat f.ptn = true) :
    s.evStep f = (s.evPush f.sa.toNat f.ptn ((vecBytes f.vd).take 24 ++ leBytes 8 (cidOf f.who).toNat)).perform f Writes.none
      true false [] := by
  have hfn : fnOf f.word = 0 := fnOf_word hw
  unfold Flight.PostBad at hgood
  simp only [State.evStep, hfn, if_neg hgood, hroom, hfree, Bool.and_self, if_true]

theorem evStep_post_full (hw : f.word = packR 0x66 0 o) (hgood : ¬ f.PostBad) (hroom : s.evRoom f.sa.toNat f.ptn = false) :
    s.evStep f = s := by
  have hfn : fnOf f.word = 0 := fnOf_word hw
  unfold Flight.PostBad at hgood
  simp only [State.evStep, hfn, if_neg hgood, hroom, Bool.false_and, Bool.false_eq_true, if_false]

theorem evStep_peek {r : List Byte} (hw : f.word = packR 0x66 3 o) (hhead : s.evHead f.who.die f.ptn = some r) :
    s.evStep f = s.evGive f o r true := by
  have hfn : fnOf f.word = 3 := fnOf_word hw
  simp only [State.evStep, hfn, hhead, field_d_word hw]
  rfl

theorem evStep_peek_empty (hw : f.word = packR 0x66 3 o) (hhead : s.evHead f.who.die f.ptn = none) :
    s.evStep f = s.evGive f o [] false := by
  have hfn : fnOf f.word = 3 := fnOf_word hw
  simp only [State.evStep, hfn, hhead, field_d_word hw]
  rfl

/-- `POP` and `WAIT` remove the head record. -/
theorem evStep_take {r : List Byte} (hw : f.word = packR 0x66 fn o) (hfn : fn = 1 ∨ fn = 2)
    (hhead : s.evHead f.who.die f.ptn = some r) (hfree : s.evFreeOut f.who.die f.ptn = true) :
    s.evStep f = (s.evDrop f.who.die f.ptn).evGive f o r true := by
  rcases hfn with rfl | rfl <;>
    · simp only [State.evStep, fnOf_word hw, hhead, hfree, field_d_word hw]
      rfl

theorem evStep_pop_empty (hw : f.word = packR 0x66 1 o) (hhead : s.evHead f.who.die f.ptn = none) :
    s.evStep f = s.evGive f o [] false := by
  simp only [State.evStep, fnOf_word hw, hhead, field_d_word hw]
  rfl

theorem evStep_wait_empty (hw : f.word = packR 0x66 2 o) (hhead : s.evHead f.who.die f.ptn = none) : s.evStep f = s := by
  simp only [State.evStep, fnOf_word hw, hhead]
  rfl

/-! ## `BANK` (R237, R254) -/

theorem bank_performed {t : State} (h : s.Performing i f) (hi : encode i = some (packR 0x65 fn o))
    (hs : f.word = packR 0x65 fn o → s.bankStep f = t) : exec (.instructionPerformed f.fid) s = .next t :=
  performed_word h hi (fun hw => step_bank (opcOf_word hw)) hs

section Banks

variable {die bank : Nat} (hbank : bankOf f.sa.toNat = (die, bank))
include hbank

theorem bankStep_give_not_held (hw : f.word = packR 0x65 0 o) (hheld : s.bankTok die bank ≠ .held f.who.page) :
    s.bankStep f = s.flightFault f { cls := clsRange, code := 0x022, opnd := f.sa.toNat } := by
  have hfn : fnOf f.word = 0 := fnOf_word hw
  simp only [State.bankStep, hbank, hfn, if_pos hheld]

theorem bankStep_give (hw : f.word = packR 0x65 0 o) (hheld : s.bankTok die bank = .held f.who.page)
    (hquiet : s.bankQuiet f.who.page die bank f = true) :
    s.bankStep f = (s.setBank die bank (.free (f.sb.toNat % 2 ^ 16))).perform f Writes.none true false [] := by
  have hfn : fnOf f.word = 0 := fnOf_word hw
  simp only [State.bankStep, hbank, hfn, if_neg (not_not_intro hheld), hquiet, if_true]

theorem bankStep_take (hw : f.word = packR 0x65 1 o) (hfree : s.bankTok die bank = .free (f.sb.toNat % 2 ^ 16)) :
    s.bankStep f = (s.setBank die bank (.held f.who.page)).perform f Writes.none true false [] := by
  have hfn : fnOf f.word = 1 := fnOf_word hw
  simp only [State.bankStep, hbank, hfn, if_pos hfree]

theorem bankStep_take_waits (hw : f.word = packR 0x65 1 o) (hfree : s.bankTok die bank ≠ .free (f.sb.toNat % 2 ^ 16)) :
    s.bankStep f = s := by
  have hfn : fnOf f.word = 1 := fnOf_word hw
  simp only [State.bankStep, hbank, hfn, if_neg hfree]

/-- The banks of a vault whose token a page holds, as a mask. -/
def State.heldMask (s : State) (pg die bank : Nat) : Nat :=
  (List.range 32).foldl (fun acc n => if s.bankTok die (bank / 32 * 32 + n) = .held pg then acc + 2 ^ n else acc) 0

theorem bankStep_qry (hw : f.word = packR 0x65 2 o) :
    s.bankStep f = s.performVal f (w64 (s.heldMask f.who.page die bank)) (s.heldMask f.who.page die bank != 0) false := by
  have hfn : fnOf f.word = 2 := fnOf_word hw
  simp only [State.bankStep, hbank, hfn]
  rfl

end Banks

/-! ## The obligation -/

/-- Settles O31. Each clause is the equation of its word. That an event or bank word asks its unit one fc after it fires (log 79)
and that `PRMT.RET` gives back the newest reservations first (log 77) is the model's choice. -/
theorem tillEventAndBankWords : Obligations.TillEventAndBankWords := by
  unfold Obligations.TillEventAndBankWords
  refine ⟨?tills, ?events⟩
  case tills =>
    intro o s w x f k j held t r left bad
    split
    next id v hname =>
    replace hname : s.permitNamed f k = (id, v) := hname
    have fires {i : Instr} {dest : Bool} (he : exec i s = tillR o dest s) (h : Fires s i o.g w x) :
        (j.sa.toNat % 64 ≠ 0 → exec i s = .next (s.taken.raise w x { cls := clsAlign, code := 6, opnd := j.sa.toNat })) ∧
        (j.sa.toNat % 64 = 0 → s.taken.telAddr w j.asid j.sa.toNat .load false = none →
          exec i s = .next (memPost (held dest) (s.handed w o.g (held dest)))) := by
      obtain ⟨hbad, hgood⟩ := tillR_fires he h
      exact ⟨hbad, fun ha => (hgood ha).2⟩
    simp only [List.forall_mem_cons, List.not_mem_nil, false_imp_iff, implies_true, and_true]
    refine ⟨⟨fun h => fires rfl h, fun h => fires rfl h, fun h => fires rfl h, fun h => fires rfl h, fun h => fires rfl h⟩,
      fun hissued hleft => ?_⟩
    have hread : f.HasRead := ⟨hissued, hleft⟩
    refine ⟨fun hkey => ⟨fun h => till_performed (fn := 1) h rfl (by decide) (tillStep_poll hread hkey),
        fun h henough => till_performed (fn := 2) h rfl (by decide) fun hfn => tillStep_wait hread hkey hfn henough,
        fun h hshort => till_performed (fn := 2) h rfl (by decide) fun hfn => tillStep_wait_short hread hkey hfn hshort⟩,
      fun hkey => ⟨
        fun h hshort => till_performed (fn := 3) h rfl (by decide) fun hfn => tillStep_adv_short hread hkey hfn hshort,
        fun u h henough hlog => till_performed (fn := 3) h rfl (by decide) fun hfn => tillStep_adv hread hkey hfn henough hlog,
        ⟨fun h hcount => prmt_performed h rfl fun _ => prmtStep_bad_count hread hkey hcount,
          fun h hcount => prmt_performed h rfl fun _ => prmtStep_bad_count hread hkey hcount⟩,
        fun h hpos hle => ?get, fun h hpos hle => ?ret⟩⟩
    case get =>
      have hcount : ¬(r = 0 ∨ t.n < r) := by omega
      refine ⟨fun hwait => prmt_performed (fn := 0) h rfl fun hfn => ?_,
        fun u hturn hroom hlog => prmt_performed (fn := 0) h rfl fun hfn => ?_⟩
      · exact prmtStep_get_waits hread hkey hcount hfn hname (hwait.imp_right fun hlt => decide_eq_false (Nat.not_le.mpr hlt))
      · exact prmtStep_get_grants hread hkey hcount hfn hname hturn (decide_eq_true hroom) hlog
    case ret =>
      have hcount : ¬(r = 0 ∨ t.n < r) := by omega
      exact ⟨fun hshort => prmt_performed (fn := 1) h rfl fun hfn => prmtStep_ret_short hread hkey hcount hfn hshort,
        fun u henough hlog => prmt_performed (fn := 1) h rfl fun hfn => prmtStep_ret hread hkey hcount hfn henough hlog⟩
  case events =>
    intro o s w x f r held d home put die bank tag mine bad
    have hbank : bankOf f.sa.toNat = (die, bank) := rfl
    simp only [List.forall_mem_cons, List.not_mem_nil, false_imp_iff, implies_true, and_true]
    refine ⟨⟨fun h => soonR_ok false h, fun h => soonR_ok true h, fun h => soonR_ok true h, fun h => soonR_ok true h,
        fun h => soonR_ok false h, fun h => soonR_ok false h, fun h => soonR_ok true h⟩,
      fun h => ⟨fun hbad => ev_performed h rfl fun hw => evStep_post_bad hw hbad,
        fun hdie hkind hroom hfree => ev_performed h rfl fun hw => evStep_post hw ?good hroom hfree,
        fun hdie hkind hroom => ev_performed h rfl fun hw => evStep_post_full hw ?good' hroom⟩,
      fun hhead => ⟨fun h => ev_performed h rfl fun hw => evStep_peek hw hhead,
        fun h hfree => ev_performed h rfl fun hw => evStep_take hw (.inl rfl) hhead hfree,
        fun h hfree => ev_performed h rfl fun hw => evStep_take hw (.inr rfl) hhead hfree⟩,
      fun hhead => ⟨⟨fun h => ev_performed h rfl fun hw => evStep_pop_empty hw hhead,
          fun h => ev_performed h rfl fun hw => evStep_peek_empty hw hhead⟩,
        fun h => ev_performed h rfl fun hw => evStep_wait_empty hw hhead⟩,
      fun h => ⟨fun hheld => bank_performed h rfl fun hw => bankStep_give_not_held hbank hw hheld,
        fun hheld hquiet => bank_performed h rfl fun hw => bankStep_give hbank hw hheld hquiet⟩,
      fun h => ⟨fun hfree => bank_performed h rfl fun hw => bankStep_take hbank hw hfree,
        fun hfree => bank_performed h rfl fun hw => bankStep_take_waits hbank hw hfree⟩,
      fun h => bank_performed h rfl fun hw => bankStep_qry hbank hw⟩
    case good | good' =>
      rintro (hfar | hlow)
      · exact absurd hdie (Nat.not_le.mpr hfar)
      · exact absurd hkind (Nat.not_le.mpr hlow)

end Sys2Proof.Machine
end

section
/-!
SUPPORT. Group words, fences and in-flight counters (R256-R260): their firing, what an operation comes to at the entry of its
group, and one equation for each thing that a word comes to when it goes on.
-/

set_option Elab.async false

namespace Sys2Proof.Machine

variable {s : State} {i : Instr} {w : Who} {x : Word} {o : FormR} {f : Flight} {opc : BitVec 7} {fn : BitVec 3}

/-! ## Group words (R256) -/

/-- The flight of a group word, due at its entry when it has crossed the links of its way. -/
def State.grpFlight (s : State) (w : Who) (x : Word) (o : FormR) (gdie : Nat) : Flight :=
  jobHolds (s.jobOf w x) o.d.toNat (s.fc + grpTime w gdie + (s.taken.grpWait w gdie).1)

/-- The flight stands in the queue of the entry that its A names. -/
def Die.queueGroup (d : Die) (f : Flight) : Die :=
  { d with groups := match alGet (bits f.sa.toNat 9 0) d.groups with
      | some e => alSet (bits f.sa.toNat 9 0) { e with q := e.q ++ [(f.fid, f.after)] } d.groups
      | none => d.groups }

section GroupFires

variable (he : exec i s = grpR o s) (h : Fires s i o.g w x)
include he h

theorem grpR_no_die (hfar : 7 < bits (s.jobOf w x).sa.toNat 13 10) :
    exec i s = .next (s.taken.raise w x { cls := clsRange, code := 0x023, opnd := (s.jobOf w x).sa.toNat }) :=
  he.trans (fireJob_error h (if_pos hfar))

theorem grpR_fires (hdie : bits (s.jobOf w x).sa.toNat 13 10 ≤ 7) :
    let gdie := bits (s.jobOf w x).sa.toNat 13 10
    let f := s.grpFlight w x o gdie
    exec i s = .next ((((s.handed w o.g f).grpWait w gdie).2.accept f).modDie gdie fun d => d.queueGroup f) :=
  he.trans (fireJob_ok h (if_neg (Nat.not_lt.mpr hdie)))

end GroupFires

theorem grp_performed (h : s.Performing i f) (hi : encode i = some (packR 0x70 fn o)) (hstage : f.stage = 2) :
    exec (.instructionPerformed f.fid) s = .next
      (s.performVal f (w64 (f.aux.getD 0 0)) (f.aux.getD 0 0 != 0) (f.aux.getD 1 0 == 1)) := by
  refine performed_word h hi (fun hw => step_grp (opcOf_word hw)) fun _ => ?_
  simp only [State.grpStep, if_pos hstage]

/-! ## Operations at the entry of a group (R257) -/

section Entry

variable {g : Grp} {mem : List GMem} {m : GMem} {b word die ix : Nat}

section Nonmember

variable (hmine : mem.find? (fun y => y.die = die ∧ y.ix = ix) = none)
include hmine

theorem op_join_nonmember : g.op 0 die ix b mem word none =
    if 4 ≤ mem.length then .fault 0x024
    else .done { g with members := g.members + 1 } (mem ++ [⟨die, ix, List.replicate 4 none⟩]) (g.members + 1) false := by
  simp only [Grp.op, hmine]

theorem op_leave_nonmember : g.op 1 die ix b mem word none = .done g mem g.members true := by
  simp only [Grp.op, hmine]

theorem op_arrive_nonmember : g.op 2 die ix b mem word none = .fault 0x023 := by
  simp only [Grp.op, hmine]

theorem op_bar_nonmember : g.op 4 die ix b mem word none = .fault 0x023 := by
  simp only [Grp.op, hmine]

end Nonmember

/-- One more arrival settles a barrier: it completes with the last of the members. -/
theorem settle_arrival (hb : b < g.arr.length) :
    let up : Grp := { g with arr := g.arr.set b (g.arr.getD b 0 + 1) }
    up.settle b = if 0 < g.members ∧ g.arr.getD b 0 + 1 = g.members then up.complete b else up := by
  have hget : (g.arr.set b (g.arr.getD b 0 + 1)).getD b 0 = g.arr.getD b 0 + 1 := by
    rw [List.getD_eq_getElem?_getD, List.getElem?_set_self hb, Option.getD_some]
  simp only [Grp.settle, hget]

section Member

variable (hmine : mem.find? (fun y => y.die = die ∧ y.ix = ix) = some m)
include hmine

theorem op_join_member : g.op 0 die ix b mem word none = .done g mem g.members true := by
  simp only [Grp.op, hmine]

theorem op_arrive_again (harrived : g.arrived m b = true) : g.op 2 die ix b mem word none = .wait g mem none := by
  simp only [Grp.op, hmine, harrived, if_true]

theorem op_arrive_member (hnew : g.arrived m b = false) :
    g.op 2 die ix b mem word none =
      .done (({ g with arr := g.arr.set b (g.arr.getD b 0 + 1) } : Grp).settle b)
        (mem.map fun y => if y = m then { y with arr := y.arr.set b (some (g.gen.getD b 0)) } else y) (g.gen.getD b 0)
        false := by
  simp only [Grp.op, hmine, hnew, Bool.false_eq_true, if_false]

end Member

end Entry

/-! ## Fences (R258, R259) -/

theorem fenceR_fires (he : exec i s = fenceR o s) (h : Fires s i o.g w x) :
    let j := s.jobOf w x
    let f : Flight := { j with aux := [s.taken.memBefore j], after := s.fc + 1 }
    exec i s = .next (jobPost f (s.handed w o.g f)) :=
  he.trans (fireJob_ok h rfl)

theorem fence_performed (h : s.Performing i f) (hi : encode i = some (packR 0x71 fn o)) :
    (s.memBefore f = 0 →
      exec (.instructionPerformed f.fid) s = .next (s.perform f Writes.none (f.aux.headD 0 != 0) false [])) ∧
    (s.memBefore f ≠ 0 → exec (.instructionPerformed f.fid) s = .next s) :=
  ⟨fun hnone => performed_word h hi (fun hw => step_fence (opcOf_word hw)) fun _ => if_pos hnone,
    fun hsome => performed_word h hi (fun hw => step_fence (opcOf_word hw)) fun _ => if_neg hsome⟩

theorem exec_qfence (o : FormR) (s : State) : exec (.qfence o) s = execQfence o s := rfl

theorem qfence_refused (h : Fires s (.qfence o) o.g w x)
    (hmask : 64 ≤ (s.jobOf w x).sa.toNat ∨ (w.isElem = false ∧ 16 ≤ (s.jobOf w x).sa.toNat)) :
    exec (.qfence o) s =
      .next (s.taken.raise w x { cls := clsRange, code := 0x025, opnd := (s.jobOf w x).sa.toNat }) :=
  (exec_qfence o s).trans (fireJob_error h (if_pos (by simpa using hmask)))

theorem qfence_fires (h : Fires s (.qfence o) o.g w x) (hmask : (s.jobOf w x).sa.toNat < 64)
    (htel : w.isElem = true ∨ (s.jobOf w x).sa.toNat < 16) :
    let j := s.jobOf w x
    let f : Flight := { j with aux := s.taken.queued w j.ptn j.sa.toNat, after := s.fc + 1 }
    exec (.qfence o) s = .next (jobPost f (s.handed w o.g f)) := by
  refine (exec_qfence o s).trans (fireJob_ok h (if_neg ?_))
  rintro (hbig | ⟨htel', hbig⟩)
  · omega
  · rcases htel with hel | hsmall
    · simp [hel] at htel'
    · omega

theorem qfence_performed (h : s.Performing (.qfence o) f) (hgone : ∀ c ∈ f.aux, c ∉ s.queued f.who f.ptn f.sa.toNat) :
    exec (.instructionPerformed f.fid) s = .next (s.perform f Writes.none (f.aux != []) false []) := by
  have hall : (f.aux.all fun c => !(s.queued f.who f.ptn f.sa.toNat).contains c) = true := by simpa using hgone
  exact performed_word (opc := 0x72) (fn := 0) h rfl (fun hw => step_qfence (opcOf_word hw)) fun _ => if_pos hall

/-! ## In-flight counters (R260) -/

/-- The flight of a `TCNT`, due at its region in the next fc (log 79). -/
def State.tcntFlight (s : State) (w : Who) (x : Word) (o : FormR) : Flight := jobHolds (s.jobOf w x) o.d.toNat (s.fc + 1)

section Counters

variable (he : exec i s = tcntR o s) (h : Fires s i o.g w x)
include he h

theorem tcntR_fires {rg : Nat} (hrg : (s.handed w o.g (s.tcntFlight w x o)).tcntRegion (s.tcntFlight w x o) = some rg) :
    let f := s.tcntFlight w x o
    exec i s = .next (((s.handed w o.g f).accept f).modRegion rg fun r =>
      { r with tcq := r.tcq ++ [⟨f.fid, f.after⟩] }) := by
  refine he.trans ((fireJob_ok h (j := s.tcntFlight w x o) rfl).trans ?_)
  simp only [hrg]

theorem tcntR_no_region (hrg : (s.handed w o.g (s.tcntFlight w x o)).tcntRegion (s.tcntFlight w x o) = none) :
    let f := s.tcntFlight w x o
    exec i s = .next (((s.handed w o.g f).accept f).modFlight f.fid fun y => { y with stage := 9 }) := by
  refine he.trans ((fireJob_ok h (j := s.tcntFlight w x o) rfl).trans ?_)
  simp only [hrg]

end Counters

/-- The counter that a `TCNT` names holds `v`, and its operation stands in the queue no more. -/
def State.counted (s : State) (rg fid c : Nat) (v : Word) : State :=
  (s.modRegion rg fun r => { r with tcq := r.tcq.filter fun q => q.fid != fid }).modRegion rg fun r =>
    { r with fl := r.fl.set c v }

/-- A counter after the operation `fn` with operand `b` (R260). -/
def counterAfter (fn : Nat) (old b : Word) : Word :=
  match fn with
  | 0 => old + b
  | 1 => old - b
  | _ => old

theorem tcntApply_answers {rg : Nat} {r : Region} {op : TcOp} (hr : s.region? rg = some r)
    (hop : (r.tcq.find? fun q => s.tcntReady r q) = some op) (hf : s.flight? op.fid = some f) :
    let c := f.sa.toNat % 4
    let v := counterAfter (fnOf f.word) (r.fl.getD c 0) f.sb
    exec (.tcntApply rg) s = .next ((s.counted rg op.fid c v).performVal f v (v != 0) false) := by
  have hf' : (s.modRegion rg fun r => { r with tcq := r.tcq.filter fun q => q.fid != op.fid }).flight? op.fid = some f := hf
  change execTcntApply rg s = _
  simp only [execTcntApply, hr, hop, hf']
  rfl

/-! ## The obligation -/

/-- Settles O32. Each clause is the equation of its word or operation. That fences, `QFENCE` and
counter words go on one fc after they fire (log 79), and that the six scopes of a fence wait alike (log 80), is the model's
choice. -/
theorem groupFenceAndCounterWords : Obligations.GroupFenceAndCounterWords := by
  unfold Obligations.GroupFenceAndCounterWords
  refine ⟨?groups, ?fences⟩
  case groups =>
    intro o s w x f g mem m b word j gdie out cur up mine op arrived
    simp only [List.forall_mem_cons, List.not_mem_nil, false_imp_iff, implies_true, and_true]
    refine ⟨?fires, ?performs, fun hmine => ⟨op_join_nonmember hmine, op_leave_nonmember hmine, op_arrive_nonmember hmine,
        op_bar_nonmember hmine⟩,
      fun hmine => ⟨op_join_member hmine, op_arrive_again hmine, fun hnew hb => ?arrives⟩, rfl, rfl⟩
    case fires =>
      refine ⟨?_, ?_, ?_, ?_, ?_, ?_⟩ <;>
        exact fun h => ⟨grpR_no_die rfl h, grpR_fires rfl h⟩
    case performs =>
      refine ⟨?_, ?_, ?_, ?_, ?_, ?_⟩ <;>
        exact fun h hstage => grp_performed h rfl hstage
    case arrives =>
      refine (op_arrive_member hmine hnew).trans ?_
      rw [settle_arrival hb]
  case fences =>
    intro o s w x f j out asks cnt fences
    simp only [fences, List.forall_mem_cons, List.not_mem_nil, false_imp_iff, implies_true, and_true]
    refine ⟨?fires, ?performs, fun h => ⟨qfence_refused h, qfence_fires h⟩, qfence_performed, ?counters,
      fun rg r op hr hop hf => ?answers⟩
    case fires =>
      refine ⟨?_, ?_, ?_, ?_, ?_, ?_⟩ <;>
        exact fun h => fenceR_fires rfl h
    case performs =>
      refine ⟨?_, ?_, ?_, ?_, ?_, ?_⟩ <;>
        exact fun h => fence_performed h rfl
    case counters =>
      refine ⟨?_, ?_, ?_, ?_⟩ <;>
        exact fun h => ⟨fun rg => tcntR_fires rfl h, tcntR_no_region rfl h⟩
    case answers =>
      have hanswer {i : Instr} {fn : BitVec 3} (he : encode i = some f.word) (hi : encode i = some (packR 0x73 fn o)) :=
        fnOf_word (word_eq he hi) ▸ tcntApply_answers hr hop hf
      exact ⟨fun he => hanswer (fn := 0) he rfl, fun he => hanswer (fn := 1) he rfl, fun he => hanswer (fn := 2) he rfl,
        fun he => hanswer (fn := 3) he rfl⟩

end Sys2Proof.Machine
end

section
/-!
SUPPORT. Stream words (R246, R249, R250): their firing, and one equation for each thing that `SOPEN`, `SCTL`, `PREF` and `XFORM`
come to when they go on.
-/

set_option Elab.async false

namespace Sys2Proof.Machine

variable {s : State} {i : Instr} {w : Who} {x : Word} {o : FormR} {f : Flight} {fn : BitVec 3} {p : Page} {me : Me} {m : Stream}

/-! ## Stream words fire -/

theorem recR_fires {n : Nat} (he : exec i s = recR o n s) (h : Fires s i o.g w x) :
    let f : Flight := { s.jobOf w x with plan := recParts (s.jobOf w x).sa.toNat n }
    exec i s = .next (memPost f (s.handed w o.g f)) :=
  he.trans (fireJob_ok h rfl)

/-- The flight of a `PREF`: it ends 2 fc later where the translation is held (R249). -/
def State.prefFlight (s : State) (w : Who) (x : Word) : Flight :=
  let j := s.jobOf w x
  if s.taken.held j then { j with after := s.fc + 2, aux := [1] } else j

theorem exec_pref (o : FormR) (s : State) : exec (.pref o) s = execPref o s := rfl

theorem pref_fires (h : Fires s (.pref o) o.g w x) :
    let f := s.prefFlight w x
    exec (.pref o) s = .next (((s.handed w o.g f).prefAsk f).accept f) := by
  refine (exec_pref o s).trans (fireJob_ok h (j := s.prefFlight w x) ?_)
  unfold State.prefFlight
  dsimp only
  split <;> rfl

/-! ## `SOPEN` (R221, R246) -/

/-- A stream is armed with its descriptor, where that keeps R221; otherwise `SOPEN` faults. -/
def State.armStream (s : State) (p : Page) (me : Me) (f : Flight) (si : Nat) (d : SDesc) (cap : Option ShapeHdr) : State :=
  if d.bad (d.eff cap (d.xf me)) (d.xf me) (p.streamNet si) then s.flightFault f (sdescFault f.sa.toNat)
  else (s.modStream f.who.page si fun m => { m with valid := true }).perform f Writes.none ((d.eff cap (d.xf me)).rows != 0)
    false []

/-- A stream is armed or refused as its descriptor keeps R221 or not. -/
theorem armStream_cases (s : State) (p : Page) (me : Me) (f : Flight) (si : Nat) (d : SDesc) (cap : Option ShapeHdr) :
    (d.bad (d.eff cap (d.xf me)) (d.xf me) (p.streamNet si) = true →
      s.armStream p me f si d cap = s.flightFault f (sdescFault f.sa.toNat)) ∧
    (d.bad (d.eff cap (d.xf me)) (d.xf me) (p.streamNet si) = false →
      s.armStream p me f si d cap = (s.modStream f.who.page si fun m => { m with valid := true }).perform f Writes.none
        ((d.eff cap (d.xf me)).rows != 0) false []) :=
  ⟨fun hbad => if_pos hbad, fun hgood => if_neg (by rw [hgood]; decide)⟩

/-- A stream has taken a new descriptor and is not armed yet. -/
def State.openStream (s : State) (pg si : Nat) (d : SDesc) : State :=
  (s.dropAux pg si).modStream pg si fun m => m.opened d false

section Open

variable (hw : f.word = packR 0x5C fn o) (hp : s.page? f.who.page = some p) (hme : s.me? f.who.page (o.d.toNat / 4) = some me)
  (hm : s.stream? f.who.page o.d.toNat = some m)
include hw hp hme hm

theorem sopenStep_busy (haux : f.aux ≠ [1]) (hvalid : m.valid = true) :
    s.sopenStep f = s.flightFault f { cls := clsRange, code := 0x01D, opnd := o.d.toNat } := by
  simp only [State.sopenStep, field_d_word hw, hp, hme, hm, if_neg haux, hvalid, if_true]

section Free

variable (haux : f.aux ≠ [1]) (hfree : m.valid = false) (hread : f.HasRead)
include haux hfree hread

theorem sopenStep_plain (hshape : (sdescOf f.bytes).shape = 0) :
    let d := sdescOf f.bytes
    s.sopenStep f = (s.openStream f.who.page o.d.toNat d).armStream p me f o.d.toNat d none := by
  simp only [State.sopenStep, field_d_word hw, hp, hme, hm, if_neg haux, hfree, Bool.false_eq_true, if_false, withRec_read hread,
    if_pos hshape]
  rfl

/-- The header of a shaped stream is asked for first (R418). -/
theorem sopenStep_shaped (hshape : (sdescOf f.bytes).shape ≠ 0) :
    let pg := f.who.page
    let si := o.d.toNat
    let d := sdescOf f.bytes
    s.sopenStep f = (((s.openStream pg si d).modFlight f.fid fun f => { f with aux := [1] }).modStream pg si fun m =>
      { m with hdrAt := some 0 }).askHeader pg si { m with desc := d } := by
  simp only [State.sopenStep, field_d_word hw, hp, hme, hm, if_neg haux, hfree, Bool.false_eq_true, if_false, withRec_read hread,
    if_neg hshape]
  rfl

end Free

theorem sopenStep_header (haux : f.aux = [1]) (hcap : m.cap.isSome = true) :
    s.sopenStep f = s.armStream p me f o.d.toNat m.desc m.cap := by
  simp only [State.sopenStep, field_d_word hw, hp, hme, hm, if_pos haux, hcap, if_true]
  rfl

theorem sopenStep_awaits_header (haux : f.aux = [1]) (hcap : m.cap = none) : s.sopenStep f = s := by
  simp only [State.sopenStep, field_d_word hw, hp, hme, hm, if_pos haux, hcap, Option.isSome_none, Bool.false_eq_true, if_false]

end Open

theorem sopen_performed {t : State} (h : s.Performing (.sopen o) f) (hs : f.word = packR 0x5C 0 o → s.sopenStep f = t) :
    exec (.instructionPerformed f.fid) s = .next t :=
  performed_word h rfl (fun hw => step_sopen (opcOf_word hw)) hs

/-! ## `SCTL` (R246) -/

/-- Rows that an open stream has. -/
def Stream.rowsOf (m : Stream) (me : Me) : Nat := (m.desc.eff m.cap (m.desc.xf me)).rows

/-- A stream closed. -/
def Stream.closed (m : Stream) : Stream :=
  { m with valid := false, eos := true, buf := [], todo := if m.desc.isStore then m.todo else []
           desc := { m.desc with flags := m.desc.flags / 2 * 2 }, reported := m.reported || m.sink }

/-- A stream moved to a cursor: nothing of what it has read ahead stays, and if it starts afresh nothing of its windows. -/
def Stream.movedTo (m : Stream) (c : Cursor) (fresh : Bool) : Stream :=
  { m with cur := c, ask := c, buf := [], todo := if m.desc.isStore then m.todo else [], eos := m.eos && m.desc.isStore
           win := if fresh then [] else m.win, dec := if fresh then none else m.dec, pat := (0, 0) }

/-- A cursor `n` rows on, in the tile of a header that has been sent only where the tile is the same. -/
def Stream.skipped (m : Stream) (n : Nat) : Cursor :=
  { m.cur with row := m.cur.row + n, back := if n = 0 then m.cur.back else none
               hdr := m.cur.hdr && (m.cur.row + n) / m.desc.tile == m.cur.row / m.desc.tile }

section Control

variable (hw : f.word = packR 0x5D fn o) (hme : s.me? f.who.page (o.d.toNat / 4) = some me)
  (hm : s.stream? f.who.page o.d.toNat = some m)
include hw hme hm

theorem sctlStep_not_open (hvalid : m.valid = false) :
    s.sctlStep f = s.flightFault f { cls := clsRange, code := 0x01C, opnd := o.d.toNat } := by
  simp only [State.sctlStep, field_d_word hw, hme, hm, hvalid, Bool.not_false, if_true]
  rfl

variable (hvalid : m.valid = true)
include hvalid

theorem sctlStep_close (hfn : fn = 0) :
    s.sctlStep f = (s.modStream f.who.page o.d.toNat Stream.closed).perform f Writes.none (m.rowsOf me - m.cur.row != 0) false
      [] := by
  subst hfn
  simp only [State.sctlStep, field_d_word hw, hme, hm, hvalid, Bool.not_true, Bool.false_eq_true, if_false, fnOf_word hw]
  rfl

theorem sctlStep_rewind (hfn : fn = 1) :
    s.sctlStep f = ((s.dropAux f.who.page o.d.toNat).modStream f.who.page o.d.toNat fun n =>
      n.movedTo { m.cur with row := 0, back := none, hdr := false } true).perform f Writes.none (m.rowsOf me != 0) false [] := by
  subst hfn
  simp only [State.sctlStep, field_d_word hw, hme, hm, hvalid, Bool.not_true, Bool.false_eq_true, if_false, fnOf_word hw]
  rfl

theorem sctlStep_skip (hfn : fn = 2) :
    let left := m.rowsOf me - m.cur.row
    let n := min f.sa.toNat left
    s.sctlStep f = (s.modStream f.who.page o.d.toNat fun q => q.movedTo (m.skipped n) false).perform f Writes.none (left - n != 0)
      false [] := by
  subst hfn
  simp only [State.sctlStep, field_d_word hw, hme, hm, hvalid, Bool.not_true, Bool.false_eq_true, if_false, fnOf_word hw]
  rfl

end Control

theorem sctl_performed {t : State} (h : s.Performing i f) (hi : encode i = some (packR 0x5D fn o))
    (hs : f.word = packR 0x5D fn o → s.sctlStep f = t) : exec (.instructionPerformed f.fid) s = .next t :=
  performed_word h hi (fun hw => step_sctl (opcOf_word hw)) hs

/-! ## `PREF` (R249) -/

theorem pref_performed (h : s.Performing (.pref o) f) :
    (∀ v l, f.aux = v :: l → exec (.instructionPerformed f.fid) s = .next (s.perform f Writes.none (v == 1) false [])) ∧
    (f.aux = [] → exec (.instructionPerformed f.fid) s = .next (if f.stage = 0 then s.prefAsk f else s)) := by
  refine ⟨fun v l haux => ?_, fun haux => ?_⟩ <;>
    refine performed_word (opc := 0x61) (fn := 0) h rfl (fun hw => step_pref (opcOf_word hw)) fun _ => ?_ <;>
    simp only [State.prefStep, haux]

/-! ## `XFORM` (R250) -/

/-- A load stream whose rows come in through the side's transform. -/
def Stream.transformed (m : Stream) (store : Bool) : Bool := m.desc.flags.testBit 2 && !m.desc.isStore && !store

/-- A stream once its ME has a new transform on one side: what it has read ahead under the old one it reads again. -/
def Stream.retransformed (m : Stream) (store : Bool) : Stream :=
  let m := if m.desc.isStore == store then { m with pat := (0, 0) } else m
  if m.transformed store then { m with buf := [], todo := [], ask := m.cur, dec := none } else m

/-- The rows that the transformed load streams of an ME have asked for are dropped. -/
def State.dropTransformed (s : State) (me : Me) (pg mi : Nat) (store : Bool) : State :=
  (List.range 4).foldl (fun s i =>
    if ((me.streams[i]?).map fun m => m.transformed store).getD false then s.dropStr pg (mi * 4 + i) else s) s

theorem any_partly_issued {store : Bool}
    (hquiet : ∀ m ∈ me.streams, m.valid = true → m.desc.isStore = true → store = true → m.todo = []) :
    (me.streams.any fun m => m.valid && m.desc.isStore && store && !m.todo.isEmpty) = false := by
  simpa using hquiet

section Xform

variable (hw : f.word = packR 0x64 fn o) (hme : s.me? f.who.page (o.d.toNat / 2) = some me)
include hw hme

/-- `XFORM` waits for the stores of its side that are partly issued. -/
theorem xformStep_waits
    (hstore : ∃ m ∈ me.streams, m.valid = true ∧ m.desc.isStore = true ∧ (o.d.toNat % 2 == 1) = true ∧ m.todo ≠ []) :
    s.xformStep f = s := by
  have hany : (me.streams.any fun m => m.valid && m.desc.isStore && o.d.toNat % 2 == 1 && !m.todo.isEmpty) = true := by
    simpa [and_assoc] using hstore
  simp only [State.xformStep, field_d_word hw, hme, hany, if_true]

section Quiet

variable (hquiet : ∀ m ∈ me.streams, m.valid = true → m.desc.isStore = true → (o.d.toNat % 2 == 1) = true → m.todo = [])
  (hread : f.HasRead)
include hquiet hread

theorem xformStep_bad (hbad : xfBad (xfOf f.bytes) (o.d.toNat % 2 == 1) = true) :
    s.xformStep f = s.flightFault f (sdescFault f.sa.toNat) := by
  simp only [State.xformStep, field_d_word hw, hme, any_partly_issued hquiet, Bool.false_eq_true, if_false, withRec_read hread,
    hbad, if_true]

theorem xformStep_installs (hgood : xfBad (xfOf f.bytes) (o.d.toNat % 2 == 1) = false) :
    let store := o.d.toNat % 2 == 1
    let t := xfOf f.bytes
    let mi := o.d.toNat / 2
    s.xformStep f = ((s.dropTransformed me f.who.page mi store).modMe f.who.page mi fun m =>
      { m with rd := if store then m.rd else t, wr := if store then t else m.wr
               streams := m.streams.map fun m => m.retransformed store }).perform f Writes.none true false [] := by
  simp only [State.xformStep, field_d_word hw, hme, any_partly_issued hquiet, Bool.false_eq_true, if_false, withRec_read hread,
    hgood]
  rfl

end Quiet

end Xform

theorem xform_performed {t : State} (h : s.Performing (.xform o) f) (hs : f.word = packR 0x64 0 o → s.xformStep f = t) :
    exec (.instructionPerformed f.fid) s = .next t :=
  performed_word h rfl (fun hw => step_xform (opcOf_word hw)) hs

/-! ## The obligation -/

/-- Settles O38. Each clause is the equation of its word. How many rows a stream has read ahead, and so reads again after `XFORM`,
is the model's choice (log 85). -/
theorem streamWords : Obligations.StreamWords := by
  unfold Obligations.StreamWords
  intro o s w x f p me m j reads soon pref pg si rows left desc step read d arm skip moved
  have arms {u : State} {d : SDesc} {cap : Option ShapeHdr} (hs : step = .next (u.armStream p me f si d cap)) :
      arm u d cap := by
    obtain ⟨hbad, hgood⟩ := armStream_cases u p me f si d cap
    exact ⟨fun h => hs.trans (congrArg _ (hbad h)), fun h => hs.trans (congrArg _ (hgood h))⟩
  refine ⟨?reads, ?soon, pref_fires, fun hp hme hm => ⟨fun h => ⟨?busy, ?free, ?header⟩, ?notOpen,
    fun hvalid => ⟨?close, ?rewind, ?skip⟩⟩, pref_performed,
    fun h hme => ⟨?waits, fun hquiet hread => ⟨?refuses, ?installs⟩⟩⟩
  case reads =>
    simp only [List.forall_mem_cons, List.not_mem_nil, false_imp_iff, implies_true, and_true]
    exact ⟨fun h => recR_fires rfl h, fun h => recR_fires rfl h⟩
  case soon =>
    simp only [List.forall_mem_cons, List.not_mem_nil, false_imp_iff, implies_true, and_true]
    exact ⟨fun h => soonR_ok false h, fun h => soonR_ok false h, fun h => soonR_ok false h⟩
  case busy => exact fun haux hvalid => sopen_performed h fun hw => sopenStep_busy hw hp hme hm haux hvalid
  case free =>
    exact fun haux hfree hread =>
      ⟨fun hshape => arms (sopen_performed h fun hw => sopenStep_plain hw hp hme hm haux hfree hread hshape),
        fun hshape => sopen_performed h fun hw => sopenStep_shaped hw hp hme hm haux hfree hread hshape⟩
  case header =>
    exact fun haux => ⟨fun hcap => arms (sopen_performed h fun hw => sopenStep_header hw hp hme hm haux hcap),
      fun hcap => sopen_performed h fun hw => sopenStep_awaits_header hw hp hme hm haux hcap⟩
  case notOpen =>
    simp only [List.forall_mem_cons, List.not_mem_nil, false_imp_iff, implies_true, and_true]
    exact ⟨fun h hvalid => sctl_performed h rfl fun hw => sctlStep_not_open hw hme hm hvalid,
      fun h hvalid => sctl_performed h rfl fun hw => sctlStep_not_open hw hme hm hvalid,
      fun h hvalid => sctl_performed h rfl fun hw => sctlStep_not_open hw hme hm hvalid⟩
  case close => exact fun h => sctl_performed h rfl fun hw => sctlStep_close hw hme hm hvalid rfl
  case rewind => exact fun h => sctl_performed h rfl fun hw => sctlStep_rewind hw hme hm hvalid rfl
  case skip => exact fun h => sctl_performed h rfl fun hw => sctlStep_skip hw hme hm hvalid rfl
  case waits => exact fun hstore => xform_performed h fun hw => xformStep_waits hw hme hstore
  case refuses => exact fun hbad => xform_performed h fun hw => xformStep_bad hw hme hquiet hread hbad
  case installs => exact fun hgood => xform_performed h fun hw => xformStep_installs hw hme hquiet hread hgood

end Sys2Proof.Machine
end

section
/-!
SUPPORT. `LDR` (R248): what it checks of the shape that it captures as it fires, and the token that it places next.
-/

set_option Elab.async false

namespace Sys2Proof.Machine

variable {s : State} {w : Who} {x : Word} {o : FormR} {f : Flight} {h : ShapeHdr} {kn : List (Nat × Nat)}

/-! ## Firing -/

/-- The flight of a `LDR` with the shape that its B names captured. -/
def State.captured (s : State) (w : Who) (x : Word) (o : FormR) : Flight := captureShape o.b.toNat s.taken (s.jobOf w x)

/-- The flight of a `LDR` that goes on: nothing emitted or asked for yet, and due in the next fc. -/
def State.ldrFlight (s : State) (w : Who) (x : Word) (o : FormR) : Flight :=
  { s.captured w x o with
    holds := (s.captured w x o).holds ++ destHolds o.d.toNat, aux := [0, 0, 0, 0], after := s.fc + 1 }

theorem exec_ldr (o : FormR) (s : State) : exec (.ldr o) s = execLdr o s := rfl

section Fires

variable (hf : Fires s (.ldr o) o.g w x)
include hf

theorem tyOf_ldr : tyOf x = o.ty.toNat := by
  have ⟨_, hx, _⟩ := hf
  rw [word_eq hx (opc := 0x60) (fn := 0) rfl, tyOf_packR]

theorem ldr_unbound (hcap : (s.captured w x o).cap = none) :
    exec (.ldr o) s = .next (s.taken.raise w x { cls := clsShape, code := 0x030 }) := by
  unfold State.captured at hcap
  refine (exec_ldr o s).trans (fireJob_error hf ?_)
  simp only [hcap]
  rfl

variable {addr win : Nat} {bnd : List Nat} (hcap : (s.captured w x o).cap = some (h, addr, win, bnd))
include hcap

theorem ldr_other_type (hty : h.ty ≠ o.ty.toNat) :
    exec (.ldr o) s = .next (s.taken.raise w x { cls := clsFmt, code := 5, opnd := h.ty }) := by
  unfold State.captured at hcap
  refine (exec_ldr o s).trans (fireJob_error hf ?_)
  simp only [hcap, tyOf_ldr hf, if_pos hty]

variable (hty : h.ty = o.ty.toNat)
include hty

theorem ldr_too_wide (hwide : 512 < h.width * tyWidth o.ty.toNat) :
    exec (.ldr o) s = .next (s.taken.raise w x { cls := clsRange, code := 0x01C, opnd := h.width }) := by
  unfold State.captured at hcap
  refine (exec_ldr o s).trans (fireJob_error hf ?_)
  simp only [hcap, tyOf_ldr hf, if_neg (not_not_intro hty), if_pos hwide]
  rfl

variable (hfits : h.width * tyWidth o.ty.toNat ≤ 512)
include hfits

theorem ldr_misaligned (halign : (s.captured w x o).sa.toNat % (tyWidth o.ty.toNat / 8) ≠ 0) :
    exec (.ldr o) s =
      .next (s.taken.raise w x { cls := clsAlign, code := 4, opnd := (s.captured w x o).sa.toNat }) := by
  unfold State.captured at hcap halign ⊢
  refine (exec_ldr o s).trans (fireJob_error hf ?_)
  simp only [hcap, tyOf_ldr hf, if_neg (not_not_intro hty), if_neg (Nat.not_lt.mpr hfits), alignFault_misaligned halign]

theorem ldr_fires (halign : (s.captured w x o).sa.toNat % (tyWidth o.ty.toNat / 8) = 0) :
    exec (.ldr o) s = .next (jobPost (s.ldrFlight w x o) (s.handed w o.g (s.ldrFlight w x o))) := by
  unfold State.captured at hcap halign
  refine (exec_ldr o s).trans (fireJob_ok hf (j := s.ldrFlight w x o) ?_)
  simp only [State.ldrFlight, State.captured, hcap, tyOf_ldr hf, if_neg (not_not_intro hty), if_neg (Nat.not_lt.mpr hfits),
    alignFault_aligned halign]
  rfl

end Fires

/-! ## A shape of no rows -/

section NoRows

variable (hrows : h.rows = 0)
include hrows

theorem ldrToken_end_no_rows (hhdr : f.ldrAt.hdr = true) (hseg : h.segs ≤ f.ldrAt.seg) :
    ldrToken f h kn = some (⟨tagEos, 0⟩, f.ldrAt, true) := by
  simp only [ldrToken, hhdr, Bool.not_true, Bool.false_eq_true, if_false, hrows, Nat.not_lt.mpr hseg, false_and, if_true]

variable (hrow : f.ldrAt.row = 0)
include hrow

theorem ldrToken_header_no_rows (hhdr : f.ldrAt.hdr = false) :
    ldrToken f h kn = some (headerTok 2 h.strict none 0 h.ty 0 h.width, { f.ldrAt with hdr := true }, false) := by
  simp only [ldrToken, hhdr, Bool.not_false, if_true, hrows, hrow, Nat.zero_min, Nat.sub_zero]

theorem ldrToken_empty_segment (hhdr : f.ldrAt.hdr = true) (hent : ∀ i, (entryOf kn i).getD 0 = 0)
    (hseg : f.ldrAt.seg < h.segs) :
    ldrToken f h kn = some (companion true f.ldrAt.seg 0, { f.ldrAt with seg := f.ldrAt.seg + 1 }, false) := by
  simp only [ldrToken, hhdr, Bool.not_true, Bool.false_eq_true, if_false, hrows, hrow, hent, hseg, true_or, and_self, if_true,
    beq_self_eq_true]

end NoRows

/-! ## A row whose bytes have come -/

/-- What has come of a row's bytes, part by part. -/
def Flight.rowGot (f : Flight) (h : ShapeHdr) (k : Nat) : List (Option (List Byte)) :=
  (List.range (ldrParts h f.sa.toNat k).length).map fun i => alGet (k * 4 + i) f.got

section Row

variable {k ask : Nat} (hcome : ∀ i < (ldrParts h f.sa.toNat k).length, ∃ b, alGet (k * 4 + i) f.got = some b ∧ b ≠ [])
include hcome

theorem rowGot_all_isSome : (f.rowGot h k).all Option.isSome = true := by
  simp only [Flight.rowGot, List.all_map, List.all_eq_true, List.mem_range, Function.comp_apply]
  intro i hi
  obtain ⟨b, hb, -⟩ := hcome i hi
  rw [hb]
  rfl

/-- No part of the row met poison, which is kept as a part without bytes (R239). -/
theorem rowGot_no_poison :
    (List.range (ldrParts h f.sa.toNat k).length).find? (fun i => (f.rowGot h k).getD i none == some []) = none := by
  simp only [List.find?_eq_none, List.mem_range]
  intro i hi
  obtain ⟨b, hb, hne⟩ := hcome i hi
  simp [Flight.rowGot, List.getD_eq_getElem?_getD, hi, hb, hne]

theorem ldrToken_row (hat : f.ldrAt = ⟨k, ask, true, h.segs⟩) (hk : k < h.rows) :
    let n := leNat ((f.rowGot h k).map fun b => b.getD []).flatten
    let closes := decide (k + 1 = min h.rows ((k / 16 + 1) * 16))
    ldrToken f h kn = some
      (⟨if h.rows ≤ k + 1 then tagEos else if closes then tagEot else tagEor,
        packLanes (tyWidth h.ty) (tab h.width fun j => n / 2 ^ (tyWidth h.ty * j) % 2 ^ tyWidth h.ty)⟩,
       ⟨k + 1, ask, !closes, h.segs⟩, decide (h.rows ≤ k + 1)) := by
  have hall := rowGot_all_isSome hcome
  have hgood := rowGot_no_poison hcome
  have hrows : ¬ h.rows = 0 := by omega
  unfold Flight.rowGot at hall hgood ⊢
  simp only [ldrToken, hat, Bool.not_true, Bool.false_eq_true, if_false, Nat.lt_irrefl, false_and, hrows, hall, if_true, hgood,
    decide_eq_true_eq]

end Row

/-! ## The obligation -/

/-- Settles O39. Firing makes the checks in the order of `execLdr`; what is emitted is the next token (`ldrToken`) of a shape of
no rows, and of a row all of whose parts have come. -/
theorem raggedLoad : Obligations.RaggedLoad := by
  unfold Obligations.RaggedLoad
  intro o s w x h addr win bnd f kn k c ew run at_
  refine ⟨fun hf => ⟨ldr_unbound hf, fun hcap => ⟨ldr_other_type hf hcap, fun hty => ⟨ldr_too_wide hf hcap hty,
      ldr_misaligned hf hcap hty, ldr_fires hf hcap hty⟩⟩⟩,
    fun hhdr hrow hrows => ldrToken_header_no_rows hrows hrow hhdr,
    fun hhdr hrow hrows hent => ⟨ldrToken_empty_segment hrows hrow hhdr hent, ldrToken_end_no_rows hrows hhdr⟩,
    fun hat hk hcome => ?_⟩
  have hrow := ldrToken_row (kn := kn) hcome hat hk
  rw [Flight.rowGot, List.map_map] at hrow
  exact hrow

end Sys2Proof.Machine
end

section
/-!
SUPPORT. Link words (R376, R378, R384): their firing, and one equation for each thing that `TURN`, `QRY` and `HOLD` come to.
-/

set_option Elab.async false

namespace Sys2Proof.Machine

variable {s : State} {i : Instr} {w : Who} {x : Word} {o : FormR} {f : Flight} {fn : BitVec 3} {lo hi : Nat}

/-! ## Link words fire (R384) -/

theorem linkR_fires (he : exec i s = linkR o s) (h : Fires s i o.g w x) :
    let j := s.jobOf w x
    let soon := jobHolds j o.d.toNat (s.fc + 1)
    (11 < j.sa.toNat →
      exec i s = .next (s.taken.raise w x { cls := clsRange, code := 0x033, opnd := j.sa.toNat })) ∧
    (j.sa.toNat ≤ 11 → exec i s = .next (jobPost soon (s.handed w o.g soon))) :=
  ⟨fun hfar => he.trans (fireJob_error h (if_pos hfar)), fun hnear => he.trans (fireJob_ok h (if_neg (Nat.not_lt.mpr hnear)))⟩

theorem link_performed {t : State} (h : s.Performing i f) (hi : encode i = some (packR 0x6D fn o))
    (hs : fnOf f.word = fn.toNat → s.linkStep f = t) : exec (.instructionPerformed f.fid) s = .next t :=
  performed_word h hi (fun hw => step_link (opcOf_word hw)) fun hw => hs (fnOf_word hw)

theorem linkStep_turn (hfn : fnOf f.word = 0) : s.linkStep f = s.turnStep f := by
  simp only [State.linkStep, hfn]

theorem linkStep_qry (hfn : fnOf f.word = 1) :
    s.linkStep f = s.performVal f (w64 (s.link f.sa.toNat).word) ((s.link f.sa.toNat).u != 0) (s.link f.sa.toNat).hold.isSome := by
  simp only [State.linkStep, hfn]

theorem linkStep_hold (hfn : fnOf f.word = 2) : s.linkStep f = s.holdStep f := by
  simp only [State.linkStep, hfn]

/-! ## `TURN` (R376) -/

/-- The requests of the flight's partition in the FIFO of its link. -/
def State.turnsQueued (s : State) (f : Flight) : Nat := ((s.link f.sa.toNat).fifo.filter fun q => q.1 == f.ptn).length

section Turn

variable (hmay : s.mayIssue f = true)
include hmay

theorem turnStep_no_grant (hgrant : s.grantOn f.ptn f.sa.toNat = none) : s.turnStep f = s.refuseTurn f f.sa.toNat 1 := by
  simp only [State.turnStep, hmay, hgrant, Bool.not_true, Bool.false_eq_true, if_false]

section Granted

variable (hgrant : s.grantOn f.ptn f.sa.toNat = some (lo, hi))
include hgrant

theorem turnStep_outside (hout : f.sb.toNat < lo ∨ hi < f.sb.toNat) : s.turnStep f = s.refuseTurn f f.sa.toNat 2 := by
  simp only [State.turnStep, hmay, hgrant, Bool.not_true, Bool.false_eq_true, if_false, if_pos hout]

variable (hin : ¬(f.sb.toNat < lo ∨ hi < f.sb.toNat))
include hin

theorem turnStep_own_share_full (hfull : 8 ≤ s.turnsQueued f) : s.turnStep f = s.refuseTurn f f.sa.toNat 3 := by
  unfold State.turnsQueued at hfull
  simp only [State.turnStep, hmay, hgrant, Bool.not_true, Bool.false_eq_true, if_false, if_neg hin, if_pos hfull]

theorem turnStep_enters (hown : s.turnsQueued f < 8) (hroom : (s.link f.sa.toNat).fifo.length < 16) :
    s.turnStep f = (s.modLink f.sa.toNat fun x => { x with fifo := x.fifo ++ [(f.ptn, f.sb.toNat)] }).linkStatus f 0 := by
  unfold State.turnsQueued at hown
  simp only [State.turnStep, hmay, hgrant, Bool.not_true, Bool.false_eq_true, if_false, if_neg hin,
    if_neg (Nat.not_le.mpr hown), if_neg (Nat.not_le.mpr hroom)]

end Granted

end Turn

/-! ## `HOLD` (R378) -/

section Take

variable (hb : f.sb = 1)
include hb

theorem holdStep_no_grant (hgrant : s.grantOn f.ptn f.sa.toNat = none) : s.holdStep f = s.linkStatus f 1 := by
  simp only [State.holdStep, if_pos hb, hgrant, Option.isNone_none, if_true]

theorem holdStep_takes (hgrant : s.grantOn f.ptn f.sa.toNat = some (lo, hi)) (hfree : (s.link f.sa.toNat).hold = none)
    (hown : ∀ q ∈ (s.link f.sa.toNat).fifo, q.1 = f.ptn) (hturn : s.holdTurn f = true) :
    s.holdStep f = (s.modLink f.sa.toNat fun x => { x with hold := some (f.ptn, s.fc) }).linkStatus f 0 := by
  have hothers : (s.link f.sa.toNat).fifo.any (fun q => q.1 != f.ptn) = false := by simpa using hown
  simp only [State.holdStep, if_pos hb, hgrant, Option.isNone_some, hfree, hothers, hturn]
  rfl

end Take

theorem holdStep_releases {t : Nat} (hb : f.sb = 0) (hheld : (s.link f.sa.toNat).hold = some (f.ptn, t)) :
    s.holdStep f = (s.modLink f.sa.toNat fun x => x.unhold s.fc).linkStatus f 0 := by
  have hb1 : ¬ f.sb = 1 := by rw [hb]; decide
  have hmine : f.sb = 0 ∧ ((s.link f.sa.toNat).hold.map (·.1)) = some f.ptn := ⟨hb, by rw [hheld]; rfl⟩
  simp only [State.holdStep, if_neg hb1, if_pos hmine]

theorem holdStep_not_held (hb : f.sb = 0) (hheld : ((s.link f.sa.toNat).hold.map (·.1)) ≠ some f.ptn) :
    s.holdStep f = s.linkStatus f 4 := by
  have hb1 : ¬ f.sb = 1 := by rw [hb]; decide
  have hother : ¬(f.sb = 0 ∧ ((s.link f.sa.toNat).hold.map (·.1)) = some f.ptn) := fun ⟨_, hmine⟩ => hheld hmine
  simp only [State.holdStep, if_neg hb1, if_neg hother]

/-- Settles O45. Each clause is the equation of its word. -/
theorem linkWords : Obligations.LinkWords := by
  unfold Obligations.LinkWords
  intro o s w x f lo hi j soon l k step status refuse word
  simp only [List.forall_mem_cons, List.not_mem_nil, false_imp_iff, implies_true, and_true]
  refine ⟨⟨linkR_fires rfl, linkR_fires rfl, linkR_fires rfl⟩, fun h hmay => ?turn,
    fun h => link_performed (fn := 1) h rfl linkStep_qry, fun h => ?hold⟩
  case turn =>
    have turns {t : State} (hs : s.turnStep f = t) : step = .next t :=
      link_performed (fn := 0) h rfl fun hfn => (linkStep_turn hfn).trans hs
    refine ⟨fun hgrant => turns (turnStep_no_grant hmay hgrant), fun hgrant =>
      ⟨fun hout => turns (turnStep_outside hmay hgrant hout), fun hlo hhi => ?_⟩⟩
    have hin : ¬(f.sb.toNat < lo ∨ hi < f.sb.toNat) := by omega
    exact ⟨fun hfull => turns (turnStep_own_share_full hmay hgrant hin hfull),
      fun hown hroom => turns (turnStep_enters hmay hgrant hin hown hroom)⟩
  case hold =>
    have holds {t : State} (hs : s.holdStep f = t) : step = .next t :=
      link_performed (fn := 2) h rfl fun hfn => (linkStep_hold hfn).trans hs
    exact ⟨fun hb hgrant => holds (holdStep_no_grant hb hgrant),
      fun hb hgrant hfree hown hturn => holds (holdStep_takes hb hgrant hfree hown hturn),
      fun t hb hheld => holds (holdStep_releases hb hheld), fun hb hheld => holds (holdStep_not_held hb hheld)⟩

end Sys2Proof.Machine
end

section
/-!
SUPPORT. Copy-engine and near-memory words (R367, R374, R387): their firing, and what each comes to at its engine.
-/

set_option Elab.async false

namespace Sys2Proof.Machine

variable {s : State} {i : Instr} {w : Who} {x : Word} {o : FormR} {f : Flight} {opc : BitVec 7} {fn : BitVec 3}

/-! ## Engine words fire -/

/-- The flight of a command word, which reads its record from the next fc on. -/
def State.engFlight (s : State) (w : Who) (x : Word) (o : FormR) : Flight :=
  { jobHolds (s.jobOf w x) o.d.toNat (s.fc + 1) with plan := recParts (s.jobOf w x).sa.toNat 64 }

section Commands

variable {nm : Bool} (he : exec i s = engR o nm s) (h : Fires s i o.g w x)
include he h

theorem engR_misaligned (hbad : (s.jobOf w x).sa.toNat % 64 ≠ 0) :
    exec i s = .next (s.taken.raise w x { cls := clsAlign, code := 9, opnd := (s.jobOf w x).sa.toNat }) :=
  he.trans (fireJob_error h (if_pos hbad))

variable (hgood : (s.jobOf w x).sa.toNat % 64 = 0)
include hgood

theorem engR_no_engine (hnm : nm = false) (hnone : s.taken.noEng w (s.jobOf w x).ptn (s.jobOf w x).sb.toNat = true) :
    exec i s = .next (s.taken.raise w x { cls := clsRange, code := 0x02E, opnd := (s.jobOf w x).sb.toNat }) := by
  refine he.trans (fireJob_error h ?_)
  simp only [if_neg (not_not_intro hgood), hnm, hnone, Bool.not_false, and_self, if_true]

theorem engR_ordered (hnm : nm = true) (hord : s.taken.ttOrdered (s.jobOf w x).tt = true) :
    exec i s = .next (s.taken.raise w x { cls := clsAtomic, code := 3, opnd := (s.jobOf w x).sa.toNat }) := by
  refine he.trans (fireJob_error h ?_)
  simp only [if_neg (not_not_intro hgood), hnm, hord, Bool.not_true, Bool.false_eq_true, false_and, if_false, and_self, if_true]

theorem engR_fires (hmine : nm = false → s.taken.noEng w (s.jobOf w x).ptn (s.jobOf w x).sb.toNat = false)
    (hfree : nm = true → s.taken.ttOrdered (s.jobOf w x).tt = false)
    (htel : s.taken.telAddr w (s.jobOf w x).asid (s.jobOf w x).sa.toNat .load false = none) :
    exec i s = .next (jobPost (s.engFlight w x o) (s.handed w o.g (s.engFlight w x o))) := by
  refine he.trans (fireJob_ok h ?_)
  have hm : ¬((!nm) = true ∧ s.taken.noEng w (s.jobOf w x).ptn (s.jobOf w x).sb.toNat = true) := by
    rintro ⟨hn, ht⟩
    rw [hmine (by simpa using hn)] at ht
    exact Bool.false_ne_true ht
  have hf : ¬(nm = true ∧ s.taken.ttOrdered (s.jobOf w x).tt = true) := by
    rintro ⟨hn, ht⟩
    rw [hfree hn] at ht
    exact Bool.false_ne_true ht
  simp only [if_neg (not_not_intro hgood), if_neg hm, if_neg hf, htel]
  rfl

end Commands

theorem exec_cpyStat (o : FormR) (s : State) : exec (.cpyStat o) s = execCpyStat o s := rfl

theorem cpyStat_no_engine (h : Fires s (.cpyStat o) o.g w x)
    (hnone : s.taken.noEng w (s.jobOf w x).ptn (s.jobOf w x).sb.toNat = true) :
    exec (.cpyStat o) s = .next (s.taken.raise w x { cls := clsRange, code := 0x02E, opnd := (s.jobOf w x).sb.toNat }) :=
  (exec_cpyStat o s).trans (fireJob_error h (if_pos hnone))

theorem cpyStat_fires (h : Fires s (.cpyStat o) o.g w x)
    (hmine : s.taken.noEng w (s.jobOf w x).ptn (s.jobOf w x).sb.toNat = false) :
    let soon := jobHolds (s.jobOf w x) o.d.toNat (s.fc + 1)
    exec (.cpyStat o) s = .next (jobPost soon (s.handed w o.g soon)) :=
  (exec_cpyStat o s).trans (fireJob_ok h (if_neg (by rw [hmine]; exact Bool.false_ne_true)))

theorem exec_nmcFence (o : FormR) (s : State) : exec (.nmcFence o) s = execNmcFence o s := rfl

theorem nmcFence_fires (h : Fires s (.nmcFence o) o.g w x) :
    let j := s.jobOf w x
    let f : Flight := { j with aux := (s.taken.eng w.port.die 3 j.ptn).q.map (·.qseq), after := s.fc + 1 }
    exec (.nmcFence o) s = .next (jobPost f (s.handed w o.g f)) := by
  have ⟨_, hx, _⟩ := h
  have hopc : opcOf x = 0x7C := opcOf_word (f := s.jobOf w x) (word_eq hx (opc := 0x7C) (fn := 1) rfl)
  exact (exec_nmcFence o s).trans (fireJob_ok h (by rw [if_pos hopc]; rfl))

/-! ## Which engine a word asks (R217, R387) -/

section Word

variable (hw : f.word = packR opc fn o)
include hw

theorem engDie_copy (hopc : opc = 0x7B) : f.engDie = f.who.die := by
  subst hopc
  rw [Flight.engDie, opcOf_word hw]
  rfl

theorem engine_copy (hopc : opc = 0x7B) : f.engine = f.sb.toNat := by
  subst hopc
  rw [Flight.engine, opcOf_word hw]
  rfl

theorem engDie_nmc (hopc : opc = 0x7C) : f.engDie = f.who.port.die := by
  subst hopc
  rw [Flight.engDie, opcOf_word hw]
  rfl

theorem engine_nmc (hopc : opc = 0x7C) : f.engine = 3 := by
  subst hopc
  rw [Flight.engine, opcOf_word hw]
  rfl

end Word

/-! ## At the engine (R367, R374, R387) -/

/-- The engine with flight `f`'s record entered as its last command. -/
def Eng.entered (e : Eng) (f : Flight) (fn : Nat) : Eng :=
  { e with qseq := e.qseq + 1, q := e.q ++ [{ qseq := e.qseq + 1, record := f.bytes, who := f.who, asid := f.asid, ptn := f.ptn
                                              fn := fn, tt := f.tt, ival := f.ival }] }

theorem issueStep_full (hfull : 32 ≤ (s.eng f.engDie f.engine f.ptn).q.length) : s.issueStep f = s := by
  simp only [State.issueStep, if_pos hfull]

theorem issueStep_enters (hroom : (s.eng f.engDie f.engine f.ptn).q.length < 32) (hread : f.HasRead) :
    s.issueStep f = (s.setEng f.engDie f.engine f.ptn ((s.eng f.engDie f.engine f.ptn).entered f (fnOf f.word))).performVal f
      (w64 ((s.eng f.engDie f.engine f.ptn).qseq + 1)) true false := by
  simp only [State.issueStep, if_neg (Nat.not_le.mpr hroom), withRec_read hread]
  rfl

/-- `STAT` is performed with what the engine `e` shows of its queue. -/
def State.engStat (s : State) (f : Flight) (e : Eng) : State :=
  s.performVal f (w64 (e.last * 2 ^ 8 + e.q.length)) (e.last % 2 ^ 56 != 0 || e.q ≠ []) (e.q == [])

theorem engStep_copy (hw : f.word = packR 0x7B fn o) (hfn : fn ≠ 3) : s.engStep f = s.issueStep f := by
  have hopc : opcOf f.word = 0x7B := opcOf_word hw
  have hne : ¬ fnOf f.word = 3 := fnOf_word_ne hw hfn
  simp only [State.engStep, if_pos hopc, if_neg hne]

theorem engStep_copyStat (hw : f.word = packR 0x7B 3 o) : s.engStep f = s.engStat f (s.eng f.who.die f.sb.toNat f.ptn) := by
  have hopc : opcOf f.word = 0x7B := opcOf_word hw
  have hfn : fnOf f.word = 3 := fnOf_word hw
  simp only [State.engStep, if_pos hopc, if_pos hfn, engDie_copy hw rfl, engine_copy hw rfl]
  rfl

section Nmc

variable (hopc : opcOf f.word = 0x7C)
include hopc

theorem engStep_nmcIssue (hfn : fnOf f.word = 0) : s.engStep f = s.issueStep f := by
  simp only [State.engStep, hopc, Nat.reduceEqDiff, if_false, hfn]

theorem engStep_nmcFence (hfn : fnOf f.word = 1)
    (hgone : ∀ n ∈ f.aux, ∀ c ∈ (s.eng f.engDie f.engine f.ptn).q, c.qseq ≠ n) :
    s.engStep f = s.perform f Writes.none (f.aux ≠ []) false [] := by
  have hall : (f.aux.all fun n => (s.eng f.engDie f.engine f.ptn).q.all fun c => c.qseq != n) = true := by simpa using hgone
  simp only [State.engStep, hopc, Nat.reduceEqDiff, if_false, hfn, hall, if_true]

theorem engStep_nmcStat (hfn : fnOf f.word = 2) : s.engStep f = s.engStat f (s.eng f.engDie f.engine f.ptn) := by
  simp only [State.engStep, hopc, Nat.reduceEqDiff, if_false, hfn]
  rfl

end Nmc

theorem copy_performed {t : State} (h : s.Performing i f) (hi : encode i = some (packR 0x7B fn o))
    (hs : f.word = packR 0x7B fn o → s.engStep f = t) : exec (.instructionPerformed f.fid) s = .next t :=
  performed_word h hi (fun hw => step_eng7B (opcOf_word hw)) hs

theorem nmc_performed {t : State} (h : s.Performing i f) (hi : encode i = some (packR 0x7C fn o))
    (hs : f.word = packR 0x7C fn o → s.engStep f = t) : exec (.instructionPerformed f.fid) s = .next t :=
  performed_word h hi (fun hw => step_eng7C (opcOf_word hw)) hs

/-- A command word at the engine `q` of a die: it waits while the queue is full, and enters it once its record is read. -/
theorem issue_performed {die q : Nat} (h : s.Performing i f) (hi : encode i = some (packR opc fn o))
    (hstep : f.word = packR opc fn o → s.performStep f = s.issueStep f)
    (hdie : f.word = packR opc fn o → f.engDie = die) (hq : f.word = packR opc fn o → f.engine = q) :
    let e := s.eng die q f.ptn
    (32 ≤ e.q.length → exec (.instructionPerformed f.fid) s = .next s) ∧
    (e.q.length < 32 → f.plan.length ≤ f.stage → f.left = 0 → exec (.instructionPerformed f.fid) s =
      .next ((s.setEng die q f.ptn (e.entered f fn.toNat)).performVal f (w64 (e.qseq + 1)) true false)) := by
  refine ⟨fun hfull => performed_word h hi hstep fun hw => ?_, fun hroom hissued hleft => performed_word h hi hstep fun hw => ?_⟩
  · exact issueStep_full (by rwa [hdie hw, hq hw])
  · rw [issueStep_enters (by rwa [hdie hw, hq hw]) ⟨hissued, hleft⟩, hdie hw, hq hw, fnOf_word hw]

theorem copy_issue_performed (h : s.Performing i f) (hi : encode i = some (packR 0x7B fn o)) (hfn : fn ≠ 3) :
    let e := s.eng f.who.die f.sb.toNat f.ptn
    (32 ≤ e.q.length → exec (.instructionPerformed f.fid) s = .next s) ∧
    (e.q.length < 32 → f.plan.length ≤ f.stage → f.left = 0 → exec (.instructionPerformed f.fid) s =
      .next ((s.setEng f.who.die f.sb.toNat f.ptn (e.entered f fn.toNat)).performVal f (w64 (e.qseq + 1)) true false)) :=
  issue_performed h hi (fun hw => (step_eng7B (opcOf_word hw)).trans (engStep_copy hw hfn)) (fun hw => engDie_copy hw rfl)
    fun hw => engine_copy hw rfl

/-- Settles O44. Each clause is the equation of its word; a command word is an `engR` that fires and an `issueStep` at its
engine. -/
theorem engineWords : Obligations.EngineWords := by
  unfold Obligations.EngineWords
  intro o s w x f j soon reads waits stop go step enter stat noEngine copies
  simp only [copies, List.cons_append, List.nil_append, List.forall_mem_cons, List.not_mem_nil, false_imp_iff, implies_true,
    and_true]
  have fires {i : Instr} (he : exec i s = engR o false s) (h : Fires s i o.g w x) (ha : j.sa.toNat % 64 = 0) :
      (s.taken.noEng w j.ptn j.sb.toNat = true → stop i noEngine) ∧
      (s.taken.noEng w j.ptn j.sb.toNat = false → s.taken.telAddr w j.asid j.sa.toNat .load false = none → go i reads) :=
    ⟨engR_no_engine he h ha rfl, fun hmine => engR_fires he h ha (fun _ => hmine) nofun⟩
  refine ⟨⟨fun h => engR_misaligned rfl h, fun h => engR_misaligned rfl h, fun h => engR_misaligned rfl h,
      fun h => engR_misaligned rfl h⟩,
    ⟨fires rfl, fires rfl, fires rfl⟩,
    fun h ha => ⟨engR_ordered rfl h ha rfl, fun hfree =>
      engR_fires rfl h ha nofun fun _ => hfree⟩,
    fun h => ⟨cpyStat_no_engine h, cpyStat_fires h⟩, fun h => soonR_ok true h, nmcFence_fires,
    ⟨fun h => copy_issue_performed (fn := 0) h rfl (by decide), fun h => copy_issue_performed (fn := 1) h rfl (by decide),
      fun h => copy_issue_performed (fn := 2) h rfl (by decide)⟩,
    fun h => ?nmcIssue, fun h => copy_performed h rfl engStep_copyStat, fun h => ?nmcStat, fun h hgone => ?nmcFence⟩
  case nmcIssue =>
    exact issue_performed (fn := 0) h rfl
      (fun hw => (step_eng7C (opcOf_word hw)).trans (engStep_nmcIssue (opcOf_word hw) (fnOf_word hw)))
      (fun hw => engDie_nmc hw rfl) fun hw => engine_nmc hw rfl
  case nmcStat =>
    refine nmc_performed (fn := 2) h rfl fun hw => ?_
    rw [engStep_nmcStat (opcOf_word hw) (fnOf_word hw), engDie_nmc hw rfl, engine_nmc hw rfl]
    rfl
  case nmcFence =>
    refine nmc_performed (fn := 1) h rfl fun hw => engStep_nmcFence (opcOf_word hw) (fnOf_word hw) ?_
    rwa [engDie_nmc hw rfl, engine_nmc hw rfl]

end Sys2Proof.Machine
end

section
/-!
SUPPORT. Links and engines at work (R368-R374, R377, R378): what each of their events comes to.
-/

set_option Elab.async false

namespace Sys2Proof.Machine

variable {s : State} {l g die q ptn : Nat} {x : Link} {k : LGroup} {c : Cmd} {rest : List Cmd}

/-! ## Links (R377, R378) -/

theorem link_of_links (hx : s.links[l]? = some x) : s.link l = x := by
  rw [State.link, List.getD_eq_getElem?_getD, hx]
  rfl

theorem links_modLink_same (s : State) (l : Nat) (f : Link → Link) : (s.modLink l f).links[l]? = (s.links[l]?).map f := by
  simp [State.modLink]

/-- A group of a link turns: its FIFO and the request being applied stay as they are, and so does the time. -/
theorem turnGroup_keeps (s : State) (l g : Nat) :
    (s.turnGroup l g).fc = s.fc ∧
    ((s.turnGroup l g).links[l]?).map (fun y => (y.fifo, y.cur)) = (s.links[l]?).map fun y => (y.fifo, y.cur) := by
  refine ⟨rfl, ?_⟩
  rw [State.turnGroup, links_modLink_same, Option.map_map]
  rfl

/-- The chosen groups that are eligible turn. -/
def State.turnEligible (s : State) (l : Nat) (x : Link) (gs : List Nat) : State :=
  gs.foldl (fun s g => if ((x.groups[g]?).map fun q => q.eligible s.fc).getD false then s.turnGroup l g else s) s

theorem turnEligible_keeps (s : State) (l : Nat) (x : Link) (gs : List Nat) :
    (s.turnEligible l x gs).fc = s.fc ∧
    ((s.turnEligible l x gs).links[l]?).map (fun y => (y.fifo, y.cur)) = (s.links[l]?).map fun y => (y.fifo, y.cur) := by
  induction gs generalizing s with
  | nil => exact ⟨rfl, rfl⟩
  | cons g gs ih =>
    rw [State.turnEligible, List.foldl_cons]
    split
    · obtain ⟨hfc, hlink⟩ := turnGroup_keeps s l g
      obtain ⟨hfc', hlink'⟩ := ih (s.turnGroup l g)
      exact ⟨hfc'.trans hfc, hlink'.trans hlink⟩
    · exact ih s

/-- The next request has left the FIFO and stands as the one being applied, where it turns any group. -/
def Link.applied (x : Link) (p n fc : Nat) (more : List (Nat × Nat)) : Link :=
  { x with fifo := more, cur := if x.chosen n fc = [] then none else some (p, n, x.chosen n fc) }

/-- The link with the turn of group `g` over; the request being applied ends with the last group it turns. -/
def Link.turnOver (x : Link) (g : Nat) (k : LGroup) : Link :=
  { x with
    groups := x.groups.set g { k with turning := false, up := !k.up }
    u := if k.up then x.u - 1 else x.u + 1
    turned := x.turned + 1
    cur := match x.cur with
      | some (p, n, gs) => if gs.filter (· != g) = [] then none else some (p, n, gs.filter (· != g))
      | none => none }

section Links

variable (hx : s.links[l]? = some x)
include hx

theorem linkFifoApply_applies {p n : Nat} {more : List (Nat × Nat)} (hcur : x.cur = none) (hfifo : x.fifo = (p, n) :: more)
    (hheld : ∀ h, x.hold = some h → h.1 = p) :
    exec (.linkFifoApply l) s =
      .next ((s.modLink l fun x' => { x' with
        fifo := more, cur := if x.chosen n s.fc = [] then none else some (p, n, x.chosen n s.fc) }).turnEligible l x
          (x.chosen n s.fc)) := by
  have hmine : x.hold.any (fun h => h.1 != p) = false := by
    cases hh : x.hold with
    | none => rfl
    | some h => simp [hheld h hh]
  change execLinkFifoApply l s = _
  simp only [execLinkFifoApply, link_of_links hx, hcur, hfifo, hmine, Bool.false_eq_true, if_false]
  rfl

theorem linkFifoApply_chooses {p n : Nat} {more : List (Nat × Nat)} (hcur : x.cur = none) (hfifo : x.fifo = (p, n) :: more)
    (hheld : ∀ h, x.hold = some h → h.1 = p) :
    ∃ u, exec (.linkFifoApply l) s = .next u ∧ s.fc = u.fc ∧
      (x.chosen n s.fc = [] → u.links[l]? = some { x with fifo := more, cur := none }) ∧
      (x.chosen n s.fc ≠ [] → (u.links[l]?).map (fun y => (y.fifo, y.cur)) = some (more, some (p, n, x.chosen n s.fc))) := by
  have hlink : (s.modLink l fun x' => { x' with
      fifo := more, cur := if x.chosen n s.fc = [] then none else some (p, n, x.chosen n s.fc) }).links[l]? =
      some (x.applied p n s.fc more) := by
    rw [links_modLink_same, hx]
    rfl
  refine ⟨_, linkFifoApply_applies hx hcur hfifo hheld, (turnEligible_keeps (s.modLink l _) ..).1.symm, fun hnone => ?_, fun hsome => ?_⟩
  · rw [hnone] at hlink ⊢
    exact hlink.trans (by rw [Link.applied, hnone]; rfl)
  · rw [(turnEligible_keeps ..).2, hlink, Link.applied, if_neg hsome]
    rfl

theorem groupEligible_turns {p n : Nat} {gs : List Nat} (hk : x.groups[g]? = some k) (hcur : x.cur = some (p, n, gs)) (hg : g ∈ gs)
    (hturn : k.turning = false) (hel : k.eligible s.fc = true) :
    exec (.groupEligible l g) s = .next (s.turnGroup l g) := by
  change execGroupEligible l g s = _
  simp only [execGroupEligible, link_of_links hx, hcur, hk, List.contains_eq_mem, hg, hturn, hel]
  rfl

theorem groupTurnComplete_turns (hk : x.groups[g]? = some k) (hturn : k.turning = true) (hends : k.ends ≤ s.fc) :
    ∃ u y, exec (.groupTurnComplete l g) s = .next u ∧ u.links[l]? = some y ∧
      y.groups[g]? = some { k with turning := false, up := !k.up } ∧ y.turned = x.turned + 1 ∧
      y.u = (if k.up then x.u - 1 else x.u + 1) := by
  have hgo : ¬((!k.turning) = true ∨ s.fc < k.ends) := by
    rw [hturn]
    simpa using hends
  have hlt : g < x.groups.length := (List.getElem?_eq_some_iff.mp hk).1
  refine ⟨s.modLink l fun x => x.turnOver g k, x.turnOver g k, ?_, ?_, List.getElem?_set_self hlt, rfl, rfl⟩
  · change execGroupTurnComplete l g s = _
    simp only [execGroupTurnComplete, link_of_links hx, hk, if_neg hgo]
    rfl
  · rw [links_modLink_same, hx, Option.map_some]

theorem linkHoldExpire_ends {p t : Nat} (hhold : x.hold = some (p, t)) (hdue : t + 47000 ≤ s.fc) :
    ∃ u, exec (.linkHoldExpire l) s = .next u ∧
      u.links[l]? = some { x with hold := none, holdFc := x.holdFc + (s.fc - t) } := by
  refine ⟨s.modLink l fun x => x.unhold s.fc, ?_, ?_⟩
  · change execLinkHoldExpire l s = _
    simp only [execLinkHoldExpire, link_of_links hx, hhold, if_pos hdue]
  · rw [links_modLink_same, hx, Option.map_some, Link.unhold, hhold]

theorem linkHoldExpire_waits {p t : Nat} (hhold : x.hold = some (p, t)) (hearly : s.fc < t + 47000) :
    exec (.linkHoldExpire l) s = .next s := by
  change execLinkHoldExpire l s = _
  simp only [execLinkHoldExpire, link_of_links hx, hhold, if_neg (Nat.not_le.mpr hearly)]

end Links

/-! ## Copy engines (R370-R372) -/

theorem bitAt_zero (n : Nat) : bitAt n 0 = decide (n % 2 = 1) := Nat.testBit_zero n

/-- A copy engine that holds no completion back and whose time has come does not wait. -/
theorem copyEngine_may_go_on {fc after : Nat} (hq : q < 3) (hdue : after ≤ fc) :
    ¬(2 < q ∨ (none : Option (Nat × List Byte)).isSome = true ∨ fc < after) := by
  simp only [Option.isSome_none, Bool.false_eq_true, false_or]
  omega

section Copy

variable (hq : q < 3) (hcmd : (s.eng die q 0).q = c :: rest) (hheld : (s.eng die q 0).held = none)
  (hdue : (s.eng die q 0).after ≤ s.fc)
include hq hcmd hheld hdue

theorem copyCommandExecute_bad (hbad : copyBad c.record c.fn = true) :
    exec (.copyCommandExecute die q) s = .next (s.endCmd die q c 2 1 0) := by
  have hgo := copyEngine_may_go_on hq hdue
  change execCopyCommandExecute die q s = _
  simp only [execCopyCommandExecute, hcmd, hheld, if_neg hgo, hbad, if_true]

/-- The transform of a copy command: that of its record in memory, and none where OP names none. -/
def State.copyXf (s : State) (die : Nat) (c : Cmd) : Except FaultInfo (Option Xf) :=
  if (copyRecOf c.record).op = 2 then (s.readRec die c.asid c.tt (copyRecOf c.record).xfa 128).map fun b => some (xfOf b.1)
  else .ok none

variable (hgood : copyBad c.record c.fn = false) {xf : Option Xf} (hxf : s.copyXf die c = .ok xf)
include hgood hxf

theorem copyCommandExecute_bad_transform (hok : (xf.map Xf.copyOk).getD true = false) :
    exec (.copyCommandExecute die q) s = .next (s.endCmd die q c 2 1 0) := by
  have hgo := copyEngine_may_go_on hq hdue
  unfold State.copyXf at hxf
  change execCopyCommandExecute die q s = _
  simp only [execCopyCommandExecute, hcmd, hheld, if_neg hgo, hgood, Bool.false_eq_true, if_false, hxf, hok, Bool.not_false,
    if_true]

theorem copyCommandExecute_goes_on (hok : (xf.map Xf.copyOk).getD true = true) :
    let e := s.eng die q 0
    let r := copyRecOf c.record
    exec (.copyCommandExecute die q) s = .next (
      if r.rows ≤ e.pos / 2 ^ 24 then s.endCmd die q c (if e.nfail = 0 then 0 else 1) e.nfail e.first
      else if r.flags % 2 = 1 then s.copyMessage die q c r xf (e.pos / 2 ^ 24)
      else s.copyBlock die q c r xf (e.pos / 2 ^ 24) (e.pos % 2 ^ 24)) := by
  have hgo := copyEngine_may_go_on hq hdue
  unfold State.copyXf at hxf
  change execCopyCommandExecute die q s = _
  simp only [execCopyCommandExecute, hcmd, hheld, if_neg hgo, hgood, Bool.false_eq_true, if_false, hxf, hok, Bool.not_true,
    bitAt_zero, decide_eq_true_eq]
  split_ifs <;> rfl

end Copy

/-! ## Near-memory queues (R373, R374) -/

section Nmc

variable (hcmd : (s.eng die 3 ptn).q = c :: rest) (hheld : (s.eng die 3 ptn).held = none)
  (hdue : (s.eng die 3 ptn).after ≤ s.fc)
include hcmd hheld hdue

/-- What the first command of a near-memory queue that may go on comes to. -/
theorem nmcCommandExecute_goes_on :
    let e := s.eng die 3 ptn
    let m := nmRecOf c.record
    execNmcCommandExecute die ptn s =
      if e.pos = 0 then
        match nmBad c.record c.fn with
        | some i => .next (s.endCmd die 3 c 2 i 0)
        | none => match s.nmMaps die c m with
          | .error f => .next (s.stopCmd die 3 c f m.blocks)
          | .ok maps => match m.refused die maps with
            | some i => .next (s.endCmd die 3 c 2 i 0)
            | none => .next (s.fresh.2.setEng die 3 ptn { e with
                pos := 1, maps := maps, after := s.fc + 270 + s.fresh.1 % 256 })
      else if m.blocks < e.pos then .next (s.endCmd die 3 c (if e.nfail = 0 then 0 else 1) e.nfail e.first)
      else .next (s.nmBlock die c m e.maps (e.pos - 1)) := by
  have hgo : ¬((none : Option (Nat × List Byte)).isSome = true ∨ s.fc < (s.eng die 3 ptn).after) := by
    simp only [Option.isSome_none, Bool.false_eq_true, false_or]
    omega
  simp only [execNmcCommandExecute, hcmd, hheld, if_neg hgo] <;> rfl

section Starts

variable (hpos : (s.eng die 3 ptn).pos = 0)
include hpos

theorem nmcCommandExecute_bad {i : Nat} (hbad : nmBad c.record c.fn = some i) :
    exec (.nmcCommandExecute die ptn) s = .next (s.endCmd die 3 c 2 i 0) := by
  change execNmcCommandExecute die ptn s = _
  simp only [nmcCommandExecute_goes_on hcmd hheld hdue, if_pos hpos, hbad]

variable (hgood : nmBad c.record c.fn = none)
include hgood

theorem nmcCommandExecute_untranslated {f : FaultInfo} (hmaps : s.nmMaps die c (nmRecOf c.record) = .error f) :
    exec (.nmcCommandExecute die ptn) s = .next (s.stopCmd die 3 c f (nmRecOf c.record).blocks) := by
  change execNmcCommandExecute die ptn s = _
  simp only [nmcCommandExecute_goes_on hcmd hheld hdue, if_pos hpos, hgood, hmaps]

variable {maps : List (Nat × Nat)} (hmaps : s.nmMaps die c (nmRecOf c.record) = .ok maps)
include hmaps

theorem nmcCommandExecute_refuses {i : Nat} (href : (nmRecOf c.record).refused die maps = some i) :
    exec (.nmcCommandExecute die ptn) s = .next (s.endCmd die 3 c 2 i 0) := by
  change execNmcCommandExecute die ptn s = _
  simp only [nmcCommandExecute_goes_on hcmd hheld hdue, if_pos hpos, hgood, hmaps, href]

theorem nmcCommandExecute_starts (href : (nmRecOf c.record).refused die maps = none) :
    ∃ (u : State) (t : Nat), exec (.nmcCommandExecute die ptn) s = .next (u.setEng die 3 ptn { s.eng die 3 ptn with
      pos := 1, maps := maps, after := t }) ∧ s.fc + 270 ≤ t ∧ u.mem = s.mem := by
  refine ⟨s.fresh.2, s.fc + 270 + s.fresh.1 % 256, ?_, Nat.le_add_right .., rfl⟩
  change execNmcCommandExecute die ptn s = _
  simp only [nmcCommandExecute_goes_on hcmd hheld hdue, if_pos hpos, hgood, hmaps, href]

end Starts

section Runs

variable {pos : Nat} (hpos : (s.eng die 3 ptn).pos = pos + 1)
include hpos

theorem nmcCommandExecute_ends (hall : (nmRecOf c.record).blocks ≤ pos) :
    let e := s.eng die 3 ptn
    exec (.nmcCommandExecute die ptn) s = .next (s.endCmd die 3 c (if e.nfail = 0 then 0 else 1) e.nfail e.first) := by
  change execNmcCommandExecute die ptn s = _
  simp only [nmcCommandExecute_goes_on hcmd hheld hdue, hpos, if_neg (Nat.succ_ne_zero pos), if_pos (Nat.lt_succ_of_le hall)]

theorem nmcCommandExecute_block (hmore : pos < (nmRecOf c.record).blocks) :
    exec (.nmcCommandExecute die ptn) s = .next (s.nmBlock die c (nmRecOf c.record) (s.eng die 3 ptn).maps pos) := by
  change execNmcCommandExecute die ptn s = _
  simp only [nmcCommandExecute_goes_on hcmd hheld hdue, hpos, if_neg (Nat.succ_ne_zero pos),
    if_neg (Nat.not_lt.mpr (Nat.succ_le_of_lt hmore)), Nat.add_sub_cancel]

end Runs

end Nmc

/-! ## Completions (R368) -/

theorem postHeld_posts {d : Nat} {b : List Byte} (hheld : (s.eng die q ptn).held = some (d, b)) {p : Nat}
    (hp : (if q = 3 then ptn else (s.eng die q ptn).ptn.getD ptn) = p) (hroom : s.evRoom d p = true)
    (hfree : s.evFreeIn d p = true) :
    s.postHeld die q ptn = (s.setEng die q ptn { s.eng die q ptn with held := none }).evPush d p b := by
  simp only [State.postHeld, hheld, hp, hroom, hfree, Bool.and_self, if_true]

theorem eng_copy_any_ptn (hq : q < 3) (p p' : Nat) : s.eng die q p = s.eng die q p' := by
  simp only [State.eng, if_neg (Nat.ne_of_lt hq)]

theorem engineCompletionPost_copy {d p : Nat} {b : List Byte} (hq : q < 3) (hheld : (s.eng die q 0).held = some (d, b))
    (hptn : (s.eng die q 0).ptn = some p) (hroom : s.evRoom d p = true) (hfree : s.evFreeIn d p = true) :
    exec (.engineCompletionPost die q) s =
      .next ((s.setEng die q p { s.eng die q 0 with held := none }).evPush d p b) := by
  have he : s.eng die q p = s.eng die q 0 := eng_copy_any_ptn hq p 0
  change execEngineCompletionPost die q s = _
  rw [execEngineCompletionPost, if_pos hq, Nat.min_eq_left (Nat.le_of_lt hq), hptn, Option.getD_some,
    postHeld_posts (by rw [he]; exact hheld) (by rw [he, hptn, if_neg (Nat.ne_of_lt hq)]; rfl) hroom hfree, he]

theorem engineCompletionPost_nmc {d : Nat} {b : List Byte} (hheld : (s.eng die 3 ptn).held = some (d, b))
    (hroom : s.evRoom d ptn = true) (hfree : s.evFreeIn d ptn = true) :
    exec (.engineCompletionPost die (ptn + 3)) s =
      .next ((s.setEng die 3 ptn { s.eng die 3 ptn with held := none }).evPush d ptn b) := by
  change execEngineCompletionPost die (ptn + 3) s = _
  rw [execEngineCompletionPost, if_neg (by omega), Nat.min_eq_right (by omega), Nat.add_sub_cancel,
    postHeld_posts hheld (if_pos rfl) hroom hfree]

/-- Settles O58. A copy command goes on as `copyCommandExecute_goes_on` says, a near-memory command as
`nmcCommandExecute_goes_on` does. That a bad copy record is refused with NFAIL 1 (log 138) is the model's choice. -/
theorem linkAndEngineEvents : Obligations.LinkAndEngineEvents := by
  unfold Obligations.LinkAndEngineEvents
  intro s l g die q ptn pos x k c rest e n r m step nmc hx
  refine ⟨fun p n more hcur hfifo hheld => linkFifoApply_chooses hx hcur hfifo hheld,
    fun p n gs hk => ⟨fun hcur hg hturn hel => groupEligible_turns hx hk hcur hg hturn hel,
      fun hturn hends => groupTurnComplete_turns hx hk hturn hends⟩,
    fun p t hhold => ⟨linkHoldExpire_ends hx hhold, linkHoldExpire_waits hx hhold⟩,
    fun hq hcmd hheld hdue => ?copy, fun hcmd hheld hdue => ⟨fun hpos => ?starts, fun hpos => ?runs⟩,
    fun d b p hq hheld hptn hroom hfree => engineCompletionPost_copy hq hheld hptn hroom hfree,
    fun d b hheld hroom hfree => engineCompletionPost_nmc hheld hroom hfree⟩
  case copy =>
    refine ⟨copyCommandExecute_bad hq hcmd hheld hdue, fun hgood hop => ?plain, fun hgood hop bs u hrec => ?transformed⟩
    case plain =>
      have hxf : s.copyXf die c = .ok none := if_neg hop
      have hgoes := copyCommandExecute_goes_on hq hcmd hheld hdue hgood hxf rfl
      refine ⟨fun hend => hgoes.trans (by rw [if_pos hend]), fun hmore => ⟨fun hmsg => ?_, fun hblk => ?_⟩⟩
      · exact hgoes.trans (by rw [if_neg (Nat.not_le.mpr hmore), if_pos hmsg])
      · exact hgoes.trans (by rw [if_neg (Nat.not_le.mpr hmore), if_neg fun h1 => absurd (hblk.symm.trans h1) Nat.zero_ne_one])
    case transformed =>
      have hxf : s.copyXf die c = .ok (some (xfOf bs)) := by
        rw [State.copyXf, if_pos hop, hrec]
        rfl
      refine ⟨fun hbad => copyCommandExecute_bad_transform hq hcmd hheld hdue hgood hxf hbad, fun hok hmore hblk => ?_⟩
      exact (copyCommandExecute_goes_on hq hcmd hheld hdue hgood hxf hok).trans
        (by rw [if_neg (Nat.not_le.mpr hmore), if_neg fun h1 => absurd (hblk.symm.trans h1) Nat.zero_ne_one])
  case starts =>
    exact ⟨fun i => nmcCommandExecute_bad hcmd hheld hdue hpos,
      fun hgood => ⟨fun f => nmcCommandExecute_untranslated hcmd hheld hdue hpos hgood,
        fun maps hmaps => ⟨fun i => nmcCommandExecute_refuses hcmd hheld hdue hpos hgood hmaps,
          nmcCommandExecute_starts hcmd hheld hdue hpos hgood hmaps⟩⟩⟩
  case runs =>
    exact ⟨nmcCommandExecute_ends hcmd hheld hdue hpos, nmcCommandExecute_block hcmd hheld hdue hpos⟩

end Sys2Proof.Machine
end

section
/-!
SUPPORT. Region words (R386, R399-R402): their turn on a task, and one equation for each thing that a word comes to.
-/

set_option Elab.async false

namespace Sys2Proof.Machine

variable {s : State} {i : Instr} {o : FormR} {f : Flight} {fn : BitVec 3} {k : Task} {d a g : Nat}

theorem rgn_performed {t : State} (h : s.Performing i f) (hi : encode i = some (packR 0x6F fn o))
    (hs : fnOf f.word = fn.toNat → s.rgnStep f = t) : exec (.instructionPerformed f.fid) s = .next t :=
  performed_word h hi (fun hw => step_rgn (opcOf_word hw)) fun hw => hs (fnOf_word hw)

section Turn

variable (hturn : s.rgnTurn f = true) (hstage : f.stage = 0)
include hturn

theorem rgnStep_of_task (htask : s.task? f.ptn f.sa.toNat = some k) :
    s.rgnStep f = match fnOf f.word with
      | 0 => s.preemptStep f k
      | 1 => s.resumeStep f k
      | 2 => s.rollbackStep f k
      | 3 => s.quiesceStep f k
      | _ => s.asidStep f k := by
  simp only [State.rgnStep, hturn, Bool.not_true, Bool.false_eq_true, if_false, htask] <;> rfl

include hstage

theorem rgnStep_no_task (htask : s.task? f.ptn f.sa.toNat = none) :
    s.rgnStep f = s.flightFault f { cls := clsRange, code := 0x030, opnd := f.sa.toNat } := by
  simp only [State.rgnStep, hturn, Bool.not_true, Bool.false_eq_true, if_false, htask, if_pos hstage]

/-! ## A cancelled task -/

theorem rgnStep_cancelled (htask : s.task? f.ptn f.sa.toNat = some k) (hcan : k.cancelled = true) :
    s.rgnStep f = s.flightFault f (rgnState f.sa.toNat) := by
  rw [rgnStep_of_task hturn htask]
  split
  · simp only [State.preemptStep, if_pos hstage, hcan, or_true, if_true]
  · unfold State.resumeStep
    split
    · rfl
    · simp only [hcan, or_true, if_true]
  · simp only [State.rollbackStep, hcan, true_or, or_true, if_true]
  · simp only [State.quiesceStep, hstage, hcan, or_true, and_self, if_true]
  · simp only [State.asidStep, hcan, true_or, or_true, if_true]

end Turn

/-! ## A task that goes on (R399-R402) -/

section Live

variable (hcan : k.cancelled = false)
include hcan

theorem preemptStep_asks (hstage : f.stage = 0) (hst : k.st = .running) :
    s.preemptStep f k = (k.rgs.foldl (fun s g => s.modRegion g fun r => r.stopping s.fc f.fid) s).modFlight f.fid fun f =>
      { f with stage := 1 } := by
  have hgo : ¬(k.st ≠ .running ∨ k.cancelled = true) := by simp [hst, hcan]
  simp only [State.preemptStep, if_pos hstage, if_neg hgo]

theorem resumeStep_arms (hst : k.st = .preempted) (hres : s.resident k = some d) :
    s.resumeStep f k = ((k.rgs.foldl (fun s g => s.modRegion g fun r =>
      { r with st := .armed, die := d, quiet := 0, swept := false, watchdog := (s.die d).watchdog }) s).modTask k.ptn k.lseq
        fun k => { k with st := .running, die := d }).rgnVal f 0 := by
  have hgo : ¬(k.st ≠ .preempted ∨ k.cancelled = true) := by simp [hst, hcan]
  simp only [State.resumeStep, hres, if_neg hgo]

section Rollback

variable (hst : k.st = .running ∨ k.st = .preempted) (hstill : (s.regionsOf k).all Region.still = true)
  (hres : s.resident k = some d)
include hst hstill hres

theorem rollbackStep_in_state :
    ¬((k.st ≠ .running ∧ k.st ≠ .preempted) ∨ k.cancelled = true ∨ (!(s.regionsOf k).all Region.still) = true ∨
      (s.resident k).isNone = true) := by
  rw [hstill, hres, hcan]
  simpa [or_iff_not_imp_left] using hst

theorem rollbackStep_no_cut (hbad : ∃ r ∈ s.regionsOf k, r.rollback = false ∨ r.cutBad = true) :
    s.rollbackStep f k = s.flightFault f { cls := clsRange, code := 0x032, opnd := f.sa.toNat } := by
  have hany : ((s.regionsOf k).any fun r => !r.rollback || r.cutBad) = true := by simpa using hbad
  simp only [State.rollbackStep, if_neg (rollbackStep_in_state hcan hst hstill hres), hany, if_true]

theorem rollbackStep_returns (hgood : ∀ r ∈ s.regionsOf k, r.rollback = true ∧ r.cutBad = false) :
    s.rollbackStep f k = ((k.rgs.foldl State.rollback s).modTask k.ptn k.lseq fun k => { k with st := .running }).rgnVal f
      ((((s.regionsOf k).head?).map (·.cut)).getD 0) := by
  have hany : ((s.regionsOf k).any fun r => !r.rollback || r.cutBad) = false := by simpa using hgood
  simp only [State.rollbackStep, if_neg (rollbackStep_in_state hcan hst hstill hres), hany, Bool.false_eq_true, if_false]

end Rollback

theorem quiesceStep_answers (hst : k.st = .running) (hswept : ∀ r ∈ s.regionsOf k, r.swept = true) :
    s.quiesceStep f k = s.rgnVal f ((s.regionsOf k).foldl (fun m r => max m r.decided) 0) := by
  have hrun : ¬(f.stage = 0 ∧ (k.st ≠ .running ∨ k.cancelled = true)) := by simp [hst, hcan]
  have hdone : ¬(k.st = .ended ∧ k.status = 0) := by simp [hst]
  have hcut : ¬(k.cancelled = true ∨ k.st = .ended) := by simp [hst, hcan]
  have hall : ((s.regionsOf k).all fun r => r.swept) = true := by simpa using hswept
  simp only [State.quiesceStep, if_neg hrun, if_neg hdone, if_neg hcut, hall, if_true]

end Live

/-! ## `ASID` (R386) -/

theorem region?_foldl_asid (l : List Nat) (s : State) (h : g ∈ l ∨ ∀ r, s.region? g = some r → r.asid = a) :
    ∀ r, (l.foldl (fun s g => s.modRegion g fun r => { r with asid := a }) s).region? g = some r → r.asid = a := by
  induction l generalizing s with
  | nil => exact h.resolve_left (List.not_mem_nil)
  | cons j l ih =>
    refine ih _ (or_iff_not_imp_left.mpr fun hl r hr => ?_)
    by_cases hj : g = j
    · subst hj
      rw [region?_modRegion_same] at hr
      obtain ⟨q, -, rfl⟩ := Option.map_eq_some_iff.mp hr
      rfl
    · rw [region?_modRegion_other s hj] at hr
      exact h.resolve_left (by simp [hj, hl]) r hr

/-- The pages of a task and what waits on them in the address space `a`. -/
def State.moveAsid (s : State) (k : Task) (a : Nat) : State :=
  let s := s.modTask k.ptn k.lseq fun k => { k with asid := a }
  let s := k.rgs.foldl (fun s g => s.modRegion g fun r => { r with asid := a }) s
  { s with
    pages := s.pages.map fun ((g, p) : Nat × Page) => if k.rgs.contains p.rg then (g, { p with asid := a }) else (g, p)
    flights := s.flights.map fun (x : Flight) =>
      if x.who.isElem && k.rgs.contains (((s.page? x.who.page).map fun (p : Page) => p.rg).getD s.ids) then { x with asid := a } else x }

theorem asidStep_moves (hcan : k.cancelled = false) (hst : k.st = .preempted)
    (hmine : (((s.ptn? k.ptn).map (·.res.asids)).getD []).contains f.sb.toNat = true)
    (hlive : s.asidLive k.die f.sb.toNat = true) :
    s.asidStep f k = (s.moveAsid k f.sb.toNat).rgnVal f k.asid := by
  have hgo : ¬(k.st ≠ .preempted ∨ k.cancelled = true ∨ (!(((s.ptn? k.ptn).map (·.res.asids)).getD []).contains f.sb.toNat) = true ∨
      (!s.asidLive k.die f.sb.toNat) = true) := by rw [hmine, hlive]; simp [hst, hcan]
  simp only [State.asidStep, if_neg hgo]
  rfl

theorem region?_moveAsid (hg : g ∈ k.rgs) (r : Region) (hr : (s.moveAsid k a).region? g = some r) : r.asid = a :=
  region?_foldl_asid k.rgs (s.modTask k.ptn k.lseq fun k => { k with asid := a }) (.inl hg) r hr

theorem pages_moveAsid (q : Nat × Page) (hq : q ∈ (s.moveAsid k a).pages) (hrg : k.rgs.contains q.2.rg = true) :
    q.2.asid = a := by
  obtain ⟨⟨g, p⟩, -, rfl⟩ := List.mem_map.mp hq
  dsimp only at hrg ⊢
  split at hrg
  · rename_i hc
    rw [if_pos hc]
  · rename_i hc
    exact absurd hrg hc

/-- Settles O46. Each clause is the equation of its word on the task that its A names. That a pre-empted task is left
running by `ROLLBACK` (log 50) is the model's choice. -/
theorem regionWords : Obligations.RegionWords := by
  unfold Obligations.RegionWords
  intro o s w x f k d soon words step wrong answer rs
  have each {t : State} (hs : s.rgnStep f = t) : ∀ i ∈ words, s.Performing i f → step = .next t := by
    simp only [words, List.forall_mem_cons, List.not_mem_nil, false_imp_iff, implies_true, and_true]
    exact ⟨fun h => rgn_performed (fn := 0) h rfl fun _ => hs, fun h => rgn_performed (fn := 1) h rfl fun _ => hs,
      fun h => rgn_performed (fn := 2) h rfl fun _ => hs, fun h => rgn_performed (fn := 3) h rfl fun _ => hs,
      fun h => rgn_performed (fn := 4) h rfl fun _ => hs⟩
  refine ⟨?fires, fun hturn hstage => ⟨fun htask => each (rgnStep_no_task hturn hstage htask),
    fun htask => ⟨fun hcan => each (rgnStep_cancelled hturn hstage htask hcan), fun hcan => ?live⟩⟩⟩
  case fires =>
    simp only [words, List.forall_mem_cons, List.not_mem_nil, false_imp_iff, implies_true, and_true]
    exact ⟨fun h => soonR_ok true h, fun h => soonR_ok true h, fun h => soonR_ok true h, fun h => soonR_ok true h,
      fun h => soonR_ok true h⟩
  case live =>
    have hstep := rgnStep_of_task hturn htask
    refine ⟨fun h hst => ?preempt, fun h hst hres => ?resume, fun h hst hstill hres => ?rollback, fun h hst hswept => ?quiesce,
      fun h hst hmine hlive => ?asid⟩
    case preempt =>
      refine rgn_performed (fn := 0) h rfl fun hfn => ?_
      simp only [hstep, hfn]
      exact preemptStep_asks hcan hstage hst
    case resume =>
      refine rgn_performed (fn := 1) h rfl fun hfn => ?_
      simp only [hstep, hfn]
      exact resumeStep_arms hcan hst hres
    case rollback =>
      refine ⟨fun hbad => rgn_performed (fn := 2) h rfl fun hfn => ?_, fun hgood => rgn_performed (fn := 2) h rfl fun hfn => ?_⟩
      · simp only [hstep, hfn]
        exact rollbackStep_no_cut hcan hst hstill hres hbad
      · simp only [hstep, hfn]
        exact rollbackStep_returns hcan hst hstill hres hgood
    case quiesce =>
      refine rgn_performed (fn := 3) h rfl fun hfn => ?_
      simp only [hstep, hfn]
      exact quiesceStep_answers hcan hst hswept
    case asid =>
      refine ⟨s.moveAsid k f.sb.toNat, rgn_performed (fn := 4) h rfl fun hfn => ?_, fun g hg => region?_moveAsid hg,
        pages_moveAsid⟩
      simp only [hstep, hfn]
      exact asidStep_moves hcan hst hmine hlive

end Sys2Proof.Machine
end

section
/-!
SUPPORT. `STAT.CFG` (R385) reads its next entry; and a state with two outstanding words of one name, in which the statistics
words are not as O47 says.
-/

set_option Elab.async false

namespace Sys2Proof.Machine

/-- A `STAT.CFG` on a queued or pre-empted task that has not met the end mark reads the entry behind those it has read. Where
that lies in memory follows from the bytes of the performing word. -/
theorem statCfg_reads_on {s : State} {o : FormR} {f : Flight} {k : Task} (h : s.Performing (.statCfg o) f)
    (htask : s.task? f.ptn f.sb.toNat = some k) (hst : k.st = .queued ∨ k.st = .preempted) (hread : f.HasRead)
    (hshort : (statList f.bytes).length < 257) (hmore : ∀ e ∈ statList f.bytes, e ≠ none) :
    exec (.instructionPerformed f.fid) s = .next (s.modFlight f.fid fun g =>
      { g with plan := g.plan ++ recParts (g.sa.toNat + f.bytes.length) 32 }) := by
  have hgo : ¬(k.st ≠ .queued ∧ k.st ≠ .preempted) := fun ⟨hq, hp⟩ => hst.elim hq hp
  have hall : (statList f.bytes).all (·.isSome) = true :=
    List.all_eq_true.mpr fun e he => Option.isSome_iff_ne_none.mpr (hmore e he)
  refine performed_word (opc := 0x6E) (fn := 1) h rfl (fun hw => step_cfg (opcOf_word hw)) fun _ => ?_
  simp only [State.cfgStep, htask, if_neg hgo, withRec_read hread, if_pos (And.intro hshort hall)]

/-! ## Two outstanding words of one name -/

/-- The outstanding `STAT.CFG` of an array at 0x1000, when `n` of its entries, of zeros, have been read. -/
def entriesRead (n : Nat) : Flight :=
  { State.reset.newFlight (.elem 0 0 0 0) (packR 0x6E 1 bindOps) with
    sa := 0x1000, ptn := 0, plan := recParts 0x1000 (32 * n), got := [(0, List.replicate (32 * n) 0)], stage := 1 }

/-- An element of an armed region with two such words outstanding under one name, one entry and two entries read, and the task
that both configure. No run from reset comes here: a word takes a name of its own when it fires. -/
def cfgNamesakes : State :=
  { State.reset with
    regions := [(0, Region.placed)], pages := [(0, Page.holding 0)], tasks := [{ waitingTask with st := .queued }]
    flights := [entriesRead 1, entriesRead 2] }

theorem cfgNamesakes_performing : cfgNamesakes.Performing (.statCfg bindOps) (entriesRead 1) :=
  ⟨by decide +kernel, by decide +kernel, rfl⟩

theorem entriesRead_more : (entriesRead 1).plan.length ≤ (entriesRead 1).stage ∧
    (statList (entriesRead 1).bytes).length < 257 ∧ ∀ e ∈ statList (entriesRead 1).bytes, e ≠ none := by decide +kernel

theorem cfgNamesakes_task :
    cfgNamesakes.task? (entriesRead 1).ptn (entriesRead 1).sb.toNat = some { waitingTask with st := .queued } := by
  decide +kernel

/-- Refutes O47: in the clause for an array whose end mark has not been read, each outstanding word of the name reads on behind
the bytes it has read itself, where the model has it read on behind those of the performing word (`statCfg_reads_on`). The two
differ where an outstanding word shares the performing word's name, as in `cfgNamesakes`. -/
theorem not_statisticsWords : ¬ Obligations.StatisticsWords := by
  unfold Obligations.StatisticsWords
  intro hall
  obtain ⟨hissued, hshort, hmore⟩ := entriesRead_more
  obtain ⟨-, -, -, hcfg⟩ := hall bindOps cfgNamesakes (.elem 0 0 0 0) 0 (entriesRead 1)
  obtain ⟨-, -, hentries⟩ := hcfg cfgNamesakes_performing
  obtain ⟨hnext, -⟩ := hentries _ cfgNamesakes_task (.inl rfl) hissued rfl
  have hmodel := statCfg_reads_on cfgNamesakes_performing cfgNamesakes_task (.inl rfl) ⟨hissued, rfl⟩ hshort hmore
  have hstates := Host.Outcome.next.inj (hmodel.symm.trans (hnext hshort hmore))
  have hplans := congrArg (fun s => s.flights.map Flight.plan) hstates
  revert hplans
  decide +kernel

end Sys2Proof.Machine
end

section
/-!
SUPPORT. Traps and control registers (R388-R390, R419): what a trap leaves in a context, and one equation for each thing that
`ERET`, `CSRR`, `CSRW` and the events of control registers come to.
-/

set_option Elab.async false

namespace Sys2Proof.Machine

variable {s : State} {w : Who} {x : Word} {o : FormR} {t cx n : Nat} {pc epc v : Word} {c : TCtx} {q : FaultInfo} {late : Bool}

/-- The tag of a word's sources, read from its fields (R14). -/
theorem tagOf_fields {opc : BitVec 7} {fn : BitVec 3} (s : State) (w : Who) (hx : x = packR opc fn o) :
    s.tagOf w (field x 14 5).toNat (field x 9 5).toNat = s.tagOf w o.a.toNat o.b.toNat := by
  rw [hx, field_packR_a, field_packR_b]

/-! ## What a trap saves and where it goes (R389, R419) -/

/-- A context that may trap: it is in no trap, and has a trap vector. -/
def TCtx.traps (c : TCtx) : Prop := c.tstat.getLsbD 0 = false ∧ c.tvec ≠ 0

theorem not_traps_iff : ¬ c.traps ↔ c.tstat.getLsbD 0 = true ∨ c.tvec = 0 := by
  unfold TCtx.traps
  rw [not_and_or, Bool.not_eq_false, not_ne_iff]

/-- The context in its trap handler. -/
def TCtx.trapped (c : TCtx) (epc fpc : Word) (q : FaultInfo) (late : Bool) : TCtx :=
  { c with epc := epc, fpc := fpc, cause := BitVec.ofNat 64 q.cause, tval := BitVec.ofNat 64 q.opnd
           tstat := (c.tstat &&& ~~~3#64) ||| (if late then 3#64 else 1#64), pc := c.tvec, line := 0, wait := none }

section Trap

variable (hc : s.tctx? t cx = some c)
include hc

theorem trap_enters (hopen : c.traps) :
    (s.trap t cx q epc pc late x).tctx? t cx = some (c.trapped epc pc q late) := by
  have hgo : ¬(c.tstat.getLsbD 0 = true ∨ c.tvec = 0) := fun hor => not_traps_iff.mpr hor hopen
  simp only [State.trap, hc, if_neg hgo, tctx?_modTctx_same]
  rfl

/-- The fault is posted to the mailbox, and the context halts. -/
theorem trap_posts (hshut : ¬ c.traps) :
    (s.trap t cx q epc pc late x).tctx? t cx = some { c with run := false } ∧ s.trap t cx q epc pc late x =
      (s.modTctx t cx fun c => { c with run := false }).mail (s.originWho (.tel t cx pc)) q x := by
  have heq : s.trap t cx q epc pc late x =
      (s.modTctx t cx fun c => { c with run := false }).mail (s.originWho (.tel t cx pc)) q x := by
    simp only [State.trap, hc, if_pos (not_traps_iff.mp hshut)]
  refine ⟨?_, heq⟩
  have hmail (u : State) (r : Origin) : (u.mail r q x).tctx? t cx = u.tctx? t cx := rfl
  rw [heq, hmail, tctx?_modTctx_same, hc]
  rfl

theorem raiseFlight_enters {f : Flight} (hwho : f.who = .tel t cx pc) (hacc : f.accepted = true) (hopen : c.traps) :
    ∃ d, (s.raiseFlight f q).tctx? t cx = some ({ c with out3rsv := d }.trapped c.pc pc q true) := by
  have hdrop : (s.dropFlight f.fid).tctx? t cx = some c := hc
  refine ⟨c.out3rsv && !f.holds.contains (.out 3), ?_⟩
  have hmod := (tctx?_modTctx_same (s.dropFlight f.fid) t cx fun c =>
    { c with out3rsv := c.out3rsv && !f.holds.contains (.out 3) }).trans (congrArg _ hdrop)
  simp only [State.raiseFlight, hwho, hacc, if_true, hmod]
  exact trap_enters hmod hopen

end Trap

theorem sysTrap_traps (h : Fires s (.sysTrap o) o.g (.tel t cx pc) x) :
    exec (.sysTrap o) s = .next ((s.fired (.tel t cx pc) x o.g {}).trap t cx
      { cls := 31, code := (s.taken.readS (.tel t cx pc) o.a.toNat).toNat % 2048 } (pc + 8) pc false x) := by
  change execSysTrap o s = _
  exact fireSys_ok (d := {}) (post := fun u => u.trap t cx
    { cls := 31, code := (s.taken.readS (.tel t cx pc) o.a.toNat).toNat % 2048 } (pc + 8) pc false x) h rfl

/-- Settles O48. `SYS.TRAP`, a fault at a word and a late fault are all `trap`, with return addresses of their own. That TVAL
is 0 after `SYS.TRAP` (log 45) is the model's choice. -/
theorem trapEntry : Obligations.TrapEntry := by
  unfold Obligations.TrapEntry
  intro s t cx pc x c q trapped open_ posted _
  refine ⟨fun hc => ⟨trap_enters hc, trap_posts hc⟩, fun f hwho hacc hc hopen => raiseFlight_enters hc hwho hacc hopen,
    fun o h => ⟨_, sysTrap_traps h, fun hc => ⟨trap_enters hc, trap_posts hc⟩⟩⟩

/-! ## `ERET`, `CSRR` and `CSRW` (R388, R390) -/

theorem sysEret_returns (h : Fires s (.sysEret o) o.g (.tel t cx pc) x) :
    exec (.sysEret o) s = .next ((s.fired (.tel t cx pc) x o.g { gap := 2 }).trapReturn t cx) := by
  change execSysEret o s = _
  exact fireSys_ok (d := { gap := 2 }) (post := fun u => u.trapReturn t cx) h rfl

theorem tctx?_trapReturn (hc : s.tctx? t cx = some c) :
    (s.trapReturn t cx).tctx? t cx = some { c with pc := c.epc, tstat := c.tstat &&& ~~~1#64 } := by
  rw [State.trapReturn, tctx?_modTctx_same, hc]
  rfl

/-- The register that a control-register word names. -/
def State.csrNum (s : State) (w : Who) (o : FormR) : Nat := (s.taken.readS w o.a.toNat).toNat % 4096

/-- A control-register word writes `v` to D; its outcome is whether it is nonzero. -/
def State.csrDone (s : State) (w : Who) (o : FormR) (v : Word) : Done :=
  { wr := writeS o.d.toNat (s.taken.tagOf w o.a.toNat o.b.toNat) v, outcome := v != 0 }

/-- A control register is written, at once or by the event that its number has. -/
def State.csrSet (s : State) (t cx n : Nat) (v : Word) : State :=
  match csrStep t cx n v with
  | some e => s.now e
  | none => s.csrWrite t cx n v

section Read

variable (h : Fires s (.sysCsrr o) o.g (.tel t cx pc) x)
include h

theorem sysCsrr_reads (hread : s.taken.csrRead t cx (s.csrNum (.tel t cx pc) o) = .ok v) :
    exec (.sysCsrr o) s = .next (s.fired (.tel t cx pc) x o.g (s.csrDone (.tel t cx pc) o v)) := by
  have ⟨_, hx, _⟩ := h
  have htag := tagOf_fields s.taken (.tel t cx pc) (word_eq hx (opc := 0x7F) (fn := 2) rfl)
  unfold State.csrNum at hread
  change execSysCsrr o s = _
  refine fireTimed_ok h ?_
  simp only [hread, htag]
  rfl

theorem sysCsrr_faults (hread : s.taken.csrRead t cx (s.csrNum (.tel t cx pc) o) = .error q) :
    exec (.sysCsrr o) s = .next (s.taken.raise (.tel t cx pc) x q) := by
  unfold State.csrNum at hread
  change execSysCsrr o s = _
  refine fireTimed_error h ?_
  simp only [hread]

end Read

section Write

variable (h : Fires s (.sysCsrw o) o.g (.tel t cx pc) x) (hread : s.taken.csrRead t cx (s.csrNum (.tel t cx pc) o) = .ok v)
include h hread

theorem sysCsrw_denied (hdeny : s.taken.csrDeny t cx (s.csrNum (.tel t cx pc) o)
      (s.taken.readS (.tel t cx pc) o.b.toNat) = some q) :
    exec (.sysCsrw o) s = .next (s.taken.raise (.tel t cx pc) x q) := by
  unfold State.csrNum at hread hdeny
  change execSysCsrw o s = _
  refine fireSys_error h ?_
  simp only [hread, hdeny]

variable (hallow : s.taken.csrDeny t cx (s.csrNum (.tel t cx pc) o) (s.taken.readS (.tel t cx pc) o.b.toNat) = none)
include hallow

/-- An allowed `CSRW` fires, and its register is written. -/
theorem sysCsrw_writes :
    exec (.sysCsrw o) s = .next ((s.fired (.tel t cx pc) x o.g (s.csrDone (.tel t cx pc) o v)).csrSet t cx
      (s.csrNum (.tel t cx pc) o) (s.taken.readS (.tel t cx pc) o.b.toNat)) := by
  have ⟨_, hx, _⟩ := h
  have htag := tagOf_fields s.taken (.tel t cx pc) (word_eq hx (opc := 0x7F) (fn := 3) rfl)
  unfold State.csrNum at hread hallow
  change execSysCsrw o s = _
  refine fireSys_ok (d := s.csrDone (.tel t cx pc) o v)
    (post := fun u => u.csrSet t cx (s.csrNum (.tel t cx pc) o) (s.taken.readS (.tel t cx pc) o.b.toNat)) h ?_
  simp only [hread, hallow, htag]
  rfl

end Write

/-! ## Which registers read, write and refuse (R390) -/

section Registers

variable {d : Die} {p : Nat} (hc : s.tctx? t cx = some c)
include hc

theorem csrRead_unlisted
    (hn : n ∈ [0x006, 0x00F, 0x014, 0x01F, 0x023, 0x02F, 0x041, 0x04F, 0x051, 0x05F, 0x062, 0xFFF]) :
    s.csrRead t cx n = .error { cls := clsRange, code := 0x035, opnd := n } := by
  simp only [List.mem_cons, List.not_mem_nil, or_false] at hn
  rcases hn with rfl | rfl | rfl | rfl | rfl | rfl | rfl | rfl | rfl | rfl | rfl | rfl <;>
    · simp only [State.csrRead, hc]
      rfl

/-- The registers that O49 names, and what each reads. -/
theorem csrRead_listed (hp : c.ptn = some p) :
    ∀ r ∈ [(0x000, c.tvec), (0x001, c.epc), (0x002, c.cause), (0x003, c.tval), (0x004, c.tstat), (0x005, c.fpc),
      (0x020, w64 c.asidSel), (0x030, (s.die (dieOfTeller t)).lqBind.getD 0 0), (0x03F, (s.die (dieOfTeller t)).lqBind.getD 15 0),
      (0x040, (s.die (dieOfTeller t)).mbxOvf), (0x050, w64 s.fc), (0x060, (alGet p (s.die (dieOfTeller t)).ptill).getD 0)],
      s.csrRead t cx r.1 = .ok r.2 := by
  simp only [List.forall_mem_cons, List.not_mem_nil, false_imp_iff, implies_true, and_true]
  refine ⟨?_, ?_, ?_, ?_, ?_, ?_, ?_, ?_, ?_, ?_, ?_, ?_⟩ <;>
    simp [State.csrRead, hc, hp]

/-- The registers that O49 has written at once: each is read and may be written. -/
theorem csrRead_of_written (hn : n ∈ [0x000, 0x001, 0x004, 0x021, 0x040]) :
    (∃ old, s.csrRead t cx n = .ok old) ∧ s.csrDeny t cx n v = none ∧ csrStep t cx n v = none := by
  simp only [List.mem_cons, List.not_mem_nil, or_false] at hn
  rcases hn with rfl | rfl | rfl | rfl | rfl <;>
    · simp only [State.csrRead, hc]
      exact ⟨⟨_, rfl⟩, rfl, rfl⟩

omit hc in
theorem csrDeny_denied (hn : n ∈ [0x002, 0x003, 0x005, 0x030, 0x03F, 0x050, 0x061]) :
    s.csrDeny t cx n v = some { cls := clsPriv, code := 2, opnd := n } := by
  simp only [List.mem_cons, List.not_mem_nil, or_false] at hn
  rcases hn with rfl | rfl | rfl | rfl | rfl | rfl | rfl <;> rfl

/-! ## The registers that act on more than themselves (R390) -/

theorem csrEvent_denied (hdeny : s.csrDeny t cx n v = some q) : s.csrEvent t cx n v = s.raise (.tel t cx c.pc) 0 q := by
  simp only [State.csrEvent, hdeny, hc]

omit hc in
theorem csrEvent_writes (hallow : s.csrDeny t cx n v = none) : s.csrEvent t cx n v = s.csrWrite t cx n v := by
  simp only [State.csrEvent, hallow]

variable (hp : c.ptn = some p)
include hp

omit hc hp in
theorem ctl_numbers (hn : n < 4) : n = 0 ∨ n = 1 ∨ n = 2 ∨ n = 3 := by omega

theorem csrDeny_ctl (hn : n < 4) :
    s.csrDeny t cx (0x010 + n) v =
      if s.ownCtx t n p then none else some { cls := clsPriv, code := 2, opnd := 0x010 + n } := by
  rcases ctl_numbers hn with rfl | rfl | rfl | rfl <;>
    · simp only [State.csrDeny, hc, Option.bind_some, hp, Option.getD_some]

theorem csrDeny_asidSel :
    s.csrDeny t cx 0x020 v = if s.ownsAsid p v.toNat then none else some { cls := clsPriv, code := 2, opnd := 0x020 } := by
  simp only [State.csrDeny, hc, Option.bind_some, hp, Option.getD_some]

theorem csrDeny_asidHi :
    s.csrDeny t cx 0x022 v =
      if s.ownsAsid p c.asidSel = true ∧ bits v.toNat 44 40 = ((s.ptn? p).map (·.res.keySlot)).getD 32 then none
      else some { cls := clsPriv, code := 2, opnd := 0x022 } := by
  simp only [State.csrDeny, hc, Option.bind_some, Option.map_some, hp, Option.getD_some]

omit hc hp in
theorem csrDeny_ptill :
    s.csrDeny t cx 0x060 v = if v.toNat % 64 = 0 then none else some { cls := clsAlign, code := 6, opnd := v.toNat } := rfl

omit hp in
theorem csrWrite_asidHi :
    s.csrWrite t cx 0x022 v = s.modDie (dieOfTeller t) fun d => { d with asidsNew := alSet c.asidSel (v ++ c.asidLo) d.asidsNew } := by
  simp only [State.csrWrite, hc]

theorem csrWrite_ptill : s.csrWrite t cx 0x060 v = s.modDie (dieOfTeller t) fun d => { d with ptill := alSet p v d.ptill } := by
  simp only [State.csrWrite, hc, Option.bind_some, hp]

omit hc hp

/-- The context that a write of `CTLn` leaves: RUN starts a halted one, and nothing changes in a running one. -/
def TCtx.ctlWritten (k : TCtx) (v : Word) : TCtx :=
  if v.getLsbD 63 ∧ k.run = false then k.start (w64 (bits v.toNat 55 3 * 8)) else k

theorem csrWrite_ctl (hn : n < 4) (hk : s.tctx? t n = some c) :
    (s.csrWrite t cx (0x010 + n) v).tctx? t n = some (c.ctlWritten v) := by
  have hw : s.csrWrite t cx (0x010 + n) v = if v.getLsbD 63 then s.modTctx t n fun c =>
      if c.run then c else c.start (w64 (bits v.toNat 55 3 * 8)) else s := by
    rcases ctl_numbers hn with rfl | rfl | rfl | rfl <;> rfl
  rw [hw, TCtx.ctlWritten]
  by_cases hrun : v.getLsbD 63 = true
  · rw [if_pos hrun, tctx?_modTctx_same, hk]
    cases hr : c.run <;> simp [hr, hrun]
  · rw [if_neg hrun, if_neg fun hor => hrun hor.1, hk]

end Registers

/-- Settles O49. What is read, written and refused is `csrRead_listed`, `csrRead_of_written` and `csrDeny_denied` of `CSRR` and `CSRW`; a
register with an event of its own is written where `csrDeny` allows it. That `CTLn` of another partition's context raises
PRIV (log 46), and which registers do (log 140), is the model's choice. -/
theorem controlRegisters : Obligations.ControlRegisters := by
  unfold Obligations.ControlRegisters
  refine ⟨?words, ?events⟩
  case words =>
    intro o s t cx pc x c w n v d d' ptn reads writes denied hc hp
    have hc' : s.taken.tctx? t cx = some c := hc
    refine ⟨fun h => ⟨_, sysEret_returns h, fun b => tctx?_trapReturn⟩, fun h => ⟨fun r hr hn => ?reads, fun hn => ?unlisted⟩,
      fun h => ⟨fun r hr hn => ?writes, fun old i hread hallow hstep => ?event, fun old hread hn => ?denied⟩⟩
    case reads =>
      refine sysCsrr_reads h ?_
      change s.taken.csrRead t cx n = _
      rw [hn]
      exact csrRead_listed hc' hp r hr
    case unlisted => exact sysCsrr_faults h (csrRead_unlisted hc' hn)
    case writes =>
      have hmem : n ∈ [0x000, 0x001, 0x004, 0x021, 0x040] := hn ▸ List.mem_map_of_mem (f := Prod.fst) hr
      obtain ⟨⟨old, hread⟩, hallow, hstep⟩ := csrRead_of_written (v := v) hc' hmem
      refine ⟨old, hread, (sysCsrw_writes h hread hallow).trans (congrArg Host.Outcome.next ?_)⟩
      change (s.fired w x o.g (d' old)).csrSet t cx n v = _
      rw [State.csrSet, hstep]
      clear hread hallow hstep
      revert r
      simp only [writes, List.forall_mem_cons, List.not_mem_nil, false_imp_iff, implies_true, and_true]
      refine ⟨?_, ?_, ?_, ?_, ?_⟩ <;>
        · intro hn
          rw [hn]
          rfl
    case event =>
      refine (sysCsrw_writes h hread hallow).trans (congrArg Host.Outcome.next ?_)
      change (s.fired w x o.g (d' old)).csrSet t cx n v = _
      rw [State.csrSet, hstep]
    case denied => exact sysCsrw_denied h hread (csrDeny_denied hn)
  case events =>
    intro s t cx n v c ptn stop owns slot hc hp
    have next {u u' : State} (hu : u = u') : (.next u : Out) = .next u' := congrArg Host.Outcome.next hu
    refine ⟨fun hn => ⟨fun k hk hkp => ⟨_, rfl, ?_⟩, fun k hk hkp => next ?_⟩, fun hown => next ?_, fun hown => next ?_,
      fun hown hslot => next ?_, fun hbad => next ?_, fun ha => next ?_, fun ha => next ?_⟩
    · have hmine : s.ownCtx t n ptn = true := by simp [State.ownCtx, hk, hkp]
      rw [if_pos hn, csrEvent_writes (by rw [csrDeny_ctl hc hp hn, if_pos hmine]), csrWrite_ctl hn hk]
      rfl
    · have hother : ¬ s.ownCtx t n ptn = true := by simp [State.ownCtx, hk, hkp]
      rw [if_pos hn, csrEvent_denied hc ((csrDeny_ctl hc hp hn).trans (if_neg hother))]
    · rw [csrEvent_writes ((csrDeny_asidSel hc hp).trans (if_pos hown))]
      rfl
    · rw [csrEvent_denied hc ((csrDeny_asidSel hc hp).trans (if_neg hown))]
    · rw [csrEvent_writes ((csrDeny_asidHi hc hp).trans (if_pos ⟨hown, hslot⟩)), csrWrite_asidHi hc]
    · rw [csrEvent_denied hc ((csrDeny_asidHi hc hp).trans (if_neg fun ⟨hown, hslot⟩ => hbad.elim (· hown) (· hslot)))]
    · rw [csrEvent_writes (csrDeny_ptill.trans (if_pos ha)), csrWrite_ptill hc hp]
    · rw [csrEvent_denied hc (csrDeny_ptill.trans (if_neg ha))]

end Sys2Proof.Machine
end

section
/-!
SUPPORT. The mailbox word, and the words that save and restore a page and drop translations (R388, R402).
-/

set_option Elab.async false

namespace Sys2Proof.Machine

variable {s : State} {i : Instr} {w : Who} {x : Word} {o : FormR} {f : Flight} {fn : BitVec 3} {p : Page} {r : Region} {pg part : Nat}

/-! ## The mailbox (R388) -/

/-- The register that names what `MBX` does with the record: 0 removes it, 1 leaves it. -/
def State.mbxMode (s : State) (w : Who) (o : FormR) : Nat := (s.taken.readS w o.a.toNat).toNat

/-- `MBX` writes the partition's oldest record to D, or zeros where there is none. -/
def State.mbxDone (s : State) (w : Who) (o : FormR) : Done :=
  { wr := writeV o.d.toNat (s.taken.tagOf w o.a.toNat o.b.toNat)
      (bytesVec (((s.mbxHead w.die (s.ptnOf w)).map (·.bytes)).getD []))
    outcome := (s.mbxHead w.die (s.ptnOf w)).isSome }

section Mailbox

variable (h : Fires s (.sysMbx o) o.g w x)
include h

theorem sysMbx_no_mode (ha : 1 < s.mbxMode w o) :
    exec (.sysMbx o) s = .next (s.taken.raise w x { cls := clsRange, code := 0x038, opnd := s.mbxMode w o }) := by
  change execSysMbx o s = _
  exact fireSys_error h (if_pos ha)

theorem sysMbx_reads (ha : ¬ 1 < s.mbxMode w o) :
    exec (.sysMbx o) s = .next (if s.mbxMode w o = 0 then
      (s.fired w x o.g (s.mbxDone w o)).modDie w.die fun d => { d with mbx := dropRec (s.ptnOf w) d.mbx }
      else s.fired w x o.g (s.mbxDone w o)) := by
  have ⟨_, hx, _⟩ := h
  have htag := tagOf_fields s.taken w (word_eq hx (opc := 0x7F) (fn := 4) rfl)
  unfold State.mbxMode at ha
  change execSysMbx o s = _
  refine fireSys_ok (d := s.mbxDone w o) (post := fun u => if s.mbxMode w o = 0 then
    u.modDie w.die fun d => { d with mbx := dropRec (s.ptnOf w) d.mbx } else u) h ?_
  simp only [if_neg ha, htag]
  rfl

end Mailbox

/-! ## Page words fire -/

section PageWord

/-- A word of a page save: its area must be 64 KiB aligned, and both its pages open to the access. -/
def pageR (o : FormR) (va : Flight → Nat) (acc : Acc) (due : State → Nat) (s : State) : Out :=
  fireJob o.g (fun w _ s f =>
    match ((alignFault 9 (va f) 65536).orElse fun _ => s.telAddr w f.asid (va f) acc false).orElse fun _ =>
        s.telAddr w f.asid (va f + 65536) acc false with
    | some e => .error e
    | none => .ok (jobHolds f o.d.toNat (due s))) jobPost s

theorem exec_sysPgsv (o : FormR) (s : State) :
    exec (.sysPgsv o) s = pageR o (fun f => f.sb.toNat) .store (fun s => s.fc + 1) s := rfl

theorem exec_sysPgrs (o : FormR) (s : State) :
    exec (.sysPgrs o) s = pageR o (fun f => f.sa.toNat) .load (fun s => s.fc + 1 + s.fresh.1 % 4096) s := rfl

variable {va : Flight → Nat} {acc : Acc} {due : State → Nat} (he : exec i s = pageR o va acc due s) (h : Fires s i o.g w x)
include he h

theorem pageR_misaligned (hbad : va (s.jobOf w x) % 65536 ≠ 0) :
    exec i s = .next (s.taken.raise w x { cls := clsAlign, code := 9, opnd := va (s.jobOf w x) }) := by
  refine he.trans (fireJob_error h ?_)
  rw [alignFault_misaligned hbad]
  rfl

theorem pageR_fires (hgood : va (s.jobOf w x) % 65536 = 0)
    (hlow : s.taken.telAddr w (s.jobOf w x).asid (va (s.jobOf w x)) acc false = none)
    (hhigh : s.taken.telAddr w (s.jobOf w x).asid (va (s.jobOf w x) + 65536) acc false = none) :
    let q := jobHolds (s.jobOf w x) o.d.toNat (due s.taken)
    exec i s = .next (jobPost q (s.handed w o.g q)) := by
  refine he.trans (fireJob_ok h ?_)
  rw [alignFault_aligned hgood, hlow, hhigh]
  rfl

end PageWord

section Tlbi

variable (h : Fires s (.sysTlbi o) o.g w x)
include h

theorem sysTlbi_not_owned (hown : s.ownsAsid (s.jobOf w x).ptn (s.jobOf w x).sa.toNat = false) :
    exec (.sysTlbi o) s =
      .next (s.taken.raise w x { cls := clsPriv, code := 2, opnd := (s.jobOf w x).sa.toNat }) := by
  change execSysTlbi o s = _
  refine fireJob_error h (if_pos ?_)
  change (!s.ownsAsid (s.jobOf w x).ptn (s.jobOf w x).sa.toNat) = true
  rw [hown]
  rfl

theorem sysTlbi_fires (hown : s.ownsAsid (s.jobOf w x).ptn (s.jobOf w x).sa.toNat = true) :
    let q : Flight := { s.jobOf w x with after := s.fc + 1 }
    exec (.sysTlbi o) s = .next (jobPost q (s.handed w o.g q)) := by
  change execSysTlbi o s = _
  refine fireJob_ok h (if_neg ?_)
  change ¬(!s.ownsAsid (s.jobOf w x).ptn (s.jobOf w x).sa.toNat) = true
  rw [hown]
  exact Bool.false_ne_true

end Tlbi

/-! ## Saving a page (R402) -/

theorem sys_performed {t : State} (h : s.Performing i f) (hi : encode i = some (packR 0x7F fn o))
    (hs : fnOf f.word = fn.toNat → s.sysStep f = t) : exec (.instructionPerformed f.fid) s = .next t :=
  performed_word h hi (fun hw => step_sys (opcOf_word hw)) fun hw => hs (fnOf_word hw)

/-- The region's task is pre-empted. -/
def State.preempted (s : State) (r : Region) : Bool :=
  ((s.taskOfRegion r).map fun (k : Machine.Task) => k.st == .preempted).getD false

section Save

variable (hmay : s.mayIssue f = true)
include hmay

theorem pgsvStep_no_frame (hsel : frameSel f.sa.toNat = none) :
    s.pgsvStep f = s.flightFault f { cls := clsRange, code := 0x031, opnd := f.sa.toNat } := by
  simp only [State.pgsvStep, hmay, Bool.not_true, Bool.false_eq_true, if_false, hsel]

variable (hsel : frameSel f.sa.toNat = some (pg, part)) (hp : s.page? pg = some p) (hr : s.regionOf pg = some r)
include hsel hp hr

theorem pgsvStep_not_savable (hbad : p.kind ≠ part ∨ p.ptn ≠ f.ptn ∨ s.preempted r = false) :
    s.pgsvStep f = s.flightFault f { cls := clsRange, code := 0x031, opnd := f.sa.toNat } := by
  have hbad' : p.kind ≠ part ∨ p.ptn ≠ f.ptn ∨ (!s.preempted r) = true := by simpa using hbad
  unfold State.preempted at hbad'
  simp only [State.pgsvStep, hmay, Bool.not_true, Bool.false_eq_true, if_false, hsel, hp, hr, if_pos hbad']

theorem pgsvStep_saves (hkind : p.kind = part) (hptn : p.ptn = f.ptn) (hpre : s.preempted r = true) {bs : List Byte} {u : State}
    (hbs : bs = (((s.landPackets pg).page? pg).getD p).saveBytes r (s.flights.filter fun z => z.who.isElem && z.who.page == pg))
    (hst : (s.landPackets pg).storeVa f.who.port.die f.asid f.sb.toNat bs = .ok u) :
    s.pgsvStep f = (u.takePage pg bs).performVal f f.sa (f.sa != 0) false := by
  have hgood : ¬(p.kind ≠ part ∨ p.ptn ≠ f.ptn ∨ (!s.preempted r) = true) := by simp [hkind, hptn, hpre]
  unfold State.preempted at hgood
  subst hbs
  simp only [State.pgsvStep, hmay, Bool.not_true, Bool.false_eq_true, if_false, hsel, hp, hr, if_neg hgood, hst, w64,
    BitVec.ofNat_toNat, BitVec.setWidth_eq]

end Save

theorem page?_takePage (s : State) (pg : Nat) (bs : List Byte) : (s.takePage pg bs).page? pg = none := by
  cases hp : (s.landPackets pg).page? pg with
  | none => simp only [State.takePage, hp]
  | some p =>
    simp only [State.takePage, hp]
    exact alGet_alDel_same pg _

/-! ## Restoring a page (R402) -/

section Restore

variable {bs : List Byte} {u : State} {fs : List Flight} {qs : List Req} {key die : Nat}
  (hrec : s.readRec f.who.port.die f.asid none f.sa.toNat 0x20000 = .ok (bs, u))
  (hdie : (if f.sb = BitVec.allOnes 64 then ((s.task? f.ptn (recNat bs 0x8000 8)).map fun (k : Machine.Task) => k.die).getD 0
    else bits f.sb.toNat 14 12) = die)
  (hres : s.restored f.ptn die bs = .ok (p, fs, qs, key))
include hrec hdie hres

theorem pgrsStep_no_frame (hat : s.restoreAt f.ptn die p.kind f.sb = none) :
    s.pgrsStep f = s.flightFault f { cls := clsRange, code := 0x036, opnd := f.sb.toNat } := by
  simp only [State.pgrsStep, hrec, hdie, hres, hat]

theorem pgrsStep_restores (hat : s.restoreAt f.ptn die p.kind f.sb = some pg) :
    s.pgrsStep f = (s.putPage pg p fs qs key).performVal f (w64 (selOf pg p.kind)) (selOf pg p.kind != 0) false := by
  simp only [State.pgrsStep, hrec, hdie, hres, hat]

end Restore

/-! ## Dropping translations (R219, R388) -/

theorem tlbiStep_waits_for_accesses (hstage : f.stage = 0) (hmem : s.memBefore f ≠ 0) : s.tlbiStep f = s := by
  simp only [State.tlbiStep, if_pos hstage, if_pos hmem]

theorem tlbiStep_drops (hstage : f.stage = 0) (hmem : s.memBefore f = 0) :
    s.tlbiStep f = (s.dropTlbs f.sa.toNat f.sb).modFlight f.fid fun f => { f with stage := 1, aux := [s.ids] } := by
  simp only [State.tlbiStep, if_pos hstage, if_neg (not_not_intro hmem)]

theorem tlbiStep_waits_for_users (hstage : f.stage ≠ 0) (huses : ∃ q ∈ s.reqs, q.rid < f.aux.headD 0 ∧ q.asid = f.sa.toNat) :
    s.tlbiStep f = s := by
  have hany : (s.reqs.any fun r => r.uses f.sa.toNat (f.aux.headD 0)) = true := by simpa [Req.uses] using huses
  simp only [State.tlbiStep, if_neg hstage, hany, if_true]

theorem tlbiStep_done (hstage : f.stage ≠ 0) (hnone : ∀ q ∈ s.reqs, q.rid < f.aux.headD 0 → q.asid ≠ f.sa.toNat) :
    s.tlbiStep f = (s.dropTlbs f.sa.toNat f.sb).perform f Writes.none false false [] := by
  have hany : (s.reqs.any fun r => r.uses f.sa.toNat (f.aux.headD 0)) = false := by simpa [Req.uses] using hnone
  simp only [State.tlbiStep, if_neg hstage, hany, Bool.false_eq_true, if_false]

/-- No teller holds a translation of an ASID all of whose translations have been dropped. -/
theorem asid_ne_of_dropTlbs {a m : Nat} {z : Teller} (hz : (s.dropTlbs a (BitVec.allOnes 64)).tellers[m]? = some z) :
    ∀ e ∈ z.tlb, e.asid ≠ a := by
  simp only [State.dropTlbs, List.getElem?_map, Option.map_eq_some_iff] at hz
  obtain ⟨t, -, rfl⟩ := hz
  intro e he ha
  have hkeep := (List.mem_filter.mp he).2
  simp [Tlb.hit, ha] at hkeep

/-- Settles O50. Each clause is the equation of its word. The time of `PGRS` (log 4), RGNSTATE at a bad selector (log 141), and
that all ones choose the die of the task (log 49) are the model's choice. -/
theorem mailboxAndPageWords : Obligations.MailboxAndPageWords := by
  unfold Obligations.MailboxAndPageWords
  intro o s w x f p r a head out j step stop go reads open_
  refine ⟨fun h => ⟨sysMbx_no_mode h, fun ha => ?leaves, fun ha => ?removes⟩,
    fun h => ⟨pageR_misaligned (exec_sysPgsv o s) h, fun hgood ⟨hlow, hhigh⟩ => pageR_fires (exec_sysPgsv o s) h hgood hlow hhigh⟩,
    fun h => ⟨pageR_misaligned (exec_sysPgrs o s) h, fun hgood ⟨hlow, hhigh⟩ => pageR_fires (exec_sysPgrs o s) h hgood hlow hhigh⟩,
    fun h => ⟨sysTlbi_not_owned h, sysTlbi_fires h⟩, fun h hmay => ?save, fun h bs u fs qs key hrec => ?restore,
    fun h => ?tlbi, fun b m z => asid_ne_of_dropTlbs⟩
  case leaves =>
    have hmode : s.mbxMode w o = 1 := ha
    exact (sysMbx_reads h (by omega)).trans (by rw [if_neg (by omega)]; rfl)
  case removes =>
    have hmode : s.mbxMode w o = 0 := ha
    exact (sysMbx_reads h (by omega)).trans (by rw [if_pos hmode]; rfl)
  case save =>
    have saves {t : State} (hs : s.pgsvStep f = t) : step = .next t :=
      sys_performed (fn := 5) h rfl fun hfn => by simp only [State.sysStep, hfn]; exact hs
    exact ⟨fun hsel => saves (pgsvStep_no_frame hmay hsel), fun pg part hsel hp hr =>
      ⟨fun hbad => saves (pgsvStep_not_savable hmay hsel hp hr hbad), fun hkind hptn hpre bs u hbs hst =>
        ⟨saves (pgsvStep_saves hmay hsel hp hr hkind hptn hpre hbs hst), page?_takePage u pg bs⟩⟩⟩
  case restore =>
    intro die hres
    have restores {t : State} (hs : s.pgrsStep f = t) : step = .next t :=
      sys_performed (fn := 6) h rfl fun hfn => by simp only [State.sysStep, hfn]; exact hs
    exact ⟨fun hat => restores (pgrsStep_no_frame hrec rfl hres hat), fun pg hat => restores (pgrsStep_restores hrec rfl hres hat)⟩
  case tlbi =>
    have drops {t : State} (hs : s.tlbiStep f = t) : step = .next t :=
      sys_performed (fn := 7) h rfl fun hfn => by simp only [State.sysStep, hfn]; exact hs
    exact ⟨fun hstage hmem => drops (tlbiStep_waits_for_accesses hstage hmem),
      fun hstage hmem => drops (tlbiStep_drops hstage hmem), fun hstage huses => drops (tlbiStep_waits_for_users hstage huses),
      fun hstage hnone => drops (tlbiStep_done hstage hnone)⟩

end Sys2Proof.Machine
end

section
/-!
SUPPORT. Range words (R332, R362): how they join the requests at a controller, and what a word or a steal request comes to in its
turn.
-/

set_option Elab.async false

namespace Sys2Proof.Machine

variable {s : State} {i : Instr} {w : Who} {x : Word} {o : FormR} {f : Flight} {fn : BitVec 3} {r v t : Region}

/-! ## Range words fire (R362) -/

/-- The instance that a range word names: none of a word without an operand. -/
def namedInstance (names : Bool) (j : Flight) : Option Nat := if names then some j.sa.toNat else none

section Fires

variable {names : Bool} (he : exec i s = rangeR o names s) (h : Fires s i o.g w x)
include he h

theorem rangeR_no_range (hno : s.taken.noRange w (namedInstance names (s.jobOf w x)) = true) :
    exec i s = .next (s.taken.raise w x { cls := clsRange, code := 0x02B, opnd := (s.jobOf w x).sa.toNat }) :=
  he.trans (fireJob_error h (if_pos hno))

theorem rangeR_joins {q : Region} (hrange : s.taken.noRange w (namedInstance names (s.jobOf w x)) = false) :
    let soon := jobHolds (s.jobOf w x) o.d.toNat (s.fc + 1)
    let u := s.handed w o.g soon
    u.rangeRegion soon = some q →
      exec i s = .next (u.modRegion q.key fun q => { q with stealq := q.stealq ++ [(soon.fid, q.inst)] }) := by
  intro soon u hq
  have hgo : ¬ s.taken.noRange w (namedInstance names (s.jobOf w x)) = true := by rw [hrange]; exact Bool.false_ne_true
  refine he.trans ((fireJob_ok h (j := soon) (if_neg hgo)).trans ?_)
  change Host.Outcome.next (match u.rangeRegion soon with
    | some r => u.modRegion r.key fun r => { r with stealq := r.stealq ++ [(soon.fid, r.inst)] }
    | none => u) = _
  rw [hq]

end Fires

/-! ## A word in its turn (R332, R362) -/

theorem range_performed {t : State} (h : s.Performing i f) (hi : encode i = some (packR 0x7A fn o))
    (hs : fnOf f.word = fn.toNat → s.rangeStep f = t) : exec (.instructionPerformed f.fid) s = .next t :=
  performed_word h hi (fun hw => step_range (opcOf_word hw)) fun hw => hs (fnOf_word hw)

/-- The task of a region is cancelled, or is no more. -/
def State.taskGone (s : State) (r : Region) : Bool := ((s.taskOfRegion r).map (·.cancelled)).getD true

section Turn

variable (hr : s.rangeRegion f = some r) (hturn : s.rangeTurn r f.fid = true)
include hr hturn

section Get

variable (hfn : fnOf f.word = 0)
include hfn

theorem rangeStep_get_reissues {ix : Nat} (hix : r.rerun.head? = some ix) (hlive : s.taskGone r = false) (hst : r.st = .armed) :
    s.rangeStep f = (s.modRegion r.key fun r => r.reissue ix).rangeDone r f (w64 ix) true false := by
  unfold State.taskGone at hlive
  simp only [State.rangeStep, hr, hturn, Bool.not_true, Bool.false_eq_true, if_false, hfn, hix, hlive, hst]
  rfl

variable (hnone : r.rerun = [] ∨ s.taskGone r = true ∨ r.st ≠ .armed)
include hnone

omit hr hturn hfn in
theorem no_reissue : r.rerun.head?.filter (fun _ => !s.taskGone r && r.st == .armed) = none := by
  cases hix : r.rerun.head? with
  | none => rfl
  | some ix =>
    rcases hnone with he | hg | hst
    · rw [he] at hix
      exact absurd hix nofun
    · simp [Option.filter, hg]
    · simp [Option.filter, hst]

theorem rangeStep_get_next (hmore : r.cur < r.lim) (hlive : s.taskGone r = false) (hopen : r.finished = false)
    (hmay : s.mayIssueTile r r.cur = true) :
    s.rangeStep f = ((s.issueTile r r.cur).modRegion r.key fun r => { r with cur := r.cur + 1 }).rangeDone r f (w64 r.cur)
      true false := by
  have hre := no_reissue hnone
  unfold State.taskGone at hlive hre
  simp only [State.rangeStep, hr, hturn, Bool.not_true, Bool.false_eq_true, if_false, hfn, hre]
  simp only [hlive, hmore, hopen, hmay, Bool.not_false, and_self, if_true]

theorem rangeStep_get_exhausted (hend : r.finished = true ∨ s.taskGone r = true) :
    s.rangeStep f = s.rangeDone r f exhausted false true := by
  have hre := no_reissue hnone
  have hgo : ¬(r.cur < r.lim ∧ (!s.taskGone r) = true ∧ (!r.finished) = true) := by
    rintro ⟨-, hlive, hopen⟩
    rcases hend with he | he <;> simp [he] at hlive hopen
  unfold State.taskGone at hre hgo hend
  simp only [State.rangeStep, hr, hturn, Bool.not_true, Bool.false_eq_true, if_false, hfn, hre, if_neg hgo, if_pos hend]

end Get

theorem rangeStep_done (hfn : fnOf f.word = 3) :
    s.rangeStep f = (s.modRegion r.key fun r => { r with finished := true }).rangeDone r f (w64 (r.lim - r.cur))
      (r.lim - r.cur != 0) false := by
  simp only [State.rangeStep, hr, hturn, Bool.not_true, Bool.false_eq_true, if_false, hfn]
  rfl

section Split

variable (hfn : fnOf f.word = 2) (hv : s.instanceAt r f.sa.toNat = some v)
include hfn hv

theorem rangeStep_split_refused (hno : r.lim - r.cur < 2 ∨ v.lim - v.cur ≠ 0) :
    s.rangeStep f = s.rangeDone r f 0 false true := by
  have hsplit : s.splitTo r v = none := if_pos hno
  simp only [State.rangeStep, hr, hturn, Bool.not_true, Bool.false_eq_true, if_false, hfn, hv, Option.bind_some, hsplit]

/-- The upper half of `r`'s range given to `v`. -/
def State.halved (s : State) (r v : Region) : State :=
  (s.modRegion r.key fun x => { x with lim := r.cur + (r.lim - r.cur + 1) / 2 }).modRegion v.key fun x =>
    { x with cur := r.cur + (r.lim - r.cur + 1) / 2, lim := r.lim }

omit hr hturn hfn hv in
theorem splitTo_halves (hmany : 2 ≤ r.lim - r.cur) (hempty : v.lim - v.cur = 0) :
    s.splitTo r v = some (r.lim - (r.cur + (r.lim - r.cur + 1) / 2), s.halved r v) := by
  have hgo : ¬(r.left < 2 ∨ v.left ≠ 0) := by
    unfold Region.left
    omega
  rw [State.splitTo, if_neg hgo]
  rfl

theorem rangeStep_split_gives (hmany : 2 ≤ r.lim - r.cur) (hempty : v.lim - v.cur = 0) :
    s.rangeStep f = (s.halved r v).rangeDone r f (w64 (r.lim - (r.cur + (r.lim - r.cur + 1) / 2))) true false := by
  simp only [State.rangeStep, hr, hturn, Bool.not_true, Bool.false_eq_true, if_false, hfn, hv, Option.bind_some,
    splitTo_halves hmany hempty]

end Split

section Steal

variable (hfn : fnOf f.word = 1)
include hfn

theorem rangeStep_steal_not_empty (hmore : r.lim - r.cur ≠ 0) :
    s.rangeStep f = (s.unrange r.key f.fid).flightFault f { cls := clsRange, code := 0x02C, opnd := f.sa.toNat } := by
  have hleft : r.left ≠ 0 := hmore
  simp only [State.rangeStep, hr, hturn, Bool.not_true, Bool.false_eq_true, if_false, hfn, if_pos hleft]

theorem rangeStep_steal_asks (hempty : r.lim - r.cur = 0) (hv : s.instanceAt r f.sa.toNat = some v) :
    s.rangeStep f = s.sendSteal r v f 0 := by
  have hleft : ¬ r.left ≠ 0 := not_not_intro hempty
  simp only [State.rangeStep, hr, hturn, Bool.not_true, Bool.false_eq_true, if_false, hfn, if_neg hleft, hv]

end Steal

end Turn

/-! ## A steal request in its turn at the victim (R332) -/

section Serve

variable {rg fid inst : Nat} (hv : s.region? rg = some v) (hnext : s.nextSteal v = some (fid, inst)) (hf : s.flight? fid = some f)
  (ht : s.instanceAt v inst = some t)
include hv hnext hf ht

/-- A `RANGE.GET` goes on when the steal it waited for has been answered. -/
def State.getAgain (s : State) (fid : Nat) : State :=
  (s.modFlight fid fun f => { f with stage := 0 }).now (.instructionPerformed fid)

section Gives

variable (hmany : 2 ≤ v.lim - v.cur) (hempty : t.lim - t.cur = 0)
include hmany hempty

theorem stealRequestServe_gives_get (hfn : fnOf f.word = 0) :
    exec (.stealRequestServe rg) s = .next (((s.unrange rg fid).halved v t).getAgain fid) := by
  change execStealRequestServe rg s = _
  simp only [execStealRequestServe, hv, hnext, hf, ht, splitTo_halves hmany hempty, if_pos hfn]
  rfl

theorem stealRequestServe_gives_steal (hfn : ¬ fnOf f.word = 0) :
    exec (.stealRequestServe rg) s = .next (((s.unrange rg fid).halved v t).rangeDone t f
      (w64 (v.lim - (v.cur + (v.lim - v.cur + 1) / 2))) true false) := by
  change execStealRequestServe rg s = _
  simp only [execStealRequestServe, hv, hnext, hf, ht, splitTo_halves hmany hempty, if_neg hfn]

end Gives

section Refuses

variable (hno : v.lim - v.cur < 2 ∨ t.lim - t.cur ≠ 0)
include hno

omit hv hnext hf ht in
theorem splitTo_refused : s.splitTo v t = none := if_pos hno

theorem stealRequestServe_refuses_steal (hfn : fnOf f.word ≠ 0) :
    exec (.stealRequestServe rg) s = .next ((s.unrange rg fid).rangeDone t f 0 false true) := by
  change execStealRequestServe rg s = _
  simp only [execStealRequestServe, hv, hnext, hf, ht, splitTo_refused hno, if_pos hfn]

theorem stealRequestServe_get_again (hfn : ¬ fnOf f.word ≠ 0) (hmore : t.left ≠ 0) :
    exec (.stealRequestServe rg) s = .next ((s.unrange rg fid).getAgain fid) := by
  change execStealRequestServe rg s = _
  simp only [execStealRequestServe, hv, hnext, hf, ht, splitTo_refused hno, if_neg hfn, if_pos hmore]
  rfl

theorem stealRequestServe_get_asks_on (hfn : ¬ fnOf f.word ≠ 0) (hempty : ¬ t.left ≠ 0) :
    exec (.stealRequestServe rg) s = .next ((s.unrange rg fid).getAsk t f (f.aux.headD 0 + 1)) := by
  change execStealRequestServe rg s = _
  simp only [execStealRequestServe, hv, hnext, hf, ht, splitTo_refused hno, if_neg hfn, if_neg hempty]

end Refuses

end Serve

/-- Settles O43. Each clause is the equation of its word, or of `STEAL_REQUEST_SERVE`. That a doomed tile-task is handed out
again before the next index (log 126), and that NORANGE is raised at firing (log 60), is the model's choice. -/
theorem rangeWordsAndSteals : Obligations.RangeWordsAndSteals := by
  unfold Obligations.RangeWordsAndSteals
  refine ⟨?words, ?steals⟩
  case words =>
    intro o s w x f r v j soon u names step answer gone
    simp only [names, List.forall_mem_cons, List.not_mem_nil, false_imp_iff, implies_true, and_true]
    have fires {i : Instr} {named : Bool} (he : exec i s = rangeR o named s) (h : Fires s i o.g w x) :
        (s.taken.noRange w (namedInstance named j) = true →
          exec i s = .next (s.taken.raise w x { cls := clsRange, code := 0x02B, opnd := j.sa.toNat })) ∧
        (∀ q, s.taken.noRange w (namedInstance named j) = false → u.rangeRegion soon = some q → exec i s = .next
          (u.modRegion q.key fun q => { q with stealq := q.stealq ++ [(soon.fid, q.inst)] })) :=
      ⟨rangeR_no_range he h, fun q hrange => rangeR_joins he h hrange⟩
    refine ⟨⟨fires (named := false) rfl, fires (named := false) rfl, fires (named := true) rfl, fires (named := true) rfl⟩,
      fun hr hturn => ⟨fun h ix hix hlive hst => ?again, fun h hnone => ⟨fun hmore hlive hopen hmay => ?next, fun hend => ?exhausted⟩,
        fun h => ?done, fun h hv => ⟨fun hno => ?refused, fun hmany hempty => ?gives⟩,
        fun h => ⟨fun hmore => ?notEmpty, fun hempty hv => ?asks⟩⟩⟩
    case again => exact range_performed (fn := 0) h rfl fun hfn => rangeStep_get_reissues hr hturn hfn hix hlive hst
    case next => exact range_performed (fn := 0) h rfl fun hfn => rangeStep_get_next hr hturn hfn hnone hmore hlive hopen hmay
    case exhausted => exact range_performed (fn := 0) h rfl fun hfn => rangeStep_get_exhausted hr hturn hfn hnone hend
    case done => exact range_performed (fn := 3) h rfl fun hfn => rangeStep_done hr hturn hfn
    case refused => exact range_performed (fn := 2) h rfl fun hfn => rangeStep_split_refused hr hturn hfn hv hno
    case gives => exact range_performed (fn := 2) h rfl fun hfn => rangeStep_split_gives hr hturn hfn hv hmany hempty
    case notEmpty => exact range_performed (fn := 1) h rfl fun hfn => rangeStep_steal_not_empty hr hturn hfn hmore
    case asks => exact range_performed (fn := 1) h rfl fun hfn => rangeStep_steal_asks hr hturn hfn hempty hv
  case steals =>
    intro s rg fid i v t f o u mid given again step hv hnext hf ht
    have steals (he : encode (.rangeSteal o) = some f.word) : fnOf f.word = 1 := fnOf_word (word_eq he (opc := 0x7A) (fn := 1) rfl)
    have gets (he : encode (.rangeGet o) = some f.word) : fnOf f.word = 0 := fnOf_word (word_eq he (opc := 0x7A) (fn := 0) rfl)
    refine ⟨fun hmany hempty => ?gives, fun hno => ?refuses⟩
    case gives =>
      exact ⟨fun he => stealRequestServe_gives_steal hv hnext hf ht hmany hempty (by rw [steals he]; decide),
        fun he => stealRequestServe_gives_get hv hnext hf ht hmany hempty (gets he)⟩
    case refuses =>
      exact ⟨fun he => stealRequestServe_refuses_steal hv hnext hf ht hno (by rw [steals he]; decide),
        fun he => ⟨stealRequestServe_get_again hv hnext hf ht hno (not_not_intro (gets he)),
          fun hempty => stealRequestServe_get_asks_on hv hnext hf ht hno (not_not_intro (gets he)) (not_not_intro hempty)⟩⟩

end Sys2Proof.Machine
end

section
/-!
SUPPORT. Task words (R353, R358-R361): how they fire, how they reach their die's scheduler, and how each is answered in its turn.
-/

set_option Elab.async false

namespace Sys2Proof.Machine

variable {s v : State} {i : Instr} {w : Who} {x : Word} {o : FormR} {f g : Flight} {fn : BitVec 3} {k : Task}

/-! ## `TASK.LNCH` fires (R359) -/

theorem execTaskLnch_misaligned (h : Fires s i o.g w x) (hmis : (s.jobOf w x).sa.toNat % 64 ≠ 0) :
    execTaskLnch o s = .next (s.taken.raise w x { cls := clsAlign, code := 8, opnd := (s.jobOf w x).sa.toNat }) :=
  fireJob_error h (by simp only [alignFault_misaligned hmis, Option.orElse_some])

theorem execTaskLnch_reads (h : Fires s i o.g w x) (hal : (s.jobOf w x).sa.toNat % 64 = 0)
    (hmap : s.taken.telAddr w (s.jobOf w x).asid (s.jobOf w x).sa.toNat .load false = none) :
    let reads : Flight := { jobHolds (s.jobOf w x) o.d.toNat (s.fc + 1) with plan := recParts (s.jobOf w x).sa.toNat 64 }
    execTaskLnch o s = .next (jobPost reads (s.handed w o.g reads)) :=
  fireJob_ok h (by simp only [alignFault_aligned hal, Option.orElse_none, hmap]; rfl)

/-! ## A word reaches its scheduler (R353, R359) -/

theorem flight?_modFlight_aux (hf : s.flight? f.fid = some f) (aux : List Nat) :
    (s.modFlight f.fid fun f => { f with aux := aux }).flight? f.fid = some { f with aux := aux } := by
  simp only [State.flight?, State.modFlight, List.find?_map] at hf ⊢
  rw [show ((fun h : Flight => decide (h.fid = f.fid)) ∘ fun h => if h.fid = f.fid then { h with aux := aux } else h) =
    fun h => decide (h.fid = f.fid) from funext fun h => by simp only [Function.comp_apply]; split <;> rfl, hf]
  simp only [Option.map_some, if_true]

/-- The flight at the scheduler is the outstanding one but for the number under which it waits. -/
theorem taskArrive_flight (hf : s.flight? f.fid = some f) (hg : (s.taskArrive f).flight? f.fid = some g) :
    ∃ aux, g = { f with aux := aux } := by
  unfold State.taskArrive at hg
  split at hg
  · exact ⟨f.aux, Option.some.inj (hg.symm.trans hf)⟩
  · have hnew : s.newId.2.flight? f.fid = some f := hf
    exact ⟨_, Option.some.inj (hg.symm.trans (flight?_modFlight_aux hnew _))⟩

theorem taskArrive_numbers (haux : f.aux = []) (hgo : fnOf f.word = 0 → s.mayIssue f = true) :
    s.taskArrive f = (s.newId).2.modFlight f.fid fun f => { f with aux := [(s.newId).1] } := by
  have hnot : ¬(f.aux ≠ [] ∨ (fnOf f.word = 0 ∧ (!s.mayIssue f) = true)) := by
    rintro (h | ⟨hfn, hmay⟩)
    · exact h haux
    · rw [hgo hfn] at hmay
      exact absurd hmay nofun
  exact if_neg hnot

/-! ## A word is served in its turn (R353) -/

/-- The step of each task word at the scheduler. -/
def State.taskServe (s : State) (f : Flight) : State :=
  match fnOf f.word with
  | 0 => s.lnchStep f
  | 1 => s.seqStep f
  | 2 => s.cnclStep f
  | 3 => match s.task? f.ptn f.sa.toNat with
    | some k => s.performVal f (s.qryWord k) (s.qryWord k != 0) false
    | none => s.performVal f 0 false true
  | _ => s.prioStep f

theorem taskStep_turn (hg : (s.taskArrive f).flight? f.fid = some g) :
    s.taskStep f = if (s.taskArrive f).taskTurn g then (s.taskArrive f).taskServe g else s.taskArrive f := by
  simp only [State.taskStep, hg]
  cases (s.taskArrive f).taskTurn g <;> rfl

theorem task_waits (h : s.Performing i f) (hi : encode i = some (packR 0x79 fn o))
    (hg : (s.taskArrive f).flight? f.fid = some g) (hturn : (s.taskArrive f).taskTurn g = false) :
    exec (.instructionPerformed f.fid) s = .next (s.taskArrive f) :=
  performed_word h hi (fun hw => step_task (opcOf_word hw)) fun _ =>
    (taskStep_turn hg).trans (if_neg (hturn ▸ Bool.false_ne_true))

/-- A word in its turn does what its function code says, with its own operands. -/
theorem task_served {t : State} (h : s.Performing i f) (hi : encode i = some (packR 0x79 fn o))
    (hg : (s.taskArrive f).flight? f.fid = some g) (hturn : (s.taskArrive f).taskTurn g = true)
    (hserve : fnOf g.word = fn.toNat → g.sa = f.sa → g.sb = f.sb → (s.taskArrive f).taskServe g = t) :
    exec (.instructionPerformed f.fid) s = .next t := by
  obtain ⟨aux, hgf⟩ := taskArrive_flight h.1 hg
  refine performed_word h hi (fun hw => step_task (opcOf_word hw)) fun hw => ?_
  rw [taskStep_turn hg, if_pos hturn]
  exact hserve (by rw [hgf]; exact fnOf_word hw) (by rw [hgf]) (by rw [hgf])

/-! ## The words (R327, R336, R359-R361) -/

section Serve

theorem taskServe_lnch (hfn : fnOf f.word = 0) : s.taskServe f = s.lnchStep f := by simp only [State.taskServe, hfn]
theorem taskServe_seq (hfn : fnOf f.word = 1) : s.taskServe f = s.seqStep f := by simp only [State.taskServe, hfn]
theorem taskServe_cncl (hfn : fnOf f.word = 2) : s.taskServe f = s.cnclStep f := by simp only [State.taskServe, hfn]
theorem taskServe_prio (hfn : fnOf f.word = 4) : s.taskServe f = s.prioStep f := by simp only [State.taskServe, hfn]

theorem taskServe_qry_unknown (hfn : fnOf f.word = 3) (hk : s.task? f.ptn f.sa.toNat = none) :
    s.taskServe f = s.performVal f 0 false true := by simp only [State.taskServe, hfn, hk]

theorem taskServe_qry_known (hfn : fnOf f.word = 3) (hk : s.task? f.ptn f.sa.toNat = some k) :
    s.taskServe f = s.performVal f (s.qryWord k) (s.qryWord k != 0) false := by simp only [State.taskServe, hfn, hk]

end Serve

/-- What `TASK.LNCH` finds out about the record it has read. -/
def State.lnchFound (s : State) (f : Flight) : Nat × Option Launch :=
  s.lnchStatus f.who.port.die f.ptn (if recNat f.bytes 0x20 2 = 0 then f.asid else recNat f.bytes 0x20 2) f.bytes

section Launch

variable (hread : f.HasRead)
include hread

theorem lnchStep_refused (hst : (s.lnchFound f).1 ≠ 0) : s.lnchStep f = s.status f (s.lnchFound f).1 0 := by
  unfold State.lnchFound at hst ⊢
  rw [State.lnchStep, withRec_read hread]
  generalize s.lnchStatus _ _ _ _ = found at hst ⊢
  obtain ⟨st, l⟩ := found
  cases st with
  | zero => exact absurd rfl hst
  | succ st => rfl

variable {l : Launch} {q : Nat} (hfound : s.lnchFound f = (0, some l))
  (hq : s.queueFor l.die f.ptn (trecOf f.bytes).prio = some q)
include hfound hq

theorem lnchStep_queue : s.lnchStep f =
    if ((s.die l.die).lq.getD q []).length < 32 then s.launchTask f f.bytes l q else s := by
  unfold State.lnchFound at hfound
  simp only [State.lnchStep, withRec_read hread, hfound, hq]

theorem lnchStep_launches (hroom : ((s.die l.die).lq.getD q []).length < 32) : s.lnchStep f = s.launchTask f f.bytes l q :=
  (lnchStep_queue hread hfound hq).trans (if_pos hroom)

theorem lnchStep_waits (hfull : 32 ≤ ((s.die l.die).lq.getD q []).length) : s.lnchStep f = s :=
  (lnchStep_queue hread hfound hq).trans (if_neg (Nat.not_lt.mpr hfull))

end Launch

section Unknown

variable (hk : s.liveTask f = none)
include hk

theorem seqStep_unknown : s.seqStep f = s.status f 8 0 := by simp only [State.seqStep, hk]
theorem prioStep_unknown : s.prioStep f = s.status f 8 0 := by simp only [State.prioStep, hk]

end Unknown

section Live

variable (hk : s.liveTask f = some k)
include hk

theorem seqStep_no_sequence (hseq : k.trec.seq = false) : s.seqStep f = s.status f 9 0 := by
  simp only [State.seqStep, hk, hseq, Bool.not_false, if_true]

theorem seqStep_step (hseq : k.trec.seq = true) : s.seqStep f = if k.steps.length ≤ f.sb.toNat then s.status f 10 0
    else (s.modTask k.ptn k.lseq fun k => { k with pending := some f.sb.toNat }).status f 0 k.lseq := by
  simp only [State.seqStep, hk, hseq, Bool.not_true, Bool.false_eq_true, if_false]

theorem prioStep_not_queued (hst : k.st ≠ .queued) : s.prioStep f = s.status f 11 0 := by
  simp only [State.prioStep, hk, ne_eq, hst, not_false_eq_true, if_true]

variable (hst : k.st = .queued)
include hst

theorem prioStep_bad (hbad : 3 < f.sb.toNat) : s.prioStep f = s.status f 1 0 := by
  simp only [State.prioStep, hk, hst, ne_eq, not_true_eq_false, if_false, hbad, if_true]

variable (hok : f.sb.toNat ≤ 3)
include hok

theorem prioStep_no_queue (hq : s.queueFor k.die k.ptn f.sb.toNat = none) : s.prioStep f = s.status f 2 0 := by
  simp only [State.prioStep, hk, hst, ne_eq, not_true_eq_false, if_false, Nat.not_lt.mpr hok, hq]

theorem prioStep_moves {q : Nat} (hq : s.queueFor k.die k.ptn f.sb.toNat = some q)
    (hroom : (((s.lqDrop k.die k.queue k.ptn k.lseq).die k.die).lq.getD q []).length < 32) :
    s.prioStep f = ((((s.lqDrop k.die k.queue k.ptn k.lseq).lqPush k.die q k.ptn k.lseq).modTask k.ptn k.lseq fun k =>
      { k with queue := q, trec := { k.trec with prio := f.sb.toNat } }).status f 0 k.lseq) := by
  simp only [State.prioStep, hk, hst, ne_eq, not_true_eq_false, if_false, Nat.not_lt.mpr hok, hq, if_pos hroom]

end Live

theorem cnclStep_bad (hbad : f.sa.toNat = 0 ∨ 255 < f.sa.toNat) :
    s.cnclStep f = s.flightFault f { cls := clsRange, code := 0x02D, opnd := f.sa.toNat } := if_pos hbad

theorem cnclStep_marks (hpos : 0 < f.sa.toNat) (hle : f.sa.toNat ≤ 255) :
    let ks := s.tasks.filter fun k => k.ptn == f.ptn && k.trec.cgroup == f.sa.toNat && k.st != .ended && !k.cancelled
    s.cnclStep f = (ks.foldl State.cancelTask s).performVal f (w64 ks.length) (ks ≠ []) false :=
  if_neg (by omega)

/-- Settles O42. A word that has not its turn has only reached the scheduler; in its turn, each clause is the equation of its
word. That `LNCH` reaches the scheduler only once its context's earlier work is performed, and that the words are served in the
order they reached it (log 132), is the model's choice. -/
theorem taskWords : Obligations.TaskWords := by
  unfold Obligations.TaskWords
  intro o s w x f g k j soon reads step v answer b
  simp only [List.forall_mem_cons, List.not_mem_nil, false_imp_iff, implies_true, and_true]
  have soon_fires {i : Instr} (he : exec i s = soonR o true s) (h : Fires s i o.g w x) :
      exec i s = .next (jobPost soon (s.handed w o.g soon)) := he.trans (soonR_ok true h)
  refine ⟨fun h => ⟨execTaskLnch_misaligned h, execTaskLnch_reads h⟩,
    ⟨soon_fires rfl, soon_fires rfl, soon_fires rfl, soon_fires rfl⟩, taskArrive_numbers, fun hg => ⟨?waits, fun hturn =>
      ⟨fun h hissued hleft => ?lnch, fun hk => ⟨fun h => ?seqUnknown, fun h => ?prioUnknown⟩,
        fun hk => ⟨fun h => ?seq, fun h => ?prio⟩, fun h => ?cncl, fun h => ?qry⟩⟩⟩
  case waits =>
    have waits {i : Instr} {fn : BitVec 3} (hi : encode i = some (packR 0x79 fn o)) (h : s.Performing i f)
      (hturn : v.taskTurn g = false) : step = .next v := task_waits h hi hg hturn
    exact ⟨waits (fn := 0) rfl, waits (fn := 1) rfl, waits (fn := 2) rfl, waits (fn := 3) rfl, waits (fn := 4) rfl⟩
  case lnch =>
    have serve {t : State} (ht : v.lnchStep g = t) : step = .next t :=
      task_served (fn := 0) h rfl hg hturn fun hfn _ _ => (taskServe_lnch hfn).trans ht
    have hread : g.HasRead := ⟨hissued, hleft⟩
    exact ⟨fun hst => serve (lnchStep_refused hread hst), fun l q hfound hq =>
      ⟨fun hroom => serve (lnchStep_launches hread hfound hq hroom), fun hfull => serve (lnchStep_waits hread hfound hq hfull)⟩⟩
  case seqUnknown => exact task_served (fn := 1) h rfl hg hturn fun hfn _ _ => (taskServe_seq hfn).trans (seqStep_unknown hk)
  case prioUnknown => exact task_served (fn := 4) h rfl hg hturn fun hfn _ _ => (taskServe_prio hfn).trans (prioStep_unknown hk)
  case seq =>
    have serve {t : State} (ht : g.sb = f.sb → v.seqStep g = t) : step = .next t :=
      task_served (fn := 1) h rfl hg hturn fun hfn _ hb => (taskServe_seq hfn).trans (ht hb)
    exact ⟨fun hseq => serve fun _ => seqStep_no_sequence hk hseq,
      fun hseq hout => serve fun hb => (seqStep_step hk hseq).trans (if_pos (hb ▸ hout)),
      fun hseq hin => serve fun hb => (seqStep_step hk hseq).trans ((if_neg (hb ▸ Nat.not_le.mpr hin)).trans (by rw [hb]; rfl))⟩
  case prio =>
    have serve {t : State} (ht : g.sb = f.sb → v.prioStep g = t) : step = .next t :=
      task_served (fn := 4) h rfl hg hturn fun hfn _ hb => (taskServe_prio hfn).trans (ht hb)
    refine ⟨fun hst => serve fun _ => prioStep_not_queued hk hst, fun hst hbad => serve fun hb => prioStep_bad hk hst (hb ▸ hbad),
      fun hst hok => ⟨fun hq => serve fun hb => prioStep_no_queue hk hst (hb ▸ hok) (hb ▸ hq), fun q hq hroom => ?moves⟩⟩
    case moves => exact serve fun hb => (prioStep_moves hk hst (hb ▸ hok) (hb ▸ hq) hroom).trans (by rw [hb]; rfl)
  case cncl =>
    have serve {t : State} (ht : g.sa = f.sa → v.cnclStep g = t) : step = .next t :=
      task_served (fn := 2) h rfl hg hturn fun hfn ha _ => (taskServe_cncl hfn).trans (ht ha)
    exact ⟨fun hbad => serve fun ha => (cnclStep_bad (ha ▸ hbad)).trans (by rw [ha]), fun hpos hle => serve fun ha =>
      (cnclStep_marks (ha ▸ hpos) (ha ▸ hle)).trans (by rw [ha]; rfl)⟩
  case qry =>
    exact ⟨fun hk => task_served (fn := 3) h rfl hg hturn fun hfn ha _ => taskServe_qry_unknown hfn (ha ▸ hk),
      fun hk => task_served (fn := 3) h rfl hg hturn fun hfn ha _ => taskServe_qry_known hfn (ha ▸ hk)⟩

end Sys2Proof.Machine
end

section
/-!
SUPPORT. Assay words (R294): how they set out for the home die of their tree, and how the die's assay unit performs them.
-/

set_option Elab.async false

namespace Sys2Proof.Machine

variable {s t u : State} {i : Instr} {w : Who} {x : Word} {o : FormR} {f : Flight}

/-! ## What a latency changes (R217, R375) -/

/-- `t` is `s` but for the numbers taken and the links' traffic. -/
def State.SameButTraffic (s t : State) : Prop := ∃ free links, t = { s with free := free, links := links }

theorem State.SameButTraffic.refl (s : State) : s.SameButTraffic s := ⟨s.free, s.links, rfl⟩

theorem State.SameButTraffic.trans (h : s.SameButTraffic t) (h' : t.SameButTraffic u) : s.SameButTraffic u := by
  obtain ⟨_, _, rfl⟩ := h
  obtain ⟨free, links, rfl⟩ := h'
  exact ⟨free, links, rfl⟩

theorem State.SameButTraffic.eq (h : s.SameButTraffic t) : t = { s with free := t.free, links := t.links } := by
  obtain ⟨_, _, rfl⟩ := h
  rfl

theorem fresh_traffic (s : State) : s.SameButTraffic s.fresh.2 := ⟨s.free + 1, s.links, rfl⟩

theorem foldl_snd_traffic {α β : Type} {step : β × State → α → β × State}
    (h : ∀ (y : β × State) a, y.2.SameButTraffic (step y a).2)
    (l : List α) (y : β × State) : y.2.SameButTraffic (l.foldl step y).2 := by
  induction l generalizing y with
  | nil => exact .refl y.2
  | cons a l ih => exact (h y a).trans (ih (step y a))

theorem cross_traffic (s : State) (path : List (Nat × Bool)) (n : Nat) : s.SameButTraffic (s.cross path n).2 :=
  by
  unfold State.cross
  refine foldl_snd_traffic ?_ path (n, s)
  exact fun y _ => ⟨y.2.free, _, rfl⟩

theorem linkWaits_traffic (s : State) (from_ : Nat × Nat × Nat × Nat) (dst inner : Nat) :
    s.SameButTraffic (s.linkWaits from_ dst inner).2 := (cross_traffic s _ _).trans (cross_traffic _ _ _)

theorem latency_traffic (s : State) (port : Port) (k : Nat) (store : Bool) : s.SameButTraffic (s.latency port k store).2 := by
  unfold State.latency
  generalize decide (vaultKey ≤ k) = vlt
  have hs : s.SameButTraffic (if vlt = true then (0, s) else s.fresh).2 := by
    cases vlt
    · exact fresh_traffic s
    · exact .refl s
  dsimp only
  generalize (if vlt = true then (0, s) else s.fresh) = y at hs ⊢
  exact iteInduction (motive := fun z : Nat × State => s.SameButTraffic z.2) (fun _ => hs)
    fun _ => hs.trans (linkWaits_traffic ..)

/-! ## Assay words fire (R294) -/

/-- A word that fires holds D. -/
def Flight.holdingD (f : Flight) (o : FormR) : Flight := { f with holds := f.holds ++ destHolds o.d.toNat }

/-- When the operation of a word reaches its home die. -/
def State.assayArrives (s : State) (f : Flight) : Nat :=
  s.fc + 28 * linkHops f.who.access.1 f.who.access.2.1 (s.assayHome f).1

/-- When a word is answered at the earliest, and the state in which its accesses have been counted. -/
def State.assayAnswer (s : State) (f : Flight) : Nat × State :=
  let key := (s.assayHome f).2.getD vaultKey
  let go := s.latency f.port key false
  let back := go.2.latency f.port key true
  (s.assayArrives f + go.1 + back.1 + back.2.fresh.1 % 4096, back.2.fresh.2)

theorem assayAnswer_traffic (s : State) (f : Flight) : s.SameButTraffic (s.assayAnswer f).2 :=
  ((latency_traffic s f.port _ false).trans (latency_traffic _ f.port _ true)).trans (fresh_traffic _)

theorem assayArrives_le_answer (s : State) (f : Flight) : s.assayArrives f ≤ (s.assayAnswer f).1 :=
  Nat.le_add_right_of_le (Nat.le_add_right_of_le (Nat.le_add_right _ _))

/-- The checks of an assay word as it fires. -/
def assayChecked (o : FormR) (align : Nat) (f : Flight) : Except FaultInfo Flight :=
  match (alignFault 7 f.sa.toNat 64).orElse fun _ => if align = 0 then none else alignFault 7 f.sb.toNat align with
  | some e => .error { e with opnd := f.sa.toNat }
  | none => .ok (f.holdingD o)

/-- A word sets out: it waits at its home die from its arrival on. -/
def State.assaySent (s : State) (f : Flight) : State :=
  ((s.assayAnswer f).2.modFlight f.fid fun g => { g with after := (s.assayAnswer f).1 }).modDie (s.assayHome f).1 fun d =>
    { d with assay := assayIn ⟨f.fid, s.assayArrives f⟩ d.assay }

theorem assayR_fires (o : FormR) (align : Nat) (s : State) :
    assayR o align s = fireJob o.g (fun _ _ _ f => assayChecked o align f) (fun f s => s.assaySent f) s := rfl

section Fires

variable {align : Nat} (he : exec i s = assayR o align s) (h : Fires s i o.g w x)
include he h

theorem assayR_misaligned_record (hmis : (s.jobOf w x).sa.toNat % 64 ≠ 0) :
    exec i s = .next (s.taken.raise w x { cls := clsAlign, code := 7, opnd := (s.jobOf w x).sa.toNat }) :=
  (he.trans (assayR_fires o align s)).trans (fireJob_error h (by rw [assayChecked, alignFault_misaligned hmis]; rfl))

variable (hal : (s.jobOf w x).sa.toNat % 64 = 0)
include hal

theorem assayR_misaligned_row (halign : align ≠ 0) (hmis : (s.jobOf w x).sb.toNat % align ≠ 0) :
    exec i s = .next (s.taken.raise w x { cls := clsAlign, code := 7, opnd := (s.jobOf w x).sa.toNat }) :=
  (he.trans (assayR_fires o align s)).trans (fireJob_error h (by
    rw [assayChecked, alignFault_aligned hal, Option.orElse_none, if_neg halign, alignFault_misaligned hmis]))

theorem assayR_sent (hok : align ≠ 0 → (s.jobOf w x).sb.toNat % align = 0) :
    exec i s = .next ((s.handed w o.g ((s.jobOf w x).holdingD o)).assaySent ((s.jobOf w x).holdingD o)) := by
  have hgo : (if align = 0 then none else alignFault 7 (s.jobOf w x).sb.toNat align) = none := by
    split
    · rfl
    · next hne => exact alignFault_aligned (hok hne)
  exact (he.trans (assayR_fires o align s)).trans (fireJob_ok h (by
    rw [assayChecked, alignFault_aligned hal, Option.orElse_none, hgo]))

/-- The word waits at the home die from its arrival on; it is answered after its accesses and an open time. -/
theorem assayR_sets_out (hok : align ≠ 0 → (s.jobOf w x).sb.toNat % align = 0) :
    let out := (s.jobOf w x).holdingD o
    let u := s.handed w o.g out
    let arrives := s.fc + 28 * linkHops w.access.1 w.access.2.1 (u.assayHome out).1
    ∃ (v : State) (done : Nat),
      exec i s = .next ((v.modFlight out.fid fun f => { f with after := done }).modDie (u.assayHome out).1 fun d =>
        { d with assay := assayIn ⟨out.fid, arrives⟩ d.assay }) ∧ arrives ≤ done ∧
      v = { u with free := v.free, links := v.links } := by
  intro out u arrives
  have harrives : u.assayArrives out = arrives := by rw [State.assayArrives, handed_fc]; rfl
  refine ⟨(u.assayAnswer out).2, (u.assayAnswer out).1, (assayR_sent he h hal hok).trans ?_, ?_,
    (assayAnswer_traffic u out).eq⟩
  · rw [State.assaySent, harrives]
  · exact harrives ▸ assayArrives_le_answer u out

end Fires

/-! ## The assay unit (R294) -/

section Perform

variable {die : Nat} {q : Assay} {rest : List Assay} (hq : (s.die die).assay = q :: rest) (hf : s.flight? q.fid = some f)
  (hdue : f.after ≤ s.fc) (hmay : s.mayIssue f = true)
include hq hf hdue hmay

/-- The operation that has waited longest has left the queue. -/
def State.assayPop (s : State) (die : Nat) (rest : List Assay) : State := s.modDie die fun d => { d with assay := rest }

theorem assayOperation_performs {wr : Writes} {oc : Bool} {a : Asm}
    (hop : (assayOp f).run ⟨s, [], 0, []⟩ = .ok ((wr, oc), a)) :
    exec (.assayOperation die) s = .next ((a.s.assayPop die rest).perform f wr oc false a.ev) := by
  have hgo : ¬(s.fc < f.after ∨ (!s.mayIssue f) = true) := by simp [hmay, hdue]
  change execAssayOperation die s = _
  simp only [execAssayOperation, hq, hf, if_neg hgo, hop]
  rfl

theorem assayOperation_faults {e : FaultInfo} (hop : (assayOp f).run ⟨s, [], 0, []⟩ = .error (.fault e)) :
    exec (.assayOperation die) s = .next ((s.assayPop die rest).assayFault f e) := by
  have hgo : ¬(s.fc < f.after ∨ (!s.mayIssue f) = true) := by simp [hmay, hdue]
  change execAssayOperation die s = _
  simp only [execAssayOperation, hq, hf, if_neg hgo, hop]
  rfl

end Perform

/-- Settles O40. Every assay word is an `assayR`; the unit runs `assayOp` of the first in its queue. -/
theorem assayWords : Obligations.AssayWords := by
  unfold Obligations.AssayWords
  intro o s w x j out u home arrives bad
  refine ⟨?fires, fun die q rest f hq hf hdue hmay => ⟨fun wr oc a hop => assayOperation_performs hq hf hdue hmay hop,
    fun e hop => assayOperation_faults hq hf hdue hmay hop⟩⟩
  have insert {i : Instr} (he : exec i s = assayR o 2 s) (h : Fires s i o.g w x) :=
    And.intro (assayR_misaligned_record he h) (And.intro
      (fun hal => assayR_misaligned_row he h hal (by decide : 2 ≠ 0))
      fun hal (hrow : j.sb.toNat % 2 = 0) => assayR_sets_out he h hal fun _ => hrow)
  have record {i : Instr} (he : exec i s = assayR o 0 s) (h : Fires s i o.g w x) :=
    And.intro (assayR_misaligned_record he h) fun hal => assayR_sets_out he h hal fun hne => absurd rfl hne
  simp only [List.forall_mem_cons, List.not_mem_nil, false_imp_iff, true_imp_iff, Bool.false_eq_true, implies_true,
    true_and, and_true]
  exact ⟨insert rfl, record rfl, record rfl, record rfl, record rfl, record rfl, record rfl, record rfl, record rfl, record rfl,
    record rfl, record rfl⟩

end Sys2Proof.Machine
end

section
/-!
SUPPORT. The shift-add words (R354-R357): how they fire, and what each comes to in its turn at a page's fabric.
-/

set_option Elab.async false

namespace Sys2Proof.Machine

variable {s : State} {i : Instr} {w : Who} {x : Word} {o : FormR} {f : Flight} {fn : BitVec 3} {p : Page} {g : Graph}
  {e : FaultInfo}

/-! ## The words fire (R354, R355) -/

/-- A word that reads `n` bytes at `va` through its port and holds D. -/
def Flight.readingAt (f : Flight) (o : FormR) (va n : Nat) : Flight :=
  { f with plan := recParts va n, holds := f.holds ++ destHolds o.d.toNat }

/-- No earlier access is still to change the words that a flight reads. -/
def State.knownAt (s : State) (f : Flight) : Bool := s.mayIssue f && f.plan.all fun q => s.inTurn f q.va q.len

/-- The lanes of the page on which a word fires. -/
def State.lanesAt (s : State) (w : Who) : Nat := safLanes (((s.page? w.page).map (·.kind)).getD 0)

/-- The checks of `AG.LOAD` as it fires. -/
def State.agLoadChecked (s : State) (o : FormR) (w : Who) (f : Flight) : Except FaultInfo Flight :=
  let loads := f.readingAt o f.sa.toNat (8 * f.sb.toNat)
  if f.sb.toNat = 0 ∨ 256 < f.sb.toNat then .error { cls := clsRange, code := 0x02A, opnd := f.sb.toNat }
  else match alignFault 8 f.sa.toNat 8 with
    | some e => .error e
    | none => match s.readRec w.port.die f.asid f.tt f.sa.toNat (8 * f.sb.toNat) with
      | .ok (bs, _) => match (if s.knownAt loads then graphFault (recWords bs) (s.lanesAt w) else none) with
        | some e => .error e
        | none => .ok loads
      | .error _ => .ok loads

theorem execAgLoad_checked (o : FormR) (s : State) :
    execAgLoad o s = fireJob o.g (fun w _ s f => s.agLoadChecked o w f) memPost s := rfl

section Load

variable {loads : Flight}

theorem agLoad_stops (h : Fires s i o.g w x) (hcheck : s.taken.agLoadChecked o w (s.jobOf w x) = .error e) :
    execAgLoad o s = .next (s.taken.raise w x e) := (execAgLoad_checked o s).trans (fireJob_error h hcheck)

theorem agLoad_goes (h : Fires s i o.g w x) (hcheck : s.taken.agLoadChecked o w (s.jobOf w x) = .ok loads) :
    execAgLoad o s = .next (memPost loads (s.handed w o.g loads)) := (execAgLoad_checked o s).trans (fireJob_ok h hcheck)

theorem agLoadChecked_count (hbad : f.sb.toNat = 0 ∨ 256 < f.sb.toNat) :
    s.agLoadChecked o w f = .error { cls := clsRange, code := 0x02A, opnd := f.sb.toNat } := if_pos hbad

variable (hpos : 0 < f.sb.toNat) (hle : f.sb.toNat ≤ 256)
include hpos hle

theorem agLoadChecked_misaligned (hmis : f.sa.toNat % 8 ≠ 0) :
    s.agLoadChecked o w f = .error { cls := clsAlign, code := 8, opnd := f.sa.toNat } := by
  have hcount : ¬(f.sb.toNat = 0 ∨ 256 < f.sb.toNat) := by omega
  simp only [State.agLoadChecked, if_neg hcount, alignFault_misaligned hmis]

variable (hal : f.sa.toNat % 8 = 0)
include hal

theorem agLoadChecked_unread (hread : s.readRec w.port.die f.asid f.tt f.sa.toNat (8 * f.sb.toNat) = .error e) :
    s.agLoadChecked o w f = .ok (f.readingAt o f.sa.toNat (8 * f.sb.toNat)) := by
  have hcount : ¬(f.sb.toNat = 0 ∨ 256 < f.sb.toNat) := by omega
  simp only [State.agLoadChecked, if_neg hcount, alignFault_aligned hal, hread]

variable {bs : List Byte} {t : State} (hread : s.readRec w.port.die f.asid f.tt f.sa.toNat (8 * f.sb.toNat) = .ok (bs, t))
include hread

theorem agLoadChecked_read : s.agLoadChecked o w f =
    orFlight (if s.knownAt (f.readingAt o f.sa.toNat (8 * f.sb.toNat)) then graphFault (recWords bs) (s.lanesAt w) else none)
      (f.readingAt o f.sa.toNat (8 * f.sb.toNat)) := by
  have hcount : ¬(f.sb.toNat = 0 ∨ 256 < f.sb.toNat) := by omega
  simp only [State.agLoadChecked, if_neg hcount, alignFault_aligned hal, hread]
  rfl

theorem agLoadChecked_bad (hknown : s.knownAt (f.readingAt o f.sa.toNat (8 * f.sb.toNat)) = true)
    (hbad : graphFault (recWords bs) (s.lanesAt w) = some e) : s.agLoadChecked o w f = .error e := by
  rw [agLoadChecked_read hpos hle hal hread, if_pos hknown, hbad]
  rfl

theorem agLoadChecked_good (hgood : s.knownAt (f.readingAt o f.sa.toNat (8 * f.sb.toNat)) = false ∨
    graphFault (recWords bs) (s.lanesAt w) = none) :
    s.agLoadChecked o w f = .ok (f.readingAt o f.sa.toNat (8 * f.sb.toNat)) := by
  rw [agLoadChecked_read hpos hle hal hread]
  rcases hgood with hopen | hgood
  · rw [if_neg (hopen ▸ Bool.false_ne_true)]; rfl
  · rw [hgood, ite_self]; rfl

end Load

theorem agBind_misaligned (h : Fires s i o.g w x) (hmis : (s.jobOf w x).sb.toNat % 32 ≠ 0) :
    execAgBind o s = .next (s.taken.raise w x { cls := clsAlign, code := 8, opnd := (s.jobOf w x).sb.toNat }) :=
  fireJob_error h (by rw [alignFault_misaligned hmis])

theorem agBind_goes (h : Fires s i o.g w x) (hal : (s.jobOf w x).sb.toNat % 32 = 0) :
    let reads := (s.jobOf w x).readingAt o (s.jobOf w x).sb.toNat 32
    execAgBind o s = .next (memPost reads (s.handed w o.g reads)) :=
  fireJob_ok h (by rw [alignFault_aligned hal]; rfl)

/-! ## A word in its turn (R353-R357) -/

theorem ag_performed {t : State} (h : s.Performing i f) (hi : encode i = some (packR 0x78 fn o))
    (hs : fnOf f.word = fn.toNat → s.agStep f = t) : exec (.instructionPerformed f.fid) s = .next t :=
  performed_word h hi (fun hw => step_ag (opcOf_word hw)) fun hw => hs (fnOf_word hw)

section Turn

variable (hp : s.page? f.who.page = some p) (hturn : s.agTurn f = true)
include hp hturn

section Load

variable (hfn : fnOf f.word = 0) (hread : f.HasRead)
include hfn hread

theorem agStep_load_checks (haux : f.aux = []) :
    s.agStep f = s.modFlight f.fid fun f => { f with aux := [1], after := s.fc + (f.sb.toNat + 15) / 16 } := by
  simp only [State.agStep, hp, hturn, Bool.not_true, Bool.false_eq_true, if_false, hfn, withRec_read hread, if_pos haux]

variable (haux : f.aux ≠ [])
include haux

theorem agStep_load_bad (hbad : graphFault (recWords f.bytes) (safLanes p.kind) = some e) : s.agStep f = s.flightFault f e := by
  simp only [State.agStep, hp, hturn, Bool.not_true, Bool.false_eq_true, if_false, hfn, withRec_read hread, if_neg haux, hbad]

variable (hgood : graphFault (recWords f.bytes) (safLanes p.kind) = none)
include hgood

theorem agStep_load_no_room (hfull : p.saf.place p.kind (recWords f.bytes) none = .error e) :
    s.agStep f = s.flightFault f e := by
  simp only [State.agStep, hp, hturn, Bool.not_true, Bool.false_eq_true, if_false, hfn, withRec_read hread, if_neg haux, hgood,
    hfull]

theorem agStep_load_places {at_ : Nat} {saf : Saf} (hfits : p.saf.place p.kind (recWords f.bytes) none = .ok (at_, saf)) :
    s.agStep f = (s.modPage f.who.page fun p => { p with saf := saf }).performVal f (w64 at_) true false := by
  simp only [State.agStep, hp, hturn, Bool.not_true, Bool.false_eq_true, if_false, hfn, withRec_read hread, if_neg haux, hgood,
    hfits]

end Load

section NoGraph

variable (hno : (p.saf.graphs.find? fun g => g.handle = f.sa.toNat) = none)
include hno

theorem agStep_bind_no_graph (hfn : fnOf f.word = 1) (hread : f.HasRead) :
    s.agStep f = s.flightFault f { cls := clsRange, code := 0x02A, opnd := f.sa.toNat } := by
  simp only [State.agStep, hp, hturn, Bool.not_true, Bool.false_eq_true, if_false, hfn, withRec_read hread, hno]
  rfl

theorem agStep_unload_no_graph (hfn : fnOf f.word = 2) :
    s.agStep f = s.flightFault f { cls := clsRange, code := 0x02A, opnd := f.sa.toNat } := by
  simp only [State.agStep, hp, hturn, Bool.not_true, Bool.false_eq_true, if_false, hfn, hno]
  rfl

end NoGraph

section Graph

variable (hg : (p.saf.graphs.find? fun g => g.handle = f.sa.toNat) = some g) (hempty : g.pipe = [])
include hg hempty

theorem agStep_unload (hfn : fnOf f.word = 2) : s.agStep f = (s.modPage f.who.page fun p => { p with saf := { p.saf with
    graphs := p.saf.graphs.filter fun g => g.handle != f.sa.toNat } }).performVal f (w64 g.words.length) true false := by
  have hpipe : ¬ g.pipe ≠ [] := not_not_intro hempty
  simp only [State.agStep, hp, hturn, Bool.not_true, Bool.false_eq_true, if_false, hfn, hg, if_neg hpipe, ne_eq, bne,
    beq_eq_decide]

theorem agStep_bind (hfn : fnOf f.word = 1) (hread : f.HasRead) {inb outb : List Nat}
    (hin : (f.bytes.take 16).map (·.toNat) = inb) (hout : (f.bytes.drop 16).map (·.toNat) = outb)
    (hfit : p.bindFault g inb outb = none) :
    s.agStep f = (s.modGraph f.who.page f.sa.toNat fun g => { g.bind inb outb with unloading := false }).performVal f
      (w64 ((inb ++ outb).filter bindV).length) (((inb ++ outb).filter bindV).length != 0) g.bound := by
  have hpipe : ¬ g.pipe ≠ [] := not_not_intro hempty
  simp only [State.agStep, hp, hturn, Bool.not_true, Bool.false_eq_true, if_false, hfn, withRec_read hread, hg, if_neg hpipe,
    hin, hout, hfit]

end Graph

theorem agStep_query_no_graph (hfn : fnOf f.word = 3) (hbad : 256 < f.sa.toNat) :
    s.agStep f = s.flightFault f { cls := clsRange, code := 0x02A, opnd := f.sa.toNat } := by
  simp only [State.agStep, hp, hturn, Bool.not_true, Bool.false_eq_true, if_false, hfn, if_pos hbad]
  rfl

theorem agStep_query (hfn : fnOf f.word = 3) (hok : f.sa.toNat ≤ 256) :
    s.agStep f = s.performVal f (w64 (agQry p f.sa.toNat)) (agQry p f.sa.toNat != 0) false := by
  simp only [State.agStep, hp, hturn, Bool.not_true, Bool.false_eq_true, if_false, hfn, if_neg (Nat.not_lt.mpr hok)]

end Turn

/-- Settles O41. Each clause is the equation of its word. That `AG.LOAD` checks its words at firing only where they are known,
and otherwise once they have been read (log 139), is the model's choice. -/
theorem shiftAddWords : Obligations.ShiftAddWords := by
  unfold Obligations.ShiftAddWords
  intro o s w x f p g j n reads loads known soon lanes go stop pg h read graph step noGraph
  refine ⟨fun hf => ⟨fun hbad => agLoad_stops hf (agLoadChecked_count hbad), fun hpos hle =>
      ⟨fun hmis => agLoad_stops hf (agLoadChecked_misaligned hpos hle hmis), fun hal =>
        ⟨fun bs t hread => ⟨fun e hknown hbad => agLoad_stops hf (agLoadChecked_bad hpos hle hal hread hknown hbad),
          fun hgood => agLoad_goes hf (agLoadChecked_good hpos hle hal hread hgood)⟩,
          fun e hread => agLoad_goes hf (agLoadChecked_unread hpos hle hal hread)⟩⟩⟩,
    fun hf => ⟨agBind_misaligned hf, agBind_goes hf⟩, ?soon, fun hp hturn =>
      ⟨fun hf hread => ⟨fun haux => ?checks, fun haux => ⟨fun e hbad => ?bad, fun e hgood hfull => ?full,
          fun at_ saf hgood hfits => ?fits⟩⟩,
        fun hno => ?noGraph, fun hg hempty => ⟨fun hf => ?unload, fun hf hread => ?bind⟩,
        fun hf => ⟨fun hbad => ?queryBad, fun hok => ?query⟩⟩⟩
  case soon =>
    simp only [List.forall_mem_cons, List.not_mem_nil, false_imp_iff, implies_true, and_true]
    exact ⟨soonR_ok true, soonR_ok true⟩
  case checks => exact ag_performed (fn := 0) hf rfl fun hfn => agStep_load_checks hp hturn hfn hread haux
  case bad => exact ag_performed (fn := 0) hf rfl fun hfn => agStep_load_bad hp hturn hfn hread haux hbad
  case full => exact ag_performed (fn := 0) hf rfl fun hfn => agStep_load_no_room hp hturn hfn hread haux hgood hfull
  case fits => exact ag_performed (fn := 0) hf rfl fun hfn => agStep_load_places hp hturn hfn hread haux hgood hfits
  case noGraph =>
    have hfind : (p.saf.graphs.find? fun g => g.handle = f.sa.toNat) = none := by simpa using hno
    exact ⟨fun hf => ag_performed (fn := 2) hf rfl fun hfn => agStep_unload_no_graph hp hturn hfind hfn,
      fun hf hread => ag_performed (fn := 1) hf rfl fun hfn => agStep_bind_no_graph hp hturn hfind hfn hread⟩
  case unload => exact ag_performed (fn := 2) hf rfl fun hfn => agStep_unload hp hturn hg hempty hfn
  case bind =>
    intro inb outb k hfit
    exact ag_performed (fn := 1) hf rfl fun hfn => agStep_bind hp hturn hg hempty hfn hread rfl rfl hfit
  case queryBad => exact ag_performed (fn := 3) hf rfl fun hfn => agStep_query_no_graph hp hturn hfn hbad
  case query => exact ag_performed (fn := 3) hf rfl fun hfn => agStep_query hp hturn hfn hok

end Sys2Proof.Machine
end

section
/-!
SUPPORT. How a region ends, is cut and is stopped (R270-R274, R398, R400, R401), and the life of a tile-task (R312-R320): the
equation of each event, by the branches of its definition.
-/

set_option Elab.async false

namespace Sys2Proof.Machine

variable {s : State} {rg pg me ix : Nat} {r : Region} {k : Task} {p : Page} {m : Me} {t : TileTask}

/-! ## What the parts of these events leave unchanged -/

theorem alMod_congr {α : Type} {key : Nat} {f g : α → α} {l : List (Nat × α)} {v : α} (h : alGet key l = some v)
    (hfg : f v = g v) : alMod key f l = alMod key g l := by
  induction l with
  | nil => rfl
  | cons c l ih =>
    obtain ⟨j, w⟩ := c
    by_cases hj : j = key
    · have hw : w = v := by simpa [alGet, hj] using h
      simp only [alMod, if_pos hj, hw, hfg]
    · simp only [alGet, if_neg hj] at h
      simp only [alMod, if_neg hj, ih h]

/-- Two changes of a region agree when they agree at the region that stands there. -/
theorem modRegion_congr {f g : Region → Region} (h : s.region? rg = some r) (hfg : f r = g r) :
    s.modRegion rg f = s.modRegion rg g := by
  simp only [State.modRegion, alMod_congr h hfg]

theorem alMod_keys {α : Type} (key : Nat) (f : α → α) (l : List (Nat × α)) : (alMod key f l).map Prod.fst = l.map Prod.fst := by
  induction l with
  | nil => rfl
  | cons c l ih =>
    obtain ⟨j, w⟩ := c
    by_cases hj : j = key <;> simp only [alMod, hj, if_true, if_false, List.map_cons, ih]

/-- What every step of a fold leaves as it was, the fold does. -/
theorem foldl_proj {α β : Type} {g : State → β} {step : State → α → State} (h : ∀ s a, g (step s a) = g s) (l : List α)
    (s : State) : g (l.foldl step s) = g s := by
  induction l generalizing s with
  | nil => rfl
  | cons a l ih => exact (ih _).trans (h s a)

/-- The pages of a region that is done stay in their frames (R404). -/
theorem retire_pageKeys (s : State) (rg : Nat) : (s.retire rg).pages.map Prod.fst = s.pages.map Prod.fst := by
  unfold State.retire
  split
  · rfl
  · exact foldl_proj (g := fun s => s.pages.map Prod.fst) (fun _ _ => alMod_keys ..) _ s

/-! ## A region drains (R270, R271) -/

theorem drainStart_drains (hr : s.region? rg = some r) (hdrain : r.drain = false) (hst : r.st = .armed)
    (hsinks : (s.sinks r).1 ≤ (s.sinks r).2) :
    ∃ u, exec (.drainStart rg) s = .next u ∧ u.region? rg = some { r with drain := true } := by
  have hgo : ¬(r.drain = true ∨ r.st ≠ .armed ∨ (s.sinks r).2 < (s.sinks r).1) := by
    simp only [hdrain, hst, Bool.false_eq_true, ne_eq, not_true_eq_false, false_or, Nat.not_lt]
    exact hsinks
  refine ⟨_, (show execDrainStart rg s = _ by simp only [execDrainStart, hr, if_neg hgo]; rfl), ?_⟩
  rw [region?_modRegion_same]
  refine congrArg (Option.map _) ((congrArg (alGet rg) (foldl_proj (g := State.regions) ?_ _ s)).trans hr)
  exact fun _ _ => rfl

theorem pageDrained_frees (hp : s.page? pg = some p) (hnot : p.drained = false) (hpassed : p.passed = true) :
    exec (.pageDrained pg) s = .next ((s.freeBanks pg).modPage pg fun p => { p with drained := true }) := by
  have hgo : ¬(p.drained = true ∨ (!p.passed) = true) := by simp [hnot, hpassed]
  change execPageDrained pg s = _
  simp only [execPageDrained, hp, if_neg hgo]

theorem freeBanks_not_held {d : Die} (hd : d ∈ (s.freeBanks pg).dies) {b : Nat} {tok : BankTok} (hb : (b, tok) ∈ d.banks) :
    tok ≠ .held pg := by
  obtain ⟨d', -, rfl⟩ := List.mem_map.mp hd
  obtain ⟨⟨b', tok'⟩, -, heq⟩ := List.mem_map.mp hb
  by_cases hheld : tok' = .held pg
  · simp only [hheld, if_true, Prod.mk.injEq] at heq
    exact heq.2 ▸ nofun
  · simp only [hheld, if_false, Prod.mk.injEq] at heq
    exact heq.2 ▸ hheld

/-- Every routed stream in use of an ME has met DRAIN. -/
def Page.drainTook (p : Page) (m : Me) (me : Nat) : Bool := (List.range 4).all fun j => match m.streams[j]? with
  | some st => !p.streamRouted (4 * me + j) || !st.valid || st.drained
  | none => true

theorem drainTook_of_drained (h : ∀ j < 4, ∀ x, m.streams[j]? = some x → p.streamRouted (4 * me + j) = true → x.valid = true →
    x.drained = true) : p.drainTook m me = true := by
  refine List.all_eq_true.mpr fun j hj => ?_
  have hstream := h j (List.mem_range.mp hj)
  cases hst : m.streams[j]? with
  | none => rfl
  | some st =>
    simp only [Bool.or_eq_true, Bool.not_eq_true']
    rcases Bool.eq_false_or_eq_true (p.streamRouted (4 * me + j)) with hrouted | hopen
    · rcases Bool.eq_false_or_eq_true st.valid with hvalid | hidle
      · exact .inr (hstream st hst hrouted hvalid)
      · exact .inl (.inr hidle)
    · exact .inl (.inl hopen)

theorem execMeDrainPass_eq (hp : s.page? pg = some p) (hm : s.me? pg me = some m) : execMeDrainPass pg me s =
    if !((s.region? p.rg).map (·.drain)).getD false ∨ m.drained ∨ !s.meQuiet pg me m ∨
        !(p.drainTook m me && (m.streams.any (·.valid) || p.elemsDrained)) then .next s
    else .next (s.modMe pg me fun m => { m with drained := true, armed := false }) := by
  simp only [execMeDrainPass, hp, hm]
  rfl

theorem meDrainPass_passes (hp : s.page? pg = some p) (hm : s.me? pg me = some m) (hr : s.region? p.rg = some r)
    (hdrain : r.drain = true) (hnot : m.drained = false) (hquiet : s.meQuiet pg me m = true)
    (htook : ∀ j < 4, ∀ x, m.streams[j]? = some x → p.streamRouted (4 * me + j) = true → x.valid = true → x.drained = true)
    (hpasses : m.streams.any (·.valid) = true ∨ p.elemsDrained = true) :
    exec (.meDrainPass pg me) s = .next (s.modMe pg me fun m => { m with drained := true, armed := false }) := by
  have hpass : (m.streams.any (·.valid) || p.elemsDrained) = true := Bool.or_eq_true_iff.mpr hpasses
  refine (execMeDrainPass_eq hp hm).trans (if_neg ?_)
  simp [hr, hdrain, hnot, hquiet, drainTook_of_drained htook, hpass]

/-! ## The quiet count (R274) -/

theorem quietCountExpire_drained (hr : s.region? rg = some r) (hquiet : 256 ≤ r.quiet) (hfirst : r.swept = false)
    (hall : s.allDrained r = true) :
    exec (.quietCountExpire rg) s = .next (s.modRegion rg fun r => { r with swept := true, decided := 0 }) := by
  have hgo : ¬(r.quiet < 256 ∨ r.swept = true) := by simp [hfirst, hquiet]
  change execQuietCountExpire rg s = _
  simp only [execQuietCountExpire, hr, if_neg hgo, if_pos hall]

theorem quietCountExpire_sweeps (hr : s.region? rg = some r) (hquiet : 256 ≤ r.quiet) (hfirst : r.swept = false)
    (hall : s.allDrained r = false) :
    let code := if r.drain then 2 else 1
    exec (.quietCountExpire rg) s = .next ((s.sweep r code).modRegion rg fun r => { r with swept := true, decided := code }) := by
  have hgo : ¬(r.quiet < 256 ∨ r.swept = true) := by simp [hfirst, hquiet]
  have hsome : ¬ s.allDrained r = true := hall ▸ Bool.false_ne_true
  change execQuietCountExpire rg s = _
  simp only [execQuietCountExpire, hr, if_neg hgo, if_neg hsome]

/-! ## Cuts (R320, R398) -/

theorem cutSnapInject_injects (hr : s.region? rg = some r) (hwants : s.wantsCut r = true) :
    exec (.cutSnapInject rg) s = .next (s.injectSnap r true) := by
  change execCutSnapInject rg s = _
  simp only [execCutSnapInject, hr, if_pos hwants]

theorem undoLogLow_injects (hm : s.me? pg me = some m) (hr : s.regionOf pg = some r) (hlow : 846 < m.undo.length)
    (hroll : r.rollback = true) (hstill : s.snapMoving r = false) (hdrain : r.drain = false) :
    exec (.undoLogLow pg me) s = .next (s.injectSnap r true) := by
  have hlog : m.logLow = true := decide_eq_true (by omega)
  change execUndoLogLow pg me s = _
  simp only [execUndoLogLow, hm, hr, hlog, hroll, hstill, hdrain, Bool.not_false, Bool.and_self, if_true]

/-! ## A region is stopped (R400, R401) -/

theorem preemptFreeze_freezes (hr : s.region? rg = some r) (hst : r.st = .stopping) (hquiet : 1 ≤ r.quiet) :
    exec (.preemptFreeze rg) s = .next (s.freeze rg false) := by
  change execPreemptFreeze rg s = _
  simp only [execPreemptFreeze, hr, if_pos (And.intro hst hquiet)]

section Watchdog

variable (hr : s.region? rg = some r) (hst : r.st = .stopping) (hlate : r.stopAt + r.watchdog ≤ s.fc)
include hr hst hlate

/-- A region whose time is over, rolled back or not. -/
theorem preemptWatchdogExpire_late {ok : Bool} (hok : (r.rollback && !r.cutBad) = ok) : exec (.preemptWatchdogExpire rg) s =
    let mailed := s.mail { die := r.die, kind := 6, asid := r.asid, ptn := r.ptn, intv := if ok then r.cut else s.topIval r }
      { cls := clsWatch, code := if ok then 1 else 2 } 0
    .next (State.freeze (if ok then (mailed.rollback rg).modRegion rg fun x => { x with stopBy := r.stopBy } else mailed) rg
      true) := by
  have hgo : ¬(r.st ≠ .stopping ∨ s.fc < r.stopAt + r.watchdog) := by simp [hst, hlate]
  change execPreemptWatchdogExpire rg s = _
  simp only [execPreemptWatchdogExpire, hr, if_neg hgo, hok]

theorem preemptWatchdogExpire_rolls_back (hroll : r.rollback = true) (hcut : r.cutBad = false) :
    exec (.preemptWatchdogExpire rg) s = .next (State.freeze (((s.mail
      { die := r.die, kind := 6, asid := r.asid, ptn := r.ptn, intv := r.cut } { cls := clsWatch, code := 1 } 0).rollback
        rg).modRegion rg fun x => { x with stopBy := r.stopBy }) rg true) :=
  preemptWatchdogExpire_late (ok := true) hr hst hlate (by rw [hroll, hcut]; rfl)

theorem preemptWatchdogExpire_stands (hno : r.rollback = false ∨ r.cutBad = true) :
    exec (.preemptWatchdogExpire rg) s = .next ((s.mail
      { die := r.die, kind := 6, asid := r.asid, ptn := r.ptn, intv := s.topIval r } { cls := clsWatch, code := 2 } 0).freeze rg
        true) :=
  preemptWatchdogExpire_late (ok := false) hr hst hlate (by rcases hno with h | h <;> simp [h])

end Watchdog

theorem linkFlitFailure_withholds (hr : s.region? rg = some r) :
    ∃ u, exec (.linkFlitFailure rg) s = .next u ∧ u.region? rg = some { r with withheld := true } ∧
      u.dies = (s.mail { die := r.die, kind := 6, asid := r.asid, ptn := r.ptn } { cls := clsLink, code := 1 } 0).dies := by
  have hstep : exec (.linkFlitFailure rg) s = .next ((s.mail { die := r.die, kind := 6, asid := r.asid, ptn := r.ptn }
      { cls := clsLink, code := 1 } 0).modRegion rg fun r => { r with withheld := true }) := by
    change execLinkFlitFailure rg s = _
    simp only [execLinkFlitFailure, hr]
  exact ⟨_, hstep, (region?_modRegion_same ..).trans (congrArg (Option.map _) hr), rfl⟩

/-! ## A region completes (R272) -/

section Complete

variable (hr : s.region? rg = some r) (hk : s.taskOfRegion r = some k) (hst : k.st = .running ∨ k.st = .preempted)
include hr hk hst

/-- What `REGION_COMPLETE` does for a task that has started. -/
theorem regionComplete_started : exec (.regionComplete rg) s = .next (
    if k.cancelled then if s.cancelDone k then s.endTask k.ptn k.lseq (if k.faulted then 3 else 1) else s
    else if k.goesOn ∨ !s.taskDrained k then s
    else ((s.storeDone k k.lseq).modTask k.ptn k.lseq fun k => { k with execs := k.execs + 1 }).endTask k.ptn k.lseq 0) := by
  have hgo : ¬(k.st ≠ .running ∧ k.st ≠ .preempted) := by rcases hst with h | h <;> simp [h]
  change execRegionComplete rg s = _
  simp only [execRegionComplete, hr, Option.bind_some, hk, if_neg hgo]
  simp only [apply_ite (Host.Outcome.next : State → Out)]

theorem regionComplete_cancelled (hcancel : k.cancelled = true) (hdone : s.cancelDone k = true) :
    exec (.regionComplete rg) s = .next (s.endTask k.ptn k.lseq (if k.faulted then 3 else 1)) :=
  (regionComplete_started hr hk hst).trans (by rw [if_pos hcancel, if_pos hdone])

variable (hcancel : k.cancelled = false)
include hcancel

theorem regionComplete_ends (hlast : k.goesOn = false) (hdone : s.taskDrained k = true) : exec (.regionComplete rg) s =
    .next (((s.storeDone k k.lseq).modTask k.ptn k.lseq fun k => { k with execs := k.execs + 1 }).endTask k.ptn k.lseq 0) :=
  (regionComplete_started hr hk hst).trans (by
    simp only [hcancel, hlast, hdone, Bool.false_eq_true, Bool.not_true, or_self, if_false])

theorem regionComplete_waits (hnot : s.taskDrained k = false) : exec (.regionComplete rg) s = .next s :=
  (regionComplete_started hr hk hst).trans (by
    simp only [hcancel, hnot, Bool.false_eq_true, Bool.not_false, or_true, if_true, if_false])

end Complete

/-! ## A tile-task is issued (R312, R315) -/

section Issue

variable (hr : s.region? rg = some r)
include hr

theorem tileTaskIssue_next (hkey : r.key = rg) (hown : r.persist = false) (hmore : r.next < r.hi)
    (hmay : s.mayIssueTile r r.next = true) : ∃ u, exec (.tileTaskIssue rg) s = .next u ∧ u.region? rg =
      some { r with next := r.next + 1, issued := r.issued ++ [r.next], tts := r.tts ++ [⟨r.next, .issued, [], 0, 0, 0⟩] } := by
  have hgo : ¬(r.persist = true ∨ r.hi ≤ r.next ∨ (!s.mayIssueTile r r.next) = true) := by simp [hown, hmore, hmay]
  refine ⟨_, (show execTileTaskIssue rg s = _ by simp only [execTileTaskIssue, hr, if_neg hgo]; rfl), ?_⟩
  have hissued : (s.issueTile r r.next).region? rg = (s.region? rg).map fun r' =>
      { r' with issued := r'.issued ++ [r.next], tts := r'.tts ++ [⟨r.next, .issued, [], 0, 0, 0⟩] } := by
    rw [← region?_modRegion_same, State.issueTile, hkey]
    split <;> rfl
  rw [region?_modRegion_same, hissued, hr]
  rfl

theorem rerunIssue_persistent (hown : r.persist = true) : exec (.rerunIssue rg ix) s = .next s := by
  change execRerunIssue rg ix s = _
  simp only [execRerunIssue, hr, hown, true_or, or_true, if_true]

theorem rerunIssue_again (hwaits : r.rerun.contains ix = true) (hown : r.persist = false) (hst : r.st = .armed) :
    exec (.rerunIssue rg ix) s = .next (s.modRegion rg fun r => r.reissue ix) := by
  have hgo : ¬((!r.rerun.contains ix) = true ∨ r.persist = true ∨ r.st ≠ .armed) := by
    rw [hwaits, hown, hst]
    simp
  change execRerunIssue rg ix s = _
  simp only [execRerunIssue, hr, if_neg hgo]

end Issue

/-! ## A tile-task seals (R315) -/

section Tile

variable (hr : s.region? rg = some r) (ht : r.tt? ix = some t)
include hr ht

section Seal

theorem tileTaskSeal_waits (hnot : s.sealing r ix = false) : exec (.tileTaskSeal rg ix) s = .next s := by
  change execTileTaskSeal rg ix s = _
  simp only [execTileTaskSeal, hr, ht, hnot, Bool.not_false, if_true]

variable (hseal : s.sealing r ix = true)
include hseal

theorem tileTaskSeal_cancelled (hcancel : s.cancelled r = true) :
    exec (.tileTaskSeal rg ix) s = .next (s.modRegion rg fun r => r.endTt ix false) := by
  change execTileTaskSeal rg ix s = _
  simp only [execTileTaskSeal, hr, ht, hseal, Bool.not_true, Bool.false_eq_true, if_false, hcancel, if_true]

variable (hcancel : s.cancelled r = false)
include hcancel

theorem tileTaskSeal_free (hfree : r.ordered = false) :
    exec (.tileTaskSeal rg ix) s = .next (s.modRegion rg fun r => r.endTt ix true) := by
  change execTileTaskSeal rg ix s = _
  simp only [execTileTaskSeal, hr, ht, hseal, Bool.not_true, Bool.false_eq_true, if_false, hcancel, hfree, Bool.not_false,
    if_true]

variable (hordered : r.ordered = true)
include hordered

theorem tileTaskSeal_sealed (hst : t.st = .issued) : exec (.tileTaskSeal rg ix) s =
    .next (s.modRegion rg fun x => x.modTt ix fun t => { t with st := .sealed, close := s.topIval r }) := by
  change execTileTaskSeal rg ix s = _
  simp only [execTileTaskSeal, hr, ht, hseal, Bool.not_true, Bool.false_eq_true, if_false, hcancel, hordered, hst]
  exact congrArg Host.Outcome.next (modRegion_congr hr rfl)

theorem tileTaskSeal_committed (hst : t.st = .writethru) : exec (.tileTaskSeal rg ix) s =
    .next ((s.modRegion rg fun r => r.endTt ix true).raiseFloor r.ptn (r.ts + ix)) := by
  change execTileTaskSeal rg ix s = _
  simp only [execTileTaskSeal, hr, ht, hseal, Bool.not_true, Bool.false_eq_true, if_false, hcancel, hordered, hst]

theorem tileTaskSeal_doomed (hst : t.st = .doomed) : exec (.tileTaskSeal rg ix) s =
    .next (s.modRegion rg fun r => { r with rerun := if r.rerun.contains ix then r.rerun else r.rerun ++ [ix] }) := by
  change execTileTaskSeal rg ix s = _
  simp only [execTileTaskSeal, hr, ht, hseal, Bool.not_true, Bool.false_eq_true, if_false, hcancel, hordered, hst]

end Seal

/-! ## A full reserve (R315) -/

section Stall

variable (hkey : r.key = rg) (hst : t.st = .issued) (hfull : r.escCap ≤ r.lineCount)
include hkey hst hfull

omit hkey in
theorem escrowReserveStall_stops : exec (.escrowReserveStall rg ix) s = .next (s.stallTile r ix) := by
  have hgo : ¬(t.st ≠ .issued ∨ r.lineCount < r.escCap) := by simp [hst, hfull]
  change execEscrowReserveStall rg ix s = _
  simp only [execEscrowReserveStall, hr, ht, if_neg hgo]

theorem escrowReserveStall_cancelled (hcancel : s.cancelled r = true) :
    exec (.escrowReserveStall rg ix) s = .next (s.modRegion rg fun r => r.endTt ix false) := by
  rw [escrowReserveStall_stops hr ht hst hfull, State.stallTile, if_pos hcancel, hkey]

variable (hcancel : s.cancelled r = false)
include hcancel

theorem escrowReserveStall_doomed (holder : ∃ x ∈ r.tts, x.st = .doomed ∧ x.ix < ix) : exec (.escrowReserveStall rg ix) s =
    .next (s.modRegion rg fun r => r.modTt ix fun t => { t with st := .doomed, lines := [] }) := by
  have hany : (r.tts.any fun x => x.st == .doomed && decide (x.ix < ix)) = true := by
    simpa only [List.any_eq_true, Bool.and_eq_true, beq_iff_eq, decide_eq_true_eq] using holder
  rw [escrowReserveStall_stops hr ht hst hfull, State.stallTile, hcancel, if_neg Bool.false_ne_true, if_pos hany, hkey]

theorem escrowReserveStall_stalled (hfirst : ∀ x ∈ r.tts, x.st = .doomed → ix ≤ x.ix) : exec (.escrowReserveStall rg ix) s =
    .next (s.modRegion rg fun r => r.modTt ix fun t => { t with st := .stalled }) := by
  have hnone : ¬ (r.tts.any fun x => x.st == .doomed && decide (x.ix < ix)) = true := by
    simp only [List.any_eq_true, Bool.and_eq_true, beq_iff_eq, decide_eq_true_eq, not_exists, not_and, Nat.not_lt]
    exact hfirst
  rw [escrowReserveStall_stops hr ht hst hfull, State.stallTile, hcancel, if_neg Bool.false_ne_true, if_neg hnone, hkey]

end Stall

/-! ## The oldest tile-task writes through or commits (R315, R316, R320) -/

theorem writeThroughStart_writes (hst : t.st = .stalled) (hcancel : s.cancelled r = false)
    (holdest : s.olderLive r.ptn (r.key2 ix) = false) : exec (.writeThroughStart rg ix) s =
      .next ((s.commitLines r t).modRegion rg fun r => r.modTt ix fun t => { t with st := .writethru, lines := [] }) := by
  have hgo : ¬(t.st ≠ .stalled ∨ s.cancelled r = true ∨ s.olderLive r.ptn (r.key2 ix) = true) := by simp [hst, hcancel, holdest]
  change execWriteThroughStart rg ix s = _
  simp only [execWriteThroughStart, hr, ht, if_neg hgo]

theorem commitTileTask_commits (hst : t.st = .sealed) (hcancel : s.cancelled r = false)
    (holdest : s.olderLive r.ptn (r.key2 ix) = false) (hcut : s.cutMet r t = true) : exec (.commitTileTask rg ix) s =
      .next (((s.commitLines r t).modRegion rg fun r => r.endTt ix true).raiseFloor r.ptn (r.ts + ix)) := by
  have hgo : ¬(t.st ≠ .sealed ∨ s.cancelled r = true ∨ s.olderLive r.ptn (r.key2 ix) = true ∨ (!s.cutMet r t) = true) := by
    simp [hst, hcancel, holdest, hcut]
  change execCommitTileTask rg ix s = _
  simp only [execCommitTileTask, hr, ht, if_neg hgo]

theorem commitTileTask_waits
    (hnot : s.cancelled r = true ∨ s.olderLive r.ptn (r.key2 ix) = true ∨ s.cutMet r t = false) :
    exec (.commitTileTask rg ix) s = .next s := by
  have hstop : t.st ≠ .sealed ∨ s.cancelled r = true ∨ s.olderLive r.ptn (r.key2 ix) = true ∨ (!s.cutMet r t) = true := by
    rw [Bool.not_eq_true']
    exact .inr hnot
  change execCommitTileTask rg ix s = _
  simp only [execCommitTileTask, hr, ht, if_pos hstop]

end Tile

/-- Settles O57. Each clause is the equation of its event. The interval at which a tile-task closes (log 66), that a stalled one
of a cancelled task ends at once (log 74), and that a persistent range leaves a re-run to `RANGE.GET` (log 126), is the model's
choice. -/
theorem regionAndTileTaskEvents : Obligations.RegionAndTileTaskEvents := by
  unfold Obligations.RegionAndTileTaskEvents
  refine ⟨?region, ?tile⟩
  case region =>
    intro s rg pg me r k p m from_ step here
    refine ⟨fun hr => ⟨drainStart_drains hr, fun hquiet hfirst => ⟨quietCountExpire_drained hr hquiet hfirst, ?sweep1, ?sweep2⟩,
        cutSnapInject_injects hr, preemptFreeze_freezes hr, fun hst hlate => ⟨preemptWatchdogExpire_rolls_back hr hst hlate,
          preemptWatchdogExpire_stands hr hst hlate⟩, linkFlitFailure_withholds hr⟩,
      fun hr hk hst => ⟨regionComplete_cancelled hr hk hst, fun hcancel => regionComplete_ends hr hk hst hcancel,
        fun hcancel => regionComplete_waits hr hk hst hcancel⟩,
      fun _ => retire_pageKeys s rg, fun hp hnot hpassed => ⟨_, pageDrained_frees hp hnot hpassed, ?drained, ?banks⟩,
      fun hp hm hr hdrain hnot hquiet htook hpasses => meDrainPass_passes hp hm hr hdrain hnot hquiet htook hpasses,
      fun hm hr hlow _ hroll hstill hdrain => undoLogLow_injects hm hr hlow hroll hstill hdrain⟩
    case sweep1 =>
      intro hall hdrain
      have h := quietCountExpire_sweeps hr hquiet hfirst hall
      rwa [hdrain] at h
    case sweep2 =>
      intro hall hdrain
      have h := quietCountExpire_sweeps hr hquiet hfirst hall
      rwa [hdrain] at h
    case drained =>
      rw [page?_modPage_same]
      change ((s.page? pg).map _).map _ = _
      rw [hp]
      rfl
    case banks => exact fun d hd b tok hb => freeBanks_not_held hd hb
  case tile =>
    intro s rg ix r t upd ends step hr hkey
    exact ⟨tileTaskIssue_next hr hkey, fun _ hown => rerunIssue_persistent hr hown, rerunIssue_again hr,
      fun ht => ⟨fun hseal => ⟨tileTaskSeal_cancelled hr ht hseal, fun hcancel => tileTaskSeal_free hr ht hseal hcancel,
          fun hcancel hordered => ⟨tileTaskSeal_sealed hr ht hseal hcancel hordered,
            tileTaskSeal_committed hr ht hseal hcancel hordered,
            fun hst _ => tileTaskSeal_doomed hr ht hseal hcancel hordered hst⟩⟩,
        tileTaskSeal_waits hr ht, escrowReserveStall_cancelled hr ht hkey,
        fun hst hfull hcancel => ⟨escrowReserveStall_doomed hr ht hkey hst hfull hcancel,
          escrowReserveStall_stalled hr ht hkey hst hfull hcancel⟩,
        writeThroughStart_writes hr ht, commitTileTask_commits hr ht, fun _ => commitTileTask_waits hr ht⟩⟩

end Sys2Proof.Machine
end

section
/-!
SUPPORT. Partitions (R405, R409-R411, R413) and bring-up (R401, R416): what scrubbing and binding leave unchanged, and the
equation of each event.
-/

set_option Elab.async false

namespace Sys2Proof.Machine

variable {s u : State} {ptn die k : Nat} {r : PtnRes} {p : Ptn} {d : Die}

/-! ## What handing resources over leaves unchanged -/

/-- The strongroom's books: the partitions, what has been answered to the host, the bring-up, and the tasks. -/
def State.books (s : State) : List (Nat × Ptn) × List HostOut × Bring × List Task := (s.ptns, s.hostOut, s.bring, s.tasks)

theorem vacate_books (s : State) (pg : Nat) : (s.vacate pg).books = s.books := by
  unfold State.vacate
  split
  · rfl
  · dsimp only
    split <;> rfl

theorem scrub_books (s : State) (r : PtnRes) : (s.scrub r).books = s.books :=
  foldl_proj (g := State.books) (step := fun s h => { s.vacate h with shadows := alDel h s.shadows })
    (fun s h => vacate_books s h) r.halves s

theorem bindRes_books (s : State) (owner : Option Nat) (r : PtnRes) : (s.bindRes owner r).books = s.books := by
  refine foldl_proj (g := State.books) ?_ r.tctxs s
  exact fun _ _ => rfl

section Books

variable (h : u.books = s.books)
include h

theorem ptns_of_books : u.ptns = s.ptns := congrArg Prod.fst h
theorem ptn?_of_books : u.ptn? ptn = s.ptn? ptn := congrArg (alGet ptn) (ptns_of_books h)
theorem hostOut_of_books : u.hostOut = s.hostOut := congrArg (fun b => b.2.1) h
theorem fwOk_of_books : u.bring.fwOk = s.bring.fwOk := congrArg (fun b => b.2.2.1.fwOk) h
theorem tasks_of_books : u.tasks = s.tasks := congrArg (fun b => b.2.2.2) h

end Books

/-! ## What scrubbing removes (R413) -/

/-- No cell of memory is listed at a key. -/
def State.unlisted (s : State) (k : Nat) : Prop := ¬ ∃ c ∈ s.mem, c.1 = k

theorem scrub_unlists (s : State) (hk : resCovers r k = true) : (s.scrub r).unlisted k := by
  rintro ⟨c, hc, rfl⟩
  have hcover := (List.mem_filter.mp hc).2
  rw [hk] at hcover
  exact absurd hcover nofun

theorem scrub_keeps_unlisted (h : s.unlisted k) : (s.scrub r).unlisted k := by
  rintro ⟨c, hc, hck⟩
  have hmem : (r.halves.foldl (fun s h => { s.vacate h with shadows := alDel h s.shadows }) s).mem = s.mem :=
    foldl_mem (f := fun s h => { s.vacate h with shadows := alDel h s.shadows }) (fun s h => vacate_mem s h) r.halves s
  exact h ⟨c, hmem ▸ (List.mem_filter.mp hc).1, hck⟩

theorem unlisted_of_mem (hmem : u.mem = s.mem) (h : s.unlisted k) : u.unlisted k := by
  rintro ⟨c, hc, hck⟩
  exact h ⟨c, hmem ▸ hc, hck⟩

/-! ## A partition is created, resized and destroyed (R410, R413) -/

theorem grantOk_fwOk (h : s.grantOk ptn r = true) : s.bring.fwOk = true := by
  simp only [State.grantOk, Bool.and_eq_true] at h
  tauto

theorem tellHost_of_fwOk (h : s.bring.fwOk = true) (kind : Nat) (bs : List Byte) (poison : Bool) : s.tellHost kind ptn bs poison =
    { s with hostOut := s.hostOut ++ [({ kind := kind, ptn := ptn, bytes := bs, poison := poison } : HostOut)] } := by
  rw [State.tellHost, h]
  exact if_neg nofun

/-- The state in which a new partition has its resources. -/
def State.created (s : State) (ptn : Nat) (r : PtnRes) : State :=
  { s.scrub r with ptns := alSet ptn (Ptn.fresh r) (s.scrub r).ptns }.bindRes (some ptn) r

theorem partitionCreate_grants (hnew : s.ptn? ptn = none) (hok : s.grantOk ptn r = true) : exec (.partitionCreate ptn r) s =
    .next ((s.created ptn r).tellHost 5 ptn (leBytes 8 (homeWord r.home)) false) := by
  have hgo : ¬ ((s.ptn? ptn).isSome || !s.grantOk ptn r) = true := by simp [hnew, hok]
  exact if_neg hgo

theorem partitionCreate_refuses (hbad : s.grantOk ptn r = false) : exec (.partitionCreate ptn r) s = .next s :=
  if_pos (by simp [hbad])

theorem created_told (hok : s.grantOk ptn r = true) (kind : Nat) (bs : List Byte) (poison : Bool) :
    (s.created ptn r).tellHost kind ptn bs poison = { s.created ptn r with
      hostOut := s.hostOut ++ [({ kind := kind, ptn := ptn, bytes := bs, poison := poison } : HostOut)] } := by
  have hscrubFw : (s.scrub r).bring.fwOk = s.bring.fwOk := fwOk_of_books (scrub_books s r)
  have hscrubOut : (s.scrub r).hostOut = s.hostOut := hostOut_of_books (scrub_books s r)
  have hbind := bindRes_books { s.scrub r with ptns := alSet ptn (Ptn.fresh r) (s.scrub r).ptns } (some ptn) r
  have hfw : (s.created ptn r).bring.fwOk = true :=
    ((fwOk_of_books hbind).trans hscrubFw).trans (grantOk_fwOk hok)
  have hout : (s.created ptn r).hostOut = s.hostOut := (hostOut_of_books hbind).trans hscrubOut
  rw [tellHost_of_fwOk hfw, hout]

theorem created_ptn? (s : State) (ptn : Nat) (r : PtnRes) : (s.created ptn r).ptn? ptn = some (Ptn.fresh r) :=
  (ptn?_of_books (bindRes_books ..)).trans (alGet_alSet_same ..)

theorem created_unlisted (s : State) (ptn : Nat) (hk : resCovers r k = true) : (s.created ptn r).unlisted k :=
  unlisted_of_mem (bindRes_mem ..) (scrub_unlists s hk)

/-- The state in which a partition has another grant. -/
def State.resized (s : State) (ptn : Nat) (old new : PtnRes) : State :=
  State.modPtn ((((s.scrub (resMinus old new)).bindRes none (resMinus old new)).scrub (resMinus new old)).bindRes (some ptn)
    { resMinus new old with asids := new.asids }) ptn fun p => { p with res := new }

section Resize

variable (hp : s.ptn? ptn = some p)
include hp

theorem partitionResize_refuses (hbad : s.grantOk ptn r = false) : exec (.partitionResize ptn r) s = .next s := by
  change execPartitionResize ptn r s = _
  simp only [execPartitionResize, hp, hbad, Bool.not_false, Bool.true_or, if_true]

theorem partitionResize_grants (hok : s.grantOk ptn r = true)
    (hidle : ∀ t ∈ s.tasks, t.ptn = ptn → ∀ h ∈ s.taskHalves t, h ∈ p.res.halves → h ∈ r.halves) :
    exec (.partitionResize ptn r) s =
      .next ((s.resized ptn p.res r).tellHost 5 ptn (leBytes 8 (homeWord r.home)) false) := by
  have hfree : (resMinus p.res r).halves.any (fun h => ((s.tasks.filter fun k => k.ptn == ptn).flatMap s.taskHalves).contains h) =
      false := by
    simp only [resMinus, List.any_eq_false, List.mem_filter, List.contains_eq_mem, decide_eq_true_eq, List.mem_flatMap,
      beq_iff_eq, Bool.not_eq_true', decide_eq_false_iff_not]
    rintro h ⟨hold, hnew⟩ ⟨t, ⟨ht, hptn⟩, hh⟩
    exact hnew (hidle t ht hptn h hh hold)
  change execPartitionResize ptn r s = _
  simp only [execPartitionResize, hp, hok, hfree, Bool.not_true, Bool.or_self, Bool.false_eq_true, if_false]
  rfl

omit hp in
theorem tellHost_ptn? (s : State) (kind q : Nat) (bs : List Byte) (poison : Bool) :
    (s.tellHost kind q bs poison).ptn? ptn = s.ptn? ptn := by
  unfold State.tellHost
  split <;> rfl

theorem resized_ptn? : (s.resized ptn p.res r).ptn? ptn = some { p with res := r } := by
  have hbooks := (bindRes_books (((s.scrub (resMinus p.res r)).bindRes none (resMinus p.res r)).scrub (resMinus r p.res))
    (some ptn) { resMinus r p.res with asids := r.asids }).trans
    ((scrub_books ..).trans ((bindRes_books ..).trans (scrub_books ..)))
  refine (alGet_alMod_same ..).trans ?_
  exact congrArg (Option.map _) ((ptn?_of_books hbooks).trans hp)

omit hp in
theorem resized_unlisted (s : State) (ptn : Nat) {old new : PtnRes} (hk : resCovers (resMinus old new) k = true) :
    (s.resized ptn old new).unlisted k :=
  unlisted_of_mem (bindRes_mem ..) (scrub_keeps_unlisted (unlisted_of_mem (bindRes_mem ..) (scrub_unlists s hk)))

theorem partitionDestroy_ends : ∃ u, exec (.partitionDestroy ptn) s = .next u ∧ u.ptn? ptn = none ∧
    (resCovers p.res k = true → u.unlisted k) ∧ ∀ t ∈ u.tasks, t.ptn ≠ ptn := by
  have hstep : exec (.partitionDestroy ptn) s = .next { ((s.purgePtn ptn).scrub p.res).bindRes none p.res with
      ptns := alDel ptn (((s.purgePtn ptn).scrub p.res).bindRes none p.res).ptns } := by
    change execPartitionDestroy ptn s = _
    simp only [execPartitionDestroy, hp]
  have htasks : (((s.purgePtn ptn).scrub p.res).bindRes none p.res).tasks = (s.purgePtn ptn).tasks :=
    tasks_of_books ((bindRes_books ..).trans (scrub_books ..))
  refine ⟨_, hstep, alGet_alDel_same .., fun hk => unlisted_of_mem (bindRes_mem ..) (scrub_unlists _ hk), fun t ht => ?_⟩
  have hmine := (List.mem_filter.mp (htasks ▸ ht)).2
  simpa using hmine

end Resize

/-! ## A function is parked and restored (R405) -/

/-- The partition held: its contexts issue nothing more and its regions stop. -/
def State.stopping (s : State) (ptn : Nat) : State := (s.stopAll ptn).modPtn ptn fun p => { p with held := 1 }

theorem landPackets_ptns (s : State) (pg : Nat) : (s.landPackets pg).ptns = s.ptns := by
  unfold State.landPackets
  refine (foldl_proj (g := State.ptns) ?_ _ _).trans rfl
  exact fun _ _ => rfl

theorem takePage_ptns (s : State) (pg : Nat) (bytes : List Byte) : (s.takePage pg bytes).ptns = s.ptns := by
  unfold State.takePage
  dsimp only
  split <;> exact landPackets_ptns s pg

theorem takeAllPages_ptns (s : State) (ptn : Nat) : (s.takeAllPages ptn).1.ptns = s.ptns := by
  unfold State.takeAllPages
  refine List.foldlRecOn (motive := fun acc : State × List Nat => acc.1.ptns = s.ptns) _ _ rfl ?_
  intro acc hacc pg _
  dsimp only
  split
  · exact (takePage_ptns ..).trans ((landPackets_ptns ..).trans hacc)
  · exact hacc

section Preempt

variable (hp : s.ptn? ptn = some p) (hheld : p.held ≠ 2)
include hp hheld

theorem hypervisorVfPreempt_waits (hbusy : (s.stopping ptn).ptnStill ptn p.res.tctxs = false) :
    exec (.hypervisorVfPreempt ptn) s = .next (s.stopping ptn) := by
  unfold State.stopping at hbusy ⊢
  change execHypervisorVfPreempt ptn s = _
  simp only [execHypervisorVfPreempt, hp, if_neg hheld, hbusy, Bool.not_false, if_true]

/-- The state with the partition's pages taken out of their frames. -/
def State.cleared (s : State) (ptn : Nat) : State :=
  { (s.takeAllPages ptn).1 with
    shadows := (s.takeAllPages ptn).1.shadows.filter fun x => x.2.ptn != ptn
    tasks := (s.takeAllPages ptn).1.tasks.map fun k => if k.ptn = ptn then { k with fill := none } else k }

/-- The partition's contexts and their outstanding words are kept. -/
def State.parkedAs (s : State) (ptn : Nat) (places ctxs : List Nat) : State :=
  let t := s.modPtn ptn fun p => { p with
    held := 2
    parkedSaves := places
    parked := ctxs.filterMap fun i => (s.tctx? (i / 4) (i % 4)).map fun c => (i, c)
    parkedFlights := s.flights.filter fun f => ctxs.any f.ofCtx
    parkedReqs := s.reqs.filter fun r => ctxs.any (r.ofCtx s) }
  ctxs.foldl (fun s i => s.modTctx (i / 4) (i % 4) fun c => { TCtx.reset with ptn := c.ptn, asid := c.asid })
    { t with flights := t.flights.filter fun f => !ctxs.any f.ofCtx, reqs := t.reqs.filter fun r => !ctxs.any (r.ofCtx t) }

theorem hypervisorVfPreempt_parks (hstill : (s.stopping ptn).ptnStill ptn p.res.tctxs = true) :
    exec (.hypervisorVfPreempt ptn) s =
    .next (((s.stopping ptn).cleared ptn).parkedAs ptn ((s.stopping ptn).takeAllPages ptn).2 p.res.tctxs) := by
  unfold State.stopping at hstill ⊢
  change execHypervisorVfPreempt ptn s = _
  simp only [execHypervisorVfPreempt, hp, if_neg hheld, hstill, Bool.not_true, Bool.false_eq_true, if_false]
  rfl

end Preempt

section Parked

variable (places ctxs : List Nat)

theorem parkedAs_held : ((s.parkedAs ptn places ctxs).ptn? ptn).map (·.held) = (s.ptn? ptn).map fun _ => 2 := by
  unfold State.parkedAs
  refine (congrArg (fun l => (alGet ptn l).map (·.held)) (foldl_proj (g := State.ptns) ?_ ctxs _)).trans ?_
  · exact fun _ _ => rfl
  · change (alGet ptn (alMod ptn _ s.ptns)).map _ = _
    rw [alGet_alMod_same, Option.map_map]
    rfl

theorem parkedAs_flights {f : Flight} (hf : f ∈ (s.parkedAs ptn places ctxs).flights) {i : Nat} (hi : i ∈ ctxs) :
    f.ofCtx i = false := by
  unfold State.parkedAs at hf
  have hflights := foldl_proj (g := State.flights) (step := fun s i =>
    s.modTctx (i / 4) (i % 4) fun c => { TCtx.reset with ptn := c.ptn, asid := c.asid }) (fun _ _ => rfl) ctxs
  have hnone := (List.mem_filter.mp (hflights _ ▸ hf)).2
  simp only [Bool.not_eq_true', List.any_eq_false, Bool.not_eq_true] at hnone
  exact hnone i hi

end Parked

theorem cleared_held (hp : s.ptn? ptn = some p) : (((s.stopping ptn).cleared ptn).ptn? ptn).map (fun _ => 2) = some 2 := by
  have hptns : ((s.stopping ptn).cleared ptn).ptns = (s.stopping ptn).ptns := takeAllPages_ptns ..
  have hstop : (s.stopping ptn).ptn? ptn = (s.ptn? ptn).map fun p => { p with held := 1 } := alGet_alMod_same ..
  rw [State.ptn?, hptns, ← State.ptn?, hstop, hp]
  rfl

/-- The partition's contexts, flights and regions as they were when it was parked, in the state with its pages put back. -/
def State.unparked (s : State) (ptn : Nat) (p : Ptn) : State :=
  let t := p.parked.foldl (fun s x => s.modTctx (x.1 / 4) (x.1 % 4) fun _ => x.2) s
  let runs (r : Region) : Bool := ((t.taskOfRegion r).map fun k => k.st == TaskState.running).getD false
  State.modPtn { t with
    flights := t.flights ++ p.parkedFlights
    reqs := t.reqs ++ p.parkedReqs
    regions := t.regions.map fun x => (x.1,
      if x.2.ptn = ptn ∧ x.2.st = RgState.frozen ∧ runs x.2 then { x.2 with st := .armed, quiet := 0, swept := false } else x.2) }
    ptn fun p => { p with held := 0, parked := [], parkedFlights := [], parkedReqs := [], parkedSaves := [] }

theorem vfRestore_restores (hp : s.ptn? ptn = some p) (hheld : p.held = 2) (hput : s.putPages ptn p.parkedSaves = some u) :
    exec (.vfRestore ptn) s = .next (u.unparked ptn p) := by
  have hgo : ¬ p.held ≠ 2 := not_not_intro hheld
  change execVfRestore ptn s = _
  simp only [execVfRestore, hp, if_neg hgo, hput]
  rfl

section Unparked

variable (u : State) (ptn : Nat) (p : Ptn)

theorem unparked_flights : (u.unparked ptn p).flights = u.flights ++ p.parkedFlights :=
  congrArg (· ++ p.parkedFlights) (foldl_proj (g := State.flights)
    (step := fun s x => s.modTctx (x.1 / 4) (x.1 % 4) fun _ => x.2) (fun _ _ => rfl) p.parked u)

theorem unparked_ptn? : ((u.unparked ptn p).ptn? ptn).map (fun q => (q.held, q.parked)) = (u.ptn? ptn).map fun _ => (0, []) := by
  have hptns : (p.parked.foldl (fun s x => s.modTctx (x.1 / 4) (x.1 % 4) fun _ => x.2) u).ptns = u.ptns :=
    foldl_proj (g := State.ptns) (step := fun s x => s.modTctx (x.1 / 4) (x.1 % 4) fun _ => x.2) (fun _ _ => rfl) p.parked u
  change (alGet ptn (alMod ptn _ (p.parked.foldl (fun s x => s.modTctx (x.1 / 4) (x.1 % 4) fun _ => x.2) u).ptns)).map _ = _
  rw [hptns, alGet_alMod_same, Option.map_map]
  rfl

end Unparked

/-! ## Bring-up (R416) -/

theorem memGet_of_unlisted {m : List Host.Cell} (h : ∀ c ∈ m, c.1 ≠ k) : memGet k m = 0 := by
  induction m with
  | nil => rfl
  | cons c m ih =>
    obtain ⟨j, b⟩ := c
    rw [memGet, if_neg (h (j, b) List.mem_cons_self)]
    exact ih fun c hc => h c (List.mem_cons_of_mem _ hc)

theorem dieReady_ready (hdie : die < 8) (hanchor : s.bring.anchor = true) : ∃ u, exec (.dieReady die) s = .next u ∧
    u.bring.ready = s.bring.ready.set die true ∧ (k < vaultKey → hbmDie k = die → memGet k u.mem = 0) := by
  have hgo : ¬((!s.bring.anchor) = true ∨ 8 ≤ die) := by simp [hanchor, hdie]
  refine ⟨_, if_neg hgo, rfl, fun hk hmine => memGet_of_unlisted fun c hc hck => ?_⟩
  have hother := (List.mem_filter.mp hc).2
  simp [hck, hk, hmine] at hother

theorem dieReady_waits (hanchor : s.bring.anchor = false) : exec (.dieReady die) s = .next s :=
  if_pos (.inl (by rw [hanchor]; rfl))

section Dies

variable (hd : s.dies[die]? = some d)
include hd

theorem modDie_same (f : Die → Die) : (s.modDie die f).dies[die]? = some (f d) :=
  (List.getElem?_modify_eq ..).trans (congrArg (f <$> ·) hd)

omit hd in
theorem modDie_other (f : Die → Die) {j : Nat} (hj : j ≠ die) : (s.modDie die f).dies[j]? = s.dies[j]? :=
  List.getElem?_modify_ne f s.dies hj.symm

theorem earlyServiceStart_first (hfirst : s.bring.ready.findIdx? id = some die) (hpackage : s.bring.package = false)
    (hearly : s.bring.early = false) : ∃ u, exec .earlyServiceStart s = .next u ∧ u.bring.early = true ∧
      u.dies[die]? = some { d with mhz := 470 } ∧ ∀ j, j ≠ die → u.dies[j]? = s.dies[j]? := by
  have hstep : exec .earlyServiceStart s =
      .next (State.modDie { s with bring := { s.bring with early := true } } die fun d => { d with mhz := 470 }) := by
    change execEarlyServiceStart s = _
    simp only [execEarlyServiceStart, hfirst, hpackage, hearly, Bool.or_self, Bool.false_eq_true, if_false]
  exact ⟨_, hstep, rfl, modDie_same (s := { s with bring := { s.bring with early := true } }) hd _, fun j hj =>
    modDie_other (s := { s with bring := { s.bring with early := true } }) _ hj⟩

omit hd in
theorem earlyServiceStart_once (hearly : s.bring.early = true) : exec .earlyServiceStart s = .next s := by
  change execEarlyServiceStart s = _
  simp only [execEarlyServiceStart, hearly, Bool.or_true, if_true]
  split <;> rfl

theorem packageReady_all (hall : s.bring.ready.all id = true) : ∃ u, exec .packageReady s = .next u ∧ u.bring.package = true ∧
    (s.bring.early = true → s.atBoundary = true →
      u.bring.early = false ∧ (d.mhz = 470 → u.dies[die]? = some { d with mhz := 940 })) := by
  have hgo : ¬ (!s.bring.ready.all id) = true := by simp [hall]
  by_cases hends : s.bring.early = true ∧ s.atBoundary = true
  · refine ⟨_, (if_neg hgo).trans (if_pos hends), rfl, fun _ _ => ⟨rfl, fun hmhz => ?_⟩⟩
    simp only [List.getElem?_map, hd, Option.map_some, hmhz, if_true]
  · exact ⟨_, (if_neg hgo).trans (if_neg hends), rfl, fun hearly hbound => absurd ⟨hearly, hbound⟩ hends⟩

theorem powerCap_lowers {mhz : Nat} (hpos : 0 < mhz) (hle : mhz ≤ 940) :
    ∃ u, exec (.powerCap die mhz) s = .next u ∧ u.dies[die]? = some { d with mhz := mhz } :=
  ⟨_, rfl, (modDie_same hd _).trans (congrArg some (if_pos ⟨hpos, hle⟩))⟩

theorem watchdogSet_sets {n : Nat} (hlow : 9400 ≤ n) (hhigh : n ≤ 940000) :
    ∃ u, exec (.watchdogSet die n) s = .next u ∧ u.dies[die]? = some { d with watchdog := n } :=
  ⟨_, rfl, (modDie_same hd _).trans (congrArg some (if_pos ⟨hlow, hhigh⟩))⟩

theorem watchdogSet_keeps {n : Nat} (hout : n < 9400 ∨ 940000 < n) :
    ∃ u, exec (.watchdogSet die n) s = .next u ∧ u.dies[die]? = some d :=
  ⟨_, rfl, (modDie_same hd _).trans (congrArg some (if_neg (by omega)))⟩

end Dies

/-- Settles O60. Each clause is the equation of its event and what its parts leave unchanged. That a request the strongroom cannot
grant (log 106) and a watchdog outside its limits (log 108) change nothing, that the lowest-numbered ready die serves early
(log 114), and the values of a new partition (log 9), is the model's choice. -/
theorem partitionAndBringUpEvents : Obligations.PartitionAndBringUpEvents := by
  unfold Obligations.PartitionAndBringUpEvents
  intro s ptn die mhz n k r p d step listed
  refine ⟨fun hnew hok => ⟨_, partitionCreate_grants hnew hok, ?created⟩, fun _ hbad => partitionCreate_refuses hbad,
    fun hp => ⟨fun hok hidle => ⟨_, partitionResize_grants hp hok hidle, (tellHost_ptn? ..).trans (resized_ptn? hp), fun hk =>
        unlisted_of_mem (tellHost_mem ..) (resized_unlisted s ptn hk)⟩,
      partitionResize_refuses hp, partitionDestroy_ends hp, ?parked, fun u hheld hput =>
        ⟨_, vfRestore_restores hp hheld hput, unparked_ptn? u ptn p, unparked_flights u ptn p⟩⟩,
    ⟨_, rfl, rfl⟩, fun hdie hanchor _ => dieReady_ready hdie hanchor, dieReady_waits,
    fun hd => ⟨earlyServiceStart_first hd, earlyServiceStart_once, packageReady_all hd, powerCap_lowers hd, watchdogSet_sets hd,
      watchdogSet_keeps hd⟩⟩
  case created =>
    rw [created_told hok]
    exact ⟨created_ptn? s ptn r, created_unlisted s ptn, rfl⟩
  case parked =>
    intro hheld
    exact ⟨hypervisorVfPreempt_waits hp hheld, fun hstill => ⟨_, hypervisorVfPreempt_parks hp hheld hstill,
      (parkedAs_held ..).trans (cleared_held hp), fun f hf i hi => parkedAs_flights _ _ hf hi⟩⟩

end Sys2Proof.Machine
end

section
/-!
SUPPORT. What the host does to a function (R405, R407-R409, R415): its registers, its accesses to memory, trust, and a reset.
-/

set_option Elab.async false

namespace Sys2Proof.Machine

variable {s t u : State} {ptn off pa len key : Nat} {p : Ptn} {bs man : List Byte} {e : Tlb}

/-! ## Mailbox and registers (R408, R409) -/

/-- Two changes of a partition agree when they agree at the partition that stands there. -/
theorem modPtn_congr {f g : Ptn → Ptn} (hp : s.ptn? ptn = some p) (hfg : f p = g p) : s.modPtn ptn f = s.modPtn ptn g := by
  simp only [State.modPtn, alMod_congr hp hfg]

section Registers

variable (hp : s.ptn? ptn = some p)
include hp

theorem hostMbxWrite_writes (v : Word) : ∃ u, exec (.hostMbxWrite ptn v) s = .next u ∧
    (p.mbx.length < 64 → u.ptn? ptn = some { p with mbx := p.mbx ++ [v] }) ∧
    (64 ≤ p.mbx.length → u.ptn? ptn = some { p with mbxErr := true }) := by
  have hmap := (ptn?_modPtn_same s ptn fun p =>
    if p.mbx.length < 64 then { p with mbx := p.mbx ++ [v] } else { p with mbxErr := true }).trans (congrArg (Option.map _) hp)
  exact ⟨_, rfl, fun hroom => hmap.trans (congrArg some (if_pos hroom)),
    fun hfull => hmap.trans (congrArg some (if_neg (Nat.not_lt.mpr hfull)))⟩

theorem hostNotifyRead_empty (hnone : p.notify = []) :
    exec (.hostNotifyRead ptn) s = .next (s.tellHost 0 ptn (List.replicate 8 0xFF) false) := by
  change execHostNotifyRead ptn s = _
  simp only [execHostNotifyRead, hp, Option.bind_some, hnone, List.head?_nil]
  rfl

theorem hostNotifyRead_oldest {w : Word} {l : List Word} (hword : p.notify = w :: l) : exec (.hostNotifyRead ptn) s = .next
    (((s.modPtn ptn fun p => { p with notify := p.notify.drop 1 }).tellHost 0 ptn (leBytes 8 w.toNat) false).notifyAll ptn) := by
  change execHostNotifyRead ptn s = _
  simp only [execHostNotifyRead, hp, Option.bind_some, hword, List.head?_cons]

end Registers

theorem hostRegisterWrite_notVec (v : Word) :
    exec (.hostRegisterWrite ptn 0x20 v) s = .next (s.modPtn ptn fun p => { p with notVec := v.toNat % 64 }) := rfl

theorem hostRegisterWrite_other (hoff : off ≠ 0x20) (v : Word) : exec (.hostRegisterWrite ptn off v) s = .next s := if_neg hoff

/-- The number whose bits below `n` are those of `f`. -/
def bitSum (f : Nat → Bool) (n : Nat) : Nat := (List.range n).foldl (fun m d => m + if f d then 2 ^ d else 0) 0

theorem bitSum_succ (f : Nat → Bool) (n : Nat) : bitSum f (n + 1) = bitSum f n + if f n then 2 ^ n else 0 := by
  simp only [bitSum, List.range_succ, List.foldl_append, List.foldl_cons, List.foldl_nil]

theorem bitSum_lt (f : Nat → Bool) (n : Nat) : bitSum f n < 2 ^ n := by
  induction n with
  | zero => exact Nat.one_pos
  | succ n ih =>
    rw [bitSum_succ, Nat.pow_succ]
    split <;> omega

theorem testBit_bitSum (f : Nat → Bool) (n d : Nat) : (bitSum f n).testBit d = (decide (d < n) && f d) := by
  induction n with
  | zero => simp [bitSum]
  | succ n ih =>
    have hlt := bitSum_lt f n
    rw [bitSum_succ]
    rcases Nat.lt_trichotomy d n with hd | rfl | hd
    · split
      · rw [Nat.add_comm, Nat.testBit_two_pow_add_gt hd, ih]
        simp [hd, Nat.lt_succ_of_lt hd]
      · rw [Nat.add_zero, ih]
        simp [hd, Nat.lt_succ_of_lt hd]
    · cases hf : f d with
      | true => simp [Nat.add_comm, Nat.testBit_two_pow_add_eq, Nat.testBit_lt_two_pow hlt]
      | false => simp [Nat.testBit_lt_two_pow hlt]
    · have hout : ¬ d < n + 1 := by omega
      have hsum : bitSum f n + (if f n = true then 2 ^ n else 0) < 2 ^ d :=
        bitSum_succ f n ▸ (bitSum_lt f (n + 1)).trans_le (Nat.pow_le_pow_right (by decide) hd)
      rw [Nat.testBit_lt_two_pow hsum]
      simp [hout]

/-- The bits of READY: the dies, the anchor, the package, early service (R408). -/
def Bring.readyBit (b : Bring) (d : Nat) : Bool :=
  if d < 8 then b.ready.getD d false else if d = 8 then b.anchor else if d = 9 then b.package else b.early

theorem readyWord_bits (b : Bring) : b.readyWord = bitSum b.readyBit 11 := by
  simp only [Bring.readyWord, bitSum, Bring.readyBit, List.range_succ, List.range_zero, List.nil_append, List.cons_append,
    List.foldl_cons, List.foldl_nil]
  norm_num

theorem readyWord_getLsbD (b : Bring) (d : Nat) : (w64 b.readyWord).getLsbD d = (decide (d < 11) && b.readyBit d) := by
  rw [w64, BitVec.getLsbD_ofNat, readyWord_bits, testBit_bitSum]
  by_cases hd : d < 11
  · simp [hd, show d < 64 by omega]
  · simp [hd]

theorem hostRegister_mbx (hp : s.ptn? ptn = some p) (hlen : p.mbx.length ≤ 64) :
    (s.hostRegister ptn 0x10).map (·.getLsbD 63) = some p.mbxErr ∧
      (s.hostRegister ptn 0x10).map (fun v => v.toNat % 2 ^ 63) = some (64 - p.mbx.length) := by
  have hreg : s.hostRegister ptn 0x10 = some (w64 (64 - p.mbx.length + if p.mbxErr then 2 ^ 63 else 0)) := by
    simp only [State.hostRegister, hp, Option.map_some]
  have hroom : 64 - p.mbx.length < 2 ^ 63 := by omega
  rw [hreg, Option.map_some, Option.map_some]
  cases p.mbxErr with
  | true =>
    constructor
    · rw [w64, BitVec.getLsbD_ofNat, if_pos rfl, Nat.add_comm, Nat.testBit_two_pow_add_eq, Nat.testBit_lt_two_pow hroom]
      rfl
    · rw [w64, BitVec.toNat_ofNat, if_pos rfl]
      exact congrArg some (by omega)
  | false =>
    constructor
    · rw [w64, BitVec.getLsbD_ofNat, if_neg Bool.false_ne_true, Nat.add_zero, Nat.testBit_lt_two_pow hroom]
      rfl
    · rw [w64, BitVec.toNat_ofNat, if_neg Bool.false_ne_true]
      exact congrArg some (by omega)

/-! ## Accesses to memory (R239, R380, R407) -/

theorem pagesTouched_all {hbm : List Nat} (hlen : 0 < len) : ((pagesTouched pa len).all fun g => hbm.contains g) = true ↔
    ∀ i ≤ (pa + len - 1) / 65536 - pa / 65536, pa / 65536 + i ∈ hbm := by
  have hle : pa / 65536 ≤ (pa + len - 1) / 65536 := Nat.div_le_div_right (by omega)
  simp only [pagesTouched, tab, List.all_map, List.all_eq_true, List.mem_range, Function.comp_apply, List.contains_eq_mem,
    decide_eq_true_eq]
  exact ⟨fun h i hi => h i (by omega), fun h i hi => h i (by omega)⟩

section Cxl

variable (hp : s.ptn? ptn = some p)
include hp

/-- The function reaches committed HBM of its own partition only. -/
theorem cxlMemAccess_step (w : Option (List Byte)) : exec (.cxlMemAccess ptn pa len w) s =
    if ((pagesTouched pa len).all fun g => p.res.hbm.contains g) && hbmOk pa len then .next (s.hostAccess 1 ptn pa len w)
    else .next (s.hostMiss 1 ptn len w) := by
  change execCxlMemAccess ptn pa len w s = _
  simp only [execCxlMemAccess, hp, Option.map_some, Option.getD_some]

theorem cxlMemAccess_own (hmine : ∀ i ≤ (pa + len - 1) / 65536 - pa / 65536, pa / 65536 + i ∈ p.res.hbm) (hlen : 0 < len)
    (hok : hbmOk pa len = true) (w : Option (List Byte)) :
    exec (.cxlMemAccess ptn pa len w) s = .next (s.hostAccess 1 ptn pa len w) :=
  (cxlMemAccess_step hp w).trans (if_pos (by rw [(pagesTouched_all hlen).mpr hmine, hok]; rfl))

theorem cxlMemAccess_other (hno : pa / 65536 ∉ p.res.hbm ∨ hbmOk pa len = false) (hlen : 0 < len) (w : Option (List Byte)) :
    exec (.cxlMemAccess ptn pa len w) s = .next (s.hostMiss 1 ptn len w) := by
  refine (cxlMemAccess_step hp w).trans (if_neg ?_)
  rw [Bool.and_eq_true, pagesTouched_all hlen]
  rintro ⟨hall, hok⟩
  rcases hno with hno | hno
  · exact hno (hall 0 (Nat.zero_le _))
  · rw [hok] at hno
    exact absurd hno nofun

end Cxl

/-- The kind of access that a host's read or write is. -/
def hostAcc (w : Option (List Byte)) : Acc := if w.isSome then .store else .load

section Bar2

variable (hp : s.ptn? ptn = some p)
include hp

/-- The window reaches vault pages by ASID 1. -/
theorem bar2WindowAccess_step (w : Option (List Byte)) : exec (.bar2WindowAccess ptn off len w) s =
    match if off + len ≤ 2 ^ 24 ∧ s.ownsAsid ptn 1 then (s.walk p.peerDie 1 off).toOption.filter fun e =>
        leafVlt e.leaf && (e.forbids (hostAcc w)).isNone && decide (off + len ≤ e.va + e.size) else none with
    | some e => .next (s.hostAccess 2 ptn (e.key off) len w)
    | none => .next (s.hostMiss 2 ptn len w) := by
  change execBar2WindowAccess ptn off len w s = _
  simp only [execBar2WindowAccess, hp] <;> rfl

theorem bar2WindowAccess_vault (hin : off + len ≤ 2 ^ 24) (hmine : s.ownsAsid ptn 1 = true)
    (hwalk : s.walk p.peerDie 1 off = .ok e) (hvault : leafVlt e.leaf = true) (hleaf : off + len ≤ e.va + e.size)
    {w : Option (List Byte)} (hmay : e.forbids (hostAcc w) = none) :
    exec (.bar2WindowAccess ptn off len w) s = .next (s.hostAccess 2 ptn (e.key off) len w) := by
  rw [bar2WindowAccess_step hp, if_pos ⟨hin, hmine⟩, hwalk]
  simp [Except.toOption, Option.filter, hvault, hmay, hleaf]

theorem bar2WindowAccess_outside (hno : 2 ^ 24 < off + len ∨ s.ownsAsid ptn 1 = false) (w : Option (List Byte)) :
    exec (.bar2WindowAccess ptn off len w) s = .next (s.hostMiss 2 ptn len w) := by
  rw [bar2WindowAccess_step hp, if_neg]
  rintro ⟨hin, hmine⟩
  rcases hno with hno | hno
  · omega
  · rw [hmine] at hno
    exact absurd hno nofun

end Bar2

theorem bar2WindowAccess_pf (hpf : s.ptn? 0xFF = none) (w : Option (List Byte)) : exec (.bar2WindowAccess 0xFF off len w) s =
    if w.isNone then .next (s.tellHost 2 0xFF (List.replicate len 0) false) else .next s := by
  change execBar2WindowAccess 0xFF off len w s = _
  simp only [execBar2WindowAccess, hpf]

/-! ### The bytes a host's write leaves (R239) -/

/-- The first byte of a write in its block `i`, and the byte behind its last. -/
def blockFrom (key i : Nat) : Nat := max key ((key / 64 + i) * 64)
def blockTo (key n i : Nat) : Nat := min (key + n) ((key / 64 + i + 1) * 64)

/-- A host's write in its block `i`. -/
def State.hostBlock (s : State) (key : Nat) (bs : List Byte) (i : Nat) : State :=
  if s.poisoned (blockFrom key i) ∧ blockTo key bs.length i - blockFrom key i < 64 then s
  else s.store (blockFrom key i) ((bs.drop (blockFrom key i - key)).take (blockTo key bs.length i - blockFrom key i))

theorem hostStore_blocks (s : State) (key : Nat) (bs : List Byte) : s.hostStore key bs =
    (List.range ((key + bs.length + 63) / 64 - key / 64)).foldl (fun s i => s.hostBlock key bs i) s := rfl

/-- A write of `n` bytes at `key` changes the byte at `a`: its block is not poisoned, or is covered whole. -/
def State.hostTakes (s : State) (key n a : Nat) : Bool :=
  decide (key ≤ a) && decide (a < key + n) &&
    (!s.poisoned a || (decide (key ≤ a / 64 * 64) && decide (a / 64 * 64 + 64 ≤ key + n)))

theorem hostTakes_iff {n a : Nat} : s.hostTakes key n a = true ↔
    key ≤ a ∧ a < key + n ∧ (s.poisoned a = false ∨ (key ≤ a / 64 * 64 ∧ a / 64 * 64 + 64 ≤ key + n)) := by
  simp only [State.hostTakes, Bool.and_eq_true, Bool.or_eq_true, Bool.not_eq_true', decide_eq_true_eq, and_assoc]

theorem wf_hostBlock (hm : Memory.wf s.mem = true) (i : Nat) : Memory.wf (s.hostBlock key bs i).mem = true := by
  unfold State.hostBlock
  split
  · exact hm
  · exact wf_store _ _ _ hm

theorem poisoned_hostBlock {a : Nat} {i : Nat} (ha : a / 64 ≠ key / 64 + i) :
    (s.hostBlock key bs i).poisoned a = s.poisoned a := by
  unfold State.hostBlock
  split
  · rfl
  · simp only [State.poisoned, List.contains_eq_mem, decide_eq_decide, mem_poison_store]
    refine and_iff_left fun ⟨hfrom, hto⟩ => ha ?_
    have hlen : ((bs.drop (blockFrom key i - key)).take (blockTo key bs.length i - blockFrom key i)).length ≤
        blockTo key bs.length i - blockFrom key i := List.length_take_le ..
    simp only [blockFrom, blockTo] at hfrom hto hlen
    omega

/-- The bytes written in block `i` are the write's own. -/
theorem getD_hostBlock {a i : Nat} (hfrom : blockFrom key i ≤ a) (hto : a < blockTo key bs.length i) :
    ((bs.drop (blockFrom key i - key)).take (blockTo key bs.length i - blockFrom key i)).getD (a - blockFrom key i) 0 =
      bs.getD (a - key) 0 := by
  have hin : a - blockFrom key i < blockTo key bs.length i - blockFrom key i := by omega
  have hsum : blockFrom key i - key + (a - blockFrom key i) = a - key := by
    simp only [blockFrom] at hfrom ⊢
    omega
  rw [List.getD_eq_getElem?_getD, List.getElem?_take_of_lt hin, List.getElem?_drop, hsum, ← List.getD_eq_getElem?_getD]

theorem memGet_hostBlock (hm : Memory.wf s.mem = true) (i a : Nat) : memGet a (s.hostBlock key bs i).mem =
    if a / 64 = key / 64 + i ∧ s.hostTakes key bs.length a = true then bs.getD (a - key) 0 else memGet a s.mem := by
  have hblock (ha : a / 64 = key / 64 + i) (hkey : key ≤ a) : s.poisoned (blockFrom key i) = s.poisoned a := by
    have hsame : blockFrom key i / 64 = a / 64 := by simp only [blockFrom]; omega
    rw [State.poisoned, State.poisoned, hsame]
  unfold State.hostBlock
  split
  case isTrue hpart =>
    refine (if_neg ?_).symm
    rintro ⟨ha, htakes⟩
    obtain ⟨hpoison, hpart⟩ := hpart
    obtain ⟨hfrom, hto, hwhole⟩ := hostTakes_iff.mp htakes
    rw [hblock ha hfrom] at hpoison
    simp only [hpoison, reduceCtorEq, false_or] at hwhole
    simp only [blockFrom, blockTo] at hpart
    omega
  case isFalse hall =>
    have hlen : ((bs.drop (blockFrom key i - key)).take (blockTo key bs.length i - blockFrom key i)).length =
        blockTo key bs.length i - blockFrom key i := by
      simp only [List.length_take, List.length_drop, blockFrom, blockTo]
      omega
    have hiff : (blockFrom key i ≤ a ∧ a < blockFrom key i + (blockTo key bs.length i - blockFrom key i)) ↔
        (a / 64 = key / 64 + i ∧ s.hostTakes key bs.length a = true) := by
      rw [hostTakes_iff]
      constructor
      · rintro ⟨hfrom, hto⟩
        have ha : a / 64 = key / 64 + i ∧ key ≤ a ∧ a < key + bs.length := by
          simp only [blockFrom, blockTo] at hfrom hto
          omega
        obtain ⟨ha, hkey, hend⟩ := ha
        refine ⟨ha, hkey, hend, ?_⟩
        rw [hblock ha hkey] at hall
        cases hp : s.poisoned a with
        | false => exact .inl rfl
        | true =>
          simp only [hp, true_and, blockFrom, blockTo] at hall
          exact .inr (by omega)
      · rintro ⟨ha, hkey, hend, -⟩
        simp only [blockFrom, blockTo]
        omega
    refine (memGet_memWrite _ _ hm a).trans ?_
    rw [hlen]
    by_cases hin : blockFrom key i ≤ a ∧ a < blockFrom key i + (blockTo key bs.length i - blockFrom key i)
    · rw [if_pos hin, if_pos (hiff.mp hin)]
      exact getD_hostBlock hin.1 (by omega)
    · rw [if_neg hin, if_neg (hiff.not.mp hin)]

theorem hostTakes_congr {n a : Nat} (h : t.poisoned a = s.poisoned a) : t.hostTakes key n a = s.hostTakes key n a := by
  rw [State.hostTakes, State.hostTakes, h]

/-- After `j` blocks: memory is in its form, later blocks are as poisoned as before, and the bytes of the blocks done stand. -/
structure State.HostWritten (s : State) (key : Nat) (bs : List Byte) (j : Nat) (t : State) : Prop where
  wf : Memory.wf t.mem = true
  poison : ∀ a, key / 64 + j ≤ a / 64 → t.poisoned a = s.poisoned a
  mem : ∀ a, memGet a t.mem =
    if a / 64 < key / 64 + j ∧ s.hostTakes key bs.length a = true then bs.getD (a - key) 0 else memGet a s.mem

theorem hostWritten_blocks (hm : Memory.wf s.mem = true) (j : Nat) :
    s.HostWritten key bs j ((List.range j).foldl (fun s i => s.hostBlock key bs i) s) := by
  induction j with
  | zero =>
    refine ⟨hm, fun _ _ => rfl, fun a => (if_neg ?_).symm⟩
    rintro ⟨hbefore, htakes⟩
    have hkey := (hostTakes_iff.mp htakes).1
    omega
  | succ j ih =>
    rw [List.range_succ, List.foldl_append, List.foldl_cons, List.foldl_nil]
    generalize (List.range j).foldl (fun s i => s.hostBlock key bs i) s = t at ih ⊢
    refine ⟨wf_hostBlock ih.wf j, fun a ha => ?_, fun a => ?_⟩
    · exact (poisoned_hostBlock (by omega)).trans (ih.poison a (by omega))
    · rw [memGet_hostBlock ih.wf, ih.mem]
      by_cases ha : a / 64 = key / 64 + j
      · rw [hostTakes_congr (ih.poison a ha.ge)]
        by_cases htakes : s.hostTakes key bs.length a = true
        · rw [if_pos ⟨ha, htakes⟩, if_pos ⟨by omega, htakes⟩]
        · rw [if_neg fun h => htakes h.2, if_neg fun h => htakes h.2, if_neg fun h => htakes h.2]
      · have hsame : a / 64 < key / 64 + (j + 1) ↔ a / 64 < key / 64 + j := by omega
        simp only [ha, false_and, if_false, hsame]

theorem memGet_hostStore (hm : Memory.wf s.mem = true) (key : Nat) (bs : List Byte) (a : Nat) :
    memGet a (s.hostStore key bs).mem = if s.hostTakes key bs.length a = true then bs.getD (a - key) 0 else memGet a s.mem := by
  rw [hostStore_blocks, (hostWritten_blocks hm _).mem]
  by_cases htakes : s.hostTakes key bs.length a = true
  · have hend := (hostTakes_iff.mp htakes).2.1
    have hblocks : a / 64 < key / 64 + ((key + bs.length + 63) / 64 - key / 64) := by omega
    rw [if_pos ⟨hblocks, htakes⟩, if_pos htakes]
  · rw [if_neg fun h => htakes h.2, if_neg htakes]

theorem memGet_hostAccess (hm : Memory.wf s.mem = true) (kind key a : Nat) :
    memGet a (s.hostAccess kind ptn key len (some bs)).mem =
      if s.hostTakes key (min len bs.length) a = true then bs.getD (a - key) 0 else memGet a s.mem := by
  have hmem : (s.hostAccess kind ptn key len (some bs)).mem = (s.hostStore key (bs.take len)).mem := by
    unfold State.hostAccess
    dsimp only
    split
    · exact tellHost_mem ..
    · rfl
  rw [hmem, memGet_hostStore hm, List.length_take]
  by_cases htakes : s.hostTakes key (min len bs.length) a = true
  · have hend := (hostTakes_iff.mp htakes).2.1
    have hin : a - key < len := by
      have hkey := (hostTakes_iff.mp htakes).1
      omega
    rw [if_pos htakes, if_pos htakes, List.getD_eq_getElem?_getD, List.getElem?_take_of_lt hin, ← List.getD_eq_getElem?_getD]
  · rw [if_neg htakes, if_neg htakes]

/-! ## Trust (R77, R415) -/

section Trust

variable (hp : s.ptn? ptn = some p)
include hp

theorem debugPolicySupply_opens (sets : Nat) (hst : p.tdi = .locked ∨ p.tdi = .run) :
    exec (.debugPolicySupply ptn sets true) s = .next (s.modPtn ptn fun p => { p with debug := sets }) := by
  change execDebugPolicySupply ptn sets true s = _
  have hgo : (true && (p.tdi == .locked || p.tdi == .run)) = true := by rcases hst with h | h <;> rw [h] <;> rfl
  simp only [execDebugPolicySupply, hp, if_pos hgo]

theorem debugPolicySupply_unsigned (sets : Nat) : exec (.debugPolicySupply ptn sets false) s = .next s := by
  change execDebugPolicySupply ptn sets false s = _
  simp only [execDebugPolicySupply, hp, Bool.false_and, Bool.false_eq_true, if_false]

theorem debugPolicySupply_closed (sets : Nat) (hst : p.tdi = .unlocked ∨ p.tdi = .error) :
    exec (.debugPolicySupply ptn sets true) s = .next s := by
  change execDebugPolicySupply ptn sets true s = _
  have hgo : ¬ (true && (p.tdi == .locked || p.tdi == .run)) = true := by
    rcases hst with h | h <;> rw [h] <;> exact nofun
  simp only [execDebugPolicySupply, hp, if_neg hgo]

/-- A change of state, and the debug controls that it shuts. -/
theorem tdiStateChange_step (st : Tdi) :
    let tdi := s.modPtn ptn fun p =>
      { p with tdi := st, debug := if (p.tdi = .run ∧ st ≠ .run) ∨ st = .error then 0 else p.debug }
    exec (.tdiStateChange ptn st) s = if st = .error ∨ st = .unlocked then .next (tdi.resetVf ptn) else .next tdi := by
  intro tdi
  have hsame : (s.modPtn ptn fun q =>
      { q with tdi := st, debug := if (p.tdi == .run && st != .run) || st == .error then 0 else q.debug }) = tdi :=
    modPtn_congr hp (by simp [bne_iff_ne])
  change execTdiStateChange ptn st s = _
  simp only [execTdiStateChange, hp, hsame]

/-- A partition once a manifest has been signed for it. -/
def Ptn.signedAs (p : Ptn) (man : List Byte) : Ptn :=
  { p with
    man := putBytes man 8 (leBytes 8 Config.firmware)
    keys := ((manEntries man).filter fun e => recNat e 0 2 == 5 && decide (recNat e 4 4 < 16)).map fun e =>
      (recNat e 4 4, (e.drop 8).take 16)
    hashes := ((manEntries man).filter fun e => recNat e 0 2 == 1).map fun e => (e.drop 16).take 48 }

omit hp in
theorem mem_signedAs_keys {n : Nat} {key : List Byte} : (n, key) ∈ (p.signedAs man).keys ↔
    n < 16 ∧ ∃ e ∈ manEntries man, recNat e 0 2 = 5 ∧ recNat e 4 4 = n ∧ (e.drop 8).take 16 = key := by
  simp only [Ptn.signedAs, List.mem_map, List.mem_filter, Bool.and_eq_true, beq_iff_eq, decide_eq_true_eq, Prod.mk.injEq]
  constructor
  · rintro ⟨e, ⟨he, hkind, hid⟩, rfl, rfl⟩
    exact ⟨hid, e, he, hkind, rfl, rfl⟩
  · rintro ⟨hid, e, he, hkind, rfl, rfl⟩
    exact ⟨e, ⟨he, hkind, hid⟩, rfl, rfl⟩

omit hp in
/-- A manifest of another version, or for newer firmware, is refused. -/
theorem manifestSign_refused
    (hbad : recNat man 0 2 ≠ 1 ∨ ∃ e ∈ manEntries man, recNat e 0 2 = 6 ∧ Config.firmware < recNat e 8 8) :
    exec (.manifestSign ptn man) s = .next (s.tellHost 4 ptn [] false) :=
  if_pos (hbad.imp_right fun h => by simpa using h)

omit hp in
theorem manifestSign_signs (hversion : recNat man 0 2 = 1)
    (hold : ¬ ∃ e ∈ manEntries man, recNat e 0 2 = 6 ∧ Config.firmware < recNat e 8 8) : exec (.manifestSign ptn man) s =
      .next (State.tellHost (s.modPtn ptn fun p => p.signedAs man) 4 ptn (putBytes man 8 (leBytes 8 Config.firmware) ++
        Config.signature (putBytes man 8 (leBytes 8 Config.firmware))) false) := by
  refine if_neg ?_
  rintro (hbad | hnewer)
  · exact hbad hversion
  · exact hold (by simpa using hnewer)

end Trust

/-! ## A function is reset (R405) -/

/-- The task has ended or is cancelled. -/
def Task.over (k : Task) : Prop := k.st = .ended ∨ k.cancelled = true

/-- Every task of `t` stood in `s` under the same name, and is over if it was. -/
def State.TasksFrom (s t : State) : Prop :=
  ∀ k ∈ t.tasks, ∃ k0 ∈ s.tasks, k0.ptn = k.ptn ∧ k0.lseq = k.lseq ∧ (k0.over → k.over)

/-- Every task of a name is over. -/
def State.Over (s : State) (ptn lseq : Nat) : Prop := ∀ k ∈ s.tasks, k.ptn = ptn → k.lseq = lseq → k.over

theorem State.TasksFrom.of_subset (h : ∀ k ∈ t.tasks, k ∈ s.tasks) : s.TasksFrom t := fun k hk => ⟨k, h k hk, rfl, rfl, id⟩

theorem State.TasksFrom.of_eq (h : t.tasks = s.tasks) : s.TasksFrom t := .of_subset fun _ hk => h ▸ hk

theorem State.TasksFrom.trans (h : s.TasksFrom t) (h' : t.TasksFrom u) : s.TasksFrom u := by
  intro k hk
  obtain ⟨k1, hk1, hptn1, hlseq1, hover1⟩ := h' k hk
  obtain ⟨k0, hk0, hptn0, hlseq0, hover0⟩ := h k1 hk1
  exact ⟨k0, hk0, hptn0.trans hptn1, hlseq0.trans hlseq1, fun h => hover1 (hover0 h)⟩

theorem State.Over.of_from {q lseq : Nat} (h : s.Over q lseq) (ht : s.TasksFrom t) : t.Over q lseq := by
  intro k hk hptn hlseq
  obtain ⟨k0, hk0, hptn0, hlseq0, hover⟩ := ht k hk
  exact hover (h k0 hk0 (hptn0.trans hptn) (hlseq0.trans hlseq))

section ModTask

variable {f : Task → Task} (hkey : ∀ k, (f k).ptn = k.ptn ∧ (f k).lseq = k.lseq)
include hkey

theorem modTask_tasksFrom (hover : ∀ k, k.over → (f k).over) (s : State) (q lseq : Nat) : s.TasksFrom (s.modTask q lseq f) := by
  intro k hk
  obtain ⟨k0, hk0, rfl⟩ := List.mem_map.mp hk
  refine ⟨k0, hk0, ?_⟩
  split
  · exact ⟨(hkey k0).1.symm, (hkey k0).2.symm, hover k0⟩
  · exact ⟨rfl, rfl, id⟩

omit hkey in
theorem modTask_over (hover : ∀ k, (f k).over) (s : State) (q lseq : Nat) : (s.modTask q lseq f).Over q lseq := by
  intro k hk hptn hlseq
  obtain ⟨k0, hk0, rfl⟩ := List.mem_map.mp hk
  split
  · exact hover k0
  · next hno =>
    simp only [hno, if_false] at hptn hlseq
    exact absurd ⟨hptn, hlseq⟩ hno

end ModTask

/-- A fold that keeps an element or drops it yields no others. -/
theorem foldl_fst_mem {α β : Type} {step : List α × β → α → List α × β}
    (h : ∀ acc a, ∀ k ∈ (step acc a).1, k ∈ acc.1 ∨ k = a) (l : List α) (acc : List α × β) :
    ∀ k ∈ (l.foldl step acc).1, k ∈ acc.1 ∨ k ∈ l := by
  induction l generalizing acc with
  | nil => exact fun k hk => .inl hk
  | cons a l ih =>
    intro k hk
    rcases ih (step acc a) k hk with hacc | hl
    · rcases h acc a k hacc with hacc | rfl
      · exact .inl hacc
      · exact .inr List.mem_cons_self
    · exact .inr (List.mem_cons_of_mem a hl)

theorem forget_tasksFrom (s : State) (q die : Nat) : s.TasksFrom (s.forget q die) := by
  refine .of_subset fun k hk => (foldl_fst_mem ?_ s.tasks _ k hk).resolve_left List.not_mem_nil
  intro acc a k hk
  split at hk
  · exact .inl hk
  · exact (List.mem_append.mp hk).imp_right List.mem_singleton.mp

theorem postRecord_tasksFrom (s : State) (q lseq : Nat) : s.TasksFrom (s.postRecord q lseq) := by
  unfold State.postRecord
  split
  · exact .of_eq rfl
  · split
    · refine .trans ?_ (forget_tasksFrom _ _ _)
      refine .trans (.of_eq (by rfl)) (modTask_tasksFrom ?_ ?_ _ q lseq)
      · exact fun _ => ⟨rfl, rfl⟩
      · exact fun _ h => h
    · refine modTask_tasksFrom ?_ ?_ s q lseq
      · exact fun _ => ⟨rfl, rfl⟩
      · exact fun _ h => h

theorem retire_tasks (s : State) (rg : Nat) : (s.retire rg).tasks = s.tasks := by
  unfold State.retire
  split
  · rfl
  · refine foldl_proj (g := State.tasks) ?_ _ s
    exact fun _ _ => rfl

theorem endTask_tasksFrom (s : State) (q lseq status : Nat) : s.TasksFrom (s.endTask q lseq status) := by
  unfold State.endTask
  split
  · exact .of_eq rfl
  · refine .trans ?_ (postRecord_tasksFrom _ _ _)
    refine .trans (.of_eq (foldl_proj (g := State.tasks) retire_tasks _ s)) (modTask_tasksFrom ?_ ?_ _ q lseq)
    · exact fun _ => ⟨rfl, rfl⟩
    · exact fun _ _ => .inl rfl

/-- A task of a name marked cancelled: tasks go over, and none comes back. -/
theorem modTask_cancels {f : Task → Task} (hkey : ∀ k, (f k).ptn = k.ptn ∧ (f k).lseq = k.lseq)
    (hcancel : ∀ k, (f k).cancelled = true) (s : State) (q lseq : Nat) :
    s.TasksFrom (s.modTask q lseq f) ∧ (s.modTask q lseq f).Over q lseq :=
  ⟨modTask_tasksFrom hkey (fun k _ => .inr (hcancel k)) s q lseq, modTask_over (fun k => .inr (hcancel k)) s q lseq⟩

/-- Cancelling a task leaves every task of its name over, and takes back nothing. -/
theorem cancelTask_over (s : State) (k : Task) : s.TasksFrom (s.cancelTask k) ∧ (s.cancelTask k).Over k.ptn k.lseq := by
  unfold State.cancelTask
  split
  · have hmark := modTask_cancels (f := fun k => { k with cancelled := true }) (fun _ => ⟨rfl, rfl⟩) (fun _ => rfl)
      (s.lqDrop k.die k.queue k.ptn k.lseq) k.ptn k.lseq
    have hend := endTask_tasksFrom ((s.lqDrop k.die k.queue k.ptn k.lseq).modTask k.ptn k.lseq fun k =>
      { k with cancelled := true }) k.ptn k.lseq 1
    exact ⟨.trans (.of_eq rfl) (hmark.1.trans hend), hmark.2.of_from hend⟩
  · dsimp only
    have htasks : (k.rgs.foldl (fun s g => s.modRegion g Region.cancelTts) s).tasks = s.tasks :=
      foldl_proj (g := State.tasks) (step := fun s g => s.modRegion g Region.cancelTts) (fun _ _ => rfl) k.rgs s
    refine (modTask_cancels ?_ ?_ _ k.ptn k.lseq).imp_left (.trans (.of_eq htasks))
    · exact fun _ => ⟨rfl, rfl⟩
    · exact fun _ => rfl

theorem cancelTasks_over (l : List Task) (s : State) :
    s.TasksFrom (l.foldl State.cancelTask s) ∧ ∀ k ∈ l, (l.foldl State.cancelTask s).Over k.ptn k.lseq := by
  induction l generalizing s with
  | nil => exact ⟨.of_eq rfl, fun k hk => absurd hk List.not_mem_nil⟩
  | cons a l ih =>
    obtain ⟨hfrom, hover⟩ := cancelTask_over s a
    obtain ⟨hfroms, hovers⟩ := ih (s.cancelTask a)
    refine ⟨hfrom.trans hfroms, fun k hk => ?_⟩
    rcases List.mem_cons.mp hk with rfl | hk
    · exact hover.of_from hfroms
    · exact hovers k hk

/-- After a reset every task of the function has ended or is cancelled. -/
theorem resetVf_over (s : State) (ptn : Nat) {k : Task} (hk : k ∈ (s.resetVf ptn).tasks) (hptn : k.ptn = ptn) : k.over := by
  obtain ⟨hfrom, hovers⟩ := cancelTasks_over (s.tasks.filter fun k => k.ptn == ptn && k.st != .ended && !k.cancelled) s
  obtain ⟨k0, hk0, hptn0, hlseq0, hover⟩ := hfrom k hk
  by_cases hdone : k0.over
  · exact hover hdone
  · obtain ⟨hst, hcancel⟩ := not_or.mp hdone
    have hlive : k0 ∈ s.tasks.filter fun k => k.ptn == ptn && k.st != .ended && !k.cancelled := by
      refine List.mem_filter.mpr ⟨hk0, ?_⟩
      simp [hptn0.trans hptn, hst, hcancel]
    exact hovers k0 hlive k hk hptn0.symm hlseq0.symm

/-- Settles O59. Each clause is the equation of its event; a write's bytes follow block by block, and a reset cancels task by
task. That other register writes have no effect (log 9), that BAR2 is translated in ASID 1 (log 51), partial writes to poisoned
blocks (log 134), partly allowed accesses (log 142), the states in which a debug policy is taken (log 143), and the manifest
entries used (log 107), is the model's choice. -/
theorem hostEvents : Obligations.HostEvents := by
  unfold Obligations.HostEvents
  intro s ptn off pa len sets v req bs man st p upd step newer signed mine n takes ready tdi hp
  refine ⟨hostMbxWrite_writes hp v, hostNotifyRead_empty hp, fun w l hword => hostNotifyRead_oldest hp hword, rfl,
    ⟨hostRegisterWrite_notVec v, fun hoff => hostRegisterWrite_other hoff v⟩, rfl,
    fun hmine hlen hok => ⟨cxlMemAccess_own hp hmine hlen hok none, cxlMemAccess_own hp hmine hlen hok (some bs)⟩,
    fun hno hlen => ⟨cxlMemAccess_other hp hno hlen none, cxlMemAccess_other hp hno hlen (some bs)⟩,
    fun e hin hmine hwalk hvault hleaf => ⟨fun hmay => bar2WindowAccess_vault hp hin hmine hwalk hvault hleaf (w := none) hmay,
      fun hmay => bar2WindowAccess_vault hp hin hmine hwalk hvault hleaf (w := some bs) hmay⟩,
    fun hm kind k a => memGet_hostAccess hm kind k a,
    fun hpf => ⟨bar2WindowAccess_pf hpf none, bar2WindowAccess_pf hpf (some bs)⟩, ?registers,
    fun hno => ⟨bar2WindowAccess_outside hp hno none, bar2WindowAccess_outside hp hno (some bs)⟩, rfl,
    fun hst => ⟨debugPolicySupply_opens hp sets hst, debugPolicySupply_unsigned hp sets⟩, debugPolicySupply_closed hp sets,
    manifestSign_refused, fun hversion hold => ⟨_, manifestSign_signs hversion hold, p.signedAs man, ?signed, rfl,
      fun _ _ => mem_signedAs_keys⟩,
    fun hst => ?stays, fun hst => ?resets, ⟨_, rfl, fun k hk hptn => resetVf_over s ptn hk hptn⟩⟩
  case registers =>
    have hready (d : Nat) : ready.map (·.getLsbD d) = some (decide (d < 11) && s.bring.readyBit d) :=
      congrArg some (readyWord_getLsbD s.bring d)
    refine ⟨fun d hd => (hready d).trans ?_, hready 8, hready 9, hready 10, fun d hd => (hready d).trans ?_, hostRegister_mbx hp,
      ?_, ?_, fun hpf => ?_⟩
    · simp [Bring.readyBit, hd, show d < 11 by omega]
    · simp [show ¬ d < 11 by omega]
    · exact congrArg (Option.map _) hp
    · simp only [State.hostRegister, hp, Option.isSome_some, if_true]
    · simp only [State.hostRegister, hpf, Option.isSome_none, Bool.false_eq_true, if_false]
      rfl
  case signed => exact (ptn?_modPtn_same ..).trans (congrArg (Option.map _) hp)
  case stays => exact (tdiStateChange_step hp st).trans (if_neg (by rcases hst with rfl | rfl <;> simp))
  case resets => exact (tdiStateChange_step hp st).trans (if_pos hst)

end Sys2Proof.Machine
end
